-- ==== Sys2Proof/Word.lean ====
section
/-! DEFINITION. The word types of the machine and their plainest arithmetic. -/

namespace Sys2Proof

/-- A 64-bit register value or object reference (R25, R187). -/
abbrev Word := BitVec 64

/-- A 256-bit vector register value (R195). -/
abbrev VWord := BitVec 256

/-- One byte (R3). -/
abbrev Byte := BitVec 8

namespace Word

/-- The bits [hi:lo] of a word as a natural number, bit 0 the least significant (R3). -/
def bits (x : Word) (hi lo : Nat) : Nat := x.toNat / 2 ^ lo % 2 ^ (hi + 1 - lo)

/-- A word from a natural number, taken mod 2^64. -/
def ofN (n : Nat) : Word := BitVec.ofNat 64 n

/-- A word from an integer, taken mod 2^64. -/
def ofI (n : Int) : Word := BitVec.ofInt 64 n

/-- The word that is 1 when the condition holds and 0 otherwise. -/
def flag (b : Bool) : Word := if b then 1 else 0

end Word

end Sys2Proof
end

