-- ==== Sys2Proof/Syntax.lean ====
section
/-! DEFINITION. The instructions and events of the machine: one constructor of `Instr` for every row of the
opcode table (spec/opcode_table.json), and the operand types they use. An encoded field that names a register,
an immediate or a code the machine computes with stays a bit vector; a field that names one of a fixed set is an
inductive type. -/

namespace Sys2Proof

/-- Element or access width codes: .b (8 bits), .h (16), .w (32), .d (64) (R163, R195, R272). -/
inductive Width | w8 | w16 | w32 | w64
  deriving DecidableEq, Repr

/-- Memory orders (chapter 11): .rlx, .acq, .rel, .ar. -/
inductive Order | rlx | acq | rel | ar
  deriving DecidableEq, Repr

/-- Scopes (R311): .ctx, .core, .cl, .die, .pkg, .sys. -/
inductive Scope | ctx | core | cl | die | pkg | sys
  deriving DecidableEq, Repr

/-- Integer element types (R195). -/
inductive IntTy | s8 | s16 | s32 | n8 | n16 | n32
  deriving DecidableEq, Repr

/-- Floating-point element types (R195). -/
inductive FltTy | f32 | bf16 | f16
  deriving DecidableEq, Repr

/-- The type of a reduction: integer (F = 0) or float (F = 1) (R212). -/
inductive NumTy
  | int (ty : IntTy)
  | flt (ty : FltTy)
  deriving DecidableEq, Repr

/-- Compare conditions (R213). -/
inductive Cond | eq | ne | lt | le | gt | ge | un
  deriving DecidableEq, Repr

/-- Rounding modes (R68, R206): .rne, .rz, .sr. -/
inductive RMode | rne | rz | sr
  deriving DecidableEq, Repr

/-- Formats of VPACK and VUNPK (R209). -/
inductive PackFmt | e4m3 | e5m2 | e3m2 | e2m3 | e2m1 | i8 | i4
  deriving DecidableEq, Repr

/-- Tiers that EINJ names (R179). -/
inductive Tier | lm | l1 | cc | msc | hbm
  deriving DecidableEq, Repr

/-- A logical core: the reference of its task's TCB, its LCORE, and its copy (0 primary, 1 twin) (R96, R107). -/
structure CoreId where
  task : Word
  lcore : Nat
  copy : Nat
  deriving DecidableEq, Repr

/-- A context of a logical core: its core and its number 0-10. -/
structure CtxId where
  core : CoreId
  num : Nat
  deriving DecidableEq, Repr

/-- Why a SPIN wait ends (R139). -/
inductive SpinEnd | changed | event | switched | limit
  deriving DecidableEq, Repr

/-- How a class 3 read completes (R454, R455): with data, or with Unsupported Request or Completer Abort
(reason 5), or with poisoned data (reason 6). -/
inductive HostReply | data | unsupported | poisoned
  deriving DecidableEq, Repr

/-- What packages say to each other about a line (R338, R341). To the home: a request for rights, the return of rights with
dirty data or without, and a proxy entry that has become LOST. To a package with a proxy entry: a grant, to own or to share,
a shared one exclusive or not; and a forward or an invalidation, for a request to own or to share. -/
inductive ProxyMsg
  | request (own : Bool)
  | giveBack (dirty : Bool)
  | lost
  | grant (own exclusive : Bool)
  | forward (own : Bool)
  deriving DecidableEq, Repr

/-- What the dispatchers of two packages say to each other of a window group (R106): the other package grants a group of a task
held here, with the slot and position of each of its logical cores in order, or refuses it with an empty list; it tells whether a
logical core bound there is resident (R107); it asks for cores of this package for a group of a task held there, of so many gangs of
so many cores each, of a task with or without TWIN; or it tells the slots of its usable set (R115). -/
inductive BindMsg
  | answer (places : List (Nat × Nat))
  | resident (lcore copy : Nat) (res : Bool)
  | ask (gangs size : Nat) (twin : Bool)
  | usable (slots : List Nat)
  deriving DecidableEq, Repr

/-- Reachability states of a remote package (R346). -/
inductive Reach | up | unreachable | reset | down
  deriving DecidableEq, Repr

/-- A flit of the fabric (R457): its flow (a source number, a destination package and die, a traffic class), its
16-bit sequence number within the flow, its 64 bytes, and the non-minimal hops that it has taken so far. -/
structure Flit where
  source : Nat
  package : BitVec 13
  die : BitVec 3
  cls : BitVec 2
  seq : BitVec 16
  bytes : List Byte
  detours : Nat
  deriving DecidableEq, Repr

/-- Triggers of a rollback (R425): 1 STRUCT, 2 deferred, 3 TWIN, 4 fence. -/
inductive RbTrigger | struct | deferred | twin | fence
  deriving DecidableEq, Repr

/-- Triggers of a die fence (R425, kind 0x06). -/
inductive FenceTrigger | containment | supply | firmware
  deriving DecidableEq, Repr

/-- One reading of an ageing monitor (R425, kind 0x03). -/
structure AgeReading where
  monitor : BitVec 8
  site : BitVec 16
  count : BitVec 32
  margin : BitVec 32
  supply : BitVec 16
  temperature : BitVec 16
  deriving DecidableEq, Repr

/-- What a start found on one die (R460, R463): its self-test left a usable task core, the units that it harvested, some supply
voltage gave the margin of R463, the monitor samples used for that, its service-core image and Archaism image verified, the
Archaism words and the coefficients loaded. -/
structure DieStart where
  usableCore : Bool
  marginMet : Bool
  imagesVerified : Bool
  archaism : List (BitVec 32)
  energy : List (BitVec 32)
  harvested : List Nat
  samples : List AgeReading
  deriving DecidableEq, Repr

/-- A task that is held, and the package whose dispatcher holds it (R106). -/
structure HeldTask where
  ref : Word
  package : BitVec 13
  deriving DecidableEq, Repr

/-- The device-private registers that supervisor firmware writes and whose write has no behaviour beyond setting
their RW fields (R6): each names its rule. -/
inductive DevReg
  /-- word `w` of queue `q`'s configuration record, EN excepted (R77). -/
  | queueCfg (q : BitVec 6) (w : Nat)
  /-- the supervisor queue mask (R395). -/
  | supervisorMask
  /-- the injection mask (R186). -/
  | injectionMask
  /-- the test mask (R438). -/
  | testMask
  /-- queue `q`'s severity policy entry (R422). -/
  | sevpolEntry (q : BitVec 6)
  /-- the placement control register (R104). -/
  | placeCtl
  /-- the dispatcher status window (R108). -/
  | statusTask
  | statusIndex
  /-- the migration coefficients of a die's port (R268). -/
  | migc0 (die : BitVec 3)
  | migc1 (die : BitVec 3)
  /-- the overflow list configuration of a die (R381). -/
  | overflowBase (die : BitVec 3)
  | overflowCapacity (die : BitVec 3)
  /-- the telemetry ring configuration of a die (R424). -/
  | telemetryBase (die : BitVec 3)
  | telemetryEntries (die : BitVec 3)
  | telemetryConsumer (die : BitVec 3)
  | telemetryLc (die : BitVec 3)
  /-- the mixed-size check mask of a die (R330). -/
  | mixedMask (die : BitVec 3)
  /-- the selector word of a Conjunction die's directory control window (R348). -/
  | dirSelect (cdie : BitVec 1)
  /-- 8 bytes of the bank's copy of the line a control window selects (R343). -/
  | bankWord (cdie : BitVec 1) (off : BitVec 4)
  /-- 8 bytes of the MSI-X table, which the host writes in BAR0 (R453). -/
  | msixTable (i : BitVec 4)
  /-- the power limit (R462). -/
  | plim
  /-- entry `i` of a die's energy coefficient table (R448). -/
  | energy (die : BitVec 3) (i : BitVec 5)
  /-- creation of a metering record with this number (R90, R449). -/
  | meterCreate (n : BitVec 32)
  /-- one 64-bit word of a device-private table: object tables, extent lists, replica-set table (R28, R255, R270). -/
  | table (addr : Nat)
  /-- one 64-bit word of a frame entry that is not RES or MOVING (R256, R257). -/
  | frameEntry (addr : Nat)
  /-- a frame made free for a die's port to take, or taken back: bit 63 and the stack and frame fields of R256 (R269). -/
  | freeFrame (die : BitVec 3)
  /-- the test-kernel record of a kernel that a task core has run: its slot, the test queue, the result and the kernel number; the
  value is the first 8 bytes of the digest obtained (R425, R438). -/
  | testRecord (slot : BitVec 16) (queue : BitVec 6) (result : BitVec 8) (kernel : BitVec 32)
  deriving DecidableEq, Repr

/-- The instructions and events: one constructor per row of the opcode table: the words with
fields, the words without, then the events. -/
inductive Instr
  /-- ADD (R158). -/
  | add (d : BitVec 6) (a : BitVec 6) (b : BitVec 6)
  /-- SUB (R158). -/
  | sub (d : BitVec 6) (a : BitVec 6) (b : BitVec 6)
  /-- AND (R158). -/
  | and (d : BitVec 6) (a : BitVec 6) (b : BitVec 6)
  /-- OR (R158). -/
  | or (d : BitVec 6) (a : BitVec 6) (b : BitVec 6)
  /-- XOR (R158). -/
  | xor (d : BitVec 6) (a : BitVec 6) (b : BitVec 6)
  /-- ANDN (R158). -/
  | andn (d : BitVec 6) (a : BitVec 6) (b : BitVec 6)
  /-- ORN (R158). -/
  | orn (d : BitVec 6) (a : BitVec 6) (b : BitVec 6)
  /-- XNOR (R158). -/
  | xnor (d : BitVec 6) (a : BitVec 6) (b : BitVec 6)
  /-- SHL (R158). -/
  | shl (d : BitVec 6) (a : BitVec 6) (b : BitVec 6)
  /-- SHR (R158). -/
  | shr (d : BitVec 6) (a : BitVec 6) (b : BitVec 6)
  /-- SAR (R158). -/
  | sar (d : BitVec 6) (a : BitVec 6) (b : BitVec 6)
  /-- ROL (R158). -/
  | rol (d : BitVec 6) (a : BitVec 6) (b : BitVec 6)
  /-- ROR (R158). -/
  | ror (d : BitVec 6) (a : BitVec 6) (b : BitVec 6)
  /-- SLT (R158). -/
  | slt (d : BitVec 6) (a : BitVec 6) (b : BitVec 6)
  /-- SLTU (R158). -/
  | sltu (d : BitVec 6) (a : BitVec 6) (b : BitVec 6)
  /-- SEQ (R158). -/
  | seq (d : BitVec 6) (a : BitVec 6) (b : BitVec 6)
  /-- SNE (R158). -/
  | sne (d : BitVec 6) (a : BitVec 6) (b : BitVec 6)
  /-- MIN (R158). -/
  | minS (d : BitVec 6) (a : BitVec 6) (b : BitVec 6)
  /-- MAX (R158). -/
  | maxS (d : BitVec 6) (a : BitVec 6) (b : BitVec 6)
  /-- MINU (R158). -/
  | minU (d : BitVec 6) (a : BitVec 6) (b : BitVec 6)
  /-- MAXU (R158). -/
  | maxU (d : BitVec 6) (a : BitVec 6) (b : BitVec 6)
  /-- MUL (R158). -/
  | mul (d : BitVec 6) (a : BitVec 6) (b : BitVec 6)
  /-- MULH (R158). -/
  | mulh (d : BitVec 6) (a : BitVec 6) (b : BitVec 6)
  /-- MULHU (R158). -/
  | mulhu (d : BitVec 6) (a : BitVec 6) (b : BitVec 6)
  /-- DIV (R159). -/
  | div (d : BitVec 6) (a : BitVec 6) (b : BitVec 6)
  /-- DIVU (R159). -/
  | divu (d : BitVec 6) (a : BitVec 6) (b : BitVec 6)
  /-- REM (R159). -/
  | rem (d : BitVec 6) (a : BitVec 6) (b : BitVec 6)
  /-- REMU (R159). -/
  | remu (d : BitVec 6) (a : BitVec 6) (b : BitVec 6)
  /-- ADDW (R160). -/
  | addw (d : BitVec 6) (a : BitVec 6) (b : BitVec 6)
  /-- SUBW (R160). -/
  | subw (d : BitVec 6) (a : BitVec 6) (b : BitVec 6)
  /-- SHLW (R160). -/
  | shlw (d : BitVec 6) (a : BitVec 6) (b : BitVec 6)
  /-- SHRW (R160). -/
  | shrw (d : BitVec 6) (a : BitVec 6) (b : BitVec 6)
  /-- SARW (R160). -/
  | sarw (d : BitVec 6) (a : BitVec 6) (b : BitVec 6)
  /-- MULW (R160). -/
  | mulw (d : BitVec 6) (a : BitVec 6) (b : BitVec 6)
  /-- LOP3 (R164). -/
  | lop3 (d : BitVec 6) (a : BitVec 6) (b : BitVec 5) (t : BitVec 8)
  /-- FSHL (R165). -/
  | fshl (d : BitVec 6) (a : BitVec 6) (b : BitVec 5) (w : Width) (s : BitVec 6)
  /-- CLZ (R166). -/
  | clz (d : BitVec 6) (a : BitVec 6) (w : Width)
  /-- CTZ (R166). -/
  | ctz (d : BitVec 6) (a : BitVec 6) (w : Width)
  /-- POPC (R166). -/
  | popc (d : BitVec 6) (a : BitVec 6) (w : Width)
  /-- FFS (R166). -/
  | ffs (d : BitVec 6) (a : BitVec 6) (w : Width)
  /-- BREV (R166). -/
  | brev (d : BitVec 6) (a : BitVec 6) (w : Width)
  /-- BSWAP (R166). -/
  | bswap (d : BitVec 6) (a : BitVec 6) (w : Width)
  /-- ADDI (R161). -/
  | addi (d : BitVec 6) (a : BitVec 6) (imm : BitVec 14)
  /-- ANDI (R161). -/
  | andi (d : BitVec 6) (a : BitVec 6) (imm : BitVec 14)
  /-- ORI (R161). -/
  | ori (d : BitVec 6) (a : BitVec 6) (imm : BitVec 14)
  /-- XORI (R161). -/
  | xori (d : BitVec 6) (a : BitVec 6) (imm : BitVec 14)
  /-- SLTI (R161). -/
  | slti (d : BitVec 6) (a : BitVec 6) (imm : BitVec 14)
  /-- SLTIU (R161). -/
  | sltiu (d : BitVec 6) (a : BitVec 6) (imm : BitVec 14)
  /-- SHLI (R162). -/
  | shli (d : BitVec 6) (a : BitVec 6) (n : BitVec 6)
  /-- SHRI (R162). -/
  | shri (d : BitVec 6) (a : BitVec 6) (n : BitVec 6)
  /-- SARI (R162). -/
  | sari (d : BitVec 6) (a : BitVec 6) (n : BitVec 6)
  /-- RORI (R162). -/
  | rori (d : BitVec 6) (a : BitVec 6) (n : BitVec 6)
  /-- EXTZ (R167). -/
  | extz (d : BitVec 6) (a : BitVec 6) (p : BitVec 6) (l : BitVec 6)
  /-- EXTS (R167). -/
  | exts (d : BitVec 6) (a : BitVec 6) (p : BitVec 6) (l : BitVec 6)
  /-- DEP (R167). -/
  | dep (d : BitVec 6) (a : BitVec 6) (p : BitVec 6) (l : BitVec 6)
  /-- LDS (R273). -/
  | lds (d : BitVec 6) (a : BitVec 6) (imm : BitVec 12) (w : Width)
  /-- LDZ (R273). -/
  | ldz (d : BitVec 6) (a : BitVec 6) (imm : BitVec 12) (w : Width)
  /-- ST (R273). -/
  | st (c : BitVec 6) (a : BitVec 6) (imm : BitVec 12) (w : Width)
  /-- AMOADD_W (R278). -/
  | amoaddW (d : BitVec 6) (a : BitVec 6) (b : BitVec 6) (ord : Order) (sc : Scope)
  /-- AMOAND_W (R278). -/
  | amoandW (d : BitVec 6) (a : BitVec 6) (b : BitVec 6) (ord : Order) (sc : Scope)
  /-- AMOOR_W (R278). -/
  | amoorW (d : BitVec 6) (a : BitVec 6) (b : BitVec 6) (ord : Order) (sc : Scope)
  /-- AMOXOR_W (R278). -/
  | amoxorW (d : BitVec 6) (a : BitVec 6) (b : BitVec 6) (ord : Order) (sc : Scope)
  /-- AMOMIN_W (R278). -/
  | amominW (d : BitVec 6) (a : BitVec 6) (b : BitVec 6) (ord : Order) (sc : Scope)
  /-- AMOMAX_W (R278). -/
  | amomaxW (d : BitVec 6) (a : BitVec 6) (b : BitVec 6) (ord : Order) (sc : Scope)
  /-- AMOMINU_W (R278). -/
  | amominuW (d : BitVec 6) (a : BitVec 6) (b : BitVec 6) (ord : Order) (sc : Scope)
  /-- AMOMAXU_W (R278). -/
  | amomaxuW (d : BitVec 6) (a : BitVec 6) (b : BitVec 6) (ord : Order) (sc : Scope)
  /-- AMOADD_D (R278). -/
  | amoaddD (d : BitVec 6) (a : BitVec 6) (b : BitVec 6) (ord : Order) (sc : Scope)
  /-- AMOAND_D (R278). -/
  | amoandD (d : BitVec 6) (a : BitVec 6) (b : BitVec 6) (ord : Order) (sc : Scope)
  /-- AMOOR_D (R278). -/
  | amoorD (d : BitVec 6) (a : BitVec 6) (b : BitVec 6) (ord : Order) (sc : Scope)
  /-- AMOXOR_D (R278). -/
  | amoxorD (d : BitVec 6) (a : BitVec 6) (b : BitVec 6) (ord : Order) (sc : Scope)
  /-- AMOMIN_D (R278). -/
  | amominD (d : BitVec 6) (a : BitVec 6) (b : BitVec 6) (ord : Order) (sc : Scope)
  /-- AMOMAX_D (R278). -/
  | amomaxD (d : BitVec 6) (a : BitVec 6) (b : BitVec 6) (ord : Order) (sc : Scope)
  /-- AMOMINU_D (R278). -/
  | amominuD (d : BitVec 6) (a : BitVec 6) (b : BitVec 6) (ord : Order) (sc : Scope)
  /-- AMOMAXU_D (R278). -/
  | amomaxuD (d : BitVec 6) (a : BitVec 6) (b : BitVec 6) (ord : Order) (sc : Scope)
  /-- SWP (R277). -/
  | swp (d : BitVec 6) (a : BitVec 6) (b : BitVec 6) (ord : Order) (sc : Scope) (dw : Bool)
  /-- CAS (R277). -/
  | cas (d : BitVec 6) (a : BitVec 6) (b : BitVec 6) (ord : Order) (sc : Scope) (dw : Bool)
  /-- LDO (R277). -/
  | ldo (d : BitVec 6) (a : BitVec 6) (ord : Order) (sc : Scope) (dw : Bool)
  /-- STO (R277). -/
  | sto (a : BitVec 6) (b : BitVec 6) (ord : Order) (sc : Scope) (dw : Bool)
  /-- REDADD (R282). -/
  | redadd (dw : Bool) (a : BitVec 6) (b : BitVec 6) (rel : Bool) (sc : Scope)
  /-- REDAND (R282). -/
  | redand (dw : Bool) (a : BitVec 6) (b : BitVec 6) (rel : Bool) (sc : Scope)
  /-- REDOR (R282). -/
  | redor (dw : Bool) (a : BitVec 6) (b : BitVec 6) (rel : Bool) (sc : Scope)
  /-- REDXOR (R282). -/
  | redxor (dw : Bool) (a : BitVec 6) (b : BitVec 6) (rel : Bool) (sc : Scope)
  /-- REDMIN (R282). -/
  | redmin (dw : Bool) (a : BitVec 6) (b : BitVec 6) (rel : Bool) (sc : Scope)
  /-- REDMAX (R282). -/
  | redmax (dw : Bool) (a : BitVec 6) (b : BitVec 6) (rel : Bool) (sc : Scope)
  /-- REDMINU (R282). -/
  | redminu (dw : Bool) (a : BitVec 6) (b : BitVec 6) (rel : Bool) (sc : Scope)
  /-- REDMAXU (R282). -/
  | redmaxu (dw : Bool) (a : BitVec 6) (b : BitVec 6) (rel : Bool) (sc : Scope)
  /-- REDACC (R283). -/
  | redacc (d : BitVec 6) (a : BitVec 6) (b : BitVec 6) (rel : Bool) (sc : Scope)
  /-- FENCE (R326). -/
  | fence (e : BitVec 4) (sc : Scope)
  /-- FENCE_E (R327). -/
  | fenceE (sc : Scope)
  /-- WBR (R328). -/
  | wbr (a : BitVec 6) (b : BitVec 6) (sc : Scope)
  /-- INVR (R329). -/
  | invr (a : BitVec 6) (b : BitVec 6) (sc : Scope)
  /-- ARRIVE (R355). -/
  | arrive (n : BitVec 2)
  /-- ARRIVE_SNAP (R355). -/
  | arriveSnap (n : BitVec 2)
  /-- WAIT (R356). -/
  | wait (d : BitVec 6) (n : BitVec 2)
  /-- BSTAT (R358). -/
  | bstat (d : BitVec 6) (n : BitVec 2)
  /-- BSET (R361). -/
  | bset (a : BitVec 6) (n : BitVec 2)
  /-- BRST (R362). -/
  | brst (n : BitVec 2)
  /-- START (R173). -/
  | start (n : BitVec 6) (a : BitVec 6) (b : BitVec 6)
  /-- STOP (R174). -/
  | stop (n : BitVec 6)
  /-- JOIN (R175). -/
  | join (d : BitVec 6) (n : BitVec 6)
  /-- GETS (R180). -/
  | gets (d : BitVec 6) (r : BitVec 12)
  /-- SETS (R180). -/
  | sets (a : BitVec 6) (r : BitVec 12)
  /-- TRAP (R181). -/
  | trap (c : BitVec 8)
  /-- TOUCH (R183). -/
  | touch (d : BitVec 6) (a : BitVec 6)
  /-- OBJINV (R185). -/
  | objinv (a : BitVec 6) (sc : Scope)
  /-- EINJ (R186). -/
  | einj (c : BitVec 6) (a : BitVec 6) (tier : Tier)
  /-- DIGEST (R446). -/
  | digest (d : BitVec 5) (a : BitVec 6)
  /-- DIGEST_N (R446). -/
  | digestN (d : BitVec 6) (a : BitVec 6)
  /-- BEQ (R168). -/
  | beq (c : BitVec 6) (a : BitVec 6) (imm : BitVec 14)
  /-- BNE (R168). -/
  | bne (c : BitVec 6) (a : BitVec 6) (imm : BitVec 14)
  /-- BLT (R168). -/
  | blt (c : BitVec 6) (a : BitVec 6) (imm : BitVec 14)
  /-- BGE (R168). -/
  | bge (c : BitVec 6) (a : BitVec 6) (imm : BitVec 14)
  /-- BLTU (R168). -/
  | bltu (c : BitVec 6) (a : BitVec 6) (imm : BitVec 14)
  /-- BGEU (R168). -/
  | bgeu (c : BitVec 6) (a : BitVec 6) (imm : BitVec 14)
  /-- JAL (R169). -/
  | jal (imm : BitVec 26)
  /-- JALR (R170). -/
  | jalr (d : BitVec 6) (a : BitVec 6) (imm : BitVec 14)
  /-- RSET (R288). -/
  | rset (h : BitVec 3) (a : BitVec 6)
  /-- WAITF (R289). -/
  | waitf (h : BitVec 3) (m : BitVec 4)
  /-- WAITE (R289). -/
  | waite (h : BitVec 3) (m : BitVec 4)
  /-- ADVP (R290). -/
  | advp (h : BitVec 3) (m : BitVec 4)
  /-- ADVC (R290). -/
  | advc (h : BitVec 3) (m : BitVec 4)
  /-- RSTAT (R291). -/
  | rstat (d : BitVec 6) (h : BitVec 3) (w : BitVec 1)
  /-- CPY (R295). -/
  | cpy (a : BitVec 6) (b : BitVec 6) (t : BitVec 6)
  /-- CPYR (R300). -/
  | cpyr (a : BitVec 6) (b : BitVec 6) (t : BitVec 6) (sc : Scope) (z : BitVec 3)
  /-- CPYC (R301). -/
  | cpyc (r : BitVec 6)
  /-- CPYQ (R302). -/
  | cpyq (a : BitVec 6) (t : BitVec 6)
  /-- MMA (R230). -/
  | mma (a : BitVec 6) (b : BitVec 6) (t : BitVec 6) (tile : BitVec 3)
  /-- MMAR (R232). -/
  | mmar (a : BitVec 6) (b : BitVec 6) (t : BitVec 6) (tile : BitVec 3)
  /-- MMAZ (R231). -/
  | mmaz (a : BitVec 6) (b : BitVec 6) (t : BitVec 6) (tile : BitVec 3)
  /-- MCFG (R227). -/
  | mcfg (a : BitVec 6) (b : BitVec 6) (t : BitVec 6)
  /-- MCFG_RD (R227). -/
  | mcfgRd (a : BitVec 6) (b : BitVec 6) (t : BitVec 6)
  /-- MINIT (R234). -/
  | minit (a : BitVec 6) (t : BitVec 6) (tile : BitVec 3)
  /-- MRD (R235). -/
  | mrd (a : BitVec 6) (b : BitVec 6) (t : BitVec 6) (tile : BitVec 3)
  /-- MRDV (R236). -/
  | mrdv (a : BitVec 6) (v : BitVec 5) (t : BitVec 6) (tile : BitVec 3)
  /-- MLDA (R238). -/
  | mlda (a : BitVec 6) (b : BitVec 6) (t : BitVec 6) (tile : BitVec 3)
  /-- MLDA_ADD (R238). -/
  | mldaAdd (a : BitVec 6) (b : BitVec 6) (t : BitVec 6) (tile : BitVec 3)
  /-- MSTA (R237). -/
  | msta (a : BitVec 6) (t : BitVec 6) (tile : BitVec 3)
  /-- MSTAT (R239). -/
  | mstat (a : BitVec 6) (t : BitVec 6) (tile : BitVec 3)
  /-- MSHAD (R245). -/
  | mshad (a : BitVec 6) (t : BitVec 6) (tile : BitVec 3)
  /-- CGRP (R374). -/
  | cgrp (a : BitVec 6) (t : BitVec 6) (n : BitVec 2)
  /-- CTAB (R374). -/
  | ctab (a : BitVec 6) (t : BitVec 6) (n : BitVec 2)
  /-- CSTART (R375). -/
  | cstart (a : BitVec 6) (t : BitVec 6) (n : BitVec 2)
  /-- TREADY (R376). -/
  | tready (a : BitVec 6) (n : BitVec 2)
  /-- CWAIT (R377). -/
  | cwait (a : BitVec 6) (t : BitVec 6) (n : BitVec 2)
  /-- RDRAW (R220). -/
  | rdraw (d : BitVec 5) (b : BitVec 5)
  /-- RVEC (R220). -/
  | rvec (d : BitVec 5) (b : BitVec 5) (k : BitVec 3)
  /-- RMASK (R220). -/
  | rmask (k : BitVec 3) (b : BitVec 5)
  /-- RKEY (R220). -/
  | rkey (d : BitVec 5) (b : BitVec 5)
  /-- LAUNCH (R192). -/
  | launch (d : BitVec 6) (a : BitVec 6)
  /-- DEPDEC (R193). -/
  | depdec (d : BitVec 6) (a : BitVec 6)
  /-- TCBQ (R194). -/
  | tcbq (d : BitVec 6) (a : BitVec 6)
  /-- SENDM (R391). -/
  | sendm (a : BitVec 6) (b : BitVec 6) (t : BitVec 6) (nb : Bool)
  /-- RECVM (R394). -/
  | recvm (a : BitVec 6) (b : BitVec 6) (t : BitVec 6) (nb : Bool)
  /-- RECVM_CFG (R392). -/
  | recvmCfg (a : BitVec 6)
  /-- VLD (R200). -/
  | vld (v : BitVec 5) (a : BitVec 6) (k : BitVec 3) (imm : BitVec 12)
  /-- VST (R200). -/
  | vst (v : BitVec 5) (a : BitVec 6) (k : BitVec 3) (imm : BitVec 12)
  /-- VADD (R203). -/
  | vadd (d : BitVec 5) (a : BitVec 5) (b : BitVec 5) (k : BitVec 3) (ty : IntTy)
  /-- VSUB (R203). -/
  | vsub (d : BitVec 5) (a : BitVec 5) (b : BitVec 5) (k : BitVec 3) (ty : IntTy)
  /-- VMUL (R203). -/
  | vmul (d : BitVec 5) (a : BitVec 5) (b : BitVec 5) (k : BitVec 3) (ty : IntTy)
  /-- VMIN (R203). -/
  | vmin (d : BitVec 5) (a : BitVec 5) (b : BitVec 5) (k : BitVec 3) (ty : IntTy)
  /-- VMAX (R203). -/
  | vmax (d : BitVec 5) (a : BitVec 5) (b : BitVec 5) (k : BitVec 3) (ty : IntTy)
  /-- VAND (R203). -/
  | vand (d : BitVec 5) (a : BitVec 5) (b : BitVec 5) (k : BitVec 3) (ty : IntTy)
  /-- VOR (R203). -/
  | vor (d : BitVec 5) (a : BitVec 5) (b : BitVec 5) (k : BitVec 3) (ty : IntTy)
  /-- VXOR (R203). -/
  | vxor (d : BitVec 5) (a : BitVec 5) (b : BitVec 5) (k : BitVec 3) (ty : IntTy)
  /-- VANDN (R203). -/
  | vandn (d : BitVec 5) (a : BitVec 5) (b : BitVec 5) (k : BitVec 3) (ty : IntTy)
  /-- VSHL (R203). -/
  | vshl (d : BitVec 5) (a : BitVec 5) (b : BitVec 5) (k : BitVec 3) (ty : IntTy)
  /-- VSHR (R203). -/
  | vshr (d : BitVec 5) (a : BitVec 5) (b : BitVec 5) (k : BitVec 3) (ty : IntTy)
  /-- VSAR (R203). -/
  | vsar (d : BitVec 5) (a : BitVec 5) (b : BitVec 5) (k : BitVec 3) (ty : IntTy)
  /-- VADDS (R203). -/
  | vadds (d : BitVec 5) (a : BitVec 5) (b : BitVec 5) (k : BitVec 3) (ty : IntTy)
  /-- VSUBS (R203). -/
  | vsubs (d : BitVec 5) (a : BitVec 5) (b : BitVec 5) (k : BitVec 3) (ty : IntTy)
  /-- VAVG (R203). -/
  | vavg (d : BitVec 5) (a : BitVec 5) (b : BitVec 5) (k : BitVec 3) (ty : IntTy)
  /-- VABS (R203). -/
  | vabs (d : BitVec 5) (a : BitVec 5) (k : BitVec 3) (ty : IntTy)
  /-- VFADD (R204). -/
  | vfadd (d : BitVec 5) (a : BitVec 5) (b : BitVec 5) (k : BitVec 3) (ty : FltTy)
  /-- VFSUB (R204). -/
  | vfsub (d : BitVec 5) (a : BitVec 5) (b : BitVec 5) (k : BitVec 3) (ty : FltTy)
  /-- VFMUL (R204). -/
  | vfmul (d : BitVec 5) (a : BitVec 5) (b : BitVec 5) (k : BitVec 3) (ty : FltTy)
  /-- VFMIN (R204). -/
  | vfmin (d : BitVec 5) (a : BitVec 5) (b : BitVec 5) (k : BitVec 3) (ty : FltTy)
  /-- VFMAX (R204). -/
  | vfmax (d : BitVec 5) (a : BitVec 5) (b : BitVec 5) (k : BitVec 3) (ty : FltTy)
  /-- VFABS (R204). -/
  | vfabs (d : BitVec 5) (a : BitVec 5) (k : BitVec 3) (ty : FltTy)
  /-- VFNEG (R204). -/
  | vfneg (d : BitVec 5) (a : BitVec 5) (k : BitVec 3) (ty : FltTy)
  /-- VFMA_F32 (R205). -/
  | vfmaF32 (d : BitVec 5) (a : BitVec 5) (b : BitVec 5) (c : BitVec 5) (k : BitVec 3)
  /-- VFMS_F32 (R205). -/
  | vfmsF32 (d : BitVec 5) (a : BitVec 5) (b : BitVec 5) (c : BitVec 5) (k : BitVec 3)
  /-- VFNMA_F32 (R205). -/
  | vfnmaF32 (d : BitVec 5) (a : BitVec 5) (b : BitVec 5) (c : BitVec 5) (k : BitVec 3)
  /-- VFNMS_F32 (R205). -/
  | vfnmsF32 (d : BitVec 5) (a : BitVec 5) (b : BitVec 5) (c : BitVec 5) (k : BitVec 3)
  /-- VFMA_BF16 (R205). -/
  | vfmaBf16 (d : BitVec 5) (a : BitVec 5) (b : BitVec 5) (c : BitVec 5) (k : BitVec 3)
  /-- VFMS_BF16 (R205). -/
  | vfmsBf16 (d : BitVec 5) (a : BitVec 5) (b : BitVec 5) (c : BitVec 5) (k : BitVec 3)
  /-- VFMA_F16 (R205). -/
  | vfmaF16 (d : BitVec 5) (a : BitVec 5) (b : BitVec 5) (c : BitVec 5) (k : BitVec 3)
  /-- VFMS_F16 (R205). -/
  | vfmsF16 (d : BitVec 5) (a : BitVec 5) (b : BitVec 5) (c : BitVec 5) (k : BitVec 3)
  /-- VCVT (R208). -/
  | vcvt (d : BitVec 5) (a : BitVec 5) (b : BitVec 5) (k : BitVec 3) (rm : RMode) (c : BitVec 3)
  /-- VCVTI (R208). -/
  | vcvti (d : BitVec 5) (a : BitVec 5) (b : BitVec 5) (k : BitVec 3) (rm : RMode) (c : BitVec 3)
  /-- VCVTF (R208). -/
  | vcvtf (d : BitVec 5) (a : BitVec 5) (b : BitVec 5) (k : BitVec 3) (rm : RMode) (c : BitVec 3)
  /-- VPACK (R209). -/
  | vpack (d : BitVec 5) (a : BitVec 5) (b : BitVec 5) (k : BitVec 3) (rm : RMode) (fmt : PackFmt)
  /-- VUNPK (R209). -/
  | vunpk (d : BitVec 5) (a : BitVec 5) (b : BitVec 5) (k : BitVec 3) (rm : RMode) (fmt : PackFmt)
  /-- VSCALE (R210). -/
  | vscale (d : BitVec 5) (a : BitVec 5) (b : BitVec 5) (k : BitVec 3) (rm : RMode) (ty : FltTy)
  /-- VSHUF (R211). -/
  | vshuf (d : BitVec 5) (a : BitVec 5) (b : BitVec 5) (k : BitVec 3) (w : Width)
  /-- VBCST (R211). -/
  | vbcst (d : BitVec 5) (b : BitVec 5) (k : BitVec 3) (w : Width)
  /-- VINS (R211). -/
  | vins (d : BitVec 5) (imm : BitVec 5) (b : BitVec 5) (k : BitVec 3) (w : Width)
  /-- VEXT (R211). -/
  | vext (d : BitVec 5) (a : BitVec 5) (imm : BitVec 5) (w : Width)
  /-- VROT (R211). -/
  | vrot (d : BitVec 5) (a : BitVec 5) (b : BitVec 5) (k : BitVec 3) (w : Width)
  /-- VZIP (R211). -/
  | vzip (d : BitVec 5) (a : BitVec 5) (b : BitVec 5) (k : BitVec 3) (hi : Bool) (w : Width)
  /-- VUZP (R211). -/
  | vuzp (d : BitVec 5) (a : BitVec 5) (b : BitVec 5) (k : BitVec 3) (hi : Bool) (w : Width)
  /-- VREDADD (R212). -/
  | vredadd (d : BitVec 5) (a : BitVec 5) (k : BitVec 3) (ty : NumTy)
  /-- VREDMAX (R212). -/
  | vredmax (d : BitVec 5) (a : BitVec 5) (k : BitVec 3) (ty : NumTy)
  /-- VREDMIN (R212). -/
  | vredmin (d : BitVec 5) (a : BitVec 5) (k : BitVec 3) (ty : NumTy)
  /-- VREDAND (R212). -/
  | vredand (d : BitVec 5) (a : BitVec 5) (k : BitVec 3) (ty : IntTy)
  /-- VREDOR (R212). -/
  | vredor (d : BitVec 5) (a : BitVec 5) (k : BitVec 3) (ty : IntTy)
  /-- VREDXOR (R212). -/
  | vredxor (d : BitVec 5) (a : BitVec 5) (k : BitVec 3) (ty : IntTy)
  /-- VCMP_INT (R213). -/
  | vcmpInt (d : BitVec 3) (a : BitVec 5) (b : BitVec 5) (k : BitVec 3) (cond : Cond) (ty : IntTy)
  /-- VCMP_FLT (R213). -/
  | vcmpFlt (d : BitVec 3) (a : BitVec 5) (b : BitVec 5) (k : BitVec 3) (cond : Cond) (ty : FltTy)
  /-- VSEL (R214). -/
  | vsel (d : BitVec 5) (a : BitVec 5) (b : BitVec 5) (k : BitVec 3) (w : Width)
  /-- KAND (R215). -/
  | kand (d : BitVec 3) (a : BitVec 3) (b : BitVec 3)
  /-- KOR (R215). -/
  | kor (d : BitVec 3) (a : BitVec 3) (b : BitVec 3)
  /-- KXOR (R215). -/
  | kxor (d : BitVec 3) (a : BitVec 3) (b : BitVec 3)
  /-- KNOT (R215). -/
  | knot (d : BitVec 3) (a : BitVec 3)
  /-- KPOP (R215). -/
  | kpop (d : BitVec 5) (a : BitVec 3)
  /-- KFFS (R215). -/
  | kffs (d : BitVec 5) (a : BitVec 3)
  /-- KMOV (R215). -/
  | kmov (d : BitVec 3) (a : BitVec 3)
  /-- KMOV_EXPAND (R215). -/
  | kmovExpand (d : BitVec 3) (a : BitVec 3) (f : BitVec 2)
  /-- KMOV_FROM_G (R215). -/
  | kmovFromG (d : BitVec 3) (b : BitVec 5)
  /-- KMOV_TO_G (R215). -/
  | kmovToG (d : BitVec 5) (a : BitVec 3)
  /-- VLOP3 (R216). -/
  | vlop3 (d : BitVec 5) (a : BitVec 5) (b : BitVec 4) (k : BitVec 3) (t : BitVec 8)
  /-- VFSHL (R216). -/
  | vfshl (d : BitVec 5) (a : BitVec 5) (b : BitVec 4) (k : BitVec 3) (w : Width) (s : BitVec 6)
  /-- VCLZ (R216). -/
  | vclz (d : BitVec 5) (a : BitVec 5) (k : BitVec 3) (w : Width)
  /-- VCTZ (R216). -/
  | vctz (d : BitVec 5) (a : BitVec 5) (k : BitVec 3) (w : Width)
  /-- VPOPC (R216). -/
  | vpopc (d : BitVec 5) (a : BitVec 5) (k : BitVec 3) (w : Width)
  /-- VRCP (R217). -/
  | vrcp (d : BitVec 5) (a : BitVec 5) (k : BitVec 3)
  /-- VRSQ (R217). -/
  | vrsq (d : BitVec 5) (a : BitVec 5) (k : BitVec 3)
  /-- VSQRT (R217). -/
  | vsqrt (d : BitVec 5) (a : BitVec 5) (k : BitVec 3)
  /-- VEXP2 (R217). -/
  | vexp2 (d : BitVec 5) (a : BitVec 5) (k : BitVec 3)
  /-- VLOG2 (R217). -/
  | vlog2 (d : BitVec 5) (a : BitVec 5) (k : BitVec 3)
  /-- VLDB (R201). -/
  | vldb (d : BitVec 5) (b : BitVec 5) (k : BitVec 3) (w : Width)
  /-- VGATH (R201). -/
  | vgath (d : BitVec 5) (a : BitVec 5) (b : BitVec 5) (k : BitVec 3) (w : Width)
  /-- VSCAT (R201). -/
  | vscat (d : BitVec 5) (a : BitVec 5) (b : BitVec 5) (k : BitVec 3) (w : Width)
  /-- IMMX (R133). -/
  | immx (p : BitVec 22)
  /-- PRIO (R137). -/
  | prio (n : BitVec 3)
  /-- REV (R138). -/
  | rev (n : BitVec 8)
  /-- LIKELY (R135). -/
  | likely (taken : Bool)
  /-- SPIN (R139). -/
  | spin (a : BitVec 6)
  /-- HNOP (R140). -/
  | hnop (k : BitVec 4) (p : BitVec 22)
  /-- END (R176). -/
  | endCtx
  /-- YIELD (R177). -/
  | yield
  /-- FUSE (R178). -/
  | fuse
  /-- SPLIT (R178). -/
  | split
  /-- ERET (R182). -/
  | eret
  /-- HALT (R184). -/
  | halt
  /-- EFENCE (R241). -/
  | efence
  /-- NOFOLD (R136). -/
  | nofold
  /-- HOST_APPEND (R82): a host write of `size` bytes at an offset of the append window, `t` being the 8 bytes of a write of 8.
  `size` 0 is no write: the append that is under way in the slot at that offset goes on. -/
  | hostAppend (off : BitVec 12) (size : Nat) (t : Word)
  /-- QUEUE_ENABLE (R77). -/
  | queueEnable (q : BitVec 6)
  /-- QUEUE_DISABLE (R77). -/
  | queueDisable (q : BitVec 6)
  /-- DISPATCHER_WAKEUP (R79). -/
  | dispatcherWakeup (q : BitVec 6)
  /-- DISPATCHER_LINK_CHANGE (R80). -/
  | dispatcherLinkChange (q : BitVec 6)
  /-- DISPATCHER_SELECT (R85). `binding` is the dispatcher's choice of slots, in ascending LCORE (the twin copy's
  after the primary's); the empty list stands for the first fit. -/
  | dispatcherSelect (binding : List Nat)
  /-- BINDING_REQUEST (R106): what dispatchers say to each other of a window group of a held task. Under TWIN each copy of a group is
  bound by itself: `group` is the group's number × copies + copy. -/
  | bindingRequest (task : Word) (group : Nat) (package : BitVec 13) (msg : BindMsg)
  /-- BINDING_WITHDRAW (R106): the requests for a task are withdrawn: by this package's dispatcher for a task that it holds, or
  by the dispatcher of the package that holds it. -/
  | bindingWithdraw (task : HeldTask)
  /-- FIRST_PLACEMENT (R118). -/
  | firstPlacement (core : CoreId)
  /-- REPLACE_LOGICAL_CORE (R114), on the chosen slot. -/
  | replaceLogicalCore (core : CoreId) (slot : Nat)
  /-- QUANTUM_EXPIRY (R109) of the logical core resident on a slot. -/
  | quantumExpiry (slot : Nat)
  /-- TIME_SLICE_SWITCH (R110) on a slot. -/
  | timeSliceSwitch (slot : Nat)
  /-- CONTEXT_SAVE (R404). -/
  | contextSave (core : CoreId)
  /-- CONTEXT_RESTORE (R408). -/
  | contextRestore (core : CoreId)
  /-- WATCHDOG_EXPIRY (R91). -/
  | watchdogExpiry (task : Word)
  /-- CANCEL_TASK (R95): a write of the cancel register. -/
  | cancelTask (t : Word)
  /-- FENCE_CORE (R113): fences (`out`) or restores a single task core. -/
  | fenceCore (slot : Nat) (out : Bool)
  /-- XBOUND_RAISE_COMPLETE (R123). -/
  | xboundRaiseComplete (core : CoreId)
  /-- TAKE_EVENT (R401). -/
  | takeEvent (c : CtxId)
  /-- LOAD_DATA_RETURN (R274): the reply to the context's outstanding class 3 read. -/
  | loadDataReturn (c : CtxId) (reply : HostReply)
  /-- HELPER_STOP_END (R174). -/
  | helperStopEnd (c : CtxId)
  /-- SPIN_WAIT_END (R139). -/
  | spinWaitEnd (c : CtxId) (why : SpinEnd)
  /-- SFU_REQUEST_START (R218) in a cluster (16 x die + cluster). -/
  | sfuRequestStart (cluster : Nat)
  /-- SFU_RESULT_WRITE (R218) in a cluster. -/
  | sfuResultWrite (cluster : Nat)
  /-- MATRIX_COMMAND_TAKE (R225). -/
  | matrixCommandTake (core : CoreId)
  /-- MATRIX_COMMAND_END (R224). -/
  | matrixCommandEnd (core : CoreId)
  /-- MMAR_SLOT_READY (R232). -/
  | mmarSlotReady (core : CoreId)
  /-- OBJECT_CACHE_FILL (R253) of a core's object cache. -/
  | objectCacheFill (core : CoreId) (handle : Nat)
  /-- TRANSLATION_WALK (R258) by a die's port of frame `f` of an extent list. -/
  | translationWalk (die : Nat) (extents : Nat) (f : Nat)
  /-- FRAME_NOT_RESIDENT_FAULT (R264): the context's run-ahead; `batch` lists the references whose frames it
  met, after the first. -/
  | frameNotResidentFault (c : CtxId) (batch : List Word)
  /-- RESIDENCY_SERVICE_END (R263): the service answers the oldest request of a die for a frame: the frame
  entry's new word 0x00, or a refusal. -/
  | residencyServiceEnd (die : Nat) (entry : Option Word)
  /-- FRAME_MOVING_WRITE (R261) on the frame entry at a device-private address. -/
  | frameMovingWrite (entry : Nat)
  /-- PORT_SHOOTDOWN (R261). -/
  | portShootdown (die : Nat) (entry : Nat)
  /-- SHOOTDOWN_FINISH (R261): the new word 0x00 of the entry. -/
  | shootdownFinish (entry : Nat) (word : Word)
  /-- MIGRATION_EVALUATE (R269) at a die's port, with the link queue's depth, the number of free frames in the die's two stacks
  and the free frame that a move would take. -/
  | migrationEvaluate (die : Nat) (core : CoreId) (ref : Word) (q : Nat) (free : Nat) (stack : Nat) (frame : Nat)
  /-- ACCESS_COUNT_HALVING (R269). -/
  | accessCountHalving
  /-- REMOTE_ROUTE_TIMEOUT (R347). -/
  | remoteRouteTimeout (package : BitVec 13)
  /-- FAR_ATOMIC (R280): a bank executes the far atomic that is the oldest operation there. -/
  | farAtomic
  /-- RED_APPLY (R282): a site applies the integer reduction that is the oldest operation there. -/
  | redApply
  /-- REDACC_APPLY (R283): a bank applies the REDACC that is the oldest operation there. -/
  | redaccApply
  /-- COPY_TAKE (R296). -/
  | copyTake (core : CoreId)
  /-- COPY_COMPLETE (R299) of the copy at a place among those in flight. -/
  | copyComplete (core : CoreId) (place : Nat)
  /-- COPY_RING_SLOT_READY (R292). -/
  | copyRingSlotReady (core : CoreId) (place : Nat)
  /-- COPY_FRAME_FAULT (R303). -/
  | copyFrameFault (core : CoreId) (place : Nat)
  /-- DIR_GETS (R335): the primary resolves a read request of a cluster for a line. -/
  | dirGets (cluster : Nat) (line : Nat)
  /-- DIR_GETX (R335). -/
  | dirGetx (cluster : Nat) (line : Nat)
  /-- DIR_PUT (R335): a cluster evicts a line. -/
  | dirPut (cluster : Nat) (line : Nat)
  /-- DIR_FORWARD (R335): the owner supplies the line of the outstanding transaction. -/
  | dirForward (line : Nat)
  /-- DIR_INVALIDATE (R335): a sharer invalidates its copy for the outstanding transaction. -/
  | dirInvalidate (cluster : Nat) (line : Nat)
  /-- DIR_GRANT (R334). -/
  | dirGrant (line : Nat)
  /-- DIR_TRANSACTION_COMPLETE (R336). -/
  | dirTransactionComplete (line : Nat)
  /-- PROXY_REQUEST (R338): another package requests rights (`own` for M) to a line homed here. -/
  | proxyRequest (package : BitVec 13) (line : Nat) (msg : ProxyMsg)
  /-- CONJUNCTION_DIE_LOSS (R344). -/
  | conjunctionDieLoss (cdie : BitVec 1)
  /-- CONJUNCTION_TAKEOVER_COMPLETE (R344). -/
  | conjunctionTakeoverComplete
  /-- BOTH_CONJUNCTION_LOSS (R345). -/
  | bothConjunctionLoss
  /-- LINK_STATE_MESSAGE (R346). -/
  | linkStateMessage (package : BitVec 13) (reachable : Bool)
  /-- REMOTE_EPOCH_CHANGE (R346). -/
  | remoteEpochChange (package : BitVec 13) (epoch : BitVec 32)
  /-- REMOTE_POWER_DOWN (R346). -/
  | remotePowerDown (package : BitVec 13)
  /-- DCMD_READ (R348). -/
  | dcmdRead (cdie : BitVec 1)
  /-- DCMD_CLEAR_LOST (R348). -/
  | dcmdClearLost (cdie : BitVec 1)
  /-- DCMD_RECALL (R348). -/
  | dcmdRecall (cdie : BitVec 1)
  /-- ARRIVAL_SIGNAL (R355). -/
  | arrivalSignal (core : CoreId) (chan : BitVec 2)
  /-- COLL_TAKE (R374). -/
  | collTake (core : CoreId)
  /-- COLL_PACKET_ARRIVAL (R381): the oldest packet under way to a logical core. -/
  | collPacketArrival (core : CoreId)
  /-- COLL_ABORT (R380): the abort of a call reaches a member's slot. -/
  | collAbort (core : CoreId) (slot : BitVec 2)
  /-- SENDM_TAKE (R393). -/
  | sendmTake (core : CoreId)
  /-- SENDM_RETRY (R393). -/
  | sendmRetry (core : CoreId)
  /-- ROLLBACK (R430) of the block of a logical core's snapshot channel. -/
  | rollback (core : CoreId) (trigger : RbTrigger)
  /-- TWIN_MESSAGE_COMPARE (R433) of the waiting messages of a logical core's two copies. -/
  | twinMessageCompare (task : Word) (lcore : Nat) (ctx : Nat)
  /-- FENCE_REGISTER_WRITE (R435). -/
  | fenceRegisterWrite (value : Word)
  /-- DIE_FENCE (R436). -/
  | dieFence (die : BitVec 3) (level : BitVec 2) (trigger : FenceTrigger)
  /-- SUPPLY_THERMAL_FAULT (R462). -/
  | supplyThermalFault (die : BitVec 3)
  /-- RETIRE_TASK (R440). -/
  | retireTask (task : Word)
  /-- CHAIN_ADVANCE (R445). -/
  | chainAdvance (q : BitVec 6)
  /-- DIGEST_FOLD_TIMER (R443). -/
  | digestFoldTimer
  /-- METERING_FOLD_TIMER (R450). -/
  | meteringFoldTimer
  /-- METERING_READ_MESSAGE (R451). -/
  | meteringReadMessage (n : BitVec 32)
  /-- HOST_COMPLETION_TIMEOUT (R455). -/
  | hostCompletionTimeout (c : CtxId)
  /-- HOST_LINK_DOWN (R455). -/
  | hostLinkDown
  /-- FLIT_ARRIVAL (R457). -/
  | flitArrival (port : BitVec 7) (flit : Flit)
  /-- FLOW_STOP (R458). -/
  | flowStop (port : BitVec 7) (cls : BitVec 2)
  /-- FLOW_GO (R458). -/
  | flowGo (port : BitVec 7) (cls : BitVec 2)
  /-- LINK_REPLAY (R458). -/
  | linkReplay (port : BitVec 7)
  /-- LINK_RETRAIN_TIMEOUT (R458). -/
  | linkRetrainTimeout (port : BitVec 7)
  /-- COLD_START (R460): whether the Conjunction firmware image verified. -/
  | coldStart (verified : Bool)
  /-- WARM_START (R460). -/
  | warmStart (verified : Bool)
  /-- DIE_ENTER_SERVICE (R460). -/
  | dieEnterService (die : BitVec 3) (found : DieStart)
  /-- POWER_ESTIMATE (R462): the module's estimate in W over the window. -/
  | powerEstimate (watts : Nat)
  /-- GET_VERSION (R464). -/
  | getVersion
  /-- GET_CAPABILITIES (R464). -/
  | getCapabilities
  /-- NEGOTIATE_ALGORITHMS (R464): the requester offers RSASSA 3072 and SHA-256, or not. -/
  | negotiateAlgorithms (rsa3072 : Bool) (sha256 : Bool)
  /-- GET_DIGESTS (R464). -/
  | getDigests
  /-- GET_CERTIFICATE (R465). -/
  | getCertificate (slot : BitVec 3)
  /-- CHALLENGE (R464). -/
  | challenge (slot : BitVec 3) (nonce : List Byte)
  /-- GET_MEASUREMENTS (R466): one index, or all. -/
  | getMeasurements (index : BitVec 8)
  /-- SPDM_UNSUPPORTED_REQUEST (R464). -/
  | spdmUnsupportedRequest (code : Byte)
  /-- REGISTER_WRITE (R6). -/
  | registerWrite (r : DevReg) (value : Word)
  /-- ILL (R129): a fetched word that is ILL. -/
  | ill (w : BitVec 32)
  /-- XFETCH (R119): a fetch at an offset at or above XBOUND. -/
  | xfetch (off : BitVec 21)
  /-- AGEING_SAMPLE (R439). -/
  | ageingSample (die : BitVec 3) (reading : AgeReading)
  /-- CHAIN_RECORD_WRITE (R444). -/
  | chainRecordWrite (q : BitVec 6) (value : List Byte) (folded : Word)
  /-- OWNER_CHAIN_PROVISIONING (R465). -/
  | ownerChainProvisioning (chain : List Byte)
  deriving DecidableEq, Repr

end Sys2Proof
end

