-- ==== Sys2Proof/Config.lean ====
section
/-! DEFINITION. What this machine fixes beyond the rules of the manual: the free values (constants with no body) and
the few sizes that several files use. A free value stands for something the manual leaves open; a statement about it
holds for every value. -/

namespace Sys2Proof

/-- FREE VALUE (log entry 3): core clock cycles, beyond one, that pass during step `n`; timing is not modelled
(R189, R190). -/
opaque Config.extraCycles : Nat → Nat

/-- FREE VALUE (log entry 3): µs that pass during step `n` (R190). -/
opaque Config.extraMicros : Nat → Nat

/-- FREE VALUE (log entry 4): what a read delivers of a stored unit whose error lies beyond its code's reach, as a
function of the flipped bits, the stored bits and the code (R415, R417): `none` when it is detected as uncorrectable,
otherwise the bits delivered. -/
opaque Config.beyondReach : (code : Nat) → (flips : Nat) → (stored : Nat) → Option Nat

/-- FREE VALUE (log entry 5): counts of cycles, lines and flits that metering adds in step `n` for counter `i`
(R447, R448); they are timing. -/
opaque Config.meterCount : (n i : Nat) → Nat

/-- FREE VALUE (log entry 6): the RSA-3072 signature that the package key makes over a SHA-256 digest (R465). -/
opaque Config.sign : List Byte → List Byte

/-- FREE VALUE (log entry 6): the device identity chain of certificate slot 0 (R465). -/
opaque Config.identityChain : List Byte

/-- FREE VALUE (log entry 6): the measurement of index `i` taken at the start made in step `n` (R466). -/
opaque Config.measure : (n i : Nat) → List Byte

/-- FREE VALUE (log entry 7): which of the values that R46 allows a racy element takes when source and destination of one
copy overlap, by step and element. -/
opaque Config.racyPick : (n i : Nat) → Nat

/-- FREE VALUE (log entry 9): the rows that a copy in flight has moved when CPYC or a save stops it (R301, R306), and the
block steps or rows that a running matrix command has made since its beginning when a save stops it (R248). -/
opaque Config.rowsMoved : (n i : Nat) → Nat

/-- FREE VALUE (log entry 21): the sign that VPACK to a grouped integer gives an infinite operand divided by a
negative scale is not stated by the entry; which end of the range results (R209). -/
opaque Config.packInfNegScale : Bool

/-- FREE VALUE (log entry 22): a result the manual does not state: the FP32 tree sum whose partial sums meet
infinities of both signs (R212). -/
opaque Config.treeClash : (ty : FltTy) → BitVec 32

/-- FREE VALUE (log entry 8): the bytes of a line that another package owned and gives back, by step and line; the
stores of other packages are outside the model (R338). -/
opaque Config.remoteLine : (n tag : Nat) → BitVec 1024

/-- FREE VALUE (log entry 44): which of the ports that a flit may leave by is the least occupied one (R457). -/
opaque Config.portChoice : (n i : Nat) → Nat

/-- FREE VALUE (log entry 10): which of the elements with the largest deviation a check-unit record names, where several
have it (R246, R247). -/
opaque Config.tieElement : (n : Nat) → Nat

/-- FREE VALUE (log entry 67): which of the operations that are the oldest at their banks acts next, by step and number of
them (R14, R259). -/
opaque Config.bankTurn : (n i : Nat) → Nat

/-- FREE VALUE (log entry 15): which entry a fill of a full object cache, translation buffer or data cache, or a recall in a
full directory set, replaces, by step and handle, frame or line (R249, R252, R258, R339). -/
opaque Config.replaced : (n i : Nat) → Nat

/-- FREE VALUE (log entry 41): the packets, beyond one, in which a contribution of so many bytes is sent (R379 to R381). -/
opaque Config.packets : Nat → Nat

namespace Config

/-- Local memory of a core, in bytes (R18). -/
def lmBytes : Nat := 0x100000

/-- Bytes of an image area (R406). -/
def imageBytes : Nat := 0x160000

/-- Entries of an object cache (R252). -/
def ocEntries : Nat := 96

/-- Entries of a translation buffer (R258). -/
def tbEntries : Nat := 4096

/-- Lines of an L1 data cache, of a cluster cache and of a bank of a memory-side cache: 64 KiB, 8 MiB and 6 MiB of 128 bytes
(R14, R249). -/
def l1Lines : Nat := 512
def ccLines : Nat := 65536
def bankLines : Nat := 49152

/-- Entries of an engine command queue (R223, R295, R374). -/
def queueEntries : Nat := 2

/-- Copies in flight (R295). -/
def copiesInFlight : Nat := 1024

/-- Entries of a special-function unit's queue (R218). -/
def sfuEntries : Nat := 32

/-- Barrier records of a package (R350). -/
def barrierRecords : Nat := 16384

/-- Directory sets and ways (R333). -/
def dirSets : Nat := 131072
def dirWays : Nat := 16

/-- Early flits that a router holds per flow (R457). -/
def earlyFlits : Nat := 256

end Config

end Sys2Proof
end

