-- ==== Sys2Proof/WellFormed.lean ====
section
/-! DEFINITION. Which instructions a word can stand for: the limits that an entry puts on its fields beyond their
widths. An instruction that is not well formed has no word; its bits are ILL (R126, R129). -/

namespace Sys2Proof

/-- The element width in bits (R163, R195). -/
def Width.bits : Width → Nat
  | .w8 => 8
  | .w16 => 16
  | .w32 => 32
  | .w64 => 64

/-- The width in bytes. -/
def Width.bytes (w : Width) : Nat := w.bits / 8

/-- The lanes of a 256-bit register at this width (R195). -/
def Width.lanes (w : Width) : Nat := 256 / w.bits

/-- Whether the type is signed, and its width (R195). -/
def IntTy.signed : IntTy → Bool
  | .s8 | .s16 | .s32 => true
  | .n8 | .n16 | .n32 => false

def IntTy.bits : IntTy → Nat
  | .s8 | .n8 => 8
  | .s16 | .n16 => 16
  | .s32 | .n32 => 32

/-- The width of a float type (R195). -/
def FltTy.bits : FltTy → Nat
  | .f32 => 32
  | .bf16 | .f16 => 16

/-- The number of a scope (R311). -/
def Scope.num : Scope → Nat
  | .ctx => 0
  | .core => 1
  | .cl => 2
  | .die => 3
  | .pkg => 4
  | .sys => 5

/-- A scope of die or wider (R321). -/
def Scope.wide (s : Scope) : Bool := 3 ≤ s.num

/-- The numbers of the system registers (R187). -/
def sysRegMapped (r : Nat) : Bool :=
  r ≤ 0x022 || (0x030 ≤ r && r ≤ 0x033) || r = 0x040 || r = 0x041 || (0x050 ≤ r && r ≤ 0x055) ||
    (0x060 ≤ r && r ≤ 0x062) || (0x070 ≤ r && r ≤ 0x077) || r = 0x080

/-- The limits of each entry on its fields. -/
def Instr.wf : Instr → Bool
  | .fshl _ _ _ w s => s.toNat < w.bits
  | .extz _ _ p l | .exts _ _ p l | .dep _ _ p l => p.toNat + l.toNat + 1 ≤ 64
  | .ldo _ _ ord _ _ => ord = .rlx || ord = .acq
  | .sto _ _ ord _ _ => ord = .rlx || ord = .rel
  | .fence e _ => e ≠ 0
  | .wbr _ _ sc | .invr _ _ sc => sc.wide
  | .start n _ _ | .stop n => 1 ≤ n.toNat && n.toNat ≤ 10
  | .join _ n => 1 ≤ n.toNat && n.toNat ≤ 10
  | .gets _ r | .sets _ r => sysRegMapped r.toNat
  | .objinv _ sc => sc.wide
  | .cpyc r => r ≠ 0
  | .mrdv a _ _ _ => a ≠ 63
  | .rmask _ b => b ≠ 31
  | .vabs _ _ _ ty => ty.signed
  | .vcvt _ _ b _ rm c | .vcvti _ _ b _ rm c | .vcvtf _ _ b _ rm c => c.toNat < 6 && (rm = .sr || b = 0)
  | .vpack _ _ b _ rm _ | .vunpk _ _ b _ rm _ => rm ≠ .sr || b ≠ 31
  | .vscale _ _ b _ rm _ => rm ≠ .sr || b ≠ 31
  | .vins _ imm _ _ w => imm.toNat < w.lanes
  | .vext _ _ imm w => imm.toNat < w.lanes
  | .vcmpInt _ _ _ _ cond _ => cond ≠ .un
  | .kmovExpand _ _ f => f ≠ 0
  | .vfshl _ _ _ _ w s => s.toNat < w.bits
  | .hnop k _ => 6 ≤ k.toNat && k.toNat ≤ 14
  | _ => true

end Sys2Proof
end

