-- ==== Sys2Proof/Machine/Flags.lean ====
section
/-! DEFINITION. The comparisons, minima and maxima, counts and clamps that instructions of several families share.
Tavin has no condition flags: a comparison writes a general register or a mask (R158, R213). -/

namespace Sys2Proof.Machine

/-- Signed less-than (R158). -/
def ltS (x y : Word) : Bool := x.toInt < y.toInt

/-- Unsigned less-than (R158). -/
def ltU (x y : Word) : Bool := x.toNat < y.toNat

/-- Signed and unsigned minimum and maximum (R158). -/
def minSW (x y : Word) : Word := if ltS y x then y else x
def maxSW (x y : Word) : Word := if ltS x y then y else x
def minUW (x y : Word) : Word := if ltU y x then y else x
def maxUW (x y : Word) : Word := if ltU x y then y else x

/-- An integer clamped to [lo, hi]. -/
def clampI (lo hi v : Int) : Int := if v < lo then lo else if hi < v then hi else v

/-- The range of a w-bit element, signed or not (R203). -/
def elemMin (signed : Bool) (w : Nat) : Int := if signed then -(2 ^ (w - 1) : Nat) else 0
def elemMax (signed : Bool) (w : Nat) : Int := if signed then ((2 ^ (w - 1) : Nat) : Int) - 1 else ((2 ^ w : Nat) : Int) - 1

/-- A w-bit element read as an integer. -/
def elemInt (signed : Bool) (w e : Nat) : Int :=
  if signed && 2 ^ (w - 1) ≤ e then (e : Int) - (2 ^ w : Nat) else (e : Int)

/-- An integer as a w-bit element, mod 2^w. -/
def elemOfInt (w : Nat) (v : Int) : Nat := (v % ((2 ^ w : Nat) : Int)).toNat

/-- Counts over the low w bits of e (R166). -/
def clzN (w e : Nat) : Nat := if e = 0 then w else w - 1 - e.log2
def ctzN (w e : Nat) : Nat := ((List.range w).find? fun i => e.testBit i).getD w
def popcN (w e : Nat) : Nat := (List.range w).countP fun i => e.testBit i
def ffsN (w e : Nat) : Nat := if e = 0 then 0 else 1 + ctzN w e

end Sys2Proof.Machine
end

