-- ==== Sys2Proof/Machine/Operands.lean ====
section
/-! DEFINITION. Operand forms: the immediates of R127 and R133, packed elements (R163, R195), and the bit-field
operations of R163 to R167 on them. -/

namespace Sys2Proof.Machine

/-- An immediate field extended by the IMMX payloads before it, the first payload first (R127, R133). -/
def immExt {w : Nat} (ps : List (BitVec 22)) (f : BitVec w) : Word :=
  match ps with
  | [] => f.signExtend 64
  | [p] => (p ++ f).signExtend 64
  | p :: q :: _ => (p ++ q ++ f).signExtend 64

/-- The target of a branch with a 14-bit displacement, mod 2^20 (R127). -/
def branchTarget (pc : BitVec 21) (imm : BitVec 14) : BitVec 21 :=
  BitVec.ofNat 21 ((pc.toNat + (imm.signExtend 18).toNat * 4) % 2 ^ 20)

/-- The target of JAL, mod 2^20 (R127). -/
def jalTarget (pc : BitVec 21) (imm : BitVec 26) : BitVec 21 :=
  BitVec.ofNat 21 ((pc.toNat + (imm.signExtend 30).toNat * 4) % 2 ^ 20)

/-- Element `i` of width `w` of a packed register (R163, R195). -/
def elemAt (w : Nat) (x : Nat) (i : Nat) : Nat := x / 2 ^ (w * i) % 2 ^ w

/-- The `n` elements of width `w`, element 0 first. -/
def elems (w n x : Nat) : List Nat := (List.range n).map (elemAt w x)

/-- Elements of width `w` packed again, element 0 lowest; each taken mod 2^w. -/
def packElems (w : Nat) : List Nat → Nat
  | [] => 0
  | e :: es => e % 2 ^ w + 2 ^ w * packElems w es

/-- A function of each element of a 64-bit register (R163). -/
def mapElems (w : Nat) (f : Nat → Nat) (x : Word) : Word :=
  Word.ofN (packElems w ((elems w (64 / w) x.toNat).map f))

/-- LOP3 on registers of n bits: bit `7 − (4x + 2y + d)` of the table at each bit position (R164). -/
def lop3Bits {n : Nat} (t : BitVec 8) (x y d : BitVec n) : BitVec n :=
  let pick (b : Bool) (v : BitVec n) : BitVec n := if b then v else ~~~v
  (List.range 8).foldl (init := 0) fun acc j =>
    if t.getLsbD (7 - j) then
      acc ||| (pick (j.testBit 2) x &&& pick (j.testBit 1) y &&& pick (j.testBit 0) d)
    else acc

/-- One element of FSHL: bits [2w−1 : w] of (a ‖ b) × 2^n (R165). -/
def funnel (w n a b : Nat) : Nat := (a * 2 ^ w + b) * 2 ^ n / 2 ^ w % 2 ^ w

/-- Bit j of a w-bit element moved to bit w − 1 − j (R166). -/
def brevN (w e : Nat) : Nat := packElems 1 ((elems 1 w e).reverse)

/-- Byte j of a w-bit element moved to byte w/8 − 1 − j (R166). -/
def bswapN (w e : Nat) : Nat := packElems 8 ((elems 8 (w / 8) e).reverse)

/-- The field of `len` bits at `p`, zero-extended (R167). -/
def extractZ (x : Word) (p len : Nat) : Word := Word.ofN (x.toNat / 2 ^ p % 2 ^ len)

/-- The same field, sign-extended (R167). -/
def extractS (x : Word) (p len : Nat) : Word := Word.ofI (elemInt true len (x.toNat / 2 ^ p % 2 ^ len))

/-- `old` with the field of `len` bits at `p` replaced by the low bits of `x` (R167). -/
def deposit (old x : Word) (p len : Nat) : Word :=
  let mask := Word.ofN ((2 ^ len - 1) * 2 ^ p)
  (old &&& ~~~mask) ||| ((x <<< p) &&& mask)

/-- The low 32 bits of a register, and a 32-bit result sign-extended (R160). -/
def lowW (x : Word) : BitVec 32 := x.setWidth 32
def sextW (w : BitVec 32) : Word := w.signExtend 64

/-- The divides of R159. -/
def divS (x y : Word) : Word := if y = 0 then BitVec.allOnes 64 else Word.ofI (x.toInt.tdiv y.toInt)
def divU (x y : Word) : Word := if y = 0 then BitVec.allOnes 64 else Word.ofN (x.toNat / y.toNat)
def remS (x y : Word) : Word := if y = 0 then x else Word.ofI (x.toInt - y.toInt * x.toInt.tdiv y.toInt)
def remU (x y : Word) : Word := if y = 0 then x else Word.ofN (x.toNat - y.toNat * (x.toNat / y.toNat))

/-- Bytes of a value, lowest first (R3), and the value of bytes. -/
def bytesOf : Nat → Nat → List Byte
  | 0, _ => []
  | n + 1, v => BitVec.ofNat 8 v :: bytesOf n (v / 256)

def valueOf : List Byte → Nat
  | [] => 0
  | b :: bs => b.toNat + 256 * valueOf bs

/-- A vector register with some bits replaced: `n` bits at `lo`. -/
def VWord.replaceBits (x : VWord) (lo n v : Nat) : VWord :=
  let keepLow := x.toNat % 2 ^ lo
  let high := x.toNat / 2 ^ (lo + n)
  BitVec.ofNat 256 (keepLow + 2 ^ lo * (v % 2 ^ n) + 2 ^ (lo + n) * high)

end Sys2Proof.Machine
end

