-- ==== Sys2Proof/Machine/Numfmt.lean ====
section
/-! DEFINITION. Number formats (R52 to R59), the one rounding (R68), and the arithmetic of floating-point elements
(R198, R204, R205, R208, R212). A finite value is a sign, a natural magnitude and a power of two; a magnitude that is
not exact is a lower bound with a sticky flag. -/

namespace Sys2Proof.Machine

/-- Which codes of a format are special (R52, R58). -/
inductive Specials | ieee | e4m3 | none
  deriving DecidableEq, Repr

/-- A floating-point format: width, fraction bits, exponent of the smallest normal, code of the largest finite value,
special codes, and whether it is an MX element format (R52, R58). -/
structure Fmt where
  w : Nat
  m : Nat
  emin : Int
  maxCode : Nat
  specials : Specials
  mx : Bool
  deriving DecidableEq, Repr

def fmtF32 : Fmt := ⟨32, 23, -126, 0x7F7FFFFF, .ieee, false⟩
def fmtBf16 : Fmt := ⟨16, 7, -126, 0x7F7F, .ieee, false⟩
def fmtF16 : Fmt := ⟨16, 10, -14, 0x7BFF, .ieee, false⟩
def fmtE4M3 : Fmt := ⟨8, 3, -6, 0x7E, .e4m3, true⟩
def fmtE5M2 : Fmt := ⟨8, 2, -14, 0x7B, .ieee, true⟩
def fmtE3M2 : Fmt := ⟨6, 2, -2, 0x1F, .none, true⟩
def fmtE2M3 : Fmt := ⟨6, 3, 0, 0x1F, .none, true⟩
def fmtE2M1 : Fmt := ⟨4, 1, 0, 0x7, .none, true⟩

/-- The format of a float type (R195). -/
def fmtOf : FltTy → Fmt
  | .f32 => fmtF32
  | .bf16 => fmtBf16
  | .f16 => fmtF16

/-- A decoded element: a NaN with its sign and its fraction aligned to 23 bits, an infinity, or
`(−1)^neg × m × 2^e`. -/
inductive FVal
  | nan (neg : Bool) (frac : Nat)
  | inf (neg : Bool)
  | num (neg : Bool) (m : Nat) (e : Int)
  deriving DecidableEq, Repr

/-- Powers of two for integer exponents that are not negative. -/
def pow2 (k : Int) : Nat := 2 ^ k.toNat

/-- The value of a code of a format (R52, R58). -/
def decodeF (f : Fmt) (code : Nat) : FVal :=
  let neg := code.testBit (f.w - 1)
  let a := code % 2 ^ (f.w - 1)
  let frac := a % 2 ^ f.m
  let ex := a / 2 ^ f.m
  let fin : FVal :=
    if ex = 0 then .num neg frac (f.emin - f.m) else .num neg (2 ^ f.m + frac) (f.emin - f.m + ex - 1)
  match f.specials with
  | .ieee =>
    if a ≤ f.maxCode then fin
    else if a = f.maxCode + 1 then .inf neg else .nan neg (frac * 2 ^ (23 - f.m))
  | .e4m3 => if a ≤ f.maxCode then fin else .nan neg 0
  | .none => fin

/-- The sign bit of a code. -/
def signCode (f : Fmt) (neg : Bool) : Nat := if neg then 2 ^ (f.w - 1) else 0

/-- The magnitude `q × 2^e` in units of `2^u`, rounded (R68): `sticky` tells that the magnitude is above `q × 2^e` by
less than `2^e`. `rb` is the draw. -/
def roundAt (mode : RMode) (rb q : Nat) (e : Int) (sticky : Bool) (u : Int) : Nat :=
  let k := u - e
  let q := if k < 16 then q * pow2 (16 - k) else q
  let k := if k < 16 then 16 else k.toNat
  let t := q / 2 ^ k
  let r := q % 2 ^ k
  let up : Bool := match mode with
    | .rne => 2 ^ (k - 1) < r || (r = 2 ^ (k - 1) && (sticky || t % 2 = 1))
    | .rz => false
    | .sr => 2 ^ 16 ≤ r / 2 ^ (k - 16) + rb
  if up then t + 1 else t

/-- Rounding to a format (R68). -/
def roundF (f : Fmt) (mode : RMode) (rb : Nat) (neg : Bool) (q : Nat) (e : Int) (sticky : Bool) : Nat :=
  if q = 0 then signCode f neg
  else
    let l := (q.log2 : Int) + e
    let u := (if l < f.emin then f.emin else l) - f.m
    let t := roundAt mode rb q e sticky u
    let code := t + (u - (f.emin - f.m)).toNat * 2 ^ f.m
    let code :=
      if code ≤ f.maxCode then code
      else if f.mx || mode = .rz then f.maxCode else f.maxCode + 1
    signCode f neg + code

/-- Rounding to an integer, ulp 1 (R208, R209). -/
def roundI (mode : RMode) (rb : Nat) (neg : Bool) (q : Nat) (e : Int) (sticky : Bool) : Int :=
  let t : Int := roundAt mode rb q e sticky 0
  if neg then -t else t

/-- The default NaN (R198). -/
def nanCode (f : Fmt) : Nat := f.maxCode + 1 + 2 ^ (f.m - 1)

/-- The code of an infinity. -/
def infCode (f : Fmt) (neg : Bool) : Nat := signCode f neg + (f.maxCode + 1)

/-- A NaN operand quieted, its sign and high fraction bits kept (R198). -/
def quietCode (f : Fmt) (neg : Bool) (frac : Nat) : Nat :=
  signCode f neg + (f.maxCode + 1) + (2 ^ (f.m - 1) + frac / 2 ^ (23 - f.m) % 2 ^ (f.m - 1))

/-- The payload of a NaN (R58). -/
def payloadOf (frac : Nat) : Nat := frac % 2 ^ 22

/-- The NaN encoding of a payload in an IEEE format (R59); payload 0x400000 reads as 0, and of a greater one the low 22 bits count (log
entry 68). -/
def payloadCode (f : Fmt) (p : Nat) : Nat := nanCode f + p % 2 ^ 22 / 2 ^ (23 - f.m)

/-- A value rounded to a format under R198: a NaN is quieted, an infinity stays. -/
def encodeF (f : Fmt) (mode : RMode) (rb : Nat) : FVal → Nat
  | .nan neg frac => quietCode f neg frac
  | .inf neg => infCode f neg
  | .num neg m e => roundF f mode rb neg m e false

def FVal.isNan : FVal → Bool
  | .nan _ _ => true
  | _ => false

def FVal.isZero : FVal → Bool
  | .num _ 0 _ => true
  | _ => false

def FVal.neg : FVal → FVal
  | .nan s f => .nan s f
  | .inf s => .inf (!s)
  | .num s m e => .num (!s) m e

/-- A signed integer magnitude at exponent `e`. -/
def scaledInt (neg : Bool) (m : Nat) (e lo : Int) : Int :=
  let v : Int := m * pow2 (e - lo)
  if neg then -v else v

/-- The exact sum of two finite values; an exact zero of opposite signs is +0 (R198). -/
def addNum (s : Bool) (m : Nat) (e : Int) (t : Bool) (n : Nat) (f : Int) : FVal :=
  let lo := if e < f then e else f
  let v := scaledInt s m e lo + scaledInt t n f lo
  if v = 0 then .num (s && t) 0 0 else .num (v < 0) v.natAbs lo

/-- a × b, exact; `none` when invalid (R198). NaN operands are not looked at here. -/
def mulF : FVal → FVal → Option FVal
  | .inf s, .inf t => some (.inf (s != t))
  | .inf s, .num t m _ => if m = 0 then none else some (.inf (s != t))
  | .num s m _, .inf t => if m = 0 then none else some (.inf (s != t))
  | .num s m e, .num t n f => some (.num (s != t) (m * n) (e + f))
  | x, _ => some x

/-- x + y, exact; `none` when invalid (R198). -/
def addF : FVal → FVal → Option FVal
  | .inf s, .inf t => if s = t then some (.inf s) else none
  | .inf s, .num _ _ _ => some (.inf s)
  | .num _ _ _, .inf t => some (.inf t)
  | .num s m e, .num t n f => some (addNum s m e t n f)
  | x, _ => some x

/-- The first NaN operand quieted in the format, if there is one (R198). -/
def firstNan (f : Fmt) : List FVal → Option Nat
  | [] => none
  | .nan s fr :: _ => some (quietCode f s fr)
  | _ :: vs => firstNan f vs

/-- An operation's result: the default NaN when invalid, else the first NaN operand, else the value rounded (R198). -/
def finishF (f : Fmt) (ops : List FVal) (r : Option FVal) : Nat :=
  match r with
  | none => nanCode f
  | some v => match firstNan f ops with
    | some c => c
    | none => encodeF f .rne 0 v

/-- a × b + c with the signs that VFMA's forms give the product and c (R205); the invalid product is decided first. -/
def fmaF (f : Fmt) (negP negC : Bool) (a b c : Nat) : Nat :=
  let x := decodeF f a
  let y := decodeF f b
  let z := decodeF f c
  let nanOps := [x, y, z]
  if x.isNan || y.isNan then finishF f nanOps (some x)
  else match mulF x y with
    | none => nanCode f
    | some p =>
      let p := if negP then p.neg else p
      let w := if negC then z.neg else z
      if z.isNan then finishF f nanOps (some z) else finishF f nanOps (addF p w)

def addCode (f : Fmt) (a b : Nat) : Nat :=
  let x := decodeF f a
  let y := decodeF f b
  if x.isNan || y.isNan then finishF f [x, y] (some x) else finishF f [x, y] (addF x y)

def subCode (f : Fmt) (a b : Nat) : Nat :=
  let x := decodeF f a
  let y := decodeF f b
  if x.isNan || y.isNan then finishF f [x, y] (some x) else finishF f [x, y] (addF x y.neg)

def mulCode (f : Fmt) (a b : Nat) : Nat :=
  let x := decodeF f a
  let y := decodeF f b
  if x.isNan || y.isNan then finishF f [x, y] (some x) else finishF f [x, y] (mulF x y)

/-- The order of non-NaN values, −0 below +0: a key that grows with the value. -/
def orderKey (f : Fmt) (code : Nat) : Int :=
  let a : Int := (code % 2 ^ (f.w - 1) : Nat)
  if code.testBit (f.w - 1) then -a - 1 else a

/-- The running state of a MAX or MIN under R66: the smallest NaN payload, whether +inf and −inf were met, and the
chosen code. -/
structure Extreme where
  payload : Option Nat
  posInf : Bool
  negInf : Bool
  best : Option Nat
  deriving DecidableEq, Repr

def Extreme.start : Extreme := ⟨none, false, false, none⟩

/-- One more contribution (R66). -/
def Extreme.take (f : Fmt) (isMax : Bool) (x : Extreme) (code : Nat) : Extreme :=
  match decodeF f code with
  | .nan _ fr =>
    let p := payloadOf fr
    { x with payload := some (match x.payload with | none => p | some q => min p q) }
  | v =>
    let better (old : Nat) : Nat :=
      if isMax then (if orderKey f old < orderKey f code then code else old)
      else (if orderKey f code < orderKey f old then code else old)
    { x with
      posInf := x.posInf || v == .inf false
      negInf := x.negInf || v == .inf true
      best := some (match x.best with | none => code | some o => better o) }

/-- The result of a MAX or MIN (R66); `empty` when there was no contribution. -/
def Extreme.result (f : Fmt) (empty : Nat) (x : Extreme) : Nat :=
  match x.payload with
  | some p => payloadCode f p
  | none => if x.posInf && x.negInf then nanCode f else x.best.getD empty

/-- MAX or MIN of a list of codes (R66). -/
def extremeCode (f : Fmt) (isMax : Bool) (empty : Nat) (l : List Nat) : Nat :=
  (l.foldl (Extreme.take f isMax) Extreme.start).result f empty

/-- The special part of a floating-point sum (R66): `none` when every contribution is finite. -/
def sumSpecial (f : Fmt) (l : List Nat) : Option Nat :=
  let x := l.foldl (Extreme.take f true) Extreme.start
  match x.payload with
  | some p => some (payloadCode f p)
  | none =>
    if x.posInf && x.negInf then some (nanCode f)
    else if x.posInf then some (infCode f false)
    else if x.negInf then some (infCode f true) else none

/-- One node of the fixed tree of R212. Infinities of both signs that overflow made are not covered by the rule: the
result is then a free value (log entry 22). -/
def treeNode (ty : FltTy) : Option Nat → Option Nat → Option Nat
  | none, y => y
  | x, none => x
  | some x, some y =>
    let f := fmtOf ty
    match decodeF f x, decodeF f y with
    | .inf s, .inf t => some (if s = t then x else (Config.treeClash ty).toNat % 2 ^ f.w)
    | .nan _ _, _ => some x
    | _, .nan _ _ => some y
    | _, _ => some (addCode f x y)

/-- One level of the tree: neighbours are joined. -/
def treeLevel (ty : FltTy) : List (Option Nat) → List (Option Nat)
  | x :: y :: rest => treeNode ty x y :: treeLevel ty rest
  | l => l

/-- The root after `k` levels (R212). -/
def treeRoot (ty : FltTy) : Nat → List (Option Nat) → Option Nat
  | 0, l => (l.head?).getD none
  | k + 1, l => treeRoot ty k (treeLevel ty l)

/-- A compare of two float codes (R213). -/
def compareF (f : Fmt) (c : Cond) (a b : Nat) : Bool :=
  let x := decodeF f a
  let y := decodeF f b
  let un := x.isNan || y.isNan
  let eq := a = b || (x.isZero && y.isZero)
  let lt := orderKey f a < orderKey f b && !eq
  match c with
  | .eq => !un && eq
  | .ne => un || !eq
  | .lt => !un && lt
  | .le => !un && (lt || eq)
  | .gt => !un && !(lt || eq)
  | .ge => !un && !lt
  | .un => un

/-- A compare of two integers (R213). -/
def compareI (c : Cond) (x y : Int) : Bool :=
  match c with
  | .eq => x = y
  | .ne => x ≠ y
  | .lt => x < y
  | .le => x ≤ y
  | .gt => y < x
  | .ge => y ≤ x
  | .un => false

/-- A value × 2^k (R209, R210). -/
def FVal.scale (k : Int) : FVal → FVal
  | .num s m e => .num s m (e + k)
  | v => v

/-- Conversion between float formats (R208). -/
def convertF (src dst : Fmt) (mode : RMode) (rb code : Nat) : Nat :=
  encodeF dst mode rb (decodeF src code)

/-- Conversion to an integer type (R208). -/
def convertToInt (src : Fmt) (signed : Bool) (w : Nat) (mode : RMode) (rb code : Nat) : Nat :=
  let lo := elemMin signed w
  let hi := elemMax signed w
  match decodeF src code with
  | .nan _ _ => 0
  | .inf neg => elemOfInt w (if neg then lo else hi)
  | .num neg m e => elemOfInt w (clampI lo hi (roundI mode rb neg m e false))

/-- Conversion from an integer (R208); zero gives +0. -/
def convertFromInt (dst : Fmt) (mode : RMode) (rb : Nat) (v : Int) : Nat :=
  roundF dst mode rb (v < 0) v.natAbs 0 false

/-- The fields of a layout-12 group entry (R56): zero point and binary16 scale. -/
def groupZero (entry : Word) : Int := elemInt true 16 (entry.bits 31 16)
def groupScale (entry : Word) : Nat := entry.bits 15 0

/-! ### Square roots, exponentials and logarithms (R217) -/

/-- floor of the square root, bit by bit from bit `n`. -/
def isqrtFrom (x : Nat) : Nat → Nat → Nat
  | 0, r => r
  | n + 1, r => isqrtFrom x n (if (r + 2 ^ n) ^ 2 ≤ x then r + 2 ^ n else r)

/-- floor of the square root. -/
def isqrt (x : Nat) : Nat := isqrtFrom x (x.log2 / 2 + 1) 0

/-- Fraction bits carried by the series below (DEDUCED, log entry 23: enough to decide every rounding to FP32). -/
def seriesBits : Nat := 256

/-- ln 2 × 2^seriesBits: the sum of 1 / (k 2^k). -/
def ln2Fix : Nat :=
  (List.range (seriesBits + 16)).foldl (init := 0) fun acc i => acc + 2 ^ (seriesBits + 16) / ((i + 1) * 2 ^ (i + 1))

/-- exp(y) × 2^seriesBits for y = yf / 2^seriesBits in [0, 1), by its series: `n` terms from term number `k`. -/
def expTerms (y : Nat) : Nat → Nat → Nat → Nat → Nat
  | 0, _, _, acc => acc
  | n + 1, k, term, acc =>
    let term' := term * y / 2 ^ seriesBits / k
    expTerms y n (k + 1) term' (acc + term')

/-- 2^f × 2^seriesBits for f = ff / 2^seriesBits in [0, 1). -/
def exp2Frac (ff : Nat) : Nat :=
  let y := ff * (ln2Fix / 2 ^ 16) / 2 ^ seriesBits
  expTerms y 80 1 (2 ^ seriesBits) (2 ^ seriesBits)

/-- The bits of log2 of y / 2^n, y / 2^n in [1, 2), after the point: `k` of them onto `acc`. -/
def log2Bits (n : Nat) : Nat → Nat → Nat → Nat
  | 0, _, acc => acc
  | k + 1, y, acc =>
    let z := y * y / 2 ^ n
    if 2 ^ (n + 1) ≤ z then log2Bits n k (z / 2) (2 * acc + 1) else log2Bits n k z (2 * acc)

def rcpCode (c : Nat) : Nat :=
  match decodeF fmtF32 c with
  | .nan s fr => quietCode fmtF32 s fr
  | .inf s => signCode fmtF32 s
  | .num s m e =>
    if m = 0 then infCode fmtF32 s
    else roundF fmtF32 .rne 0 s (2 ^ 128 / m) (-e - 128) (2 ^ 128 % m ≠ 0)

def rsqCode (c : Nat) : Nat :=
  match decodeF fmtF32 c with
  | .nan s fr => quietCode fmtF32 s fr
  | .inf s => if s then nanCode fmtF32 else 0
  | .num s m e =>
    if m = 0 then infCode fmtF32 s
    else if s then nanCode fmtF32
    else
      let m' := if e % 2 = 0 then m else 2 * m
      let e' := if e % 2 = 0 then e else e - 1
      let q := isqrt (2 ^ 256 / m')
      roundF fmtF32 .rne 0 false q (-128 - e' / 2) (q * q * m' ≠ 2 ^ 256)

def sqrtCode (c : Nat) : Nat :=
  match decodeF fmtF32 c with
  | .nan s fr => quietCode fmtF32 s fr
  | .inf s => if s then nanCode fmtF32 else infCode fmtF32 false
  | .num s m e =>
    if m = 0 then signCode fmtF32 s
    else if s then nanCode fmtF32
    else
      let m' := if e % 2 = 0 then m else 2 * m
      let e' := if e % 2 = 0 then e else e - 1
      let q := isqrt (m' * 2 ^ 128)
      roundF fmtF32 .rne 0 false q (e' / 2 - 64) (q * q ≠ m' * 2 ^ 128)

def exp2Code (c : Nat) : Nat :=
  match decodeF fmtF32 c with
  | .nan s fr => quietCode fmtF32 s fr
  | .inf s => if s then 0 else infCode fmtF32 false
  | .num s m e =>
    if 7 < (m.log2 : Int) + e then (if s then 0 else infCode fmtF32 false)
    else
      -- x × 2^seriesBits is an integer, since e ≥ −149
      let x : Int := scaledInt s m e (-(seriesBits : Int))
      let i := x / (2 ^ seriesBits : Nat)
      let ff := (x % (2 ^ seriesBits : Nat)).toNat
      if ff = 0 then roundF fmtF32 .rne 0 false 1 i false
      else roundF fmtF32 .rne 0 false (exp2Frac ff) (i - seriesBits) true

def log2Code (c : Nat) : Nat :=
  match decodeF fmtF32 c with
  | .nan s fr => quietCode fmtF32 s fr
  | .inf s => if s then nanCode fmtF32 else infCode fmtF32 false
  | .num s m e =>
    if m = 0 then infCode fmtF32 true
    else if s then nanCode fmtF32
    else
      let l := m.log2
      let i := e + l
      if m = 2 ^ l then convertFromInt fmtF32 .rne 0 i
      else
        let frac := log2Bits 512 128 (m * 2 ^ (512 - l)) 0
        let v : Int := i * (2 ^ 128 : Nat) + frac
        if v < 0 then roundF fmtF32 .rne 0 true (-v - 1).toNat (-128) true
        else roundF fmtF32 .rne 0 false v.toNat (-128) true

end Sys2Proof.Machine
end

