-- ==== Sys2Proof/Machine/State.lean ====
section
/-! DEFINITION. The state of one Tavin package as plain data, the reasons a step can stop, and the state after
reset. Nothing here computes; the operations are in the other files of this folder. -/

namespace Sys2Proof.Machine

/-- A byte memory: address and byte pairs with strictly rising addresses and no byte equal to zero, which is what an
unlisted address reads as (R118, R460 step 6). -/
abbrev Memory := List Host.Cell

/-- A list of naturals keyed by naturals, in rising order of key, used for sparse tables. -/
abbrev NatMap (α : Type) := List (Nat × α)

/-! ### One context (R152, R187, R407) -/

/-- The words of an issue group that have issued before its last word (R132): the IMMX payloads in order, the
LIKELY direction, NOFOLD, whether one of the kinds came too often, and the offset of the group's first word. -/
structure Pfx where
  immx : List (BitVec 22)
  likely : Option Bool
  nofold : Bool
  excess : Bool
  start : BitVec 21
  deriving DecidableEq, Repr

/-- What a SPIN watches (R139): a line in the L1 of its core, a 128-byte block of a local memory, or nothing that the machine
can see change. -/
inductive Watch
  | line (tag : Nat)
  | block (core : CoreId) (n : Nat)
  | nothing
  deriving DecidableEq, Repr

/-- How far the run-ahead of a context has come (R264): it has begun, it has stopped with this batch of frames, or its batch has
been asked for. -/
inductive RunAhead
  | begun
  | stopped (batch : List Word)
  | asked
  deriving DecidableEq, Repr

/-- Why a live context is not ready beyond the conditions its next word states. -/
inductive Wait
  /-- the access to this frame met it not resident; the service has not answered (R264). -/
  | residency (ref : Word) (ahead : RunAhead)
  /-- a class 3 read of `n` bytes, at this host address by the translation it was sent with, is outstanding (R261, R454). -/
  | host (ref : Word) (n : Nat) (addr : Nat)
  /-- a far atomic has been sent to its bank (R280). -/
  | far
  /-- the package of this reference's location is UNREACHABLE (R347). -/
  | route (ref : Word) (package : BitVec 13)
  /-- a SPIN on this reference: what it watches, whether that has been written or has left the L1 since, and the cycle in
  which the SPIN issued (R139). -/
  | spin (ref : Word) (on : Watch) (woken : Bool) (since : Word)
  /-- a YIELD until these contexts have issued (R177). -/
  | yielded (others : List Nat)
  /-- its message to a router waits for the partner copy's (R433). -/
  | twin
  /-- a terminal trap has been recorded and a superstep rollback is due (R400, R429). -/
  | rollback
  deriving DecidableEq, Repr

/-- The answer of a bank to a far atomic: the old value, a trap with its cause, EADDR and EINFO (R330, R420), or that the
release of a CAS that would write has a report to take first (R285). -/
inductive FarReply
  | old (m : Word)
  | reported
  | bad (cause : BitVec 8) (eaddr : Word) (einfo : Word)
  deriving DecidableEq, Repr

/-- Where a pending error report is taken (R174, R243, R285, R420). -/
inductive ReportKind
  /-- a stopped engine command with this token register; `matrix` when the matrix engine skips commands until it
  is taken (R243). -/
  | engine (t : BitVec 6) (isMatrix : Bool)
  /-- a RED or REDACC not applied at a bank of this die, 8 × package + die (R285, R330). -/
  | bank (die : Nat)
  /-- a report of a helper ended by STOP, passed to context 0: the die of a bank's report, or a stopped engine command's
  (R174). -/
  | passed (die : Option Nat) (isMatrix : Bool)
  deriving DecidableEq, Repr

/-- A pending error report of a context. -/
structure Report where
  cause : BitVec 8
  eaddr : Word
  einfo : Word
  kind : ReportKind
  deriving DecidableEq, Repr

/-- A message that a twin copy holds until its partner's arrives (R433): its hash, and whether the comparison let it
pass. -/
structure TwinMsg where
  seq : Nat
  hash : Word
  passed : Bool
  response : List Word
  deriving DecidableEq, Repr

/-- The system registers that a context holds and a context record saves (R187, R407). -/
structure SysRegs where
  rkey : Word
  tensor : Word
  ovlh : Word
  events : Word
  evmask : Word
  trapv : Word
  epc : Word
  ecause : Word
  eaddr : Word
  einfo : Word
  svclvl : Word
  sevpol : Word
  injen : Word
  deferred : Word
  deriving DecidableEq, Repr

/-- The EADDR and EINFO kept for the latest occurrence of each event (R401). -/
structure EventInfo where
  broken : Word × Word
  mail : Word × Word
  handback : Word × Word
  deriving DecidableEq, Repr

/-- The dirty bits of a context's registers (R405). Those of the system registers are given by what the image area holds of them: a
register's bit is set where it differs, and in `none` every bit is, as placement leaves them. -/
structure CtxDirty where
  g : BitVec 64
  v : BitVec 32
  k : BitVec 8
  sys : Option SysRegs
  deriving DecidableEq, Repr

/-- The unfolded metering counts of a context (R447, R448): METR0 to METR7 and the fJ accumulator. -/
structure Meter where
  counts : Vector Word 8
  femto : Nat
  deriving DecidableEq, Repr

/-- One hardware context. `hostGot`, `farGot`, `refused`, `remoteBad`, `progress` and `twinMsg` belong to the word in
progress: the answers it has had, and `progress`: the matrix commands that its EFENCE still waits for (R241), or that its
BRST has been recorded (R362); `ringRec` is the reference and the record that its RSET has read (R288). `arriving` are the old values of far atomics on their way to registers that are pending (R279). -/
structure Ctx where
  num : Nat
  live : Bool
  pc : BitVec 21
  pfx : Option Pfx
  level : BitVec 3
  revn : BitVec 8
  ar : Bool
  byp : Bool
  ovlActive : Bool
  g : Vector Word 64
  v : Vector VWord 32
  k : Vector (BitVec 32) 8
  pendG : BitVec 64
  pendV : BitVec 32
  sys : SysRegs
  evInfo : EventInfo
  wait : Option Wait
  hostGot : List (Word × List Byte)
  farGot : Option FarReply
  refused : Option Word
  remoteBad : Option (BitVec 8)
  progress : Option Nat
  ringRec : Option (Word × Nat)
  stopReq : Bool
  reports : List Report
  twinSeq : Nat
  twinMsg : Option TwinMsg
  arriving : List (BitVec 6 × Word)
  sfuOut : Nat
  unit : Meter
  digest : BitVec 128
  dirty : CtxDirty
  deriving DecidableEq, Repr

/-! ### The matrix engine of a core (R221 to R248) -/

/-- Classes of an accumulator element (R62). -/
inductive AccClass | finite | posInf | negInf | nan
  deriving DecidableEq, Repr

/-- An accumulator element (R62). -/
structure Elem where
  a : BitVec 96
  cls : AccClass
  payload : BitVec 23
  clamp : Bool
  deriving DecidableEq, Repr

/-- An accumulator tile: its anchor, SAT, its MSHAD mark, and its elements that differ from the element of R222,
keyed by 32r + c (R222, R245). -/
structure Tile where
  anchor : BitVec 10
  sat : Bool
  mark : BitVec 2
  elems : NatMap Elem
  deriving DecidableEq, Repr

/-- A matrix command with what it recorded at issue (R223, R406). -/
structure MCmd where
  instr : Instr
  ctx : Nat
  ga : Word
  gb : Word
  ga1 : Word
  tensor : Word
  sevpol : Word
  nofold : Bool
  deriving DecidableEq, Repr

/-- The live shadow of a core (R246): its tile, whether FORCE chose it, and its FP32 sums keyed by 32r + c, those
that are not +0. -/
structure Shadow where
  tile : BitVec 3
  forced : Bool
  sums : NatMap (BitVec 32)
  deriving DecidableEq, Repr

/-- A matrix command that has been taken: its progress, and whether it is an MMAR that still waits for a slot. -/
structure MRun where
  cmd : MCmd
  progress : Nat
  waiting : Bool
  deriving DecidableEq, Repr

/-- The matrix engine. -/
structure MatrixEngine where
  mxc0 : Word
  mxc1 : Word
  mxo0 : Word
  mxo1 : Word
  lcause : BitVec 8
  lstat : BitVec 8
  tiles : Vector Tile 8
  queue : List MCmd
  running : Option MRun
  skipFor : Option Nat
  startCount : BitVec 16
  shadow : Option Shadow
  tileDirty : BitVec 8
  deriving DecidableEq, Repr

/-! ### Shape records and the copy engine (R41 to R46, R293 to R307) -/

/-- A shape record, its fields as R41 gives them. -/
structure Shape where
  kind : Nat
  layout : Nat
  rank : Nat
  srcRing : Bool
  dstRing : Bool
  reserved : Bool
  ring : Nat
  src : Word
  dst : Word
  d0 : Nat
  d1 : Nat
  d2 : Nat
  d3 : Nat
  ss1 : Int
  ss2 : Int
  ss3 : Int
  ds1 : Int
  ds2 : Int
  ds3 : Int
  aux : Word
  deriving DecidableEq, Repr

/-- A copy command with what it recorded at issue (R295). -/
structure CopyCmd where
  instr : Instr
  ctx : Nat
  ga : Word
  gb : Word
  sevpol : Word
  nofold : Bool
  deriving DecidableEq, Repr

/-- An object cache entry (R252): the slot of the core, the queue and handle it is tagged by, the descriptor's
device-private address, its four words, and the package whose table it came from with that package's epoch (R347). -/
structure OcEntry where
  slot : Nat
  queue : BitVec 6
  handle : Nat
  addr : Nat
  w0 : Word
  w1 : Word
  w2 : Word
  w3 : Word
  package : BitVec 13
  epoch : BitVec 32
  deriving DecidableEq, Repr

/-- A copy in flight: its command, the record it works on, the elements done before that record (after a restore), the
ring slots moved, the frame it waits for, whether the residency service refused that frame, the UNREACHABLE package
for which it has waited 10 ms (R347), the descriptors that its take checked, under which its accesses complete (R185), and
whether a read of the host's memory for it has failed (R455). -/
structure CopyRun where
  cmd : CopyCmd
  shape : Shape
  base : Nat
  slots : Nat
  frame : Option Word
  refused : Bool
  timedOut : Option (BitVec 13)
  under : List OcEntry
  hostBad : Bool
  deriving DecidableEq, Repr

/-- The copy engine. -/
structure CopyEngine where
  queue : List CopyCmd
  flight : List CopyRun
  deriving DecidableEq, Repr

/-! ### Rings, collective slots and mail (R47, R369, R390) -/

/-- A ring handle (R47). A handle with count 0 is unconfigured (R48). -/
structure Ring where
  broken : Bool
  count : BitVec 4
  size : BitVec 4
  base : BitVec 20
  consumer : BitVec 32
  producer : BitVec 32
  deriving DecidableEq, Repr

/-- The mail ring of a logical core (R390). -/
structure MailRing where
  configured : Bool
  broken : Bool
  size : BitVec 3
  base : BitVec 20
  consumer : BitVec 32
  producer : BitVec 32
  deriving DecidableEq, Repr

/-- A command of the collective queue: CGRP, CTAB, CSTART or SENDM with what it recorded at issue (R374, R391), and the
payload of a SENDM that has been taken and waits for room (R393). -/
structure CollCmd where
  instr : Instr
  ctx : Nat
  ga : Word
  gb : Word
  sevpol : Word
  payload : Option (List Byte)
  deriving DecidableEq, Repr

/-- A contribution that has reached a member's engine: tile, rank and bytes (R379). -/
structure Contribution where
  tile : Nat
  rank : Nat
  bytes : List Byte
  deriving DecidableEq, Repr

/-- A collective group slot (R369). The group and the table are kept as the bytes read (R406). `issued` and `taken` tell
that a CSTART has been issued, or taken, on the slot since placement; `ended` that the latest call has ended; `early` is
the mask of TREADYs for a queued call; `cut` that a rollback has cut the group (R389). -/
structure CollSlot where
  group : Option (List Byte)
  table : Option (List Byte)
  count : BitVec 32
  issued : Bool
  taken : Bool
  isOpen : Bool
  ended : Bool
  ready : BitVec 64
  early : BitVec 64
  fired : BitVec 64
  done : BitVec 64
  ctx : Nat
  token : BitVec 6
  sevpol : Word
  received : List Contribution
  cut : Bool
  deriving DecidableEq, Repr

/-- A packet of a collective call under way to a member (R380). -/
structure Packet where
  dest : CoreId
  source : CoreId
  groupId : Nat
  members : Nat
  seq : BitVec 32
  tile : Nat
  head0 : Word
  head8 : Word
  count : Nat
  stride : Nat
  parts : Nat
  stored : Nat
  contribution : Contribution
  deriving DecidableEq, Repr

/-- The abort of a call on its way to a member: the call, and the status, cause field and operand it ends with (R380,
R386). -/
structure CollAbort where
  dest : CoreId
  groupId : Nat
  seq : BitVec 32
  status : Nat
  cause : Nat
  operand : Nat
  deriving DecidableEq, Repr

/-! ### A logical core -/

/-- The registers that placement loads for a logical core (R99). -/
structure PlaceRegs where
  home : Bool
  lcore : Nat
  lx : Nat
  ly : Nat
  gangix : Nat
  gangsz : Nat
  helpers : Nat
  queue : BitVec 6
  seed : Word
  step : Word
  args : Vector Word 16
  dmem : Vector Word 4
  deriving DecidableEq, Repr

/-- A raise of XBOUND that waits for its commands and stores (R123): the context and the new bound in units of
4 KiB. -/
structure Raise where
  ctx : Nat
  bound : Nat
  deriving DecidableEq, Repr

/-- A logical core with its unit's state. `slot` is the physical core it stands on (R19), when it is resident or
bound; `resident` whether it holds the core now (R109). `lmAt` is the slot whose local memory still matches the image of its last
save (R408 step 2). `arrivedChans` are the channels that have had an arrival since the snapshot in force was captured, or
since placement, and `sinceCapture` those since the latest capture (R429, R430). `stopped` tells that its contexts have been stopped for good (R363); `mailWaits` are the contexts that wait
in a RECVM, in the order in which their waits began (R394). `since` is the cycle at which it became resident, and
`switchDue` tells that its quantum has expired (R109). -/
structure LCore where
  id : CoreId
  slot : Nat
  resident : Bool
  position : Nat
  regs : PlaceRegs
  ctx : Ctx
  others : List Ctx
  last : Nat
  fused : Bool
  fuseAt : Option (BitVec 21)
  xbound : BitVec 21
  xbTake : BitVec 21
  raise : Option Raise
  archmap : Word
  shadown : Word
  lm : Memory
  lmFlips : NatMap Word
  rings : Vector Ring 8
  mail : MailRing
  slots : Vector CollSlot 4
  mx : MatrixEngine
  copies : CopyEngine
  coll : List CollCmd
  snapChan : Option (BitVec 2)
  retry : Nat
  arrivedChans : BitVec 4
  sinceCapture : BitVec 4
  blockDirty : List Nat
  imageArea : Option Nat
  lmAt : Option Nat
  rollbackDue : Option RbTrigger
  rollbackBy : Nat
  copySeq : Nat
  sendSeq : Nat
  stopped : Bool
  mailWaits : List Nat
  since : Word
  switchDue : Bool
  deriving DecidableEq, Repr

/-! ### Caches, banks and the directory (R249 to R271, R332 to R348) -/

/-- MOESI states of a class 1 or 2 line in a cluster cache, and the state of a class 0 line there (R250, R332). -/
inductive LineState | scoped | shared | exclusive | owned | modified
  deriving DecidableEq, Repr

/-- Stored bits of one 8-byte unit that differ from what its check bits were computed for (R186, R418): the tier
(for an L1 the core's slot as well), the unit's number, and the flipped bits. -/
structure Flip where
  tier : Tier
  slot : Nat
  unit : Nat
  mask : Word
  deriving DecidableEq, Repr

/-- A 128-byte line that a cluster cache and its L1s hold (R250): the cluster (16 x die + cluster), the line's tag
package << 33 | stack << 29 | frame << 9 | line (R333, R348), its bytes, which of them are valid and which are dirty
(R321), the L1s that hold it by slot, and flipped bits by unit 0-15. -/
structure CacheLine where
  cluster : Nat
  tag : Nat
  state : LineState
  data : BitVec 1024
  valid : BitVec 128
  dirty : BitVec 128
  l1s : List Nat
  flips : List Flip
  deriving DecidableEq, Repr

/-- Directory entry states (R333). -/
inductive DirState | invalid | shared | exclusive | owned | modified | lost | busy
  deriving DecidableEq, Repr

/-- A directory entry (R333). `reason` is the reason of R343 while it is LOST; `granted` is, for a proxy entry, the
aggregate state that the home has granted to this package (R338). -/
structure DirEntry where
  state : DirState
  pinned : Bool
  coarse : Bool
  proxy : Bool
  dispatcher : Bool
  bank : Bool
  remote : Bool
  owner : Nat
  home : BitVec 13
  tag : Nat
  sharers : BitVec 128
  packages : List (BitVec 13)
  reason : Nat
  granted : DirState
  deriving DecidableEq, Repr

/-- A message that this package has sent to another about a line (R338, R341), with the epoch that it reports (R346). -/
structure FabricMsg where
  package : BitVec 13
  line : Nat
  msg : ProxyMsg
  epoch : BitVec 32
  deriving DecidableEq, Repr

/-- Who requests a line (R335): a cluster, the dispatcher, the line's bank, or another package. -/
inductive Requester
  | cluster (n : Nat)
  | dispatcher
  | bank
  | package (p : BitVec 13)
  deriving DecidableEq, Repr

/-- An outstanding transaction of a line (R336). `data`, with its dirty bytes and flipped bits, is what the owner supplied. -/
structure DirTx where
  tag : Nat
  requester : Requester
  own : Bool
  before : DirEntry
  forward : Option Nat
  invalidate : List Nat
  data : Option (BitVec 1024)
  flips : List Flip
  granted : Bool
  dirty : BitVec 128
  deriving DecidableEq, Repr

/-- A request that waits at the primary for a BUSY line (R336). -/
structure DirWaiting where
  tag : Nat
  requester : Requester
  own : Bool
  deriving DecidableEq, Repr

/-- A Conjunction die (R15): whether it is lost, and its directory control window (R348). -/
structure ConjunctionDie where
  lost : Bool
  mirrorLost : Bool
  primaryAll : Bool
  select : Word
  dent : List Word
  recalls : BitVec 32
  lostEntries : BitVec 16
  deriving DecidableEq, Repr

/-- A translation buffer entry (R258): the extent list, the object frame, the frame entry's address and its word
0x00 and replica bits as filled, and the port's own count of accesses (R269). -/
structure TbEntry where
  extents : Nat
  frame : Nat
  entry : Nat
  word : Word
  replicas : BitVec 8
  nd : Nat
  nh : Nat
  deriving DecidableEq, Repr

/-- A residency request (R263). -/
structure ResReq where
  ref : Word
  desc : Nat
  slot : Nat
  ctx : Nat
  kind : Nat
  queue : BitVec 6
  core : CoreId
  deriving DecidableEq, Repr

/-- What a memory port does with a frame when its shoot-down ends (R269): it migrates it, or copies it as a replica, to a
bank address; the port's die, the object frame, and the descriptor's address. -/
structure FrameCopy where
  die : Nat
  frame : Nat
  target : Nat
  replica : Bool
  desc : Nat
  deriving DecidableEq, Repr

/-- A shoot-down under way (R261): the frame entry's address, its word before, the ports that have acknowledged, and the
copy that follows where a port began it. -/
structure Shoot where
  entry : Nat
  before : Word
  acked : List Nat
  copyTo : Option FrameCopy
  deriving DecidableEq, Repr

/-- Where a bank operation or an atomic acts (R280): a local memory, or a byte of a stack. -/
inductive Site
  | local (core : CoreId) (off : Nat)
  | bank (addr : Nat)
  deriving DecidableEq, Repr

/-- An operation sent to a bank or to a local memory's atomic unit: a far atomic, an integer RED or a REDACC, on `n` bytes, with
the operands read at issue; whether it has release order. -/
structure BankOp where
  core : CoreId
  ctx : Nat
  far : Bool
  rel : Bool
  instr : Instr
  site : Site
  n : Nat
  ref : Word
  cls : Nat
  tensor : BitVec 32
  layout : Nat
  profile : Nat
  x : Word
  e : Word
  images : Nat
  anchor : BitVec 10
  deriving DecidableEq, Repr

/-- A request to a special-function unit (R218): its core and that core's slot, its context, the step in which it reached the
queue, operation, destination, mask and operand. -/
structure SfuReq where
  core : CoreId
  slot : Nat
  ctx : Nat
  came : Nat
  op : Instr
  mask : BitVec 32
  x : VWord
  deriving DecidableEq, Repr

/-- The queue and the started requests of one cluster's special-function unit, those whose result is still to be written; the
core whose request entered last, and the one whose request had entered last before this step's. -/
structure SfuUnit where
  cluster : Nat
  queue : List SfuReq
  started : List SfuReq
  last : Nat
  before : Nat
  deriving DecidableEq, Repr

/-! ### One compute die (R17, R18) -/

/-- The telemetry ring registers of a die (R424). -/
structure Telemetry where
  base : Word
  entries : BitVec 32
  consumer : BitVec 32
  producer : BitVec 32
  dropped : BitVec 32
  lc : Bool
  deriving DecidableEq, Repr

/-- A flow that a die's router restores to order (R457): its key, the next sequence number, and the early flits. -/
structure Flow where
  source : Nat
  cls : BitVec 2
  next : BitVec 16
  early : List Flit
  deriving DecidableEq, Repr

/-- The state of one compute die that is not a core's or a cluster's. `cycle` counts its clock's cycles since it left reset, which
its cores read as CYCLE (R190). `residency` are the requests that the service has not
answered, `refused` the refused requests of engine commands not yet taken (R263). `freeFrames` are the free frames of its two
stacks that its port may take for a migration, each as 2^20 × stack + frame (R269). -/
structure DieState where
  ready : Bool
  cycle : Word
  migc0 : Word
  migc1 : Word
  tb : List TbEntry
  residency : List ResReq
  refused : List ResReq
  telemetry : Telemetry
  ovBase : Word
  ovCapacity : BitVec 32
  ovHeld : BitVec 16
  ovSpilled : Word
  overflow : List Packet
  mixedMask : Word
  energy : Vector (BitVec 32) 32
  corrected : Vector Nat 8
  archStore : NatMap (BitVec 32)
  flows : List Flow
  delivered : List Flit
  freeFrames : List Nat
  deriving DecidableEq, Repr

/-! ### Queues, tasks and retirement (R76 to R115, R440 to R451) -/

/-- Queue status codes (R77). -/
inductive QStatus | stopped | active | draining | resetting
  deriving DecidableEq, Repr

/-- A hardware queue: its configuration record (R77), the words of its header line (R76), the dispatcher's copy of them as it
last read the line (R79), whether it waits for a link word (R80), the result of the last host append and whether a host append
is in progress (R82), its severity policy entry (R422), and the task whose expired budget has begun a reset of the partition
(R92). -/
structure Queue where
  en : Bool
  pe : Bool
  priority : BitVec 3
  weight : BitVec 16
  meter : BitVec 32
  table : Word
  entries : BitVec 25
  watchdog : BitVec 32
  deficit : Int
  resets : BitVec 16
  status : QStatus
  launchers : Word
  head : Word
  tail : Word
  appends : Word
  seenHead : Word
  seenTail : Word
  waitLink : Bool
  hostResult : BitVec 3
  hostAppend : Option Word
  sevpol : Word
  expired : Option Word
  deriving DecidableEq, Repr

/-- The Concordance chain record of a queue (R444), with the entries recorded and not yet passed: position, whether
the task has DIG, and the 64 bytes of its entry (R445). -/
structure Chain where
  value : List Byte
  folded : Word
  linked : Word
  positions : List (Word × Nat)
  recorded : List (Nat × Bool × List Byte)
  deriving DecidableEq, Repr

/-- How far a task has come in the dispatcher. -/
inductive TaskPhase | held | running | preempted | failed | cancelled
  deriving DecidableEq, Repr

/-- A remap entry (R107). `res` is what another package's dispatcher has told of a logical core bound there. -/
structure Bind where
  lcore : Nat
  copy : Nat
  slot : Nat
  position : Nat
  package : BitVec 13
  valid : Bool
  placed : Bool
  res : Bool
  deriving DecidableEq, Repr

/-- A window group, under TWIN one copy of it, that another package has granted (R106): its number × copies + copy, the package, and
slot and position of each logical core in order. -/
structure Grant where
  unit : Nat
  package : BitVec 13
  places : List (Nat × Nat)
  deriving DecidableEq, Repr

/-- A task that the dispatcher has selected (R86): its name (`taskKey`: TCB reference and queue in one word), its queue, the 32 words read at first admission
(R38), its effective priority (R84), metering context (R90), order of admission (R89), link position (R445), remap
table, count of placements (R108), the answers of other packages (R106), the pending digest entries by logical core
(R443), the cycle up to which its held cores have been charged (R85), and its watchdog count in µs (R91). -/
structure Task where
  ref : Word
  queue : BitVec 6
  phase : TaskPhase
  words : List Word
  prio : Nat
  meter : BitVec 32
  order : Nat
  firstOrder : Nat
  position : Nat
  binds : List Bind
  placements : BitVec 32
  remote : List Grant
  pending : NatMap (BitVec 128)
  charged : Word
  watch : Nat
  deriving DecidableEq, Repr

/-- A member of a barrier record (R349). `scope` is the scope of its last arrival's release, fixed at the ARRIVE's issue (R357);
`signalled` counts the arrivals whose release is complete (R355); `request` is the rollback request of its last arrival (R423). -/
structure Member where
  lcore : Nat
  lp : BitVec 32
  scope : Nat
  signalled : BitVec 32
  departed : Bool
  snap : Bool
  request : Option Nat
  captured : Bool
  reset : Bool
  deriving DecidableEq, Repr

/-- What a barrier record held at the completion of a snapshot phase (R428, R430): members, GP, BR and reason, SP, and
whether its last phase was a snapshot mismatch. -/
structure Phase where
  members : List Member
  gp : BitVec 32
  broken : Bool
  reason : BitVec 8
  snapPhase : Bool
  mixed : Bool
  deriving DecidableEq, Repr

/-- A barrier record of one block of one channel of a task's copy (R349). `mixed` tells that the last completed phase
was a snapshot mismatch (R359); `everSnap` that the block has completed a snapshot phase, and `retry` is its retry count
(R430, R431); `kept` is the record as the last snapshot phase that covers it left it (R428). -/
structure Barrier where
  task : Word
  copy : Nat
  chan : BitVec 2
  group : Nat
  members : List Member
  gp : BitVec 32
  broken : Bool
  reason : BitVec 8
  snapPhase : Bool
  mixed : Bool
  everSnap : Bool
  retry : Nat
  kept : Option Phase
  resets : Nat
  deriving DecidableEq, Repr

/-- Word 0x20 of a TCB as the hardware's own state machine has it (R36): where the TCB lies, the state code and the predecessor
count. A TCB that the hardware has not moved out of IDLE has no such record. -/
structure TcbState where
  place : Nat
  state : Nat
  count : Nat
  deriving DecidableEq, Repr

/-- Cores of this package that its dispatcher holds for a window group of a task of another package (R106). -/
structure ForeignBind where
  package : BitVec 13
  task : Word
  group : Nat
  slots : List Nat
  deriving DecidableEq, Repr

/-- A metering context record (R449). -/
structure MeterRec where
  number : BitVec 32
  loss : Bool
  opened : BitVec 16
  folds : Word
  closed : Word
  time : Word
  counters : Vector Word 8
  deriving DecidableEq, Repr

/-! ### The module in its system (R452 to R467) -/

/-- The start state (R459). -/
inductive StartState | reset | starting | limited | full | failed
  deriving DecidableEq, Repr

/-- An entry of the reachability table (R346); `expired` are the logical cores whose engine commands at their take have
waited 10 ms for the package while it is UNREACHABLE (R347). `stale` tells that frames bound before its last reset may still be
named, and `rebound` are the frame entries that firmware has written since (R347). `usable` are the slots of its usable set, as
its dispatcher last told (R106, R115). -/
structure RemotePkg where
  package : BitVec 13
  state : Reach
  epoch : BitVec 32
  expired : List CoreId
  stale : Bool
  rebound : List Nat
  usable : List Nat
  deriving DecidableEq, Repr

/-- A fabric port (R456, R458): whether it is up, the classes that a STOP received halts, the classes for which it has
signalled STOP, the flits in its input buffers, and the replay buffer with the flits it has sent. -/
structure Port where
  num : BitVec 7
  up : Bool
  stopped : BitVec 4
  signalled : BitVec 4
  buffer : List Flit
  replay : List Flit
  deriving DecidableEq, Repr

/-- An SPDM answer (R464 to R466). -/
inductive SpdmReply
  | version (major minor : Nat)
  | capabilities (certificates challenge measurements secureSession : Bool)
  | algorithms (rsassa3072 sha256 : Bool)
  | digests (slots : List (Option (List Byte)))
  | certificate (chain : List Byte)
  | challenge (slot : BitVec 3) (signature : List Byte)
  | measurements (values : List (List Byte))
  | unsupported (code : Byte)
  deriving DecidableEq, Repr

/-- An event that supervisor firmware receives. -/
inductive FwEvent
  | wdog (q : BitVec 6)
  | queueStopped (q : BitVec 6)
  | twin (task : Word) (lcore : Nat)
  | fenced (die : BitVec 3)
  | unknownMeter (n : BitVec 32)
  | reported (die : BitVec 3)
  deriving DecidableEq, Repr

/-- The identity and attestation state (R464 to R467): the owner chain of slot 1 and the measurements fixed at the
last start. -/
structure Identity where
  ownerChain : Option (List Byte)
  measured : List (List Byte)
  replies : List SpdmReply
  meterReplies : List (List Byte)
  deriving DecidableEq, Repr

/-- The state of the package around its dies. -/
structure Package where
  address : BitVec 13
  start : StartState
  warm : Bool
  fence : Word
  plim : Word
  powerDelayed : BitVec 32
  power : BitVec 16
  delaying : Bool
  hostUp : Bool
  msix : List Nat
  msixTable : Vector Word 16
  firmware : List FwEvent
  remotes : List RemotePkg
  ports : List Port
  identity : Identity
  takeover : Bool
  replicaTable : Word
  epoch : BitVec 32
  deriving DecidableEq, Repr

/-- The dispatcher's registers and lists (R76 to R115). -/
structure Dispatcher where
  queues : Vector Queue 64
  chains : Vector Chain 64
  tasks : List Task
  lastSel : Vector (Option (BitVec 6)) 8
  admissions : Nat
  supervisorMask : Word
  injectionMask : Word
  testMask : Word
  placeCtl : Word
  statusTask : Word
  statusIndex : BitVec 17
  cancelTask : Word
  cancelBusy : Bool
  cancelResult : BitVec 3
  harvested : List Nat
  unusable : List Nat
  tcbs : List TcbState
  foreign : List ForeignBind
  meters : List MeterRec
  imageAreas : List Nat
  areaRoom : Nat
  deriving DecidableEq, Repr

/-- What lies outside the cores: memories, caches, directory, barrier records, packets. `coreRegs` holds, by slot, what a task
core keeps for itself while no logical core is resident on it: SHADOWN and the start count (R187, R244); `lastGang` holds, by
slot, the position of the gang that was resident there last (R109). `privFlips` are flipped bits of device-private memory by
8-byte word, which no event of the opcode table causes (R419). `movedAt` is the
TIMEUS at which a memory port last moved or replicated the frame of an entry (R269). -/
structure Uncore where
  hbm : Memory
  mscDirty : List Nat
  mscHeld : List Nat
  bankFlips : List Flip
  anchors : NatMap (BitVec 10)
  mixed : NatMap (BitVec 2)
  priv : Memory
  privFlips : NatMap Word
  host : Memory
  lines : List CacheLine
  directory : List DirEntry
  dirTxs : List DirTx
  dirWaiting : List DirWaiting
  proxyWants : List DirWaiting
  fabricOut : List FabricMsg
  objectCache : List OcEntry
  bankOps : List BankOp
  sfus : List SfuUnit
  shoots : List Shoot
  movedAt : NatMap Word
  packets : List Packet
  collAborts : List CollAbort
  barriers : List Barrier
  coreRegs : NatMap (Word × BitVec 16)
  lastGang : NatMap Nat
  spills : Memory
  deriving DecidableEq, Repr

/-- Whose turn the outside world or a choice the manual leaves open decides: an event happens, or a logical core
issues. -/
inductive Turn
  | event (i : Instr)
  | issue (core : CoreId)
  deriving DecidableEq, Repr

/-- The state of the machine. `core` and its `ctx` are the logical core and context in focus: the issuing ones while
an instruction executes. `peers` are the other placed logical cores. `stalled` tells that the last word or event did
not act because the conditions its entry states did not hold (R152). `agenda` holds the turns that come next; `tick`
counts steps and numbers the free values. -/
structure State where
  core : LCore
  peers : List LCore
  disp : Dispatcher
  dies : Vector DieState 8
  cdies : Vector ConjunctionDie 2
  unc : Uncore
  pkg : Package
  agenda : List Turn
  stalled : Bool
  cycle : Word
  timeUs : Word
  tick : Nat
  deriving DecidableEq, Repr

/-! ### Why a step can stop -/

/-- The reasons the machine stops with a fault. -/
inductive Fault
  /-- Raised by a core word when no logical core is in focus with a live context, so that there is nothing that could
  execute it (R152). Safe: the hardware executes no word there either. -/
  | noContext
  deriving DecidableEq, Repr

/-- The reasons a step is refused. -/
inductive Refusal
  /-- Raised by an arm of exec whose instruction has no meaning in this model. Safe: nothing is claimed of it. -/
  | notModelled (mnemonic : String)
  deriving DecidableEq, Repr

/-! ### Reset -/

/-- The element of R222. -/
def Elem.zero : Elem := ⟨0, .finite, 0, false⟩

/-- A tile as placement sets it (R222). -/
def Tile.zero : Tile := ⟨0, false, 0, []⟩

/-- An unconfigured ring handle (R47, R48). -/
def Ring.zero : Ring := ⟨false, 0, 0, 0, 0, 0⟩

/-- An unconfigured mail ring (R390). -/
def MailRing.zero : MailRing := ⟨false, false, 0, 0, 0, 0⟩

/-- An empty collective slot (R369). -/
def CollSlot.zero : CollSlot :=
  ⟨none, none, 0, false, false, false, false, 0, 0, 0, 0, 0, 0, 0, [], false⟩

/-- System registers of a context at zero (R99, R187). -/
def SysRegs.zero : SysRegs := ⟨0, 0, 0, 0, 0, 0, 0, 0, 0, 0, 0, 0, 0, 0⟩

/-- Metering counts at zero. -/
def Meter.zero : Meter := ⟨Vector.replicate 8 0, 0⟩

/-- Context `n` with every register at zero and not live; level 3 and revision 1 (R99, R137). -/
def Ctx.zero (n : Nat) : Ctx where
  num := n
  live := false
  pc := 0
  pfx := none
  level := 3
  revn := 1
  ar := false
  byp := false
  ovlActive := false
  g := Vector.replicate 64 0
  v := Vector.replicate 32 0
  k := Vector.replicate 8 0
  pendG := 0
  pendV := 0
  sys := SysRegs.zero
  evInfo := ⟨(0, 0), (0, 0), (0, 0)⟩
  wait := none
  hostGot := []
  farGot := none
  refused := none
  remoteBad := none
  progress := none
  ringRec := none
  stopReq := false
  reports := []
  twinSeq := 0
  twinMsg := none
  arriving := []
  sfuOut := 0
  unit := Meter.zero
  digest := 0
  dirty := ⟨BitVec.allOnes 64, BitVec.allOnes 32, BitVec.allOnes 8, none⟩

/-- The matrix engine as placement sets it (R222). -/
def MatrixEngine.zero : MatrixEngine where
  mxc0 := 0
  mxc1 := 0
  mxo0 := 0
  mxo1 := 0
  lcause := 0
  lstat := 0
  tiles := Vector.replicate 8 Tile.zero
  queue := []
  running := none
  skipFor := none
  startCount := 0
  shadow := none
  tileDirty := BitVec.allOnes 8

/-- Placement registers before any placement. -/
def PlaceRegs.zero : PlaceRegs := ⟨false, 0, 1, 1, 0, 1, 0, 0, 0, 0, Vector.replicate 16 0, Vector.replicate 4 0⟩

/-- A logical core that nothing has been placed on. -/
def LCore.empty : LCore where
  id := ⟨0, 0, 0⟩
  slot := 0
  resident := false
  position := 0
  regs := PlaceRegs.zero
  ctx := Ctx.zero 0
  others := []
  last := 10
  fused := true
  fuseAt := none
  xbound := 0
  xbTake := 0
  raise := none
  archmap := 0
  shadown := 0
  lm := []
  lmFlips := []
  rings := Vector.replicate 8 Ring.zero
  mail := MailRing.zero
  slots := Vector.replicate 4 CollSlot.zero
  mx := MatrixEngine.zero
  copies := ⟨[], []⟩
  coll := []
  snapChan := none
  retry := 0
  arrivedChans := 0
  sinceCapture := 0
  blockDirty := []
  imageArea := none
  lmAt := none
  rollbackDue := none
  rollbackBy := 0
  copySeq := 0
  sendSeq := 0
  stopped := false
  mailWaits := []
  since := 0
  switchDue := false

/-- A queue at reset (R76, R77). -/
def Queue.reset : Queue where
  en := false
  pe := false
  priority := 7
  weight := 1
  meter := 0
  table := 0
  entries := 0
  watchdog := 0
  deficit := 0
  resets := 0
  status := .stopped
  launchers := 0
  head := 0
  tail := 0
  appends := 0
  seenHead := 0
  seenTail := 0
  waitLink := false
  hostResult := 0
  hostAppend := none
  sevpol := 0
  expired := none

/-- A chain record at reset (R444). -/
def Chain.reset : Chain := ⟨List.replicate 32 0, 0, 0, [], []⟩

/-- A compute die at reset: the registers of R268, R381, R424, R330 at their reset values. -/
def DieState.reset : DieState where
  ready := false
  cycle := 0
  migc0 := 0x0008000300020004
  migc1 := 0x0000020000400000
  tb := []
  residency := []
  refused := []
  telemetry := ⟨0, 0, 0, 0, 0, false⟩
  ovBase := 0
  ovCapacity := 0
  ovHeld := 0
  ovSpilled := 0
  overflow := []
  mixedMask := 0
  energy := Vector.replicate 32 0
  corrected := Vector.replicate 8 0
  archStore := []
  flows := []
  delivered := []
  freeFrames := []

/-- The dispatcher at reset (R77, R104, R108, R95). -/
def Dispatcher.reset : Dispatcher where
  queues := Vector.replicate 64 Queue.reset
  chains := Vector.replicate 64 Chain.reset
  tasks := []
  lastSel := Vector.replicate 8 none
  admissions := 0
  supervisorMask := 0
  injectionMask := 0
  testMask := 0
  placeCtl := 0x0000000000030010
  statusTask := 0
  statusIndex := 0
  cancelTask := 0
  cancelBusy := false
  cancelResult := 0
  harvested := []
  unusable := []
  tcbs := []
  foreign := []
  meters := [⟨0, false, 0, 0, 0, 0, Vector.replicate 8 0⟩]
  imageAreas := []
  areaRoom := 131072

/-- The memories and shared structures at reset: nothing listed (R460 step 6). -/
def Uncore.reset : Uncore where
  hbm := []
  mscDirty := []
  mscHeld := []
  bankFlips := []
  anchors := []
  mixed := []
  priv := []
  privFlips := []
  host := []
  lines := []
  directory := []
  dirTxs := []
  dirWaiting := []
  proxyWants := []
  fabricOut := []
  objectCache := []
  bankOps := []
  sfus := []
  shoots := []
  movedAt := []
  packets := []
  collAborts := []
  barriers := []
  coreRegs := []
  lastGang := []
  spills := []

/-- The package at reset (R459, R435, R462). -/
def Package.reset : Package where
  address := 0
  start := .reset
  warm := false
  fence := 0
  plim := 0x0000006400000E10
  powerDelayed := 0
  power := 0
  delaying := false
  hostUp := true
  msix := []
  msixTable := Vector.replicate 16 0
  firmware := []
  remotes := []
  ports := []
  identity := ⟨none, [], [], []⟩
  takeover := false
  replicaTable := 0
  epoch := 0

/-- The machine right after reset: no task is placed, no queue is enabled, every memory reads as zero, and the start
state is reset (R459). -/
def State.reset : State where
  core := LCore.empty
  peers := []
  disp := Dispatcher.reset
  dies := Vector.replicate 8 DieState.reset
  cdies := Vector.replicate 2 ⟨false, false, false, 0, [0, 0, 0, 0], 0, 0⟩
  unc := Uncore.reset
  pkg := Package.reset
  agenda := []
  stalled := false
  cycle := 0
  timeUs := 0
  tick := 0

end Sys2Proof.Machine
end

