-- ==== Sys2Proof/Machine/Accum.lean ====
section
/-! DEFINITION. Accumulator elements: block products (R60, R61), the join and the additions (R63 to R65), images (R62)
and readout (R67). -/

namespace Sys2Proof.Machine

/-- The join of special states (R63), on class and payload. -/
def joinClass (x y : AccClass × Nat) : AccClass × Nat :=
  match x, y with
  | (.finite, _), y => y
  | x, (.finite, _) => x
  | (.nan, p), (.nan, q) => (.nan, min p q)
  | (.nan, p), _ => (.nan, p)
  | _, (.nan, q) => (.nan, q)
  | (.posInf, _), (.posInf, _) => (.posInf, 0)
  | (.negInf, _), (.negInf, _) => (.negInf, 0)
  | _, _ => (.nan, 0x400000)

/-- A contribution: a special value, or an integer (R60, R61). -/
inductive Contrib
  | special (cls : AccClass) (payload : Nat)
  | num (c : Int)
  deriving DecidableEq, Repr

/-- Adding a contribution (R64). -/
def Elem.add (e : Elem) : Contrib → Elem
  | .special cls p =>
    let j := joinClass (e.cls, e.payload.toNat) (cls, p)
    { e with cls := j.1, payload := BitVec.ofNat 23 j.2 }
  | .num c =>
    let d := clampI (-(2 ^ 79)) (2 ^ 79 - 1) c
    { e with a := e.a + BitVec.ofInt 96 d, clamp := e.clamp || decide (d ≠ c) }

/-- Two elements at one anchor combined (R65). -/
def Elem.combine (x y : Elem) : Elem :=
  let j := joinClass (x.cls, x.payload.toNat) (y.cls, y.payload.toNat)
  ⟨x.a + y.a, j.1, BitVec.ofNat 23 j.2, x.clamp || y.clamp⟩

/-- The code of a class in an image (R62). -/
def AccClass.code : AccClass → Nat
  | .finite => 0
  | .posInf => 1
  | .negInf => 2
  | .nan => 3

def AccClass.ofCode : Nat → AccClass
  | 1 => .posInf
  | 2 => .negInf
  | 3 => .nan
  | _ => .finite

/-- The image of an element (R62). -/
def Elem.image (e : Elem) : Nat :=
  e.clamp.toNat * 2 ^ 121 + e.payload.toNat * 2 ^ 98 + e.cls.code * 2 ^ 96 + e.a.toNat

/-- The element of an image, if the image is valid (R62). -/
def Elem.ofImage (n : Nat) : Option Elem :=
  let cls := n / 2 ^ 96 % 4
  let p := n / 2 ^ 98 % 2 ^ 23
  if n / 2 ^ 122 ≠ 0 || 0x400000 < p || (cls ≠ 3 && p ≠ 0) then none
  else some ⟨BitVec.ofNat 96 n, AccClass.ofCode cls, BitVec.ofNat 23 p, n.testBit 121⟩

/-- The elements of consecutive images, if all are valid. -/
def Elem.ofImages : List Nat → Option (List Elem)
  | [] => some []
  | n :: ns => match Elem.ofImage n, Elem.ofImages ns with
    | some e, some es => some (e :: es)
    | _, _ => none

/-! ### Block products (R60, R61) -/

/-- The MX format of a layout code 4-8. -/
def mxOfLayout (layout : Nat) : Fmt :=
  match layout with
  | 4 => fmtE4M3
  | 5 => fmtE5M2
  | 6 => fmtE3M2
  | 7 => fmtE2M3
  | _ => fmtE2M1

/-- The integer form of a finite MX element, x × 2^k with k = bias + m − 1 (R53). -/
def mxInt (f : Fmt) (neg : Bool) (m : Nat) (e : Int) : Int := scaledInt neg m e (f.emin - f.m)

/-- k of a format (R53). -/
def mxK (f : Fmt) : Int := f.m - f.emin

/-- The special value of one product, if it has one (R61). -/
def specialProduct : FVal → FVal → Option (AccClass × Nat)
  | .nan _ _, _ => some (.nan, 0)
  | _, .nan _ _ => some (.nan, 0)
  | .inf s, .inf t => some (if s = t then .posInf else .negInf, 0)
  | .inf s, .num t m _ => some (if m = 0 then .nan else if s = t then .posInf else .negInf, 0)
  | .num s m _, .inf t => some (if m = 0 then .nan else if s = t then .posInf else .negInf, 0)
  | .num _ _ _, .num _ _ _ => none

/-- The join of the special values met. -/
def joinSpecials (l : List (Option (AccClass × Nat))) : Option (AccClass × Nat) :=
  l.foldl (init := none) fun acc x => match acc, x with
    | none, y => y
    | y, none => y
    | some a, some b => some (joinClass a b)

/-- floor(p × 2^q). -/
def floorShift (p q : Int) : Int := if 0 ≤ q then p * pow2 q else p / (pow2 (-q) : Nat)

/-- The contribution of one MX block pair at an anchor (R60): element codes, scale bytes. -/
def mxBlock (fa fb : Fmt) (as bs : List Nat) (xa xb : Nat) (anchor : Int) : Contrib :=
  let va := as.map (decodeF fa)
  let vb := bs.map (decodeF fb)
  if xa = 0xFF || xb = 0xFF then .special .nan 0
  else match joinSpecials (List.zipWith specialProduct va vb) with
    | some (c, p) => .special c p
    | none =>
      let form (f : Fmt) (v : FVal) : Int := match v with
        | .num s m e => mxInt f s m e
        | _ => 0
      let p := (List.zipWith (fun x y => form fa x * form fb y) va vb).foldl (fun x y => x + y) 0
      .num (floorShift p (xa + xb - 254 - mxK fa - mxK fb - anchor))

/-- σ = s × 2^24 of a finite binary16 scale (R57). -/
def scaleInt (s : Nat) : Option Int :=
  match decodeF fmtF16 s with
  | .num neg m e => some (scaledInt neg m e (-24))
  | _ => none

/-- The contribution of one grouped-integer block pair (R60): element codes of widths wa and wb, group entries, and
whether zero points count (MMAZ). -/
def groupBlock (wa wb : Nat) (as bs : List Nat) (ea eb : Word) (zeros : Bool) (anchor : Int) : Contrib :=
  match scaleInt (groupScale ea), scaleInt (groupScale eb) with
  | some sa, some sb =>
    let za := if zeros then groupZero ea else 0
    let zb := if zeros then groupZero eb else 0
    let p := (List.zipWith (fun x y => (elemInt true wa x - za) * (elemInt true wb y - zb)) as bs).foldl
      (fun x y => x + y) 0
    .num (floorShift (p * sa * sb) (-48 - anchor))
  | _, _ => .special .nan 0

/-! ### Readout (R67) -/

/-- A as saturated, and whether it was. -/
def Elem.saturated (e : Elem) : Int × Bool :=
  let v := clampI (-(2 ^ 79)) (2 ^ 79 - 1) e.a.toInt
  (v, decide (v ≠ e.a.toInt) || e.clamp)

/-- The output code of an element at an anchor (R67). `x` is the block scale of an MX format. -/
def Elem.readout (f : Fmt) (mode : RMode) (rb : Nat) (anchor : Int) (x : Nat) (e : Elem) : Nat :=
  match e.cls with
  | .nan => match f.specials with
    | .none => 0
    | .e4m3 => 0x7F
    | .ieee => if f.mx then 0x7F else payloadCode f e.payload.toNat
  | .posInf => if f.specials = .ieee then infCode f false else f.maxCode
  | .negInf => if f.specials = .ieee then infCode f true else signCode f true + f.maxCode
  | .finite =>
    let v := e.saturated.1
    roundF f mode rb (v < 0) v.natAbs (if f.mx then anchor + 127 - x else anchor) false

/-- The largest exponent of a format, emax (R235). -/
def mxEmax (f : Fmt) : Int :=
  match f.w, f.m with
  | 8, 3 => 8
  | 8, _ => 15
  | 6, 2 => 4
  | _, _ => 2

/-- The derived scale of a block of elements, each with its tile's anchor (R235). -/
def derivedScale (f : Fmt) (es : List (Elem × Int)) : Nat :=
  let logs : List Int := es.filterMap fun p =>
    let v := p.1.saturated.1
    if p.1.cls = .finite && v ≠ 0 then some (v.natAbs.log2 + p.2) else none
  match logs with
  | [] => 127
  | l :: ls => (clampI 0 254 (ls.foldl max l - mxEmax f + 127)).toNat

end Sys2Proof.Machine
end

