-- ==== Sys2Proof/Decode.lean ====
section
/-! DEFINITION. Decoding of 32-bit words (chapter 6 and the encodings of each entry), and the encoder written from
the same encodings. A word that no encoding assigns, or whose fields break its entry's limits, is ILL by name. -/

namespace Sys2Proof

/-- Bits [lo+n-1 : lo] of a word. -/
def fld (w lo n : Nat) : Nat := w / 2 ^ lo % 2 ^ n

/-- The same bits as a bit vector. -/
def bf (w lo n : Nat) : BitVec n := BitVec.ofNat n (w / 2 ^ lo)

/-- Codes of the operand types, and the types of codes (R163, R195, R206, R209, R212, R213; chapter 11). -/
def Width.code : Width → Nat
  | .w8 => 0
  | .w16 => 1
  | .w32 => 2
  | .w64 => 3

def Width.ofCode : Nat → Width
  | 0 => .w8
  | 1 => .w16
  | 2 => .w32
  | _ => .w64

def Order.code : Order → Nat
  | .rlx => 0
  | .acq => 1
  | .rel => 2
  | .ar => 3

def Order.ofCode : Nat → Order
  | 0 => .rlx
  | 1 => .acq
  | 2 => .rel
  | _ => .ar

def Scope.code (s : Scope) : Nat := s.num

def Scope.ofCode : Nat → Option Scope
  | 0 => some .ctx
  | 1 => some .core
  | 2 => some .cl
  | 3 => some .die
  | 4 => some .pkg
  | 5 => some .sys
  | _ => none

def IntTy.code : IntTy → Nat
  | .s8 => 0
  | .s16 => 1
  | .s32 => 2
  | .n8 => 3
  | .n16 => 4
  | .n32 => 5

def IntTy.ofCode : Nat → Option IntTy
  | 0 => some .s8
  | 1 => some .s16
  | 2 => some .s32
  | 3 => some .n8
  | 4 => some .n16
  | 5 => some .n32
  | _ => none

def FltTy.code : FltTy → Nat
  | .f32 => 0
  | .bf16 => 1
  | .f16 => 2

def FltTy.ofCode : Nat → Option FltTy
  | 0 => some .f32
  | 1 => some .bf16
  | 2 => some .f16
  | _ => none

/-- F in bit 3 and the type code in bits [2:0] (R212). -/
def NumTy.code : NumTy → Nat
  | .int ty => ty.code
  | .flt ty => 8 + ty.code

def NumTy.ofCode (n : Nat) : Option NumTy :=
  if n < 8 then (IntTy.ofCode n).map .int else (FltTy.ofCode (n - 8)).map .flt

def Cond.code : Cond → Nat
  | .eq => 0
  | .ne => 1
  | .lt => 2
  | .le => 3
  | .gt => 4
  | .ge => 5
  | .un => 6

def Cond.ofCode : Nat → Option Cond
  | 0 => some .eq
  | 1 => some .ne
  | 2 => some .lt
  | 3 => some .le
  | 4 => some .gt
  | 5 => some .ge
  | 6 => some .un
  | _ => none

def RMode.code : RMode → Nat
  | .rne => 0
  | .rz => 1
  | .sr => 2

def RMode.ofCode : Nat → Option RMode
  | 0 => some .rne
  | 1 => some .rz
  | 2 => some .sr
  | _ => none

def PackFmt.code : PackFmt → Nat
  | .e4m3 => 0
  | .e5m2 => 1
  | .e3m2 => 2
  | .e2m3 => 3
  | .e2m1 => 4
  | .i8 => 5
  | .i4 => 6

def PackFmt.ofCode : Nat → Option PackFmt
  | 0 => some .e4m3
  | 1 => some .e5m2
  | 2 => some .e3m2
  | 3 => some .e2m3
  | 4 => some .e2m1
  | 5 => some .i8
  | 6 => some .i4
  | _ => none

def Tier.code : Tier → Nat
  | .lm => 0
  | .l1 => 1
  | .cc => 2
  | .msc => 3
  | .hbm => 4

def Tier.ofCode : Nat → Option Tier
  | 0 => some .lm
  | 1 => some .l1
  | 2 => some .cc
  | 3 => some .msc
  | 4 => some .hbm
  | _ => none

/-- The words of major opcode 0x01 (R128). -/
def decode01 (w : Nat) : Option Instr :=
  if fld w 0 8 = 0 then some (.add (bf w 20 6) (bf w 14 6) (bf w 8 6)) else
  if fld w 0 8 = 1 then some (.sub (bf w 20 6) (bf w 14 6) (bf w 8 6)) else
  if fld w 0 8 = 2 then some (.and (bf w 20 6) (bf w 14 6) (bf w 8 6)) else
  if fld w 0 8 = 3 then some (.or (bf w 20 6) (bf w 14 6) (bf w 8 6)) else
  if fld w 0 8 = 4 then some (.xor (bf w 20 6) (bf w 14 6) (bf w 8 6)) else
  if fld w 0 8 = 5 then some (.andn (bf w 20 6) (bf w 14 6) (bf w 8 6)) else
  if fld w 0 8 = 6 then some (.orn (bf w 20 6) (bf w 14 6) (bf w 8 6)) else
  if fld w 0 8 = 7 then some (.xnor (bf w 20 6) (bf w 14 6) (bf w 8 6)) else
  if fld w 0 8 = 8 then some (.shl (bf w 20 6) (bf w 14 6) (bf w 8 6)) else
  if fld w 0 8 = 9 then some (.shr (bf w 20 6) (bf w 14 6) (bf w 8 6)) else
  if fld w 0 8 = 10 then some (.sar (bf w 20 6) (bf w 14 6) (bf w 8 6)) else
  if fld w 0 8 = 11 then some (.rol (bf w 20 6) (bf w 14 6) (bf w 8 6)) else
  if fld w 0 8 = 12 then some (.ror (bf w 20 6) (bf w 14 6) (bf w 8 6)) else
  if fld w 0 8 = 13 then some (.slt (bf w 20 6) (bf w 14 6) (bf w 8 6)) else
  if fld w 0 8 = 14 then some (.sltu (bf w 20 6) (bf w 14 6) (bf w 8 6)) else
  if fld w 0 8 = 15 then some (.seq (bf w 20 6) (bf w 14 6) (bf w 8 6)) else
  if fld w 0 8 = 16 then some (.sne (bf w 20 6) (bf w 14 6) (bf w 8 6)) else
  if fld w 0 8 = 17 then some (.minS (bf w 20 6) (bf w 14 6) (bf w 8 6)) else
  if fld w 0 8 = 18 then some (.maxS (bf w 20 6) (bf w 14 6) (bf w 8 6)) else
  if fld w 0 8 = 19 then some (.minU (bf w 20 6) (bf w 14 6) (bf w 8 6)) else
  if fld w 0 8 = 20 then some (.maxU (bf w 20 6) (bf w 14 6) (bf w 8 6)) else
  if fld w 0 8 = 21 then some (.mul (bf w 20 6) (bf w 14 6) (bf w 8 6)) else
  if fld w 0 8 = 22 then some (.mulh (bf w 20 6) (bf w 14 6) (bf w 8 6)) else
  if fld w 0 8 = 23 then some (.mulhu (bf w 20 6) (bf w 14 6) (bf w 8 6)) else
  if fld w 0 8 = 24 then some (.div (bf w 20 6) (bf w 14 6) (bf w 8 6)) else
  if fld w 0 8 = 25 then some (.divu (bf w 20 6) (bf w 14 6) (bf w 8 6)) else
  if fld w 0 8 = 26 then some (.rem (bf w 20 6) (bf w 14 6) (bf w 8 6)) else
  if fld w 0 8 = 27 then some (.remu (bf w 20 6) (bf w 14 6) (bf w 8 6)) else
  none

/-- The words of major opcode 0x02 (R128). -/
def decode02 (w : Nat) : Option Instr :=
  if fld w 0 8 = 0 then some (.addw (bf w 20 6) (bf w 14 6) (bf w 8 6)) else
  if fld w 0 8 = 1 then some (.subw (bf w 20 6) (bf w 14 6) (bf w 8 6)) else
  if fld w 0 8 = 8 then some (.shlw (bf w 20 6) (bf w 14 6) (bf w 8 6)) else
  if fld w 0 8 = 9 then some (.shrw (bf w 20 6) (bf w 14 6) (bf w 8 6)) else
  if fld w 0 8 = 10 then some (.sarw (bf w 20 6) (bf w 14 6) (bf w 8 6)) else
  if fld w 0 8 = 21 then some (.mulw (bf w 20 6) (bf w 14 6) (bf w 8 6)) else
  none

/-- The words of major opcode 0x03 (R128). -/
def decode03 (w : Nat) : Option Instr :=
  if fld w 0 3 = 0 ∧ fld w 5 9 = 1 then some (.clz (bf w 20 6) (bf w 14 6) (Width.ofCode (fld w 3 2))) else
  if fld w 0 3 = 1 ∧ fld w 5 9 = 1 then some (.ctz (bf w 20 6) (bf w 14 6) (Width.ofCode (fld w 3 2))) else
  if fld w 0 3 = 2 ∧ fld w 5 9 = 1 then some (.popc (bf w 20 6) (bf w 14 6) (Width.ofCode (fld w 3 2))) else
  if fld w 0 3 = 3 ∧ fld w 5 9 = 1 then some (.ffs (bf w 20 6) (bf w 14 6) (Width.ofCode (fld w 3 2))) else
  if fld w 0 3 = 4 ∧ fld w 5 9 = 1 then some (.brev (bf w 20 6) (bf w 14 6) (Width.ofCode (fld w 3 2))) else
  if fld w 0 3 = 5 ∧ fld w 5 9 = 1 then some (.bswap (bf w 20 6) (bf w 14 6) (Width.ofCode (fld w 3 2))) else
  if fld w 13 1 = 1 then some (.lop3 (bf w 20 6) (bf w 14 6) (bf w 8 5) (bf w 0 8)) else
  if fld w 13 1 = 0 then some (.fshl (bf w 20 6) (bf w 14 6) (bf w 8 5) (Width.ofCode (fld w 6 2)) (bf w 0 6)) else
  none

/-- The words of major opcode 0x04 (R128). -/
def decode04 (w : Nat) : Option Instr :=
  some (.addi (bf w 20 6) (bf w 14 6) (bf w 0 14))

/-- The words of major opcode 0x05 (R128). -/
def decode05 (w : Nat) : Option Instr :=
  some (.andi (bf w 20 6) (bf w 14 6) (bf w 0 14))

/-- The words of major opcode 0x06 (R128). -/
def decode06 (w : Nat) : Option Instr :=
  some (.ori (bf w 20 6) (bf w 14 6) (bf w 0 14))

/-- The words of major opcode 0x07 (R128). -/
def decode07 (w : Nat) : Option Instr :=
  some (.xori (bf w 20 6) (bf w 14 6) (bf w 0 14))

/-- The words of major opcode 0x08 (R128). -/
def decode08 (w : Nat) : Option Instr :=
  some (.slti (bf w 20 6) (bf w 14 6) (bf w 0 14))

/-- The words of major opcode 0x09 (R128). -/
def decode09 (w : Nat) : Option Instr :=
  some (.sltiu (bf w 20 6) (bf w 14 6) (bf w 0 14))

/-- The words of major opcode 0x0A (R128). -/
def decode0A (w : Nat) : Option Instr :=
  if fld w 6 8 = 0 then some (.shli (bf w 20 6) (bf w 14 6) (bf w 0 6)) else
  if fld w 6 8 = 1 then some (.shri (bf w 20 6) (bf w 14 6) (bf w 0 6)) else
  if fld w 6 8 = 2 then some (.sari (bf w 20 6) (bf w 14 6) (bf w 0 6)) else
  if fld w 6 8 = 3 then some (.rori (bf w 20 6) (bf w 14 6) (bf w 0 6)) else
  none

/-- The words of major opcode 0x0B (R128). -/
def decode0B (w : Nat) : Option Instr :=
  if fld w 12 2 = 0 then some (.extz (bf w 20 6) (bf w 14 6) (bf w 6 6) (bf w 0 6)) else
  if fld w 12 2 = 1 then some (.exts (bf w 20 6) (bf w 14 6) (bf w 6 6) (bf w 0 6)) else
  if fld w 12 2 = 2 then some (.dep (bf w 20 6) (bf w 14 6) (bf w 6 6) (bf w 0 6)) else
  none

/-- The words of major opcode 0x0C (R128). -/
def decode0C (w : Nat) : Option Instr :=
  some (.lds (bf w 20 6) (bf w 14 6) (bf w 2 12) (Width.ofCode (fld w 0 2)))

/-- The words of major opcode 0x0D (R128). -/
def decode0D (w : Nat) : Option Instr :=
  some (.ldz (bf w 20 6) (bf w 14 6) (bf w 2 12) (Width.ofCode (fld w 0 2)))

/-- The words of major opcode 0x0E (R128). -/
def decode0E (w : Nat) : Option Instr :=
  some (.st (bf w 20 6) (bf w 14 6) (bf w 2 12) (Width.ofCode (fld w 0 2)))

/-- The words of major opcode 0x10 (R128). -/
def decode10 (w : Nat) : Option Instr :=
  if fld w 0 3 = 0 then (Scope.ofCode (fld w 3 3)).bind fun x0 => some (.amoaddW (bf w 20 6) (bf w 14 6) (bf w 8 6) (Order.ofCode (fld w 6 2)) x0) else
  if fld w 0 3 = 1 then (Scope.ofCode (fld w 3 3)).bind fun x0 => some (.amoandW (bf w 20 6) (bf w 14 6) (bf w 8 6) (Order.ofCode (fld w 6 2)) x0) else
  if fld w 0 3 = 2 then (Scope.ofCode (fld w 3 3)).bind fun x0 => some (.amoorW (bf w 20 6) (bf w 14 6) (bf w 8 6) (Order.ofCode (fld w 6 2)) x0) else
  if fld w 0 3 = 3 then (Scope.ofCode (fld w 3 3)).bind fun x0 => some (.amoxorW (bf w 20 6) (bf w 14 6) (bf w 8 6) (Order.ofCode (fld w 6 2)) x0) else
  if fld w 0 3 = 4 then (Scope.ofCode (fld w 3 3)).bind fun x0 => some (.amominW (bf w 20 6) (bf w 14 6) (bf w 8 6) (Order.ofCode (fld w 6 2)) x0) else
  if fld w 0 3 = 5 then (Scope.ofCode (fld w 3 3)).bind fun x0 => some (.amomaxW (bf w 20 6) (bf w 14 6) (bf w 8 6) (Order.ofCode (fld w 6 2)) x0) else
  if fld w 0 3 = 6 then (Scope.ofCode (fld w 3 3)).bind fun x0 => some (.amominuW (bf w 20 6) (bf w 14 6) (bf w 8 6) (Order.ofCode (fld w 6 2)) x0) else
  if fld w 0 3 = 7 then (Scope.ofCode (fld w 3 3)).bind fun x0 => some (.amomaxuW (bf w 20 6) (bf w 14 6) (bf w 8 6) (Order.ofCode (fld w 6 2)) x0) else
  none

/-- The words of major opcode 0x11 (R128). -/
def decode11 (w : Nat) : Option Instr :=
  if fld w 0 3 = 0 then (Scope.ofCode (fld w 3 3)).bind fun x0 => some (.amoaddD (bf w 20 6) (bf w 14 6) (bf w 8 6) (Order.ofCode (fld w 6 2)) x0) else
  if fld w 0 3 = 1 then (Scope.ofCode (fld w 3 3)).bind fun x0 => some (.amoandD (bf w 20 6) (bf w 14 6) (bf w 8 6) (Order.ofCode (fld w 6 2)) x0) else
  if fld w 0 3 = 2 then (Scope.ofCode (fld w 3 3)).bind fun x0 => some (.amoorD (bf w 20 6) (bf w 14 6) (bf w 8 6) (Order.ofCode (fld w 6 2)) x0) else
  if fld w 0 3 = 3 then (Scope.ofCode (fld w 3 3)).bind fun x0 => some (.amoxorD (bf w 20 6) (bf w 14 6) (bf w 8 6) (Order.ofCode (fld w 6 2)) x0) else
  if fld w 0 3 = 4 then (Scope.ofCode (fld w 3 3)).bind fun x0 => some (.amominD (bf w 20 6) (bf w 14 6) (bf w 8 6) (Order.ofCode (fld w 6 2)) x0) else
  if fld w 0 3 = 5 then (Scope.ofCode (fld w 3 3)).bind fun x0 => some (.amomaxD (bf w 20 6) (bf w 14 6) (bf w 8 6) (Order.ofCode (fld w 6 2)) x0) else
  if fld w 0 3 = 6 then (Scope.ofCode (fld w 3 3)).bind fun x0 => some (.amominuD (bf w 20 6) (bf w 14 6) (bf w 8 6) (Order.ofCode (fld w 6 2)) x0) else
  if fld w 0 3 = 7 then (Scope.ofCode (fld w 3 3)).bind fun x0 => some (.amomaxuD (bf w 20 6) (bf w 14 6) (bf w 8 6) (Order.ofCode (fld w 6 2)) x0) else
  none

/-- The words of major opcode 0x12 (R128). -/
def decode12 (w : Nat) : Option Instr :=
  if fld w 0 2 = 2 ∧ fld w 8 6 = 0 then (Scope.ofCode (fld w 3 3)).bind fun x0 => some (.ldo (bf w 20 6) (bf w 14 6) (Order.ofCode (fld w 6 2)) x0 (fld w 2 1 == 1)) else
  if fld w 0 2 = 3 ∧ fld w 20 6 = 0 then (Scope.ofCode (fld w 3 3)).bind fun x0 => some (.sto (bf w 14 6) (bf w 8 6) (Order.ofCode (fld w 6 2)) x0 (fld w 2 1 == 1)) else
  if fld w 0 2 = 0 then (Scope.ofCode (fld w 3 3)).bind fun x0 => some (.swp (bf w 20 6) (bf w 14 6) (bf w 8 6) (Order.ofCode (fld w 6 2)) x0 (fld w 2 1 == 1)) else
  if fld w 0 2 = 1 then (Scope.ofCode (fld w 3 3)).bind fun x0 => some (.cas (bf w 20 6) (bf w 14 6) (bf w 8 6) (Order.ofCode (fld w 6 2)) x0 (fld w 2 1 == 1)) else
  none

/-- The words of major opcode 0x13 (R128). -/
def decode13 (w : Nat) : Option Instr :=
  if fld w 4 4 = 0 ∧ fld w 21 5 = 0 then (Scope.ofCode (fld w 0 3)).bind fun x0 => some (.redadd (fld w 20 1 == 1) (bf w 14 6) (bf w 8 6) (fld w 3 1 == 1) x0) else
  if fld w 4 4 = 1 ∧ fld w 21 5 = 0 then (Scope.ofCode (fld w 0 3)).bind fun x0 => some (.redand (fld w 20 1 == 1) (bf w 14 6) (bf w 8 6) (fld w 3 1 == 1) x0) else
  if fld w 4 4 = 2 ∧ fld w 21 5 = 0 then (Scope.ofCode (fld w 0 3)).bind fun x0 => some (.redor (fld w 20 1 == 1) (bf w 14 6) (bf w 8 6) (fld w 3 1 == 1) x0) else
  if fld w 4 4 = 3 ∧ fld w 21 5 = 0 then (Scope.ofCode (fld w 0 3)).bind fun x0 => some (.redxor (fld w 20 1 == 1) (bf w 14 6) (bf w 8 6) (fld w 3 1 == 1) x0) else
  if fld w 4 4 = 4 ∧ fld w 21 5 = 0 then (Scope.ofCode (fld w 0 3)).bind fun x0 => some (.redmin (fld w 20 1 == 1) (bf w 14 6) (bf w 8 6) (fld w 3 1 == 1) x0) else
  if fld w 4 4 = 5 ∧ fld w 21 5 = 0 then (Scope.ofCode (fld w 0 3)).bind fun x0 => some (.redmax (fld w 20 1 == 1) (bf w 14 6) (bf w 8 6) (fld w 3 1 == 1) x0) else
  if fld w 4 4 = 6 ∧ fld w 21 5 = 0 then (Scope.ofCode (fld w 0 3)).bind fun x0 => some (.redminu (fld w 20 1 == 1) (bf w 14 6) (bf w 8 6) (fld w 3 1 == 1) x0) else
  if fld w 4 4 = 7 ∧ fld w 21 5 = 0 then (Scope.ofCode (fld w 0 3)).bind fun x0 => some (.redmaxu (fld w 20 1 == 1) (bf w 14 6) (bf w 8 6) (fld w 3 1 == 1) x0) else
  if fld w 4 4 = 8 then (Scope.ofCode (fld w 0 3)).bind fun x0 => some (.redacc (bf w 20 6) (bf w 14 6) (bf w 8 6) (fld w 3 1 == 1) x0) else
  none

/-- The words of major opcode 0x14 (R128). -/
def decode14 (w : Nat) : Option Instr :=
  if fld w 0 3 = 0 ∧ fld w 6 20 = 1 then (Scope.ofCode (fld w 3 3)).bind fun x0 => some (.fenceE x0) else
  if fld w 0 3 = 0 ∧ fld w 6 2 = 0 ∧ fld w 12 14 = 0 then (Scope.ofCode (fld w 3 3)).bind fun x0 => some (.fence (bf w 8 4) x0) else
  if fld w 0 3 = 0 ∧ fld w 6 2 = 2 ∧ fld w 20 6 = 0 then (Scope.ofCode (fld w 3 3)).bind fun x0 => some (.wbr (bf w 14 6) (bf w 8 6) x0) else
  if fld w 0 3 = 0 ∧ fld w 6 2 = 3 ∧ fld w 20 6 = 0 then (Scope.ofCode (fld w 3 3)).bind fun x0 => some (.invr (bf w 14 6) (bf w 8 6) x0) else
  none

/-- The words of major opcode 0x15 (R128). -/
def decode15 (w : Nat) : Option Instr :=
  if fld w 2 24 = 0 then some (.arrive (bf w 0 2)) else
  if fld w 2 24 = 4 then some (.arriveSnap (bf w 0 2)) else
  if fld w 2 24 = 32 then some (.brst (bf w 0 2)) else
  if fld w 2 18 = 8 then some (.wait (bf w 20 6) (bf w 0 2)) else
  if fld w 2 18 = 16 then some (.bstat (bf w 20 6) (bf w 0 2)) else
  if fld w 2 12 = 24 ∧ fld w 20 6 = 0 then some (.bset (bf w 14 6) (bf w 0 2)) else
  none

/-- The words of major opcode 0x16 (R128). -/
def decode16 (w : Nat) : Option Instr :=
  if fld w 0 26 = 3 then some (.endCtx) else
  if fld w 0 26 = 4 then some (.yield) else
  if fld w 0 26 = 5 then some (.fuse) else
  if fld w 0 26 = 6 then some (.split) else
  if fld w 0 20 = 1 then some (.stop (bf w 20 6)) else
  if fld w 0 14 = 2 then some (.join (bf w 20 6) (bf w 14 6)) else
  if fld w 0 8 = 0 then some (.start (bf w 20 6) (bf w 14 6) (bf w 8 6)) else
  none

/-- The words of major opcode 0x17 (R128). -/
def decode17 (w : Nat) : Option Instr :=
  if fld w 0 26 = 8448 then some (.eret) else
  if fld w 0 26 = 8960 then some (.halt) else
  if fld w 8 18 = 32 then some (.trap (bf w 0 8)) else
  if fld w 0 14 = 9728 ∧ fld w 25 1 = 0 then some (.digest (bf w 20 5) (bf w 14 6)) else
  if fld w 0 14 = 8704 then some (.touch (bf w 20 6) (bf w 14 6)) else
  if fld w 0 14 = 9729 then some (.digestN (bf w 20 6) (bf w 14 6)) else
  if fld w 8 6 = 36 ∧ fld w 20 6 = 0 then (Scope.ofCode (fld w 0 8)).bind fun x0 => some (.objinv (bf w 14 6) x0) else
  if fld w 12 8 = 0 then some (.gets (bf w 20 6) (bf w 0 12)) else
  if fld w 12 2 = 1 ∧ fld w 20 6 = 0 then some (.sets (bf w 14 6) (bf w 0 12)) else
  if fld w 8 6 = 37 then (Tier.ofCode (fld w 0 8)).bind fun x0 => some (.einj (bf w 20 6) (bf w 14 6) x0) else
  none

/-- The words of major opcode 0x18 (R128). -/
def decode18 (w : Nat) : Option Instr :=
  some (.beq (bf w 20 6) (bf w 14 6) (bf w 0 14))

/-- The words of major opcode 0x19 (R128). -/
def decode19 (w : Nat) : Option Instr :=
  some (.bne (bf w 20 6) (bf w 14 6) (bf w 0 14))

/-- The words of major opcode 0x1A (R128). -/
def decode1A (w : Nat) : Option Instr :=
  some (.blt (bf w 20 6) (bf w 14 6) (bf w 0 14))

/-- The words of major opcode 0x1B (R128). -/
def decode1B (w : Nat) : Option Instr :=
  some (.bge (bf w 20 6) (bf w 14 6) (bf w 0 14))

/-- The words of major opcode 0x1C (R128). -/
def decode1C (w : Nat) : Option Instr :=
  some (.bltu (bf w 20 6) (bf w 14 6) (bf w 0 14))

/-- The words of major opcode 0x1D (R128). -/
def decode1D (w : Nat) : Option Instr :=
  some (.bgeu (bf w 20 6) (bf w 14 6) (bf w 0 14))

/-- The words of major opcode 0x1E (R128). -/
def decode1E (w : Nat) : Option Instr :=
  some (.jal (bf w 0 26))

/-- The words of major opcode 0x1F (R128). -/
def decode1F (w : Nat) : Option Instr :=
  some (.jalr (bf w 20 6) (bf w 14 6) (bf w 0 14))

/-- The words of major opcode 0x20 (R128). -/
def decode20 (w : Nat) : Option Instr :=
  if fld w 4 16 = 1 ∧ fld w 23 3 = 0 then some (.waitf (bf w 20 3) (bf w 0 4)) else
  if fld w 4 16 = 2 ∧ fld w 23 3 = 0 then some (.waite (bf w 20 3) (bf w 0 4)) else
  if fld w 4 16 = 3 ∧ fld w 23 3 = 0 then some (.advp (bf w 20 3) (bf w 0 4)) else
  if fld w 4 16 = 4 ∧ fld w 23 3 = 0 then some (.advc (bf w 20 3) (bf w 0 4)) else
  if fld w 0 14 = 0 ∧ fld w 23 3 = 0 then some (.rset (bf w 20 3) (bf w 14 6)) else
  if fld w 1 13 = 40 ∧ fld w 17 3 = 0 then some (.rstat (bf w 20 6) (bf w 14 3) (bf w 0 1)) else
  none

/-- The words of major opcode 0x21 (R128). -/
def decode21 (w : Nat) : Option Instr :=
  if fld w 0 20 = 128 then some (.cpyc (bf w 20 6)) else
  if fld w 0 8 = 192 ∧ fld w 14 6 = 0 then some (.cpyq (bf w 20 6) (bf w 8 6)) else
  if fld w 0 8 = 0 then some (.cpy (bf w 20 6) (bf w 14 6) (bf w 8 6)) else
  if fld w 6 2 = 1 then (Scope.ofCode (fld w 3 3)).bind fun x0 => some (.cpyr (bf w 20 6) (bf w 14 6) (bf w 8 6) x0 (bf w 0 3)) else
  none

/-- The words of major opcode 0x22 (R128). -/
def decode22 (w : Nat) : Option Instr :=
  if fld w 0 3 = 0 ∧ fld w 6 2 = 0 then some (.mma (bf w 20 6) (bf w 14 6) (bf w 8 6) (bf w 3 3)) else
  if fld w 0 3 = 0 ∧ fld w 6 2 = 1 then some (.mmar (bf w 20 6) (bf w 14 6) (bf w 8 6) (bf w 3 3)) else
  if fld w 0 3 = 0 ∧ fld w 6 2 = 2 then some (.mmaz (bf w 20 6) (bf w 14 6) (bf w 8 6) (bf w 3 3)) else
  none

/-- The words of major opcode 0x23 (R128). -/
def decode23 (w : Nat) : Option Instr :=
  if fld w 0 26 = 128 then some (.efence) else
  if fld w 3 5 = 2 ∧ fld w 14 6 = 0 then some (.minit (bf w 20 6) (bf w 8 6) (bf w 0 3)) else
  if fld w 3 5 = 10 ∧ fld w 14 6 = 0 then some (.msta (bf w 20 6) (bf w 8 6) (bf w 0 3)) else
  if fld w 3 5 = 12 ∧ fld w 14 6 = 0 then some (.mstat (bf w 20 6) (bf w 8 6) (bf w 0 3)) else
  if fld w 3 5 = 14 ∧ fld w 14 6 = 0 then some (.mshad (bf w 20 6) (bf w 8 6) (bf w 0 3)) else
  if fld w 0 8 = 0 then some (.mcfg (bf w 20 6) (bf w 14 6) (bf w 8 6)) else
  if fld w 0 8 = 1 then some (.mcfgRd (bf w 20 6) (bf w 14 6) (bf w 8 6)) else
  if fld w 3 5 = 6 ∧ fld w 19 1 = 0 then some (.mrdv (bf w 20 6) (bf w 14 5) (bf w 8 6) (bf w 0 3)) else
  if fld w 3 5 = 4 then some (.mrd (bf w 20 6) (bf w 14 6) (bf w 8 6) (bf w 0 3)) else
  if fld w 3 5 = 8 then some (.mlda (bf w 20 6) (bf w 14 6) (bf w 8 6) (bf w 0 3)) else
  if fld w 3 5 = 9 then some (.mldaAdd (bf w 20 6) (bf w 14 6) (bf w 8 6) (bf w 0 3)) else
  none

/-- The words of major opcode 0x24 (R128). -/
def decode24 (w : Nat) : Option Instr :=
  if fld w 2 18 = 24 then some (.tready (bf w 20 6) (bf w 0 2)) else
  if fld w 2 6 = 0 ∧ fld w 14 6 = 0 then some (.cgrp (bf w 20 6) (bf w 8 6) (bf w 0 2)) else
  if fld w 2 6 = 8 ∧ fld w 14 6 = 0 then some (.ctab (bf w 20 6) (bf w 8 6) (bf w 0 2)) else
  if fld w 2 6 = 16 ∧ fld w 14 6 = 0 then some (.cstart (bf w 20 6) (bf w 8 6) (bf w 0 2)) else
  if fld w 2 6 = 32 ∧ fld w 14 6 = 0 then some (.cwait (bf w 20 6) (bf w 8 6) (bf w 0 2)) else
  none

/-- The words of major opcode 0x25 (R128). -/
def decode25 (w : Nat) : Option Instr :=
  if fld w 0 11 = 128 ∧ fld w 16 5 = 0 ∧ fld w 24 2 = 0 then some (.rmask (bf w 21 3) (bf w 11 5)) else
  if fld w 0 11 = 0 ∧ fld w 16 5 = 0 then some (.rdraw (bf w 21 5) (bf w 11 5)) else
  if fld w 0 11 = 192 ∧ fld w 16 5 = 0 then some (.rkey (bf w 21 5) (bf w 11 5)) else
  if fld w 0 8 = 64 ∧ fld w 16 5 = 0 then some (.rvec (bf w 21 5) (bf w 11 5) (bf w 8 3)) else
  none

/-- The words of major opcode 0x26 (R128). -/
def decode26 (w : Nat) : Option Instr :=
  if fld w 0 14 = 0 then some (.launch (bf w 20 6) (bf w 14 6)) else
  if fld w 0 14 = 1 then some (.depdec (bf w 20 6) (bf w 14 6)) else
  if fld w 0 14 = 2 then some (.tcbq (bf w 20 6) (bf w 14 6)) else
  none

/-- The words of major opcode 0x27 (R128). -/
def decode27 (w : Nat) : Option Instr :=
  if fld w 0 20 = 128 then some (.recvmCfg (bf w 20 6)) else
  if fld w 0 5 = 0 ∧ fld w 6 2 = 0 then some (.sendm (bf w 20 6) (bf w 14 6) (bf w 8 6) (fld w 5 1 == 1)) else
  if fld w 0 5 = 0 ∧ fld w 6 2 = 1 then some (.recvm (bf w 20 6) (bf w 14 6) (bf w 8 6) (fld w 5 1 == 1)) else
  none

/-- The words of major opcode 0x28 (R128). -/
def decode28 (w : Nat) : Option Instr :=
  some (.vld (bf w 21 5) (bf w 15 6) (bf w 12 3) (bf w 0 12))

/-- The words of major opcode 0x29 (R128). -/
def decode29 (w : Nat) : Option Instr :=
  some (.vst (bf w 21 5) (bf w 15 6) (bf w 12 3) (bf w 0 12))

/-- The words of major opcode 0x2A (R128). -/
def decode2A (w : Nat) : Option Instr :=
  if fld w 3 5 = 15 ∧ fld w 11 5 = 0 then (IntTy.ofCode (fld w 0 3)).bind fun x0 => some (.vabs (bf w 21 5) (bf w 16 5) (bf w 8 3) x0) else
  if fld w 3 5 = 0 then (IntTy.ofCode (fld w 0 3)).bind fun x0 => some (.vadd (bf w 21 5) (bf w 16 5) (bf w 11 5) (bf w 8 3) x0) else
  if fld w 3 5 = 1 then (IntTy.ofCode (fld w 0 3)).bind fun x0 => some (.vsub (bf w 21 5) (bf w 16 5) (bf w 11 5) (bf w 8 3) x0) else
  if fld w 3 5 = 2 then (IntTy.ofCode (fld w 0 3)).bind fun x0 => some (.vmul (bf w 21 5) (bf w 16 5) (bf w 11 5) (bf w 8 3) x0) else
  if fld w 3 5 = 3 then (IntTy.ofCode (fld w 0 3)).bind fun x0 => some (.vmin (bf w 21 5) (bf w 16 5) (bf w 11 5) (bf w 8 3) x0) else
  if fld w 3 5 = 4 then (IntTy.ofCode (fld w 0 3)).bind fun x0 => some (.vmax (bf w 21 5) (bf w 16 5) (bf w 11 5) (bf w 8 3) x0) else
  if fld w 3 5 = 5 then (IntTy.ofCode (fld w 0 3)).bind fun x0 => some (.vand (bf w 21 5) (bf w 16 5) (bf w 11 5) (bf w 8 3) x0) else
  if fld w 3 5 = 6 then (IntTy.ofCode (fld w 0 3)).bind fun x0 => some (.vor (bf w 21 5) (bf w 16 5) (bf w 11 5) (bf w 8 3) x0) else
  if fld w 3 5 = 7 then (IntTy.ofCode (fld w 0 3)).bind fun x0 => some (.vxor (bf w 21 5) (bf w 16 5) (bf w 11 5) (bf w 8 3) x0) else
  if fld w 3 5 = 8 then (IntTy.ofCode (fld w 0 3)).bind fun x0 => some (.vandn (bf w 21 5) (bf w 16 5) (bf w 11 5) (bf w 8 3) x0) else
  if fld w 3 5 = 9 then (IntTy.ofCode (fld w 0 3)).bind fun x0 => some (.vshl (bf w 21 5) (bf w 16 5) (bf w 11 5) (bf w 8 3) x0) else
  if fld w 3 5 = 10 then (IntTy.ofCode (fld w 0 3)).bind fun x0 => some (.vshr (bf w 21 5) (bf w 16 5) (bf w 11 5) (bf w 8 3) x0) else
  if fld w 3 5 = 11 then (IntTy.ofCode (fld w 0 3)).bind fun x0 => some (.vsar (bf w 21 5) (bf w 16 5) (bf w 11 5) (bf w 8 3) x0) else
  if fld w 3 5 = 12 then (IntTy.ofCode (fld w 0 3)).bind fun x0 => some (.vadds (bf w 21 5) (bf w 16 5) (bf w 11 5) (bf w 8 3) x0) else
  if fld w 3 5 = 13 then (IntTy.ofCode (fld w 0 3)).bind fun x0 => some (.vsubs (bf w 21 5) (bf w 16 5) (bf w 11 5) (bf w 8 3) x0) else
  if fld w 3 5 = 14 then (IntTy.ofCode (fld w 0 3)).bind fun x0 => some (.vavg (bf w 21 5) (bf w 16 5) (bf w 11 5) (bf w 8 3) x0) else
  none

/-- The words of major opcode 0x2B (R128). -/
def decode2B (w : Nat) : Option Instr :=
  if fld w 3 5 = 5 ∧ fld w 11 5 = 0 then (FltTy.ofCode (fld w 0 3)).bind fun x0 => some (.vfabs (bf w 21 5) (bf w 16 5) (bf w 8 3) x0) else
  if fld w 3 5 = 6 ∧ fld w 11 5 = 0 then (FltTy.ofCode (fld w 0 3)).bind fun x0 => some (.vfneg (bf w 21 5) (bf w 16 5) (bf w 8 3) x0) else
  if fld w 3 5 = 0 then (FltTy.ofCode (fld w 0 3)).bind fun x0 => some (.vfadd (bf w 21 5) (bf w 16 5) (bf w 11 5) (bf w 8 3) x0) else
  if fld w 3 5 = 1 then (FltTy.ofCode (fld w 0 3)).bind fun x0 => some (.vfsub (bf w 21 5) (bf w 16 5) (bf w 11 5) (bf w 8 3) x0) else
  if fld w 3 5 = 2 then (FltTy.ofCode (fld w 0 3)).bind fun x0 => some (.vfmul (bf w 21 5) (bf w 16 5) (bf w 11 5) (bf w 8 3) x0) else
  if fld w 3 5 = 3 then (FltTy.ofCode (fld w 0 3)).bind fun x0 => some (.vfmin (bf w 21 5) (bf w 16 5) (bf w 11 5) (bf w 8 3) x0) else
  if fld w 3 5 = 4 then (FltTy.ofCode (fld w 0 3)).bind fun x0 => some (.vfmax (bf w 21 5) (bf w 16 5) (bf w 11 5) (bf w 8 3) x0) else
  none

/-- The words of major opcode 0x2C (R128). -/
def decode2C (w : Nat) : Option Instr :=
  if fld w 0 3 = 0 then some (.vfmaF32 (bf w 21 5) (bf w 16 5) (bf w 11 5) (bf w 6 5) (bf w 3 3)) else
  if fld w 0 3 = 1 then some (.vfmsF32 (bf w 21 5) (bf w 16 5) (bf w 11 5) (bf w 6 5) (bf w 3 3)) else
  if fld w 0 3 = 2 then some (.vfnmaF32 (bf w 21 5) (bf w 16 5) (bf w 11 5) (bf w 6 5) (bf w 3 3)) else
  if fld w 0 3 = 3 then some (.vfnmsF32 (bf w 21 5) (bf w 16 5) (bf w 11 5) (bf w 6 5) (bf w 3 3)) else
  if fld w 0 3 = 4 then some (.vfmaBf16 (bf w 21 5) (bf w 16 5) (bf w 11 5) (bf w 6 5) (bf w 3 3)) else
  if fld w 0 3 = 5 then some (.vfmsBf16 (bf w 21 5) (bf w 16 5) (bf w 11 5) (bf w 6 5) (bf w 3 3)) else
  if fld w 0 3 = 6 then some (.vfmaF16 (bf w 21 5) (bf w 16 5) (bf w 11 5) (bf w 6 5) (bf w 3 3)) else
  if fld w 0 3 = 7 then some (.vfmsF16 (bf w 21 5) (bf w 16 5) (bf w 11 5) (bf w 6 5) (bf w 3 3)) else
  none

/-- The words of major opcode 0x2D (R128). -/
def decode2D (w : Nat) : Option Instr :=
  if fld w 5 3 = 0 then (RMode.ofCode (fld w 3 2)).bind fun x0 => some (.vcvt (bf w 21 5) (bf w 16 5) (bf w 11 5) (bf w 8 3) x0 (bf w 0 3)) else
  if fld w 5 3 = 1 then (RMode.ofCode (fld w 3 2)).bind fun x0 => some (.vcvti (bf w 21 5) (bf w 16 5) (bf w 11 5) (bf w 8 3) x0 (bf w 0 3)) else
  if fld w 5 3 = 2 then (RMode.ofCode (fld w 3 2)).bind fun x0 => some (.vcvtf (bf w 21 5) (bf w 16 5) (bf w 11 5) (bf w 8 3) x0 (bf w 0 3)) else
  if fld w 5 3 = 3 then (RMode.ofCode (fld w 3 2)).bind fun x0 => (PackFmt.ofCode (fld w 0 3)).bind fun x1 => some (.vpack (bf w 21 5) (bf w 16 5) (bf w 11 5) (bf w 8 3) x0 x1) else
  if fld w 5 3 = 4 then (RMode.ofCode (fld w 3 2)).bind fun x0 => (PackFmt.ofCode (fld w 0 3)).bind fun x1 => some (.vunpk (bf w 21 5) (bf w 16 5) (bf w 11 5) (bf w 8 3) x0 x1) else
  if fld w 5 3 = 5 then (RMode.ofCode (fld w 3 2)).bind fun x0 => (FltTy.ofCode (fld w 0 3)).bind fun x1 => some (.vscale (bf w 21 5) (bf w 16 5) (bf w 11 5) (bf w 8 3) x0 x1) else
  none

/-- The words of major opcode 0x2E (R128). -/
def decode2E (w : Nat) : Option Instr :=
  if fld w 2 6 = 2 ∧ fld w 16 5 = 0 then some (.vbcst (bf w 21 5) (bf w 11 5) (bf w 8 3) (Width.ofCode (fld w 0 2))) else
  if fld w 2 9 = 6 then some (.vext (bf w 21 5) (bf w 16 5) (bf w 11 5) (Width.ofCode (fld w 0 2))) else
  if fld w 2 6 = 0 then some (.vshuf (bf w 21 5) (bf w 16 5) (bf w 11 5) (bf w 8 3) (Width.ofCode (fld w 0 2))) else
  if fld w 2 6 = 4 then some (.vins (bf w 21 5) (bf w 16 5) (bf w 11 5) (bf w 8 3) (Width.ofCode (fld w 0 2))) else
  if fld w 2 6 = 8 then some (.vrot (bf w 21 5) (bf w 16 5) (bf w 11 5) (bf w 8 3) (Width.ofCode (fld w 0 2))) else
  if fld w 3 5 = 5 then some (.vzip (bf w 21 5) (bf w 16 5) (bf w 11 5) (bf w 8 3) (fld w 2 1 == 1) (Width.ofCode (fld w 0 2))) else
  if fld w 3 5 = 6 then some (.vuzp (bf w 21 5) (bf w 16 5) (bf w 11 5) (bf w 8 3) (fld w 2 1 == 1) (Width.ofCode (fld w 0 2))) else
  none

/-- The words of major opcode 0x2F (R128). -/
def decode2F (w : Nat) : Option Instr :=
  if fld w 3 5 = 6 ∧ fld w 11 5 = 0 then (IntTy.ofCode (fld w 0 3)).bind fun x0 => some (.vredand (bf w 21 5) (bf w 16 5) (bf w 8 3) x0) else
  if fld w 3 5 = 8 ∧ fld w 11 5 = 0 then (IntTy.ofCode (fld w 0 3)).bind fun x0 => some (.vredor (bf w 21 5) (bf w 16 5) (bf w 8 3) x0) else
  if fld w 3 5 = 10 ∧ fld w 11 5 = 0 then (IntTy.ofCode (fld w 0 3)).bind fun x0 => some (.vredxor (bf w 21 5) (bf w 16 5) (bf w 8 3) x0) else
  if fld w 4 4 = 0 ∧ fld w 11 5 = 0 then (NumTy.ofCode (fld w 0 4)).bind fun x0 => some (.vredadd (bf w 21 5) (bf w 16 5) (bf w 8 3) x0) else
  if fld w 4 4 = 1 ∧ fld w 11 5 = 0 then (NumTy.ofCode (fld w 0 4)).bind fun x0 => some (.vredmax (bf w 21 5) (bf w 16 5) (bf w 8 3) x0) else
  if fld w 4 4 = 2 ∧ fld w 11 5 = 0 then (NumTy.ofCode (fld w 0 4)).bind fun x0 => some (.vredmin (bf w 21 5) (bf w 16 5) (bf w 8 3) x0) else
  none

/-- The words of major opcode 0x30 (R128). -/
def decode30 (w : Nat) : Option Instr :=
  if fld w 0 16 = 216 ∧ fld w 19 2 = 0 ∧ fld w 24 2 = 0 then some (.knot (bf w 21 3) (bf w 16 3)) else
  if fld w 0 16 = 240 ∧ fld w 19 2 = 0 ∧ fld w 24 2 = 0 then some (.kmov (bf w 21 3) (bf w 16 3)) else
  if fld w 0 16 = 224 ∧ fld w 19 2 = 0 then some (.kpop (bf w 21 5) (bf w 16 3)) else
  if fld w 0 16 = 232 ∧ fld w 19 2 = 0 then some (.kffs (bf w 21 5) (bf w 16 3)) else
  if fld w 2 14 = 60 ∧ fld w 19 2 = 0 ∧ fld w 24 2 = 0 then some (.kmovExpand (bf w 21 3) (bf w 16 3) (bf w 0 2)) else
  if fld w 0 11 = 244 ∧ fld w 16 5 = 0 ∧ fld w 24 2 = 0 then some (.kmovFromG (bf w 21 3) (bf w 11 5)) else
  if fld w 0 16 = 245 ∧ fld w 19 2 = 0 then some (.kmovToG (bf w 21 5) (bf w 16 3)) else
  if fld w 0 11 = 192 ∧ fld w 14 2 = 0 ∧ fld w 19 2 = 0 ∧ fld w 24 2 = 0 then some (.kand (bf w 21 3) (bf w 16 3) (bf w 11 3)) else
  if fld w 0 11 = 200 ∧ fld w 14 2 = 0 ∧ fld w 19 2 = 0 ∧ fld w 24 2 = 0 then some (.kor (bf w 21 3) (bf w 16 3) (bf w 11 3)) else
  if fld w 0 11 = 208 ∧ fld w 14 2 = 0 ∧ fld w 19 2 = 0 ∧ fld w 24 2 = 0 then some (.kxor (bf w 21 3) (bf w 16 3) (bf w 11 3)) else
  if fld w 2 6 = 32 then some (.vsel (bf w 21 5) (bf w 16 5) (bf w 11 5) (bf w 8 3) (Width.ofCode (fld w 0 2))) else
  if fld w 6 2 = 0 ∧ fld w 24 2 = 0 then (Cond.ofCode (fld w 3 3)).bind fun x0 => (IntTy.ofCode (fld w 0 3)).bind fun x1 => some (.vcmpInt (bf w 21 3) (bf w 16 5) (bf w 11 5) (bf w 8 3) x0 x1) else
  if fld w 6 2 = 1 ∧ fld w 24 2 = 0 then (Cond.ofCode (fld w 3 3)).bind fun x0 => (FltTy.ofCode (fld w 0 3)).bind fun x1 => some (.vcmpFlt (bf w 21 3) (bf w 16 5) (bf w 11 5) (bf w 8 3) x0 x1) else
  none

/-- The words of major opcode 0x31 (R128). -/
def decode31 (w : Nat) : Option Instr :=
  if fld w 0 3 = 0 ∧ fld w 5 3 = 1 ∧ fld w 11 5 = 0 then some (.vclz (bf w 21 5) (bf w 16 5) (bf w 8 3) (Width.ofCode (fld w 3 2))) else
  if fld w 0 3 = 1 ∧ fld w 5 3 = 1 ∧ fld w 11 5 = 0 then some (.vctz (bf w 21 5) (bf w 16 5) (bf w 8 3) (Width.ofCode (fld w 3 2))) else
  if fld w 0 3 = 2 ∧ fld w 5 3 = 1 ∧ fld w 11 5 = 0 then some (.vpopc (bf w 21 5) (bf w 16 5) (bf w 8 3) (Width.ofCode (fld w 3 2))) else
  if fld w 15 1 = 1 then some (.vlop3 (bf w 21 5) (bf w 16 5) (bf w 11 4) (bf w 8 3) (bf w 0 8)) else
  if fld w 15 1 = 0 then some (.vfshl (bf w 21 5) (bf w 16 5) (bf w 11 4) (bf w 8 3) (Width.ofCode (fld w 6 2)) (bf w 0 6)) else
  none

/-- The words of major opcode 0x32 (R128). -/
def decode32 (w : Nat) : Option Instr :=
  if fld w 0 8 = 0 ∧ fld w 11 5 = 0 then some (.vrcp (bf w 21 5) (bf w 16 5) (bf w 8 3)) else
  if fld w 0 8 = 8 ∧ fld w 11 5 = 0 then some (.vrsq (bf w 21 5) (bf w 16 5) (bf w 8 3)) else
  if fld w 0 8 = 16 ∧ fld w 11 5 = 0 then some (.vsqrt (bf w 21 5) (bf w 16 5) (bf w 8 3)) else
  if fld w 0 8 = 24 ∧ fld w 11 5 = 0 then some (.vexp2 (bf w 21 5) (bf w 16 5) (bf w 8 3)) else
  if fld w 0 8 = 32 ∧ fld w 11 5 = 0 then some (.vlog2 (bf w 21 5) (bf w 16 5) (bf w 8 3)) else
  none

/-- The words of major opcode 0x33 (R128). -/
def decode33 (w : Nat) : Option Instr :=
  if fld w 0 4 = 0 ∧ fld w 6 2 = 0 ∧ fld w 16 5 = 0 then some (.vldb (bf w 21 5) (bf w 11 5) (bf w 8 3) (Width.ofCode (fld w 4 2))) else
  if fld w 0 4 = 0 ∧ fld w 6 2 = 1 then some (.vgath (bf w 21 5) (bf w 16 5) (bf w 11 5) (bf w 8 3) (Width.ofCode (fld w 4 2))) else
  if fld w 0 4 = 0 ∧ fld w 6 2 = 2 then some (.vscat (bf w 21 5) (bf w 16 5) (bf w 11 5) (bf w 8 3) (Width.ofCode (fld w 4 2))) else
  none

/-- The words of major opcode 0x3F (R128). -/
def decode3F (w : Nat) : Option Instr :=
  if fld w 0 26 = 20971520 then some (.nofold) else
  if fld w 1 25 = 6291456 then some (.likely (fld w 0 1 == 1)) else
  if fld w 3 23 = 524288 then some (.prio (bf w 0 3)) else
  if fld w 6 20 = 262144 then some (.spin (bf w 0 6)) else
  if fld w 8 18 = 32768 then some (.rev (bf w 0 8)) else
  if fld w 22 4 = 0 then some (.immx (bf w 0 22)) else
  some (.hnop (bf w 22 4) (bf w 0 22))
/-- The instruction that a word's major opcode and function code assign (R128), before its entry's limits. -/
def decodeMajor (w : Nat) : Option Instr :=
  match fld w 26 6 with
  | 0x01 => decode01 w
  | 0x02 => decode02 w
  | 0x03 => decode03 w
  | 0x04 => decode04 w
  | 0x05 => decode05 w
  | 0x06 => decode06 w
  | 0x07 => decode07 w
  | 0x08 => decode08 w
  | 0x09 => decode09 w
  | 0x0A => decode0A w
  | 0x0B => decode0B w
  | 0x0C => decode0C w
  | 0x0D => decode0D w
  | 0x0E => decode0E w
  | 0x10 => decode10 w
  | 0x11 => decode11 w
  | 0x12 => decode12 w
  | 0x13 => decode13 w
  | 0x14 => decode14 w
  | 0x15 => decode15 w
  | 0x16 => decode16 w
  | 0x17 => decode17 w
  | 0x18 => decode18 w
  | 0x19 => decode19 w
  | 0x1A => decode1A w
  | 0x1B => decode1B w
  | 0x1C => decode1C w
  | 0x1D => decode1D w
  | 0x1E => decode1E w
  | 0x1F => decode1F w
  | 0x20 => decode20 w
  | 0x21 => decode21 w
  | 0x22 => decode22 w
  | 0x23 => decode23 w
  | 0x24 => decode24 w
  | 0x25 => decode25 w
  | 0x26 => decode26 w
  | 0x27 => decode27 w
  | 0x28 => decode28 w
  | 0x29 => decode29 w
  | 0x2A => decode2A w
  | 0x2B => decode2B w
  | 0x2C => decode2C w
  | 0x2D => decode2D w
  | 0x2E => decode2E w
  | 0x2F => decode2F w
  | 0x30 => decode30 w
  | 0x31 => decode31 w
  | 0x32 => decode32 w
  | 0x33 => decode33 w
  | 0x3F => decode3F w  | _ => none

/-- Why bytes are not an instruction. -/
inductive DecodeError
  /-- fewer than four bytes. -/
  | short
  /-- the word is ILL (R129). -/
  | ill (w : BitVec 32)
  deriving DecidableEq, Repr

/-- The instruction of a 32-bit word (R129). -/
def decodeWord (w : Nat) : Except DecodeError Instr :=
  match decodeMajor w with
  | some i => if i.wf then .ok i else .error (.ill (BitVec.ofNat 32 w))
  | none => .error (.ill (BitVec.ofNat 32 w))

/-- The little-endian word of four bytes (R3). -/
def wordOfBytes (b0 b1 b2 b3 : Byte) : Nat :=
  b0.toNat + b1.toNat * 2 ^ 8 + b2.toNat * 2 ^ 16 + b3.toNat * 2 ^ 24

/-- The first instruction of a byte sequence, and the bytes after it. -/
def decodeBytes : List Byte → Except DecodeError (Instr × List Byte)
  | b0 :: b1 :: b2 :: b3 :: rest =>
    match decodeWord (wordOfBytes b0 b1 b2 b3) with
    | .ok i => .ok (i, rest)
    | .error e => .error e
  | _ => .error .short

/-- The four bytes of a word, in the order they are stored (R3). -/
def bytesOfWord (w : Nat) : List Byte :=
  [BitVec.ofNat 8 w, BitVec.ofNat 8 (w / 2 ^ 8), BitVec.ofNat 8 (w / 2 ^ 16), BitVec.ofNat 8 (w / 2 ^ 24)]

/-- The host's question: the instruction that the decoder reads from an instruction whose bits are `w`, bits at and
above `nbits` zero. -/
def decodeTableWord (nbits w : Nat) : Option Instr :=
  match decodeBytes (bytesOfWord (w % 2 ^ nbits)) with
  | .ok (i, _) => some i
  | .error _ => none

/-- A word: its fixed bits, and each field at its lowest bit. -/
def wordOf (base : Nat) : List (Nat × Nat) → Nat
  | [] => base
  | (v, lo) :: rest => v * 2 ^ lo + wordOf base rest

/-- The word of an instruction; none for an event, which has no word. -/
def encode : Instr → Option Nat
  | .add d a b => some (wordOf 0x04000000 [(d.toNat, 20), (a.toNat, 14), (b.toNat, 8)])
  | .sub d a b => some (wordOf 0x04000001 [(d.toNat, 20), (a.toNat, 14), (b.toNat, 8)])
  | .and d a b => some (wordOf 0x04000002 [(d.toNat, 20), (a.toNat, 14), (b.toNat, 8)])
  | .or d a b => some (wordOf 0x04000003 [(d.toNat, 20), (a.toNat, 14), (b.toNat, 8)])
  | .xor d a b => some (wordOf 0x04000004 [(d.toNat, 20), (a.toNat, 14), (b.toNat, 8)])
  | .andn d a b => some (wordOf 0x04000005 [(d.toNat, 20), (a.toNat, 14), (b.toNat, 8)])
  | .orn d a b => some (wordOf 0x04000006 [(d.toNat, 20), (a.toNat, 14), (b.toNat, 8)])
  | .xnor d a b => some (wordOf 0x04000007 [(d.toNat, 20), (a.toNat, 14), (b.toNat, 8)])
  | .shl d a b => some (wordOf 0x04000008 [(d.toNat, 20), (a.toNat, 14), (b.toNat, 8)])
  | .shr d a b => some (wordOf 0x04000009 [(d.toNat, 20), (a.toNat, 14), (b.toNat, 8)])
  | .sar d a b => some (wordOf 0x0400000A [(d.toNat, 20), (a.toNat, 14), (b.toNat, 8)])
  | .rol d a b => some (wordOf 0x0400000B [(d.toNat, 20), (a.toNat, 14), (b.toNat, 8)])
  | .ror d a b => some (wordOf 0x0400000C [(d.toNat, 20), (a.toNat, 14), (b.toNat, 8)])
  | .slt d a b => some (wordOf 0x0400000D [(d.toNat, 20), (a.toNat, 14), (b.toNat, 8)])
  | .sltu d a b => some (wordOf 0x0400000E [(d.toNat, 20), (a.toNat, 14), (b.toNat, 8)])
  | .seq d a b => some (wordOf 0x0400000F [(d.toNat, 20), (a.toNat, 14), (b.toNat, 8)])
  | .sne d a b => some (wordOf 0x04000010 [(d.toNat, 20), (a.toNat, 14), (b.toNat, 8)])
  | .minS d a b => some (wordOf 0x04000011 [(d.toNat, 20), (a.toNat, 14), (b.toNat, 8)])
  | .maxS d a b => some (wordOf 0x04000012 [(d.toNat, 20), (a.toNat, 14), (b.toNat, 8)])
  | .minU d a b => some (wordOf 0x04000013 [(d.toNat, 20), (a.toNat, 14), (b.toNat, 8)])
  | .maxU d a b => some (wordOf 0x04000014 [(d.toNat, 20), (a.toNat, 14), (b.toNat, 8)])
  | .mul d a b => some (wordOf 0x04000015 [(d.toNat, 20), (a.toNat, 14), (b.toNat, 8)])
  | .mulh d a b => some (wordOf 0x04000016 [(d.toNat, 20), (a.toNat, 14), (b.toNat, 8)])
  | .mulhu d a b => some (wordOf 0x04000017 [(d.toNat, 20), (a.toNat, 14), (b.toNat, 8)])
  | .div d a b => some (wordOf 0x04000018 [(d.toNat, 20), (a.toNat, 14), (b.toNat, 8)])
  | .divu d a b => some (wordOf 0x04000019 [(d.toNat, 20), (a.toNat, 14), (b.toNat, 8)])
  | .rem d a b => some (wordOf 0x0400001A [(d.toNat, 20), (a.toNat, 14), (b.toNat, 8)])
  | .remu d a b => some (wordOf 0x0400001B [(d.toNat, 20), (a.toNat, 14), (b.toNat, 8)])
  | .addw d a b => some (wordOf 0x08000000 [(d.toNat, 20), (a.toNat, 14), (b.toNat, 8)])
  | .subw d a b => some (wordOf 0x08000001 [(d.toNat, 20), (a.toNat, 14), (b.toNat, 8)])
  | .shlw d a b => some (wordOf 0x08000008 [(d.toNat, 20), (a.toNat, 14), (b.toNat, 8)])
  | .shrw d a b => some (wordOf 0x08000009 [(d.toNat, 20), (a.toNat, 14), (b.toNat, 8)])
  | .sarw d a b => some (wordOf 0x0800000A [(d.toNat, 20), (a.toNat, 14), (b.toNat, 8)])
  | .mulw d a b => some (wordOf 0x08000015 [(d.toNat, 20), (a.toNat, 14), (b.toNat, 8)])
  | .lop3 d a b t => some (wordOf 0x0C002000 [(d.toNat, 20), (a.toNat, 14), (b.toNat, 8), (t.toNat, 0)])
  | .fshl d a b w s => some (wordOf 0x0C000000 [(d.toNat, 20), (a.toNat, 14), (b.toNat, 8), (w.code, 6), (s.toNat, 0)])
  | .clz d a w => some (wordOf 0x0C000020 [(d.toNat, 20), (a.toNat, 14), (w.code, 3)])
  | .ctz d a w => some (wordOf 0x0C000021 [(d.toNat, 20), (a.toNat, 14), (w.code, 3)])
  | .popc d a w => some (wordOf 0x0C000022 [(d.toNat, 20), (a.toNat, 14), (w.code, 3)])
  | .ffs d a w => some (wordOf 0x0C000023 [(d.toNat, 20), (a.toNat, 14), (w.code, 3)])
  | .brev d a w => some (wordOf 0x0C000024 [(d.toNat, 20), (a.toNat, 14), (w.code, 3)])
  | .bswap d a w => some (wordOf 0x0C000025 [(d.toNat, 20), (a.toNat, 14), (w.code, 3)])
  | .addi d a imm => some (wordOf 0x10000000 [(d.toNat, 20), (a.toNat, 14), (imm.toNat, 0)])
  | .andi d a imm => some (wordOf 0x14000000 [(d.toNat, 20), (a.toNat, 14), (imm.toNat, 0)])
  | .ori d a imm => some (wordOf 0x18000000 [(d.toNat, 20), (a.toNat, 14), (imm.toNat, 0)])
  | .xori d a imm => some (wordOf 0x1C000000 [(d.toNat, 20), (a.toNat, 14), (imm.toNat, 0)])
  | .slti d a imm => some (wordOf 0x20000000 [(d.toNat, 20), (a.toNat, 14), (imm.toNat, 0)])
  | .sltiu d a imm => some (wordOf 0x24000000 [(d.toNat, 20), (a.toNat, 14), (imm.toNat, 0)])
  | .shli d a n => some (wordOf 0x28000000 [(d.toNat, 20), (a.toNat, 14), (n.toNat, 0)])
  | .shri d a n => some (wordOf 0x28000040 [(d.toNat, 20), (a.toNat, 14), (n.toNat, 0)])
  | .sari d a n => some (wordOf 0x28000080 [(d.toNat, 20), (a.toNat, 14), (n.toNat, 0)])
  | .rori d a n => some (wordOf 0x280000C0 [(d.toNat, 20), (a.toNat, 14), (n.toNat, 0)])
  | .extz d a p l => some (wordOf 0x2C000000 [(d.toNat, 20), (a.toNat, 14), (p.toNat, 6), (l.toNat, 0)])
  | .exts d a p l => some (wordOf 0x2C001000 [(d.toNat, 20), (a.toNat, 14), (p.toNat, 6), (l.toNat, 0)])
  | .dep d a p l => some (wordOf 0x2C002000 [(d.toNat, 20), (a.toNat, 14), (p.toNat, 6), (l.toNat, 0)])
  | .lds d a imm w => some (wordOf 0x30000000 [(d.toNat, 20), (a.toNat, 14), (imm.toNat, 2), (w.code, 0)])
  | .ldz d a imm w => some (wordOf 0x34000000 [(d.toNat, 20), (a.toNat, 14), (imm.toNat, 2), (w.code, 0)])
  | .st c a imm w => some (wordOf 0x38000000 [(c.toNat, 20), (a.toNat, 14), (imm.toNat, 2), (w.code, 0)])
  | .amoaddW d a b ord sc => some (wordOf 0x40000000 [(d.toNat, 20), (a.toNat, 14), (b.toNat, 8), (ord.code, 6), (sc.code, 3)])
  | .amoandW d a b ord sc => some (wordOf 0x40000001 [(d.toNat, 20), (a.toNat, 14), (b.toNat, 8), (ord.code, 6), (sc.code, 3)])
  | .amoorW d a b ord sc => some (wordOf 0x40000002 [(d.toNat, 20), (a.toNat, 14), (b.toNat, 8), (ord.code, 6), (sc.code, 3)])
  | .amoxorW d a b ord sc => some (wordOf 0x40000003 [(d.toNat, 20), (a.toNat, 14), (b.toNat, 8), (ord.code, 6), (sc.code, 3)])
  | .amominW d a b ord sc => some (wordOf 0x40000004 [(d.toNat, 20), (a.toNat, 14), (b.toNat, 8), (ord.code, 6), (sc.code, 3)])
  | .amomaxW d a b ord sc => some (wordOf 0x40000005 [(d.toNat, 20), (a.toNat, 14), (b.toNat, 8), (ord.code, 6), (sc.code, 3)])
  | .amominuW d a b ord sc => some (wordOf 0x40000006 [(d.toNat, 20), (a.toNat, 14), (b.toNat, 8), (ord.code, 6), (sc.code, 3)])
  | .amomaxuW d a b ord sc => some (wordOf 0x40000007 [(d.toNat, 20), (a.toNat, 14), (b.toNat, 8), (ord.code, 6), (sc.code, 3)])
  | .amoaddD d a b ord sc => some (wordOf 0x44000000 [(d.toNat, 20), (a.toNat, 14), (b.toNat, 8), (ord.code, 6), (sc.code, 3)])
  | .amoandD d a b ord sc => some (wordOf 0x44000001 [(d.toNat, 20), (a.toNat, 14), (b.toNat, 8), (ord.code, 6), (sc.code, 3)])
  | .amoorD d a b ord sc => some (wordOf 0x44000002 [(d.toNat, 20), (a.toNat, 14), (b.toNat, 8), (ord.code, 6), (sc.code, 3)])
  | .amoxorD d a b ord sc => some (wordOf 0x44000003 [(d.toNat, 20), (a.toNat, 14), (b.toNat, 8), (ord.code, 6), (sc.code, 3)])
  | .amominD d a b ord sc => some (wordOf 0x44000004 [(d.toNat, 20), (a.toNat, 14), (b.toNat, 8), (ord.code, 6), (sc.code, 3)])
  | .amomaxD d a b ord sc => some (wordOf 0x44000005 [(d.toNat, 20), (a.toNat, 14), (b.toNat, 8), (ord.code, 6), (sc.code, 3)])
  | .amominuD d a b ord sc => some (wordOf 0x44000006 [(d.toNat, 20), (a.toNat, 14), (b.toNat, 8), (ord.code, 6), (sc.code, 3)])
  | .amomaxuD d a b ord sc => some (wordOf 0x44000007 [(d.toNat, 20), (a.toNat, 14), (b.toNat, 8), (ord.code, 6), (sc.code, 3)])
  | .swp d a b ord sc dw => some (wordOf 0x48000000 [(d.toNat, 20), (a.toNat, 14), (b.toNat, 8), (ord.code, 6), (sc.code, 3), (dw.toNat, 2)])
  | .cas d a b ord sc dw => some (wordOf 0x48000001 [(d.toNat, 20), (a.toNat, 14), (b.toNat, 8), (ord.code, 6), (sc.code, 3), (dw.toNat, 2)])
  | .ldo d a ord sc dw => some (wordOf 0x48000002 [(d.toNat, 20), (a.toNat, 14), (ord.code, 6), (sc.code, 3), (dw.toNat, 2)])
  | .sto a b ord sc dw => some (wordOf 0x48000003 [(a.toNat, 14), (b.toNat, 8), (ord.code, 6), (sc.code, 3), (dw.toNat, 2)])
  | .redadd dw a b rel sc => some (wordOf 0x4C000000 [(dw.toNat, 20), (a.toNat, 14), (b.toNat, 8), (rel.toNat, 3), (sc.code, 0)])
  | .redand dw a b rel sc => some (wordOf 0x4C000010 [(dw.toNat, 20), (a.toNat, 14), (b.toNat, 8), (rel.toNat, 3), (sc.code, 0)])
  | .redor dw a b rel sc => some (wordOf 0x4C000020 [(dw.toNat, 20), (a.toNat, 14), (b.toNat, 8), (rel.toNat, 3), (sc.code, 0)])
  | .redxor dw a b rel sc => some (wordOf 0x4C000030 [(dw.toNat, 20), (a.toNat, 14), (b.toNat, 8), (rel.toNat, 3), (sc.code, 0)])
  | .redmin dw a b rel sc => some (wordOf 0x4C000040 [(dw.toNat, 20), (a.toNat, 14), (b.toNat, 8), (rel.toNat, 3), (sc.code, 0)])
  | .redmax dw a b rel sc => some (wordOf 0x4C000050 [(dw.toNat, 20), (a.toNat, 14), (b.toNat, 8), (rel.toNat, 3), (sc.code, 0)])
  | .redminu dw a b rel sc => some (wordOf 0x4C000060 [(dw.toNat, 20), (a.toNat, 14), (b.toNat, 8), (rel.toNat, 3), (sc.code, 0)])
  | .redmaxu dw a b rel sc => some (wordOf 0x4C000070 [(dw.toNat, 20), (a.toNat, 14), (b.toNat, 8), (rel.toNat, 3), (sc.code, 0)])
  | .redacc d a b rel sc => some (wordOf 0x4C000080 [(d.toNat, 20), (a.toNat, 14), (b.toNat, 8), (rel.toNat, 3), (sc.code, 0)])
  | .fence e sc => some (wordOf 0x50000000 [(e.toNat, 8), (sc.code, 3)])
  | .fenceE sc => some (wordOf 0x50000040 [(sc.code, 3)])
  | .wbr a b sc => some (wordOf 0x50000080 [(a.toNat, 14), (b.toNat, 8), (sc.code, 3)])
  | .invr a b sc => some (wordOf 0x500000C0 [(a.toNat, 14), (b.toNat, 8), (sc.code, 3)])
  | .arrive n => some (wordOf 0x54000000 [(n.toNat, 0)])
  | .arriveSnap n => some (wordOf 0x54000010 [(n.toNat, 0)])
  | .wait d n => some (wordOf 0x54000020 [(d.toNat, 20), (n.toNat, 0)])
  | .bstat d n => some (wordOf 0x54000040 [(d.toNat, 20), (n.toNat, 0)])
  | .bset a n => some (wordOf 0x54000060 [(a.toNat, 14), (n.toNat, 0)])
  | .brst n => some (wordOf 0x54000080 [(n.toNat, 0)])
  | .start n a b => some (wordOf 0x58000000 [(n.toNat, 20), (a.toNat, 14), (b.toNat, 8)])
  | .stop n => some (wordOf 0x58000001 [(n.toNat, 20)])
  | .join d n => some (wordOf 0x58000002 [(d.toNat, 20), (n.toNat, 14)])
  | .endCtx => some (wordOf 0x58000003 [])
  | .yield => some (wordOf 0x58000004 [])
  | .fuse => some (wordOf 0x58000005 [])
  | .split => some (wordOf 0x58000006 [])
  | .gets d r => some (wordOf 0x5C000000 [(d.toNat, 20), (r.toNat, 0)])
  | .sets a r => some (wordOf 0x5C001000 [(a.toNat, 14), (r.toNat, 0)])
  | .trap c => some (wordOf 0x5C002000 [(c.toNat, 0)])
  | .eret => some (wordOf 0x5C002100 [])
  | .touch d a => some (wordOf 0x5C002200 [(d.toNat, 20), (a.toNat, 14)])
  | .halt => some (wordOf 0x5C002300 [])
  | .objinv a sc => some (wordOf 0x5C002400 [(a.toNat, 14), (sc.code, 0)])
  | .einj c a tier => some (wordOf 0x5C002500 [(c.toNat, 20), (a.toNat, 14), (tier.code, 0)])
  | .digest d a => some (wordOf 0x5C002600 [(d.toNat, 20), (a.toNat, 14)])
  | .digestN d a => some (wordOf 0x5C002601 [(d.toNat, 20), (a.toNat, 14)])
  | .beq c a imm => some (wordOf 0x60000000 [(c.toNat, 20), (a.toNat, 14), (imm.toNat, 0)])
  | .bne c a imm => some (wordOf 0x64000000 [(c.toNat, 20), (a.toNat, 14), (imm.toNat, 0)])
  | .blt c a imm => some (wordOf 0x68000000 [(c.toNat, 20), (a.toNat, 14), (imm.toNat, 0)])
  | .bge c a imm => some (wordOf 0x6C000000 [(c.toNat, 20), (a.toNat, 14), (imm.toNat, 0)])
  | .bltu c a imm => some (wordOf 0x70000000 [(c.toNat, 20), (a.toNat, 14), (imm.toNat, 0)])
  | .bgeu c a imm => some (wordOf 0x74000000 [(c.toNat, 20), (a.toNat, 14), (imm.toNat, 0)])
  | .jal imm => some (wordOf 0x78000000 [(imm.toNat, 0)])
  | .jalr d a imm => some (wordOf 0x7C000000 [(d.toNat, 20), (a.toNat, 14), (imm.toNat, 0)])
  | .rset h a => some (wordOf 0x80000000 [(h.toNat, 20), (a.toNat, 14)])
  | .waitf h m => some (wordOf 0x80000010 [(h.toNat, 20), (m.toNat, 0)])
  | .waite h m => some (wordOf 0x80000020 [(h.toNat, 20), (m.toNat, 0)])
  | .advp h m => some (wordOf 0x80000030 [(h.toNat, 20), (m.toNat, 0)])
  | .advc h m => some (wordOf 0x80000040 [(h.toNat, 20), (m.toNat, 0)])
  | .rstat d h w => some (wordOf 0x80000050 [(d.toNat, 20), (h.toNat, 14), (w.toNat, 0)])
  | .cpy a b t => some (wordOf 0x84000000 [(a.toNat, 20), (b.toNat, 14), (t.toNat, 8)])
  | .cpyr a b t sc z => some (wordOf 0x84000040 [(a.toNat, 20), (b.toNat, 14), (t.toNat, 8), (sc.code, 3), (z.toNat, 0)])
  | .cpyc r => some (wordOf 0x84000080 [(r.toNat, 20)])
  | .cpyq a t => some (wordOf 0x840000C0 [(a.toNat, 20), (t.toNat, 8)])
  | .mma a b t tile => some (wordOf 0x88000000 [(a.toNat, 20), (b.toNat, 14), (t.toNat, 8), (tile.toNat, 3)])
  | .mmar a b t tile => some (wordOf 0x88000040 [(a.toNat, 20), (b.toNat, 14), (t.toNat, 8), (tile.toNat, 3)])
  | .mmaz a b t tile => some (wordOf 0x88000080 [(a.toNat, 20), (b.toNat, 14), (t.toNat, 8), (tile.toNat, 3)])
  | .mcfg a b t => some (wordOf 0x8C000000 [(a.toNat, 20), (b.toNat, 14), (t.toNat, 8)])
  | .mcfgRd a b t => some (wordOf 0x8C000001 [(a.toNat, 20), (b.toNat, 14), (t.toNat, 8)])
  | .minit a t tile => some (wordOf 0x8C000010 [(a.toNat, 20), (t.toNat, 8), (tile.toNat, 0)])
  | .mrd a b t tile => some (wordOf 0x8C000020 [(a.toNat, 20), (b.toNat, 14), (t.toNat, 8), (tile.toNat, 0)])
  | .mrdv a v t tile => some (wordOf 0x8C000030 [(a.toNat, 20), (v.toNat, 14), (t.toNat, 8), (tile.toNat, 0)])
  | .mlda a b t tile => some (wordOf 0x8C000040 [(a.toNat, 20), (b.toNat, 14), (t.toNat, 8), (tile.toNat, 0)])
  | .mldaAdd a b t tile => some (wordOf 0x8C000048 [(a.toNat, 20), (b.toNat, 14), (t.toNat, 8), (tile.toNat, 0)])
  | .msta a t tile => some (wordOf 0x8C000050 [(a.toNat, 20), (t.toNat, 8), (tile.toNat, 0)])
  | .mstat a t tile => some (wordOf 0x8C000060 [(a.toNat, 20), (t.toNat, 8), (tile.toNat, 0)])
  | .mshad a t tile => some (wordOf 0x8C000070 [(a.toNat, 20), (t.toNat, 8), (tile.toNat, 0)])
  | .efence => some (wordOf 0x8C000080 [])
  | .cgrp a t n => some (wordOf 0x90000000 [(a.toNat, 20), (t.toNat, 8), (n.toNat, 0)])
  | .ctab a t n => some (wordOf 0x90000020 [(a.toNat, 20), (t.toNat, 8), (n.toNat, 0)])
  | .cstart a t n => some (wordOf 0x90000040 [(a.toNat, 20), (t.toNat, 8), (n.toNat, 0)])
  | .tready a n => some (wordOf 0x90000060 [(a.toNat, 20), (n.toNat, 0)])
  | .cwait a t n => some (wordOf 0x90000080 [(a.toNat, 20), (t.toNat, 8), (n.toNat, 0)])
  | .rdraw d b => some (wordOf 0x94000000 [(d.toNat, 21), (b.toNat, 11)])
  | .rvec d b k => some (wordOf 0x94000040 [(d.toNat, 21), (b.toNat, 11), (k.toNat, 8)])
  | .rmask k b => some (wordOf 0x94000080 [(k.toNat, 21), (b.toNat, 11)])
  | .rkey d b => some (wordOf 0x940000C0 [(d.toNat, 21), (b.toNat, 11)])
  | .launch d a => some (wordOf 0x98000000 [(d.toNat, 20), (a.toNat, 14)])
  | .depdec d a => some (wordOf 0x98000001 [(d.toNat, 20), (a.toNat, 14)])
  | .tcbq d a => some (wordOf 0x98000002 [(d.toNat, 20), (a.toNat, 14)])
  | .sendm a b t nb => some (wordOf 0x9C000000 [(a.toNat, 20), (b.toNat, 14), (t.toNat, 8), (nb.toNat, 5)])
  | .recvm a b t nb => some (wordOf 0x9C000040 [(a.toNat, 20), (b.toNat, 14), (t.toNat, 8), (nb.toNat, 5)])
  | .recvmCfg a => some (wordOf 0x9C000080 [(a.toNat, 20)])
  | .vld v a k imm => some (wordOf 0xA0000000 [(v.toNat, 21), (a.toNat, 15), (k.toNat, 12), (imm.toNat, 0)])
  | .vst v a k imm => some (wordOf 0xA4000000 [(v.toNat, 21), (a.toNat, 15), (k.toNat, 12), (imm.toNat, 0)])
  | .vadd d a b k ty => some (wordOf 0xA8000000 [(d.toNat, 21), (a.toNat, 16), (b.toNat, 11), (k.toNat, 8), (ty.code, 0)])
  | .vsub d a b k ty => some (wordOf 0xA8000008 [(d.toNat, 21), (a.toNat, 16), (b.toNat, 11), (k.toNat, 8), (ty.code, 0)])
  | .vmul d a b k ty => some (wordOf 0xA8000010 [(d.toNat, 21), (a.toNat, 16), (b.toNat, 11), (k.toNat, 8), (ty.code, 0)])
  | .vmin d a b k ty => some (wordOf 0xA8000018 [(d.toNat, 21), (a.toNat, 16), (b.toNat, 11), (k.toNat, 8), (ty.code, 0)])
  | .vmax d a b k ty => some (wordOf 0xA8000020 [(d.toNat, 21), (a.toNat, 16), (b.toNat, 11), (k.toNat, 8), (ty.code, 0)])
  | .vand d a b k ty => some (wordOf 0xA8000028 [(d.toNat, 21), (a.toNat, 16), (b.toNat, 11), (k.toNat, 8), (ty.code, 0)])
  | .vor d a b k ty => some (wordOf 0xA8000030 [(d.toNat, 21), (a.toNat, 16), (b.toNat, 11), (k.toNat, 8), (ty.code, 0)])
  | .vxor d a b k ty => some (wordOf 0xA8000038 [(d.toNat, 21), (a.toNat, 16), (b.toNat, 11), (k.toNat, 8), (ty.code, 0)])
  | .vandn d a b k ty => some (wordOf 0xA8000040 [(d.toNat, 21), (a.toNat, 16), (b.toNat, 11), (k.toNat, 8), (ty.code, 0)])
  | .vshl d a b k ty => some (wordOf 0xA8000048 [(d.toNat, 21), (a.toNat, 16), (b.toNat, 11), (k.toNat, 8), (ty.code, 0)])
  | .vshr d a b k ty => some (wordOf 0xA8000050 [(d.toNat, 21), (a.toNat, 16), (b.toNat, 11), (k.toNat, 8), (ty.code, 0)])
  | .vsar d a b k ty => some (wordOf 0xA8000058 [(d.toNat, 21), (a.toNat, 16), (b.toNat, 11), (k.toNat, 8), (ty.code, 0)])
  | .vadds d a b k ty => some (wordOf 0xA8000060 [(d.toNat, 21), (a.toNat, 16), (b.toNat, 11), (k.toNat, 8), (ty.code, 0)])
  | .vsubs d a b k ty => some (wordOf 0xA8000068 [(d.toNat, 21), (a.toNat, 16), (b.toNat, 11), (k.toNat, 8), (ty.code, 0)])
  | .vavg d a b k ty => some (wordOf 0xA8000070 [(d.toNat, 21), (a.toNat, 16), (b.toNat, 11), (k.toNat, 8), (ty.code, 0)])
  | .vabs d a k ty => some (wordOf 0xA8000078 [(d.toNat, 21), (a.toNat, 16), (k.toNat, 8), (ty.code, 0)])
  | .vfadd d a b k ty => some (wordOf 0xAC000000 [(d.toNat, 21), (a.toNat, 16), (b.toNat, 11), (k.toNat, 8), (ty.code, 0)])
  | .vfsub d a b k ty => some (wordOf 0xAC000008 [(d.toNat, 21), (a.toNat, 16), (b.toNat, 11), (k.toNat, 8), (ty.code, 0)])
  | .vfmul d a b k ty => some (wordOf 0xAC000010 [(d.toNat, 21), (a.toNat, 16), (b.toNat, 11), (k.toNat, 8), (ty.code, 0)])
  | .vfmin d a b k ty => some (wordOf 0xAC000018 [(d.toNat, 21), (a.toNat, 16), (b.toNat, 11), (k.toNat, 8), (ty.code, 0)])
  | .vfmax d a b k ty => some (wordOf 0xAC000020 [(d.toNat, 21), (a.toNat, 16), (b.toNat, 11), (k.toNat, 8), (ty.code, 0)])
  | .vfabs d a k ty => some (wordOf 0xAC000028 [(d.toNat, 21), (a.toNat, 16), (k.toNat, 8), (ty.code, 0)])
  | .vfneg d a k ty => some (wordOf 0xAC000030 [(d.toNat, 21), (a.toNat, 16), (k.toNat, 8), (ty.code, 0)])
  | .vfmaF32 d a b c k => some (wordOf 0xB0000000 [(d.toNat, 21), (a.toNat, 16), (b.toNat, 11), (c.toNat, 6), (k.toNat, 3)])
  | .vfmsF32 d a b c k => some (wordOf 0xB0000001 [(d.toNat, 21), (a.toNat, 16), (b.toNat, 11), (c.toNat, 6), (k.toNat, 3)])
  | .vfnmaF32 d a b c k => some (wordOf 0xB0000002 [(d.toNat, 21), (a.toNat, 16), (b.toNat, 11), (c.toNat, 6), (k.toNat, 3)])
  | .vfnmsF32 d a b c k => some (wordOf 0xB0000003 [(d.toNat, 21), (a.toNat, 16), (b.toNat, 11), (c.toNat, 6), (k.toNat, 3)])
  | .vfmaBf16 d a b c k => some (wordOf 0xB0000004 [(d.toNat, 21), (a.toNat, 16), (b.toNat, 11), (c.toNat, 6), (k.toNat, 3)])
  | .vfmsBf16 d a b c k => some (wordOf 0xB0000005 [(d.toNat, 21), (a.toNat, 16), (b.toNat, 11), (c.toNat, 6), (k.toNat, 3)])
  | .vfmaF16 d a b c k => some (wordOf 0xB0000006 [(d.toNat, 21), (a.toNat, 16), (b.toNat, 11), (c.toNat, 6), (k.toNat, 3)])
  | .vfmsF16 d a b c k => some (wordOf 0xB0000007 [(d.toNat, 21), (a.toNat, 16), (b.toNat, 11), (c.toNat, 6), (k.toNat, 3)])
  | .vcvt d a b k rm c => some (wordOf 0xB4000000 [(d.toNat, 21), (a.toNat, 16), (b.toNat, 11), (k.toNat, 8), (rm.code, 3), (c.toNat, 0)])
  | .vcvti d a b k rm c => some (wordOf 0xB4000020 [(d.toNat, 21), (a.toNat, 16), (b.toNat, 11), (k.toNat, 8), (rm.code, 3), (c.toNat, 0)])
  | .vcvtf d a b k rm c => some (wordOf 0xB4000040 [(d.toNat, 21), (a.toNat, 16), (b.toNat, 11), (k.toNat, 8), (rm.code, 3), (c.toNat, 0)])
  | .vpack d a b k rm fmt => some (wordOf 0xB4000060 [(d.toNat, 21), (a.toNat, 16), (b.toNat, 11), (k.toNat, 8), (rm.code, 3), (fmt.code, 0)])
  | .vunpk d a b k rm fmt => some (wordOf 0xB4000080 [(d.toNat, 21), (a.toNat, 16), (b.toNat, 11), (k.toNat, 8), (rm.code, 3), (fmt.code, 0)])
  | .vscale d a b k rm ty => some (wordOf 0xB40000A0 [(d.toNat, 21), (a.toNat, 16), (b.toNat, 11), (k.toNat, 8), (rm.code, 3), (ty.code, 0)])
  | .vshuf d a b k w => some (wordOf 0xB8000000 [(d.toNat, 21), (a.toNat, 16), (b.toNat, 11), (k.toNat, 8), (w.code, 0)])
  | .vbcst d b k w => some (wordOf 0xB8000008 [(d.toNat, 21), (b.toNat, 11), (k.toNat, 8), (w.code, 0)])
  | .vins d imm b k w => some (wordOf 0xB8000010 [(d.toNat, 21), (imm.toNat, 16), (b.toNat, 11), (k.toNat, 8), (w.code, 0)])
  | .vext d a imm w => some (wordOf 0xB8000018 [(d.toNat, 21), (a.toNat, 16), (imm.toNat, 11), (w.code, 0)])
  | .vrot d a b k w => some (wordOf 0xB8000020 [(d.toNat, 21), (a.toNat, 16), (b.toNat, 11), (k.toNat, 8), (w.code, 0)])
  | .vzip d a b k hi w => some (wordOf 0xB8000028 [(d.toNat, 21), (a.toNat, 16), (b.toNat, 11), (k.toNat, 8), (hi.toNat, 2), (w.code, 0)])
  | .vuzp d a b k hi w => some (wordOf 0xB8000030 [(d.toNat, 21), (a.toNat, 16), (b.toNat, 11), (k.toNat, 8), (hi.toNat, 2), (w.code, 0)])
  | .vredadd d a k ty => some (wordOf 0xBC000000 [(d.toNat, 21), (a.toNat, 16), (k.toNat, 8), (ty.code, 0)])
  | .vredmax d a k ty => some (wordOf 0xBC000010 [(d.toNat, 21), (a.toNat, 16), (k.toNat, 8), (ty.code, 0)])
  | .vredmin d a k ty => some (wordOf 0xBC000020 [(d.toNat, 21), (a.toNat, 16), (k.toNat, 8), (ty.code, 0)])
  | .vredand d a k ty => some (wordOf 0xBC000030 [(d.toNat, 21), (a.toNat, 16), (k.toNat, 8), (ty.code, 0)])
  | .vredor d a k ty => some (wordOf 0xBC000040 [(d.toNat, 21), (a.toNat, 16), (k.toNat, 8), (ty.code, 0)])
  | .vredxor d a k ty => some (wordOf 0xBC000050 [(d.toNat, 21), (a.toNat, 16), (k.toNat, 8), (ty.code, 0)])
  | .vcmpInt d a b k cond ty => some (wordOf 0xC0000000 [(d.toNat, 21), (a.toNat, 16), (b.toNat, 11), (k.toNat, 8), (cond.code, 3), (ty.code, 0)])
  | .vcmpFlt d a b k cond ty => some (wordOf 0xC0000040 [(d.toNat, 21), (a.toNat, 16), (b.toNat, 11), (k.toNat, 8), (cond.code, 3), (ty.code, 0)])
  | .vsel d a b k w => some (wordOf 0xC0000080 [(d.toNat, 21), (a.toNat, 16), (b.toNat, 11), (k.toNat, 8), (w.code, 0)])
  | .kand d a b => some (wordOf 0xC00000C0 [(d.toNat, 21), (a.toNat, 16), (b.toNat, 11)])
  | .kor d a b => some (wordOf 0xC00000C8 [(d.toNat, 21), (a.toNat, 16), (b.toNat, 11)])
  | .kxor d a b => some (wordOf 0xC00000D0 [(d.toNat, 21), (a.toNat, 16), (b.toNat, 11)])
  | .knot d a => some (wordOf 0xC00000D8 [(d.toNat, 21), (a.toNat, 16)])
  | .kpop d a => some (wordOf 0xC00000E0 [(d.toNat, 21), (a.toNat, 16)])
  | .kffs d a => some (wordOf 0xC00000E8 [(d.toNat, 21), (a.toNat, 16)])
  | .kmov d a => some (wordOf 0xC00000F0 [(d.toNat, 21), (a.toNat, 16)])
  | .kmovExpand d a f => some (wordOf 0xC00000F0 [(d.toNat, 21), (a.toNat, 16), (f.toNat, 0)])
  | .kmovFromG d b => some (wordOf 0xC00000F4 [(d.toNat, 21), (b.toNat, 11)])
  | .kmovToG d a => some (wordOf 0xC00000F5 [(d.toNat, 21), (a.toNat, 16)])
  | .vlop3 d a b k t => some (wordOf 0xC4008000 [(d.toNat, 21), (a.toNat, 16), (b.toNat, 11), (k.toNat, 8), (t.toNat, 0)])
  | .vfshl d a b k w s => some (wordOf 0xC4000000 [(d.toNat, 21), (a.toNat, 16), (b.toNat, 11), (k.toNat, 8), (w.code, 6), (s.toNat, 0)])
  | .vclz d a k w => some (wordOf 0xC4000020 [(d.toNat, 21), (a.toNat, 16), (k.toNat, 8), (w.code, 3)])
  | .vctz d a k w => some (wordOf 0xC4000021 [(d.toNat, 21), (a.toNat, 16), (k.toNat, 8), (w.code, 3)])
  | .vpopc d a k w => some (wordOf 0xC4000022 [(d.toNat, 21), (a.toNat, 16), (k.toNat, 8), (w.code, 3)])
  | .vrcp d a k => some (wordOf 0xC8000000 [(d.toNat, 21), (a.toNat, 16), (k.toNat, 8)])
  | .vrsq d a k => some (wordOf 0xC8000008 [(d.toNat, 21), (a.toNat, 16), (k.toNat, 8)])
  | .vsqrt d a k => some (wordOf 0xC8000010 [(d.toNat, 21), (a.toNat, 16), (k.toNat, 8)])
  | .vexp2 d a k => some (wordOf 0xC8000018 [(d.toNat, 21), (a.toNat, 16), (k.toNat, 8)])
  | .vlog2 d a k => some (wordOf 0xC8000020 [(d.toNat, 21), (a.toNat, 16), (k.toNat, 8)])
  | .vldb d b k w => some (wordOf 0xCC000000 [(d.toNat, 21), (b.toNat, 11), (k.toNat, 8), (w.code, 4)])
  | .vgath d a b k w => some (wordOf 0xCC000040 [(d.toNat, 21), (a.toNat, 16), (b.toNat, 11), (k.toNat, 8), (w.code, 4)])
  | .vscat d a b k w => some (wordOf 0xCC000080 [(d.toNat, 21), (a.toNat, 16), (b.toNat, 11), (k.toNat, 8), (w.code, 4)])
  | .immx p => some (wordOf 0xFC000000 [(p.toNat, 0)])
  | .prio n => some (wordOf 0xFC400000 [(n.toNat, 0)])
  | .rev n => some (wordOf 0xFC800000 [(n.toNat, 0)])
  | .likely taken => some (wordOf 0xFCC00000 [(taken.toNat, 0)])
  | .spin a => some (wordOf 0xFD000000 [(a.toNat, 0)])
  | .nofold => some (wordOf 0xFD400000 [])
  | .hnop k p => some (wordOf 0xFC000000 [(k.toNat, 22), (p.toNat, 0)])
  | _ => none

/-- Whether a constructor stands for a word of the instruction set (not for an event). -/
def Instr.isWord (i : Instr) : Bool := (encode i).isSome

/-- A prefix word (R131). -/
def Instr.isPrefix : Instr → Bool
  | .immx _ | .likely _ | .nofold => true
  | _ => false

/-- A hint: an H word (R131). -/
def Instr.isHint : Instr → Bool
  | .immx _ | .likely _ | .nofold | .prio _ | .rev _ | .spin _ | .hnop _ _ => true
  | _ => false

/-- The major opcode of an instruction's word (R412); 0 for an event. -/
def Instr.major (i : Instr) : Nat := (encode i).getD 0 / 2 ^ 26

/-- An instruction that takes an immediate extension (R133). -/
def Instr.takesImmx (i : Instr) : Bool :=
  let m := i.major
  (0x04 ≤ m && m ≤ 0x09) || (0x0C ≤ m && m ≤ 0x0E) || m = 0x28 || m = 0x29

end Sys2Proof
end

