-- ==== Sys2Proof/Machine/Inflector.lean ====
section
/-! DEFINITION. The Inflector and its keys and counters (R69 to R72, R207). -/

namespace Sys2Proof.Machine

/-- The rotations of the six rounds, in order (R69). -/
def inflectorRounds : List (Nat × Nat × Nat) :=
  [(0, 13, 8), (1, 7, 19), (2, 23, 3), (3, 5, 27), (4, 17, 12), (5, 11, 29)]

/-- One round on (x0, x1) (R69). -/
def inflectorRound (k0 k1 : BitVec 32) (x : BitVec 32 × BitVec 32) (r : Nat × Nat × Nat) : BitVec 32 × BitVec 32 :=
  let kk := if r.1 % 2 = 0 then k0 else k1
  let a := x.1 + kk + BitVec.ofNat 32 r.1
  let b := x.2 ^^^ a.rotateLeft r.2.1
  (a + b.rotateLeft r.2.2, b)

/-- The Inflector (R69). -/
def inflector (key counter : Word) : Word :=
  let k0 := key.setWidth 32
  let k1 := (key >>> 32).setWidth 32
  let x := inflectorRounds.foldl (inflectorRound k0 k1) (counter.setWidth 32, (counter >>> 32).setWidth 32)
  x.2 ++ x.1

/-- The rounding key of SEED, a tensor identity and STEP (R70). -/
def roundingKey (seed step : Word) (tensor : BitVec 32) : Word :=
  ((seed >>> 32).setWidth 32 ^^^ tensor) ++ (seed.setWidth 32 ^^^ step.setWidth 32)

/-- 16 bits of a word, quarter `i`. -/
def quarter (x : Word) (i : Nat) : Nat := x.toNat / 2 ^ (16 * i) % 2 ^ 16

/-- The draw at plane p, row i, column j (R71). -/
def drawAt (key : Word) (p i j : Nat) : Nat :=
  quarter (inflector key (Word.ofN (p * 2 ^ 48 + i * 2 ^ 24 + j / 4))) (j % 4)

/-- The per-thread draw (R72, R220). -/
def streamDraw (rkey lthread off : Word) : Word := inflector rkey ((lthread <<< 40) + off)

/-- The draw of element `l` for an origin word (R207). -/
def originDraw (key origin : Word) (l : Nat) : Nat :=
  drawAt key (origin.bits 63 50) (origin.bits 49 26) ((origin.bits 25 0 + l) % 2 ^ 26)

end Sys2Proof.Machine
end

