-- ==== Sys2Proof/Machine/Memory.lean ====
section
/-! DEFINITION. Byte memories in their one canonical form, and the words and blocks built from bytes (R3). -/

namespace Sys2Proof.Machine

/-- The canonical form: addresses strictly rise from `lo`, and no listed byte is zero. -/
def Memory.wfFrom : Nat → Memory → Bool
  | _, [] => true
  | lo, (a, b) :: rest => decide (lo ≤ a) && b != 0 && Memory.wfFrom (a + 1) rest

/-- The canonical form of a memory. -/
def Memory.wf (m : Memory) : Bool := Memory.wfFrom 0 m

/-- The byte at an address; an unlisted address reads as zero. -/
def Memory.get : Memory → Nat → Byte
  | [], _ => 0
  | (k, b) :: rest, a => if a = k then b else if a < k then 0 else Memory.get rest a

/-- One byte written; writing zero removes the entry. -/
def Memory.set : Memory → Nat → Byte → Memory
  | [], a, v => if v = 0 then [] else [(a, v)]
  | (k, b) :: rest, a, v =>
    if a < k then (if v = 0 then (k, b) :: rest else (a, v) :: (k, b) :: rest)
    else if a = k then (if v = 0 then rest else (k, v) :: rest)
    else (k, b) :: Memory.set rest a v

/-- `n` bytes from address `a`. -/
def Memory.read (m : Memory) (a : Nat) : Nat → List Byte
  | 0 => []
  | n + 1 => m.get a :: Memory.read m (a + 1) n

/-- Bytes written from address `a` on. -/
def Memory.write (m : Memory) (a : Nat) : List Byte → Memory
  | [] => m
  | b :: bs => Memory.write (m.set a b) (a + 1) bs

/-- The little-endian value of `n` bytes. -/
def Memory.value (m : Memory) (a n : Nat) : Nat := valueOf (m.read a n)

/-- `n` bytes of a value written, lowest byte first. -/
def Memory.store (m : Memory) (a n v : Nat) : Memory := m.write a (bytesOf n v)

/-- The bytes of an `n`-byte value that `mask` selects, stored. -/
def Memory.writeMasked (m : Memory) (a n v mask : Nat) : Memory :=
  ((List.range n).filter fun i => mask.testBit i).foldl (fun m i => m.set (a + i) (BitVec.ofNat 8 (v / 2 ^ (8 * i)))) m

/-- The 64-bit word at `a`. -/
def Memory.word (m : Memory) (a : Nat) : Word := Word.ofN (m.value a 8)

/-- A 64-bit word stored. -/
def Memory.setWord (m : Memory) (a : Nat) (v : Word) : Memory := m.store a 8 v.toNat

/-- The entries of a memory in [a, a + n), and those outside. -/
def Memory.slice (m : Memory) (a n : Nat) : Memory := m.filter fun c => a ≤ c.1 && c.1 < a + n
def Memory.below (m : Memory) (a : Nat) : Memory := m.filter fun c => c.1 < a
def Memory.above (m : Memory) (a : Nat) : Memory := m.filter fun c => a ≤ c.1

/-- The `n` bytes at `da` replaced by those of `src` at `sa`. -/
def Memory.blit (m : Memory) (da : Nat) (src : Memory) (sa n : Nat) : Memory :=
  m.below da ++ ((src.slice sa n).map fun c => (c.1 - sa + da, c.2)) ++ m.above (da + n)

/-- The `n` bytes at `a` set to zero. -/
def Memory.zero (m : Memory) (a n : Nat) : Memory := m.below a ++ m.above (a + n)

/-- The memory of a list of bytes at `a`. -/
def Memory.ofBytes (a : Nat) : List Byte → Memory
  | [] => []
  | b :: bs => if b = 0 then Memory.ofBytes (a + 1) bs else (a, b) :: Memory.ofBytes (a + 1) bs

/-- A sparse table: the value of a key, and a key set (its old entry removed). -/
def NatMap.get {α : Type} (m : NatMap α) (k : Nat) : Option α := (m.find? fun e => e.1 = k).map (·.2)

def NatMap.erase {α : Type} (m : NatMap α) (k : Nat) : NatMap α := m.filter fun e => e.1 ≠ k

/-- Insertion in rising order of key. -/
def NatMap.set {α : Type} : NatMap α → Nat → α → NatMap α
  | [], k, v => [(k, v)]
  | (j, w) :: rest, k, v =>
    if k < j then (k, v) :: (j, w) :: rest
    else if k = j then (k, v) :: rest
    else (j, w) :: NatMap.set rest k v

end Sys2Proof.Machine
end

