-- ==== Sys2Proof/Machine/Focus.lean ====
section
/-! DEFINITION. The focus on one logical core and one context, the registers of the context in focus, and the type of
an operation that can trap, stall or wait. -/

namespace Sys2Proof.Machine

/-- Insertion into a list that is in order, and a list put in order. -/
def insertBy {α : Type} (le : α → α → Bool) (x : α) : List α → List α
  | [] => [x]
  | y :: ys => if le x y then x :: y :: ys else y :: insertBy le x ys

def sortBy {α : Type} (le : α → α → Bool) (l : List α) : List α := l.foldl (fun acc x => insertBy le x acc) []

/-- The copy of a line that a read verified: of an L1, by its slot; of a cluster cache; of a memory-side cache; or of a
memory-side cache while it filled a cluster cache. -/
inductive Held
  | l1 (slot cluster tag : Nat)
  | cc (cluster tag : Nat)
  | msc (tag : Nat)
  | fill (cluster tag : Nat)
  deriving DecidableEq, Repr

/-- A trap: its cause, EADDR and EINFO, the pending report it takes, if it takes one (R396, R243, R285), and, where an
uncorrectable error is behind it, the telemetry record that this writes (the die and words 0 to 2, R426) and the copy
whose sector was read (R421). -/
structure Trap where
  cause : BitVec 8
  eaddr : Word
  einfo : Word
  report : Option Report
  log : Option (Nat × Word × Word × Word)
  gone : Option Held
  deriving DecidableEq, Repr

/-- Why an operation does not complete: it traps; the conditions its entry states do not hold, and nothing changes
(R152); or it waits in a changed state and is issued again later. -/
inductive Halt
  | trap (t : Trap)
  | stall
  | block (s : State)
  deriving DecidableEq, Repr

/-- An operation on the state that can halt. -/
abbrev Op (α : Type) := StateT State (Except Halt) α

/-- A trap with no pending report. -/
def Op.trap {α : Type} (cause : Nat) (eaddr einfo : Word) : Op α :=
  throw (.trap ⟨BitVec.ofNat 8 cause, eaddr, einfo, none, none, none⟩)

/-- The operation's condition does not hold. -/
def Op.stall {α : Type} : Op α := throw .stall

/-- Stall unless the condition holds. -/
def Op.need (b : Bool) : Op Unit := if b then pure () else Op.stall

/-- Wait in the state reached so far. -/
def Op.block {α : Type} : Op α := fun s => .error (.block s)

/-- The value, or a stall where there is none. -/
def Op.get! {α : Type} : Option α → Op α
  | some a => pure a
  | none => Op.stall

/-- What an operation answers, with nothing of it done. -/
def Op.foreseen {α : Type} (op : Op α) : Op α := fun s => (op s).map fun r => (r.1, s)

/-- A function applied to each element in turn. -/
def Op.forEach {α : Type} (f : α → Op Unit) : List α → Op Unit
  | [] => pure ()
  | a :: as => do f a; Op.forEach f as

/-- The results of a function on each element in turn. -/
def Op.collect {α β : Type} (f : α → Op β) : List α → Op (List β)
  | [] => pure []
  | a :: as => do
    let b ← f a
    let bs ← Op.collect f as
    pure (b :: bs)

/-! ### Causes (R399) -/

def cILL : Nat := 0x01
def cPRIV : Nat := 0x02
def cMISAL : Nat := 0x03
def cBOUND : Nat := 0x04
def cRIGHT : Nat := 0x05
def cHANDLE : Nat := 0x06
def cFRAME : Nat := 0x07
def cREMOTE : Nat := 0x08
def cXFETCH : Nat := 0x09
def cXDATA : Nat := 0x0A
def cHANDBACK : Nat := 0x0B
def cMIXSZ : Nat := 0x0C
def cPOISON : Nat := 0x0D
def cSTRUCT : Nat := 0x0E
def cLOST : Nat := 0x0F
def cRING : Nat := 0x10
def cCOLL : Nat := 0x11
def cGANG : Nat := 0x12
def cSWTRAP : Nat := 0x13
def cWDOG : Nat := 0x14
def cTWIN : Nat := 0x15
def cARCH : Nat := 0x16
def cBROKEN : Nat := 0x17
def cMAIL : Nat := 0x18

/-! ### Focus -/

/-- The context in focus. -/
def State.ctx (s : State) : Ctx := s.core.ctx

def State.setCore (s : State) (c : LCore) : State := { s with core := c }

def State.setCtx (s : State) (c : Ctx) : State := { s with core := { s.core with ctx := c } }

/-- All logical cores. -/
def State.cores (s : State) : List LCore := s.core :: s.peers

/-- All contexts of a logical core. -/
def LCore.ctxs (c : LCore) : List Ctx := c.ctx :: c.others

def State.findCore (s : State) (id : CoreId) : Option LCore := s.cores.find? fun c => c.id = id

/-- A logical core changed, wherever it stands. -/
def State.mapCore (s : State) (id : CoreId) (f : LCore → LCore) : State :=
  if s.core.id = id then { s with core := f s.core }
  else { s with peers := s.peers.map fun c => if c.id = id then f c else c }

/-- Every logical core changed. -/
def State.mapCores (s : State) (f : LCore → LCore) : State :=
  { s with core := f s.core, peers := s.peers.map f }

/-- A context of a logical core changed. -/
def LCore.mapCtx (c : LCore) (n : Nat) (f : Ctx → Ctx) : LCore :=
  if c.ctx.num = n then { c with ctx := f c.ctx }
  else { c with others := c.others.map fun x => if x.num = n then f x else x }

/-- Every context of a logical core changed. -/
def LCore.mapCtxs (c : LCore) (f : Ctx → Ctx) : LCore := { c with ctx := f c.ctx, others := c.others.map f }

def State.mapCtx (s : State) (id : CoreId) (n : Nat) (f : Ctx → Ctx) : State :=
  s.mapCore id fun c => c.mapCtx n f

def LCore.findCtx (c : LCore) (n : Nat) : Option Ctx := c.ctxs.find? fun x => x.num = n

/-- Another context of the core brought into focus. -/
def LCore.focusCtx (c : LCore) (n : Nat) : LCore :=
  if c.ctx.num = n then c
  else match c.others.find? fun x => x.num = n with
    | some x => { c with ctx := x, others := c.ctx :: c.others.filter fun y => y.num ≠ n }
    | none => c

/-- Another logical core brought into focus. -/
def State.focusCore (s : State) (id : CoreId) : State :=
  if s.core.id = id then s
  else match s.peers.find? fun c => c.id = id with
    | some c => { s with core := c, peers := s.core :: s.peers.filter fun d => d.id ≠ id }
    | none => s

/-- A context brought into focus. -/
def State.focus (s : State) (id : CoreId) (n : Nat) : State :=
  let t := s.focusCore id
  { t with core := t.core.focusCtx n }

/-- The die and the cluster (16 × die + cluster) of a slot (R19). -/
def dieOf (slot : Nat) : Nat := slot / 256 % 8
def clusterOf (slot : Nat) : Nat := slot / 16 % 128

def State.die (s : State) (d : Nat) : DieState := s.dies.toList.getD d DieState.reset

def State.mapDie (s : State) (d : Nat) (f : DieState → DieState) : State :=
  if h : d < 8 then { s with dies := s.dies.set d (f s.dies[d]) } else s

def State.queue (s : State) (q : Nat) : Queue := s.disp.queues.toList.getD q Queue.reset

def State.mapQueue (s : State) (q : Nat) (f : Queue → Queue) : State :=
  if h : q < 64 then { s with disp := { s.disp with queues := s.disp.queues.set q (f s.disp.queues[q]) } } else s

/-- The dispatcher's name for a task: its TCB reference, with its queue in the low bits, which are zero in every valid TCB location
(R78). Each queue has an object table of its own, so equal references of two queues name two tasks (R77, R93). -/
def taskKey (q : Nat) (ref : Word) : Word := ref + Word.ofN (q % 64)

/-- The TCB reference in a task's name. -/
def tcbRef (key : Word) : Word := Word.ofN (key.toNat / 128 * 128)

def Task.tcb (t : Task) : Word := tcbRef t.ref

/-- The task of a logical core. -/
def State.findTask (s : State) (ref : Word) : Option Task := s.disp.tasks.find? fun t => t.ref = ref

def State.mapTask (s : State) (ref : Word) (f : Task → Task) : State :=
  { s with disp := { s.disp with tasks := s.disp.tasks.map fun t => if t.ref = ref then f t else t } }

/-- Word at a byte offset of the TCB as the dispatcher read it at first admission (R38). -/
def Task.word (t : Task) (off : Nat) : Word := t.words.getD (off / 8) 0

/-- TCB flags DIG, SNAP, TWIN, NEEDMX, PREEMPTIBLE (R35). -/
def Task.dig (t : Task) : Bool := (t.word 0x10).getLsbD 48
def Task.snap (t : Task) : Bool := (t.word 0x10).getLsbD 49
def Task.twin (t : Task) : Bool := (t.word 0x10).getLsbD 50
def Task.needMx (t : Task) : Bool := (t.word 0x10).getLsbD 51
def Task.preemptible (t : Task) : Bool := (t.word 0x10).getLsbD 52

/-- The members of a logical core's gang, in order of GANGIX (R97): those whose column group is the same. -/
def State.gang (s : State) (c : LCore) : List LCore :=
  let base := c.regs.lcore - c.regs.gangix
  (List.range c.regs.gangsz).filterMap fun i => s.findCore ⟨c.id.task, base + i, c.id.copy⟩

/-! ### General, vector and mask registers -/

/-- The value of g[n]; g0 reads as zero. -/
def Ctx.gval (c : Ctx) (n : Nat) : Word := if n = 0 then 0 else c.g.toList.getD n 0

def Ctx.setG (c : Ctx) (n : Nat) (v : Word) : Ctx :=
  if h : n < 64 then
    if n = 0 then c
    else { c with g := c.g.set n v, dirty := { c.dirty with g := c.dirty.g ||| (1#64 <<< n) } }
  else c

/-- The value of v[n]. -/
def Ctx.vval (c : Ctx) (n : Nat) : VWord := c.v.toList.getD n 0

def Ctx.setV (c : Ctx) (n : Nat) (v : VWord) : Ctx :=
  if h : n < 32 then { c with v := c.v.set n v, dirty := { c.dirty with v := c.dirty.v ||| (1#32 <<< n) } } else c

/-- The value of k[n]; k0 reads as all ones (R196). -/
def Ctx.kval (c : Ctx) (n : Nat) : BitVec 32 := if n = 0 then BitVec.allOnes 32 else c.k.toList.getD n 0

def Ctx.setK (c : Ctx) (n : Nat) (v : BitVec 32) : Ctx :=
  if h : n < 8 then
    if n = 0 then c
    else { c with k := c.k.set n v, dirty := { c.dirty with k := c.dirty.k ||| (1#8 <<< n) } }
  else c

/-- The pending bit of a register set or cleared (R152); g0 is never pending. -/
def Ctx.setPendG (c : Ctx) (n : Nat) (b : Bool) : Ctx :=
  if n = 0 then c
  else { c with pendG := if b then c.pendG ||| (1#64 <<< n) else c.pendG &&& ~~~(1#64 <<< n) }

def Ctx.setPendV (c : Ctx) (n : Nat) (b : Bool) : Ctx :=
  { c with pendV := if b then c.pendV ||| (1#32 <<< n) else c.pendV &&& ~~~(1#32 <<< n) }

/-- The pending engine report whose token register is `n` (R243, R420). -/
def Ctx.reportAt (c : Ctx) (n : Nat) : Option Report :=
  c.reports.find? fun r => match r.kind with
    | .engine t _ => n ≠ 0 && t.toNat = n
    | _ => false

/-- The trap that takes a pending report. -/
def Op.takeReport {α : Type} (r : Report) : Op α := throw (.trap ⟨r.cause, r.eaddr, r.einfo, some r, none, none⟩)

/-- A source read of g[n]: waits for the scoreboard (R152), and takes the stop trap of an engine command whose token
the register holds (R243). -/
def Op.readG (n : BitVec 6) : Op Word := do
  let s ← get
  if s.ctx.pendG.getLsbD n.toNat then Op.stall
  else match s.ctx.reportAt n.toNat with
    | some r => Op.takeReport r
    | none => pure (s.ctx.gval n.toNat)

/-- A register written: waits while a write to it is pending (R152). -/
def Op.writeG (n : BitVec 6) (v : Word) : Op Unit := do
  let s ← get
  if s.ctx.pendG.getLsbD n.toNat then Op.stall
  else set (s.setCtx (s.ctx.setG n.toNat v))

/-- A destination that no earlier write is pending for (R152). -/
def Op.freeG (d : BitVec 6) : Op Unit := do
  let s ← get
  Op.need (!s.ctx.pendG.getLsbD d.toNat)

/-- A destination whose value comes later: it must not be pending already. -/
def Op.claimG (n : BitVec 6) : Op Unit := do
  let s ← get
  if s.ctx.pendG.getLsbD n.toNat then Op.stall else set (s.setCtx (s.ctx.setPendG n.toNat true))

def Op.readV (n : BitVec 5) : Op VWord := do
  let s ← get
  if s.ctx.pendV.getLsbD n.toNat then Op.stall else pure (s.ctx.vval n.toNat)

def Op.writeV (n : BitVec 5) (v : VWord) : Op Unit := do
  let s ← get
  if s.ctx.pendV.getLsbD n.toNat then Op.stall else set (s.setCtx (s.ctx.setV n.toNat v))

def Op.readK (n : BitVec 3) : Op (BitVec 32) := do
  let s ← get
  pure (s.ctx.kval n.toNat)

def Op.writeK (n : BitVec 3) (v : BitVec 32) : Op Unit := modify fun s => s.setCtx (s.ctx.setK n.toNat v)

/-- The context in focus, and a change of it. -/
def Op.ctx : Op Ctx := do return (← get).ctx
def Op.modCtx (f : Ctx → Ctx) : Op Unit := modify fun s => s.setCtx (f s.ctx)
def Op.core : Op LCore := do return (← get).core
def Op.modCore (f : LCore → LCore) : Op Unit := modify fun s => { s with core := f s.core }

/-- LTHREAD (R96). -/
def State.lthread (s : State) : Nat := 16 * s.core.regs.lcore + s.ctx.num

/-- The mode bit S (R188). -/
def Ctx.supervisor (c : Ctx) : Bool := c.sys.svclvl.getLsbD 0

/-- The energy of `n` events of an entry of the coefficient table, in fJ: each whole nJ moves to METR7 (R448). -/
def Ctx.burn (c : Ctx) (table : Vector (BitVec 32) 32) (entry n : Nat) : Ctx :=
  let fj := c.unit.femto + (table.toList.getD entry 0).toNat * n
  { c with unit := ⟨c.unit.counts.set 7 (c.unit.counts[7] + Word.ofN (fj / 10 ^ 6)), fj % 10 ^ 6⟩ }

/-- One event of METR1 counted for the context in focus: a vector instruction (entry 4) or a special-function request
(entry 5) (R447, R448). -/
def Op.countVector (entry : Nat) : Op Unit :=
  modify fun s =>
    let c := s.core.ctx
    let c := { c with unit := { c.unit with counts := c.unit.counts.set 1 (c.unit.counts[1] + 1) } }
    { s with core := { s.core with ctx := c.burn (s.die (dieOf s.core.slot)).energy entry 1 } }

/-- A free value's number: the step count, with a place within the step. -/
def State.freeIndex (s : State) (i : Nat) : Nat := 4096 * s.tick + i

/-- The event bits of a context set, with the details of the latest occurrence (R401). -/
def Ctx.raiseBroken (c : Ctx) (eaddr einfo : Word) : Ctx :=
  { c with sys := { c.sys with events := c.sys.events ||| 1 }, evInfo := { c.evInfo with broken := (eaddr, einfo) } }

def Ctx.raiseMail (c : Ctx) (eaddr einfo : Word) : Ctx :=
  { c with sys := { c.sys with events := c.sys.events ||| 2 }, evInfo := { c.evInfo with mail := (eaddr, einfo) } }

def Ctx.raiseHandback (c : Ctx) (eaddr einfo : Word) : Ctx :=
  { c with sys := { c.sys with events := c.sys.events ||| 4 }, evInfo := { c.evInfo with handback := (eaddr, einfo) } }

end Sys2Proof.Machine
end

