-- ==== Sys2Proof/Machine/Protect.lean ====
section
/-! DEFINITION. Check bits and what a read delivers when stored bits differ from them (R414 to R421), and the
telemetry ring (R424 to R426). The check bits themselves are not held: the state holds the flipped bits. -/

namespace Sys2Proof.Machine

/-- Element width, lowest strong place and lowest parity place of the layouts that use code S (R416). -/
def layoutClasses (layout : Nat) : Option (Nat × Nat × Nat) :=
  match layout with
  | 1 => some (32, 16, 8)
  | 2 => some (16, 4, 2)
  | 3 => some (16, 6, 3)
  | 4 => some (8, 3, 1)
  | 5 => some (8, 2, 1)
  | 6 => some (6, 2, 1)
  | 7 => some (6, 3, 1)
  | 8 => some (4, 1, 0)
  | 10 => some (8, 4, 1)
  | 11 => some (4, 2, 1)
  | _ => none

/-- Element width in bits of a layout (R34). -/
def layoutWidth (layout : Nat) : Nat :=
  match layout with
  | 0 => 8
  | 1 => 32
  | 2 => 16
  | 3 => 16
  | 4 => 8
  | 5 => 8
  | 6 => 6
  | 7 => 6
  | 8 => 4
  | 9 => 8
  | 10 => 8
  | 11 => 4
  | 12 => 32
  | 13 => 32
  | 14 => 64
  | 15 => 1344
  | _ => 128

/-- The unit of a layout in bytes (R34). -/
def layoutUnit (layout : Nat) : Nat :=
  match layout with
  | 0 => 1
  | 1 => 4
  | 2 => 2
  | 3 => 2
  | 4 => 32
  | 5 => 32
  | 6 => 24
  | 7 => 24
  | 8 => 16
  | 9 => 1
  | 10 => 32
  | 11 => 16
  | 12 => 4
  | 13 => 4
  | 14 => 8
  | 15 => 168
  | _ => 16

/-- What the codes of one unit find (R415, R417): the bits delivered, 0 clean, 1 corrected or 2 uncorrectable, and
the failed parity groups. -/
structure Checked where
  data : Nat
  strong : Nat
  parity : Nat
  deriving DecidableEq, Repr

/-- The number of one bits below 2^n. -/
def popcount (n x : Nat) : Nat := popcN n x

/-- One code word of `n` bits with flips `mask` (stored bits include them): errors up to `corr` are corrected, up to
`det` are detected, and beyond that Config.beyondReach tells (log entry 4). -/
def checkCode (code n corr det stored mask : Nat) : Checked :=
  let k := popcount n mask
  if k = 0 then ⟨stored, 0, 0⟩
  else if k ≤ corr then ⟨stored ^^^ mask, 1, 0⟩
  else if k ≤ det then ⟨stored, 2, 0⟩
  else match Config.beyondReach code mask stored with
    | none => ⟨stored, 2, 0⟩
    | some d => ⟨d % 2 ^ n, 0, 0⟩

/-- The bits of a sector at byte offset `off` of its object that lie at element places from `lo` below `hi`. -/
def classMask (w lo hi off : Nat) : Nat :=
  (List.range 256).foldl (init := 0) fun acc i =>
    let p := (8 * off + i) % w
    if lo ≤ p && p < hi then acc + 2 ^ i else acc

/-- The parity groups: bit positions of the parity-class bits, by rank mod 8 (R416). -/
def parityGroup (pmask g : Nat) : Nat :=
  ((List.range 256).foldl (init := (0, 0)) fun (acc : Nat × Nat) i =>
    if pmask.testBit i then (acc.1 + 1, if acc.1 % 8 = g then acc.2 + 2 ^ i else acc.2) else acc).2

/-- The check of a 32-byte sector (R415, R416). -/
def checkSector (layout profile off stored mask : Nat) : Checked :=
  if mask = 0 then ⟨stored, 0, 0⟩
  else match (if profile = 0 then layoutClasses layout else none) with
    | none =>
      let a := checkCode 1 128 1 3 (stored % 2 ^ 128) (mask % 2 ^ 128)
      let b := checkCode 1 128 1 3 (stored / 2 ^ 128) (mask / 2 ^ 128)
      ⟨a.data + b.data * 2 ^ 128, max a.strong b.strong, 0⟩
    | some (w, s, p) =>
      let sm := classMask w s w off
      let pm := classMask w p s off
      let a := checkCode 0 256 2 4 (stored &&& sm) (mask &&& sm)
      let failed := (List.range 8).filter fun g => popcount 256 (mask &&& parityGroup pm g) % 2 = 1
      let zeroed := failed.foldl (init := stored &&& pm) fun acc g =>
        acc &&& (2 ^ 256 - 1 - parityGroup pm g)
      ⟨(a.data &&& sm) + zeroed + (stored &&& (2 ^ 256 - 1 - sm - pm)), a.strong,
        failed.foldl (init := 0) fun acc g => acc + 2 ^ g⟩

/-- Whether every bit of the sector is strong (code W), so that an uncorrectable error is structural (R419). -/
def sectorStructural (layout profile : Nat) : Bool :=
  profile ≠ 0 || (layoutClasses layout).isNone

/-- The check of a 64-bit word of local memory or core state (R417). -/
def checkWord (stored mask : Nat) : Checked := checkCode 2 64 1 2 stored mask

/-- Severity of an uncorrectable result: 1 bounded, 2 element, 3 structural; 0 when nothing is wrong or all was
corrected (R419). -/
def Checked.severity (c : Checked) (structural : Bool) : Nat :=
  if c.strong = 2 then (if structural then 3 else 2) else if c.parity ≠ 0 then 1 else 0

/-- The elements of width `w` that have a bit in bytes [o, o + n) of the object, `o` counted in the object, and the
bits of those elements within that range: the zero mask of EL = 0 is the whole range (R420). -/
def elementsIn (w o n : Nat) : Nat := if n = 0 then 0 else (8 * (o + n) - 1) / w - 8 * o / w + 1

/-- Those of them that have a bit in a byte that the access delivers: byte `i` of the range is left out where `quiet i` (R420). -/
def elementsOn (w o n : Nat) (quiet : Nat → Bool) : Nat :=
  (List.range (elementsIn w o n)).countP fun k =>
    let e := 8 * o / w + k
    (List.range n).any fun i => !quiet i && e * w < 8 * (o + i + 1) && 8 * (o + i) < (e + 1) * w

/-! ### Telemetry (R424 to R426) -/

/-- A 32-byte record written to a die's telemetry ring, or refused and counted (R424). -/
def State.telemetry (s : State) (d : Nat) (w0 w1 w2 : Word) : State :=
  let t := (s.die d).telemetry
  if t.entries = 0 then s
  else if t.producer - t.consumer = t.entries then
    s.mapDie d fun x => { x with telemetry := { t with
      dropped := if t.dropped = BitVec.allOnes 32 then t.dropped else t.dropped + 1 } }
  else
    let a := t.base.toNat + 32 * (t.producer.toNat % t.entries.toNat)
    let p := (((s.unc.priv.setWord a w0).setWord (a + 8) w1).setWord (a + 16) w2).setWord (a + 24) s.timeUs
    let s := { s with unc := { s.unc with priv := p } }
    s.mapDie d fun x => { x with telemetry := { t with producer := t.producer + 1 } }

/-- The number of a tier in an error record (R426). -/
def tierCode : Tier → Nat
  | .lm => 0
  | .l1 => 1
  | .cc => 2
  | .msc => 3
  | .hbm => 4

/-- An error record (R426). -/
def State.logError (s : State) (d severity tier action slot tensor : Nat) (ref : Word)
    (parity layout strong subst queue : Nat) : State :=
  s.telemetry d
    (Word.ofN (2 * 2 ^ 56 + severity * 2 ^ 53 + tier * 2 ^ 50 + action * 2 ^ 48 + slot * 2 ^ 32 + tensor))
    ref
    (Word.ofN (parity * 2 ^ 56 + layout * 2 ^ 50 + strong * 2 ^ 48 + subst % 2 ^ 32 * 2 ^ 16 + queue))

/-- A corrected error counted in the die's counter of its tier (R418). -/
def State.countCorrected (s : State) (d tier : Nat) : State :=
  s.mapDie d fun x => { x with corrected := Vector.ofFn fun (i : Fin 8) =>
    if i.val = tier then x.corrected[i] + 1 else x.corrected[i] }

end Sys2Proof.Machine
end

