-- ==== Sys2Proof/Machine/Directory.lean ====
section
/-! DEFINITION. Banks, cluster-cache lines and the Conjunction directory (R250, R259, R332 to R345). A line is named
by its tag, package << 33 | stack << 29 | frame << 9 | line; its bytes stand in the bank memory from 128 × tag. -/

namespace Sys2Proof.Machine

/-- The bytes selected by a byte mask, as a bit mask. -/
def byteBits (mask : BitVec 128) : BitVec 1024 :=
  BitVec.ofNat 1024 (packElems 8 ((List.range 128).map fun i => if mask.getLsbD i then 255 else 0))

/-- The byte mask of `n` bytes from `o`. -/
def byteMask (o n : Nat) : BitVec 128 := BitVec.ofNat 128 ((2 ^ n - 1) * 2 ^ o)

/-- `n` bytes at `o` of a line, and those bytes replaced. -/
def lineGet (d : BitVec 1024) (o n : Nat) : Nat := d.toNat / 2 ^ (8 * o) % 2 ^ (8 * n)

def lineSet (d : BitVec 1024) (o n v : Nat) : BitVec 1024 :=
  let m := byteBits (byteMask o n)
  (d &&& ~~~m) ||| BitVec.ofNat 1024 (v % 2 ^ (8 * n) * 2 ^ (8 * o))

/-- The home package of a tag, and its stack. -/
def tagHome (tag : Nat) : Nat := tag / 2 ^ 33
def tagStack (tag : Nat) : Nat := tag / 2 ^ 29 % 16

/-- The bytes of a line in its bank. -/
def State.bankLine (s : State) (tag : Nat) : BitVec 1024 := BitVec.ofNat 1024 (s.unc.hbm.value (128 * tag) 128)

/-- The bank of a line among the 64 of its memory-side cache: (l + frame) mod 64 (R14, R259). -/
def bankOf (tag : Nat) : Nat := (tag % 2 ^ 9 + tag / 2 ^ 9 % 2 ^ 20) % 64

/-- The tier that serves a line at its bank: the memory-side cache where that holds it (R250). -/
def State.bankTier (s : State) (tag : Nat) : Tier := if s.unc.mscHeld.contains tag then .msc else .hbm

/-- The flipped bits of a line in the copy of the tier that serves it (R186). -/
def State.servedFlips (s : State) (tag : Nat) : List Flip :=
  s.unc.bankFlips.filter fun f => f.unit / 16 = tag && f.tier = s.bankTier tag

/-- A line leaves its memory-side cache: a dirty one takes its flipped bits to the HBM, in place of those of the copy there
(R186, R414). -/
def State.mscEvict (s : State) (tag : Nat) : State :=
  let dirty := s.unc.mscDirty.contains tag
  let mine (f : Flip) : Bool := f.unit / 16 = tag && f.tier = .msc
  let stale (f : Flip) : Bool := f.unit / 16 = tag && f.tier ≠ .msc
  let flips := if dirty then (s.unc.bankFlips.filter fun f => !stale f).map fun f => if mine f then { f with tier := .hbm } else f
    else s.unc.bankFlips.filter fun f => !mine f
  { s with unc := { s.unc with
      bankFlips := flips
      mscHeld := s.unc.mscHeld.filter fun t => t ≠ tag
      mscDirty := s.unc.mscDirty.filter fun t => t ≠ tag } }

/-- A line brought into its bank of the stack's memory-side cache, with its check bits as the HBM has them; where that bank is
full, another of its lines leaves (R14, R249), but none whose bits there differ from its check bits (R475). -/
def State.mscHold (s : State) (tag : Nat) : State :=
  if s.unc.mscHeld.contains tag then s
  else
    let here := s.unc.mscHeld.filter fun t => t / 2 ^ 29 = tag / 2 ^ 29 && bankOf t = bankOf tag
    let may := here.filter fun t => !s.unc.bankFlips.any fun f => f.unit / 16 = t && f.tier = .msc
    let s := if here.length < Config.bankLines then s
      else match may[Config.replaced s.tick tag % max 1 may.length]? with
        | some t => s.mscEvict t
        | none => s
    { s with unc := { s.unc with
        bankFlips := s.unc.bankFlips ++ (s.servedFlips tag).map fun f => { f with tier := .msc }
        mscHeld := tag :: s.unc.mscHeld } }

/-- Bytes written at a bank: the anchor tag of the line clears (R284), the mixed-size tags of the units touched clear
(R330), and a sector written whole takes fresh check bits (R414). -/
def State.bankWrite (s : State) (tag : Nat) (mask : BitVec 128) (data : BitVec 1024) : State :=
  let cells := (List.range 128).filter fun i => mask.getLsbD i
  let mem := cells.foldl (init := s.unc.hbm) fun m i => m.set (128 * tag + i) (BitVec.ofNat 8 (lineGet data i 1))
  let whole (u : Nat) : Bool := byteMask (u / 4 * 32) 32 &&& ~~~mask = 0
  let units := cells.map fun i => 16 * tag + i / 8
  let s := s.mscHold tag
  { s with unc := { s.unc with
      hbm := mem
      anchors := s.unc.anchors.erase tag
      mixed := s.unc.mixed.filter fun e => !units.contains e.1
      bankFlips := s.unc.bankFlips.filter fun f => !(f.unit / 16 = tag && f.tier = .msc && whole (f.unit % 16))
      mscDirty := if s.unc.mscDirty.contains tag then s.unc.mscDirty else tag :: s.unc.mscDirty } }

/-- A cluster's line. -/
def State.findLine (s : State) (cl tag : Nat) : Option CacheLine :=
  s.unc.lines.find? fun l => l.cluster = cl && l.tag = tag

/-- The flipped bits of the cluster's own copy of a line: of the cluster cache. -/
def CacheLine.copyFlips (l : CacheLine) : List Flip := l.flips.filter fun f => f.tier = .cc

/-- A line that the L1 of a slot fills from its cluster cache, with its check bits as they are there (R186, R414). -/
def CacheLine.inL1 (l : CacheLine) (slot : Nat) : CacheLine :=
  if l.l1s.contains slot then l
  else { l with l1s := slot :: l.l1s, flips := l.flips ++ l.copyFlips.map fun f => { f with tier := .l1, slot := slot } }

def State.dropLine (s : State) (cl tag : Nat) : State :=
  { s with unc := { s.unc with lines := s.unc.lines.filter fun l => !(l.cluster = cl && l.tag = tag) } }

def State.putLine (s : State) (l : CacheLine) : State :=
  let t := s.dropLine l.cluster l.tag
  { t with unc := { t.unc with lines := l :: t.unc.lines } }

/-- A SPIN whose watched line or block changes is over (R139); the context resumes with SPIN_WAIT_END. -/
def Ctx.wake (x : Ctx) (w : Watch) : Ctx :=
  match x.wait with
  | some (.spin ref on _ since) => if on = w then { x with wait := some (.spin ref on true since) } else x
  | _ => x

/-- A line leaves the L1s of a cluster: the SPINs there that watch it are over (R139, R340). -/
def State.wakeLine (s : State) (cl tag : Nat) : State :=
  s.mapCores fun c => if clusterOf c.slot = cl then c.mapCtxs fun x => x.wake (.line tag) else c

/-- A line leaves a cluster, its cluster cache and its L1s. -/
def State.evictLine (s : State) (cl tag : Nat) : State := (s.wakeLine cl tag).dropLine cl tag

/-- The flips of a line in its bank, as flips of a cluster-cache copy: check bits move unchanged (R414). -/
def State.flipsFromBank (s : State) (tag : Nat) : List Flip :=
  (s.servedFlips tag).map fun f => ⟨.cc, 0, f.unit % 16, f.mask⟩

/-- The dirty bytes of a cluster's line written back to the bank, their flipped bits with them (R414). -/
def State.writeBack (s : State) (l : CacheLine) : State :=
  if l.dirty = 0 then s
  else
    let t := s.bankWrite l.tag l.dirty l.data
    let moved (u : Nat) : Word := BitVec.ofNat 64 ((byteBits l.dirty).toNat / 2 ^ (64 * u))
    let kept (f : Flip) : Flip :=
      if f.unit / 16 = l.tag && f.tier = .msc then { f with mask := f.mask &&& ~~~(moved (f.unit % 16)) } else f
    let came (f : Flip) : Flip := ⟨.msc, 0, 16 * l.tag + f.unit, f.mask &&& moved f.unit⟩
    let flips := t.unc.bankFlips.map kept ++ l.copyFlips.map came
    { t with unc := { t.unc with bankFlips := flips.filter fun f => f.mask ≠ 0 } }

/-! ### Directory entries -/

def DirEntry.empty (tag : Nat) : DirEntry :=
  ⟨.invalid, false, false, false, false, false, false, 0, BitVec.ofNat 13 (tagHome tag), tag, 0, [], 0, .invalid⟩

/-- Whether a line is homed on another package, so that its entry here is a proxy (R333, R338). -/
def State.isProxy (s : State) (tag : Nat) : Bool := tagHome tag ≠ s.pkg.address.toNat

/-- The primary Conjunction die of a line: die (frame + line) mod 2, or the one that is left (R334, R344). -/
def State.primary (s : State) (tag : Nat) : Option Nat :=
  let p := (tag / 2 ^ 9 % 2 ^ 20 + tag % 2 ^ 9) % 2
  let lost (i : Nat) : Bool := (s.cdies.toList.getD i ⟨true, true, false, 0, [], 0, 0⟩).lost
  if !lost p then some p else if !lost (1 - p) then some (1 - p) else none

/-- Whether the package has no Conjunction die left (R345): no directory, dispatcher, retirement hardware or management
endpoint answers. -/
def State.headless (s : State) : Bool := s.cdies.toList.all fun c => c.lost

/-- The line that stands for the header of queue `q` (R76): the manual gives its address no place; the model takes line `q` of
the last frame of the package's stack 0 (log entry 18). -/
def State.headerTag (s : State) (q : Nat) : Nat := s.pkg.address.toNat * 2 ^ 33 + (2 ^ 20 - 1) * 2 ^ 9 + q % 64

def State.dirEntry (s : State) (tag : Nat) : DirEntry :=
  (s.unc.directory.find? fun e => e.tag = tag).getD (DirEntry.empty tag)

/-- Whether an entry records nothing: a line without an entry is in state I (R333). -/
def DirEntry.idle (e : DirEntry) : Bool :=
  e.state = .invalid && !e.pinned && !e.dispatcher && e.packages = [] && !e.coarse && e.granted = .invalid

def State.putEntry (s : State) (e : DirEntry) : State :=
  let rest := s.unc.directory.filter fun x => x.tag ≠ e.tag
  { s with unc := { s.unc with directory := if e.idle then rest else e :: rest } }

/-- The set of a line (R333). -/
def dirSet (tag : Nat) : Nat := (tag / 2 ^ 9 % 2 ^ 20 * 512 + tag % 512) % Config.dirSets

/-- The clusters a sharer vector names, in ascending order. -/
def sharerList (v : BitVec 128) : List Nat := (List.range 128).filter fun i => v.getLsbD i

def sharerBit (c : Nat) : BitVec 128 := 1#128 <<< c

/-- A saturating count of overflow recalls on both dies (R348). -/
def State.countRecall (s : State) : State :=
  { s with cdies := s.cdies.map fun c =>
      { c with recalls := if c.recalls = BitVec.allOnes 32 then c.recalls else c.recalls + 1 } }

/-- Reachability of a package: 0 reachable, 1 UNREACHABLE, 3 DOWN. A package that has been reset is reachable; what was bound
to it before is not (R347). One of which the table has heard nothing is UP while any port is (R346). -/
def State.reach (s : State) (p : Nat) : Nat :=
  if p = s.pkg.address.toNat then 0
  else match s.pkg.remotes.find? fun r => r.package.toNat = p with
    | none => if s.pkg.ports.any fun x => x.up then 0 else 1
    | some r => match r.state with
      | .up | .reset => 0
      | .unreachable => 1
      | .down => 3

/-- Whether a request asks nothing of a package that is UNREACHABLE: forwards and invalidations to it wait (R347). -/
def State.dirReaches (s : State) (e : DirEntry) (own : Bool) : Bool :=
  !((e.remote || own) && e.packages.any fun p => s.reach p.toNat = 1)

/-- A message to another package, with this package's epoch (R346). -/
def State.tell (s : State) (p : BitVec 13) (line : Nat) (m : ProxyMsg) : State :=
  { s with unc := { s.unc with fabricOut := s.unc.fabricOut ++ [⟨p, line, m, s.pkg.epoch⟩] } }

/-- The bytes of a line that another package owns: those of a copy shared here, which are the owner's (R335); with no such copy
they are not known here (log entry 8). -/
def State.remoteData (s : State) (e : DirEntry) : BitVec 1024 :=
  match (sharerList e.sharers).findSome? fun c => s.findLine c e.tag with
  | some l => l.data
  | none => Config.remoteLine s.tick e.tag

/-- The packages that a request's invalidations or forwards go to (R338): the owner, or to own every package on the list, and
every one that the fabric reaches while the list is coarse. -/
def State.asked (s : State) (e : DirEntry) (own : Bool) : List (BitVec 13) :=
  if own then (if e.coarse then (s.pkg.remotes.filter fun r => r.state = .up || r.state = .reset).map (·.package)
    else e.packages)
  else if e.remote then e.packages.take 1 else []

def State.tellAll (s : State) (ps : List (BitVec 13)) (line : Nat) (m : ProxyMsg) : State :=
  ps.foldl (fun s p => s.tell p line m) s

/-- A recall (R339): every sharer invalidates, the owner writes a dirty line back, a proxy entry returns the package's rights to
the home, the entry is freed. -/
def State.recallEntry (s : State) (e : DirEntry) : State :=
  let s := if e.remote then s.bankWrite e.tag (BitVec.allOnes 128) (s.remoteData e) else s
  let dirty : Bool := (sharerList e.sharers).any fun c => (s.findLine c e.tag).any fun l => l.dirty ≠ 0
  let t := (sharerList e.sharers).foldl (init := s) fun s c =>
    match s.findLine c e.tag with
    | some l => (s.writeBack l).evictLine c e.tag
    | none => s
  let t := if s.isProxy e.tag then t.tell e.home e.tag (.giveBack dirty)
    else t.tellAll (s.asked e true) e.tag (.forward true)
  { t with unc := { t.unc with directory := t.unc.directory.filter fun x => x.tag ≠ e.tag } }

/-- Room for an entry of `tag` (R339): `none` when every way is pinned, BUSY or LOST. Which of the others is recalled is not
architected, and a free value says it. -/
def State.dirRoom (s : State) (tag : Nat) : Option State :=
  if s.unc.directory.any fun e => e.tag = tag then some s
  else
    let ways := s.unc.directory.filter fun e => dirSet e.tag = dirSet tag
    if ways.length < Config.dirWays then some s
    else
      let open_ := ways.filter fun e => !e.pinned && e.state ≠ .busy && e.state ≠ .lost && s.dirReaches e true
      match open_[Config.replaced s.tick tag % max 1 open_.length]? with
      | some e => some (s.recallEntry e).countRecall
      | none => none

/-- Whether the owner field of an entry names a holder to be asked for data (R335): not while the bank or the dispatcher has the
line in M, of which no other copy stands. -/
def DirEntry.hasOwner (e : DirEntry) : Bool :=
  (e.state = .exclusive || e.state = .owned || e.state = .modified) && !e.bank && !(e.state = .modified && e.dispatcher)

/-- A request starts (R335, R336): the entry becomes BUSY, and the packages it concerns are asked (R338). -/
def State.dirStart (s : State) (q : Requester) (own : Bool) (tag : Nat) : State :=
  let e := s.dirEntry tag
  let me : Option Nat := match q with
    | .cluster c => some c
    | _ => none
  let forward := if e.hasOwner && !e.remote && me ≠ some e.owner then some e.owner else none
  let inv := if own then (sharerList e.sharers).filter fun c => me ≠ some c && forward ≠ some c else []
  let tx : DirTx := ⟨tag, q, own, e, forward, inv,
    if e.hasOwner && e.remote then some (s.remoteData e) else none, [], false,
    if e.hasOwner && e.remote then BitVec.allOnes 128 else 0⟩
  let s := (s.putEntry { e with state := .busy }).tellAll
    ((s.asked e own).filter fun p => q ≠ .package p) tag (.forward own)
  { s with unc := { s.unc with dirTxs := tx :: s.unc.dirTxs } }

def State.findTx (s : State) (tag : Nat) : Option DirTx := s.unc.dirTxs.find? fun t => t.tag = tag

def State.putTx (s : State) (tx : DirTx) : State :=
  { s with unc := { s.unc with dirTxs := tx :: s.unc.dirTxs.filter fun t => t.tag ≠ tx.tag } }

/-- The owner supplies the line, and keeps S, O or nothing (R335): O where it has written it. -/
def State.dirForward (s : State) (tx : DirTx) : State :=
  match tx.forward with
  | none => s
  | some c =>
    match s.findLine c tx.tag with
    | none => s.putTx { tx with forward := none, data := some (s.bankLine tx.tag) }
    | some l =>
      let s := if tx.own then s.evictLine c tx.tag
        else s.putLine { l with state := if tx.before.state = .exclusive then .shared else .owned }
      s.putTx { tx with forward := none, data := some l.data, flips := l.copyFlips, dirty := l.dirty }

/-- One sharer invalidates its copy (R335). -/
def State.dirInvalidateOne (s : State) (tx : DirTx) (c : Nat) : State :=
  (s.evictLine c tx.tag).putTx { tx with invalidate := tx.invalidate.filter fun x => x ≠ c }

/-- The entry that a finished transaction leaves (R335, R338). -/
def dirAfter (before : DirEntry) (q : Requester) (own : Bool) : DirEntry :=
  let e := { before with bank := false }
  match q with
  | .cluster c =>
    if own then { e with state := .modified, owner := c, remote := false, sharers := sharerBit c,
                         dispatcher := false, packages := [], coarse := false }
    else match e.state with
      | .invalid => if e.dispatcher || e.packages ≠ [] || e.coarse || e.granted = .shared || e.granted = .owned then
            { e with state := .shared, sharers := e.sharers ||| sharerBit c }
          else { e with state := .exclusive, owner := c, sharers := sharerBit c }
      | .exclusive => { e with state := .shared, remote := false, sharers := e.sharers ||| sharerBit c }
      | .modified => { e with state := .owned, sharers := e.sharers ||| sharerBit c }
      | _ => { e with sharers := e.sharers ||| sharerBit c }
  | .dispatcher =>
    if own then { e with state := .modified, sharers := 0, dispatcher := true, packages := [], remote := false, coarse := false }
    else match e.state with
      | .invalid => { e with state := .shared, dispatcher := true }
      | .exclusive => { e with state := .shared, remote := false, dispatcher := true }
      | .modified => { e with state := .owned, dispatcher := true }
      | _ => { e with dispatcher := true }
  | .bank => { e with state := .modified, bank := true, sharers := 0, dispatcher := false, packages := [],
                      remote := false, coarse := false }
  | .package p =>
    let list := if e.packages.contains p then e.packages else e.packages ++ [p]
    if own then { e with state := .modified, remote := true, sharers := 0, dispatcher := false, packages := [p],
                         coarse := false }
    else match e.state with
      | .invalid => if e.dispatcher || e.packages ≠ [] || e.coarse then
            { e with state := .shared, packages := list.take 4, coarse := e.coarse || 4 < list.length }
          else { e with state := .exclusive, remote := true, packages := [p] }
      | .exclusive => { e with state := .shared, remote := false, packages := list.take 4, coarse := e.coarse || 4 < list.length }
      | .modified => { e with state := .owned, packages := list.take 4, coarse := e.coarse || 4 < list.length }
      | _ => { e with packages := list.take 4, coarse := e.coarse || 4 < list.length }

/-- Whether requests for a line must wait: a takeover is under way, or the line has no primary left (R344, R345). -/
def State.dirHeld (s : State) (tag : Nat) : Bool := s.pkg.takeover || (s.primary tag).isNone

/-- A cluster gives a line up (PUT, R335), with its data when it is dirty. -/
def State.dirPutLine (s : State) (c tag : Nat) : State :=
  match s.findLine c tag with
  | none => s
  | some l =>
    let e := s.dirEntry tag
    let left := e.sharers &&& ~~~sharerBit c
    let owner := e.hasOwner && !e.remote && e.owner = c
    let s := if owner then s.writeBack l else s
    let s := s.evictLine c tag
    let others : Bool := left ≠ 0 || e.dispatcher || e.packages ≠ [] || e.coarse
    let e := if owner then
        match e.state with
        | .owned => { e with state := if others then .shared else .invalid, sharers := left }
        | _ => { e with state := .invalid, sharers := 0 }
      else { e with state := if e.state = .shared && !others then .invalid else e.state, sharers := left }
    -- a proxy entry left without holders returns the package's rights to the home
    if s.isProxy tag && e.state = .invalid then
      (s.putEntry (DirEntry.empty tag)).tell e.home tag (.giveBack (owner && l.dirty ≠ 0))
    else s.putEntry e

/-- A line leaves a cluster's caches: written back where it is dirty, a coherent one with a PUT (R321, R335). -/
def State.giveLine (s : State) (l : CacheLine) : State :=
  if l.state = .scoped then (s.writeBack l).evictLine l.cluster l.tag else s.dirPutLine l.cluster l.tag

/-- Room for a line in a cluster cache that does not hold it: where that is full, a line that the directory does not work on
leaves (R249), but none whose bits there differ from its check bits (R475). -/
def State.clusterRoom (s : State) (cl tag : Nat) : State :=
  let here := s.unc.lines.filter fun l => l.cluster = cl
  if here.length < Config.ccLines || (s.findLine cl tag).isSome then s
  else
    let free := here.filter fun l => !(l.flips.any fun f => f.tier = .cc) &&
      (l.state = .scoped || ((s.dirEntry l.tag).state ≠ .busy && !s.dirHeld l.tag))
    match free[Config.replaced s.tick tag % free.length]? with
    | some l => s.giveLine l
    | none => s

/-- The states of TCBs in a line that another package takes to write: word 0x20 is what it leaves (R83, R338). -/
def State.forgetTcbs (s : State) (tag : Nat) : State :=
  { s with disp := { s.disp with tcbs := s.disp.tcbs.filter fun r => r.place / 128 ≠ tag } }

/-- The requester receives its line (R334, R335). Both mirrors hold the new entry before the grant; it stays BUSY until the
transaction ends. A package that asked is answered with this package's epoch (R346). -/
def State.dirGrantLine (s : State) (tx : DirTx) : State :=
  let data := tx.data.getD (s.bankLine tx.tag)
  let after := dirAfter tx.before tx.requester tx.own
  let s := s.putEntry { after with state := .busy }
  let s := match tx.requester with
    | .cluster c =>
      let had := s.findLine c tx.tag
      let st : LineState := if tx.own then .modified
        else match (dirAfter tx.before tx.requester tx.own).state with
          | .exclusive => .exclusive
          | _ => .shared
      match had with
      | some l => s.putLine { l with
          state := if tx.own then .modified else l.state
          dirty := if tx.own then l.dirty ||| tx.dirty else l.dirty }
      | none =>
        let s := s.clusterRoom c tx.tag
        s.putLine ⟨c, tx.tag, st, data, BitVec.allOnes 128, if tx.own then tx.dirty else 0,
          [], if tx.data.isSome then tx.flips else s.flipsFromBank tx.tag⟩
    -- the owner's dirty bytes reach the bank, with their check bits; a clean line's are there already
    | .bank => s.writeBack ⟨0, tx.tag, .modified, data, BitVec.allOnes 128, tx.dirty, [], tx.flips⟩
    | .package p =>
      -- its hardware may step a TCB of the line from now on (R83)
      let s := if tx.own then s.forgetTcbs tx.tag else s
      s.tell p tx.tag (.grant tx.own (decide (after.state = DirState.exclusive)))
    | .dispatcher => s
  s.putTx { tx with granted := true, data := some data }

/-- The transaction ends: the entry leaves BUSY (R336). -/
def State.dirFinish (s : State) (tx : DirTx) : State :=
  let s := { s with unc := { s.unc with dirTxs := s.unc.dirTxs.filter fun t => t.tag ≠ tx.tag } }
  let e := dirAfter tx.before tx.requester tx.own
  -- a line granted in E that its owner has written since is M
  let written : Bool := !e.remote && (s.findLine e.owner tx.tag).any fun l => l.state = .modified
  s.putEntry (if e.state = .exclusive && written then { e with state := .modified } else e)

/-- The BUSY line's transaction, from where it stands to its end. -/
def State.dirComplete (s : State) (tag : Nat) : State :=
  let s := match s.findTx tag with
    | some tx => s.dirForward tx
    | none => s
  let s := match s.findTx tag with
    | some tx => tx.invalidate.foldl (init := s) fun (s : State) c => match s.findTx tag with
        | some tx => s.dirInvalidateOne tx c
        | none => s
    | none => s
  let s := match s.findTx tag with
    | some tx => if tx.granted then s else s.dirGrantLine tx
    | none => s
  match s.findTx tag with
  | some tx => s.dirFinish tx
  | none => s

/-- A cluster gives a line up, after a transaction of it that is under way (R336). -/
def State.giveUp (s : State) (c tag : Nat) : State :=
  (if (s.dirEntry tag).state = .busy then s.dirComplete tag else s).dirPutLine c tag

/-- The bank gives the line up after its one operation (R335). -/
def State.bankRelease (s : State) (tag : Nat) : State :=
  let e := s.dirEntry tag
  if e.bank then s.putEntry { e with state := .invalid, bank := false } else s

/-- Whether a proxy entry lacks the rights that a request inside the package needs (R338). -/
def DirEntry.lacks (e : DirEntry) (own : Bool) : Bool :=
  match e.granted with
  | .modified | .exclusive => false
  | .shared | .owned => own
  | _ => true

/-- One request for the whole package sent to the home primary of a line (R338). -/
def State.askHome (s : State) (q : Requester) (own : Bool) (tag : Nat) : State :=
  if s.unc.proxyWants.any fun w => w.tag = tag && (w.own || !own) then s
  else { s with unc := { s.unc with proxyWants := s.unc.proxyWants ++ [(⟨tag, q, own⟩ : DirWaiting)] } }.tell
    (BitVec.ofNat 13 (tagHome tag)) tag (.request own)

/-- Whether the requester already holds what it asks for. -/
def State.dirHas (s : State) (q : Requester) (own : Bool) (tag : Nat) : Bool :=
  match q with
  | .cluster c => match s.findLine c tag with
    | some l => l.state = .modified || l.state = .exclusive || (!own && (l.state = .shared || l.state = .owned))
    | none => false
  | .dispatcher => !own && (s.dirEntry tag).dispatcher
  | _ => false

/-- A request that meets a BUSY line waits at the primary in its order of arrival (R336), where it is kept once: its line comes
with the transaction that it gets. -/
def Op.dirWait {α : Type} (q : Requester) (own : Bool) (tag : Nat) : Op α := do
  let s ← get
  let w : DirWaiting := ⟨tag, q, own⟩
  Op.need (!s.unc.dirWaiting.contains w)
  set { s with unc := { s.unc with dirWaiting := s.unc.dirWaiting ++ [w] } }
  Op.block

/-- A store to a line that a cluster holds in E: the line is M from then on, and so is its entry; a transaction that is under
way finds its owner in M (R335). -/
def State.upgradeLine (s : State) (c tag : Nat) : State :=
  let s := match s.findLine c tag with
    | some l => s.putLine { l with state := .modified }
    | none => s
  let e := s.dirEntry tag
  let s := if e.state = .exclusive then s.putEntry { e with state := .modified } else s
  match s.findTx tag with
  | some tx => if tx.before.state = .exclusive && tx.forward = some c then
      s.putTx { tx with before := { tx.before with state := .modified } } else s
  | none => s

/-- A whole request, from start to completion (R335): the LOST reason where it is refused. For a line homed elsewhere the home
is asked first where the proxy entry lacks the rights (R338). -/
def Op.dirRequest (q : Requester) (own : Bool) (tag : Nat) : Op (Option Nat) := do
  let s ← get
  let e := s.dirEntry tag
  if s.dirHas q own tag then
    match q with
    | .cluster c =>
      if own then set (s.upgradeLine c tag)
      return none
    | _ => return none
  else if e.state = .busy && s.unc.dirTxs.any (fun tx => tx.tag = tag && tx.requester = q && tx.own = own) then
    -- its turn has come (R336)
    Op.need (!s.dirHeld tag)
    set (s.dirComplete tag)
    return none
  else
    Op.need (!s.dirHeld tag)
    if e.state = .lost then return some e.reason
    if e.state = .busy then Op.dirWait q own tag
    Op.need (s.dirReaches e own)
    if s.isProxy tag && e.lacks own then
      Op.need (!s.unc.proxyWants.any fun w => w.tag = tag && (w.own || !own))
      set (s.askHome q own tag)
      Op.block
    match s.dirRoom tag with
    | none => Op.stall
    | some s =>
      set ((s.dirStart q own tag).dirComplete tag)
      return none

/-- A line leaves the L1 of a core: a SPIN there that watches it is over, and flipped bits of a dirty copy go to the cluster cache
(R139, R250, R414). -/
def State.leaveL1 (s : State) (slot : Nat) (l : CacheLine) : State :=
  let s := s.mapCores fun c => if c.slot = slot then c.mapCtxs fun x => x.wake (.line l.tag) else c
  let mine (f : Flip) : Bool := f.tier = .l1 && f.slot = slot
  s.putLine { l with
    l1s := l.l1s.erase slot
    flips := if l.dirty = 0 then l.flips.filter fun f => !mine f
      else (l.flips.filter fun f => f.tier ≠ .cc || !l.flips.any fun g => mine g && g.unit = f.unit).map
        fun f => if mine f then { f with tier := .cc, slot := 0 } else f }

/-- A core that is to write a line holds it alone within its cluster: it leaves the L1s of the others, and their SPINs are over
(R139, R250, R280). -/
def State.soleL1 (s : State) (cl slot tag : Nat) : State :=
  let others := ((s.findLine cl tag).map fun l => l.l1s.filter fun x => x ≠ slot).getD []
  others.foldl (init := s) fun s x => match s.findLine cl tag with
    | some l => s.leaveL1 x l
    | none => s

/-- Room for a line in the cluster cache and the L1 of a core; which line leaves a full cache is not architected (R249),
but none leaves a cache in which its bits differ from its check bits (R475). -/
def State.cacheRoom (s : State) (cl slot tag : Nat) : State :=
  let s := s.clusterRoom cl tag
  let mine := s.unc.lines.filter fun l => l.cluster = cl && l.l1s.contains slot
  if mine.length < Config.l1Lines || mine.any fun l => l.tag = tag then s
  else
    let free := mine.filter fun l => !l.flips.any fun f => f.tier = .l1 && f.slot = slot
    match free[Config.replaced s.tick tag % free.length]? with
    | some l => s.leaveL1 slot l
    | none => s

/-- The outcome of a fenced die's clusters at one entry (R341): an empty PUT from each. -/
def DirEntry.fence (e : DirEntry) (die : Nat) : DirEntry :=
  let gone : BitVec 128 := (BitVec.ofNat 128 (2 ^ 16 - 1)) <<< (16 * die)
  let left := e.sharers &&& ~~~gone
  let ownerGone := e.hasOwner && !e.remote && e.owner / 16 = die
  if ownerGone then
    match e.state with
    | .exclusive => { e with state := if left = 0 && !e.dispatcher && e.packages = [] then .invalid else .shared, sharers := left }
    | .owned => match (sharerList left).head? with
      | some c => { e with owner := c, sharers := left }
      | none => { e with state := .lost, reason := 1, sharers := 0 }
    | _ => { e with state := .lost, reason := 1, sharers := 0 }
  else if e.state = .shared then
    { e with state := if left = 0 && !e.dispatcher && e.packages = [] then .invalid else .shared, sharers := left }
  else { e with sharers := left }

/-- The LOST counts of both dies, as DSTAT.lost shows them (R348). -/
def State.countLost (s : State) : State :=
  let n := (s.unc.directory.filter fun e => e.state = .lost).length
  { s with cdies := s.cdies.map fun c => { c with lostEntries := BitVec.ofNat 16 n } }

end Sys2Proof.Machine
end

