-- ==== Sys2Proof/Machine/Access.lean ====
section
/-! DEFINITION. The path of a reference to bytes: the checks of R26, R27 and R253, the object cache (R252), the walk
(R255 to R266), and loads and stores at local memory, cluster cache, bank and host (R249, R250, R273, R321). -/

namespace Sys2Proof.Machine

/-- Who makes an access: the logical core and context it is charged to, the core's slot, queue and mode, the severity
policy's EL (R422), the scope, whether an engine makes it, whether its writes count for the digest (R442), the
descriptors it has checked already (R185), and whether every uncorrectable error is structural for it (R374). -/
structure Agent where
  core : CoreId
  ctx : Nat
  slot : Nat
  queue : Nat
  sup : Bool
  el : Bool
  scope : Nat
  engine : Bool
  counted : Bool
  under : List OcEntry
  strict : Bool
  hostBad : Bool
  quiet : Nat
  deriving DecidableEq, Repr

/-- An access as EINFO format 1 names it (R397): reference, bytes, size code, kind, lane. -/
structure Acc where
  ref : Word
  n : Nat
  size : Nat
  kind : Nat
  lane : Nat
  deriving DecidableEq, Repr

/-- EINFO format 1 (R397). -/
def Acc.info (a : Acc) (reason : Nat) : Word :=
  Word.ofN (2 ^ 62 + a.lane * 2 ^ 40 + a.size * 2 ^ 12 + a.kind * 2 ^ 8 + reason)

/-- log2 of an access of 2^k bytes. -/
def sizeCode (n : Nat) : Nat := n.log2

def Op.accTrap {α : Type} (cause : Nat) (a : Acc) (reason : Nat) : Op α := Op.trap cause a.ref (a.info reason)

/-- Handle and offset of a reference (R25). -/
def refHandle (r : Word) : Nat := r.toNat / 2 ^ 40
def refOffset (r : Word) : Nat := r.toNat % 2 ^ 40

def State.scopeWide (n : Nat) : Bool := 3 ≤ n

/-- The agent of the context in focus at a scope. -/
def State.self (s : State) (scope : Nat) : Agent where
  core := s.core.id
  ctx := s.ctx.num
  slot := s.core.slot
  queue := s.core.regs.queue.toNat
  sup := s.ctx.supervisor
  el := s.ctx.sys.sevpol.getLsbD 1
  scope := scope
  engine := false
  counted := !(match s.ctx.pfx with | some p => p.nofold | none => false)
  under := []
  strict := false
  hostBad := false
  quiet := 0

/-! ### Local memory (R26, R111, R417) -/

/-- The logical core with window index `i` in the window group of `c` (R97). -/
def State.windowCore (s : State) (c : LCore) (i : Nat) : Option LCore :=
  let lx := c.regs.lcore % c.regs.lx
  let col := 16 * (lx / 16) + i
  if col < c.regs.lx then s.findCore ⟨c.id.task, c.regs.lcore - lx + col, c.id.copy⟩ else none

/-- Whether a logical core is bound but not yet placed for the first time (R99): it has neither registers nor an image. An access to its
local memory waits for its placement, as for a restore (R111). -/
def State.unplaced (s : State) (c : LCore) : Bool :=
  c.imageArea.isNone && (s.findTask c.id.task).any fun t =>
    t.binds.any fun b => b.lcore = c.id.lcore && b.copy = c.id.copy && !b.placed

/-- Whether a reference names such a member of the window group of `me`. -/
def State.windowWaits (s : State) (me : LCore) (ref : Word) : Bool :=
  refHandle ref = 1 && (s.windowCore me (refOffset ref / 2 ^ 20 % 16)).any s.unplaced

/-- The 128-byte blocks that `n` bytes at an offset of a local memory touch. -/
def blocksOfRange (off n : Nat) : List Nat := (List.range ((off + n + 127) / 128 - off / 128)).map fun i => off / 128 + i

/-- Bytes written to a local memory: the blocks become dirty (R405), and whole words take fresh check bits. -/
def LCore.lmWrite (c : LCore) (off : Nat) (bs : List Byte) : LCore :=
  let n := bs.length
  { c with
    lm := c.lm.write off bs
    lmFlips := c.lmFlips.filter fun e => !(off ≤ 8 * e.1 && 8 * e.1 + 8 ≤ off + n)
    blockDirty := ((blocksOfRange off n).filter fun b => !c.blockDirty.contains b) ++ c.blockDirty }

/-- Where an image area lies in device-private memory (log entry 32: the manual gives no address). -/
def imageBase (k : Nat) : Nat := 2 ^ 52 + Config.imageBytes * k

/-- Blocks of a local memory written to an image area, with their bits of its block map (R406). -/
def Memory.putBlocks (p : Memory) (base : Nat) (lm : Memory) (blocks : List Nat) : Memory :=
  blocks.foldl (init := p) fun p b =>
    let map := base + 0x100 + 8 * (b / 64)
    (p.write (base + 0x60000 + 128 * b) (lm.read (128 * b) 128)).setWord map (p.word map ||| (1#64 <<< (b % 64)))

/-- Whether an image area holds block `b` of the local memory. -/
def Memory.hasBlock (p : Memory) (base b : Nat) : Bool := (p.word (base + 0x100 + 8 * (b / 64))).getLsbD (b % 64)

/-- A write to a local memory ends the SPINs that watch a block of it (R139). -/
def State.wakeBlocks (s : State) (id : CoreId) (off n : Nat) : State :=
  let spun (x : Ctx) : Bool := match x.wait with
    | some (.spin _ (.block _ _) _ _) => true
    | _ => false
  if s.cores.any fun c => c.ctxs.any spun then
    (blocksOfRange off n).foldl (init := s) fun s b =>
      s.mapCores fun c => c.mapCtxs fun x => x.wake (.block id b)
  else s

/-- Bytes written to the local memory of a logical core. The image of one that is not resident takes them too (R111). -/
def State.lmWrite (s : State) (id : CoreId) (off : Nat) (bs : List Byte) : State :=
  let s := (s.wakeBlocks id off bs.length).mapCore id fun c => c.lmWrite off bs
  match s.findCore id with
  | none => s
  | some c => match (if c.resident then none else c.imageArea) with
    | none => s
    | some k => { s with unc := { s.unc with
        priv := s.unc.priv.putBlocks (imageBase k) c.lm (blocksOfRange off bs.length) } }

/-- Where a handle-0 or handle-1 reference leads, after the checks of R26 in its order. `data` applies the XDATA
check against the boundary in force (for an engine the one for takes, R119). -/
def Op.localTarget (ag : Agent) (a : Acc) (data : Bool) : Op (CoreId × Nat) := do
  let s ← get
  let o := refOffset a.ref
  match s.findCore ag.core with
  | none => Op.stall
  | some me =>
    let xb (c : LCore) : Nat := (if ag.engine then c.xbTake else c.xbound).toNat
    if refHandle a.ref = 0 then
      if 0x100000 < o + a.n then Op.accTrap cBOUND a 0
      else if data && o < xb me then Op.accTrap cXDATA a 0
      else pure (me.id, o)
    else
      let off := o % 2 ^ 20
      if o / 2 ^ 24 ≠ 0 || 0x100000 < off + a.n then Op.accTrap cBOUND a 0
      else match s.windowCore me (o / 2 ^ 20 % 16) with
        | none => Op.accTrap cRIGHT a 0
        | some c =>
          if s.unplaced c then Op.stall
          else if data && off < xb c then Op.accTrap cXDATA a 0 else pure (c.id, off)

/-- The bad-byte reference of a failing unit (R480). -/
def badByte (ref : Word) (off unit : Nat) : Word := if off < unit then ref + Word.ofN (unit - off) else ref

/-- One local-memory word checked (R417): a correction is written back and counted, an uncorrectable word traps
STRUCT at the access (R420). -/
def Op.lmCheckWord (ag : Agent) (a : Acc) (id : CoreId) (off w : Nat) : Op Unit := do
  let s ← get
  match s.findCore id with
  | none => pure ()
  | some c =>
    match NatMap.get c.lmFlips w with
    | none => pure ()
    | some mask =>
      let stored := (c.lm.value (8 * w) 8) ^^^ mask.toNat
      let r := checkWord stored mask.toNat
      if r.strong = 2 then
        let bad := badByte a.ref off (8 * w)
        throw (.trap ⟨BitVec.ofNat 8 cSTRUCT, bad, a.info 0, none,
          some (dieOf ag.slot, Word.ofN (2 * 2 ^ 56 + 3 * 2 ^ 53 + 2 * 2 ^ 48 + ag.slot * 2 ^ 32),
            Word.ofN (8 * w), Word.ofN (2 * 2 ^ 48 + ag.queue)), none⟩)
      else if r.strong = 1 then
        set ((s.mapCore id fun c => { c with lmFlips := c.lmFlips.erase w }).countCorrected (dieOf c.slot) 0)
        if (s.die (dieOf c.slot)).telemetry.lc then
          modify fun s => s.logError (dieOf c.slot) 0 0 0 ag.slot 0 (Word.ofN (8 * w)) 0 0 1 0 ag.queue
      else
        set (s.mapCore id fun c => { c with lm := c.lm.store (8 * w) 8 r.data, lmFlips := c.lmFlips.erase w })

/-- The words of a local access checked, in ascending order. -/
def Op.lmCheck (ag : Agent) (a : Acc) (id : CoreId) (off n : Nat) : Op Unit := do
  let s ← get
  match s.findCore id with
  | none => pure ()
  | some c =>
    let words := (List.range ((off + n + 7) / 8 - off / 8)).map fun i => off / 8 + i
    if c.lmFlips = [] then pure () else Op.forEach (Op.lmCheckWord ag a id off) words

/-- Where the spill area of a core's context begins among the spill areas of all cores' Archaism stores (R413). -/
def spillAt (slot ctx : Nat) : Nat := 4096 * slot + 256 * ctx

/-- Whether handle 0 reaches the core's spill area: an Archaism routine runs (R413). -/
def State.inSpill (s : State) (ag : Agent) (ref : Word) : Bool :=
  !ag.engine && s.ctx.ar && refHandle ref = 0 && 0xFFF00 ≤ refOffset ref && refOffset ref < 0x100000

def Op.localLoad (ag : Agent) (a : Acc) (id : CoreId) (off : Nat) : Op Nat := do
  Op.lmCheck ag a id off a.n
  let s ← get
  match s.findCore id with
  | none => pure 0
  | some c => pure (c.lm.value off a.n)

/-- The bytes of word `w` of a local memory that a store of `n` bytes at `off` covers under its mask: a whole word takes
fresh check bits; a write of part of a word verifies the word first (R414, R420). -/
def Op.localStoreWord (ag : Agent) (a : Acc) (id : CoreId) (off v mask w : Nat) : Op Unit := do
  let places := (List.range 8).filter fun j => off ≤ 8 * w + j && 8 * w + j < off + a.n && mask.testBit (8 * w + j - off)
  if places = [] then pure ()
  else
    if places.length < 8 then Op.lmCheckWord ag a id off w
    let put (s : State) (j : Nat) : State :=
      s.lmWrite id (8 * w + j) [BitVec.ofNat 8 (v / 2 ^ (8 * (8 * w + j - off)))]
    if places.length = 8 then modify fun s => s.lmWrite id (8 * w) (bytesOf 8 (v / 2 ^ (8 * (8 * w - off))))
    else modify fun s => places.foldl put s

/-- A store to a local memory of the bytes that `mask` selects. -/
def Op.localStore (ag : Agent) (a : Acc) (id : CoreId) (off v mask : Nat) : Op Unit :=
  Op.forEach (Op.localStoreWord ag a id off v mask)
    ((List.range ((off + a.n + 7) / 8 - off / 8)).map fun i => off / 8 + i)

/-! ### Descriptors (R28 to R33, R252, R253) -/

def rightR : Nat := 0x01
def rightW : Nat := 0x02
def rightX : Nat := 0x04
def rightA : Nat := 0x08
def rightD : Nat := 0x10
def rightC : Nat := 0x20
def rightM : Nat := 0x40
def rightP : Nat := 0x80

/-- A descriptor's fields (R29). -/
structure Desc where
  addr : Nat
  layout : Nat
  cls : Nat
  rights : Nat
  length : Nat
  homePackage : BitVec 13
  homeDie : BitVec 3
  tensor : BitVec 32
  generation : Nat
  extents : Nat
  profile : Nat
  replicas : Nat
  deriving DecidableEq, Repr

def descOf (addr : Nat) (w0 w1 w2 w3 : Word) : Desc where
  addr := addr
  layout := w0.bits 55 50
  cls := w0.bits 49 48
  rights := w0.bits 47 40
  length := w0.bits 39 0
  homePackage := BitVec.ofNat 13 (w1.bits 63 51)
  homeDie := BitVec.ofNat 3 (w1.bits 50 48)
  tensor := w1.setWidth 32
  generation := w1.bits 47 32
  extents := w2.toNat
  profile := w3.bits 23 16
  replicas := w3.bits 15 0

def Desc.has (d : Desc) (r : Nat) : Bool := d.rights &&& r = r

/-- Whether a package is in the system: this one, or one that the reachability table names (R31, R346). Each of its dies 0 to 7
is a compute die (R12). -/
def State.inSystem (s : State) (p : BitVec 13) : Bool := p = s.pkg.address || s.pkg.remotes.any fun r => r.package = p

/-- The validity of a descriptor found in the object table of queue `q` (R31). -/
def State.descValid (s : State) (q : Nat) (w0 w3 : Word) (d : Desc) : Bool :=
  w0.bits 63 56 = 0 && w3.bits 63 24 = 0 && d.layout ≤ 16 &&
  (d.cls ≠ 1 || d.layout = 0 || d.layout = 14) &&
  (d.cls ≠ 2 || s.disp.supervisorMask.getLsbD q) &&
  (d.cls ≠ 3 || d.rights &&& (rightX + rightA + rightP) = 0) &&
  !(d.has rightX && d.has rightW) && (!d.has rightX || d.layout = 13) &&
  !(d.has rightM && d.has rightP) && d.length % layoutUnit d.layout = 0 && s.inSystem d.homePackage

/-- The descriptor at a place of a queue's object table, read from device-private memory. -/
def State.tableDesc (s : State) (q h : Nat) : Word × Word × Word × Word × Desc :=
  let at_ := (s.queue q).table.toNat + 32 * h
  let p := s.unc.priv
  let w0 := p.word at_
  let w1 := p.word (at_ + 8)
  let w2 := p.word (at_ + 16)
  let w3 := p.word (at_ + 24)
  (w0, w1, w2, w3, descOf at_ w0 w1 w2 w3)

/-- The epoch of a package: its own, or the one that the reachability table holds (R346). -/
def State.epochOf (s : State) (p : BitVec 13) : BitVec 32 :=
  if p = s.pkg.address then s.pkg.epoch
  else ((s.pkg.remotes.find? fun r => r.package = p).map (·.epoch)).getD 0

/-- The object cache entry of a slot for a queue's handle: tagged with the descriptor's address in the queue's table (R252), and
of the epoch that its package has (R347). -/
def State.ocFind (s : State) (slot q h : Nat) : Option OcEntry :=
  s.unc.objectCache.find? fun e => e.slot = slot && e.queue.toNat = q && e.handle = h &&
    e.addr = (s.queue q).table.toNat + 32 * h && e.epoch = s.epochOf e.package

/-- Whether the sector of device-private memory at an address holds an error that code W cannot correct (R415, R419). -/
def State.privBad (s : State) (addr : Nat) : Bool :=
  let sec := addr / 32
  let mask := (List.range 4).foldl (init := 0) fun acc i =>
    acc + 2 ^ (64 * i) * ((NatMap.get s.unc.privFlips (4 * sec + i)).getD 0).toNat
  !s.unc.privFlips.isEmpty && (checkSector 14 0 0 (s.unc.priv.value (32 * sec) 32 ^^^ mask) mask).strong = 2

/-- The trap of an access whose descriptor fill or walk meets such an error: STRUCT with `reason` 0xFC or 0xFD, and its error record
(R420, R426). -/
def Op.tableTrap {α : Type} (ag : Agent) (a : Acc) (reason : Nat) : Op α :=
  throw (.trap ⟨BitVec.ofNat 8 cSTRUCT, a.ref, a.info reason, none,
    some (dieOf ag.slot, Word.ofN (2 * 2 ^ 56 + 3 * 2 ^ 53 + 4 * 2 ^ 50 + 2 * 2 ^ 48 + ag.slot * 2 ^ 32), 0,
      Word.ofN (2 * 2 ^ 48 + ag.queue)), none⟩)

/-- A fill: an entry of a full cache leaves; which one is not architected, and a free value says it (R252). -/
def State.ocFill (s : State) (e : OcEntry) : State :=
  let mine := s.unc.objectCache.filter fun x => x.slot = e.slot
  let rest := s.unc.objectCache.filter fun x => x.slot ≠ e.slot
  let others := mine.filter fun x => !(x.queue = e.queue && x.handle = e.handle)
  let kept := if others.length < Config.ocEntries then others
    else others.eraseIdx (Config.replaced s.tick e.handle % others.length)
  { s with unc := { s.unc with objectCache := e :: kept ++ rest } }

/-- The object cache entries of a slot for the handles of some references. -/
def State.ocHeld (s : State) (slot q : Nat) (refs : List Word) : List OcEntry :=
  refs.filterMap fun r => s.ocFind slot q (refHandle r)

/-- The descriptor an agent's access finds, after steps 1 and 2 of R253; one that it has checked already stands (R185). -/
def Op.descriptor (ag : Agent) (a : Acc) : Op Desc := do
  let s ← get
  let h := refHandle a.ref
  match ag.under.find? fun e => e.handle = h with
  | some e => return descOf e.addr e.w0 e.w1 e.w2 e.w3
  | none => pure ()
  if h < 16 || (s.queue ag.queue).entries.toNat ≤ h then Op.accTrap cHANDLE a 0
  else match s.ocFind ag.slot ag.queue h with
    | some e => if (e.w0.bits 47 40) = 0 then Op.accTrap cHANDLE a 0 else pure (descOf e.addr e.w0 e.w1 e.w2 e.w3)
    | none =>
      let (w0, w1, w2, w3, d) := s.tableDesc ag.queue h
      if s.privBad d.addr then Op.tableTrap ag a 0xFC
      else if d.rights = 0 then Op.accTrap cHANDLE a 0
      else if !s.descValid ag.queue w0 w3 d then Op.accTrap cHANDLE a 0xFF
      else
        set (s.ocFill ⟨ag.slot, BitVec.ofNat 6 ag.queue, h, d.addr, w0, w1, w2, w3, s.pkg.address, s.pkg.epoch⟩)
        pure d

/-- Steps 3 to 5 of R253: PRIV, RIGHT, BOUND. -/
def Op.descCheck (ag : Agent) (a : Acc) (need : Nat) (d : Desc) : Op Unit :=
  if d.cls = 2 && !ag.sup then Op.accTrap cPRIV a 0
  else if !d.has need then Op.accTrap cRIGHT a 0
  else if d.length < refOffset a.ref + a.n then Op.accTrap cBOUND a 0
  else pure ()

/-! ### Translation (R255 to R266) -/

/-- The extent entries of a list, in order: first frame, count, frames address, reserved field. -/
def Memory.extents (m : Memory) (list : Nat) : Nat → Nat → List (Nat × Nat × Nat × Nat)
  | 0, _ => []
  | n + 1, i =>
    let w := m.word (list + 16 + 16 * i)
    (w.bits 63 40, w.bits 39 16, (m.word (list + 24 + 16 * i)).toNat, w.bits 15 0) :: Memory.extents m list n (i + 1)

/-- In rising order without overlap, each with at least one frame, aligned, and nothing reserved set (R257). -/
def extentsValid : List (Nat × Nat × Nat × Nat) → Nat → Bool
  | [], _ => true
  | (f, c, a, r) :: rest, lo => decide (lo ≤ f) && 1 ≤ c && a % 16 = 0 && r = 0 && extentsValid rest (f + c)

/-- What a walk finds (R258). -/
inductive Walk
  | invalid
  | uncovered
  | entry (addr : Nat)
  deriving DecidableEq, Repr

def Memory.walk (m : Memory) (list f : Nat) : Walk :=
  let h := m.word list
  let n := h.bits 31 0
  if n = 0 || 2 ^ 20 < n || h.bits 63 32 ≠ 0 || m.word (list + 8) ≠ 0 then .invalid
  else
    let es := m.extents list n 0
    if !extentsValid es 0 then .invalid
    else match es.find? fun e => e.1 ≤ f && f < e.1 + e.2.1 with
      | some e => .entry (e.2.2.1 + 16 * (f - e.1))
      | none => .uncovered

/-- Where a frame is (R256, R258, R260). -/
inductive Where
  /-- byte address in the bank memory -/
  | bank (addr : Nat)
  /-- byte address in host memory -/
  | host (addr : Nat)
  /-- not resident or uncovered: the frame entry's address if there is one -/
  | notres (entry : Option Nat)
  | moving
  | bad
  /-- the walk met an uncorrectable error (R420) -/
  | unread
  /-- on a package that has been reset since the frame was bound (R347) -/
  | stale
  deriving DecidableEq, Repr

/-- A frame entry's validity for an object (R257). Every stack from 0 to 15 is on a die of its package (R13). -/
def entryValid (d : Desc) (w0 w1 : Word) : Bool :=
  let host := w0.getLsbD 61
  w0.bits 63 62 ≠ 3 && w0.bits 59 37 = 0 && w1.bits 55 48 = 0 && w1.bits 15 0 = 0 &&
  host == (d.cls = 3)

/-- Whether a frame was bound, through the entry at `fe`, to a package that has been reset since and is not DOWN (R347). -/
def State.staleFrame (s : State) (fe : Nat) (w : Word) : Bool :=
  !w.getLsbD 61 && s.pkg.remotes.any fun r =>
    r.package.toNat = w.bits 36 24 && r.stale && r.state ≠ .down && !r.rebound.contains fe

/-- The place that word 0x00 of a RES entry gives for an offset. -/
def entryPlace (w : Word) (o : Nat) : Where :=
  if w.getLsbD 61 then .host (w.bits 36 0 * 65536 + o % 65536)
  else .bank (w.bits 36 24 * 2 ^ 40 + w.bits 23 20 * 2 ^ 36 + w.bits 19 0 * 2 ^ 16 + o % 65536)

/-- A translation buffer entry found at a die's port. -/
def State.tbFind (s : State) (d list f : Nat) : Option TbEntry :=
  (s.die d).tb.find? fun e => e.extents = list && e.frame = f

/-- Counts kept in word 0x08 of the frame entry of a buffer entry that leaves (R269). -/
def State.tbLeave (s : State) (e : TbEntry) : State :=
  let w := s.unc.priv.word (e.entry + 8)
  let v := Word.ofN (w.bits 63 48 * 2 ^ 48 + min e.nd 65535 * 2 ^ 32 + min e.nh 65535 * 2 ^ 16 + w.bits 15 0)
  { s with unc := { s.unc with priv := s.unc.priv.setWord (e.entry + 8) v } }

/-- A fill of a die's translation buffer; an entry of a full buffer leaves, and a free value says which (R258). -/
def State.tbFill (s : State) (d : Nat) (e : TbEntry) : State :=
  let tb := (s.die d).tb
  if tb.length < Config.tbEntries then s.mapDie d fun x => { x with tb := e :: tb }
  else
    let i := Config.replaced s.tick e.frame % tb.length
    let s := match tb[i]? with
      | some old => s.tbLeave old
      | none => s
    s.mapDie d fun x => { x with tb := e :: tb.eraseIdx i }

/-- One access counted at the port of die `d`; the count of the location's own port comes with the response (R269). -/
def State.tbCount (s : State) (d list f : Nat) : State :=
  let near (e : TbEntry) : Nat := ((s.tbFind (e.word.bits 23 20 / 2) list f).map (·.nh)).getD e.nh
  s.mapDie d fun x => { x with tb := x.tb.map fun e =>
    if e.extents = list && e.frame = f then
      (if e.word.bits 23 20 / 2 = d then { e with nh := min 65535 (e.nh + 1) }
       else { e with nd := min 65535 (e.nd + 1), nh := near e })
    else e }

/-- The replica of a frame on the die, if it holds one and the access is a read (R269, R270). -/
def State.replicaPlace (s : State) (d : Nat) (desc : Desc) (f o : Nat) (reps : BitVec 8) : Option Where :=
  if desc.replicas ≠ 0 && reps.getLsbD d then
    let w := s.unc.priv.word (s.pkg.replicaTable.toNat + 64 * desc.replicas + 8 * d)
    if w = 0 then none
    else some (.bank (s.pkg.address.toNat * 2 ^ 40 + w.bits 23 20 * 2 ^ 36 + (w.bits 19 0 + f) * 2 ^ 16 + o % 65536))
  else none

/-- Whether a walk of an extent list for a frame meets an uncorrectable error in the list or the frame entry (R420). -/
def State.walkBad (s : State) (list f : Nat) : Bool :=
  !s.unc.privFlips.isEmpty &&
    (s.privBad list || ((List.range ((s.unc.priv.word list).bits 31 0)).any fun i => s.privBad (list + 16 + 16 * i)) ||
      match s.unc.priv.walk list f with
      | .entry fe => s.privBad fe
      | _ => false)

/-- Translation of an offset of an object at the port of die `d` (R258). -/
def Op.translate (d : Nat) (desc : Desc) (o : Nat) (isRead : Bool) : Op Where := do
  let s ← get
  let f := o / 65536
  let hit := s.tbFind d desc.extents f
  let found : Option (TbEntry × Bool) := match hit with
    | some e => some (e, true)
    | none => match s.unc.priv.walk desc.extents f with
      | .entry fe =>
        let w1 := s.unc.priv.word (fe + 8)
        some (⟨desc.extents, f, fe, s.unc.priv.word fe, BitVec.ofNat 8 (w1.bits 63 56), w1.bits 47 32, w1.bits 31 16⟩, false)
      | _ => none
  match found with
  -- a pinned object takes no frame-not-resident fault (R30)
  | none => pure (if s.walkBad desc.extents f then .unread
      else if s.unc.priv.walk desc.extents f = .uncovered && !desc.has rightP then .notres none else .bad)
  | some (e, had) =>
    let w1 := s.unc.priv.word (e.entry + 8)
    -- a buffered entry was found valid when it was filled; its location must suit this object's class too (R257)
    if !had && s.walkBad desc.extents f then pure .unread
    else if (if had then e.word.getLsbD 61 != (desc.cls = 3) else !entryValid desc e.word w1) then pure .bad
    else
      let st := e.word.bits 63 62
      if desc.has rightP && st ≠ 1 then pure .bad
      else if st = 0 then pure (.notres (some e.entry))
      else if st = 2 then pure .moving
      else if s.staleFrame e.entry e.word then pure .stale
      else
        set ((if had then s else s.tbFill d e).tbCount d desc.extents f)
        let s ← get
        match (if isRead then s.replicaPlace d desc f o e.replicas else none) with
        | some p => pure p
        | none => pure (entryPlace e.word o)

/-- The fence level of a die (R435). -/
def State.fenceLevel (s : State) (d : Nat) : Nat := s.pkg.fence.toNat / 2 ^ (2 * d) % 4

/-- The frame that a request names: extent list and object frame (R263). -/
def State.frameOf (s : State) (r : ResReq) : Nat × Nat := ((s.unc.priv.word (r.desc + 16)).toNat, refOffset r.ref / 65536)

/-- The requests that a die's port has sent: the first for each frame; later ones for the same frame wait on it (R263). -/
def State.sentRequests (s : State) (die : Nat) : List ResReq :=
  (s.die die).residency.foldl (init := []) fun sent r =>
    if sent.any fun x => s.frameOf x = s.frameOf r then sent else sent ++ [r]

/-- A request as it lies in the residency queue (R263). -/
def ResReq.words (r : ResReq) : List Word :=
  [r.ref, Word.ofN r.desc, Word.ofN (r.slot * 2 ^ 48 + r.ctx * 2 ^ 40 + r.kind * 2 ^ 32 + r.queue.toNat), 0]

/-- A residency request, sent or waiting on one for the same frame that is under way at the port (R263). -/
def State.requestResidency (s : State) (ag : Agent) (ref : Word) (desc kind : Nat) (die : Nat) : State :=
  let r : ResReq := ⟨Word.ofN (ref.toNat / 65536 * 65536), desc, ag.slot, if ag.engine then 0xFF else ag.ctx, kind,
    BitVec.ofNat 6 ag.queue, ag.core⟩
  if (s.die die).residency.contains r then s
  else s.mapDie die fun x => { x with residency := x.residency ++ [r] }

/-- A core access that meets a not-resident frame (R264): refused, it traps FRAME; otherwise the request is sent and
the context waits. -/
def Op.frameWait {α : Type} (ag : Agent) (a : Acc) (desc : Desc) : Op α := do
  let s ← get
  let frame := Word.ofN (a.ref.toNat / 65536 * 65536)
  if s.ctx.refused = some frame then Op.accTrap cFRAME a 0x01
  else
    set (s.requestResidency ag a.ref desc.addr 0 (dieOf ag.slot))
    Op.modCtx fun c => { c with wait := some (.residency frame .begun) }
    Op.block

/-- The location of a core access, with the outcomes of R257, R260, R264 and R342. -/
def Op.locate (ag : Agent) (a : Acc) (desc : Desc) (isRead : Bool) : Op Where := do
  let w ← Op.translate (dieOf ag.slot) desc (refOffset a.ref) isRead
  match w with
  | .bad => Op.accTrap cSTRUCT a 0xFE
  | .moving => Op.stall
  | .stale => Op.accTrap cREMOTE a 2
  | .unread => Op.tableTrap ag a 0xFD
  | .notres _ => Op.frameWait ag a desc
  | .host h => pure (.host h)
  | .bank b =>
    let s ← get
    match s.reach (b / 2 ^ 40) with
    | 0 =>
      if b / 2 ^ 40 = s.pkg.address.toNat && s.fenceLevel (b / 2 ^ 36 % 16 / 2) = 2
      then Op.trap cLOST a.ref 2
      else pure (.bank b)
    | 1 =>
      if s.ctx.remoteBad = some 1 then Op.accTrap cREMOTE a 1
      else
        Op.modCtx fun c => { c with wait := some (.route a.ref (BitVec.ofNat 13 (b / 2 ^ 40))) }
        Op.block
    | r => Op.accTrap cREMOTE a r

/-! ### What a verified read delivers (R418 to R421, R480) -/

/-- 256 flip bits of sector `sec` from flips by unit, counted from unit `base`. -/
def sectorFlips (fs : List Flip) (base sec : Nat) : Nat :=
  (List.range 4).foldl (init := 0) fun acc i =>
    acc + 2 ^ (64 * i) * ((fs.filter fun f => f.unit = base + 4 * sec + i).foldl (init := 0) fun m f => m ^^^ f.mask.toNat)

/-- DEFER of the context charged raised, saturating at 2^32 − 1 (R423). -/
def State.defer (s : State) (ag : Agent) (n : Nat) : State :=
  s.mapCtx ag.core ag.ctx fun c => { c with sys := { c.sys with
    deferred := Word.ofN (min (2 ^ 32 - 1) (c.sys.deferred.toNat + n)) } }

/-- One of the elements charged to the context had been counted already (R420, R423). -/
def State.undefer (s : State) (ag : Agent) : State :=
  s.mapCtx ag.core ag.ctx fun c => { c with sys := { c.sys with
    deferred := if c.sys.deferred.toNat = 2 ^ 32 - 1 then c.sys.deferred else c.sys.deferred - 1 } }

/-- A flip of sector `sec` (numbered as the copy's units are) without the bits in `fixed`, which have been rewritten corrected. -/
def Flip.without (f : Flip) (sec fixed : Nat) : Flip :=
  if f.unit / 4 = sec then { f with mask := f.mask &&& ~~~(BitVec.ofNat 64 (fixed / 2 ^ (64 * (f.unit % 4)))) } else f

/-- The bits `fixed` of sector `i` of a line rewritten corrected in the copy that a read verified (R418). -/
def State.rewrite (s : State) (h : Held) (i fixed : Nat) : State :=
  let line (cl tag : Nat) (mine : Flip → Bool) : State := match s.findLine cl tag with
    | some l => s.putLine { l with
        flips := (l.flips.map fun f => if mine f then f.without i fixed else f).filter fun f => f.mask ≠ 0 }
    | none => s
  let bank (tag : Nat) (s : State) : State :=
    let fix (f : Flip) : Flip := if f.tier = s.bankTier tag then f.without (4 * tag + i) fixed else f
    { s with unc := { s.unc with bankFlips := (s.unc.bankFlips.map fix).filter fun f => f.mask ≠ 0 } }
  match h with
  | .l1 slot cl tag => line cl tag fun f => f.tier = .l1 && f.slot = slot
  | .cc cl tag => line cl tag fun f => f.tier = .cc
  | .msc tag => bank tag s
  | .fill cl tag => bank tag (line cl tag fun f => f.tier = .cc)

/-- The line that a copy is of. -/
def Held.tag : Held → Nat
  | .l1 _ _ t | .cc _ t | .msc t | .fill _ t => t

/-- A copy in which a sector was found uncorrectable is invalidated when it is clean; a dirty copy keeps its bits (R421). -/
def State.invalidateBad (s : State) (h : Held) : State :=
  let cc (cl tag : Nat) (s : State) : State :=
    match s.findLine cl tag with
    | some l => if l.dirty ≠ 0 then s else if l.state = .scoped then s.evictLine cl tag else s.giveUp cl tag
    | none => s
  let msc (tag : Nat) (s : State) : State :=
    if s.unc.mscDirty.contains tag then s
    else { s with unc := { s.unc with
      bankFlips := s.unc.bankFlips.filter fun f => !(f.unit / 16 = tag && f.tier = .msc)
      mscHeld := s.unc.mscHeld.filter fun t => t ≠ tag } }
  match h with
  | .l1 slot cl tag =>
    match s.findLine cl tag with
    | some l => s.putLine { l with
        flips := l.flips.filter fun f => !(f.tier = .l1 && f.slot = slot)
        l1s := l.l1s.filter fun x => x ≠ slot }
    | none => s
  | .cc cl tag => cc cl tag s
  | .msc tag => msc tag s
  | .fill cl tag => msc tag (cc cl tag s)

/-- A sector that begins at byte `off` of its object, read for its bytes [o, o + n): the 32 bytes delivered, and what was
found: 0 no flipped bit, 1 a bounded and 2 an element-class error, 3 a corrected error, 4 flipped bits of which nothing
is found (R420, R421). `tier` is where it was found, `held` the copy, `sec` which sector of its line. -/
def Op.deliver (ag : Agent) (a : Acc) (d : Desc) (held : Held) (sec tier off stored mask o n : Nat) : Op (Nat × Nat) := do
  let quiet (i : Nat) : Bool := refOffset a.ref ≤ off + o + i && ag.quiet.testBit (off + o + i - refOffset a.ref)
  if mask = 0 || (n ≠ 0 && (List.range n).all quiet) then pure (stored, 0)
  else
    let c := checkSector d.layout d.profile off (stored ^^^ mask) mask
    let structural := sectorStructural d.layout d.profile || d.cls = 1 || d.cls = 2
    let sev := if ag.strict && c.severity structural ≠ 0 then 3 else c.severity structural
    let die := dieOf ag.slot
    let q := ag.queue
    let secRef := Word.ofN (refHandle a.ref * 2 ^ 40 + off)
    if sev = 3 || (sev = 2 && ag.el) then
      let rec0 := Word.ofN (2 * 2 ^ 56 + sev * 2 ^ 53 + tier * 2 ^ 50 + 2 * 2 ^ 48 + ag.slot * 2 ^ 32 + d.tensor.toNat)
      let rec2 := Word.ofN (c.parity * 2 ^ 56 + d.layout * 2 ^ 50 + c.strong * 2 ^ 48 + q)
      throw (.trap ⟨BitVec.ofNat 8 (if sev = 3 then cSTRUCT else cPOISON), badByte a.ref (refOffset a.ref) off,
        a.info 0, none, some (die, rec0, secRef, rec2), some held⟩)
    else if sev = 2 then
      let k := elementsOn (layoutWidth d.layout) (off + o) n quiet
      modify fun s => (s.defer ag k).logError die 2 tier 1 ag.slot d.tensor.toNat secRef c.parity d.layout 2 k q
      pure (0, 2)
    else
      if sev = 1 then
        -- a failed parity group beside a corrected strong word: the strong bits are rewritten corrected all the same
        if c.strong = 1 then
          let strong := match layoutClasses d.layout with
            | some (w, lo, _) => classMask w lo w off
            | none => 0
          modify fun s => (s.rewrite held sec strong).countCorrected die tier
        modify fun s => s.logError die 1 tier 0 ag.slot d.tensor.toNat secRef c.parity d.layout c.strong 0 q
      else if c.strong = 1 then
        modify fun s => s.countCorrected die tier
        let s ← get
        if (s.die die).telemetry.lc then
          modify fun s => s.logError die 0 tier 0 ag.slot d.tensor.toNat secRef 0 d.layout 1 0 q
      pure (c.data, if sev = 0 then (if c.strong = 1 then 3 else 4) else sev)

/-! ### Lines (R250, R321, R322) -/

/-- A line present in the agent's cluster, whole, and held by its core's L1, alone there when `own`: of class 0 filled from the
bank where it is not valid; of class 1 and 2 obtained through the directory, owned when `own`. A LOST line traps (R343). The line as
the access found it in the cluster cache, with the L1s that held it, and the bytes that this access had from the bank. -/
def Op.ensureLine (ag : Agent) (a : Acc) (d : Desc) (tag : Nat) (own : Bool) : Op (CacheLine × BitVec 128) := do
  let cl := clusterOf ag.slot
  modify fun s =>
    let s := s.cacheRoom cl ag.slot tag
    if own then s.soleL1 cl ag.slot tag else s
  if d.cls = 0 then
    let s ← get
    let l := (s.findLine cl tag).getD ⟨cl, tag, .scoped, 0, 0, 0, [], []⟩
    let fill := ~~~l.valid
    let bits := byteBits fill
    let l := { l with
      data := (l.data &&& ~~~bits) ||| (s.bankLine tag &&& bits)
      valid := BitVec.allOnes 128
      flips := if fill = 0 then l.flips else l.flips ++ (s.flipsFromBank tag).filter fun f => !(l.flips.any fun g => g.unit = f.unit) }
    set (s.putLine (l.inL1 ag.slot))
    pure (l, fill)
  else
    let before ← get
    match (← Op.dirRequest (.cluster cl) own tag) with
    | some r => Op.trap cLOST a.ref (Word.ofN r)
    | none =>
      let s ← get
      match s.findLine cl tag with
      | none => Op.stall
      | some l =>
        set (s.putLine (l.inL1 ag.slot))
        let e := before.dirEntry tag
        let fetched : Bool := (before.findLine cl tag).isNone && !e.hasOwner
        pure (l, if fetched then BitVec.allOnes 128 else 0)

/-- Whether flipped bits of a line are those that a read through the L1 of a slot sees: of the L1's copy where it held the line, else
of the cluster cache's (R186). -/
def CacheLine.sees (l : CacheLine) (slot : Nat) (f : Flip) : Bool :=
  if l.l1s.contains slot then f.tier = .l1 && f.slot = slot else f.tier = .cc

/-- A sector rewritten corrected in the tier that serves its line at the bank (R418). -/
def State.repairSector (s : State) (sec : Nat) : State :=
  { s with unc := { s.unc with
      bankFlips := s.unc.bankFlips.filter fun f => !(f.unit / 4 = sec && f.tier = s.bankTier (sec / 4)) } }

/-- The sector of a line of the agent's cluster that holds its byte `o`, verified for `n` bytes there; `objOff` is the
object's byte at `o`, and `got` the bytes that the access had from the bank. A copy found uncorrectable is invalidated when
it is clean: the one that delivered, and what a fill made of it (R421). -/
def Op.lineSector (ag : Agent) (a : Acc) (d : Desc) (l : CacheLine) (got : BitVec 128) (objOff o n : Nat) :
    Op (Nat × Nat) := do
  let mask := sectorFlips (l.flips.filter fun f => l.sees ag.slot f) 0 (o / 32)
  let stored := lineGet l.data (o / 32 * 32) 32
  if mask = 0 then pure (stored, 0)
  else
    let inL1 : Bool := l.l1s.contains ag.slot
    -- what was just filled from the cluster cache, and from the bank, is that copy's
    let bad (f : Flip) : Bool := f.unit / 4 = o / 32 && (l.sees ag.slot f || (f.tier = .l1 && f.slot = ag.slot))
    let s ← get
    let filled : Bool := !inL1 && got &&& byteMask (o / 32 * 32) 32 ≠ 0
    let inMsc : Bool := s.bankTier l.tag = .msc
    let held : Held := if inL1 then .l1 ag.slot l.cluster l.tag
      else if filled then .fill l.cluster l.tag else .cc l.cluster l.tag
    let tier := if inL1 then 1 else if !filled then 2 else if inMsc then 3 else 4
    let (v, st) ← Op.deliver ag a d held (o / 32) tier (objOff - o % 32) stored mask (o % 32) n
    if st = 3 then
      modify fun s => match s.findLine l.cluster l.tag with
        | some l => s.putLine { l with flips := l.flips.filter fun f => !bad f }
        | none => s
      if filled then modify fun s => s.repairSector (4 * l.tag + o / 32)
    else if st = 1 || st = 2 then
      modify fun s => s.invalidateBad held
    pure (v, st)

/-- Bytes [o, o + n) of a sector. -/
def sectorSlice (v o n : Nat) : Nat := v / 2 ^ (8 * o) % 2 ^ (8 * n)

/-- A verified read of `n` bytes at `o` of a line of the agent's cluster. -/
def Op.lineRead (ag : Agent) (a : Acc) (d : Desc) (l : CacheLine × BitVec 128) (objOff o n : Nat) : Op Nat := do
  let (v, _) ← Op.lineSector ag a d l.1 l.2 objOff o n
  pure (sectorSlice v (o % 32) n)

/-- The sector of a bank that holds the byte at `addr`, verified for `n` bytes there (R321, R420). -/
def Op.bankSector (ag : Agent) (a : Acc) (d : Desc) (addr objOff n : Nat) : Op (Nat × Nat) := do
  let s ← get
  let sec := addr / 32
  let mask := sectorFlips (s.servedFlips (addr / 128)) (4 * sec) 0
  let stored := s.unc.hbm.value (32 * sec) 32
  if mask = 0 then pure (stored, 0)
  else
    let tier := tierCode (s.bankTier (addr / 128))
    let (v, st) ← Op.deliver ag a d (.msc (addr / 128)) (addr / 32 % 4) tier (objOff - addr % 32) stored mask (addr % 32) n
    if st = 3 then modify fun s => s.repairSector sec
    else if st = 1 || st = 2 then
      modify fun s => s.invalidateBad (.msc (addr / 128))
    pure (v, st)

/-- The sectors of `n` bytes at a bank whose bits differ from their check bits in the copy that serves them, in ascending order, with
what the codes find; `off` is the object's byte at `addr` (R415, R416). -/
def State.flippedSectors (s : State) (layout profile off addr n : Nat) : List (Nat × Checked) :=
  let mine (f : Flip) : Bool := addr / 32 ≤ f.unit / 4 && 32 * (f.unit / 4) < addr + n && f.tier = s.bankTier (f.unit / 16)
  let secs := sortBy (fun a b => decide (a ≤ b)) (((s.unc.bankFlips.filter mine).map fun f => f.unit / 4).dedup)
  secs.map fun sec =>
    let mask := sectorFlips (s.servedFlips (sec / 4)) (4 * sec) 0
    (sec, checkSector layout profile (off + 32 * sec - addr) (s.unc.hbm.value (32 * sec) 32 ^^^ mask) mask)

/-- A sector takes the bits that a read of it delivers, with fresh check bits. -/
def State.settleSector (s : State) (x : Nat × Checked) : State :=
  { s with unc := { s.unc with hbm := s.unc.hbm.write (32 * x.1) (bytesOf 32 x.2.data) } }.repairSector x.1

/-- Who reads or writes bytes of an object at a bank other than by a core's access: the die whose ring takes its records, the slot
and queue that they name, and the object (R424, R426). -/
structure BankReader where
  die : Nat
  slot : Nat
  queue : Nat
  handle : Nat
  desc : Desc
  deriving DecidableEq, Repr

/-- The die that owns a bank (R13). -/
def bankOwner (addr : Nat) : Nat := addr / 2 ^ 36 % 16 / 2

/-- The record of an error in a sector at a bank (R426). -/
def State.logSector (s : State) (r : BankReader) (off : Nat) (x : Nat × Checked) (sev action : Nat) : State :=
  s.logError r.die sev (tierCode (s.bankTier (x.1 / 4))) action r.slot r.desc.tensor.toNat
    (Word.ofN (r.handle * 2 ^ 40 + off)) x.2.parity r.desc.layout x.2.strong 0 r.queue

/-- VERIFICATION AT A BANK of `n` bytes at `addr`, the object's byte `off` (R414 to R421): corrected sectors are rewritten, counted and,
where the ring allows, recorded; the first one that is uncorrectable is recorded with `action` and its clean copy invalidated: its
number and severity. -/
def Op.verifyBank (r : BankReader) (off addr n action : Nat) : Op (Option (Nat × Nat)) := do
  let s ← get
  let sev (x : Nat × Checked) : Nat :=
    x.2.severity (sectorStructural r.desc.layout r.desc.profile || r.desc.cls = 1 || r.desc.cls = 2)
  let found := s.flippedSectors r.desc.layout r.desc.profile off addr n
  match found.find? fun x => sev x ≠ 0 with
  | some x =>
    set ((s.logSector r (off + 32 * x.1 - addr) x (sev x) action).invalidateBad (.msc (x.1 / 4)))
    pure (some (x.1, sev x))
  | none =>
    Op.forEach (fun x => if x.2.strong = 1 then modify fun s =>
      let tier := tierCode (s.bankTier (x.1 / 4))
      let s := if (s.die r.die).telemetry.lc then s.logSector r (off + 32 * x.1 - addr) x 0 0 else s
      (s.repairSector x.1).countCorrected r.die tier else pure ()) found
    pure none

/-- The state in which the bytes of a range are what a read delivers (R415). -/
def State.settled (s : State) (r : BankReader) (off addr n : Nat) : State :=
  (s.flippedSectors r.desc.layout r.desc.profile off addr n).foldl State.settleSector s

/-- A verified read of `n` bytes at the bank. -/
def Op.bankRead (ag : Agent) (a : Acc) (d : Desc) (addr n : Nat) : Op Nat := do
  let (v, _) ← Op.bankSector ag a d addr (refOffset a.ref) n
  pure (sectorSlice v (addr % 32) n)

/-- The dirty class-0 bytes of a line of a cluster written back, and no longer dirty (R321). -/
def State.cleanLine (s : State) (cl tag : Nat) : State :=
  match s.findLine cl tag with
  | some l => if l.state = .scoped && l.dirty ≠ 0 then (s.writeBack l).putLine { l with dirty := 0 } else s
  | none => s

/-- Every dirty class-0 line of a cluster written back: the effect of a release at die scope or wider (R321). -/
def State.releaseCluster (s : State) (cl : Nat) : State :=
  ((s.unc.lines.filter fun l => l.cluster = cl).map (·.tag)).foldl (fun s t => s.cleanLine cl t) s

/-- A line of a cluster with its clean class-0 bytes invalidated; nothing is left of a clean line (R322). -/
def CacheLine.acquired (cl : Nat) (l : CacheLine) : Option CacheLine :=
  if l.cluster = cl && l.state = .scoped then
    (if l.dirty = 0 then none else some { l with valid := l.dirty })
  else some l

/-- The clean class-0 bytes of a cluster invalidated; dirty bytes kept (R322). -/
def State.acquireCluster (s : State) (cl : Nat) : State :=
  let gone := (s.unc.lines.filter fun l => l.cluster = cl && l.state = .scoped && l.dirty = 0).map (·.tag)
  let s := gone.foldl (fun s tag => s.wakeLine cl tag) s
  { s with unc := { s.unc with lines := s.unc.lines.filterMap (CacheLine.acquired cl) } }

/-! ### Digest contributions (R442) -/

/-- The contribution of `n` bytes of value `v` written at an object's offset, unit by unit; `mask` selects bytes. -/
def digestBytes (tensor : BitVec 32) (off n v : Nat) (mask : Nat) : BitVec 128 :=
  (List.range ((off + n + 7) / 8 - off / 8)).foldl (init := 0) fun acc u =>
    let base := 8 * (off / 8 + u)
    let places := (List.range 8).filter fun j => off ≤ base + j && base + j < off + n && mask.testBit (base + j - off)
    if places = [] then acc
    else
      let m := places.foldl (init := 0) fun x j => x + 2 ^ j
      let dv := places.foldl (init := 0) fun x j => x + 2 ^ (8 * j) * (v / 2 ^ (8 * (base + j - off)) % 256)
      acc + digestUnit tensor (BitVec.ofNat 8 m) base dv

/-- Whether the writes of an agent to an object contribute. -/
def State.digests (s : State) (ag : Agent) (d : Desc) : Bool :=
  ag.counted && ag.core.copy = 0 && d.has rightD && (match s.findTask ag.core.task with | some t => t.dig | none => false)

def State.addDigest (s : State) (ag : Agent) (x : BitVec 128) : State :=
  s.mapCtx ag.core ag.ctx fun c => { c with digest := c.digest + x }

/-- A store's contribution to the digest sum (R442). -/
def Op.countStore (ag : Agent) (a : Acc) (d : Desc) (v mask : Nat) : Op Unit := modify fun s =>
  if s.digests ag d then s.addDigest ag (digestBytes d.tensor (refOffset a.ref) a.n v mask) else s

/-! ### Host memory (R454, R455) -/

/-- A class 3 load: the context waits for the completion; a failure traps REMOTE with its reason. -/
def Op.hostLoad (a : Acc) (h : Nat) : Op Nat := do
  let s ← get
  match s.ctx.remoteBad with
  | some r => Op.accTrap cREMOTE a r.toNat
  | none =>
    if !s.pkg.hostUp then Op.accTrap cREMOTE a 7
    else match s.ctx.hostGot.find? fun e => e.1 = a.ref with
      | some e => pure (valueOf e.2)
      | none =>
        Op.modCtx fun c => { c with wait := some (.host a.ref a.n h) }
        Op.block

/-- A class 3 store: a posted write. -/
def Op.hostStore (a : Acc) (addr v mask : Nat) : Op Unit := do
  let s ← get
  if !s.pkg.hostUp then Op.accTrap cREMOTE a 7
  else
    set { s with unc := { s.unc with host := s.unc.host.writeMasked addr a.n v mask } }

/-! ### Loads and stores by reference -/

/-- A load of `a.n` bytes of an object at a bank or host place. -/
def Op.placeLoad (ag : Agent) (a : Acc) (d : Desc) (w : Where) : Op Nat := do
  match w with
  | .host h => Op.hostLoad a h
  | .bank b =>
    if d.cls = 0 && State.scopeWide ag.scope then
      modify fun s => s.cleanLine (clusterOf ag.slot) (b / 128)
      Op.bankRead ag a d b a.n
    else
      let l ← Op.ensureLine ag a d (b / 128) false
      Op.lineRead ag a d l (refOffset a.ref) (b % 128) a.n
  | _ => Op.stall

/-- A store of `a.n` bytes, those that `mask` selects, of an object at a bank or host place. -/
def Op.placeStore (ag : Agent) (a : Acc) (d : Desc) (w : Where) (v mask : Nat) : Op Unit := do
  match w with
  | .host h =>
    Op.hostStore a h v mask
    Op.countStore ag a d v mask
  | .bank b =>
    let o := b % 128
    let bytes : BitVec 128 := BitVec.ofNat 128 (mask % 2 ^ a.n * 2 ^ o)
    let bits := byteBits bytes
    let put (x : BitVec 1024) : BitVec 1024 :=
      (x &&& ~~~bits) ||| (BitVec.ofNat 1024 (v % 2 ^ (8 * a.n) * 2 ^ (8 * o)) &&& bits)
    let sec := b / 32 * 32
    let whole : Bool := o % 32 = 0 && a.n = 32 && mask % 2 ^ 32 = 2 ^ 32 - 1
    let wide := d.cls = 0 && State.scopeWide ag.scope
    let line ← (if wide then pure none else do return some (← Op.ensureLine ag a d (b / 128) true))
    -- a partial write reads the whole sector first; one found in error is written whole, merged (R414, R420)
    let start := refOffset a.ref - o % 32
    let (old, st) ← (if whole then pure (0, 0) else match line with
      | some (l, got) => Op.lineSector ag a d l got start (o / 32 * 32) 32
      | none => Op.bankSector ag a d sec start 32)
    -- a clean copy found bad is gone; the line is had again (R421)
    let line ← (if st = 1 || st = 2 then match line with
      | some _ => do return some (← Op.ensureLine ag a d (b / 128) true)
      | none => pure none
      else pure line)
    let merge : Bool := st ≠ 0
    let bytes := if merge || whole then byteMask (sec % 128) 32 else bytes
    let put (x : BitVec 1024) : BitVec 1024 := put (if merge then lineSet x (sec % 128) 32 old else x)
    modify fun s =>
      match line with
      | none =>
        let s := s.bankWrite (b / 128) bytes (put 0)
        match s.findLine (clusterOf ag.slot) (b / 128) with
        | some l => s.putLine { l with data := put l.data, valid := l.valid ||| bytes, dirty := l.dirty &&& ~~~bytes }
        | none => s
      | some (l, _) =>
        let l := (s.findLine l.cluster l.tag).getD l
        s.putLine { l with
          data := put l.data
          dirty := l.dirty ||| bytes
          flips := l.flips.filter fun f => !(f.unit / 4 = o / 32 && (whole || merge)) }
    Op.countStore ag a d v mask
  | _ => Op.stall

/-- The checks of an access without its effect, for handles 0 and 1 (with the XDATA check) and for objects. -/
def Op.checkAccess (ag : Agent) (a : Acc) (need : Nat) : Op Unit := do
  let h := refHandle a.ref
  let s ← get
  if h ≤ 1 then
    if s.inSpill ag a.ref then pure () else discard (Op.localTarget ag a true)
  else
    let d ← Op.descriptor ag a
    Op.descCheck ag a need d

/-- The bytes that a class 3 read of the word in progress has brought: it checked its descriptor when it was sent, and drains
under it (R185, R262). -/
def Ctx.drained (c : Ctx) (a : Acc) : Option Nat :=
  (c.hostGot.find? fun e => e.1 = a.ref && e.2.length = a.n).map fun e => valueOf e.2

/-- Whether bytes from `a` and bytes from `b` overlap. -/
def overlap (a n b m : Nat) : Bool := a < b + m && b < a + n

/-- Whether `n` bytes at a site meet a reduction of the same context that its site has not applied: an access after it in program
order waits for it (R316 item 5, R317). -/
def State.ownRed (s : State) (ag : Agent) (site : Site) (n : Nat) : Bool :=
  !ag.engine && s.unc.bankOps.any fun o => !o.far && o.core = ag.core && o.ctx = ag.ctx && (match o.site, site with
    | .local c a, .local d b => c = d && overlap a o.n b n
    | .bank a, .bank b => overlap a o.n b n
    | _, _ => false)

/-- The same for the place of an object. -/
def State.ownRedAt (s : State) (ag : Agent) (w : Where) (n : Nat) : Bool := match w with
  | .bank b => s.ownRed ag (.bank b) n
  | _ => false

/-- A load by reference (R273): the checks, then the bytes. -/
def Op.load (ag : Agent) (a : Acc) : Op Nat := do
  let s ← get
  if s.inSpill ag a.ref then
    pure (s.unc.spills.value (spillAt s.core.slot s.ctx.num + (refOffset a.ref - 0xFFF00)) a.n)
  else if refHandle a.ref ≤ 1 then
    let (id, off) ← Op.localTarget ag a true
    Op.need (!s.ownRed ag (.local id off) a.n)
    Op.localLoad ag a id off
  else match (if ag.engine then none else s.ctx.drained a) with
  | some v => pure v
  | none =>
    let d ← Op.descriptor ag a
    Op.descCheck ag a rightR d
    let w ← Op.locate ag a d true
    Op.need (!s.ownRedAt ag w a.n)
    Op.placeLoad ag a d w

/-- A store by reference (R273) of the bytes that `mask` selects. -/
def Op.storeMasked (ag : Agent) (a : Acc) (v mask : Nat) : Op Unit := do
  let s ← get
  if s.inSpill ag a.ref then
    let at_ := spillAt s.core.slot s.ctx.num + (refOffset a.ref - 0xFFF00)
    set { s with unc := { s.unc with spills := s.unc.spills.writeMasked at_ a.n v mask } }
  else if refHandle a.ref ≤ 1 then
    let (id, off) ← Op.localTarget ag a true
    Op.need (!s.ownRed ag (.local id off) a.n)
    Op.localStore ag a id off v mask
  else
    let d ← Op.descriptor ag a
    Op.descCheck ag a rightW d
    let w ← Op.locate ag a d false
    Op.need (!s.ownRedAt ag w a.n)
    Op.placeStore ag a d w v mask

/-- A store of every byte. -/
def Op.store (ag : Agent) (a : Acc) (v : Nat) : Op Unit := Op.storeMasked ag a v (2 ^ a.n - 1)

/-- A core access of `n` bytes, a power of two. -/
def coreAcc (ref : Word) (n kind : Nat) : Acc := ⟨ref, n, sizeCode n, kind, 0⟩

end Sys2Proof.Machine
end

