-- ==== Sys2Proof/Machine/Tasks.lean ====
section
/-! DEFINITION. Task control blocks as the hardware reaches them: appending and linking (R78), word 0x20 (R83), error
records (R39), and a task stopped for good (R92, R363, R400). -/

namespace Sys2Proof.Machine

/-! ### Messages to the host, and the start state -/

/-- A message of an MSI-X vector (R453), whatever the table holds (log entry 77). -/
def State.msix (s : State) (v : Nat) : State := { s with pkg := { s.pkg with msix := s.pkg.msix ++ [v] } }

/-- A new start state, of which the host hears (R453, R459). -/
def State.setStart (s : State) (st : StartState) : State :=
  if s.pkg.start = st then s else { s with pkg := { s.pkg with start := st } }.msix 0

/-- The start state that the dies make (R460, R461): full service when every die that is not fenced is in service, limited
service while some are, failed when none can be. -/
def State.settleStart (s : State) : State :=
  if s.pkg.start = .starting || s.pkg.start = .limited then
    let dies := List.range 8
    if dies.all fun d => s.pkg.fence.toNat / 2 ^ (2 * d) % 4 ≠ 0 then s.setStart .failed
    else if dies.all fun d => (s.die d).ready || s.pkg.fence.toNat / 2 ^ (2 * d) % 4 ≠ 0 then s.setStart .full
    else if dies.any fun d => (s.die d).ready then s.setStart .limited
    else s
  else s

/-! ### The hardware's own accesses to objects -/

/-- What the hardware finds at a reference through the object table of `queue`: the descriptor, the byte of the object, its bank
address (of class 3 its host address), and whether the frame was bound to a package that has been reset since (R347). -/
structure HwPlace where
  queue : Nat
  handle : Nat
  desc : Desc
  off : Nat
  bank : Nat
  stale : Bool
  deriving DecidableEq, Repr

/-- Whether the place lies in the host's memory (R250). -/
def HwPlace.host (p : HwPlace) : Bool := p.desc.cls = 3

/-- As an accessor of the bank: there is no receiving agent, so the record goes to the die that owns the tier (R424). -/
def HwPlace.reader (p : HwPlace) : BankReader := ⟨bankOwner p.bank, 0, p.queue, p.handle, p.desc⟩

/-- The cause and reason for which a place cannot be reached, if it cannot: a stack whose path is lost (R342), a LOST line
(R343), a package that is DOWN or has been reset (R347), a host link that is down (R455). -/
def State.placeGone (s : State) (p : HwPlace) : Option (Nat × Nat) :=
  let package := p.bank / 2 ^ 40
  let e := s.dirEntry (p.bank / 128)
  if p.host then (if s.pkg.hostUp then none else some (cREMOTE, 7))
  else if p.stale then some (cREMOTE, 2)
  else if s.reach package = 3 then some (cREMOTE, 3)
  else if package = s.pkg.address.toNat && s.fenceLevel (p.bank / 2 ^ 36 % 16 / 2) = 2 then some (cLOST, 2)
  else if e.state = .lost then some (cLOST, e.reason)
  else none

/-- The hardware's own access waits for a frame: it is asked for with a request of kind 4 (R263). -/
def Op.askFrame {α : Type} (q : Nat) (ref : Word) (d : Desc) : Op α := do
  let s ← get
  let ag : Agent := ⟨⟨0, 0, 0⟩, 0, 0, q, true, false, 5, true, false, [], false, false, 0⟩
  set (s.requestResidency ag ref d.addr 4 0)
  Op.block

/-- The bank address of `n` bytes at a reference through the object table of queue `q`, with rights `need`; `none`
where the reference does not resolve. A frame that is not resident or not covered is asked for, and the event waits (R263); a
pinned object's is not (R30). While the package of the frame is UNREACHABLE the access waits (R347): R347 gives an access 10 ms and
then a trap, and R191 has no trap for DEPDEC's reference, so the model lets such a step wait without end, and a place
on a package that is DOWN or was reset answers as a reference that does not resolve, code 5 of R193 (DESIGN CHOICE, log entry 88). -/
def Op.hwPlace (q : Nat) (ref : Word) (n need : Nat) : Op (Option HwPlace) := do
  let s ← get
  let h := refHandle ref
  if h < 16 || (s.queue q).entries.toNat ≤ h then pure none
  else
    let (w0, _, _, w3, d) := s.tableDesc q h
    if d.rights = 0 || !s.descValid q w0 w3 d || !d.has need || d.length < refOffset ref + n then pure none
    else match s.unc.priv.walk d.extents (refOffset ref / 65536) with
      | .entry fe =>
        let w := s.unc.priv.word fe
        if !entryValid d w (s.unc.priv.word (fe + 8)) then pure none
        else if w.bits 63 62 = 1 then
          match entryPlace w (refOffset ref) with
          | .bank b =>
            Op.need (s.reach (b / 2 ^ 40) ≠ 1)
            pure (some ⟨q, h, d, refOffset ref, b, s.staleFrame fe w⟩)
          | .host b => pure (some ⟨q, h, d, refOffset ref, b, false⟩)
          | _ => pure none
        else if d.has rightP then pure none
        else if w.bits 63 62 = 2 then Op.stall
        else Op.askFrame q ref d
      | .uncovered => if d.has rightP then pure none else Op.askFrame q ref d
      | .invalid => pure none

/-- The requests of another state that stand though what made them does not: to the residency service, to the directory and to
the homes of proxy lines. -/
def State.withRequestsOf (s t : State) : State :=
  let asks (m : FabricMsg) : Bool := match m.msg with
    | .request _ => true
    | _ => false
  { s with
    dies := Vector.ofFn fun i => { s.dies[i] with residency := t.dies[i].residency }
    unc := { s.unc with
      dirWaiting := t.unc.dirWaiting
      proxyWants := t.unc.proxyWants
      fabricOut := s.unc.fabricOut ++ (t.unc.fabricOut.drop s.unc.fabricOut.length).filter asks } }

/-- An operation as a whole: where it has to wait, nothing of it stands but the residency requests that it sent. -/
def Op.whole {α : Type} (op : Op α) : Op α := fun s =>
  match op s with
  | .error (.block t) => .error (.block (s.withRequestsOf t))
  | r => r

/-- The cluster's line that is the latest of a place's: its owner's in this package (R335). -/
def State.ownerLine (s : State) (tag : Nat) : Option CacheLine :=
  let e := s.dirEntry tag
  if e.hasOwner && !e.remote then s.findLine e.owner tag else none

/-- The latest bytes of a line: the owner's, or the bank's (R335). -/
def State.coherentValue (s : State) (addr n : Nat) : Nat :=
  match s.ownerLine (addr / 128) with
  | some l => lineGet l.data (addr % 128) n
  | none => s.unc.hbm.value addr n

/-- The latest bytes of a place as an 8-byte step at sys scope finds them (R83, R336): the line is not BUSY, and one that
another package owns, or that is homed elsewhere without rights here, is called in first (R338). Such a step waits while a
takeover is under way (R344). -/
def Op.hwLatest (p : HwPlace) (n : Nat) : Op Nat := do
  let s ← get
  let tag := p.bank / 128
  let e := s.dirEntry tag
  if p.desc.cls ≠ 0 then
    Op.need (!s.dirHeld tag)
    if e.state = .busy || (e.hasOwner && e.remote) || (s.isProxy tag && e.lacks false) then
      discard (Op.dirRequest .bank true tag)
      modify fun s => s.bankRelease tag
  let s ← get
  pure (s.coherentValue p.bank n)

/-- The sectors of `n` bytes of a line of a cluster cache that differ from their check bits, with what the codes find (R415). -/
def CacheLine.flippedSectors (l : CacheLine) (p : HwPlace) (n : Nat) : List (Nat × Checked) :=
  let o := p.bank % 128
  ((List.range 4).filter fun i => o / 32 ≤ i && 32 * i < o + n).filterMap fun i =>
    let mask := sectorFlips l.copyFlips 0 i
    if mask = 0 then none
    else some (i, checkSector p.desc.layout p.desc.profile (p.off + 32 * i - o) (lineGet l.data (32 * i) 32 ^^^ mask) mask)

/-- The copy of a line that its owner holds, verified for `n` bytes as a bank is (R414 to R421). -/
def Op.verifyOwner (p : HwPlace) (l : CacheLine) (n : Nat) : Op (Option (Nat × Nat)) := do
  let s ← get
  let r := p.reader
  let sev (x : Nat × Checked) : Nat := x.2.severity (sectorStructural p.desc.layout p.desc.profile || p.desc.cls ≠ 0)
  let log (s : State) (x : Nat × Checked) (sev action : Nat) : State :=
    s.logError r.die sev 2 action 0 p.desc.tensor.toNat (Word.ofN (p.handle * 2 ^ 40 + (p.off + 32 * x.1 - p.bank % 128)))
      x.2.parity p.desc.layout x.2.strong 0 p.queue
  let found := l.flippedSectors p n
  match found.find? fun x => sev x ≠ 0 with
  | some x =>
    set ((log s x (sev x) 2).invalidateBad (.cc l.cluster l.tag))
    pure (some (4 * l.tag + x.1, sev x))
  | none =>
    Op.forEach (fun x => if x.2.strong = 1 then modify fun s =>
      let s := if (s.die r.die).telemetry.lc then log s x 0 0 else s
      (s.rewrite (.cc l.cluster l.tag) x.1 (2 ^ 256 - 1)).countCorrected r.die 2 else pure ()) found
    pure none

/-- The sectors of `n` bytes that the hardware itself reads, verified (R414, R420): the bad-byte reference (R480) of the
first one found uncorrectable. -/
def Op.hwVerify (p : HwPlace) (ref : Word) (n : Nat) : Op (Option Word) := do
  if p.host then return none
  discard (Op.hwLatest p n)
  let s ← get
  let bad ← match s.ownerLine (p.bank / 128) with
    | some l => Op.verifyOwner p l n
    | none => Op.verifyBank p.reader p.off p.bank n 2
  pure (bad.map fun x => badByte ref p.bank (32 * x.1))

/-- The bytes that a verified read of the hardware finds, as the codes deliver them; `none` where an error is uncorrectable. -/
def Op.hwGet (p : HwPlace) (ref : Word) (n : Nat) : Op (Option Nat) := do
  let s ← get
  if p.host then return some (s.unc.host.value p.bank n)
  if (← Op.hwVerify p ref n).isSome then return none
  let s ← get
  match s.ownerLine (p.bank / 128) with
  | some l =>
    let data := (l.flippedSectors p n).foldl (init := l.data) fun d x => lineSet d (32 * x.1) 32 x.2.data
    return some (lineGet data (p.bank % 128) n)
  | none => return some ((s.settled p.reader p.off p.bank n).unc.hbm.value p.bank n)

/-- A write by the hardware at a bank: a line of class 1 or 2 is obtained in M for the one operation and given up
(R335). A write of part of a sector verifies it first (R414). Nothing is written where the place is out of reach, or where the
sector is uncorrectable, for which no rule gives an outcome (log entry 83). -/
def Op.hwWrite (p : HwPlace) (n v : Nat) : Op Unit := do
  let s ← get
  if (s.placeGone p).isSome then return ()
  if p.host then
    set { s with unc := { s.unc with host := s.unc.host.write p.bank (bytesOf n v) } }
    return ()
  let tag := p.bank / 128
  let write : Op Unit := do
    match (← Op.verifyBank p.reader p.off p.bank n 2) with
    | some _ => pure ()
    | none => modify fun s =>
      (s.settled p.reader p.off p.bank n).bankWrite tag (byteMask (p.bank % 128) n) (lineSet 0 (p.bank % 128) n v)
  if p.desc.cls = 0 then write
  else match (← Op.dirRequest .bank true tag) with
    | some _ => pure ()
    | none =>
      write
      modify fun s => s.bankRelease tag

/-- A word read by the hardware; `none` where the reference does not resolve, the place is out of reach, or its sector is
uncorrectable. -/
def Op.hwRead (q : Nat) (ref : Word) (need : Nat) : Op (Option Word) := do
  match (← Op.hwPlace q ref 8 need) with
  | none => pure none
  | some p =>
    let s ← get
    if (s.placeGone p).isSome then pure none
    else return (← Op.hwGet p ref 8).map Word.ofN

/-- A word written by the hardware, where the reference resolves. Where it does not, or its object lacks W, no rule gives an outcome
and the model writes nothing (log entry 83). -/
def Op.hwPut (q : Nat) (ref : Word) (v : Word) : Op Unit := do
  match (← Op.hwPlace q ref 8 rightW) with
  | none => pure ()
  | some p => Op.hwWrite p 8 v.toNat

/-! ### TCB words -/

/-- A valid TCB location through the object table of queue `q` (R78). -/
def Op.validTcb (q : Nat) (t : Word) : Op Bool := do
  if t.toNat % 128 ≠ 0 then pure false
  else match (← Op.hwPlace q t 256 (rightR + rightW)) with
    | none => pure false
    | some p =>
      let s ← get
      pure (p.desc.cls = 1 && (s.placeGone p).isNone)

/-- A TCB word of a valid location. -/
def Op.tcbWord (q : Nat) (t : Word) (off : Nat) : Op Word := do
  return ((← Op.hwRead q (t + Word.ofN off) rightR).getD 0)

/-- State codes (R36). -/
def tIDLE : Nat := 0
def tWAITING : Nat := 1
def tREADY : Nat := 2
def tRUNNING : Nat := 3
def tRETIRED : Nat := 4
def tFAILED : Nat := 5
def tCANCELLED : Nat := 6

/-- Word 0x20 from state and count (R35). -/
def stateWord (st count : Nat) : Word := Word.ofN (st * 2 ^ 32 + count)

/-- State and count of a TCB as the hardware's state machine has them: those that its last step left, whatever software has
written since (R36); before its first step, those that software built (log entry 59). -/
def Op.tcbState (q : Nat) (t : Word) : Op (Nat × Nat) := do
  let found ← Op.hwPlace q t 256 rightR
  let s ← get
  match found.bind fun p => s.disp.tcbs.find? fun r => r.place = p.bank with
  | some r => pure (r.state, r.count)
  | none =>
    let w ← Op.tcbWord q t 0x20
    pure (w.bits 63 32, w.bits 31 0)

/-- Where a TCB lies, as far as that can be told at once. -/
def State.tcbPlace (s : State) (q : Nat) (t : Word) : Option Nat :=
  match (Op.hwPlace q t 256 rightR) s with
  | .ok (some p, _) => some p.bank
  | _ => none

/-- Whether the TCB at a place is that of a task that has been admitted and lives, pre-empted ones included. -/
def State.admittedAt (s : State) (place : Nat) : Bool :=
  s.disp.tasks.any fun t => t.binds ≠ [] && s.tcbPlace t.queue.toNat t.tcb = some place

/-- A step of a TCB's state machine: word 0x20 is written over (R36, R83). -/
def Op.putState (q : Nat) (t : Word) (st count : Nat) : Op Unit := do
  match (← Op.hwPlace q t 256 rightW) with
  | none => pure ()
  | some p =>
    Op.hwPut q (t + 0x20) (stateWord st count)
    modify fun s => { s with disp := { s.disp with
      tcbs := ⟨p.bank, st, count⟩ :: s.disp.tcbs.filter fun r => r.place ≠ p.bank } }

/-- A queue's chain record changed (R444). -/
def State.mapChain (s : State) (q : Nat) (f : Chain → Chain) : State :=
  if h : q < 64 then { s with disp := { s.disp with chains := s.disp.chains.set q (f s.disp.chains[q]) } } else s

/-- The exchange on a header's tail word takes the line in M, which invalidates the dispatcher's copy and so wakes it (R79): a
core's cluster keeps the line, the package's own hardware gives it up after the one operation. A header line that is LOST
traps a core's append (R341, R343); another agent's waits until firmware has cleared it (log entry 18). -/
def Op.takeHeader (who : Requester) (t : Word) (q : Nat) : Op Unit := do
  let s ← get
  let tag := s.headerTag q
  match (← Op.dirRequest who true tag) with
  | none => match who with
    | .bank => modify fun s => s.bankRelease tag
    | _ => pure ()
  | some r => match who with
    | .cluster _ => Op.trap cLOST t (Word.ofN r)
    | _ => Op.stall

/-- The link of R78, with t resolved through the appending agent's table and the old tail through its queue's: the tail
exchanged, the old tail's link or the head written, the append counted; the next link position is assigned (R445). -/
def Op.link (who : Requester) (table : Nat) (t : Word) (q : Nat) : Op Unit := do
  Op.hwPut table t 0
  Op.takeHeader who t q
  let s ← get
  let old := (s.queue q).tail
  if old ≠ 0 then Op.hwPut q old t
  modify fun s =>
    let s := s.mapQueue q fun x => { x with
      tail := t
      head := if old = 0 then t else x.head
      appends := x.appends + 1 }
    s.mapChain q fun c => { c with linked := c.linked + 1, positions := c.positions ++ [(t, c.linked.toNat + 1)] }

/-- append(t, q) of R78. `who` takes the header line; `table` is the queue whose object table resolves t; `from_` the launching
queue, if the agent is a task. -/
def Op.append (who : Requester) (table : Nat) (from_ : Option Nat) (t : Word) (q : Nat) : Op Nat := do
  if 64 ≤ q then pure 3
  else if !(← Op.validTcb table t) then pure 5
  else
    let s ← get
    let refusedBy := match from_ with
      | some n => !(s.queue q).launchers.getLsbD n
      | none => false
    if refusedBy then pure 4
    else
      let (st, n) ← Op.tcbState table t
      if st ≠ tIDLE then pure 2
      else if n ≠ 0 then
        Op.putState table t tWAITING n
        pure 1
      else
        Op.putState table t tREADY 0
        Op.link who table t q
        pure 0

/-- The words 0x08 to 0x3F of an error record (R39). -/
structure ErrWords where
  ecause : Word
  eaddr : Word
  einfo : Word
  who : Word
  step : Word
  superstep : Word
  deriving DecidableEq, Repr

def Op.writeErrorRecord (q : Nat) (rec0 : Word) (e : ErrWords) : Op Unit := do
  Op.hwPut q (rec0 + 0x08) e.ecause
  Op.hwPut q (rec0 + 0x10) e.eaddr
  Op.hwPut q (rec0 + 0x18) e.einfo
  Op.hwPut q (rec0 + 0x20) e.who
  Op.hwPut q (rec0 + 0x28) e.step
  Op.hwPut q (rec0 + 0x30) e.superstep
  Op.hwPut q (rec0 + 0x38) 0

/-- One decrement of the predecessor count of `t` (R83), with the error records and error successors it leads to: 0 the
count reached 0, 1 still above 0, 2 RUNNING or later, 3 the count was already 0, 5 not a valid location. `fuel` bounds the
chain of error successors, each of which becomes FAILED once. The table has no row for a READY TCB with a count above 0, which
only words that software wrote itself can show: the model lowers the count, answers 0 where it reaches 0, and links nothing; an
invalid state code, which only such words show either, counts as RUNNING or later (log entry 59). A TCB that is READY because its
task was pre-empted has been admitted, and so the rows of RUNNING or later are the ones that hold for it (log entry 92). -/
def Op.decrement (who : Requester) : Nat → Nat → Word → Op Nat
  | 0, _, _ => pure 2
  | fuel + 1, table, t => do
    if !(← Op.validTcb table t) then pure 5
    else
      let (st, n) ← Op.tcbState table t
      let fail (cause einfo : Nat) (eaddr : Word) : Op Unit := do
        let rec0 ← Op.tcbWord table t 0x70
        if rec0 ≠ 0 then
          Op.writeErrorRecord table rec0 ⟨Word.ofN cause, eaddr, Word.ofN einfo, 0, 0, 0⟩
          match (← Op.hwRead table rec0 rightR) with
          | some succ => if succ ≠ 0 then discard (Op.decrement who fuel table succ)
          | none => pure ()
      let s ← get
      let admitted := (s.tcbPlace table t).any s.admittedAt
      if (st = tIDLE || st = tWAITING || st = tREADY) && !admitted then
        if n = 0 then
          Op.putState table t tFAILED 0
          fail cSTRUCT 0x20 t
          pure 3
        else if n = 1 && st ≠ tREADY then
          let q := (← Op.tcbWord table t 0x30).bits 47 32
          if 64 ≤ q then
            Op.putState table t tFAILED 0
            fail cILL 0x30 0
          else
            Op.putState table t tREADY 0
            Op.link who table t q
          pure 0
        else
          Op.putState table t (if st = tREADY then tREADY else tWAITING) (n - 1)
          pure (if n = 1 then 0 else 1)
      else if n = 0 then pure 3
      else
        Op.putState table t st (n - 1)
        pure 2

/-- A bound that no chain of error successors passes: 2^57 references are multiples of 128, and each TCB becomes FAILED once. -/
def errorChainBound : Nat := 2 ^ 57

/-- The error record of a task written and its error successor decremented (R39). -/
def Op.errorOutcome (q : Nat) (rec0 : Word) (e : ErrWords) : Op Unit := do
  if rec0 ≠ 0 then
    Op.writeErrorRecord q rec0 e
    match (← Op.hwRead q rec0 rightR) with
    | some succ => if succ ≠ 0 then discard (Op.decrement .bank errorChainBound q succ)
    | none => pure ()

/-! ### Barriers of a task, and a task stopped for good -/

/-- Whether a task is RUNNING: a pre-empted one is until its last core has been saved (R89). -/
def Task.isRunning (t : Task) : Bool := t.phase = .running || (t.phase = .preempted && t.binds.any (·.valid))

/-- The barrier record of a logical core's block on a channel (R349). -/
def Barrier.isOf (b : Barrier) (c : LCore) (n : Nat) : Bool :=
  b.task = c.id.task && b.copy = c.id.copy && b.chan.toNat = n &&
  b.group = (c.regs.dmem.toList.getD n 0).bits 31 16

def State.findBarrier (s : State) (c : LCore) (n : Nat) : Option Barrier := s.unc.barriers.find? fun b => b.isOf c n

/-- Whether channel n is used by the core's task: DMEMn.EN (R101). -/
def LCore.chanOn (c : LCore) (n : Nat) : Bool := (c.regs.dmem.toList.getD n 0).getLsbD 63

/-- The block that a triggering core rolls back: the record of its snapshot channel, or the core alone (R429). -/
def State.rollbackBlock (s : State) (c : LCore) : Option Barrier :=
  match c.snapChan with
  | some n => s.findBarrier c n.toNat
  | none => none

/-- The LCOREs of the members that are restored: those that had not departed in the record kept; all of them where none is
kept. -/
def rollbackMembers (c : LCore) (b : Option Barrier) : List Nat :=
  match b with
  | none => [c.id.lcore]
  | some b => match b.kept with
    | some p => (p.members.filter fun m => !m.departed).map (·.lcore)
    | none => b.members.map (·.lcore)

/-- The copies of a block that take the steps: both under TWIN (R430). -/
def Task.copyList (t : Task) : List Nat := if t.twin then [0, 1] else [0]

/-- The members of the block of the snapshot channel that a logical core lies in, in every copy (R429). -/
def State.blockIds (s : State) (t : Task) (id : CoreId) : List CoreId :=
  match s.findCore id with
  | none => []
  | some c => t.copyList.flatMap fun k => (rollbackMembers c (s.rollbackBlock c)).map fun l => ⟨t.ref, l, k⟩

/-- A break: the first reason stands (R361, R363). -/
def Barrier.break_ (b : Barrier) (reason : Nat) : Barrier :=
  if b.broken then b else { b with broken := true, reason := BitVec.ofNat 8 reason }

/-- The superstep count of a logical core for an error record (R39). -/
def State.superstep (s : State) (c : LCore) : Word :=
  let chan : Option Nat := match c.snapChan with
    | some n => some n.toNat
    | none => (List.range 4).find? fun n => c.chanOn n
  match chan with
  | some n => match s.findBarrier c n with
    | some b => Word.ofN b.gp.toNat
    | none => 0
  | none => 0

/-- The superstep count where the error record's LCORE word is 0 and no context trapped: logical core 0's (R39). -/
def State.superstepOf (s : State) (ref : Word) : Word :=
  match s.findCore ⟨ref, 0, 0⟩ with
  | some c => s.superstep c
  | none => 0

/-- Whether a context has a copy, matrix or collective command or a mail send that has not ended (R327, R176). -/
def LCore.enginePending (c : LCore) (n : Nat) : Bool :=
  c.mx.queue.any (fun m => m.ctx = n) ||
  (match c.mx.running with | some r => r.cmd.ctx = n | none => false) ||
  c.copies.queue.any (fun m => m.ctx = n) || c.copies.flight.any (fun m => m.cmd.ctx = n) ||
  c.coll.any (fun m => m.ctx = n) || c.slots.toList.any (fun m => m.isOpen && m.ctx = n)

/-- A context stopped for good: it has no PC, and nothing of it is outstanding (R92, steps 2 and 3). -/
def Ctx.kill (c : Ctx) : Ctx :=
  { c with live := false, pfx := none, wait := none, pendG := 0, pendV := 0, reports := [], hostGot := [],
           farGot := none, refused := none, remoteBad := none, progress := none, stopReq := false, twinMsg := none, ringRec := none,
           arriving := [], sfuOut := 0 }

/-- A logical core whose contexts are stopped for good: its queued commands, copies and calls are abandoned without
tokens; its rings and mail ring are broken (R364). A copy still in flight here moves no further row (log entry 9). -/
def LCore.kill (c : LCore) : LCore :=
  let c := c.mapCtxs Ctx.kill
  { c with
    mx := { c.mx with queue := [], running := none, skipFor := none }
    copies := ⟨[], []⟩
    coll := []
    raise := none
    rings := c.rings.map fun r => if r.count = 0 then r else { r with broken := true }
    mail := { c.mail with broken := c.mail.configured }
    rollbackDue := none
    slots := c.slots.map fun x => { x with isOpen := false, ended := true, received := [] }
    stopped := true
    mailWaits := [] }

/-- Coherent lines that the L1s of a slot hold are written back and released to the directory, and dirty scoped lines of
its cluster are written back (R92, step 5). -/
def State.flushSlot (s : State) (slot : Nat) : State :=
  let mine := s.unc.lines.filter fun l => l.l1s.contains slot && l.state ≠ .scoped
  let s := mine.foldl (init := s) fun s l => s.giveUp l.cluster l.tag
  s.releaseCluster (clusterOf slot)

/-- The special-function requests of killed cores leave the queues; a started one finishes and its result is discarded
(R219). -/
def SfuUnit.drop (u : SfuUnit) (gone : CoreId → Bool) : SfuUnit :=
  { u with queue := u.queue.filter fun r => !gone r.core, started := u.started.filter fun r => !gone r.core }

/-- What is under way of a task's collective calls is discarded (R389). -/
def State.dropPackets (s : State) (ref : Word) : State :=
  let s := { s with unc := { s.unc with
    packets := s.unc.packets.filter fun p => p.dest.task ≠ ref
    collAborts := s.unc.collAborts.filter fun a => a.dest.task ≠ ref } }
  (List.range 8).foldl (init := s) fun s d =>
    s.mapDie d fun x => { x with overflow := x.overflow.filter fun p => p.dest.task ≠ ref }

/-- The broken marks of a logical core that is not resident, set in its image: every ring of its core record that is configured, and
the mail ring (R364, R408). -/
def State.breakImage (s : State) (c : LCore) : State :=
  match (if c.resident then none else c.imageArea) with
  | none => s
  | some k =>
    let at_ (o : Nat) : Nat := imageBase k + 0x6000 + o
    let rings := ((List.range 8).filter fun i => (c.rings.toList[i]?).any fun r => r.count ≠ 0).map fun i => at_ (0x10 + 16 * i)
    let marks := if c.mail.configured then at_ 0x90 :: rings else rings
    let put (p : Memory) (a : Nat) : Memory := p.setWord a (p.word a ||| 0x10000000)
    { s with unc := { s.unc with priv := marks.foldl put s.unc.priv } }

/-- Every context of a task stopped for good: steps 2 to 6 of R92. Registers and local memory of its logical cores go when the task is
released; what of step 6 lies outside them, their object caches, is cleared here. -/
def State.killTask (s : State) (ref : Word) : State :=
  let mine := s.cores.filter fun c => c.id.task = ref
  let slots := mine.map (·.slot)
  let s := s.dropPackets ref
  let s := s.mapCores fun c => if c.id.task = ref then c.kill else c
  let s := slots.foldl State.flushSlot s
  let s := mine.foldl State.breakImage s
  { s with
    unc := { s.unc with
      objectCache := s.unc.objectCache.filter fun e => !(mine.any fun c => c.slot = e.slot && c.regs.queue = e.queue)
      barriers := s.unc.barriers.map fun b => if b.task = ref then b.break_ 1 else b
      sfus := s.unc.sfus.map fun u => u.drop fun id => id.task = ref
      bankOps := s.unc.bankOps.filter fun o => !(o.core.task = ref && o.far) } }

/-- A running task becomes FAILED (R39, R400): its contexts stop, its error record is written, its error successor
decremented. Retirement then takes the steps of R441. -/
def Op.failTask (ref : Word) (e : ErrWords) : Op Unit := do
  let s ← get
  match s.findTask ref with
  | none => pure ()
  | some t =>
    if t.phase = .failed || t.phase = .cancelled then pure ()
    else
      set ((s.killTask ref).mapTask ref fun t => { t with phase := .failed })
      let q := t.queue.toNat
      let (_, n) ← Op.tcbState q t.tcb
      Op.putState q t.tcb tFAILED n
      Op.errorOutcome q (t.word 0x70) { e with step := t.word 0x40 }

end Sys2Proof.Machine
end

