-- ==== Sys2Proof/Machine/Ops.lean ====
section
/-! DEFINITION. Executing one word of a context: the checks every word shares (R130, R132), lock-step in a gang (R156,
R157), taking a trap (R396 to R400) and returning from one (R182, R413); and running an event. -/

namespace Sys2Proof.Machine

/-! ### Traps -/

/-- EINFO format 2 (R397). -/
def wordInfo (rev : BitVec 8) (w : Nat) : Word := Word.ofN (2 * 2 ^ 62 + rev.toNat * 2 ^ 32 + w)

/-- The offset of the first word of the issue group in progress, or of the next one (R132). -/
def Ctx.groupStart (c : Ctx) : BitVec 21 :=
  match c.pfx with
  | some p => p.start
  | none => c.pc

/-- SVCLVL from its three bits (R188). -/
def svclvlOf (ti ps su : Bool) : Word := Word.ofN (ti.toNat * 4 + ps.toNat * 2 + su.toNat)

def Ctx.ti (c : Ctx) : Bool := c.sys.svclvl.getLsbD 2
def Ctx.ps (c : Ctx) : Bool := c.sys.svclvl.getLsbD 1

/-- The home mode of a queue's contexts (R395). -/
def State.homeMode (s : State) (q : Nat) : Bool := s.disp.supervisorMask.getLsbD q

/-- The home mode of the core in focus: the one its placement took from its queue's bit, and supervisor on a service core
(R395). -/
def State.homeHere (s : State) : Bool := 2048 ≤ s.core.slot || s.core.regs.home

/-- Whether an XFETCH enters at OVLH (R120). -/
def LCore.usesOverlay (core : LCore) (c : Ctx) (cause : Nat) : Bool :=
  cause = cXFETCH && c.sys.ovlh ≠ 0 && c.sys.ovlh.toNat < core.xbound.toNat && !c.ovlActive

/-- The Archaism routine of an OP, if its table entry is valid and names revision 1 (R412, R413): its entry offset. -/
def State.routine (s : State) (die op : Nat) : Option (BitVec 21) :=
  match NatMap.get (s.die die).archStore op with
  | some e => if e.getLsbD 31 && e.toNat / 2 ^ 16 % 256 = 1 && 0x40 ≤ e.toNat % 2 ^ 12
      then some (BitVec.ofNat 21 (e.toNat % 2 ^ 12 * 4)) else none
  | none => none

/-- The registers that trap entry records, and nothing else (R396, R398). -/
def Ctx.record (c : Ctx) (t : Trap) : Ctx :=
  { c with
    sys := { c.sys with
      epc := Word.ofN (c.groupStart.toNat % 2 ^ 20)
      ecause := Word.ofN t.cause.toNat
      eaddr := t.eaddr
      einfo := t.einfo }
    pfx := none
    wait := none
    byp := false
    hostGot := []
    farGot := none
    refused := none
    remoteBad := none
    progress := none
    ringRec := none
    twinMsg := none
    reports := match t.report with
      | some r => c.reports.erase r
      | none => c.reports }

/-- Where trap entry goes (R396): the new PC, whether it is OVLH, and whether an Archaism routine is entered. -/
def State.trapTarget (s : State) (t : Trap) : BitVec 21 × Bool × Bool :=
  let c := s.ctx
  let cause := t.cause.toNat
  if s.core.usesOverlay c cause then (BitVec.ofNat 21 c.sys.ovlh.toNat, true, false)
  else match (if cause = cARCH then s.routine (dieOf s.core.slot) (t.einfo.bits 31 26) else none) with
    | some r => if t.einfo.bits 39 32 = 1 then (r, false, true) else (BitVec.ofNat 21 c.sys.trapv.toNat, false, false)
    | none => (BitVec.ofNat 21 c.sys.trapv.toNat, false, false)

/-- Whether a trap ends the task (R400). -/
def State.terminal (s : State) (t : Trap) : Bool :=
  let c := s.ctx
  let cause := t.cause.toNat
  let event := cause = cBROKEN || cause = cMAIL || cause = cHANDBACK
  let (_, ovl, arch) := s.trapTarget t
  cause = cSTRUCT || cause = cLOST ||
  (c.sys.trapv.bits 19 2 = 0 && !ovl && !arch) ||
  (c.ti && !event && !(cause = cXFETCH && c.ovlActive))

/-- Status-0x13 skipping ends when the matrix report has been taken (R243). -/
def LCore.endSkip (core : LCore) (r : Option Report) : LCore :=
  match r with
  | some x => match x.kind with
    | .engine _ true | .passed _ true =>
      if core.mx.skipFor = some core.ctx.num then { core with mx := { core.mx with skipFor := none } } else core
    | _ => core
  | none => core

/-- Trap entry of the context in focus at a handler (R396). -/
def State.enterHandler (s : State) (t : Trap) : State :=
  let (pc, ovl, arch) := s.trapTarget t
  let c := s.ctx
  -- a FUSE that waits and whose context traps is issued again later
  let core := { s.core with
    fuseAt := if c.num = 0 then none else s.core.fuseAt
    mailWaits := s.core.mailWaits.filter fun n => n ≠ c.num
    ctx := { (c.record t) with
      pc := pc
      ovlActive := c.ovlActive || ovl
      ar := c.ar || arch
      sys := { (c.record t).sys with svclvl := svclvlOf true c.supervisor (s.homeHere || arch) } } }
  { s with core := { core.endSkip t.report with last := c.num } }

/-- The telemetry record of the error behind a trap, and the end of the copy it was found in (R421, R426). -/
def State.logTrap (s : State) (t : Trap) : State :=
  let s := match t.log with
    | some (d, w0, w1, w2) => s.telemetry d w0 w1 w2
    | none => s
  match t.gone with
  | some h => s.invalidateBad h
  | none => s

/-- The error record's words for a trap of the context in focus (R39). -/
def State.trapWords (s : State) (t : Trap) : ErrWords :=
  ⟨Word.ofN t.cause.toNat, t.eaddr, t.einfo, Word.ofN (s.ctx.num * 2 ^ 32 + s.core.regs.lcore), s.core.regs.step,
    s.superstep s.core⟩

/-- The task of the logical core in focus has SNAP (R35). -/
def State.snapTask (s : State) : Bool :=
  match s.findTask s.core.id.task with
  | some t => t.snap
  | none => false

/-- TAKING AN EXCEPTION (R396 to R400): entry at the handler; or, where the trap is terminal, the registers are recorded,
the context stops, and the task rolls back (STRUCT with SNAP) or becomes FAILED. -/
def State.takeTrap (s : State) (t : Trap) : State :=
  let s := { s.logTrap t with stalled := false }
  if s.terminal t then
    let r := s.setCtx (s.ctx.record t)
    if t.cause.toNat = cSTRUCT && s.snapTask then
      { r with core := { r.core with ctx := { r.ctx with wait := some .rollback }, rollbackDue := some .struct, rollbackBy := s.ctx.num } }
    else match Op.failTask s.core.id.task (s.trapWords t) r with
      | .ok (_, s') => s'
      | .error (.block s') => s.withRequestsOf s'
      | .error _ => { s with stalled := true }
  else s.enterHandler t

/-- An exception at a boundary, where no word has issued: the context that issued last stays (R153). -/
def State.takeTrapAt (s : State) (t : Trap) : State :=
  let u := s.takeTrap t
  { u with core := { u.core with last := s.core.last } }

/-- An event taken (R401): BY stands for the next group that issues (R413). -/
def State.takeEvent (s : State) (t : Trap) : State :=
  let u := s.takeTrapAt t
  u.setCtx { u.ctx with byp := s.ctx.byp }

/-- RETURNING FROM AN EXCEPTION (R182, R413): the PC and mode that ERET gives. -/
def Ctx.eret (c : Ctx) : Ctx :=
  { c with
    pc := BitVec.ofNat 21 c.sys.epc.toNat
    ovlActive := false
    ar := false
    byp := c.ar
    sys := { c.sys with svclvl := svclvlOf false c.ps (if c.supervisor then c.ps else false) } }

/-! ### One word -/

/-- How a word leaves the PC: to the next word, by a jump, by a conditional branch, or to the next word with a value on
which the members of a gang must agree (R157, R173). -/
inductive Exit
  | next
  | jump (t : BitVec 21)
  | branch (taken : Bool) (t : BitVec 21)
  | keyed (k : Word)
  /-- the PC and mode have been set by the word itself (ERET). -/
  | set
  deriving DecidableEq, Repr

/-- Whether the group that a word ends is ILL (R132, R133). -/
def Ctx.groupIll (c : Ctx) (i : Instr) : Bool :=
  match c.pfx with
  | none => false
  | some p => p.excess || (p.immx ≠ [] && !i.takesImmx) || i.isHint

/-- Whether a word raises ARCH (R412, R413). -/
def State.archListed (s : State) (i : Instr) : Bool :=
  !s.ctx.ar && !s.ctx.byp && s.core.archmap.getLsbD i.major

/-- The context after a word: its PC, and its group ended (R132, R413). -/
def Ctx.advance (c : Ctx) (f : Exit) : Ctx :=
  let c := { c with pfx := none, hostGot := [], farGot := none, refused := none, remoteBad := none, progress := none,
                    ringRec := none, twinMsg := none }
  match f with
  | .next | .keyed _ | .branch false _ => { c with pc := c.pc + 4, byp := false }
  | .jump t | .branch true t => { c with pc := t, byp := false }
  | .set => c

/-- The word has issued: the PC moves on and the core remembers the context (R153). -/
def State.finish (s : State) (f : Exit) : State :=
  { s with core := { s.core with ctx := s.ctx.advance f, last := s.ctx.num }, stalled := false }

/-- Whether the context in focus runs as a gang context: a fused gang of more than one member (R156). -/
def State.inGang (s : State) : Bool := s.core.fused && 1 < s.core.regs.gangsz

/-- The logical cores whose contexts issue together with the one in focus (R156). -/
def State.together (s : State) : List CoreId := if s.inGang then (s.gang s.core).map (·.id) else [s.core.id]

/-- Whether the context in focus waits, or in a gang the context of any member (R152, R156). -/
def State.waits (s : State) : Bool :=
  if s.inGang then (s.gang s.core).any fun c => (c.findCtx s.ctx.num).any fun x => x.wait.isSome else s.ctx.wait.isSome

/-- A context that waits in the middle of a group issues the whole group again (R134, R264). -/
def State.retreat (s : State) : State :=
  { s.setCtx { s.ctx with pc := s.ctx.groupStart, pfx := none } with stalled := false }

/-- A word that is not ready: nothing happens. Where other turns have made the last word of a group unready after its first
word, the group has not begun: it begins again when it is ready to its end (R152, R153). -/
def State.standStill (s : State) : State :=
  if s.ctx.pfx.isSome then
    let n := s.ctx.num
    if s.inGang then
      ((((s.gang s.core).map (·.id)).foldl (init := s) fun (s : State) id => (s.focus id n).retreat).focus s.core.id n)
    else s.retreat
  else { s with stalled := true }

/-- The trap of a word that is ILL at decode (R129, R397). -/
def State.illTrap (s : State) (w : Nat) : Trap :=
  ⟨BitVec.ofNat 8 cILL, Word.ofN s.ctx.pc.toNat, wordInfo s.ctx.revn w, none, none, none⟩

/-- The checks that come before a word's own: its group (ILL) and ARCH (R130). -/
def State.wordTrap (s : State) (i : Instr) : Option Trap :=
  if s.ctx.groupIll i then some (s.illTrap ((encode i).getD 0))
  else if s.archListed i then
    some ⟨BitVec.ofNat 8 cARCH, Word.ofN s.ctx.pc.toNat, wordInfo s.ctx.revn ((encode i).getD 0), none, none, none⟩
  else none

/-- The body of a word behind its checks. -/
def checked (i : Instr) (body : Op Exit) : Op Exit := fun s =>
  match s.wordTrap i with
  | some t => .error (.trap t)
  | none => body s

/-- A word of a context that is alone or in a gang that is split (R152). -/
def performSolo (i : Instr) (body : Op Exit) (s : State) : State :=
  match checked i body s with
  | .ok (f, s') => s'.finish f
  | .error (.trap t) => s.takeTrap t
  | .error .stall => s.standStill
  | .error (.block s') => s'.retreat

/-- A GANG trap (R157). -/
def gangTrap (bits : Nat) : Trap := ⟨BitVec.ofNat 8 cGANG, 0, Word.ofN bits, none, none, none⟩

/-- A member's bit in a GANG trap for its outcome and the leader's (R157). -/
def Exit.gangBit (lead f : Exit) : Bool :=
  match f with
  | .branch taken _ => taken
  | _ => f = lead

def bitsOf (l : List Bool) : Nat :=
  match l with
  | [] => 0
  | b :: bs => b.toNat + 2 * bitsOf bs

/-- The trap entry of a gang context some of whose members trap, given by their order: the others record GANG (R157). -/
def State.gangTraps (s : State) (traps : List (Option Trap)) : State :=
  let n := s.ctx.num
  let ids := (s.gang s.core).map (·.id)
  let bits := bitsOf (traps.map (·.isSome))
  ((ids.zip traps).foldl (init := s) fun s (p : CoreId × Option Trap) =>
    (s.focus p.1 n).takeTrap (p.2.getD (gangTrap bits))).focus s.core.id n

/-- A word in every member of a fused gang (R156, R157). It issues only when it is ready in every member; a member that must
wait makes the gang context wait, and the waits of all members are entered together. -/
def performGang (i : Instr) (body : Op Exit) (s : State) : State :=
  let n := s.ctx.num
  let me := s.core.id
  let ids := (s.gang s.core).map (·.id)
  let outs := ids.map fun id => checked i body (s.focus id n)
  let traps := outs.map fun o => match o with
    | .error (.trap t) => some t
    | _ => none
  let waits := outs.any fun o => match o with | .error (.block _) => true | _ => false
  -- a member whose frame was refused traps only when every member's first request has ended (R265)
  let refused := traps.all fun t => t.all fun t => t.cause.toNat = cFRAME
  if outs.any fun o => match o with | .error .stall => true | _ => false then s.standStill
  else if traps.any (·.isSome) && !(waits && refused) then s.gangTraps traps
  else if waits then
    let s := ids.foldl (init := s) fun (s : State) id => match checked i body (s.focus id n) with
      | .error (.block s') => s'.retreat
      | _ => (s.focus id n).retreat
    s.focus me n
  else
    let flows := outs.filterMap fun o => match o with
      | .ok (f, _) => some f
      | _ => none
    let lead := flows.headD .next
    if flows.all (· = lead) then
      let go := ids.foldl (init := some s) fun (acc : Option State) id => match acc with
        | none => none
        | some s => match checked i body (s.focus id n) with
          | .ok (f, s') => some (s'.finish f)
          | .error _ => none
      match go with
      | some s' => s'.focus me n
      | none => { s with stalled := true }
    else
      let bits := bitsOf (flows.map (Exit.gangBit lead))
      (ids.foldl (init := s) fun (s : State) id => (s.focus id n).takeTrap (gangTrap bits)).focus me n

/-- PERFORM a word: in the context in focus, or in every member of its fused gang. A context that is not live, or that
waits, does not issue (R152). -/
def perform (i : Instr) (body : Op Exit) (s : State) : Host.Outcome State Fault Refusal :=
  if !s.ctx.live then .fault .noContext
  else if s.waits then .next { s with stalled := true }
  else if s.inGang then .next (performGang i body s)
  else .next (performSolo i body s)

/-- A word that goes on to the next. -/
def performNext (i : Instr) (body : Op Unit) (s : State) : Host.Outcome State Fault Refusal :=
  perform i (do body; pure .next) s

/-! ### Prefix words (R131, R132) -/

/-- A prefix word recorded: the group goes on at the next word. -/
def Ctx.addPrefix (c : Ctx) (f : Pfx → Pfx) : Ctx :=
  let p := c.pfx.getD ⟨[], none, false, false, c.pc⟩
  { c with pfx := some (f p), pc := c.pc + 4 }

/-- A prefix word recorded in the context, or in every member of its gang. -/
def State.addPrefix (s : State) (f : Pfx → Pfx) : State :=
  let n := s.ctx.num
  if s.inGang then
    let ids := (s.gang s.core).map (·.id)
    (ids.foldl (init := s) fun (s : State) id =>
      let t := s.focus id n
      { t with core := { t.core with ctx := t.ctx.addPrefix f, last := n } }).focus s.core.id n
  else { s with core := { s.core with ctx := s.ctx.addPrefix f, last := n } }

/-- A prefix word in the context, or in every member of its gang. -/
def performPrefix (f : Pfx → Pfx) (s : State) : Host.Outcome State Fault Refusal :=
  if !s.ctx.live then .fault .noContext
  else if s.waits then .next { s with stalled := true }
  else .next ({ s with stalled := false }.addPrefix f)

/-! ### Events -/

/-- The result of an event: it acts, or its conditions do not hold and nothing changes. -/
def runEvent (op : Op Unit) (s : State) : Host.Outcome State Fault Refusal :=
  match op s with
  | .ok (_, s') => .next { s' with stalled := false }
  | .error (.block s') => .next { s' with stalled := false }
  | .error _ => .next { s with stalled := true }

/-- An operation with a context in focus, the old focus restored after it. -/
def Op.within {α : Type} (id : CoreId) (n : Nat) (op : Op α) : Op α := do
  let s ← get
  let back := s.core.id
  let ctx := s.ctx.num
  set (s.focus id n)
  let r ← op
  modify fun s => s.focus back ctx
  pure r

end Sys2Proof.Machine
end

