-- ==== Sys2Proof/Machine/Scalar.lean ====
section
/-! DEFINITION. Register arithmetic, immediate forms and bit manipulation (R158 to R167). -/

namespace Sys2Proof.Machine

/-- Shift and rotate amounts: y[5:0], and y[4:0] for the 32-bit forms (R159, R160). -/
def shAmt (y : Word) : Nat := y.toNat % 64
def shAmtW (y : Word) : Nat := y.toNat % 32

/-- g[d] := f(g[a], g[b]) (R10, R158). -/
def Op.alu (d a b : BitVec 6) (f : Word → Word → Word) : Op Unit := do
  let x ← Op.readG a
  let y ← Op.readG b
  Op.writeG d (f x y)

/-- g[d] := f(g[a]). -/
def Op.alu1 (d a : BitVec 6) (f : Word → Word) : Op Unit := do
  let x ← Op.readG a
  Op.writeG d (f x)

/-- The value of an immediate field with the IMMX words of the group (R127, R133). -/
def Op.imm {w : Nat} (f : BitVec w) : Op Word := do
  let c ← Op.ctx
  pure (immExt (match c.pfx with | some p => p.immx | none => []) f)

/-- g[d] := f(g[a], imm) (R161). -/
def Op.aluImm (d a : BitVec 6) (imm : BitVec 14) (f : Word → Word → Word) : Op Unit := do
  let x ← Op.readG a
  let y ← Op.imm imm
  Op.writeG d (f x y)

/-- g[d] := f(g[a], old g[d]), the forms whose destination is also a source (R164, R167). -/
def Op.aluOld (d a : BitVec 6) (f : Word → Word → Word) : Op Unit := do
  let x ← Op.readG a
  let old ← Op.readG d
  Op.writeG d (f x old)

/-- ADD (R158). -/
def execAdd (d a b : BitVec 6) (s : State) : Host.Outcome State Fault Refusal :=
  performNext (.add d a b) (Op.alu d a b fun x y => x + y) s

/-- SUB (R158). -/
def execSub (d a b : BitVec 6) (s : State) : Host.Outcome State Fault Refusal :=
  performNext (.sub d a b) (Op.alu d a b fun x y => x - y) s

/-- AND (R158). -/
def execAnd (d a b : BitVec 6) (s : State) : Host.Outcome State Fault Refusal :=
  performNext (.and d a b) (Op.alu d a b fun x y => x &&& y) s

/-- OR (R158). -/
def execOr (d a b : BitVec 6) (s : State) : Host.Outcome State Fault Refusal :=
  performNext (.or d a b) (Op.alu d a b fun x y => x ||| y) s

/-- XOR (R158). -/
def execXor (d a b : BitVec 6) (s : State) : Host.Outcome State Fault Refusal :=
  performNext (.xor d a b) (Op.alu d a b fun x y => x ^^^ y) s

/-- ANDN (R158). -/
def execAndn (d a b : BitVec 6) (s : State) : Host.Outcome State Fault Refusal :=
  performNext (.andn d a b) (Op.alu d a b fun x y => x &&& ~~~y) s

/-- ORN (R158). -/
def execOrn (d a b : BitVec 6) (s : State) : Host.Outcome State Fault Refusal :=
  performNext (.orn d a b) (Op.alu d a b fun x y => x ||| ~~~y) s

/-- XNOR (R158). -/
def execXnor (d a b : BitVec 6) (s : State) : Host.Outcome State Fault Refusal :=
  performNext (.xnor d a b) (Op.alu d a b fun x y => ~~~(x ^^^ y)) s

/-- SHL (R158). -/
def execShl (d a b : BitVec 6) (s : State) : Host.Outcome State Fault Refusal :=
  performNext (.shl d a b) (Op.alu d a b fun x y => x <<< shAmt y) s

/-- SHR (R158). -/
def execShr (d a b : BitVec 6) (s : State) : Host.Outcome State Fault Refusal :=
  performNext (.shr d a b) (Op.alu d a b fun x y => x >>> shAmt y) s

/-- SAR (R158). -/
def execSar (d a b : BitVec 6) (s : State) : Host.Outcome State Fault Refusal :=
  performNext (.sar d a b) (Op.alu d a b fun x y => x.sshiftRight (shAmt y)) s

/-- ROL (R158). -/
def execRol (d a b : BitVec 6) (s : State) : Host.Outcome State Fault Refusal :=
  performNext (.rol d a b) (Op.alu d a b fun x y => x.rotateLeft (shAmt y)) s

/-- ROR (R158). -/
def execRor (d a b : BitVec 6) (s : State) : Host.Outcome State Fault Refusal :=
  performNext (.ror d a b) (Op.alu d a b fun x y => x.rotateRight (shAmt y)) s

/-- SLT (R158). -/
def execSlt (d a b : BitVec 6) (s : State) : Host.Outcome State Fault Refusal :=
  performNext (.slt d a b) (Op.alu d a b fun x y => Word.flag (ltS x y)) s

/-- SLTU (R158). -/
def execSltu (d a b : BitVec 6) (s : State) : Host.Outcome State Fault Refusal :=
  performNext (.sltu d a b) (Op.alu d a b fun x y => Word.flag (ltU x y)) s

/-- SEQ (R158). -/
def execSeq (d a b : BitVec 6) (s : State) : Host.Outcome State Fault Refusal :=
  performNext (.seq d a b) (Op.alu d a b fun x y => Word.flag (x = y)) s

/-- SNE (R158). -/
def execSne (d a b : BitVec 6) (s : State) : Host.Outcome State Fault Refusal :=
  performNext (.sne d a b) (Op.alu d a b fun x y => Word.flag (x ≠ y)) s

/-- MIN (R158). -/
def execMinS (d a b : BitVec 6) (s : State) : Host.Outcome State Fault Refusal :=
  performNext (.minS d a b) (Op.alu d a b fun x y => minSW x y) s

/-- MAX (R158). -/
def execMaxS (d a b : BitVec 6) (s : State) : Host.Outcome State Fault Refusal :=
  performNext (.maxS d a b) (Op.alu d a b fun x y => maxSW x y) s

/-- MINU (R158). -/
def execMinU (d a b : BitVec 6) (s : State) : Host.Outcome State Fault Refusal :=
  performNext (.minU d a b) (Op.alu d a b fun x y => minUW x y) s

/-- MAXU (R158). -/
def execMaxU (d a b : BitVec 6) (s : State) : Host.Outcome State Fault Refusal :=
  performNext (.maxU d a b) (Op.alu d a b fun x y => maxUW x y) s

/-- MUL (R158). -/
def execMul (d a b : BitVec 6) (s : State) : Host.Outcome State Fault Refusal :=
  performNext (.mul d a b) (Op.alu d a b fun x y => x * y) s

/-- MULH (R158). -/
def execMulh (d a b : BitVec 6) (s : State) : Host.Outcome State Fault Refusal :=
  performNext (.mulh d a b) (Op.alu d a b fun x y => Word.ofI (x.toInt * y.toInt / 2 ^ 64)) s

/-- MULHU (R158). -/
def execMulhu (d a b : BitVec 6) (s : State) : Host.Outcome State Fault Refusal :=
  performNext (.mulhu d a b) (Op.alu d a b fun x y => Word.ofN (x.toNat * y.toNat / 2 ^ 64)) s

/-- DIV (R159). -/
def execDiv (d a b : BitVec 6) (s : State) : Host.Outcome State Fault Refusal :=
  performNext (.div d a b) (Op.alu d a b fun x y => divS x y) s

/-- DIVU (R159). -/
def execDivu (d a b : BitVec 6) (s : State) : Host.Outcome State Fault Refusal :=
  performNext (.divu d a b) (Op.alu d a b fun x y => divU x y) s

/-- REM (R159). -/
def execRem (d a b : BitVec 6) (s : State) : Host.Outcome State Fault Refusal :=
  performNext (.rem d a b) (Op.alu d a b fun x y => remS x y) s

/-- REMU (R159). -/
def execRemu (d a b : BitVec 6) (s : State) : Host.Outcome State Fault Refusal :=
  performNext (.remu d a b) (Op.alu d a b fun x y => remU x y) s

/-- ADDW (R160). -/
def execAddw (d a b : BitVec 6) (s : State) : Host.Outcome State Fault Refusal :=
  performNext (.addw d a b) (Op.alu d a b fun x y => sextW (lowW x + lowW y)) s

/-- SUBW (R160). -/
def execSubw (d a b : BitVec 6) (s : State) : Host.Outcome State Fault Refusal :=
  performNext (.subw d a b) (Op.alu d a b fun x y => sextW (lowW x - lowW y)) s

/-- SHLW (R160). -/
def execShlw (d a b : BitVec 6) (s : State) : Host.Outcome State Fault Refusal :=
  performNext (.shlw d a b) (Op.alu d a b fun x y => sextW (lowW x <<< shAmtW y)) s

/-- SHRW (R160). -/
def execShrw (d a b : BitVec 6) (s : State) : Host.Outcome State Fault Refusal :=
  performNext (.shrw d a b) (Op.alu d a b fun x y => sextW (lowW x >>> shAmtW y)) s

/-- SARW (R160). -/
def execSarw (d a b : BitVec 6) (s : State) : Host.Outcome State Fault Refusal :=
  performNext (.sarw d a b) (Op.alu d a b fun x y => sextW ((lowW x).sshiftRight (shAmtW y))) s

/-- MULW (R160). -/
def execMulw (d a b : BitVec 6) (s : State) : Host.Outcome State Fault Refusal :=
  performNext (.mulw d a b) (Op.alu d a b fun x y => sextW (lowW x * lowW y)) s

/-- ADDI (R161). -/
def execAddi (d a : BitVec 6) (imm : BitVec 14) (s : State) : Host.Outcome State Fault Refusal :=
  performNext (.addi d a imm) (Op.aluImm d a imm fun x y => x + y) s

/-- ANDI (R161). -/
def execAndi (d a : BitVec 6) (imm : BitVec 14) (s : State) : Host.Outcome State Fault Refusal :=
  performNext (.andi d a imm) (Op.aluImm d a imm fun x y => x &&& y) s

/-- ORI (R161). -/
def execOri (d a : BitVec 6) (imm : BitVec 14) (s : State) : Host.Outcome State Fault Refusal :=
  performNext (.ori d a imm) (Op.aluImm d a imm fun x y => x ||| y) s

/-- XORI (R161). -/
def execXori (d a : BitVec 6) (imm : BitVec 14) (s : State) : Host.Outcome State Fault Refusal :=
  performNext (.xori d a imm) (Op.aluImm d a imm fun x y => x ^^^ y) s

/-- SLTI (R161). -/
def execSlti (d a : BitVec 6) (imm : BitVec 14) (s : State) : Host.Outcome State Fault Refusal :=
  performNext (.slti d a imm) (Op.aluImm d a imm fun x y => Word.flag (ltS x y)) s

/-- SLTIU (R161). -/
def execSltiu (d a : BitVec 6) (imm : BitVec 14) (s : State) : Host.Outcome State Fault Refusal :=
  performNext (.sltiu d a imm) (Op.aluImm d a imm fun x y => Word.flag (ltU x y)) s

/-- SHLI (R162). -/
def execShli (d a : BitVec 6) (n : BitVec 6) (s : State) : Host.Outcome State Fault Refusal :=
  performNext (.shli d a n) (Op.alu1 d a fun x => x <<< n.toNat) s

/-- SHRI (R162). -/
def execShri (d a : BitVec 6) (n : BitVec 6) (s : State) : Host.Outcome State Fault Refusal :=
  performNext (.shri d a n) (Op.alu1 d a fun x => x >>> n.toNat) s

/-- SARI (R162). -/
def execSari (d a : BitVec 6) (n : BitVec 6) (s : State) : Host.Outcome State Fault Refusal :=
  performNext (.sari d a n) (Op.alu1 d a fun x => x.sshiftRight n.toNat) s

/-- RORI (R162). -/
def execRori (d a : BitVec 6) (n : BitVec 6) (s : State) : Host.Outcome State Fault Refusal :=
  performNext (.rori d a n) (Op.alu1 d a fun x => x.rotateRight n.toNat) s

/-- LOP3 (R164). The b register is one of g0 to g31 (R163). -/
def execLop3 (d a : BitVec 6) (b : BitVec 5) (t : BitVec 8) (s : State) : Host.Outcome State Fault Refusal :=
  performNext (.lop3 d a b t) (do
    let x ← Op.readG a
    let y ← Op.readG (b.setWidth 6)
    let old ← Op.readG d
    Op.writeG d (lop3Bits t x y old)) s

/-- FSHL (R165). -/
def execFshl (d a : BitVec 6) (b : BitVec 5) (w : Width) (sh : BitVec 6) (s : State) : Host.Outcome State Fault Refusal :=
  performNext (.fshl d a b w sh) (Op.alu d a (b.setWidth 6) fun x y =>
    Word.ofN (packElems w.bits ((List.range (64 / w.bits)).map fun i =>
      funnel w.bits sh.toNat (elemAt w.bits x.toNat i) (elemAt w.bits y.toNat i)))) s

/-- CLZ (R166). -/
def execClz (d a : BitVec 6) (w : Width) (s : State) : Host.Outcome State Fault Refusal :=
  performNext (.clz d a w) (Op.alu1 d a fun x => mapElems w.bits (clzN w.bits) x) s

/-- CTZ (R166). -/
def execCtz (d a : BitVec 6) (w : Width) (s : State) : Host.Outcome State Fault Refusal :=
  performNext (.ctz d a w) (Op.alu1 d a fun x => mapElems w.bits (ctzN w.bits) x) s

/-- POPC (R166). -/
def execPopc (d a : BitVec 6) (w : Width) (s : State) : Host.Outcome State Fault Refusal :=
  performNext (.popc d a w) (Op.alu1 d a fun x => mapElems w.bits (popcN w.bits) x) s

/-- FFS (R166). -/
def execFfs (d a : BitVec 6) (w : Width) (s : State) : Host.Outcome State Fault Refusal :=
  performNext (.ffs d a w) (Op.alu1 d a fun x => mapElems w.bits (ffsN w.bits) x) s

/-- BREV (R166). -/
def execBrev (d a : BitVec 6) (w : Width) (s : State) : Host.Outcome State Fault Refusal :=
  performNext (.brev d a w) (Op.alu1 d a fun x => mapElems w.bits (brevN w.bits) x) s

/-- BSWAP (R166). -/
def execBswap (d a : BitVec 6) (w : Width) (s : State) : Host.Outcome State Fault Refusal :=
  performNext (.bswap d a w) (Op.alu1 d a fun x => mapElems w.bits (bswapN w.bits) x) s

/-- EXTZ (R167). -/
def execExtz (d a : BitVec 6) (p l : BitVec 6) (s : State) : Host.Outcome State Fault Refusal :=
  performNext (.extz d a p l) (Op.alu1 d a fun x => extractZ x p.toNat (l.toNat + 1)) s

/-- EXTS (R167). -/
def execExts (d a : BitVec 6) (p l : BitVec 6) (s : State) : Host.Outcome State Fault Refusal :=
  performNext (.exts d a p l) (Op.alu1 d a fun x => extractS x p.toNat (l.toNat + 1)) s

/-- DEP (R167). -/
def execDep (d a : BitVec 6) (p l : BitVec 6) (s : State) : Host.Outcome State Fault Refusal :=
  performNext (.dep d a p l) (Op.aluOld d a fun x old => deposit old x p.toNat (l.toNat + 1)) s

end Sys2Proof.Machine
end

