-- ==== Sys2Proof/Machine/Twin.lean ====
section
/-! DEFINITION. Twin dispatch at a context's own messages (R433): a word that sends a message waits until the router has
compared it with the partner copy's. A message is formed for the whole word, from its kind, references, size, order,
scope and data. -/

namespace Sys2Proof.Machine

/-- Whether the logical core in focus has a twin (R35, R433). -/
def State.twinned (s : State) : Bool :=
  match s.findTask s.core.id.task with
  | some t => t.twin
  | none => false

/-- The other copy of a logical core. -/
def CoreId.partner (id : CoreId) : CoreId := { id with copy := 1 - id.copy }

/-- The hash of a message: the first 8 bytes of SHA-256 over its fields (R433), each laid out in as many 32-byte units as it fills, at
least one (log entry 38). -/
def messageHash (fields : List Nat) : Word :=
  let lay (x : Nat) : List Byte := bytesOf (32 * max 1 ((x.log2 + 256) / 256)) x
  Word.ofN (valueOf ((sha256 (fields.flatMap lay)).take 8))

/-- The outcome of an operation, without its effect: it traps, stalls or waits where the operation would. -/
def Op.probe {α : Type} (op : Op α) : Op Unit := fun s =>
  match op s with
  | .ok _ => .ok ((), s)
  | .error e => .error e

/-- The message of this word waits for the router's comparison, and passes it once (R433). -/
def Op.twinGate (fields : List Nat) : Op Unit := do
  let c ← Op.ctx
  match c.twinMsg with
  | none =>
    Op.modCtx fun c => { c with
      twinMsg := some ⟨c.twinSeq, messageHash fields, false, []⟩
      wait := some .twin }
    Op.block
  | some m =>
    Op.need m.passed

/-- A word whose message both copies send and whose effect each copy has on its own state. -/
def Op.twinBoth {α : Type} (fields : List Nat) (op : Op α) : Op α := do
  let s ← get
  if s.twinned then
    Op.probe op
    Op.twinGate fields
    Op.modCtx fun c => { c with twinSeq := c.twinSeq + 1 }
  op

/-- A response left for the partner copy's context. -/
def State.respond (s : State) (r : List Word) : State :=
  s.mapCtx (CoreId.partner s.core.id) s.ctx.num fun c => { c with twinMsg := match c.twinMsg with
    | some m => some { m with response := 1 :: r }
    | none => none }

/-- The primary's word still waits with its message, so that its response is yet to come. -/
def State.primaryWaits (s : State) : Bool :=
  match s.findCore (CoreId.partner s.core.id) with
  | some c => match c.findCtx s.ctx.num with
    | some x => x.twinMsg.isSome
    | none => false
  | none => false

/-- Whether the response to this word's message has come from the primary (R433). -/
def State.responded (s : State) : Bool := s.ctx.twinMsg.any fun m => m.response ≠ []

/-- A word whose message is forwarded once, the primary's, and whose response both copies receive (R433). -/
def Op.twinOnce (fields : List Nat) (op : Op (List Word)) : Op (List Word) := do
  let s ← get
  if s.twinned then
    Op.twinGate fields
    Op.modCtx fun c => { c with twinSeq := c.twinSeq + 1 }
    if s.core.id.copy = 0 then
      let r ← op
      modify fun s => s.respond r
      pure r
    else match s.ctx.twinMsg with
      | some m => match m.response with
        | _ :: r => pure r
        | [] => if s.primaryWaits then Op.stall else op
      | none => op
  else op

/-- One word of response. -/
def Op.twinWord (fields : List Nat) (op : Op Word) : Op Word := do
  let r ← Op.twinOnce fields (do return [← op])
  pure (r.headD 0)

/-- The class of the object that a reference names in the queue of the core in focus; `none` for handles 0 and 1 and for
references without a descriptor. -/
def State.classOf (s : State) (ref : Word) : Option Nat :=
  if refHandle ref < 16 then none
  else
    let (_, _, _, _, d) := s.tableDesc s.core.regs.queue.toNat (refHandle ref)
    if d.rights = 0 then none else some d.cls

/-- Whether a load of this reference is a message: class 1 or 2 (R433). -/
def State.loadMessage (s : State) (ref : Word) : Bool := s.classOf ref = some 1 || s.classOf ref = some 2

/-- Whether a store of this reference is a message: any object (R433). -/
def State.storeMessage (s : State) (ref : Word) : Bool := (s.classOf ref).isSome

/-- A load of at most 256 bits, gated where it is a message: both copies receive the value loaded for the primary. -/
def Op.loadMsg (fields : List Nat) (ref : Word) (op : Op Nat) : Op Nat := do
  let s ← get
  if s.twinned && s.loadMessage ref then
    Op.probe op
    let r ← Op.twinOnce fields (do
      let v ← op
      pure ((elems 64 4 v).map Word.ofN))
    pure (packElems 64 (r.map (·.toNat)))
  else op

/-- A store that is gated where it is a message. -/
def Op.storeMsg (fields : List Nat) (ref : Word) (op : Op Unit) : Op Unit := do
  let s ← get
  if s.twinned && s.storeMessage ref then Op.twinBoth fields op else op

/-- A mismatch between the messages of a logical core's copies (R434): nothing is forwarded, a twin-mismatch record is
written, firmware gets a TWIN event; with SNAP both copies of the core's block stop until the rollback, without it the task becomes FAILED
with cause TWIN. `n` is the context, `a` and `b` the two hashes. -/
def Op.twinMismatch (id : CoreId) (n seq : Nat) (a b : Word) : Op Unit := do
  let s ← get
  let slotOf (k : Nat) : Nat := match s.findCore { id with copy := k } with
    | some c => c.slot
    | none => 0
  let q := match s.findTask id.task with
    | some t => t.queue.toNat
    | none => 0
  let s := s.telemetry (dieOf (slotOf 0)) (Word.ofN (5 * 2 ^ 56 + slotOf 0 * 2 ^ 32 + id.lcore)) (a ^^^ b)
    (Word.ofN (slotOf 1 * 2 ^ 48 + seq % 2 ^ 32 * 2 ^ 16 + q))
  let s := { s with pkg := { s.pkg with firmware := s.pkg.firmware ++ [FwEvent.twin (tcbRef id.task) id.lcore] } }
  let block := match s.findTask id.task with
    | some t => if t.snap then s.blockIds t { id with copy := 0 } else []
    | none => []
  if block ≠ [] then
    let stop (c : LCore) : LCore :=
      if block.contains c.id then
        let c := c.mapCtxs fun x => { x with wait := if x.live then some .rollback else x.wait }
        if c.id.lcore = id.lcore then { c with rollbackDue := some .twin, rollbackBy := n } else c
      else c
    set (s.mapCores stop)
  else
    set s
    let step := match s.findCore id with
      | some c => s.superstep c
      | none => 0
    Op.failTask id.task ⟨Word.ofN cTWIN, 0, 0, Word.ofN (n * 2 ^ 32 + id.lcore), 0, step⟩

end Sys2Proof.Machine
end

