-- ==== Sys2Proof/Machine/LoadStore.lean ====
section
/-! DEFINITION. Scalar loads and stores (R272 to R275), and what releases and acquires do (R311, R321, R322, R285). -/

namespace Sys2Proof.Machine

/-- The alignment of an access (R273, R277). -/
def Op.aligned (a : Acc) : Op Unit := if a.ref.toNat % a.n ≠ 0 then Op.accTrap cMISAL a 0 else pure ()

/-- Whether a context is a helper that has ended: what it would be told of goes to context 0 (R174). -/
def State.helperGone (s : State) (id : CoreId) (n : Nat) : Bool :=
  n ≠ 0 && (match (s.findCore id).bind fun c => c.findCtx n with
    | some x => !x.live
    | none => true)

/-! ### Releases and acquires -/

/-- The die of a bank, 8 × package + die (R285). -/
def bankDie (addr : Nat) : Nat := addr / 2 ^ 40 * 8 + addr / 2 ^ 36 % 16 / 2

/-- Whether a bank's die lies within the scope of the context in focus (R285, R311). -/
def State.dieIn (s : State) (scope die : Nat) : Bool :=
  scope = 5 ||
  (scope = 4 && die / 8 = s.pkg.address.toNat) ||
  (scope = 3 && die = s.pkg.address.toNat * 8 + dieOf s.core.slot)

/-- Whether the site of a reduction lies within the scope of the context in focus (R282, R311). -/
def State.siteIn (s : State) (scope : Nat) : Site → Bool
  | .local c _ => 2 ≤ scope || (scope = 1 && c = s.core.id)
  | .bank a => s.dieIn scope (bankDie a)

/-- The report of a bank within a scope (R285). -/
def State.bankReport (s : State) (scope : Nat) : Option Report :=
  s.ctx.reports.find? fun r => match r.kind with
    | .bank die => s.dieIn scope die
    | .passed (some die) _ => s.dieIn scope die
    | _ => false

/-- Whether a reduction of the context in focus within a scope has yet to be applied (R282). -/
def State.redsIn (s : State) (scope : Nat) : Bool :=
  s.unc.bankOps.any fun o => o.core = s.core.id && o.ctx = s.ctx.num && !o.far && s.siteIn scope o.site

/-- Whether any reduction of the context in focus has yet to be applied, at whatever site. -/
def State.ownReds (s : State) : Bool :=
  s.unc.bankOps.any fun o => o.core = s.core.id && o.ctx = s.ctx.num && !o.far

/-- Whether a release-ordered reduction of the context in focus has yet to be applied: an access with acquire order waits for it
(R316 item 3). -/
def State.relReds (s : State) : Bool :=
  s.unc.bankOps.any fun o => o.core = s.core.id && o.ctx = s.ctx.num && !o.far && o.rel

/-- What a release at a scope waits for: the context's reductions within it; and the report of a bank within it that it
takes (R282, R285). -/
def Op.releaseWait (scope : Nat) : Op Unit := do
  let s ← get
  Op.need (!s.redsIn scope)
  match s.bankReport scope with
  | some r => Op.takeReport r
  | none => pure ()

/-- A release of the context in focus; from die scope on its cluster's dirty class-0 bytes are written back (R321). -/
def Op.release (scope : Nat) : Op Unit := do
  Op.releaseWait scope
  if 3 ≤ scope then modify fun s => s.releaseCluster (clusterOf s.core.slot)

/-- An acquire of the context in focus (R322). -/
def Op.acquire (scope : Nat) : Op Unit :=
  if 3 ≤ scope then modify fun s => s.acquireCluster (clusterOf s.core.slot) else pure ()

/-- Whether an order releases, and whether it acquires (R309). -/
def isRel : Order → Bool
  | .rel | .ar => true
  | _ => false

def isAcq : Order → Bool
  | .acq | .ar => true
  | _ => false

/-! ### Loads and stores (R273) -/

/-- A load's value: its reference, checks and bytes (R273). -/
def Op.scalarLoad (d a : BitVec 6) (imm : BitVec 12) (w : Width) : Op Nat := do
  let x ← Op.readG a
  let disp ← Op.imm imm
  Op.freeG d
  let acc := coreAcc (x + disp) w.bytes 0
  Op.aligned acc
  let s ← get
  Op.loadMsg [0, acc.ref.toNat, w.bytes, 0, 0] acc.ref (Op.load (s.self 0) acc)

/-- LDS (R273). -/
def execLds (d a : BitVec 6) (imm : BitVec 12) (w : Width) (s : State) : Host.Outcome State Fault Refusal :=
  performNext (.lds d a imm w) (do
    let m ← Op.scalarLoad d a imm w
    Op.writeG d (Word.ofI (elemInt true w.bits m))) s

/-- LDZ (R273). -/
def execLdz (d a : BitVec 6) (imm : BitVec 12) (w : Width) (s : State) : Host.Outcome State Fault Refusal :=
  performNext (.ldz d a imm w) (do
    let m ← Op.scalarLoad d a imm w
    Op.writeG d (Word.ofN m)) s

/-- ST (R273). -/
def execSt (c a : BitVec 6) (imm : BitVec 12) (w : Width) (s : State) : Host.Outcome State Fault Refusal :=
  performNext (.st c a imm w) (do
    let x ← Op.readG a
    let v ← Op.readG c
    let disp ← Op.imm imm
    let acc := coreAcc (x + disp) w.bytes 1
    Op.aligned acc
    let s ← get
    let v := v.toNat % 2 ^ w.bits
    Op.storeMsg [1, acc.ref.toNat, w.bytes, 0, 0, v] acc.ref (Op.store (s.self 0) acc v)) s

end Sys2Proof.Machine
end

