-- ==== Sys2Proof/Machine/Atomics.lean ====
section
/-! DEFINITION. Exchanges, ordered accesses, atomics and reductions (R276 to R285), and what a bank or an atomic unit
does with those sent to it (R280, R282 to R285, R330). -/

namespace Sys2Proof.Machine

/-- The new value of an integer atomic on `n` bytes (R278): operation codes 0-7. -/
def amoNew (op n m x : Nat) : Nat :=
  let w := 8 * n
  let s (v : Nat) : Int := elemInt true w v
  match op with
  | 0 => (m + x) % 2 ^ w
  | 1 => m &&& x
  | 2 => m ||| x
  | 3 => m ^^^ x
  | 4 => if s x < s m then x else m
  | 5 => if s m < s x then x else m
  | 6 => min m x
  | _ => max m x

/-- What an atomic does to the bytes it acts on: the new value, or none where it writes nothing (a failed CAS, R277). -/
inductive AtomicOp
  | amo (op : Nat)
  | swap
  | compare
  deriving DecidableEq, Repr

/-- The new value of an atomic: old value m, data x, expected value e. -/
def AtomicOp.new (k : AtomicOp) (n m x e : Nat) : Option Nat :=
  match k with
  | .amo op => some (amoNew op n m x)
  | .swap => some x
  | .compare => if m = e then some x else none

/-- The operation and size that a word's constructor names (R276, R278, R281). -/
def atomicOf : Instr → Option (AtomicOp × Nat)
  | .amoaddW _ _ _ _ _ => some (.amo 0, 4)
  | .amoaddD _ _ _ _ _ => some (.amo 0, 8)
  | .amoandW _ _ _ _ _ => some (.amo 1, 4)
  | .amoandD _ _ _ _ _ => some (.amo 1, 8)
  | .amoorW _ _ _ _ _ => some (.amo 2, 4)
  | .amoorD _ _ _ _ _ => some (.amo 2, 8)
  | .amoxorW _ _ _ _ _ => some (.amo 3, 4)
  | .amoxorD _ _ _ _ _ => some (.amo 3, 8)
  | .amominW _ _ _ _ _ => some (.amo 4, 4)
  | .amominD _ _ _ _ _ => some (.amo 4, 8)
  | .amomaxW _ _ _ _ _ => some (.amo 5, 4)
  | .amomaxD _ _ _ _ _ => some (.amo 5, 8)
  | .amominuW _ _ _ _ _ => some (.amo 6, 4)
  | .amominuD _ _ _ _ _ => some (.amo 6, 8)
  | .amomaxuW _ _ _ _ _ => some (.amo 7, 4)
  | .amomaxuD _ _ _ _ _ => some (.amo 7, 8)
  | .redadd dw _ _ _ _ => some (.amo 0, if dw then 8 else 4)
  | .redand dw _ _ _ _ => some (.amo 1, if dw then 8 else 4)
  | .redor dw _ _ _ _ => some (.amo 2, if dw then 8 else 4)
  | .redxor dw _ _ _ _ => some (.amo 3, if dw then 8 else 4)
  | .redmin dw _ _ _ _ => some (.amo 4, if dw then 8 else 4)
  | .redmax dw _ _ _ _ => some (.amo 5, if dw then 8 else 4)
  | .redminu dw _ _ _ _ => some (.amo 6, if dw then 8 else 4)
  | .redmaxu dw _ _ _ _ => some (.amo 7, if dw then 8 else 4)
  | .swp _ _ _ _ _ dw => some (.swap, if dw then 8 else 4)
  | .cas _ _ _ _ _ dw => some (.compare, if dw then 8 else 4)
  | _ => none

/-! ### Ordered loads and stores (R277) -/

/-- LDO (R277). -/
def execLdo (d a : BitVec 6) (ord : Order) (sc : Scope) (dw : Bool) (s : State) :
    Host.Outcome State Fault Refusal :=
  performNext (.ldo d a ord sc dw) (do
    let ref ← Op.readG a
    Op.freeG d
    let n := if dw then 8 else 4
    let acc := coreAcc ref n 0
    Op.aligned acc
    let s ← get
    Op.need (!(isAcq ord && s.relReds))
    let m ← Op.loadMsg [0, ref.toNat, n, ord.code, sc.num] ref (Op.load (s.self sc.num) acc)
    if isAcq ord then Op.acquire sc.num
    Op.writeG d (Word.ofN m)) s

/-- STO (R277). -/
def execSto (a b : BitVec 6) (ord : Order) (sc : Scope) (dw : Bool) (s : State) :
    Host.Outcome State Fault Refusal :=
  performNext (.sto a b ord sc dw) (do
    let ref ← Op.readG a
    let x ← Op.readG b
    let n := if dw then 8 else 4
    let acc := coreAcc ref n 1
    Op.aligned acc
    let s ← get
    let v := x.toNat % 2 ^ (8 * n)
    if isRel ord then
      Op.checkAccess (s.self sc.num) acc rightW
      Op.release sc.num
    let fields := [1, ref.toNat, n, ord.code, sc.num, v]
    Op.storeMsg fields ref (Op.store (s.self sc.num) acc v)) s

/-! ### Atomics at their sites (R280) -/

/-- Whether an atomic on this class and scope is far (R280). -/
def isFar (d : Desc) (scope : Nat) : Bool := d.cls = 0 && 3 ≤ scope

/-- The order's release part, when the atomic writes; its acquire part in any case (R277, R279). -/
def Op.atomicRelease (ord : Order) (scope : Nat) (writes : Bool) : Op Unit :=
  if isRel ord && writes then Op.release scope else pure ()

/-- A near atomic in the issuing core's L1, or one at the atomic unit of a local memory: the old value (R280). One that writes an
object reads its sector once, with the store (R414, R426). -/
def Op.nearAtomic (ag : Agent) (acc : Acc) (ord : Order) (k : AtomicOp) (x e : Nat) (read : Op Nat)
    (write : Nat → Op Unit) : Op Word := do
  let local_ := refHandle acc.ref ≤ 1
  let m ← if local_ then read else Op.foreseen read
  match k.new acc.n m x e with
  | some v =>
    Op.atomicRelease ord ag.scope true
    write v
  | none => if local_ then pure () else discard read
  pure (Word.ofN m)

/-- An operation sent to its site. -/
def State.sendOp (s : State) (o : BankOp) : State := { s with unc := { s.unc with bankOps := s.unc.bankOps ++ [o] } }

/-- A far atomic (R280) sent to its bank. A CAS makes its release at the bank, where it is known whether it writes (R277). The
context waits until the bank has decided whether the word traps (log entry 75), and issues it again. -/
def Op.farAtomic (ag : Agent) (acc : Acc) (i : Instr) (ord : Order) (k : AtomicOp) (d : Desc) (addr : Nat) (x e : Word) :
    Op Word := do
  let c ← Op.ctx
  if c.farGot = some .reported then Op.releaseWait ag.scope
  Op.atomicRelease ord ag.scope (k ≠ .compare)
  modify fun s => s.sendOp ⟨ag.core, ag.ctx, true, isRel ord, i, .bank addr, acc.n, acc.ref, d.cls, d.tensor, d.layout,
    d.profile, x, e, 0, 0⟩
  Op.modCtx fun c => { c with wait := some .far, farGot := none }
  Op.block

/-- An atomic on an object: where it executes (R280). Its write adds nothing to the digest (R442). -/
def Op.objectAtomic (ag : Agent) (acc : Acc) (i : Instr) (ord : Order) (k : AtomicOp) (d : Desc) (w : Where)
    (x e : Word) : Op Word := do
  match w with
  | .bank addr =>
    if isFar d ag.scope then Op.farAtomic ag acc i ord k d addr x e
    else
      let s ← get
      Op.need (!s.ownRedAt ag w acc.n)
      let l ← Op.ensureLine ag acc d (addr / 128) true
      Op.nearAtomic ag acc ord k (x.toNat % 2 ^ (8 * acc.n)) (e.toNat % 2 ^ (8 * acc.n))
        (Op.lineRead ag acc d l (refOffset acc.ref) (addr % 128) acc.n)
        fun v => Op.placeStore ag acc d w v (2 ^ acc.n - 1)
  | _ => Op.stall

/-- SWP, CAS and AMO (R277, R279): the checks, the atomic at its site, and its order. -/
def Op.atomic (i : Instr) (d a b : BitVec 6) (ord : Order) (sc : Scope) : Op Unit := do
  let ref ← Op.readG a
  let x ← Op.readG b
  let e ← Op.readG d
  match atomicOf i with
  | none => pure ()
  | some (k, n) =>
    let acc := coreAcc ref n 2
    Op.aligned acc
    let s ← get
    let ag := { s.self sc.num with counted := false }
    Op.need (!(isAcq ord && s.relReds))
    let fields := [2, ref.toNat, n, ord.code, sc.num, x.toNat, e.toNat]
    -- one that its bank has executed is over, whatever its descriptor or its frame has become (R185, R261, R262)
    let (m, far) ← (match (if refHandle ref ≤ 1 then none else s.ctx.farGot) with
      | some (.old m) => do
        let m ← Op.twinWord fields (pure m)
        pure (m, true)
      | some (.bad cause eaddr einfo) => throw (.trap ⟨cause, eaddr, einfo, none, none, none⟩)
      | _ => do
        let m ← (if refHandle ref ≤ 1 then
            Op.nearAtomic ag acc ord k (x.toNat % 2 ^ (8 * n)) (e.toNat % 2 ^ (8 * n)) (Op.load ag acc) (Op.store ag acc)
          else if s.responded then Op.twinWord fields (pure 0)
          else do
            let desc ← Op.descriptor ag acc
            Op.descCheck ag acc (rightR + rightW + rightA) desc
            let w ← Op.locate ag acc desc false
            Op.twinWord fields (Op.objectAtomic ag acc i ord k desc w x e))
        pure (m, false))
    if isAcq ord then Op.acquire sc.num
    -- a far atomic's old value is on its way; g[d] is pending until it comes (R279)
    if far && d ≠ 0 then
      Op.claimG d
      Op.modCtx fun c => { c with arriving := c.arriving ++ [(d, m)] }
    else Op.writeG d m

/-- SWP (R277). -/
def execSwp (d a b : BitVec 6) (ord : Order) (sc : Scope) (dw : Bool) (s : State) :
    Host.Outcome State Fault Refusal :=
  performNext (.swp d a b ord sc dw) (Op.atomic (.swp d a b ord sc dw) d a b ord sc) s

/-- CAS (R277). -/
def execCas (d a b : BitVec 6) (ord : Order) (sc : Scope) (dw : Bool) (s : State) :
    Host.Outcome State Fault Refusal :=
  performNext (.cas d a b ord sc dw) (Op.atomic (.cas d a b ord sc dw) d a b ord sc) s

/-- AMOADD.w (R278). -/
def execAmoaddW (d a b : BitVec 6) (ord : Order) (sc : Scope) (s : State) :
    Host.Outcome State Fault Refusal :=
  performNext (.amoaddW d a b ord sc) (Op.atomic (.amoaddW d a b ord sc) d a b ord sc) s

/-- AMOAND.w (R278). -/
def execAmoandW (d a b : BitVec 6) (ord : Order) (sc : Scope) (s : State) :
    Host.Outcome State Fault Refusal :=
  performNext (.amoandW d a b ord sc) (Op.atomic (.amoandW d a b ord sc) d a b ord sc) s

/-- AMOOR.w (R278). -/
def execAmoorW (d a b : BitVec 6) (ord : Order) (sc : Scope) (s : State) :
    Host.Outcome State Fault Refusal :=
  performNext (.amoorW d a b ord sc) (Op.atomic (.amoorW d a b ord sc) d a b ord sc) s

/-- AMOXOR.w (R278). -/
def execAmoxorW (d a b : BitVec 6) (ord : Order) (sc : Scope) (s : State) :
    Host.Outcome State Fault Refusal :=
  performNext (.amoxorW d a b ord sc) (Op.atomic (.amoxorW d a b ord sc) d a b ord sc) s

/-- AMOMIN.w (R278). -/
def execAmominW (d a b : BitVec 6) (ord : Order) (sc : Scope) (s : State) :
    Host.Outcome State Fault Refusal :=
  performNext (.amominW d a b ord sc) (Op.atomic (.amominW d a b ord sc) d a b ord sc) s

/-- AMOMAX.w (R278). -/
def execAmomaxW (d a b : BitVec 6) (ord : Order) (sc : Scope) (s : State) :
    Host.Outcome State Fault Refusal :=
  performNext (.amomaxW d a b ord sc) (Op.atomic (.amomaxW d a b ord sc) d a b ord sc) s

/-- AMOMINU.w (R278). -/
def execAmominuW (d a b : BitVec 6) (ord : Order) (sc : Scope) (s : State) :
    Host.Outcome State Fault Refusal :=
  performNext (.amominuW d a b ord sc) (Op.atomic (.amominuW d a b ord sc) d a b ord sc) s

/-- AMOMAXU.w (R278). -/
def execAmomaxuW (d a b : BitVec 6) (ord : Order) (sc : Scope) (s : State) :
    Host.Outcome State Fault Refusal :=
  performNext (.amomaxuW d a b ord sc) (Op.atomic (.amomaxuW d a b ord sc) d a b ord sc) s

/-- AMOADD.d (R278). -/
def execAmoaddD (d a b : BitVec 6) (ord : Order) (sc : Scope) (s : State) :
    Host.Outcome State Fault Refusal :=
  performNext (.amoaddD d a b ord sc) (Op.atomic (.amoaddD d a b ord sc) d a b ord sc) s

/-- AMOAND.d (R278). -/
def execAmoandD (d a b : BitVec 6) (ord : Order) (sc : Scope) (s : State) :
    Host.Outcome State Fault Refusal :=
  performNext (.amoandD d a b ord sc) (Op.atomic (.amoandD d a b ord sc) d a b ord sc) s

/-- AMOOR.d (R278). -/
def execAmoorD (d a b : BitVec 6) (ord : Order) (sc : Scope) (s : State) :
    Host.Outcome State Fault Refusal :=
  performNext (.amoorD d a b ord sc) (Op.atomic (.amoorD d a b ord sc) d a b ord sc) s

/-- AMOXOR.d (R278). -/
def execAmoxorD (d a b : BitVec 6) (ord : Order) (sc : Scope) (s : State) :
    Host.Outcome State Fault Refusal :=
  performNext (.amoxorD d a b ord sc) (Op.atomic (.amoxorD d a b ord sc) d a b ord sc) s

/-- AMOMIN.d (R278). -/
def execAmominD (d a b : BitVec 6) (ord : Order) (sc : Scope) (s : State) :
    Host.Outcome State Fault Refusal :=
  performNext (.amominD d a b ord sc) (Op.atomic (.amominD d a b ord sc) d a b ord sc) s

/-- AMOMAX.d (R278). -/
def execAmomaxD (d a b : BitVec 6) (ord : Order) (sc : Scope) (s : State) :
    Host.Outcome State Fault Refusal :=
  performNext (.amomaxD d a b ord sc) (Op.atomic (.amomaxD d a b ord sc) d a b ord sc) s

/-- AMOMINU.d (R278). -/
def execAmominuD (d a b : BitVec 6) (ord : Order) (sc : Scope) (s : State) :
    Host.Outcome State Fault Refusal :=
  performNext (.amominuD d a b ord sc) (Op.atomic (.amominuD d a b ord sc) d a b ord sc) s

/-- AMOMAXU.d (R278). -/
def execAmomaxuD (d a b : BitVec 6) (ord : Order) (sc : Scope) (s : State) :
    Host.Outcome State Fault Refusal :=
  performNext (.amomaxuD d a b ord sc) (Op.atomic (.amomaxuD d a b ord sc) d a b ord sc) s

/-! ### Reductions (R281 to R283) -/

/-- A reduction of a LOST line traps at its issue (R343). -/
def Op.lineKept (a : Acc) (d : Desc) (w : Where) : Op Unit := do
  let s ← get
  match w with
  | .bank b =>
    let e := s.dirEntry (b / 128)
    if d.cls ≠ 0 && e.state = .lost then Op.trap cLOST a.ref (Word.ofN e.reason)
  | _ => pure ()

/-- An integer RED (R282): the checks at issue; then the operation is sent to its site. -/
def Op.red (i : Instr) (dw : Bool) (a b : BitVec 6) (rel : Bool) (sc : Scope) : Op Unit := do
  let ref ← Op.readG a
  let x ← Op.readG b
  let n := if dw then 8 else 4
  let acc := coreAcc ref n 3
  Op.aligned acc
  let s ← get
  let ag := s.self sc.num
  if s.inSpill ag ref then
    let m ← Op.load ag acc
    Op.store ag acc (match atomicOf i with
      | some (k, _) => (k.new n m (x.toNat % 2 ^ (8 * n)) 0).getD m
      | none => m)
  else if refHandle ref ≤ 1 then
    let (id, off) ← Op.localTarget ag acc true
    if rel then Op.release sc.num
    modify fun s => s.sendOp ⟨ag.core, ag.ctx, false, rel, i, .local id off, n, ref, 0, 0, 0, 0, x, 0, 0, 0⟩
  else
    let d ← Op.descriptor ag acc
    Op.descCheck ag acc (rightR + rightW + rightA) d
    let w ← Op.locate ag acc d false
    Op.lineKept acc d w
    if rel then Op.release sc.num
    match w with
    | .bank addr =>
      let fields := [3, ref.toNat, n, rel.toNat * 2, sc.num, x.toNat]
      discard (Op.twinOnce fields (do
        modify fun s => s.sendOp ⟨ag.core, ag.ctx, false, rel, i, .bank addr, n, ref, d.cls, d.tensor, d.layout, d.profile, x,
          0, 0, 0⟩
        pure []))
    | _ => Op.stall

/-- REDADD (R282). -/
def execRedadd (dw : Bool) (a b : BitVec 6) (rel : Bool) (sc : Scope) (s : State) :
    Host.Outcome State Fault Refusal :=
  performNext (.redadd dw a b rel sc) (Op.red (.redadd dw a b rel sc) dw a b rel sc) s

/-- REDAND (R282). -/
def execRedand (dw : Bool) (a b : BitVec 6) (rel : Bool) (sc : Scope) (s : State) :
    Host.Outcome State Fault Refusal :=
  performNext (.redand dw a b rel sc) (Op.red (.redand dw a b rel sc) dw a b rel sc) s

/-- REDOR (R282). -/
def execRedor (dw : Bool) (a b : BitVec 6) (rel : Bool) (sc : Scope) (s : State) :
    Host.Outcome State Fault Refusal :=
  performNext (.redor dw a b rel sc) (Op.red (.redor dw a b rel sc) dw a b rel sc) s

/-- REDXOR (R282). -/
def execRedxor (dw : Bool) (a b : BitVec 6) (rel : Bool) (sc : Scope) (s : State) :
    Host.Outcome State Fault Refusal :=
  performNext (.redxor dw a b rel sc) (Op.red (.redxor dw a b rel sc) dw a b rel sc) s

/-- REDMIN (R282). -/
def execRedmin (dw : Bool) (a b : BitVec 6) (rel : Bool) (sc : Scope) (s : State) :
    Host.Outcome State Fault Refusal :=
  performNext (.redmin dw a b rel sc) (Op.red (.redmin dw a b rel sc) dw a b rel sc) s

/-- REDMAX (R282). -/
def execRedmax (dw : Bool) (a b : BitVec 6) (rel : Bool) (sc : Scope) (s : State) :
    Host.Outcome State Fault Refusal :=
  performNext (.redmax dw a b rel sc) (Op.red (.redmax dw a b rel sc) dw a b rel sc) s

/-- REDMINU (R282). -/
def execRedminu (dw : Bool) (a b : BitVec 6) (rel : Bool) (sc : Scope) (s : State) :
    Host.Outcome State Fault Refusal :=
  performNext (.redminu dw a b rel sc) (Op.red (.redminu dw a b rel sc) dw a b rel sc) s

/-- REDMAXU (R282). -/
def execRedmaxu (dw : Bool) (a b : BitVec 6) (rel : Bool) (sc : Scope) (s : State) :
    Host.Outcome State Fault Refusal :=
  performNext (.redmaxu dw a b rel sc) (Op.red (.redmaxu dw a b rel sc) dw a b rel sc) s

/-- REDACC (R283): the sources are read at issue, and g[d] is pending until the bank's status arrives. -/
def execRedacc (d a b : BitVec 6) (rel : Bool) (sc : Scope) (s : State) : Host.Outcome State Fault Refusal :=
  performNext (.redacc d a b rel sc) (do
    let an ← Op.readG d
    let dst ← Op.readG a
    let src ← Op.readG b
    let s ← get
    let ag := s.self sc.num
    let dacc : Acc := ⟨dst, 128, 7, 3, 0⟩
    let sacc : Acc := ⟨src, 128, 7, 3, 0⟩
    Op.aligned dacc
    Op.aligned sacc
    if refHandle src ≠ 0 then Op.accTrap cHANDLE sacc 0
    if refHandle dst < 16 then Op.accTrap cHANDLE dacc 0
    Op.checkAccess ag sacc rightR
    let desc ← Op.descriptor ag dacc
    Op.descCheck ag dacc rightA desc
    if desc.layout ≠ 16 then Op.accTrap cRIGHT dacc 0
    let bytes ← Op.load ag sacc
    let w ← Op.locate ag dacc desc false
    Op.lineKept dacc desc w
    if rel then Op.release sc.num
    match w with
    | .bank addr =>
      let fields := [4, dst.toNat, 128, rel.toNat * 2, sc.num, bytes, an.toNat % 1024]
      let op : BankOp := ⟨ag.core, ag.ctx, false, rel, .redacc d a b rel sc, .bank addr, 128, dst, desc.cls, desc.tensor,
        desc.layout, desc.profile, 0, 0, bytes, an.setWidth 10⟩
      discard (Op.twinOnce fields (do
        modify fun s => s.sendOp op
        pure []))
      Op.modCtx fun c => c.setPendG d.toNat true
    | _ => Op.stall) s

/-! ### The bank and the atomic units (R280, R282, R283, R330) -/

/-- The arithmetic unit of a bank, one of the 64 of its stack's memory-side cache (R14, R259), or the atomic unit of a local
memory: what executes an operation at a site. -/
inductive AtomicUnit
  | local (core : CoreId)
  | bank (stack bank : Nat)
  deriving DecidableEq, Repr

def Site.unit : Site → AtomicUnit
  | .local c _ => .local c
  | .bank a => .bank (a / 2 ^ 36) (bankOf (a / 128))

/-- An integer reduction, and a REDACC. -/
def BankOp.isRed (o : BankOp) : Bool := !o.far && (atomicOf o.instr).isSome
def BankOp.isRedacc (o : BankOp) : Bool := !o.far && (atomicOf o.instr).isNone

/-- The operations that are the oldest of their units: units work independently, each in order of arrival (R14). -/
def State.unitHeads (s : State) : List BankOp :=
  (s.unc.bankOps.zipIdx.filter fun e => (s.unc.bankOps.take e.2).all fun x => x.site.unit ≠ e.1.site.unit).map (·.1)

/-- The operation of a kind that acts next. The manual leaves the order between units open, and a free value picks among the
oldest operations of the units (R14, log entry 67). -/
def State.nextOp (s : State) (kind : BankOp → Bool) : Option BankOp :=
  match s.unitHeads.filter kind with
  | [] => none
  | [o] => some o
  | o :: rest => some ((o :: rest).getD (Config.bankTurn s.tick (rest.length + 1) % (rest.length + 1)) o)

/-- The contexts that an operation's outcome goes to: its own, and under TWIN the partner copy's (R433). -/
def State.opTargets (s : State) (o : BankOp) : List CoreId :=
  match s.findTask o.core.task with
  | some t => if t.twin then [o.core, CoreId.partner o.core] else [o.core]
  | none => [o.core]

/-- The die of an operation's site, 8 × package + die (R285). -/
def State.opDie (s : State) (o : BankOp) : Nat := match o.site with
  | .bank a => bankDie a
  | .local id _ => s.pkg.address.toNat * 8 + ((s.findCore id).map fun c => dieOf c.slot).getD 0

/-- A report left for the contexts of an operation (R285); that of a helper which has ended goes to context 0 (R174). -/
def State.reportOp (s : State) (o : BankOp) (cause : Nat) (eaddr einfo : Word) : State :=
  let die := s.opDie o
  (s.opTargets o).foldl (init := s) fun s id =>
    let gone := s.helperGone id o.ctx
    let r : Report := ⟨BitVec.ofNat 8 cause, eaddr, einfo, if gone then .passed (some die) false else .bank die⟩
    s.mapCtx id (if gone then 0 else o.ctx) fun c => { c with reports := c.reports ++ [r] }

/-- The mixed-size check of R330: EINFO where the operation is not applied. -/
def State.mixedClash (s : State) (o : BankOp) (addr : Nat) : Option Word :=
  let q := match s.findCore o.core with
    | some c => c.regs.queue.toNat
    | none => 0
  let here : Bool := addr / 2 ^ 40 = s.pkg.address.toNat
  let checked : Bool := here && (s.die (addr / 2 ^ 36 % 16 / 2)).mixedMask.getLsbD q
  let tag := match NatMap.get s.unc.mixed (addr / 8) with
    | some t => if t = 1 then 4 else 8
    | none => 0
  if checked && tag ≠ 0 && tag ≠ o.n then some (Word.ofN (tag * 16 + o.n)) else none

/-- The agent of an operation at its bank. -/
def State.opAgent (s : State) (o : BankOp) : Agent :=
  match s.findCore o.core with
  | some c => ⟨o.core, o.ctx, c.slot, c.regs.queue.toNat, true, true, 5, true, false, [], false, false, 0⟩
  | none => ⟨o.core, o.ctx, 0, 0, true, true, 5, true, false, [], false, false, 0⟩

/-- Who an operation at a bank is for, as the codes' records name it (R424, R426). -/
def State.opReader (s : State) (o : BankOp) : BankReader :=
  let ag := s.opAgent o
  ⟨dieOf ag.slot, ag.slot, ag.queue, refHandle o.ref,
    { descOf 0 0 0 0 0 with layout := o.layout, profile := o.profile, cls := o.cls, tensor := o.tensor }⟩

/-- The object's byte at `at_`, where an operation acts at `addr`. -/
def BankOp.offAt (o : BankOp) (addr at_ : Nat) : Nat := refOffset o.ref + at_ - addr

/-- What the codes find in `n` bytes at a bank from `at_` on, for an operation at `addr` (R420): where an error is uncorrectable its
severity and bad-byte reference (R480). -/
def Op.bankCheck (o : BankOp) (addr at_ n action : Nat) : Op (Option (Nat × Word)) := do
  let s ← get
  match (← Op.verifyBank (s.opReader o) (o.offAt addr at_) at_ n action) with
  | none => pure none
  | some (sec, sev) =>
    pure (some (sev, if addr < 32 * sec && 32 * sec < addr + o.n then o.ref + Word.ofN (32 * sec - addr) else o.ref))

/-- The bytes that an operation finds at its place, as the codes deliver them. -/
def State.opSettled (s : State) (o : BankOp) (addr n : Nat) : State := s.settled (s.opReader o) (o.offAt addr addr) addr n

/-- The cause of an error met at a bank: bounded and element POISON, structural STRUCT (R420). -/
def severityCause (sev : Nat) : Nat := if sev = 3 then cSTRUCT else cPOISON

/-- Why a bank cannot be reached any more when an operation comes to it: a DOWN package (R347), or a stack of a die fenced at level
2 (R342). While the package is UNREACHABLE the operation waits. -/
def Op.bankGone (addr : Nat) : Op (Option (Nat × Nat)) := do
  let s ← get
  let r := s.reach (addr / 2 ^ 40)
  Op.need (r ≠ 1)
  if r = 3 then pure (some (cREMOTE, 3))
  else if addr / 2 ^ 40 = s.pkg.address.toNat && s.fenceLevel (addr / 2 ^ 36 % 16 / 2) = 2 then pure (some (cLOST, 2))
  else pure none

/-- The line obtained by the bank before it operates on a line of class 1 or 2; the LOST reason if it is refused (R280,
R335). -/
def Op.bankObtain (o : BankOp) (addr : Nat) : Op (Option (Nat × Nat)) := do
  match (← Op.bankGone addr) with
  | some r => pure (some r)
  | none =>
    if o.cls = 0 then
      modify fun s => s.cleanLine (clusterOf (s.opAgent o).slot) (addr / 128)
      pure none
    else return (← Op.dirRequest .bank true (addr / 128)).map fun r => (cLOST, r)

/-- Bytes that a bank's unit writes; the issuing cluster's copy of a class 0 line takes them in the same instant (R321). -/
def State.unitWrite (s : State) (o : BankOp) (tag : Nat) (bytes : BitVec 128) (data : BitVec 1024) : State :=
  let s := s.bankWrite tag bytes data
  let bits := byteBits bytes
  match s.findLine (clusterOf (s.opAgent o).slot) tag with
  | some l => s.putLine { l with
      data := (l.data &&& ~~~bits) ||| (data &&& bits), valid := l.valid ||| bytes, dirty := l.dirty &&& ~~~bytes }
  | none => s

/-- The bytes of an atomic or integer reduction written at the bank, with the size tag of R330. -/
def State.bankStore (s : State) (o : BankOp) (addr v : Nat) : State :=
  let s := s.unitWrite o (addr / 128) (byteMask (addr % 128) o.n) (lineSet 0 (addr % 128) o.n v)
  { s with unc := { s.unc with mixed := s.unc.mixed.set (addr / 8) (if o.n = 4 then 1 else 2) } }

/-- An operation taken from the list. -/
def State.dropOp (s : State) (o : BankOp) : State :=
  { s with unc := { s.unc with bankOps := s.unc.bankOps.erase o } }

/-- A far atomic's answer to its context (R280). -/
def State.answerFar (s : State) (o : BankOp) (r : FarReply) : State :=
  s.mapCtx o.core o.ctx fun c => { c with farGot := some r, wait := none }

/-- The release of a CAS that writes (R277), made at the bank: false where a report must be taken first (R285). -/
def Op.casRelease (o : BankOp) : Op Bool := do
  match o.instr with
  | .cas _ _ _ _ sc _ =>
    if !o.rel then return true
    let s ← get
    let t := s.focus o.core o.ctx
    Op.need (!t.redsIn sc.num)
    if (t.bankReport sc.num).isSome then return false
    if 3 ≤ sc.num then set (s.releaseCluster (clusterOf (s.opAgent o).slot))
    return true
  | _ => return true

/-- A far atomic executed at its bank: what it answers (R280). -/
def Op.farExecute (o : BankOp) : Op FarReply := do
  match o.site, atomicOf o.instr with
  | .bank addr, some (k, n) =>
    let bad (cause : Nat) (eaddr einfo : Word) : Op FarReply := pure (.bad (BitVec.ofNat 8 cause) eaddr einfo)
    match (← Op.bankObtain o addr) with
    | some (cause, reason) => bad cause o.ref (if cause = cLOST then Word.ofN reason else (coreAcc o.ref n 2).info reason)
    | none =>
      let s ← get
      match s.mixedClash o addr with
      | some einfo => bad cMIXSZ o.ref einfo
      | none =>
        match (← Op.bankCheck o addr addr n 2) with
        | some (sev, eaddr) => bad (severityCause sev) eaddr ((coreAcc o.ref n 2).info 0)
        | none =>
          let s ← get
          let m := (s.opSettled o addr n).unc.hbm.value addr n
          match k.new n m (o.x.toNat % 2 ^ (8 * n)) (o.e.toNat % 2 ^ (8 * n)) with
          | some v =>
            if (← Op.casRelease o) then
              modify fun s => (s.opSettled o addr n).bankStore o addr v
              pure (.old (Word.ofN m))
            else pure .reported
          | none => pure (.old (Word.ofN m))
  | _, _ => Op.stall

/-- A far atomic and those that the other members of its fused gang have sent for the same word: they execute together, or none
does (R156, R157). -/
def State.farGroup (s : State) (o : BankOp) : List BankOp :=
  match s.findCore o.core with
  | none => [o]
  | some c =>
    if c.fused && 1 < c.regs.gangsz then
      s.unc.bankOps.filter fun p => p.far && p.ctx = o.ctx && (s.gang c).any fun d => d.id = p.core
    else [o]

/-- Whether every operation of a far atomic's group is the oldest of its unit, but for others of the group. -/
def State.farReady (s : State) (o : BankOp) : Bool :=
  let group := s.farGroup o
  o.far && group.all fun p => (s.unc.bankOps.takeWhile fun q => q ≠ p).all fun q => q.site.unit ≠ p.site.unit || group.contains q

/-- What a far atomic that answers `r` leaves where another of its group does not write: its own trap or report, else nothing. -/
def Op.farTurnedAway (o : BankOp) (r : FarReply) : Op Unit := do
  match r with
  | .old _ => modify fun s => s.mapCtx o.core o.ctx fun c => { c with farGot := none, wait := none }
  | _ =>
    let r ← Op.farExecute o
    modify fun s => s.answerFar o r

/-- FAR_ATOMIC (R280): a bank executes a far atomic, with those of its gang. Where one of them traps or has a report to take, none
of them is applied (R157). -/
def execFarAtomic (s : State) : Host.Outcome State Fault Refusal :=
  runEvent (do
    let s ← get
    let o ← Op.get! (s.nextOp s.farReady)
    let group := s.farGroup o
    let answers ← Op.collect (fun p => do
      let r ← Op.farExecute p
      pure (p, r)) group
    if answers.all fun a => match a.2 with | .old _ => true | _ => false then
      Op.forEach (fun a => modify fun s => s.answerFar a.1 a.2) answers
    else
      set s
      Op.forEach (fun a => Op.farTurnedAway a.1 a.2) answers
    modify fun s => group.foldl State.dropOp s) s

/-- An integer reduction applied at a bank (R282), or reported (R285, R330). It is not applied where its line holds an
uncorrectable error anywhere. -/
def Op.redBank (o : BankOp) (k : AtomicOp) (addr : Nat) : Op Unit := do
  let acc := coreAcc o.ref o.n 3
  match (← Op.bankObtain o addr) with
  | some (cause, reason) =>
    modify fun s => s.reportOp o cause o.ref (if cause = cLOST then Word.ofN reason else acc.info reason)
  | none =>
    let s ← get
    match s.mixedClash o addr with
    | some einfo => set ((s.reportOp o cMIXSZ o.ref einfo).bankRelease (addr / 128))
    | none =>
      match (← Op.bankCheck o addr (addr / 128 * 128) 128 3) with
      | some (sev, eaddr) =>
        modify fun s => (s.reportOp o (severityCause sev) eaddr (acc.info 0)).bankRelease (addr / 128)
      | none =>
        modify fun s =>
          let s := s.opSettled o addr o.n
          let m := s.unc.hbm.value addr o.n
          let v := (k.new o.n m (o.x.toNat % 2 ^ (8 * o.n)) 0).getD m
          (s.bankStore o addr v).bankRelease (addr / 128)

/-- An integer reduction applied at a local memory's atomic unit (R282). -/
def Op.redLocal (o : BankOp) (k : AtomicOp) (id : CoreId) (off : Nat) : Op Unit := fun s =>
  let ag := s.opAgent o
  let acc := coreAcc o.ref o.n 3
  match (Op.lmCheck ag acc id off o.n) s with
  | .error (.trap t) => .ok ((), (s.logTrap t).reportOp o t.cause.toNat t.eaddr t.einfo)
  | .error e => .error e
  | .ok (_, s) =>
    match s.findCore id with
    | none => .ok ((), s)
    | some c =>
      let m := c.lm.value off o.n
      let v := (k.new o.n m (o.x.toNat % 2 ^ (8 * o.n)) 0).getD m
      .ok ((), s.lmWrite id off (bytesOf o.n v))

/-- RED_APPLY (R282): a site applies an integer reduction. -/
def execRedApply (s : State) : Host.Outcome State Fault Refusal :=
  runEvent (do
    let s ← get
    let o ← Op.get! (s.nextOp BankOp.isRed)
    match o.site, atomicOf o.instr with
    -- an operation that waits for its line stays at its bank (R336, R338)
    | .bank addr, some (k, _) =>
      Op.redBank o k addr
      modify fun s => s.dropOp o
    | .local id off, some (k, _) =>
      set (s.dropOp o)
      Op.redLocal o k id off
    | _, none => Op.stall) s

/-- The eight images of a 128-byte line (R283). -/
def lineImages (n : Nat) : List Nat := elems 128 8 n

/-- The status of a REDACC, and the line it leaves (R283). -/
def redaccResult (tagged : Option (BitVec 10)) (an : BitVec 10) (line src : Nat) : Nat × Nat :=
  match Elem.ofImages (lineImages src), Elem.ofImages (lineImages line) with
  | some xs, some ls =>
    if tagged.isSome && tagged ≠ some an then (1, line)
    else (0, packElems 128 ((List.zipWith Elem.combine ls xs).map Elem.image))
  | _, _ => (2, line)

/-- The status of a REDACC delivered to its register (R283). -/
def State.answerRedacc (s : State) (o : BankOp) (st : Nat) : State :=
  match o.instr with
  | .redacc d _ _ _ _ =>
    (s.opTargets o).foldl (init := s) fun s id => s.mapCtx id o.ctx fun c =>
      (c.setG d.toNat (Word.ofN st)).setPendG d.toNat false
  | _ => s

/-- A REDACC combined into its line at the bank (R283). -/
def State.combineAt (s : State) (o : BankOp) (tag : Nat) : State :=
  let r := redaccResult (NatMap.get s.unc.anchors tag) o.anchor (s.bankLine tag).toNat o.images
  let t := if r.1 = 0 then
      let t := s.unitWrite o tag (BitVec.allOnes 128) (BitVec.ofNat 1024 r.2)
      { t with unc := { t.unc with anchors := t.unc.anchors.set tag o.anchor } }
    else s
  t.answerRedacc o r.1

/-- REDACC_APPLY (R283): a bank applies a REDACC. A line that is LOST or out of reach, and one in error,
refuses it with status 3 and reports it (R285, R343). -/
def execRedaccApply (s : State) : Host.Outcome State Fault Refusal :=
  runEvent (do
    let s ← get
    let o ← Op.get! (s.nextOp BankOp.isRedacc)
    match o.site with
    | .local _ _ => Op.stall
    | .bank addr =>
      let acc : Acc := ⟨o.ref, 128, 7, 3, 0⟩
      let refuse (cause : Nat) (eaddr einfo : Word) : Op Unit :=
        modify fun s => ((s.reportOp o cause eaddr einfo).answerRedacc o 3).bankRelease (addr / 128)
      match (← Op.bankObtain o addr) with
      | some (cause, reason) => refuse cause o.ref (if cause = cLOST then Word.ofN reason else acc.info reason)
      | none =>
        match (← Op.bankCheck o addr addr 128 3) with
        | some (sev, eaddr) => refuse (severityCause sev) eaddr (acc.info 0)
        | none => modify fun s => ((s.opSettled o addr 128).combineAt o (addr / 128)).bankRelease (addr / 128)
      modify fun s => s.dropOp o) s

end Sys2Proof.Machine
end

