-- ==== Sys2Proof/Machine/Rings.lean ====
section
/-! DEFINITION. Rings: configuration, waits and advances (R47 to R51, R286 to R291). -/

namespace Sys2Proof.Machine

/-- Words 0x00 and 0x08 of a ring configuration (R47). -/
def Ring.word0 (r : Ring) : Word :=
  Word.ofN (r.broken.toNat * 2 ^ 28 + r.count.toNat * 2 ^ 24 + r.size.toNat * 2 ^ 20 + r.base.toNat)

def Ring.word1 (r : Ring) : Word := Word.ofN (r.consumer.toNat * 2 ^ 32 + r.producer.toNat)

/-- The slots of a ring, its slot size in bytes, and the slots filled (R47, R49). -/
def Ring.slots (r : Ring) : Nat := 2 ^ r.count.toNat
def Ring.slotBytes (r : Ring) : Nat := 32 * 2 ^ r.size.toNat
def Ring.filled (r : Ring) : Nat := (r.producer - r.consumer).toNat

/-- The place of slot n (R49). -/
def Ring.slotAt (r : Ring) (n : BitVec 32) : Nat := r.base.toNat + n.toNat % r.slots * r.slotBytes

/-- Whether a handle is configured (R48). -/
def Ring.configured (r : Ring) : Bool := r.count ≠ 0

/-- The ring that two configuration words give, if they are valid (R48). -/
def Ring.ofWords (w0 w1 : Word) : Option Ring :=
  let r : Ring := ⟨w0.getLsbD 28, BitVec.ofNat 4 (w0.bits 27 24), BitVec.ofNat 4 (w0.bits 23 20),
    BitVec.ofNat 20 (w0.bits 19 0), BitVec.ofNat 32 (w1.bits 63 32), BitVec.ofNat 32 (w1.bits 31 0)⟩
  if w0.bits 63 29 = 0 && !r.broken && 1 ≤ r.count.toNat && r.count.toNat ≤ 12 && r.size.toNat ≤ 11 &&
      r.base.toNat % 32 = 0 && r.base.toNat + r.slots * r.slotBytes ≤ 0x100000 && r.consumer = r.producer
  then some r else none

/-- A ring of a logical core, and a change of it. -/
def LCore.ring (c : LCore) (h : Nat) : Ring := c.rings.toList.getD h Ring.zero

def LCore.setRing (c : LCore) (h : Nat) (r : Ring) : LCore :=
  if hh : h < 8 then { c with rings := c.rings.set h r } else c

/-- A producer or consumer advance by m where the ring allows it (R49, R50). -/
def Ring.produce (r : Ring) (m : Nat) : Option Ring :=
  if r.filled + m ≤ r.slots then some { r with producer := r.producer + BitVec.ofNat 32 m } else none

def Ring.consume (r : Ring) (m : Nat) : Option Ring :=
  if m ≤ r.filled then some { r with consumer := r.consumer + BitVec.ofNat 32 m } else none

/-- Whether a matrix command names a handle: an MMAR's ring word (R51). -/
def MCmd.namesRing (m : MCmd) (h : Nat) : Bool :=
  match m.instr with
  | .mmar _ _ _ _ => m.gb.toNat % 8 = h
  | _ => false

/-- Whether a queued copy counts as naming every handle: a CPY (R51). -/
def CopyCmd.isCpy (c : CopyCmd) : Bool :=
  match c.instr with
  | .cpy _ _ _ => true
  | _ => false

/-- Whether a queued or running engine command names a handle (R51). -/
def LCore.namesRing (c : LCore) (h : Nat) : Bool :=
  c.mx.queue.any (fun m => m.namesRing h) ||
  (match c.mx.running with | some r => r.cmd.namesRing h | none => false) ||
  c.copies.queue.any CopyCmd.isCpy ||
  c.copies.flight.any fun f => (f.shape.srcRing || f.shape.dstRing) && f.shape.ring = h

/-- A RING trap (R287). -/
def Op.ringTrap {α : Type} (h : BitVec 3) (reason : Nat) : Op α :=
  Op.trap cRING 0 (Word.ofN (h.toNat * 2 ^ 8 + reason))

/-- A configured ring (R48). -/
def Op.ring (h : BitVec 3) : Op Ring := do
  let c ← Op.core
  let r := c.ring h.toNat
  if r.configured then pure r else Op.ringTrap h 2

def Op.setRing (h : BitVec 3) (r : Ring) : Op Unit := Op.modCore fun c => c.setRing h.toNat r

/-- The record that an RSET reads, once: while a command names the handle it waits with what it has read (R288). -/
def Op.ringRecord (h : BitVec 3) (ref : Word) : Op Nat := do
  let s ← get
  match s.ctx.ringRec with
  | some (r, v) =>
    Op.need (r = ref && !s.core.namesRing h.toNat)
    return v
  | none =>
    let acc := coreAcc ref 16 0
    Op.aligned acc
    let v ← Op.loadMsg [0, ref.toNat, 16, 0, 0] ref (Op.load (s.self 0) acc)
    let c ← Op.core
    if c.namesRing h.toNat then
      Op.modCtx fun x => { x with ringRec := some (ref, v) }
      Op.block
    return v

/-- RSET (R288). -/
def execRset (h : BitVec 3) (a : BitVec 6) (s : State) : Host.Outcome State Fault Refusal :=
  performNext (.rset h a) (do
    let ref ← Op.readG a
    let v ← Op.ringRecord h ref
    match Ring.ofWords (Word.ofN v) (Word.ofN (v / 2 ^ 64)) with
    | some r => Op.setRing h r
    | none => Op.ringTrap h 1) s

/-- A wait on a ring: traps, then the condition (R289). -/
def Op.ringWait (h : BitVec 3) (m : BitVec 4) (ready : Ring → Nat → Bool) : Op Unit := do
  let r ← Op.ring h
  let n := m.toNat + 1
  if r.slots < n then Op.ringTrap h 5
  else if r.broken then Op.ringTrap h 4
  else Op.need (ready r n)

/-- WAITF (R289). -/
def execWaitf (h : BitVec 3) (m : BitVec 4) (s : State) : Host.Outcome State Fault Refusal :=
  performNext (.waitf h m) (Op.ringWait h m fun r n => n ≤ r.filled) s

/-- WAITE (R289). -/
def execWaite (h : BitVec 3) (m : BitVec 4) (s : State) : Host.Outcome State Fault Refusal :=
  performNext (.waite h m) (Op.ringWait h m fun r n => n ≤ r.slots - r.filled) s

/-- An advance by a context: traps, then the test and the change in one step; a release at cluster scope (R290). -/
def Op.ringAdvance (h : BitVec 3) (m : BitVec 4) (f : Ring → Nat → Option Ring) : Op Unit := do
  let r ← Op.ring h
  if r.broken then Op.ringTrap h 4
  else match f r (m.toNat + 1) with
    | none => Op.ringTrap h 3
    | some r' =>
      Op.releaseWait 2
      Op.setRing h r'

/-- ADVP (R290). -/
def execAdvp (h : BitVec 3) (m : BitVec 4) (s : State) : Host.Outcome State Fault Refusal :=
  performNext (.advp h m) (Op.ringAdvance h m Ring.produce) s

/-- ADVC (R290). -/
def execAdvc (h : BitVec 3) (m : BitVec 4) (s : State) : Host.Outcome State Fault Refusal :=
  performNext (.advc h m) (Op.ringAdvance h m Ring.consume) s

/-- RSTAT (R291). -/
def execRstat (d : BitVec 6) (h : BitVec 3) (w : BitVec 1) (s : State) : Host.Outcome State Fault Refusal :=
  performNext (.rstat d h w) (do
    Op.freeG d
    let r ← Op.ring h
    Op.writeG d (if w = 0 then r.word0 else r.word1)) s

end Sys2Proof.Machine
end

