-- ==== Sys2Proof/Machine/Engine.lean ====
section
/-! DEFINITION. What the copy, matrix and collective engines share: access checks at take (R225, R296), reads and writes
by reference with their stops (R243, R297, R420, R476), and tokens. -/

namespace Sys2Proof.Machine

/-- Why an engine's work does not go on. -/
inductive Snag
  /-- it stops: cause, EADDR, EINFO where the cause's own rule gives it, and whether the issuing context traps for it
  (R243, R420). -/
  | stop (cause : Nat) (eaddr : Word) (einfo : Option Word) (precise : Bool)
  /-- the frame at this reference is not resident (R303). -/
  | notres (ref : Word) (desc : Nat)
  /-- the frame is MOVING, or its package UNREACHABLE: the engine waits. -/
  | hold (ref : Word) (package : BitVec 13)
  deriving DecidableEq, Repr

/-- A trap that an operation raises, as a value; what it logged stands. -/
def Op.attempt {α : Type} (op : Op α) : Op (Except Trap α) := fun s =>
  match op s with
  | .ok (a, s') => .ok (.ok a, s')
  | .error (.trap t) => .ok (.error t, s.logTrap t)
  | .error e => .error e

/-- The stop that an engine makes of a trap of one of its accesses (R420). -/
def stopOf (t : Trap) : Snag :=
  let c := t.cause.toNat
  .stop c t.eaddr (if c = cLOST then some t.einfo else none) (c = cPOISON || c = cSTRUCT || c = cLOST)

/-- The stop that an engine makes of a trap of a descriptor's fill or of a walk, whose reason the trap's rule gives (R420). -/
def tableStop (t : Trap) : Snag :=
  let c := t.cause.toNat
  if c = cSTRUCT then .stop c t.eaddr (some t.einfo) true else stopOf t

/-- The agent of an engine command of a logical core's context: mode at this moment, EL as recorded at issue. -/
def State.engineAgent (_s : State) (c : LCore) (n : Nat) (sevpol : Word) (scope : Nat) : Agent where
  core := c.id
  ctx := n
  slot := c.slot
  queue := c.regs.queue.toNat
  sup := match c.findCtx n with
    | some x => x.supervisor
    | none => false
  el := sevpol.getLsbD 1
  scope := scope
  engine := true
  counted := false
  under := []
  strict := false
  hostBad := false
  quiet := 0

/-- Whether the residency service has refused the frame that a command at its take needs, which uses the refusal up;
otherwise the frame is asked for (R263, R303). -/
def Op.takeRefused (ag : Agent) (ref : Word) (desc : Nat) : Op Bool := do
  let s ← get
  let d := dieOf ag.slot
  let frame := Word.ofN (ref.toNat / 65536 * 65536)
  let mine (r : ResReq) : Bool := r.ref = frame && r.desc = desc && r.core = ag.core
  if (s.die d).refused.any mine then
    set (s.mapDie d fun x => { x with refused := x.refused.filter fun r => !mine r })
    pure true
  else
    set (s.requestResidency ag ref desc 3 d)
    pure false

/-- Whether an engine command of a logical core has waited 10 ms at its take for a package (R347). -/
def State.routeExpired (s : State) (p : BitVec 13) (id : CoreId) : Bool :=
  s.pkg.remotes.any fun r => r.package = p && r.expired.contains id

/-- An engine start counted while the power limit delays starts (R462). -/
def State.countDelayed (s : State) : State :=
  if s.pkg.delaying && s.pkg.powerDelayed ≠ BitVec.allOnes 32 then
    { s with pkg := { s.pkg with powerDelayed := s.pkg.powerDelayed + 1 } }
  else s

/-- Where the bytes of an engine's reference are. -/
inductive Spot
  | local (id : CoreId) (off : Nat)
  | object (d : Desc) (w : Where)
  deriving DecidableEq, Repr

/-- A local place with no further checks: they were made at take (R119, R225, R296). -/
def State.localSpot (s : State) (ag : Agent) (ref : Word) : Option Spot :=
  match s.findCore ag.core with
  | none => none
  | some me =>
    if refHandle ref = 0 then some (.local me.id (refOffset ref))
    else match s.windowCore me (refOffset ref / 2 ^ 20 % 16) with
      | some c => some (.local c.id (refOffset ref % 2 ^ 20))
      | none => none

/-- The place of an engine's access of `n` bytes, within one line. -/
def Op.spot (ag : Agent) (a : Acc) (isRead : Bool) : Op (Except Snag Spot) := do
  let s ← get
  if refHandle a.ref ≤ 1 then
    match s.localSpot ag a.ref with
    | some p => pure (.ok p)
    | none => pure (.error (.stop cRIGHT a.ref none false))
  else
    match (← Op.attempt (Op.descriptor ag a)) with
    | .error t => pure (.error (tableStop t))
    | .ok d =>
      let w ← Op.translate (dieOf ag.slot) d (refOffset a.ref) isRead
      let s ← get
      match w with
      | .bad => pure (.error (.stop cSTRUCT a.ref (some (a.info 0xFE)) true))
      | .unread =>
        match (← Op.attempt (α := Unit) (Op.tableTrap ag a 0xFD)) with
        | .error t => pure (.error (tableStop t))
        | .ok _ => Op.stall
      | .moving => pure (.error (.hold a.ref s.pkg.address))
      | .stale => pure (.error (.stop cREMOTE a.ref none false))
      | .notres _ => pure (.error (.notres a.ref d.addr))
      | .host h =>
        if s.pkg.hostUp && !(isRead && ag.hostBad) then pure (.ok (.object d (.host h)))
        else pure (.error (.stop cREMOTE a.ref none false))
      | .bank b =>
        match s.reach (b / 2 ^ 40) with
        | 0 =>
          if b / 2 ^ 40 = s.pkg.address.toNat && s.fenceLevel (b / 2 ^ 36 % 16 / 2) = 2
          then pure (.error (.stop cLOST a.ref (some 2) true))
          else pure (.ok (.object d (.bank b)))
        | 1 => pure (.error (.hold a.ref (BitVec.ofNat 13 (b / 2 ^ 40))))
        | _ => pure (.error (.stop cREMOTE a.ref none false))

/-- What an engine has read in one command: by 32-byte place, the 32 bytes delivered and whether elements were
substituted in it; and by line, the flips of lines whose copy was invalidated after they were read whole (R476). -/
structure Sectors where
  got : NatMap (Nat × Bool)
  shots : NatMap (List Flip)
  deriving DecidableEq, Repr

/-- Nothing read yet. -/
def Sectors.start : Sectors := ⟨[], []⟩

/-- A 32-byte sector of an object read by an engine for its bytes [o, o + n), with the flips of its line as they were
before the read where its copy is clean (R420, R476). -/
def Op.engineSector (ag : Agent) (a : Acc) (d : Desc) (w : Where) : Op (Nat × Nat × List Flip) := do
  match w with
  | .host h => do
    let s ← get
    pure (s.unc.host.value (h / 32 * 32) 32, 0, [])
  | .bank b =>
    if d.cls = 0 && State.scopeWide ag.scope then
      modify fun s => s.cleanLine (clusterOf ag.slot) (b / 128)
      let s ← get
      let r ← Op.bankSector ag a d b (refOffset a.ref) a.n
      pure (r.1, r.2, if s.unc.mscDirty.contains (b / 128) then [] else s.flipsFromBank (b / 128))
    else
      let (l, got) ← Op.ensureLine ag a d (b / 128) false
      let r ← Op.lineSector ag a d l got (refOffset a.ref) (b % 128) a.n
      pure (r.1, r.2, if l.dirty ≠ 0 then [] else l.flips.filter fun f => l.sees ag.slot f)
  | _ => Op.stall

/-- A further sector of a line that was read whole and whose copy is gone since (R476). -/
def Op.engineAgain (ag : Agent) (a : Acc) (d : Desc) (b : Nat) (shot : List Flip) : Op (Nat × Nat × List Flip) := do
  let s ← get
  let wide : Bool := d.cls = 0 && State.scopeWide ag.scope
  let held : Held := if wide then .msc (b / 128) else .cc (clusterOf ag.slot) (b / 128)
  let mask := sectorFlips shot 0 (b / 32 % 4)
  let r ← Op.deliver ag a d held (b / 32 % 4) (if wide then 3 else 2) (refOffset a.ref - b % 32) (s.unc.hbm.value (b / 32 * 32) 32) mask
    (b % 32) a.n
  pure (r.1, r.2, shot)

/-- The tag of the line that holds a place. -/
def lineKey : Where → Nat
  | .bank b => b / 128
  | _ => 0

/-- The key of a sector: bank places, then host places. -/
def sectorKey : Where → Nat
  | .bank b => b / 32 * 2
  | .host h => h / 32 * 2 + 1
  | _ => 0

/-- The `n` bytes at a reference, within one sector, read by an engine, with the element width where the sector is substituted and 0
where it is not. A sector is verified once (R476). -/
def Op.enginePiece (ag : Agent) (a : Acc) (seen : Sectors) : Op (Except Snag (Nat × Nat) × Sectors) := do
  match (← Op.spot ag a true) with
  | .error e => pure (.error e, seen)
  | .ok (.local id off) =>
    match (← Op.attempt (Op.localLoad ag a id off)) with
    | .error t => pure (.error (stopOf t), seen)
    | .ok v => pure (.ok (v, 0), seen)
  | .ok (.object d w) =>
    let o := refOffset a.ref % 32
    match NatMap.get seen.got (sectorKey w) with
    | some (v, sub) =>
      if sub then modify fun s => s.defer ag (elementsIn (layoutWidth d.layout) (refOffset a.ref) a.n)
      pure (.ok (sectorSlice v o a.n, if sub then layoutWidth d.layout else 0), seen)
    | none =>
      let op := match NatMap.get seen.shots (lineKey w), w with
        | some shot, .bank b => Op.engineAgain ag a d b shot
        | _, _ => Op.engineSector ag a d w
      match (← Op.attempt op) with
      | .error t => pure (.error (stopOf t), seen)
      | .ok (v, st, shot) =>
        pure (.ok (sectorSlice v o a.n, if st = 2 then layoutWidth d.layout else 0), ⟨seen.got.set (sectorKey w) (v, st = 2),
          if (st = 1 || st = 2) && shot ≠ [] then seen.shots.set (lineKey w) shot else seen.shots⟩)

/-- The pieces of a range of bytes that lie within one sector each: reference and length, in ascending order. -/
def pieces : Nat → Word → Nat → List (Word × Nat)
  | 0, _, _ => []
  | fuel + 1, ref, n =>
    if n = 0 then []
    else
      let k := min n (32 - refOffset ref % 32)
      (ref, k) :: pieces fuel (ref + Word.ofN k) (n - k)

def piecesOf (ref : Word) (n : Nat) : List (Word × Nat) := pieces (n / 32 + 2) ref n

/-- What an engine has read of a range: the bytes before the first snag, their value, the element width where the last sector was
substituted (0 where it was not), the sectors seen. -/
structure ReadRun where
  got : Nat
  value : Nat
  sub : Nat
  seen : Sectors
  snag : Option Snag
  deriving DecidableEq, Repr

/-- The bits of an element that lie before bit `p` of its object, where it straddles that place. -/
def straddle (w p : Nat) : Nat := if w = 0 then 0 else p % w

/-- A piece of `n` bytes from bit `p` of the object joined to what has been read before it: an element that straddles the place
between a substituted sector and one that is not is zero whole (R420). -/
def ReadRun.join (r : ReadRun) (p n : Nat) (v sub : Nat) (seen : Sectors) : ReadRun :=
  let low := straddle sub p
  let value := if r.sub = 0 && r.got ≠ 0 then r.value % 2 ^ (8 * r.got - low) else r.value
  let high := straddle r.sub p
  let v := if sub = 0 && high ≠ 0 then v / 2 ^ (r.sub - high) * 2 ^ (r.sub - high) else v
  ⟨r.got + n, value + 2 ^ (8 * r.got) * v, sub, seen, none⟩

/-- Whether an element straddles into a substituted sector from one that was substituted too: it has been counted there (R420). -/
def ReadRun.countedTwice (r : ReadRun) (p sub : Nat) : Bool := r.sub ≠ 0 && sub ≠ 0 && straddle sub p ≠ 0

def Op.readPieces (ag : Agent) (kind : Nat) : List (Word × Nat) → ReadRun → Op ReadRun
  | [], r => pure r
  | (ref, n) :: ps, r => do
    let (v, seen) ← Op.enginePiece ag ⟨ref, n, 0xF, kind, 0⟩ r.seen
    match v with
    | .error e => pure { r with snag := some e, seen := seen }
    | .ok (v, sub) =>
      let p := 8 * refOffset ref
      if r.countedTwice p sub then modify fun s => s.undefer ag
      Op.readPieces ag kind ps (r.join p n v sub seen)

/-- `n` bytes at a reference read by an engine, as far as they can be. -/
def Op.engineRead (ag : Agent) (ref : Word) (n : Nat) (seen : Sectors) : Op ReadRun :=
  Op.readPieces ag 0 (piecesOf ref n) ⟨0, 0, 0, seen, none⟩

/-- A write of `n` bytes within one sector by an engine. Its digest contribution is counted by the whole run. -/
def Op.enginePut (ag : Agent) (a : Acc) (v : Nat) : Op (Option Snag) := do
  match (← Op.spot ag a false) with
  | .error e => pure (some e)
  | .ok (.local id off) =>
    match (← Op.attempt (Op.localStore ag a id off v (2 ^ a.n - 1))) with
    | .error t => pure (some (stopOf t))
    | .ok _ => pure none
  | .ok (.object d w) =>
    match (← Op.attempt (Op.placeStore ag a d w v (2 ^ a.n - 1))) with
    | .error t => pure (some (stopOf t))
    | .ok _ => pure none

/-- The bytes written before the first snag. -/
def Op.putPieces (ag : Agent) : List (Word × Nat) → Nat → Nat → Op (Nat × Option Snag)
  | [], _, done => pure (done, none)
  | (ref, n) :: ps, v, done => do
    match (← Op.enginePut ag ⟨ref, n, 0xF, 1, 0⟩ (v % 2 ^ (8 * n))) with
    | some e => pure (done, some e)
    | none => Op.putPieces ag ps (v / 2 ^ (8 * n)) (done + n)

/-- The digest contributions of a run of bytes written to an object (R442). -/
def Op.countRun (ag : Agent) (counted : Bool) (ref : Word) (n v : Nat) : Op Unit := do
  if n = 0 || refHandle ref ≤ 1 || !counted then pure ()
  else
    match (← Op.attempt (Op.descriptor ag ⟨ref, 1, 0, 1, 0⟩)) with
    | .error _ => pure ()
    | .ok d =>
      let s ← get
      if s.digests { ag with counted := true } d then
        set (s.addDigest ag (digestBytes d.tensor (refOffset ref) n v (2 ^ n - 1)))

/-- `n` bytes written by an engine at a reference, as far as they can be: the bytes written, and the snag. -/
def Op.engineWrite (ag : Agent) (counted : Bool) (ref : Word) (n v : Nat) : Op (Nat × Option Snag) := do
  let r ← Op.putPieces ag (piecesOf ref n) v 0
  Op.countRun ag counted ref r.1 (v % 2 ^ (8 * r.1))
  pure r

/-! ### Checks at take (R225, R296, R379) -/

/-- The checks of an engine's operand over the bytes [lo, hi] relative to its reference: the cause of the first failure
(R296 step 4, without MISAL and layout). -/
def Op.spanCheck (ag : Agent) (ref : Word) (lo hi : Int) (need : Nat) (layout : Nat) : Op (Option Nat) := do
  let base : Int := refOffset ref
  let out : Bool := base + lo < 0 || (2 ^ 40 : Int) ≤ base + hi
  let first := Word.ofN (refHandle ref * 2 ^ 40 + (base + lo).toNat)
  let n := (hi - lo + 1).toNat
  if refHandle ref ≤ 1 then
    let s ← get
    let far : Bool := refHandle ref = 1
    let lone := far && match s.findCore ag.core with
      | some me => (s.windowCore me (refOffset ref / 2 ^ 20 % 16)).isNone
      | none => true
    if lone then pure (some cRIGHT)
    else if out || (far && (base + lo) / 2 ^ 20 ≠ base / 2 ^ 20) then pure (some cBOUND)
    else
      match (← Op.attempt (Op.localTarget ag ⟨first, n, 0xF, 0, 0⟩ true)) with
      | .error t => pure (some t.cause.toNat)
      | .ok _ => pure none
  else
    match (← Op.attempt (Op.descriptor ag ⟨ref, 1, 0xF, 0, 0⟩)) with
    | .error t => pure (some t.cause.toNat)
    | .ok d =>
      if d.cls = 2 && !ag.sup then pure (some cPRIV)
      else if !d.has need then pure (some cRIGHT)
      else if layout ≠ 0 && d.layout ≠ layout then pure (some cILL)
      else if out || (d.length : Int) ≤ base + hi then pure (some cBOUND)
      else pure none

/-! ### Tokens -/

/-- The acquire that the first read of a token makes (R298, R240): made here when the token is written. -/
def State.tokenAcquire (s : State) (id : CoreId) (scope : Nat) : State :=
  match s.findCore id with
  | some c => if 3 ≤ scope then s.acquireCluster (clusterOf c.slot) else s
  | none => s

/-- A token written to a context's register (R224, R299). -/
def State.writeToken (s : State) (id : CoreId) (n : Nat) (t : BitVec 6) (v : Word) : State :=
  if t = 0 then s
  else s.mapCtx id n fun c => (c.setG t.toNat v).setPendG t.toNat false

/-- A stopped command's report (R243, R420). -/
def State.reportStop (s : State) (id : CoreId) (n : Nat) (t : BitVec 6) (isMatrix : Bool) (cause : Nat)
    (eaddr einfo : Word) : State :=
  let gone := s.helperGone id n
  let r : Report := ⟨BitVec.ofNat 8 cause, eaddr, einfo, if gone then .passed none isMatrix else .engine t isMatrix⟩
  s.mapCtx id (if gone then 0 else n) fun c => { c with reports := c.reports ++ [r] }

/-- A core access by an engine that must not trap, or its trap as a cause (a record, a descriptor, a table). -/
def Op.engineLoadCause (ag : Agent) (a : Acc) : Op (Option Nat) := do
  match (← Op.attempt (Op.checkAccess ag a rightR)) with
  | .error t => pure (some t.cause.toNat)
  | .ok _ => pure none

end Sys2Proof.Machine
end

