-- ==== Sys2Proof/Machine/Shape.lean ====
section
/-! DEFINITION. Shape records (R41 to R46): their fields, their validity, the rows they name, their footprints and their
residual records (R304). -/

namespace Sys2Proof.Machine

/-- A signed 32-bit half of a word. -/
def halfInt (w : Word) (hi : Bool) : Int := elemInt true 32 (if hi then w.bits 63 32 else w.bits 31 0)

/-- The record of eight words (R41). -/
def Shape.ofWords (w : List Word) : Shape :=
  let x (i : Nat) : Word := w.getD i 0
  { kind := (x 0).bits 7 0
    layout := (x 0).bits 15 8
    rank := (x 0).bits 23 16
    srcRing := (x 0).getLsbD 24
    dstRing := (x 0).getLsbD 25
    reserved := (x 0).bits 31 26 ≠ 0 || (x 0).bits 63 40 ≠ 0
    ring := (x 0).bits 39 32
    src := x 1
    dst := x 2
    d0 := (x 3).bits 15 0
    d1 := (x 3).bits 31 16
    d2 := (x 3).bits 47 32
    d3 := (x 3).bits 63 48
    ss1 := halfInt (x 4) false
    ss2 := halfInt (x 4) true
    ss3 := halfInt (x 5) false
    ds1 := halfInt (x 5) true
    ds2 := halfInt (x 6) false
    ds3 := halfInt (x 6) true
    aux := x 7 }

/-- Two signed 32-bit halves as a word. -/
def halves (lo hi : Int) : Word := Word.ofN (elemOfInt 32 hi * 2 ^ 32 + elemOfInt 32 lo)

/-- The eight words of a record (R41). -/
def Shape.words (s : Shape) : List Word :=
  [Word.ofN (s.ring * 2 ^ 32 + s.dstRing.toNat * 2 ^ 25 + s.srcRing.toNat * 2 ^ 24 + s.rank * 2 ^ 16 +
      s.layout * 2 ^ 8 + s.kind),
    s.src, s.dst, Word.ofN (s.d3 * 2 ^ 48 + s.d2 * 2 ^ 32 + s.d1 * 2 ^ 16 + s.d0),
    halves s.ss1 s.ss2, halves s.ss3 s.ds1, halves s.ds2 s.ds3, s.aux]

/-- LINEAR, and FILL at rank 1, hold one count (R42). -/
def Shape.linear (s : Shape) : Bool := s.kind = 0 || (s.kind = 9 && s.rank = 1)

/-- Whether the layout's elements move as packed blocks (R45). -/
def packedLayout (l : Nat) : Bool := l = 6 || l = 7 || l = 8 || l = 11

/-- The rank that a kind requires (R42). -/
def Shape.rankOk (s : Shape) : Bool :=
  match s.kind with
  | 0 | 6 | 7 => s.rank = 1
  | 1 | 4 | 5 | 8 => s.rank = 2
  | 2 => s.rank = 3
  | 3 => s.rank = 4
  | _ => s.rank = 1 || s.rank = 2

/-- The unit that strides are multiples of (R45). -/
def strideUnit (layout : Nat) : Nat :=
  if packedLayout layout then layoutUnit layout
  else if layout = 15 then 8 else layoutWidth layout / 8

/-- Extents at or beyond the rank are zero (R42). -/
def Shape.extentsOk (s : Shape) : Bool :=
  if s.linear then s.d2 = 0 && s.d3 = 0
  else (1 < s.rank || s.d1 = 0) && (2 < s.rank || s.d2 = 0) && (3 < s.rank || s.d3 = 0)

/-- A valid record (R43, R45); the slot of a ring side and the alignment of references are checked later (R296). -/
def Shape.valid (s : Shape) : Bool :=
  let strides := [s.ss1, s.ss2, s.ss3, s.ds1, s.ds2, s.ds3]
  let mx := s.kind = 6 || s.kind = 7
  !s.reserved && s.kind ≤ 9 && s.rankOk && s.layout ≤ 16 && s.extentsOk &&
  s.ring ≤ 7 && (s.srcRing || s.dstRing || s.ring = 0) && !(s.srcRing && s.dstRing) &&
  (!(s.srcRing || s.dstRing) || s.kind ≤ 2) &&
  (!s.srcRing || refHandle s.src = 0) && (!s.dstRing || refHandle s.dst = 0) &&
  (s.kind ≠ 0 || strides.all fun x => x = 0) &&
  (s.kind ≠ 9 || (s.ss1 = 0 && s.ss2 = 0 && s.ss3 = 0)) &&
  (!mx || (4 ≤ s.layout && s.layout ≤ 8)) &&
  (s.kind ≠ 8 || layoutWidth s.layout = 8 || layoutWidth s.layout = 16 || layoutWidth s.layout = 32) &&
  (!(packedLayout s.layout || mx) || s.d0 % 32 = 0) &&
  strides.all fun x => x % (strideUnit s.layout : Int) = 0

/-- Element bits, and the bytes of `n` elements. -/
def Shape.width (s : Shape) : Nat := layoutWidth s.layout
def Shape.bytes (s : Shape) (n : Nat) : Nat := n * s.width / 8

/-- The unit that takes effect as a whole: its bytes and its elements (R297, R305). -/
def Shape.unit (s : Shape) : Nat × Nat := if packedLayout s.layout then (layoutUnit s.layout, 32) else (s.width / 8, 1)

/-- The block byte size of a format (R229). -/
def blockBytes (layout : Nat) : Nat := 4 * layoutWidth layout

/-- The number of rows, and the elements of row `r` (R301). -/
def Shape.total (s : Shape) : Nat :=
  if s.linear then s.d1 * 65536 + s.d0
  else match s.kind with
    | 6 | 7 => s.d0
    | 2 => s.d0 * s.d1 * s.d2
    | 3 => s.d0 * s.d1 * s.d2 * s.d3
    | _ => s.d0 * s.d1

def Shape.rows (s : Shape) : Nat :=
  if s.total = 0 then 0
  else if s.linear then (s.total + 4095) / 4096
  else match s.kind with
    | 6 | 7 => s.d0 / 32
    | 2 => s.d1 * s.d2
    | 3 => s.d1 * s.d2 * s.d3
    | _ => s.d1

def Shape.rowElems (s : Shape) (r : Nat) : Nat :=
  if s.linear then min 4096 (s.total - 4096 * r)
  else match s.kind with
    | 6 | 7 => 32
    | _ => s.d0

/-- The elements before row `r`. -/
def Shape.before (s : Shape) (r : Nat) : Nat := if s.linear then 4096 * r else r * s.rowElems 0

/-- The coordinates i1, i2, i3 of row `r`. -/
def Shape.coords (s : Shape) (r : Nat) : Int × Int × Int :=
  let a := max 1 s.d1
  let b := max 1 s.d2
  ((r % a : Nat), (r / a % b : Nat), (r / (a * b) : Nat))

/-- The byte offset of row `r` from the source and the destination base (R41); the ring side ignores stride 2 (R292). -/
def Shape.srcOff (s : Shape) (r : Nat) : Int :=
  if s.linear then s.bytes (4096 * r)
  else
    let (i1, i2, i3) := s.coords r
    i1 * s.ss1 + (if s.srcRing then 0 else i2 * s.ss2) + i3 * s.ss3

def Shape.dstOff (s : Shape) (r : Nat) : Int :=
  if s.linear then s.bytes (4096 * r)
  else
    let (i1, i2, i3) := s.coords r
    i1 * s.ds1 + (if s.dstRing then 0 else i2 * s.ds2) + i3 * s.ds3

/-- A reference moved by a signed number of bytes, mod 2^64. -/
def moveRef (r : Word) (n : Int) : Word := r + Word.ofI n

/-! ### Footprints (R296) -/

/-- Lowest and highest byte that rows of `n` bytes reach along dimensions of extents and strides. -/
def spanOf (dims : List (Nat × Int)) (n : Nat) : Int × Int :=
  (dims.foldl (fun acc d => acc + min 0 (((d.1 : Int) - 1) * d.2)) 0,
   dims.foldl (fun acc d => acc + max 0 (((d.1 : Int) - 1) * d.2)) 0 + n - 1)

/-- The dimensions of a side beyond the first, by kind. -/
def Shape.dims (s : Shape) (s1 s2 s3 : Int) : List (Nat × Int) :=
  match s.kind with
  | 2 => [(s.d1, s1), (s.d2, s2)]
  | 3 => [(s.d1, s1), (s.d2, s2), (s.d3, s3)]
  | _ => [(s.d1, s1)]

/-- The span of the source: none for a FILL, a ring side or an indexed side. -/
def Shape.srcSpan (s : Shape) : Option (Int × Int) :=
  if s.kind = 9 || s.srcRing || s.kind = 4 then none
  else if s.linear then some (0, (s.bytes s.total : Int) - 1)
  else match s.kind with
    | 6 => some (0, ((s.rows * (1 + blockBytes s.layout) : Nat) : Int) - 1)
    | 7 => some (0, ((s.rows * blockBytes s.layout : Nat) : Int) - 1)
    | _ => some (spanOf (s.dims s.ss1 s.ss2 s.ss3) (s.bytes s.d0))

/-- The span of the destination: none for a ring side or an indexed side. -/
def Shape.dstSpan (s : Shape) : Option (Int × Int) :=
  if s.dstRing || s.kind = 5 then none
  else if s.linear then some (0, (s.bytes s.total : Int) - 1)
  else match s.kind with
    | 6 => some (0, ((s.rows * blockBytes s.layout : Nat) : Int) - 1)
    | 7 => some (0, ((s.rows * (1 + blockBytes s.layout) : Nat) : Int) - 1)
    | 8 => some (spanOf [(s.d0, s.ds1)] (s.bytes s.d1))
    | _ => some (spanOf (s.dims s.ds1 s.ds2 s.ds3) (s.bytes s.d0))

/-- The span of the auxiliary: an index list or a scale array. -/
def Shape.auxSpan (s : Shape) : Option (Int × Int) :=
  match s.kind with
  | 4 | 5 => some (0, 4 * (s.d1 : Int) - 1)
  | 6 | 7 => some (0, (s.rows : Int) - 1)
  | _ => none

/-- The span of a ring side within its slot (R292): the rows of one slot. -/
def Shape.slotSpan (s : Shape) : Int × Int :=
  if s.linear then (0, (s.bytes s.total : Int) - 1)
  else spanOf [(s.d1, if s.srcRing then s.ss1 else s.ds1)] (s.bytes s.d0)

/-- The slots that a ring copy moves, and the rows of one (R292). -/
def Shape.slotCount (s : Shape) : Nat := if s.kind = 2 then s.d2 else 1
def Shape.slotRows (s : Shape) : Nat := if s.slotCount = 0 then 0 else s.rows / s.slotCount

/-! ### Residual records (R304) -/

/-- The residual record of a copy whose first element without effect is number `e`, and the elements before its restart
point. -/
def Shape.residual (s : Shape) (e : Nat) : Shape × Nat :=
  if s.linear then
    let e' := if packedLayout s.layout then e / 32 * 32 else e
    let n := s.total - e'
    let off : Int := s.bytes e'
    ({ s with
        src := if s.kind = 9 then s.src else moveRef s.src off
        dst := moveRef s.dst off
        d0 := n % 65536
        d1 := n / 65536 }, e')
  else
    let i1 := if s.d0 = 0 then 0 else e / s.d0
    match s.kind with
    | 2 =>
      let i2 := if s.d1 = 0 then 0 else i1 / s.d1
      ({ s with
          src := moveRef s.src (if s.srcRing then 0 else i2 * s.ss2)
          dst := moveRef s.dst (if s.dstRing then 0 else i2 * s.ds2)
          d2 := s.d2 - i2 }, i2 * s.d1 * s.d0)
    | 3 =>
      let i3 := if s.d1 * s.d2 = 0 then 0 else i1 / (s.d1 * s.d2)
      ({ s with src := moveRef s.src (i3 * s.ss3), dst := moveRef s.dst (i3 * s.ds3), d3 := s.d3 - i3 },
        i3 * s.d1 * s.d2 * s.d0)
    | 4 => ({ s with aux := moveRef s.aux (4 * i1), dst := moveRef s.dst (i1 * s.ds1), d1 := s.d1 - i1 }, i1 * s.d0)
    | 5 => ({ s with aux := moveRef s.aux (4 * i1), src := moveRef s.src (i1 * s.ss1), d1 := s.d1 - i1 }, i1 * s.d0)
    | 6 | 7 =>
      let b := e / 32
      let inter : Int := b * (1 + blockBytes s.layout)
      let elem : Int := b * blockBytes s.layout
      ({ s with
          src := moveRef s.src (if s.kind = 6 then inter else elem)
          dst := moveRef s.dst (if s.kind = 6 then elem else inter)
          aux := moveRef s.aux b
          d0 := s.d0 - 32 * b }, 32 * b)
    | 8 => ({ s with src := moveRef s.src (i1 * s.ss1), dst := moveRef s.dst (i1 * (s.width / 8 : Nat)), d1 := s.d1 - i1 },
        i1 * s.d0)
    | _ => ({ s with
        src := if s.kind = 9 then s.src else moveRef s.src (i1 * s.ss1)
        dst := moveRef s.dst (i1 * s.ds1)
        d1 := s.d1 - i1 }, i1 * s.d0)

end Sys2Proof.Machine
end

