-- ==== Sys2Proof/Machine/Copy.lean ====
section
/-! DEFINITION. The copy engine: CPY, CPYR, CPYC and CPYQ, the checks at take, the movement of rows, ring copies, frame
faults and handback (R41 to R46, R124, R292 to R307, R420, R476). -/

namespace Sys2Proof.Machine

/-! ### Commands (R293 to R295, R300) -/

/-- Scope numbers of a CPY's command word or a CPYR's field (R294, R311). -/
def CopyCmd.scope (c : CopyCmd) : Nat :=
  match c.instr with
  | .cpyr _ _ _ sc _ => Scope.num sc
  | _ => c.gb.bits 2 0

/-- HB of a command word (R294). -/
def CopyCmd.hb (c : CopyCmd) : Bool := c.isCpy && c.gb.getLsbD 3

/-- The local offset of the residual area (R294). -/
def CopyCmd.residualAt (c : CopyCmd) : Nat := c.gb.bits 19 6 * 64

/-- The token register. -/
def CopyCmd.tok (c : CopyCmd) : BitVec 6 :=
  match c.instr with
  | .cpy _ _ t => t
  | .cpyr _ _ t _ _ => t
  | _ => 0

/-- The record that a CPYR stands for (R300). -/
def CopyCmd.linearShape (c : CopyCmd) : Shape :=
  let n := match c.instr with
    | .cpyr _ _ _ _ z => 64 * 2 ^ z.toNat
    | _ => 0
  Shape.ofWords [Word.ofN (2 ^ 16), c.ga, c.gb, Word.ofN n, 0, 0, 0, 0]

/-- CPY or CPYR at issue (R295, R298): a release at core scope, then the command enters the queue and its token register
becomes pending. -/
def Op.copyIssue (i : Instr) (a b t : BitVec 6) : Op Unit := do
  let x ← Op.readG a
  let y ← Op.readG b
  Op.freeG t
  let c ← Op.core
  Op.need (c.copies.queue.length < Config.queueEntries)
  Op.releaseWait 1
  Op.claimG t
  Op.modCore fun c =>
    let nofold := match c.ctx.pfx with
      | some p => p.nofold
      | none => false
    let cmd : CopyCmd := ⟨i, c.ctx.num, x, y, c.ctx.sys.sevpol, nofold⟩
    { c with copies := { c.copies with queue := c.copies.queue ++ [cmd] } }

/-- CPY (R293, R295). -/
def execCpy (a b t : BitVec 6) (s : State) : Host.Outcome State Fault Refusal :=
  performNext (.cpy a b t) (Op.copyIssue (.cpy a b t) a b t) s

/-- CPYR (R293, R300). -/
def execCpyr (a b t : BitVec 6) (sc : Scope) (z : BitVec 3) (s : State) : Host.Outcome State Fault Refusal :=
  performNext (.cpyr a b t sc z) (Op.copyIssue (.cpyr a b t sc z) a b t) s

/-! ### The end of a copy (R298, R299) -/

/-- The token word of a copy (R299). -/
def copyToken (done cause operand status : Nat) : Word :=
  Word.ofN (done % 2 ^ 32 * 2 ^ 32 + cause * 2 ^ 24 + operand * 2 ^ 16 + status)

/-- A command's token written, after the release and with the acquire of R298. -/
def State.copyEnd (s : State) (id : CoreId) (cmd : CopyCmd) (token : Word) : State :=
  ((match s.findCore id with
    | some c => if 3 ≤ cmd.scope then s.releaseCluster (clusterOf c.slot) else s
    | none => s).tokenAcquire id cmd.scope).writeToken id cmd.ctx cmd.tok token

/-- A copy stopped with status 0x11 (R299, R420): POISON, STRUCT and LOST also leave a report (R243). -/
def State.copyStop (s : State) (id : CoreId) (cmd : CopyCmd) (done operand cause : Nat) (eaddr : Word)
    (einfo : Option Word) (precise : Bool) : State :=
  let s := s.copyEnd id cmd (copyToken done cause operand 0x11)
  if precise then
    s.reportStop id cmd.ctx cmd.tok false cause eaddr
      (einfo.getD (Word.ofN (operand * 2 ^ 16 + done % 2 ^ 16)))
  else s

/-- A copy leaves those in flight. -/
def LCore.dropCopy (c : LCore) (place : Nat) : LCore :=
  { c with copies := { c.copies with flight := c.copies.flight.eraseIdx place } }

def LCore.putCopy (c : LCore) (place : Nat) (r : CopyRun) : LCore :=
  { c with copies := { c.copies with flight := c.copies.flight.set place r } }

/-! ### Moving elements (R297, R305) -/

/-- One contiguous movement: where from (nothing for a FILL, which gives the bytes), where to, the bytes, the unit that
takes effect as a whole, the elements in one unit, and the operand codes of both sides. -/
structure Move where
  src : Option Word
  fill : Nat
  dst : Word
  n : Nat
  unit : Nat
  elems : Nat
  srcOp : Nat
  dstOp : Nat
  deriving DecidableEq, Repr

/-- How far a copy has come: the sectors read, elements whose effect is complete, the run of bytes written that the
digest has not counted yet, the object writes so far as fields, the values that R46 lets an element take when source
and destination overlap, and the number of such choices made. -/
structure Moving where
  seen : Sectors
  done : Nat
  run : Option (Word × Nat × Nat)
  log : List Nat
  pool : Option (List Nat)
  picks : Nat
  deriving DecidableEq, Repr

/-- Why movement stopped: the operand at fault and the snag. -/
abbrev Stopped := Option (Nat × Snag)

/-- What stays the same while one copy moves: its agent, whether its writes count for the digest, and, for R46, the bits of an
element and the units of its source, each a reference and its bytes. -/
structure CopyJob where
  ag : Agent
  counted : Bool
  bits : Nat
  sources : List (Word × Nat)

/-- The digest run so far counted (R442). -/
def Op.flushRun (j : CopyJob) (m : Moving) : Op Moving := do
  match m.run with
  | some (ref, n, v) =>
    Op.countRun j.ag j.counted ref n v
    pure { m with run := none }
  | none => pure m

/-- Bytes written, joined to the digest run where they follow it. -/
def Op.noteWrite (j : CopyJob) (m : Moving) (ref : Word) (n v : Nat) : Op Moving := do
  if n = 0 || refHandle ref ≤ 1 then pure m
  else
    let v := v % 2 ^ (8 * n)
    let m := { m with log := m.log ++ [ref.toNat, n, v] }
    match m.run with
    | some (r0, n0, v0) =>
      if ref = r0 + Word.ofN n0 then pure { m with run := some (r0, n0 + n, v0 + 2 ^ (8 * n0) * v) }
      else
        let m ← Op.flushRun j m
        pure { m with run := some (ref, n, v) }
    | none => pure { m with run := some (ref, n, v) }

/-- The bytes that a reference holds at this moment, for the choices of R46. -/
def State.peek (s : State) (ag : Agent) (ref : Word) (n : Nat) : Nat :=
  match Op.engineRead ag ref n .start s with
  | .ok (r, _) => r.value
  | .error _ => 0

/-- The elements in `n` bytes of a value, and those that a reference holds at this moment. -/
def elemsIn (bits n v : Nat) : List Nat := elems bits (8 * n / bits) v
def State.peekElems (s : State) (ag : Agent) (bits : Nat) (u : Word × Nat) : List Nat := elemsIn bits u.2 (s.peek ag u.1 u.2)

/-- The value that one destination unit takes where source and destination overlap: each element its old value, or one that a source
element has held (R46, log entry 7). -/
def Op.racyValue (j : CopyJob) (m : Moving) (dst : Word) (n v : Nat) : Op (Nat × Moving) := do
  match m.pool with
  | none => pure (v, m)
  | some pool =>
    let s ← get
    let pick (x : (Nat × Nat) × Nat) : Nat :=
      let choices := x.1.1 :: x.1.2 :: pool
      choices.getD (Config.racyPick (s.freeIndex 0) (m.picks + x.2) % choices.length) x.1.2
    let pairs := (s.peekElems j.ag j.bits (dst, n)).zip (elemsIn j.bits n v)
    pure (packElems j.bits (pairs.zipIdx.map pick), { m with picks := m.picks + pairs.length })

/-- The values that the source elements hold now join the choices. -/
def Op.racyNote (j : CopyJob) (m : Moving) : Op Moving := do
  match m.pool with
  | none => pure m
  | some pool =>
    let s ← get
    pure { m with pool := some (pool ++ j.sources.flatMap (s.peekElems j.ag j.bits)) }

/-- The first snag among the places of a range, without any effect on it. -/
def Op.firstSnag (ag : Agent) : List (Word × Nat) → Op (Option Snag)
  | [] => pure none
  | (ref, n) :: ps => do
    match (← Op.spot ag ⟨ref, n, 0xF, 1, 0⟩ false) with
    | .error e => pure (some e)
    | .ok _ => Op.firstSnag ag ps

/-- The source bytes of a movement, as far as they can be read. -/
def Op.moveRead (j : CopyJob) (m : Moving) (x : Move) : Op (ReadRun × Moving) := do
  match x.src with
  | none => pure (⟨x.n, x.fill, 0, m.seen, none⟩, m)
  | some ref =>
    let r ← Op.engineRead j.ag ref x.n m.seen
    pure (r, { m with seen := r.seen })

/-- `units` units of a movement written, from unit `k` on: a stop at the first that cannot be. -/
def Op.moveUnits (j : CopyJob) (x : Move) (v : Nat) : Nat → Nat → Moving → Op (Moving × Stopped)
  | 0, _, m => pure (m, none)
  | units + 1, k, m => do
    let (u, m) ← Op.racyValue j m (x.dst + Word.ofN (k * x.unit)) x.unit (v / 2 ^ (8 * k * x.unit) % 2 ^ (8 * x.unit))
    let dst := x.dst + Word.ofN (k * x.unit)
    let (n, snag) ← Op.engineWrite j.ag false dst x.unit u
    let m ← Op.noteWrite j m dst n u
    match snag with
    | some e => pure (m, some (x.dstOp, e))
    | none =>
      let m ← Op.racyNote j { m with done := m.done + x.elems }
      Op.moveUnits j x v units (k + 1) m

/-- A movement whose units take effect one by one (R297): the units that were read, in one write where nothing overlaps. -/
def Op.moveRun (j : CopyJob) (m : Moving) (x : Move) : Op (Moving × Stopped) := do
  let (r, m) ← Op.moveRead j m x
  let units := r.got / x.unit
  let stop : Stopped := r.snag.map fun e => (x.srcOp, e)
  if m.pool.isSome then
    let (m, st) ← Op.moveUnits j x r.value units 0 m
    pure (m, if st.isSome then st else stop)
  else
    let n := units * x.unit
    let (w, snag) ← Op.engineWrite j.ag false x.dst n (r.value % 2 ^ (8 * n))
    let m ← Op.noteWrite j m x.dst w r.value
    let m := { m with done := m.done + w / x.unit * x.elems }
    match snag with
    | some e => pure (m, some (x.dstOp, e))
    | none => pure (m, stop)

/-- The reads of a block's movements: every value, or the first snag. -/
def Op.blockReads (j : CopyJob) : List Move → Moving → Op (List Nat × Moving × Stopped)
  | [], m => pure ([], m, none)
  | x :: xs, m => do
    let (r, m) ← Op.moveRead j m x
    match r.snag with
    | some e => pure ([], m, some (x.srcOp, e))
    | none =>
      let (vs, m, st) ← Op.blockReads j xs m
      pure (r.value :: vs, m, st)

/-- The first destination of a block's movements that cannot be written. -/
def Op.blockSnag (j : CopyJob) : List Move → Op Stopped
  | [] => pure none
  | x :: xs => do
    match (← Op.firstSnag j.ag (piecesOf x.dst x.n)) with
    | some e => pure (some (x.dstOp, e))
    | none => Op.blockSnag j xs

/-- The writes of a block's movements. -/
def Op.blockWrites (j : CopyJob) : List (Move × Nat) → Moving → Op (Moving × Stopped)
  | [], m => pure (m, none)
  | (x, v) :: xs, m => do
    let (v, m) ← (if x.unit ≤ 1 then pure (v, m) else Op.racyValue j m x.dst x.n v)
    let (n, snag) ← Op.engineWrite j.ag false x.dst x.n v
    let m ← Op.noteWrite j m x.dst n v
    match snag with
    | some e => pure (m, some (x.dstOp, e))
    | none => Op.blockWrites j xs { m with done := m.done + x.elems }

/-- Whether a stop comes of an uncorrectable error, which is handled for the elements of the part that holds it (R305). -/
def Stopped.isError : Stopped → Bool
  | some (_, .stop cause _ _ _) => cause = cPOISON || cause = cSTRUCT
  | _ => false

/-- A packed block, wholly or not at all (R305): where it cannot be moved for another reason than an error, what has been read
of it has had no effect. -/
def Op.moveBlock (j : CopyJob) (m : Moving) (xs : List Move) : Op (Moving × Stopped) := do
  let before ← get
  let undone (m' : Moving) (st : Stopped) : Op (Moving × Stopped) := do
    if st.isError then pure (m', st)
    else
      set before
      pure (m, st)
  let (vs, m', st) ← Op.blockReads j xs m
  if st.isSome then undone m' st
  else
    let st ← Op.blockSnag j xs
    if st.isSome then undone m' st
    else
      let (m', st) ← Op.blockWrites j (xs.zip vs) m'
      let m' ← Op.racyNote j m'
      pure (m', st)

/-- The movements of one row, in order: each a run, or a block. -/
inductive Part
  | run (m : Move)
  | block (ms : List Move)
  deriving DecidableEq, Repr

def Op.moveParts (j : CopyJob) : List Part → Moving → Op (Moving × Stopped)
  | [], m => pure (m, none)
  | p :: ps, m => do
    let (m, st) ← (match p with
      | .run x => Op.moveRun j m x
      | .block xs => Op.moveBlock j m xs)
    if st.isSome then pure (m, st) else Op.moveParts j ps m

/-! ### Rows (R42, R301) -/

/-- The bytes of `n` elements that a FILL writes (R45, R297). -/
def Shape.fillValue (s : Shape) (n : Nat) : Nat :=
  if 64 < s.width then packElems 64 (List.replicate (s.bytes n / 8) s.src.toNat)
  else packElems s.width (List.replicate n s.src.toNat)

/-- `n` elements in a line from `src` to `dst`: packed blocks one by one, others as one run. -/
def Shape.line (s : Shape) (src dst : Word) (n : Nat) : List Part :=
  let (bytes, per) := s.unit
  let x (k len : Nat) : Move :=
    { src := if s.kind = 9 then none else some (src + Word.ofN (k * bytes))
      fill := if s.kind = 9 then s.fillValue (len * per) else 0
      dst := dst + Word.ofN (k * bytes)
      n := len * bytes
      unit := bytes
      elems := per
      srcOp := 0
      dstOp := 1 }
  if packedLayout s.layout then (List.range (n / per)).map fun k => .block [x k 1]
  else [.run (x 0 n)]

/-- The parts of row `r` for a source base, a destination base and the row's index, if it has one (R42). -/
def Shape.parts (s : Shape) (src dst : Word) (r idx : Nat) : List Part :=
  match s.kind with
  | 4 => s.line (moveRef src ((idx : Int) * s.ss1)) (moveRef dst ((r : Int) * s.ds1)) s.d0
  | 5 => s.line (moveRef src ((r : Int) * s.ss1)) (moveRef dst ((idx : Int) * s.ds1)) s.d0
  | 6 =>
    let b := blockBytes s.layout
    let base := src + Word.ofN (r * (1 + b))
    [.block [⟨some (base + 1), 0, dst + Word.ofN (r * b), b, b, 0, 0, 1⟩,
      ⟨some base, 0, s.aux + Word.ofN r, 1, 1, 32, 0, 3⟩]]
  | 7 =>
    let b := blockBytes s.layout
    let base := dst + Word.ofN (r * (1 + b))
    [.block [⟨some (s.aux + Word.ofN r), 0, base, 1, 1, 0, 3, 1⟩,
      ⟨some (src + Word.ofN (r * b)), 0, base + 1, b, b, 32, 0, 1⟩]]
  | 8 =>
    let w := s.width / 8
    (List.range s.d0).map fun (i0 : Nat) =>
      .run ⟨some (moveRef src ((r : Int) * s.ss1 + ((i0 * w : Nat) : Int))), 0,
        moveRef dst ((i0 : Int) * s.ds1 + ((r * w : Nat) : Int)), w, w, 1, 0, 1⟩
  | _ => s.line (moveRef src (s.srcOff r)) (moveRef dst (s.dstOff r)) (s.rowElems r)

/-- An alignment failure of a side's reference (R296 step 4). -/
def Shape.misaligned (s : Shape) (ref : Word) : Bool :=
  let grid := if packedLayout s.layout || s.layout = 15 then 8 else s.width / 8
  ref.toNat % grid ≠ 0 || (packedLayout s.layout && 16 ≤ refHandle ref && refOffset ref % layoutUnit s.layout ≠ 0)

/-- The rights that the source needs: X alone will do for a copy of overlay code to handle 0 (R124). -/
def Op.sourceRight (ag : Agent) (s : Shape) : Op Nat := do
  if refHandle s.src ≤ 1 || refHandle s.dst ≠ 0 then pure rightR
  else match (← Op.attempt (Op.descriptor ag ⟨s.src, 1, 0xF, 0, 0⟩)) with
    | .ok d => pure (if d.has rightX && !d.has rightR then rightX else rightR)
    | .error _ => pure rightR

/-- The index of row `r`, with the checks of its side (R296); 0 for a kind without indices. -/
def Op.rowIndex (j : CopyJob) (s : Shape) (r : Nat) (m : Moving) : Op (Nat × Moving × Stopped) := do
  if s.kind ≠ 4 && s.kind ≠ 5 then pure (0, m, none)
  else
    let rd ← Op.engineRead j.ag (s.aux + Word.ofN (4 * r)) 4 m.seen
    let m := { m with seen := rd.seen }
    match rd.snag with
    | some e => pure (0, m, some (2, e))
    | none =>
      let idx := rd.value
      let (ref, stride, operand) := if s.kind = 4 then (s.src, s.ss1, 0) else (s.dst, s.ds1, 1)
      let lo : Int := (idx : Int) * stride
      let need ← (if s.kind = 4 then Op.sourceRight j.ag s else pure rightW)
      let bad ← Op.spanCheck j.ag ref lo (lo + s.bytes s.d0 - 1) need s.layout
      let bad := if bad.isNone && s.misaligned (moveRef ref lo) then some cMISAL else bad
      match bad with
      | some c => pure (0, m, some (operand, .stop c (moveRef ref lo) none false))
      | none => pure (idx, m, none)

/-- `n` rows from row `r` on. -/
def Op.moveRows (j : CopyJob) (s : Shape) (src dst : Word) : Nat → Nat → Moving → Op (Moving × Stopped)
  | 0, _, m => pure (m, none)
  | n + 1, r, m => do
    let (idx, m, st) ← Op.rowIndex j s r m
    if st.isSome then pure (m, st)
    else
      let (m, st) ← Op.moveParts j (s.parts src dst r idx) m
      -- a write of a unit counts for the digest row by row: where a copy stops between rows changes no sum (R442, R75)
      let m ← Op.flushRun j m
      if st.isSome then pure (m, st) else Op.moveRows j s src dst n (r + 1) m

/-! ### Overlap of source and destination (R46) -/

/-- The physical bytes of a range, piece by piece: a space, a first byte and a length. -/
def State.ranges (s : State) (ag : Agent) (ref : Word) (n : Nat) : List (Nat × Nat × Nat) :=
  (piecesOf ref n).filterMap fun (p : Word × Nat) =>
    match Op.spot ag ⟨p.1, p.2, 0xF, 0, 0⟩ false s with
    | .ok (.ok (.local id off), _) => some (id.lcore + 2, off, p.2)
    | .ok (.ok (.object _ (.bank b)), _) => some (0, b, p.2)
    | .ok (.ok (.object _ (.host h)), _) => some (1, h, p.2)
    | _ => none

/-- Whether two lists of ranges have a byte in common. -/
def rangesMeet (xs ys : List (Nat × Nat × Nat)) : Bool :=
  xs.any fun x => ys.any fun y => x.1 = y.1 && x.2.1 < y.2.1 + y.2.2 && y.2.1 < x.2.1 + x.2.2

/-- The index of a row as memory holds it now. -/
def State.peekIndex (s : State) (ag : Agent) (sh : Shape) (r : Nat) : Nat :=
  if sh.kind = 4 || sh.kind = 5 then s.peek ag (sh.aux + Word.ofN (4 * r)) 4 else 0

def Part.moves : Part → List Move
  | .run m => [m]
  | .block ms => ms

/-- Every movement of the rows [r, r + n). -/
def State.allMoves (s : State) (ag : Agent) (sh : Shape) (src dst : Word) (r n : Nat) : List Move :=
  (List.range n).flatMap fun (i : Nat) =>
    ((sh.parts src dst (r + i) (s.peekIndex ag sh (r + i))).flatMap Part.moves)

/-- The job of a copy of rows [r, r + n), and its starting progress (R46). The scale array of MXSPLIT and MXJOIN is an auxiliary operand:
the manual does not say whether it is among the ranges that overlap, and the model leaves it out (log entry 7). -/
def State.copyJob (s : State) (id : CoreId) (c : LCore) (run : CopyRun) (sh : Shape) (src dst : Word)
    (r n : Nat) : CopyJob × Moving :=
  let cmd := run.cmd
  let ag := { s.engineAgent c cmd.ctx cmd.sevpol cmd.scope with core := id, under := run.under, hostBad := run.hostBad }
  let moves := (s.allMoves ag sh src dst r n).filter fun m => m.src.isSome && m.srcOp = 0
  let from_ := moves.flatMap fun (m : Move) => s.ranges ag (m.src.getD 0) m.n
  let to_ := (moves.filter fun m => m.dstOp = 1).flatMap fun (m : Move) => s.ranges ag m.dst m.n
  if rangesMeet from_ to_ then
    let scales : Bool := sh.kind = 6 || sh.kind = 7
    let units := moves.flatMap fun (m : Move) =>
      if m.unit ≤ 1 && scales then []
      else (List.range (m.n / m.unit)).map fun k => (m.src.getD 0 + Word.ofN (k * m.unit), m.unit)
    (⟨ag, !cmd.nofold, sh.width, units⟩, ⟨.start, 0, none, [], some (units.flatMap (s.peekElems ag sh.width)), 0⟩)
  else (⟨ag, !cmd.nofold, sh.width, []⟩, ⟨.start, 0, none, [], none, 0⟩)

/-! ### Taking a copy (R296) -/

/-- What the checks at take lead to. -/
inductive TakeResult
  | go (s : Shape)
  | refuse (cause operand : Nat)
  | stop (cause : Nat) (eaddr : Word) (einfo : Option Word) (precise : Bool)
  | wait (ref : Word) (desc : Nat)
  | hold (ref : Word) (package : BitVec 13)
  deriving DecidableEq, Repr

/-- One operand of step 4: its span if it has one, and its reference's alignment. -/
def Op.operandCheck (ag : Agent) (sh : Shape) (ref : Word) (span : Option (Int × Int)) (need layout operand : Nat)
    (misaligned : Bool) : Op (Option (Nat × Nat)) := do
  match span with
  | none => pure none
  | some (lo, hi) =>
    match (← Op.spanCheck ag ref lo hi need layout) with
    | some c => pure (some (c, operand))
    | none => pure (if misaligned && sh.total ≠ 0 then some (cMISAL, operand) else none)

/-- Steps 3 and 4 of R296 for a record. Where the element count is 0, R44 has the copy succeed and does not say whether the
checks come first: the model checks that a ring is configured and leaves out the checks of what would be reached, slot
overrun and operands (log entry 61). -/
def Op.shapeChecks (ag : Agent) (c : LCore) (isCpyr : Bool) (sh : Shape) : Op (Option (Nat × Nat)) := do
  let ringSide : Bool := sh.srcRing || sh.dstRing
  let ring := c.ring sh.ring
  let (lo, hi) := sh.slotSpan
  let off : Int := refOffset (if sh.srcRing then sh.src else sh.dst)
  -- a ring's slots are a footprint too (R123): an XBOUND raised since they were configured may lie above them
  let covered : Bool := ring.base.toNat < c.xbTake.toNat
  let slotFault (misaligned : Bool) (operand : Nat) : Option (Nat × Nat) :=
    if covered then some (cXDATA, operand) else if misaligned then some (cMISAL, operand) else none
  if ringSide && !ring.configured then pure (some (cRING, 5))
  else if ringSide && sh.total ≠ 0 && (off + lo < 0 || (ring.slotBytes : Int) ≤ off + hi) then pure (some (cBOUND, 5))
  else if sh.total = 0 then pure none
  else
    let need ← Op.sourceRight ag sh
    let bad (ref : Word) : Bool := if isCpyr then ref.toNat % 64 ≠ 0 else sh.misaligned ref
    let a ← (if sh.srcRing then pure (slotFault (bad sh.src) 0)
      else Op.operandCheck ag sh sh.src sh.srcSpan need sh.layout 0 (bad sh.src))
    if a.isSome then pure a
    else
      let b ← (if sh.dstRing then pure (slotFault (bad sh.dst) 1)
        else Op.operandCheck ag sh sh.dst sh.dstSpan rightW sh.layout 1 (bad sh.dst))
      if b.isSome then pure b
      else
        let indexed : Bool := sh.kind = 4 || sh.kind = 5
        Op.operandCheck ag sh sh.aux sh.auxSpan rightR 0 (if indexed then 2 else 3) (indexed && sh.aux.toNat % 4 ≠ 0)

/-- The checks of a queued command (R296, R300). -/
def Op.takeChecks (ag : Agent) (c : LCore) (cmd : CopyCmd) : Op TakeResult := do
  if !cmd.isCpy then
    match (← Op.shapeChecks ag c true cmd.linearShape) with
    | some (cause, operand) => pure (.refuse cause operand)
    | none => pure (.go cmd.linearShape)
  else if cmd.gb.bits 63 20 ≠ 0 || cmd.gb.bits 5 4 ≠ 0 || 6 ≤ cmd.gb.bits 2 0 then pure (.refuse cILL 6)
  else if cmd.hb && cmd.residualAt < c.xbTake.toNat then pure (.refuse cXDATA 6)
  else if cmd.ga.toNat % 64 ≠ 0 then pure (.refuse cMISAL 4)
  else match (← Op.engineLoadCause ag ⟨cmd.ga, 64, 0xF, 0, 0⟩) with
    | some cause => pure (.refuse cause 4)
    | none =>
      let r ← Op.engineRead ag cmd.ga 64 .start
      match r.snag with
      | some (.stop cause eaddr einfo precise) => pure (.stop cause eaddr einfo precise)
      | some (.notres ref desc) => pure (.wait ref desc)
      | some (.hold ref p) => pure (.hold ref p)
      | none =>
        let sh := Shape.ofWords ((elems 64 8 r.value).map Word.ofN)
        if !sh.valid then pure (.refuse cILL 4)
        else match (← Op.shapeChecks ag c false sh) with
          | some (cause, operand) => pure (.refuse cause operand)
          | none => pure (.go sh)

/-- COPY_TAKE (R295, R296); a take under the power limit is counted (R462). -/
def Op.copyTake (id : CoreId) : Op Unit := do
  let s ← get
  let c ← Op.get! (s.findCore id)
  Op.need (c.resident && c.copies.flight.length < Config.copiesInFlight)
  match c.copies.queue with
  | [] => Op.stall
  | cmd :: rest =>
    let ag := s.engineAgent c cmd.ctx cmd.sevpol cmd.scope
    let r ← Op.takeChecks ag c cmd
    let pop (c : LCore) : LCore := { c with copies := { c.copies with queue := rest } }
    match r with
    | .hold ref p =>
      Op.need (s.routeExpired p id)
      modify fun s => (s.mapCore id pop).copyStop id cmd 0 4 cREMOTE ref none false
    | .wait ref desc =>
      if (← Op.takeRefused ag ref desc) then
        modify fun s => (s.mapCore id pop).copyStop id cmd 0 4 cFRAME ref none false
    | .refuse cause operand =>
      modify fun s => (s.mapCore id pop).copyEnd id cmd (copyToken 0 cause operand 0x10)
    | .stop cause eaddr einfo precise =>
      modify fun s => (s.mapCore id pop).copyStop id cmd 0 4 cause eaddr einfo precise
    | .go sh =>
      modify State.countDelayed
      if sh.total = 0 then modify fun s => (s.mapCore id pop).copyEnd id cmd (copyToken 0 0 0 0x00)
      else
        let s ← get
        let run : CopyRun := ⟨cmd, sh, 0, 0, none, false, none, s.ocHeld c.slot ag.queue [sh.src, sh.dst, sh.aux], false⟩
        modify fun s => s.mapCore id fun c =>
          let c := pop c
          { c with copies := { c.copies with flight := c.copies.flight ++ [run] } }

/-- COPY_TAKE (R295, R296). -/
def execCopyTake (core : CoreId) (s : State) : Host.Outcome State Fault Refusal := runEvent (Op.copyTake core) s

/-! ### Copies in flight -/

/-- A copy in flight. -/
def LCore.copyAt (c : LCore) (place : Nat) : Option CopyRun := c.copies.flight[place]?

/-- Whether a copy works on ring slots (R292). -/
def CopyRun.onRing (r : CopyRun) : Bool := r.shape.srcRing || r.shape.dstRing

/-- How a stop met in the movement ends the copy, `none` where it waits instead: a refused residency, a route that has not
come back (R303, R347). -/
def CopyRun.ends (r : CopyRun) : Snag → Option (Nat × Word × Option Word × Bool)
  | .stop cause eaddr einfo precise => some (cause, eaddr, einfo, precise)
  | .notres ref _ =>
    if r.refused && r.frame = some (Word.ofN (ref.toNat / 65536 * 65536)) then some (cFRAME, ref, none, false) else none
  | .hold ref p => if r.timedOut = some p then some (cREMOTE, ref, none, false) else none

/-- Done counts of packed layouts are multiples of 32; a done count includes what a restored copy had done (R299, R306). -/
def CopyRun.doneAt (r : CopyRun) (n : Nat) : Nat := r.base + n

/-- The whole of a copy that is not on a ring, moved to its end (R297, R299); the object writes it made. -/
def Op.copyFinish (id : CoreId) (place : Nat) : Op (List Nat) := do
  let s ← get
  let c ← Op.get! (s.findCore id)
  let r ← Op.get! (c.copyAt place)
  Op.need (c.resident && !r.onRing)
  let sh := r.shape
  let (j, m) := s.copyJob id c r sh sh.src sh.dst 0 sh.rows
  let (m, st) ← Op.moveRows j sh sh.src sh.dst sh.rows 0 m
  let m ← Op.flushRun j m
  match st with
  | none =>
    modify fun s => (s.mapCore id fun c => c.dropCopy place).copyEnd id r.cmd (copyToken (r.doneAt m.done) 0 0 0)
    pure m.log
  | some (operand, snag) =>
    match r.ends snag with
    | none => Op.stall
    | some (cause, eaddr, einfo, precise) =>
      modify fun s => (s.mapCore id fun c => c.dropCopy place).copyStop id r.cmd (r.doneAt m.done) operand cause eaddr
        einfo precise
      pure m.log

/-- A ring handle marked broken (R364). -/
def LCore.breakRing (c : LCore) (h : Nat) : LCore := c.setRing h { c.ring h with broken := true }

/-- One slot of a ring copy (R292): a broken ring ends the copy; an available slot is moved and its counter advanced. -/
def Op.copySlot (id : CoreId) (place : Nat) : Op (List Nat) := do
  let s ← get
  let c ← Op.get! (s.findCore id)
  let r ← Op.get! (c.copyAt place)
  Op.need (c.resident && r.onRing)
  let sh := r.shape
  let ring := c.ring sh.ring
  let rows := sh.slotRows
  let before := sh.before (r.slots * rows)
  if ring.broken then
    modify fun s => (s.mapCore id fun c => c.dropCopy place).copyEnd id r.cmd (copyToken (r.doneAt before) 0 0 0x12)
    pure []
  else
    Op.need (if sh.srcRing then 1 ≤ ring.filled else ring.filled < ring.slots)
    let at_ := Word.ofN (ring.slotAt (if sh.srcRing then ring.consumer else ring.producer))
    let src := if sh.srcRing then sh.src + at_ else sh.src
    let dst := if sh.dstRing then sh.dst + at_ else sh.dst
    let (j, m) := s.copyJob id c r sh src dst (r.slots * rows) rows
    let (m, st) ← Op.moveRows j sh src dst rows (r.slots * rows) m
    let m ← Op.flushRun j m
    match st with
    | none =>
      let next := (if sh.srcRing then ring.consume 1 else ring.produce 1).getD ring
      let slots := r.slots + 1
      modify fun s => s.mapCore id fun c => c.setRing sh.ring next
      if slots < sh.slotCount then
        modify fun s => s.mapCore id fun c => c.putCopy place { r with slots := slots }
      else
        modify fun s => (s.mapCore id fun c => c.dropCopy place).copyEnd id r.cmd
          (copyToken (r.doneAt (before + m.done)) 0 0 0)
      pure m.log
    | some (operand, snag) =>
      match r.ends snag with
      | none => Op.stall
      | some (cause, eaddr, einfo, precise) =>
        modify fun s => (s.mapCore id fun c => (c.dropCopy place).breakRing sh.ring).copyStop id r.cmd
          (r.doneAt (before + m.done)) operand cause eaddr einfo precise
        pure m.log

/-- A copy that meets a frame that is not resident (R303): a request of kind 3; with HB = 1 and no ring, what comes before
has taken effect, the residual record and the token are written and HANDBACK is raised; otherwise the copy waits. -/
def Op.copyFault (id : CoreId) (place : Nat) : Op (List Nat) := do
  let s ← get
  let c ← Op.get! (s.findCore id)
  let r ← Op.get! (c.copyAt place)
  let sh := r.shape
  Op.need (c.resident && r.frame.isNone)
  let ring := c.ring sh.ring
  let rows := sh.slotRows
  let slotAt := Word.ofN (ring.slotAt (if sh.srcRing then ring.consumer else ring.producer))
  if r.onRing then Op.need (!ring.broken && (if sh.srcRing then 1 ≤ ring.filled else ring.filled < ring.slots))
  let src := if sh.srcRing then sh.src + slotAt else sh.src
  let dst := if sh.dstRing then sh.dst + slotAt else sh.dst
  let first := if r.onRing then r.slots * rows else 0
  let count := if r.onRing then rows else sh.rows
  let (j, m) := s.copyJob id c r sh src dst first count
  let (m, st) ← Op.moveRows j sh src dst count first m
  match st with
  | some (operand, .notres ref desc) =>
    if r.cmd.hb && !r.onRing then
      let m ← Op.flushRun j m
      modify fun s => s.requestResidency j.ag ref desc 3 (dieOf c.slot)
      let (res, _) := sh.residual m.done
      let bytes := res.words.flatMap fun (w : Word) => bytesOf 8 w.toNat
      modify fun s => s.lmWrite id r.cmd.residualAt bytes
      modify fun s => ((s.mapCore id fun c => c.dropCopy place).copyEnd id r.cmd
        (copyToken (r.doneAt m.done) cFRAME operand 0x15)).mapCtx id r.cmd.ctx fun x =>
          x.raiseHandback ref (Word.ofN r.cmd.tok.toNat)
      pure m.log
    else
      -- nothing that it moved so far needs to stand: the whole movement is made again when the frame has come
      set s
      modify fun s => (s.requestResidency j.ag ref desc 3 (dieOf c.slot)).mapCore id fun c =>
        c.putCopy place { r with frame := some (Word.ofN (ref.toNat / 65536 * 65536)) }
      pure []
  | _ => Op.stall

/-- The copy engine's messages in a list of writes: the fields of each (R433). -/
def copyMessages : List Nat → List (List Nat)
  | ref :: n :: v :: rest => [2, ref, n, 0, 0, v] :: copyMessages rest
  | _ => []

/-- An event of a copy, in both copies of a twinned core: each write to an object is a message of the copy engine, numbered in
order, and equal numbers are compared; the first that differ are the mismatch (R433, R434). The event is forwarded as a whole or
not at all (log entry 38). -/
def Op.copyPaired (id : CoreId) (place : Nat) (f : CoreId → Op (List Nat)) : Op Unit := do
  let s ← get
  let twin := match s.findTask id.task with
    | some t => t.twin
    | none => false
  if twin then
    let a := { id with copy := 0 }
    let b := { id with copy := 1 }
    let c ← Op.get! (s.findCore a)
    let r ← Op.get! (c.copyAt place)
    let la := copyMessages (← f a)
    let lb := copyMessages (← f b)
    match (List.range (max la.length lb.length)).find? fun i => la[i]? ≠ lb[i]? with
    | some i =>
      set s
      Op.twinMismatch a r.cmd.ctx (c.copySeq + i) (messageHash (la.getD i [])) (messageHash (lb.getD i []))
    | none => modify fun s =>
        let count (c : LCore) : LCore := { c with copySeq := c.copySeq + la.length }
        (s.mapCore a count).mapCore b count
  else discard (f id)

/-- COPY_COMPLETE (R299). -/
def execCopyComplete (core : CoreId) (place : Nat) (s : State) : Host.Outcome State Fault Refusal :=
  runEvent (Op.copyPaired core place fun id => Op.copyFinish id place) s

/-- COPY_RING_SLOT_READY (R292). -/
def execCopyRingSlotReady (core : CoreId) (place : Nat) (s : State) : Host.Outcome State Fault Refusal :=
  runEvent (Op.copyPaired core place fun id => Op.copySlot id place) s

/-- COPY_FRAME_FAULT (R303). -/
def execCopyFrameFault (core : CoreId) (place : Nat) (s : State) : Host.Outcome State Fault Refusal :=
  runEvent (Op.copyPaired core place fun id => Op.copyFault id place) s

/-! ### CPYC and CPYQ (R301, R302) -/

/-- A copy in flight stopped at a row boundary after `k` of the rows from `first` on, which lie at these bases (R301): the
elements done when it stands at the boundary, or the stop that it met. -/
def Op.copyRowsThen (id : CoreId) (r : CopyRun) (src dst : Word) (first k : Nat) : Op (Nat × Stopped) := do
  let s ← get
  let c ← Op.get! (s.findCore id)
  let sh := r.shape
  let (j, m) := s.copyJob id c r sh src dst first k
  let (m, st) ← Op.moveRows j sh src dst k first m
  let m ← Op.flushRun j m
  let e := sh.before first + m.done
  match st with
  | some (operand, .stop cause eaddr einfo precise) => pure (e, some (operand, .stop cause eaddr einfo precise))
  | _ =>
    let per := if sh.linear then 4096 else max 1 (sh.rowElems 0)
    pure (if e = sh.total then e else sh.before (e / per), none)

/-- A copy in flight stopped by a save: after a number of rows that the manual leaves open (R306, log entry 9); a ring copy
at its slot wait. -/
def Op.copyHalt (id : CoreId) (i : Nat) (r : CopyRun) : Op (Nat × Stopped) := do
  let s ← get
  let sh := r.shape
  if r.onRing then pure (sh.before (r.slots * sh.slotRows), none)
  else Op.copyRowsThen id r sh.src sh.dst 0 (Config.rowsMoved s.tick i % (sh.rows + 1))

/-- A copy in flight cancelled at its next row boundary (R301): as for a save, but a ring copy may stand within a slot it
has begun, which breaks the ring (R364). -/
def Op.copyCancel (id : CoreId) (i : Nat) (r : CopyRun) : Op (Nat × Stopped) := do
  let s ← get
  let c ← Op.get! (s.findCore id)
  let sh := r.shape
  let ring := c.ring sh.ring
  let ready : Bool := !ring.broken && (if sh.srcRing then 1 ≤ ring.filled else ring.filled < ring.slots)
  let k := if sh.slotRows = 0 then 0 else Config.rowsMoved s.tick i % sh.slotRows
  if r.onRing && ready && k ≠ 0 then
    let at_ := Word.ofN (ring.slotAt (if sh.srcRing then ring.consumer else ring.producer))
    modify fun s => s.mapCore id fun c => c.breakRing sh.ring
    let src := if sh.srcRing then sh.src + at_ else sh.src
    let dst := if sh.dstRing then sh.dst + at_ else sh.dst
    Op.copyRowsThen id r src dst (r.slots * sh.slotRows) k
  else Op.copyHalt id i r

/-- The place of the first entry that satisfies a test. -/
def placeOf {α : Type} (p : α → Bool) (l : List α) : Option Nat :=
  (l.zipIdx.find? fun e => p e.1).map (·.2)

/-- CPYC (R301). -/
def execCpyc (r : BitVec 6) (s : State) : Host.Outcome State Fault Refusal :=
  performNext (.cpyc r) (do
    let s ← get
    let id := s.core.id
    let mine (c : CopyCmd) : Bool := c.ctx = s.ctx.num && c.tok = r
    match placeOf mine s.core.copies.queue with
    | some i =>
      let cmd := s.core.copies.queue.getD i ⟨.cpyc 0, 0, 0, 0, 0, false⟩
      set ((s.mapCore id fun c => { c with copies := { c.copies with queue := c.copies.queue.eraseIdx i } }).copyEnd id cmd
        (copyToken 0 0 0 0x14))
    | none =>
      match placeOf (fun (f : CopyRun) => mine f.cmd) s.core.copies.flight with
      | none => pure ()
      | some i =>
        let f ← Op.get! (s.core.copyAt i)
        let (done, st) ← Op.copyCancel id i f
        match st with
        | some (operand, .stop cause eaddr einfo precise) =>
          modify fun s => (s.mapCore id fun c => c.dropCopy i).copyStop id f.cmd (f.doneAt done) operand cause eaddr einfo
            precise
        | _ =>
          modify fun s => (s.mapCore id fun c => c.dropCopy i).copyEnd id f.cmd (copyToken (f.doneAt done) 0 0 0x14)) s

/-- CPYQ (R302). -/
def execCpyq (a t : BitVec 6) (s : State) : Host.Outcome State Fault Refusal :=
  performNext (.cpyq a t) (do
    let limit ← Op.readG a
    let c ← Op.core
    let n := (c.copies.queue.filter fun x => x.ctx = c.ctx.num).length +
      (c.copies.flight.filter fun x => x.cmd.ctx = c.ctx.num).length
    Op.need (n ≤ limit.toNat)
    Op.writeG t (Word.ofN n)) s

/-! ### Copies stopped by a save (R306) -/

/-- Every copy in flight stopped at a row boundary and turned into the residual copy that the image holds; a copy that
meets an error first, or that has no row left, ends with its token. -/
def Op.copySave (id : CoreId) : Nat → List CopyRun → Op (List CopyRun)
  | _, [] => pure []
  | i, r :: rest => do
    let (done, st) ← Op.copyHalt id i r
    let kept ← (match st with
      | some (operand, .stop cause eaddr einfo precise) => do
        modify fun s => s.copyStop id r.cmd (r.doneAt done) operand cause eaddr einfo precise
        pure []
      | _ =>
        if done = r.shape.total then do
          modify fun s => s.copyEnd id r.cmd (copyToken (r.doneAt done) 0 0 0)
          pure []
        else
          let (sh, before) := r.shape.residual done
          let fresh := { r with frame := none, refused := false, timedOut := none, under := [], hostBad := false }
          pure [{ fresh with shape := sh, base := r.base + before, slots := 0 }])
    let others ← Op.copySave id (i + 1) rest
    pure (kept ++ others)

end Sys2Proof.Machine
end

