-- ==== Sys2Proof/Machine/Matrix.lean ====
section
/-! DEFINITION. The matrix engine (R221 to R248): issue, the checks at take, products, readout, images, status, the shadow
check unit, EFENCE. -/

namespace Sys2Proof.Machine

/-! ### Issue (R223) -/

/-- Whether a command is an MRDV, and its vector register. -/
def MCmd.vreg (m : MCmd) : Option (BitVec 5) :=
  match m.instr with
  | .mrdv _ v _ _ => some v
  | _ => none

/-- The token register of a command. -/
def MCmd.tok (m : MCmd) : BitVec 6 :=
  match m.instr with
  | .mma _ _ t _ | .mmar _ _ t _ | .mmaz _ _ t _ => t
  | .mcfg _ _ t | .mcfgRd _ _ t => t
  | .minit _ t _ | .msta _ t _ | .mstat _ t _ | .mshad _ t _ => t
  | .mrd _ _ t _ | .mrdv _ _ t _ | .mlda _ _ t _ | .mldaAdd _ _ t _ => t
  | _ => 0

/-- The tile that a command names. -/
def MCmd.tile (m : MCmd) : Nat :=
  match m.instr with
  | .mma _ _ _ x | .mmar _ _ _ x | .mmaz _ _ _ x => x.toNat
  | .minit _ _ x | .msta _ _ x | .mstat _ _ x | .mshad _ _ x => x.toNat
  | .mrd _ _ _ x | .mrdv _ _ _ x | .mlda _ _ _ x | .mldaAdd _ _ _ x => x.toNat
  | _ => 0

/-- A matrix command at issue (R223): its operands, TENSOR and SEVPOL are recorded, a release at core scope, and it enters
the queue. -/
def Op.matIssue (i : Instr) (x y z : Word) (t : BitVec 6) : Op Unit := do
  Op.freeG t
  let c ← Op.core
  Op.need (c.mx.queue.length < Config.queueEntries)
  let nofold := match c.ctx.pfx with
    | some p => p.nofold
    | none => false
  let cmd : MCmd := ⟨i, c.ctx.num, x, y, z, c.ctx.sys.tensor, c.ctx.sys.sevpol, nofold⟩
  match cmd.vreg with
  | some v => Op.need (!c.ctx.pendV.getLsbD v.toNat)
  | none => pure ()
  Op.releaseWait 1
  Op.claimG t
  match cmd.vreg with
  | some v => Op.modCtx fun c => c.setPendV v.toNat true
  | none => pure ()
  Op.modCore fun c => { c with mx := { c.mx with queue := c.mx.queue ++ [cmd] } }

/-- A command of two register operands. -/
def Op.matIssue2 (i : Instr) (a b t : BitVec 6) : Op Unit := do
  let x ← Op.readG a
  let y ← Op.readG b
  Op.matIssue i x y 0 t

/-- A command of one register operand. -/
def Op.matIssue1 (i : Instr) (a t : BitVec 6) : Op Unit := do
  let x ← Op.readG a
  Op.matIssue i x 0 0 t

/-- MMA (R228, R230). -/
def execMma (a b t : BitVec 6) (tile : BitVec 3) (s : State) : Host.Outcome State Fault Refusal :=
  performNext (.mma a b t tile) (Op.matIssue2 (.mma a b t tile) a b t) s

/-- MMAR (R228, R232). -/
def execMmar (a b t : BitVec 6) (tile : BitVec 3) (s : State) : Host.Outcome State Fault Refusal :=
  performNext (.mmar a b t tile) (Op.matIssue2 (.mmar a b t tile) a b t) s

/-- MMAZ (R228, R231). -/
def execMmaz (a b t : BitVec 6) (tile : BitVec 3) (s : State) : Host.Outcome State Fault Refusal :=
  performNext (.mmaz a b t tile) (Op.matIssue2 (.mmaz a b t tile) a b t) s

/-- MCFG (R227). -/
def execMcfg (a b t : BitVec 6) (s : State) : Host.Outcome State Fault Refusal :=
  performNext (.mcfg a b t) (Op.matIssue2 (.mcfg a b t) a b t) s

/-- MCFG.rd (R227). -/
def execMcfgRd (a b t : BitVec 6) (s : State) : Host.Outcome State Fault Refusal :=
  performNext (.mcfgRd a b t) (Op.matIssue2 (.mcfgRd a b t) a b t) s

/-- MINIT (R234). -/
def execMinit (a t : BitVec 6) (tile : BitVec 3) (s : State) : Host.Outcome State Fault Refusal :=
  performNext (.minit a t tile) (Op.matIssue1 (.minit a t tile) a t) s

/-- MRD (R235). -/
def execMrd (a b t : BitVec 6) (tile : BitVec 3) (s : State) : Host.Outcome State Fault Refusal :=
  performNext (.mrd a b t tile) (Op.matIssue2 (.mrd a b t tile) a b t) s

/-- MRDV (R236): the position word and, in the next register, the origin word. -/
def execMrdv (a : BitVec 6) (v : BitVec 5) (t : BitVec 6) (tile : BitVec 3) (s : State) :
    Host.Outcome State Fault Refusal :=
  performNext (.mrdv a v t tile) (do
    let x ← Op.readG a
    let y ← Op.readG (a + 1)
    Op.matIssue (.mrdv a v t tile) x 0 y t) s

/-- MLDA (R238). -/
def execMlda (a b t : BitVec 6) (tile : BitVec 3) (s : State) : Host.Outcome State Fault Refusal :=
  performNext (.mlda a b t tile) (Op.matIssue2 (.mlda a b t tile) a b t) s

/-- MLDA.add (R238). -/
def execMldaAdd (a b t : BitVec 6) (tile : BitVec 3) (s : State) : Host.Outcome State Fault Refusal :=
  performNext (.mldaAdd a b t tile) (Op.matIssue2 (.mldaAdd a b t tile) a b t) s

/-- MSTA (R237). -/
def execMsta (a t : BitVec 6) (tile : BitVec 3) (s : State) : Host.Outcome State Fault Refusal :=
  performNext (.msta a t tile) (Op.matIssue1 (.msta a t tile) a t) s

/-- MSTAT (R239). -/
def execMstat (a t : BitVec 6) (tile : BitVec 3) (s : State) : Host.Outcome State Fault Refusal :=
  performNext (.mstat a t tile) (Op.matIssue1 (.mstat a t tile) a t) s

/-- MSHAD (R245). -/
def execMshad (a t : BitVec 6) (tile : BitVec 3) (s : State) : Host.Outcome State Fault Refusal :=
  performNext (.mshad a t tile) (Op.matIssue1 (.mshad a t tile) a t) s

/-! ### EFENCE (R241, R243) -/

/-- The commands queued or running. -/
def MatrixEngine.pending (m : MatrixEngine) : Nat := m.queue.length + (if m.running.isSome then 1 else 0)

/-- The stop report of the matrix engine that a context must take at EFENCE: its own (R243). One passed by a helper waits for the
events of R174. -/
def Ctx.matrixReport (c : Ctx) : Option Report :=
  c.reports.find? fun r => match r.kind with
    | .engine _ m => m
    | .passed _ _ | .bank _ => false

/-- EFENCE (R241): not ready until the commands that were queued or running at its issue have ended; then a pending stop
traps (R243), or it completes. -/
def execEfence (s : State) : Host.Outcome State Fault Refusal :=
  perform .efence (do
    let c ← Op.core
    match c.ctx.progress with
    | none =>
      if c.mx.pending ≠ 0 then
        Op.modCtx fun x => { x with progress := some c.mx.pending }
        Op.block
      else pure ()
    | some n => Op.need (n = 0)
    match c.ctx.matrixReport with
    | some r => Op.takeReport r
    | none => pure .next) s

/-! ### Configuration words (R227) -/

/-- The fields of the engine pair. -/
structure MxConfig where
  sdA : Int
  sdB : Int
  nb : Nat
  fmtA : Nat
  fmtB : Nat
  group : Nat
  mode : Nat
  ssA : Nat
  ssB : Nat
  rsA : Nat
  rsB : Nat
  deriving DecidableEq, Repr

def mxConfig (c0 c1 : Word) : MxConfig where
  sdA := elemInt true 20 (c0.bits 43 24)
  sdB := elemInt true 20 (c0.bits 63 44)
  nb := c0.bits 23 16
  fmtA := c0.bits 11 8
  fmtB := c0.bits 15 12
  group := c0.bits 7 6
  mode := c0.bits 1 0
  ssA := c1.bits 47 32
  ssB := c1.bits 63 48
  rsA := c1.bits 15 0
  rsB := c1.bits 31 16

/-- MX codes, and grouped-integer codes. -/
def isMx (f : Nat) : Bool := 4 ≤ f && f ≤ 8
def isGrouped (f : Nat) : Bool := f = 10 || f = 11

/-- Whether the engine pair is valid. -/
def engineValid (c0 c1 : Word) : Bool :=
  let c := mxConfig c0 c1
  c0.bits 5 2 = 0 && 1 ≤ c.nb && c.group ≠ 3 && c.rsA % 8 = 0 && c.rsB % 8 = 0 &&
  ((isMx c.fmtA && isMx c.fmtB) ||
   (isGrouped c.fmtA && isGrouped c.fmtB && c.sdA % 4 = 0 && c.sdB % 4 = 0 && c.ssA % 4 = 0 && c.ssB % 4 = 0))

/-- The fields of the readout pair. -/
structure RdConfig where
  drow : Nat
  fmt : Nat
  mode : Nat
  sdS : Int
  ssS : Nat
  derived : Bool
  scale : Nat
  deriving DecidableEq, Repr

def rdConfig (o0 o1 : Word) : RdConfig where
  drow := o0.bits 31 16
  fmt := o0.bits 11 8
  mode := o0.bits 5 4
  sdS := elemInt true 20 (o1.bits 63 44)
  ssS := o1.bits 43 28
  derived := o1.getLsbD 8
  scale := o1.bits 7 0

/-- Whether the readout pair is valid. -/
def readoutValid (o0 o1 : Word) : Bool :=
  let r := rdConfig o0 o1
  o0.bits 63 32 = 0 && o0.bits 15 12 = 0 && o0.bits 7 6 = 0 && o0.bits 3 0 = 0 && o1.bits 27 9 = 0 &&
  1 ≤ r.fmt && r.fmt ≤ 8 && r.mode ≠ 3 && r.drow % 8 = 0 && r.scale ≤ 254

/-- The output format of a readout, and its rounding mode. -/
def rdFmt (fmt : Nat) : Fmt :=
  match fmt with
  | 1 => fmtF32
  | 2 => fmtBf16
  | 3 => fmtF16
  | f => mxOfLayout f

def rdMode (m : Nat) : RMode :=
  match m with
  | 0 => .rne
  | 1 => .rz
  | _ => .sr

/-! ### Extents (R221) -/

/-- The extent of a tile name in a mode: rows, columns, and its tiles in order. -/
structure Extent where
  mode : Nat
  rows : Nat
  cols : Nat
  base : Nat
  tiles : Nat
  deriving DecidableEq, Repr

def extentOf (mode tile : Nat) : Extent :=
  if mode = 0 || (tile ≠ 0 && tile ≠ 4) then ⟨0, 32, 32, tile, 1⟩
  else match mode with
    | 1 => ⟨1, 64, 64, tile, 4⟩
    | 2 => ⟨2, 32, 128, tile, 4⟩
    | _ => ⟨3, 128, 32, tile, 4⟩

/-- Row and column of the extent that element `i` of its tile number `p` holds. -/
def Extent.place (x : Extent) (p i : Nat) : Nat × Nat :=
  match x.mode with
  | 0 => (i / 32, i % 32)
  | 1 => (32 * (p / 2) + i / 32, 32 * (p % 2) + i % 32)
  | 2 => (i / 32, 32 * p + i % 32)
  | _ => (32 * p + i / 32, i % 32)

/-- The tile number and the element that hold row r, column c of the extent. -/
def Extent.at_ (x : Extent) (r c : Nat) : Nat × Nat :=
  let i := 32 * (r % 32) + c % 32
  match x.mode with
  | 0 => (0, i)
  | 1 => (2 * (r / 32) + c / 32, i)
  | 2 => (c / 32, i)
  | _ => (r / 32, i)

/-- A tile of the engine, and a change of it (its dirty bit set, R405). -/
def MatrixEngine.tile (m : MatrixEngine) (t : Nat) : Tile := m.tiles.toList.getD t Tile.zero

def MatrixEngine.setTile (m : MatrixEngine) (t : Nat) (x : Tile) : MatrixEngine :=
  if h : t < 8 then { m with tiles := m.tiles.set t x, tileDirty := m.tileDirty ||| (1#8 <<< t) } else m

def LCore.mapMx (c : LCore) (f : MatrixEngine → MatrixEngine) : LCore := { c with mx := f c.mx }

def Tile.get (t : Tile) (i : Nat) : Elem := (NatMap.get t.elems i).getD Elem.zero

/-- The anchor as an integer. -/
def Tile.at_ (t : Tile) : Int := t.anchor.toInt

/-- Every element of a tile changed by a function of its number. -/
def Tile.update (t : Tile) (f : Nat → Elem → Elem) : Tile :=
  { t with elems := (List.range 1024).filterMap fun i =>
      let e := f i (t.get i)
      if e = Elem.zero then none else some (i, e) }

/-- The tiles of an extent changed, each with its number within the extent. -/
def MatrixEngine.updateExtent (m : MatrixEngine) (x : Extent) (f : Nat → Tile → Tile) : MatrixEngine :=
  (List.range x.tiles).foldl (init := m) fun m p => m.setTile (x.base + p) (f p (m.tile (x.base + p)))

/-! ### Memory operands (R225, R229) -/

/-- An operand's bytes relative to its base reference, the alignment of its first byte, and its operand code. -/
structure MatOperand where
  base : Word
  lo : Int
  hi : Int
  align : Nat
  code : Nat
  deriving DecidableEq, Repr

/-- The cause of the first failing check of an operand (R225 step 4). -/
def State.operandCause (s : State) (me : LCore) (o : MatOperand) : Option Nat :=
  let b : Int := o.base.toNat
  let first := b + o.lo
  let last := b + o.hi
  let target : Option LCore :=
    if refHandle o.base = 0 then some me else s.windowCore me (refOffset o.base / 2 ^ 20 % 16)
  if 1 < refHandle o.base then some cHANDLE
  else if first / 2 ^ 20 ≠ b / 2 ^ 20 || last / 2 ^ 20 ≠ b / 2 ^ 20 ||
      (if refHandle o.base = 0 then refOffset o.base / 2 ^ 20 ≠ 0 else refOffset o.base / 2 ^ 24 ≠ 0) then some cBOUND
  else match target with
    | none => some cRIGHT
    | some c =>
      if first % 2 ^ 20 < c.xbTake.toNat then some cXDATA
      else if first % (o.align : Int) ≠ 0 then some cMISAL else none

/-- The first failing operand, as cause and operand code. -/
def State.operandsCause (s : State) (me : LCore) : List MatOperand → Option (Nat × Nat)
  | [] => none
  | o :: os => match s.operandCause me o with
    | some c => some (c, o.code)
    | none => s.operandsCause me os

/-- The bytes of the elements of `n` rows or columns, and those of their scales (R229). -/
def elemSpan (n rs nb fmt : Nat) : Int := ((n - 1) * rs + nb * blockBytes fmt : Nat) - 1
def scaleSpan (n ss nb fmt group : Nat) : Int :=
  ((n - 1) * ss + (if isMx fmt then nb - 1 else 4 * (32 * (nb - 1) / (32 * 2 ^ group)) + 3) : Nat)

/-- Whether a command is a product, and of which kind: 0 MMA, 1 MMAR, 2 MMAZ. -/
def MCmd.product (m : MCmd) : Option Nat :=
  match m.instr with
  | .mma _ _ _ _ => some 0
  | .mmar _ _ _ _ => some 1
  | .mmaz _ _ _ _ => some 2
  | _ => none

/-- The extent that a command acts on under a mode; MSTAT and MSHAD act on the single tile (R221). -/
def MCmd.extent (m : MCmd) (mode : Nat) : Extent :=
  match m.instr with
  | .mstat _ _ _ | .mshad _ _ _ => extentOf 0 m.tile
  | _ => extentOf mode m.tile

/-- The memory operands of a command under the configuration in force, in the order of the operand codes. -/
def MCmd.operands (m : MCmd) (e : MatrixEngine) : List MatOperand :=
  let c := mxConfig e.mxc0 e.mxc1
  let o := rdConfig e.mxo0 e.mxo1
  let x := m.extent c.mode
  match m.instr with
  | .mma _ _ _ _ | .mmaz _ _ _ _ =>
    [⟨m.ga, 0, elemSpan x.rows c.rsA c.nb c.fmtA, 8, 0⟩, ⟨m.gb, 0, elemSpan x.cols c.rsB c.nb c.fmtB, 8, 1⟩,
     ⟨m.ga, c.sdA, c.sdA + scaleSpan x.rows c.ssA c.nb c.fmtA c.group, if isMx c.fmtA then 1 else 4, 2⟩,
     ⟨m.gb, c.sdB, c.sdB + scaleSpan x.cols c.ssB c.nb c.fmtB c.group, if isMx c.fmtB then 1 else 4, 3⟩]
  | .mmar _ _ _ _ =>
    [⟨m.ga, 0, elemSpan x.rows c.rsA c.nb c.fmtA, 8, 0⟩,
     ⟨m.ga, c.sdA, c.sdA + scaleSpan x.rows c.ssA c.nb c.fmtA c.group, if isMx c.fmtA then 1 else 4, 2⟩]
  | .mrd _ _ _ _ =>
    ⟨m.ga, 0, ((x.rows - 1) * o.drow + x.cols * layoutWidth o.fmt / 8 : Nat) - 1, 8, 4⟩ ::
      (if isMx o.fmt then [⟨m.ga, o.sdS, o.sdS + (((x.rows - 1) * o.ssS + x.cols / 32 : Nat) : Int) - 1, 1, 5⟩] else [])
  | .msta _ _ _ => [⟨m.ga, 0, (16384 * x.tiles : Nat) - 1, 16, 4⟩]
  | .mlda _ _ _ _ | .mldaAdd _ _ _ _ => [⟨m.ga, 0, (16384 * x.tiles : Nat) - 1, 16, 0⟩]
  | _ => []

/-- Whether a 64-bit register value is an anchor (R234, R238). -/
def anchorOk (v : Word) : Bool := -512 ≤ v.toInt && v.toInt ≤ 511

/-- The lanes of an MRDV (R236). -/
def mrdvLanes (fmt : Nat) : Nat := if fmt = 1 then 8 else 16

/-- Step 1 of R225: the configuration in force and the register values. -/
def MCmd.valuesOk (m : MCmd) (e : MatrixEngine) : Bool :=
  let c := mxConfig e.mxc0 e.mxc1
  let o := rdConfig e.mxo0 e.mxo1
  let x := m.extent c.mode
  match m.instr with
  | .mcfg _ _ _ => engineValid m.ga m.gb
  | .mcfgRd _ _ _ => readoutValid m.ga m.gb
  | .mma _ _ _ _ => engineValid e.mxc0 e.mxc1
  | .mmar _ _ _ _ => engineValid e.mxc0 e.mxc1 && m.gb.bits 63 3 = 0
  | .mmaz _ _ _ _ => engineValid e.mxc0 e.mxc1 && isGrouped c.fmtA
  | .minit _ _ _ => anchorOk m.ga
  | .mrd _ _ _ _ => readoutValid e.mxo0 e.mxo1
  | .mrdv _ _ _ _ =>
    let r := m.ga.bits 6 0
    let c0 := m.ga.bits 14 8
    let n := mrdvLanes o.fmt
    readoutValid e.mxo0 e.mxo1 && !isMx o.fmt && r < x.rows && c0 % n = 0 && c0 + n ≤ x.cols &&
    m.ga.bits 7 7 = 0 && m.ga.bits 63 15 = 0
  | .mlda _ _ _ _ => anchorOk m.gb
  | .mldaAdd _ _ _ _ =>
    anchorOk m.gb && (List.range x.tiles).all fun p => (e.tile (x.base + p)).at_ = m.gb.toInt
  | .mshad _ _ _ => m.ga.toNat < 3
  | _ => true

/-- Steps 2 and 3: the tile name against the mode, and an MMAR's ring. -/
def MCmd.ringCause (m : MCmd) (core : LCore) : Option (Nat × Nat) :=
  let c := mxConfig core.mx.mxc0 core.mx.mxc1
  let x := m.extent c.mode
  match m.product with
  | none => none
  | some k =>
    if c.mode ≠ 0 && m.tile ≠ 0 && m.tile ≠ 4 then some (cILL, 6)
    else if k ≠ 1 then none
    else
      let r := core.ring (m.gb.toNat % 8)
      if !r.configured then some (cRING, 7)
      else
        let last := max (elemSpan x.cols c.rsB c.nb c.fmtB) (c.sdB + scaleSpan x.cols c.ssB c.nb c.fmtB c.group)
        if c.sdB < 0 || (r.slotBytes : Int) ≤ last then some (cBOUND, 7) else none

/-- The first failing check at take (R225). -/
def State.matrixRefusal (s : State) (core : LCore) (m : MCmd) : Option (Nat × Nat) :=
  if !m.valuesOk core.mx then some (cILL, 6)
  else match m.ringCause core with
    | some r => some r
    | none => s.operandsCause core (m.operands core.mx)

/-! ### Tokens and the end of a command (R224, R239, R243) -/

/-- The token word of a matrix command (R224). -/
def matrixToken (progress cause operand status : Nat) : Word :=
  Word.ofN (progress % 2 ^ 16 * 2 ^ 32 + cause * 2 ^ 24 + operand * 2 ^ 16 + status)

/-- A command ends with this token: its registers are no longer pending, and the EFENCEs that count it count one less. -/
def State.matrixEnd (s : State) (id : CoreId) (m : MCmd) (token : Word) : State :=
  let s := (s.tokenAcquire id 2).writeToken id m.ctx m.tok token
  let s := match m.vreg with
    | some v => s.mapCtx id m.ctx fun c => c.setPendV v.toNat false
    | none => s
  s.mapCore id fun c => (c.mapCtxs fun x => { x with progress := x.progress.map fun n => n - 1 }).mapMx fun e =>
    { e with running := none }

/-- A refusal at take or at the check of images (R225, R238). -/
def State.matrixRefuse (s : State) (id : CoreId) (m : MCmd) (cause operand : Nat) : State :=
  let s := s.mapCore id fun c => c.mapMx fun e => { e with lcause := BitVec.ofNat 8 cause, lstat := 0x10 }
  s.matrixEnd id m (matrixToken 0 cause operand 0x10)

/-- The live shadow of a core dropped without a record when its tile is among those of an extent (R246). -/
def MatrixEngine.dropShadow (e : MatrixEngine) (x : Extent) : MatrixEngine :=
  match e.shadow with
  | some sh => if x.base ≤ sh.tile.toNat && sh.tile.toNat < x.base + x.tiles then { e with shadow := none } else e
  | none => e

/-- A stop (R243, R364): later commands are skipped until the issuing context, or context 0 for a helper that has ended (R174), has
taken the trap; the core's shadow ends without a
record, on whatever tile it is (R246). -/
def State.matrixStop (s : State) (id : CoreId) (m : MCmd) (progress operand cause : Nat) (eaddr : Word) : State :=
  let taker := if s.helperGone id m.ctx then 0 else m.ctx
  let s := s.mapCore id fun c => c.mapMx fun e =>
    { e with shadow := none, lcause := BitVec.ofNat 8 cause, lstat := 0x11, skipFor := some taker }
  let s := if m.product = some 1 then s.mapCore id fun c => c.breakRing (m.gb.toNat % 8) else s
  (s.matrixEnd id m (matrixToken progress cause operand 0x11)).reportStop id m.ctx m.tok true cause eaddr
    (Word.ofN (operand * 2 ^ 16 + progress % 2 ^ 16))

/-! ### The shadow check unit (R244 to R247) -/

/-- A computation starts on the base tile of an extent (R244, R245). -/
def LCore.startComputation (c : LCore) (tile : Nat) : LCore :=
  c.mapMx fun e =>
    let t := e.tile tile
    let e := (e.dropShadow (extentOf 0 tile)).setTile tile { t with mark := 0 }
    if t.mark = 2 then e
    else
      let n := e.startCount + 1
      let due : Bool := c.shadown.bits 15 0 ≠ 0 && n.toNat = c.shadown.bits 15 0
      let forced : Bool := t.mark = 1
      let e := { e with startCount := if due then 0 else n }
      if (due || forced) && e.shadow.isNone then
        { e with shadow := some ⟨BitVec.ofNat 3 tile, forced, []⟩ } else e

/-- An operand element as the check unit takes it: its value times its scale, rounded to FP32 (R246). -/
def shadowMx (f : Fmt) (code scale : Nat) : Nat :=
  if scale = 0xFF then nanCode fmtF32
  else match decodeF f code with
    | .nan s _ => quietCode fmtF32 s 0
    | v => encodeF fmtF32 .rne 0 (v.scale ((scale : Int) - 127))

def shadowGroup (w code : Nat) (entry : Word) (zeros : Bool) : Nat :=
  match scaleInt (groupScale entry) with
  | none => nanCode fmtF32
  | some sg =>
    let q := (elemInt true w code - (if zeros then groupZero entry else 0)) * sg
    roundF fmtF32 .rne 0 (q < 0) q.natAbs (-24) false

/-- One ulp of an FP32 value as a power of two (R246). -/
def ulpExp (code : Nat) : Int :=
  let ex : Nat := code / 2 ^ 23 % 256
  (if ex = 0 then 1 else (ex : Int)) - 150

/-- The deviation of a readout from a finite sum in ULPs of the sum (R246): saturated too where the readout of a finite element
rounds to infinity. -/
def deviation (y s : Nat) : Nat :=
  match decodeF fmtF32 y, decodeF fmtF32 s with
  | .num a m e, .num b n f =>
    let lo := if e < f then e else f
    let d := (scaledInt a m e lo - scaledInt b n f lo).natAbs
    let k := ulpExp s - lo
    min (2 ^ 32 - 1) (if 0 ≤ k then d / pow2 k else d * pow2 (-k))
  | .inf _, .num _ _ _ => 2 ^ 32 - 1
  | _, _ => 0

/-- Whether an FP32 code is finite. -/
def finiteCode (c : Nat) : Bool := c / 2 ^ 23 % 256 ≠ 255

/-- The check at the first readout that covers the shadowed tile: a record, and the shadow ends (R246, R247). -/
def State.shadowCheck (s : State) (id : CoreId) (m : MCmd) : State :=
  match s.findCore id with
  | none => s
  | some c =>
    let x := m.extent (c.mx.mxc0.bits 1 0)
    match c.mx.shadow with
    | none => s
    | some sh =>
      let p := sh.tile.toNat - x.base
      if sh.tile.toNat < x.base || x.tiles ≤ p then s
      else
        let t := c.mx.tile sh.tile.toNat
        let sum (i : Nat) : Nat := ((NatMap.get sh.sums i).getD 0).toNat
        let y (i : Nat) : Nat := (t.get i).readout fmtF32 .rne 0 t.at_ 127
        let odd := (List.range 1024).any fun i => (t.get i).cls ≠ .finite || !finiteCode (sum i)
        let dev (i : Nat) : Nat := if odd then 0 else deviation (y i) (sum i)
        let top := (List.range 1024).foldl (fun a i => max a (dev i)) 0
        let tied := (List.range 1024).filter fun i => dev i = top
        let i := tied.getD (Config.tieElement s.tick % tied.length) 0
        let (r, col) := x.place p i
        let o := m.gb
        let coord := Word.ofN (o.bits 63 50 * 2 ^ 50 + (o.bits 49 26 + r) % 2 ^ 24 * 2 ^ 26 + (o.bits 25 0 + col) % 2 ^ 26)
        let sat := (List.range 1024).any fun i => (t.get i).saturated.2
        let w0 := 2 ^ 56 + sat.toNat * 2 ^ 52 + odd.toNat * 2 ^ 51 + sh.forced.toNat * 2 ^ 50 + c.slot * 2 ^ 32 +
          m.tensor.bits 31 0
        (s.mapCore id fun c => c.mapMx fun e => { e with shadow := none }).telemetry (dieOf c.slot) (Word.ofN w0) coord
          (Word.ofN (top * 2 ^ 32 + c.regs.queue.toNat))

/-! ### The work of a command -/

/-- A trap of an operand's access marked with the operand code (R224). -/
def Op.asOperand {α : Type} (code : Nat) (op : Op α) : Op α := fun s =>
  match op s with
  | .error (.trap t) => .error (.trap { t with einfo := Word.ofN (code * 2 ^ 16) })
  | r => r

/-- `n` bytes of local memory read by the engine as operand `code`. -/
def Op.matGet (ag : Agent) (ref : Word) (n code : Nat) : Op Nat := do
  let s ← get
  match s.localSpot ag ref with
  | some (.local id off) => Op.asOperand code (Op.localLoad ag ⟨ref, n, 0xF, 0, 0⟩ id off)
  | _ => Op.stall

/-- `n` bytes of local memory written by the engine as operand `code`. -/
def Op.matPut (ag : Agent) (ref : Word) (n v code : Nat) : Op Unit := do
  let s ← get
  match s.localSpot ag ref with
  | some (.local id off) => Op.asOperand code (Op.localStore ag ⟨ref, n, 0xF, 1, 0⟩ id off v (2 ^ n - 1))
  | _ => Op.stall

/-- One row of A, or column of B, of a block: its element codes, and its scale byte or group entry. -/
structure BlockRow where
  codes : List Nat
  scale : Nat
  deriving DecidableEq, Repr

/-- Block `kb` of row or column `i` of an operand (R229). -/
def Op.blockRow (ag : Agent) (base : Word) (sd : Int) (ss rs fmt group kb : Nat) (codeE codeS i : Nat) : Op BlockRow := do
  let b := blockBytes fmt
  let e ← Op.matGet ag (base + Word.ofN (i * rs + kb * b)) b codeE
  let at_ : Int := if isMx fmt then (i * ss + kb : Nat) else (i * ss + 4 * (32 * kb / (32 * 2 ^ group)) : Nat)
  let x ← Op.matGet ag (moveRef base (sd + at_)) (if isMx fmt then 1 else 4) codeS
  pure ⟨elems (layoutWidth fmt) 32 e, x⟩

/-- The contribution of a row and a column at an anchor (R60, R61, R230, R231). -/
def blockContrib (c : MxConfig) (zeros : Bool) (a b : BlockRow) (anchor : Int) : Contrib :=
  if isMx c.fmtA then mxBlock (mxOfLayout c.fmtA) (mxOfLayout c.fmtB) a.codes b.codes a.scale b.scale anchor
  else groupBlock (layoutWidth c.fmtA) (layoutWidth c.fmtB) a.codes b.codes (Word.ofN a.scale) (Word.ofN b.scale) zeros anchor

/-- The FP32 operand values of a block's row for the check unit. -/
def shadowRow (fmt : Nat) (zeros : Bool) (r : BlockRow) : List Nat :=
  if isMx fmt then r.codes.map fun e => shadowMx (mxOfLayout fmt) e r.scale
  else r.codes.map fun e => shadowGroup (layoutWidth fmt) e (Word.ofN r.scale) zeros

/-- One block step folded into the live shadow, if its tile is in the extent (R246). -/
def MatrixEngine.foldShadow (e : MatrixEngine) (c : MxConfig) (x : Extent) (zeros : Bool) (as bs : List BlockRow) :
    MatrixEngine :=
  match e.shadow with
  | none => e
  | some sh =>
    let p := sh.tile.toNat - x.base
    if sh.tile.toNat < x.base || x.tiles ≤ p then e
    else
      let va := as.map (shadowRow c.fmtA zeros)
      let vb := bs.map (shadowRow c.fmtB zeros)
      let sums := (List.range 1024).filterMap fun i =>
        let (r, col) := x.place p i
        let old := ((NatMap.get sh.sums i).getD 0).toNat
        let new := (List.zip (va.getD r []) (vb.getD col [])).foldl
          (fun s (q : Nat × Nat) => fmaF fmtF32 false false q.1 q.2 s) old
        if new = 0 then none else some (i, BitVec.ofNat 32 new)
      { e with shadow := some { sh with sums := sums } }

/-- Block step `kb` of a product, B read from `gb` (R230). -/
def Op.blockStep (ag : Agent) (m : MCmd) (gb : Word) (kb : Nat) : Op Unit := do
  let s ← get
  let core ← Op.get! (s.findCore ag.core)
  let c := mxConfig core.mx.mxc0 core.mx.mxc1
  let x := m.extent c.mode
  let zeros : Bool := m.product = some 2
  let as ← Op.collect (Op.blockRow ag m.ga c.sdA c.ssA c.rsA c.fmtA c.group kb 0 2) (List.range x.rows)
  let bs ← Op.collect (Op.blockRow ag gb c.sdB c.ssB c.rsB c.fmtB c.group kb 1 3) (List.range x.cols)
  let row (l : List BlockRow) (i : Nat) : BlockRow := l.getD i ⟨[], 0⟩
  let add (p : Nat) (t : Tile) : Tile := t.update fun i e =>
    let (r, col) := x.place p i
    e.add (blockContrib c zeros (row as r) (row bs col) t.at_)
  modify fun s => s.mapCore ag.core fun core => core.mapMx fun e => (e.updateExtent x add).foldShadow c x zeros as bs

/-- The readout code of element (r, c) of an extent (R67, R68), for an MX scale `xs` and a key. -/
def readCode (e : MatrixEngine) (x : Extent) (f : Fmt) (mode : RMode) (key origin : Word) (xs r c : Nat) : Nat :=
  let (p, i) := x.at_ r c
  let t := e.tile (x.base + p)
  let rb := if mode = .sr then drawAt key (origin.bits 63 50) ((origin.bits 49 26 + r) % 2 ^ 24)
    ((origin.bits 25 0 + c) % 2 ^ 26) else 0
  (t.get i).readout f mode rb t.at_ xs

/-- The scale of a block of a row (R235). -/
def blockScale (e : MatrixEngine) (x : Extent) (o : RdConfig) (r cb : Nat) : Nat :=
  let cells := (List.range 32).map fun j =>
    let (p, i) := x.at_ r (32 * cb + j)
    let t := e.tile (x.base + p)
    (t.get i, t.at_)
  if 6 ≤ o.fmt && cells.any (fun q => q.1.cls = .nan) then 0xFF
  else if o.derived then derivedScale (mxOfLayout o.fmt) cells else o.scale

/-- SAT of the tiles whose elements in a row's columns [c0, c0 + n) saturate (R67). -/
def MatrixEngine.noteSat (e : MatrixEngine) (x : Extent) (r c0 n : Nat) : MatrixEngine :=
  (List.range n).foldl (init := e) fun e j =>
    let (p, i) := x.at_ r (c0 + j)
    let t := e.tile (x.base + p)
    if (t.get i).saturated.2 && !t.sat then e.setTile (x.base + p) { t with sat := true } else e

/-- The rounding key of a command: SEED and STEP of its core, and the TENSOR recorded at its issue (R70). -/
def LCore.keyFor (c : LCore) (m : MCmd) : Word := roundingKey c.regs.seed c.regs.step (m.tensor.setWidth 32)

/-- Row `r` of an MRD (R235). -/
def Op.readRow (ag : Agent) (m : MCmd) (r : Nat) : Op Unit := do
  let s ← get
  let core ← Op.get! (s.findCore ag.core)
  let o := rdConfig core.mx.mxo0 core.mx.mxo1
  let x := m.extent (core.mx.mxc0.bits 1 0)
  let f := rdFmt o.fmt
  let key := core.keyFor m
  let blocks := List.range (x.cols / 32)
  let scales := blocks.map fun cb => if isMx o.fmt then blockScale core.mx x o r cb else 127
  let codes := (List.range x.cols).map fun c =>
    readCode core.mx x f (rdMode o.mode) key m.gb (scales.getD (c / 32) 127) r c
  if isMx o.fmt then
    Op.forEach (fun cb => Op.matPut ag (moveRef m.ga (o.sdS + ((r * o.ssS + cb : Nat) : Int))) 1 (scales.getD cb 0) 5) blocks
  Op.matPut ag (m.ga + Word.ofN (r * o.drow)) (x.cols * f.w / 8) (packElems f.w codes) 4
  modify fun s => s.mapCore ag.core fun core => core.mapMx fun e => e.noteSat x r 0 x.cols

/-- Row `k` of an MSTA: 32 images (R237). -/
def Op.storeImages (ag : Agent) (m : MCmd) (k : Nat) : Op Unit := do
  let s ← get
  let core ← Op.get! (s.findCore ag.core)
  let x := m.extent (core.mx.mxc0.bits 1 0)
  let t := core.mx.tile (x.base + k / 32)
  let images := (List.range 32).map fun j => (t.get (32 * (k % 32) + j)).image
  Op.matPut ag (m.ga + Word.ofN (512 * k)) 512 (packElems 128 images) 4

/-- The images of row `k` of an MLDA, if all are valid. -/
def Op.loadImages (ag : Agent) (m : MCmd) (k : Nat) : Op (Option (List Elem)) := do
  let v ← Op.matGet ag (m.ga + Word.ofN (512 * k)) 512 0
  pure (Elem.ofImages (elems 128 32 v))

/-- Every image of an MLDA checked before any element is written: the rows, or none when one is invalid (R238). -/
def Op.checkImages (ag : Agent) (m : MCmd) (rows : Nat) : Op Bool := do
  let ok ← Op.collect (fun k => do return (← Op.loadImages ag m k).isSome) (List.range rows)
  pure (ok.all id)

/-- Row `k` of an MLDA: replaced, or combined under ADD (R65, R238). -/
def Op.loadRow (ag : Agent) (m : MCmd) (add : Bool) (k : Nat) : Op Unit := do
  let es ← Op.loadImages ag m k
  let s ← get
  let core ← Op.get! (s.findCore ag.core)
  let x := m.extent (core.mx.mxc0.bits 1 0)
  let new := es.getD []
  let put (t : Tile) : Tile := t.update fun i e =>
    if i / 32 = k % 32 then
      let n := new.getD (i % 32) Elem.zero
      if add then e.combine n else n
    else e
  modify fun s => s.mapCore ag.core fun core => core.mapMx fun e =>
    e.setTile (x.base + k / 32) (put (e.tile (x.base + k / 32)))

/-- The start of an MLDA without ADD, or of a MINIT: anchors, SAT, and a new computation (R234, R238). -/
def LCore.startTiles (c : LCore) (x : Extent) (anchor : Word) (clear : Bool) : LCore :=
  let put (_ : Nat) (t : Tile) : Tile :=
    { t with anchor := anchor.setWidth 10, sat := false, elems := if clear then [] else t.elems }
  (c.mapMx fun e => e.updateExtent x put).startComputation x.base

/-- The steps of a command that makes progress: block steps or rows (R224). -/
def MCmd.steps (m : MCmd) (e : MatrixEngine) : Nat :=
  let x := m.extent (e.mxc0.bits 1 0)
  match m.instr with
  | .mma _ _ _ _ | .mmar _ _ _ _ | .mmaz _ _ _ _ => e.mxc0.bits 23 16
  | .mrd _ _ _ _ => x.rows
  | .msta _ _ _ | .mlda _ _ _ _ | .mldaAdd _ _ _ _ => 32 * x.tiles
  | _ => 0

/-- Step `k` of a command. -/
def Op.matStep (ag : Agent) (m : MCmd) (slot : Word) (k : Nat) : Op Unit :=
  match m.instr with
  | .mma _ _ _ _ | .mmaz _ _ _ _ => Op.blockStep ag m m.gb k
  | .mmar _ _ _ _ => Op.blockStep ag m slot k
  | .mrd _ _ _ _ => Op.readRow ag m k
  | .msta _ _ _ => Op.storeImages ag m k
  | .mlda _ _ _ _ => Op.loadRow ag m false k
  | .mldaAdd _ _ _ _ => Op.loadRow ag m true k
  | _ => pure ()

/-- Steps from `k` on, `n` of them: the step reached and the error that stopped it. -/
def Op.matSteps (ag : Agent) (m : MCmd) (slot : Word) : Nat → Nat → Op (Nat × Option Trap)
  | 0, k => pure (k, none)
  | n + 1, k => do
    match (← Op.attempt (Op.matStep ag m slot k)) with
    | .error t => pure (k, some t)
    | .ok _ => Op.matSteps ag m slot n (k + 1)

/-- What comes before the first step when a command begins or goes on after a restore: the check of images, and the start
of an MLDA (R238, R248). `ok false` refuses the command. -/
def Op.matBegin (ag : Agent) (m : MCmd) (progress steps : Nat) : Op (Except Trap Bool) := do
  match m.instr with
  | .mlda _ _ _ _ | .mldaAdd _ _ _ _ => do
    let r ← Op.attempt (Op.checkImages ag m steps)
    let fresh : Bool := progress = 0 && (match m.instr with | .mlda _ _ _ _ => true | _ => false)
    match r with
    | .ok true =>
      if fresh then
        modify fun s => s.mapCore ag.core fun c => c.startTiles (m.extent (c.mx.mxc0.bits 1 0)) m.gb false
      else
        modify fun s => s.mapCore ag.core fun c => c.mapMx fun e => e.dropShadow (m.extent (e.mxc0.bits 1 0))
      pure (.ok true)
    | r => pure r
  | _ => pure (.ok true)

/-- MSTAT's word (R239); `qn` is the number queued behind it when it was taken. -/
def MatrixEngine.status (e : MatrixEngine) (tile qn : Nat) : Word :=
  let t := e.tile tile
  let nf := t.elems.any fun x => x.2.cls ≠ .finite
  Word.ofN (e.lcause.toNat * 2 ^ 40 + e.lstat.toNat * 2 ^ 32 + qn % 4 * 2 ^ 21 + nf.toNat * 2 ^ 17 + t.sat.toNat * 2 ^ 16 +
    t.anchor.toNat)

/-- The effect of a command without steps, and its token word (R227, R234, R236, R239, R245). -/
def LCore.matOnce (c : LCore) (m : MCmd) (qn : Nat) : LCore × Word :=
  let x := m.extent (c.mx.mxc0.bits 1 0)
  let done := matrixToken 0 0 0 0
  match m.instr with
  | .mcfg _ _ _ => (c.mapMx fun e => { e with mxc0 := m.ga, mxc1 := m.gb }, done)
  | .mcfgRd _ _ _ => (c.mapMx fun e => { e with mxo0 := m.ga, mxo1 := m.gb }, done)
  | .minit _ _ _ => (c.startTiles x m.ga true, done)
  | .mrdv _ v _ _ =>
    let o := rdConfig c.mx.mxo0 c.mx.mxo1
    let f := rdFmt o.fmt
    let r := m.ga.bits 6 0
    let c0 := m.ga.bits 14 8
    let n := mrdvLanes o.fmt
    let codes := (List.range n).map fun l => readCode c.mx x f (rdMode o.mode) (c.keyFor m) m.ga1 127 r (c0 + l)
    let val : VWord := BitVec.ofNat 256 (packElems f.w codes)
    ((c.mapMx fun e => e.noteSat x r c0 n).mapCtx m.ctx fun k => k.setV v.toNat val, done)
  | .mstat _ _ _ =>
    let sel := m.ga.toNat
    if sel = 0 then
      (c.mapMx fun e => { e with lcause := 0, lstat := 0 }, c.mx.status m.tile qn)
    else (c, if 4 < sel then BitVec.allOnes 64
      else if sel = 1 then c.mx.mxc0 else if sel = 2 then c.mx.mxc1 else if sel = 3 then c.mx.mxo0 else c.mx.mxo1)
  | .mshad _ _ _ => (c.mapMx fun e => e.setTile m.tile { e.tile m.tile with mark := m.ga.setWidth 2 }, done)
  | _ => (c, done)

/-- The slot base that an MMAR reads from (R232). -/
def LCore.mmarSlot (c : LCore) (m : MCmd) : Word :=
  let r := c.ring (m.gb.toNat % 8)
  Word.ofN (r.slotAt r.consumer)

/-- K-steps per cycle of a format (R233). -/
def kRate (fmt : Nat) : Nat := if fmt = 8 || fmt = 11 then 4 else if fmt = 6 || fmt = 7 then 2 else 1

/-- The energy of `k` block steps of a product: the cycles in which its sub-arrays perform K-steps (R233, R448). -/
def State.burnSteps (s : State) (id : CoreId) (m : MCmd) (k : Nat) : State :=
  match s.findCore id with
  | none => s
  | some c =>
    if m.product = none then s
    else
      let x := mxConfig c.mx.mxc0 c.mx.mxc1
      let rate := min (kRate x.fmtA) (kRate x.fmtB)
      let entry := if isMx x.fmtA then (if rate = 4 then 2 else rate - 1) else 3
      s.mapCtx id m.ctx fun t => t.burn (s.die (dieOf c.slot)).energy entry (k * (32 / rate) * (m.extent x.mode).tiles)

/-- Up to `n` steps of the running command; then the command ends if none is left, or if it met an error (R224, R243). -/
def Op.matrixRun (id : CoreId) (n : Nat) : Op Unit := do
  let s ← get
  let c ← Op.get! (s.findCore id)
  let r ← Op.get! c.mx.running
  Op.need (c.resident && !r.waiting)
  let m := r.cmd
  let ag := s.engineAgent c m.ctx m.sevpol 2
  let steps := m.steps c.mx
  if steps = 0 then
    let (c', token) := c.matOnce m r.progress
    modify fun s => (s.mapCore id fun _ => c').matrixEnd id m token
  else
    match (← Op.matBegin ag m r.progress steps) with
    | .error t => modify fun s => s.matrixStop id m r.progress 0 t.cause.toNat t.eaddr
    | .ok false => modify fun s => s.matrixRefuse id m cILL 0
    | .ok true =>
      let (k, bad) ← Op.matSteps ag m (c.mmarSlot m) (min n (steps - r.progress)) r.progress
      modify fun s => s.burnSteps id m (k - r.progress)
      match bad with
      | some t => modify fun s => s.matrixStop id m k (t.einfo.bits 23 16) t.cause.toNat t.eaddr
      | none =>
        if k < steps then
          modify fun s => s.mapCore id fun c => c.mapMx fun e => { e with running := some { r with progress := k } }
        else
          let check : Bool := match m.instr with
            | .mrd _ _ _ _ => true
            | _ => false
          if check then modify fun s => s.shadowCheck id m
          if m.product = some 1 then
            let h := m.gb.toNat % 8
            modify fun s => s.mapCore id fun c =>
              let ring := c.ring h
              if ring.broken then c else c.setRing h ((ring.consume 1).getD ring)
          modify fun s => s.matrixEnd id m (matrixToken steps 0 0 0)

/-! ### Events -/

/-- Whether the running matrix command has a pre-emption point: it is none of those that end before the save (R248). -/
def LCore.matrixStops (c : LCore) : Bool :=
  match c.mx.running with
  | none => true
  | some r => match r.cmd.instr with
    | .mcfg _ _ _ | .mcfgRd _ _ _ | .minit _ _ _ | .mrdv _ _ _ _ | .mstat _ _ _ | .mshad _ _ _ => false
    | _ => true

/-- Whether the save of a logical core has been requested: its quantum has expired, or its task is being pre-empted. From then
on its matrix engine takes no command and begins no step (R248). -/
def State.saveDue (s : State) (c : LCore) : Bool :=
  c.switchDue || match s.findTask c.id.task with
    | some t => t.phase = .preempted
    | none => false

/-- MATRIX_COMMAND_TAKE (R224, R225, R243); in limited service a command waits at its take (R461). -/
def execMatrixCommandTake (core : CoreId) (s : State) : Host.Outcome State Fault Refusal :=
  runEvent (do
    let s ← get
    let c ← Op.get! (s.findCore core)
    Op.need (c.resident && c.mx.running.isNone && s.pkg.start ≠ .limited && !s.saveDue c)
    match c.mx.queue with
    | [] => Op.stall
    | m :: rest =>
      Op.need (!(m.operands c.mx).any fun o => s.windowWaits c o.base)
      let s := (s.mapCore core fun c => c.mapMx fun e => { e with queue := rest }).countDelayed
      if c.mx.skipFor.isSome then set (s.matrixEnd core m (matrixToken 0 0 0 0x13))
      else match s.matrixRefusal c m with
        | some (cause, operand) => set (s.matrixRefuse core m cause operand)
        | none =>
          let run : MRun := match m.instr with
            | .mstat _ _ _ => ⟨m, rest.length, false⟩
            | _ => ⟨m, 0, m.product = some 1⟩
          set (s.mapCore core fun c => c.mapMx fun e => { e with running := some run })) s

/-- MATRIX_COMMAND_END (R224). -/
def execMatrixCommandEnd (core : CoreId) (s : State) : Host.Outcome State Fault Refusal :=
  runEvent (do
    let s ← get
    let c ← Op.get! (s.findCore core)
    Op.need (!(s.saveDue c && c.matrixStops))
    Op.matrixRun core 256) s

/-- MMAR_SLOT_READY (R232): a filled slot lets the command begin; a broken ring ends it with status 0x12. -/
def execMmarSlotReady (core : CoreId) (s : State) : Host.Outcome State Fault Refusal :=
  runEvent (do
    let s ← get
    let c ← Op.get! (s.findCore core)
    let r ← Op.get! c.mx.running
    Op.need (c.resident && r.waiting && !s.saveDue c)
    let ring := c.ring (r.cmd.gb.toNat % 8)
    if ring.broken then set (s.matrixEnd core r.cmd (matrixToken 0 0 0 0x12))
    else
      Op.need (1 ≤ ring.filled)
      set (s.mapCore core fun c => c.mapMx fun e => { e with running := some { r with waiting := false } })) s

end Sys2Proof.Machine
end

