-- ==== Sys2Proof/Machine/Image.lean ====
section
/-! DEFINITION. Context images (R405 to R408): the bytes of a logical core's image, the parts that a save writes, and a
core's state read back from an image (R430). An image is addressed by offsets from its area's base. -/

namespace Sys2Proof.Machine

/-- A write into an image: an offset and bytes. -/
abbrev Patch := Nat × List Byte

def patchW (off : Nat) (w : Word) : Patch := (off, bytesOf 8 w.toNat)

def Memory.patch (m : Memory) (base : Nat) (ps : List Patch) : Memory :=
  ps.foldl (fun m p => m.write (base + p.1) p.2) m

/-! ### Context records (R407) -/

/-- The offset of a context's record. -/
def recordAt (n : Nat) : Nat := 0x800 + 0x800 * n

/-- The system registers of a record, in its order. -/
def SysRegs.toList (r : SysRegs) : List Word :=
  [r.rkey, r.tensor, r.ovlh, r.events, r.evmask, r.trapv, r.epc, r.ecause, r.eaddr, r.einfo, r.svclvl, r.sevpol, r.injen,
   r.deferred]

/-- The registers that a record's words give: of each the bits that R187 and R188 do not reserve. -/
def SysRegs.ofList (l : List Word) : SysRegs :=
  let x (i : Nat) : Word := l.getD i 0
  { rkey := x 0, tensor := x 1, ovlh := x 2 &&& 0xFFFFC, events := x 3 &&& 7, evmask := x 4 &&& 7, trapv := x 5 &&& 0xFFFFC,
    epc := x 6 &&& 0xFFFFC, ecause := x 7 &&& 0xFF, eaddr := x 8, einfo := x 9, svclvl := x 10 &&& 7,
    sevpol := x 11 &&& 0x00FFFF06, injen := x 12 &&& 1, deferred := x 13 &&& 0xFFFFFFFF }

/-- Word 0x620: live, AR, BY, level, revision and PC. -/
def Ctx.stateWord (c : Ctx) : Word :=
  Word.ofN (c.live.toNat * 2 ^ 63 + c.ar.toNat * 2 ^ 62 + c.byp.toNat * 2 ^ 61 + c.level.toNat * 2 ^ 58 +
    c.revn.toNat * 2 ^ 48 + c.groupStart.toNat % 2 ^ 20)

/-- Words 0x620 to 0x69F, written at every save. -/
def Ctx.fixedPatches (c : Ctx) : List Patch :=
  let b := recordAt c.num
  patchW (b + 0x620) c.stateWord :: patchW (b + 0x628) c.pendG ::
    (c.sys.toList.zipIdx.map fun e => patchW (b + 0x630 + 8 * e.2) e.1)

/-- The words of a record that hold the RW system registers whose dirty bit is set (R405): EVENTS and DEFER are not RW (R187). -/
def Ctx.sysPatches (c : Ctx) : List Patch :=
  let kept := (c.dirty.sys.map SysRegs.toList).getD []
  (c.sys.toList.zipIdx.filter fun e => e.2 ≠ 3 && e.2 ≠ 13 && kept[e.2]? ≠ some e.1).map fun e =>
    patchW (recordAt c.num + 0x630 + 8 * e.2) e.1

/-- The registers whose dirty bit is set, or all of them; and the context's spill area, where a routine runs or all is written. -/
def Ctx.regPatches (c : Ctx) (all : Bool) (spill : List Byte) : List Patch :=
  let b := recordAt c.num
  let gs := (List.range 64).filter fun i => all || c.dirty.g.getLsbD i
  let vs := (List.range 32).filter fun i => all || c.dirty.v.getLsbD i
  let ks := (List.range 8).filter fun i => all || c.dirty.k.getLsbD i
  (gs.map fun i => patchW (b + 8 * i) (c.gval i)) ++
  (vs.map fun i => (b + 0x200 + 32 * i, bytesOf 32 (c.vval i).toNat)) ++
  (ks.map fun i => (b + 0x600 + 4 * i, bytesOf 4 (c.kval i).toNat)) ++
  (if all || c.ar then [(b + 0x700, spill)] else [])

/-- A context's registers read back from its record; everything of the word in progress is gone. -/
def Ctx.fromRecord (c : Ctx) (m : Memory) : Ctx :=
  let b := recordAt c.num
  let w := m.word (b + 0x620)
  { c with
    live := w.getLsbD 63
    ar := w.getLsbD 62
    byp := w.getLsbD 61
    level := BitVec.ofNat 3 (w.bits 60 58)
    revn := BitVec.ofNat 8 (w.bits 55 48)
    pc := BitVec.ofNat 21 (w.bits 19 2 * 4)
    pfx := none
    ovlActive := false
    g := Vector.ofFn fun i => if i.val = 0 then 0 else m.word (b + 8 * i.val)
    v := Vector.ofFn fun i => BitVec.ofNat 256 (m.value (b + 0x200 + 32 * i.val) 32)
    k := Vector.ofFn fun i => BitVec.ofNat 32 (m.value (b + 0x600 + 4 * i.val) 4)
    pendG := m.word (b + 0x628)
    pendV := 0
    sys := SysRegs.ofList ((List.range 14).map fun i => m.word (b + 0x630 + 8 * i))
    evInfo := ⟨(0, 0), (0, 0), (0, 0)⟩
    wait := none
    hostGot := []
    farGot := none
    refused := none
    remoteBad := none
    progress := none
    ringRec := none
    arriving := []
    stopReq := false
    reports := []
    twinSeq := 0
    twinMsg := none
    sfuOut := 0 }

/-! ### Core, matrix and collective records (R406) -/

/-- The mail ring's two words (R390). -/
def MailRing.word0 (r : MailRing) : Word :=
  Word.ofN (r.broken.toNat * 2 ^ 28 + r.size.toNat * 2 ^ 20 + r.base.toNat)

def MailRing.word1 (r : MailRing) : Word := Word.ofN (r.consumer.toNat * 2 ^ 32 + r.producer.toNat)

/-- A mail ring read back. Its words have no mark that it is configured: two words of zero are taken for a ring that is not (log entry
87). -/
def MailRing.ofImage (w0 w1 : Word) : MailRing :=
  ⟨w0 ≠ 0 || w1 ≠ 0, w0.getLsbD 28, BitVec.ofNat 3 (w0.bits 22 20), BitVec.ofNat 20 (w0.bits 19 0),
    BitVec.ofNat 32 (w1.bits 63 32), BitVec.ofNat 32 (w1.bits 31 0)⟩

/-- A ring handle read back. -/
def Ring.ofImage (w0 w1 : Word) : Ring :=
  ⟨w0.getLsbD 28, BitVec.ofNat 4 (w0.bits 27 24), BitVec.ofNat 4 (w0.bits 23 20), BitVec.ofNat 20 (w0.bits 19 0),
    BitVec.ofNat 32 (w1.bits 63 32), BitVec.ofNat 32 (w1.bits 31 0)⟩

/-- The collective queue's entry `i` (R406). -/
def CollCmd.patches (c : CollCmd) (i : Nat) : List Patch :=
  let b := 0x6000 + 0xA0 + 32 * i
  let second : Word := match c.instr with
    | .sendm _ _ _ _ => c.gb
    | _ => 0
  [patchW b (Word.ofN (c.ctx * 2 ^ 32 + (encode c.instr).getD 0)), patchW (b + 8) c.ga, patchW (b + 16) second,
   patchW (b + 24) 0]

/-- Bytes 0x000 to 0x0FF of the core record. -/
def LCore.corePatches (c : LCore) : List Patch :=
  let b := 0x6000
  [(b, List.replicate 256 0), patchW b (Word.ofN c.xbound.toNat), patchW (b + 8) c.archmap] ++
  (c.rings.toList.zipIdx.flatMap fun e => [patchW (b + 0x10 + 16 * e.2) e.1.word0, patchW (b + 0x18 + 16 * e.2) e.1.word1]) ++
  [patchW (b + 0x90) c.mail.word0, patchW (b + 0x98) c.mail.word1] ++
  (c.coll.zipIdx.flatMap fun e => e.1.patches e.2) ++
  [patchW (b + 0xE0) (match c.snapChan with | some n => Word.ofN (8 + n.toNat) | none => 0)]

/-- A matrix command's entry (R406). -/
def MCmd.patches (m : MCmd) (i progress : Nat) : List Patch :=
  let b := 0x8000 + 0x100 + 64 * i
  [patchW b (Word.ofN ((encode m.instr).getD 0)), patchW (b + 8) (Word.ofN m.ctx), patchW (b + 16) m.ga,
   patchW (b + 24) m.gb, patchW (b + 32) m.ga1, patchW (b + 40) m.tensor, patchW (b + 48) m.sevpol,
   patchW (b + 56) (Word.ofN progress)]

/-- Bytes 0x000 to 0x1FF of the matrix record; a running command comes first. -/
def MatrixEngine.patches (e : MatrixEngine) : List Patch :=
  let b := 0x8000
  let cmds := (match e.running with | some r => [(r.cmd, r.progress)] | none => []) ++ e.queue.map fun m => (m, 0)
  let bit (i : Nat) : Nat := (e.tile i).sat.toNat * 2 ^ i
  let mark (i : Nat) : Nat := (e.tile i).mark.toNat * 4 ^ i
  [(b, List.replicate 512 0), patchW b e.mxc0, patchW (b + 8) e.mxc1, patchW (b + 16) e.mxo0, patchW (b + 24) e.mxo1] ++
  ((List.range 8).map fun i => patchW (b + 0x20 + 8 * i) ((e.tile i).anchor.signExtend 64)) ++
  [patchW (b + 0x60) (Word.ofN (((List.range 8).map bit).foldl (fun x y => x + y) 0)),
   patchW (b + 0x68) (Word.ofN (e.lcause.toNat * 2 ^ 40 + e.lstat.toNat * 2 ^ 32)),
   patchW (b + 0x70) (Word.ofN (((List.range 8).map mark).foldl (fun x y => x + y) 0))] ++
  (cmds.zipIdx.flatMap fun c => c.1.1.patches c.2 c.1.2)

/-- The tiles whose dirty bit is set, or all of them, each whole. -/
def MatrixEngine.tilePatches (e : MatrixEngine) (all : Bool) : List Patch :=
  ((List.range 8).filter fun i => all || e.tileDirty.getLsbD i).flatMap fun t =>
    (List.range 1024).map fun i => (0x10000 + 0x4000 * t + 16 * i, bytesOf 16 ((e.tile t).get i).image)

/-- A tile read back: its images, with its anchor, SAT and mark from the matrix record. -/
def Tile.ofImage (m : Memory) (t : Nat) : Tile where
  anchor := BitVec.ofNat 10 (m.word (0x8000 + 0x20 + 8 * t)).toNat
  sat := (m.word 0x8060).getLsbD t
  mark := BitVec.ofNat 2 ((m.word 0x8070).bits (2 * t + 1) (2 * t))
  elems := (List.range 1024).filterMap fun i =>
    match Elem.ofImage (m.value (0x10000 + 0x4000 * t + 16 * i) 16) with
    | some e => if e = Elem.zero then none else some (i, e)
    | none => none

/-- The matrix engine read back, with no command (R430: engine commands are abandoned). -/
def MatrixEngine.ofImage (m : Memory) (old : MatrixEngine) : MatrixEngine :=
  { old with
    mxc0 := m.word 0x8000
    mxc1 := m.word 0x8008
    mxo0 := m.word 0x8010
    mxo1 := m.word 0x8018
    lcause := BitVec.ofNat 8 ((m.word 0x8068).bits 47 40)
    lstat := BitVec.ofNat 8 ((m.word 0x8068).bits 39 32)
    tiles := Vector.ofFn fun t => Tile.ofImage m t.val
    queue := []
    running := none
    skipFor := none
    shadow := none
    tileDirty := BitVec.allOnes 8 }

/-- The state of a collective slot, its table and its descriptor (R406). -/
def CollSlot.patches (c : CollSlot) (i : Nat) : List Patch :=
  let b := 0x4C000 + 0x3000 * i
  let latest : BitVec 32 := if c.taken then c.count else 0
  [patchW b (Word.ofN (latest.toNat * 2 ^ 32 + c.count.toNat)), patchW (b + 8) c.ready, patchW (b + 16) c.done,
   patchW (b + 24) (Word.ofN (c.isOpen.toNat * 4 + c.table.isSome.toNat * 2 + c.group.isSome.toNat))] ++
  (match c.table with | some t => [(b + 0x20, t)] | none => []) ++
  (match c.group with | some g => [(b + 0x900, g)] | none => [])

/-- A slot read back: no call is open in a snapshot (R430 abandons them). -/
def CollSlot.ofImage (m : Memory) (i : Nat) : CollSlot :=
  let b := 0x4C000 + 0x3000 * i
  let f := m.word (b + 24)
  let n := (m.word b).bits 31 0
  { CollSlot.zero with
    count := BitVec.ofNat 32 n
    issued := (m.word b).bits 63 32 ≠ 0 || n ≠ 0
    taken := (m.word b).bits 63 32 ≠ 0 || n ≠ 0
    ended := true
    ready := m.word (b + 8)
    done := m.word (b + 16)
    table := if f.getLsbD 1 then some (m.read (b + 0x20) 2080) else none
    group := if f.getLsbD 0 then some (m.read (b + 0x900) 8200) else none }

/-- A copy's entry (R406): a copy in flight as its residual record, one queued as it was issued, its record reference in the
record's first word. -/
def CopyCmd.patches (c : CopyCmd) (i : Nat) (rec : List Word) (done status : Nat) : List Patch :=
  let b := 0x30000 + 96 * i
  let cmdWord : Word := if c.isCpy then c.gb else Word.ofN c.scope
  (rec.zipIdx.map fun e => patchW (b + 8 * e.2) e.1) ++
  [patchW (b + 64) cmdWord, patchW (b + 72) (Word.ofN (done % 2 ^ 32 * 2 ^ 32 + c.ctx * 2 ^ 16 + c.tok.toNat * 2 ^ 8 + status)),
   patchW (b + 80) c.sevpol, patchW (b + 88) 0]

def CopyEngine.patches (c : CopyEngine) : List Patch :=
  (c.flight.zipIdx.flatMap fun e => e.1.cmd.patches e.2 e.1.shape.words e.1.base 1) ++
  (c.queue.zipIdx.flatMap fun e =>
    let rec0 : List Word := if e.1.isCpy then [e.1.ga, 0, 0, 0, 0, 0, 0, 0] else e.1.linearShape.words
    e.1.patches (c.flight.length + e.2) rec0 0 0)

/-! ### Whole images -/

/-- The header but for the save count (R406). -/
def LCore.headerPatches (c : LCore) (saves : Word) : List Patch :=
  [(0, List.replicate 256 0),
   patchW 0 (Word.ofN (2 ^ 48 + (if c.id.copy = 1 then 2 ^ 47 else 0) + c.regs.lcore)), patchW 8 (tcbRef c.id.task),
   patchW 0x10 saves, patchW 0x18 (Word.ofN ((c.copies.flight.length + c.copies.queue.length) * 2 ^ 48)),
   patchW 0x20 (Word.ofN (c.slot * 2 ^ 48))]

/-- The spill area of a context of a logical core, in the Archaism store of its task core (R413). -/
def LCore.spillOf (c : LCore) (spills : Memory) (n : Nat) : List Byte := spills.read (spillAt c.slot n) 256

/-- A snapshot capture (R428): header, context 0's record, core, matrix, tiles, slots, and every local-memory block. -/
def LCore.capture (c : LCore) (spills : Memory) : Memory :=
  let c0 := (c.findCtx 0).getD c.ctx
  let ps := c.headerPatches 1 ++ [(0x100, List.replicate 1024 0xFF)] ++ c0.fixedPatches ++
    c0.regPatches true (c.spillOf spills 0) ++
    c.corePatches ++ c.mx.patches ++ c.mx.tilePatches true ++ (c.slots.toList.zipIdx.flatMap fun e => e.1.patches e.2)
  (Memory.patch [] 0 ps) ++ c.lm.map fun e => (e.1 + 0x60000, e.2)

/-- Whether every reserved field of a snapshot is zero (R7): of its header (R406), context 0's record (R407), the core record with its
rings (R116, R47, R390), the matrix record (R227, R239), the slots. Commands and copies are not looked at: a rollback abandons them. -/
def imageValid (m : Memory) : Bool :=
  let clear (a : Nat) (mask : Word) : Bool := m.word a &&& mask = 0
  let empty (a n : Nat) : Bool := m.slice a n = []
  let sys := (List.range 14).map fun i => m.word (0x800 + 0x630 + 8 * i)
  clear 0 0x00007FFF00000000 && clear 0x18 0x0000FFFFFFFFFFFF && clear 0x20 0x0000FFFFFFFFFFFF && empty 0x28 0xD8 &&
  clear 0xE20 0x0300FFFFFFF00003 && (SysRegs.ofList sys).toList = sys && empty 0xEA0 0x60 &&
  clear 0x6000 0xFFFFFFFFFFE00FFF &&
  ((List.range 8).all fun i => clear (0x6010 + 16 * i) 0xFFFFFFFFE0000000) && clear 0x6090 0xFFFFFFFFEF800000 &&
  clear 0x60E0 0xFFFFFFFFFFFFFFF4 &&
  clear 0x8000 0x3C && clear 0x8010 0xFFFFFFFF0000F0CF && clear 0x8018 0x0FFFFE00 && clear 0x8060 0xFFFFFFFFFFFFFF00 &&
  clear 0x8068 0xFFFF0000FFFFFFFF && clear 0x8070 0xFFFFFFFFFFFF0000 &&
  ((List.range 4).all fun i => clear (0x4C018 + 0x3000 * i) 0xFFFFFFFFFFFFFFF8) && empty 0x58000 0x8000

/-- The state of a logical core restored from a snapshot (R408, R430 step 3): local memory taken wholly from it. Only context 0 is
live, and `helpers` are the others, as placement leaves them. The image area holds nothing of this, so every dirty bit is set (log
entry 94). -/
def LCore.fromSnapshot (c : LCore) (m : Memory) (helpers : List Ctx) : LCore :=
  let back (x : Ctx) : Ctx :=
    if x.num = 0 then { x.fromRecord m with dirty := (Ctx.zero 0).dirty }
    else { (helpers.find? fun h => h.num = x.num).getD (Ctx.zero x.num) with unit := x.unit, revn := x.revn }
  let snap := m.word 0x60E0
  let c := c.mapCtxs back
  { c with
    xbound := BitVec.ofNat 21 (m.word 0x6000).toNat
    xbTake := BitVec.ofNat 21 (m.word 0x6000).toNat
    copySeq := 0
    sendSeq := 0
    raise := none
    archmap := m.word 0x6008
    rings := Vector.ofFn fun i => Ring.ofImage (m.word (0x6010 + 16 * i.val)) (m.word (0x6018 + 16 * i.val))
    mail := MailRing.ofImage (m.word 0x6090) (m.word 0x6098)
    snapChan := if snap.getLsbD 3 then some (BitVec.ofNat 2 (snap.bits 1 0)) else none
    mx := MatrixEngine.ofImage m c.mx
    copies := ⟨[], []⟩
    coll := []
    slots := Vector.ofFn fun i =>
      let x := CollSlot.ofImage m i.val
      { x with cut := c.slots[i].cut && x.group = c.slots[i].group }
    lm := (m.slice 0x60000 0x100000).map fun e => (e.1 - 0x60000, e.2)
    lmFlips := []
    blockDirty := List.range 8192
    last := 10
    fuseAt := none }

/-- The parts of an image area that a save writes (R405). `map` gives the block map before it. -/
def LCore.savePatches (c : LCore) (saves : Word) (spills : Memory) (map : Nat → Word) : List Patch :=
  let words := (c.blockDirty.map fun b => b / 64).dedup
  c.headerPatches saves ++
  (c.ctxs.flatMap fun x => if x.live then x.fixedPatches else x.sysPatches) ++
  (c.ctxs.flatMap fun x => x.regPatches false (c.spillOf spills x.num)) ++
  c.corePatches ++ c.mx.patches ++ c.mx.tilePatches false ++ c.copies.patches ++
  (c.slots.toList.zipIdx.flatMap fun e => e.1.patches e.2) ++
  (words.map fun w => patchW (0x100 + 8 * w)
    ((c.blockDirty.filter fun b => b / 64 = w).foldl (fun (x : Word) b => x ||| (1#64 <<< (b % 64))) (map w))) ++
  (c.blockDirty.map fun b => (0x60000 + 128 * b, c.lm.read (128 * b) 128))

/-- Dirty bits cleared, at a save and at a restore (R404 step 7, R408 step 5). -/
def LCore.clean (c : LCore) : LCore :=
  let c := c.mapCtxs fun x => { x with dirty := ⟨0, 0, 0, some x.sys⟩ }
  { c with blockDirty := [], mx := { c.mx with tileDirty := 0 } }

/-- Whether a logical core has an image area, or one is left to be allocated (R105). -/
def State.areaFree (s : State) (id : CoreId) : Bool :=
  ((s.findCore id).any fun c => c.imageArea.isSome) || s.disp.imageAreas.length < s.disp.areaRoom

/-- An image area allocated for a logical core, unless it has one (R105). -/
def State.allocImage (s : State) (id : CoreId) : State :=
  match s.findCore id with
  | none => s
  | some c => match c.imageArea with
    | some _ => s
    | none =>
      let k := ((List.range (s.disp.imageAreas.length + 1)).find? fun k => !s.disp.imageAreas.contains k).getD 0
      let s := { s with disp := { s.disp with imageAreas := k :: s.disp.imageAreas } }
      let s := { s with unc := { s.unc with priv := s.unc.priv.zero (imageBase k) Config.imageBytes } }
      s.mapCore id fun c => { c with imageArea := some k }

/-- An image area released. -/
def State.freeImage (s : State) (id : CoreId) : State :=
  match s.findCore id with
  | none => s
  | some c => match c.imageArea with
    | some k => { (s.mapCore id fun c => { c with imageArea := none }) with
        disp := { s.disp with imageAreas := s.disp.imageAreas.filter fun x => x ≠ k } }
    | none => s

/-- A save's writes into the core's image area (R404 steps 5 and 7). -/
def State.writeImage (s : State) (id : CoreId) : State :=
  let s := s.allocImage id
  match s.findCore id with
  | none => s
  | some c =>
    let base := imageBase (c.imageArea.getD 0)
    let p := s.unc.priv
    let ps := c.savePatches (p.word (base + 0x10) + 1) s.unc.spills fun w => p.word (base + 0x100 + 8 * w)
    let s := { s with unc := { s.unc with priv := p.patch base ps } }
    s.mapCore id LCore.clean

end Sys2Proof.Machine
end

