-- ==== Sys2Proof/Machine/Vector.lean ====
section
/-! DEFINITION. Vector arithmetic, conversions, permutes, reductions, compares, masks, bit operations and draws
(R195 to R217, R220). -/

namespace Sys2Proof.Machine

/-- A vector word: the word's effect, then one vector instruction counted (R447). -/
def performVec (i : Instr) (body : Op Unit) (s : State) : Host.Outcome State Fault Refusal :=
  performNext i (do
    body
    Op.countVector 4) s

/-- A destination whose active elements are `f i` and whose inactive elements keep their old values (R196). -/
def maskedElems (w : Nat) (k : BitVec 32) (old : VWord) (f : Nat → Nat) : VWord :=
  BitVec.ofNat 256 (packElems w ((List.range (256 / w)).map fun i =>
    if k.getLsbD i then f i else elemAt w old.toNat i))

/-- v[d][i] := f(v[a], v[b], i) for each active element (R196). -/
def Op.vec2 (w : Nat) (d a b : BitVec 5) (k : BitVec 3) (f : Nat → Nat → Nat) : Op Unit := do
  let x ← Op.readV a
  let y ← Op.readV b
  let old ← Op.readV d
  let m ← Op.readK k
  Op.writeV d (maskedElems w m old fun i => f (elemAt w x.toNat i) (elemAt w y.toNat i))

/-- v[d][i] := f(v[a][i]) for each active element. -/
def Op.vec1 (w : Nat) (d a : BitVec 5) (k : BitVec 3) (f : Nat → Nat) : Op Unit := do
  let x ← Op.readV a
  let old ← Op.readV d
  let m ← Op.readK k
  Op.writeV d (maskedElems w m old fun i => f (elemAt w x.toNat i))

/-- An integer operation on elements of a type: operands read by the type's signedness, the result mod 2^w (R203). -/
def Op.vint (ty : IntTy) (d a b : BitVec 5) (k : BitVec 3) (f : Int → Int → Int) : Op Unit :=
  Op.vec2 ty.bits d a b k fun x y =>
    elemOfInt ty.bits (f (elemInt ty.signed ty.bits x) (elemInt ty.signed ty.bits y))

/-- An integer operation on unsigned elements of width w, the result mod 2^w. -/
def Op.vbits (ty : IntTy) (d a b : BitVec 5) (k : BitVec 3) (f : Nat → Nat → Nat) : Op Unit :=
  Op.vec2 ty.bits d a b k fun x y => f x y % 2 ^ ty.bits

/-- The clamp to a type's range (R203). -/
def clampTo (ty : IntTy) (v : Int) : Int := clampI (elemMin ty.signed ty.bits) (elemMax ty.signed ty.bits) v

/-! ### VINT (R203) -/

/-- VADD (R203). -/
def execVadd (d a b : BitVec 5) (k : BitVec 3) (ty : IntTy) (s : State) : Host.Outcome State Fault Refusal :=
  performVec (.vadd d a b k ty) (Op.vbits ty d a b k (fun x y => x + y)) s

/-- VSUB (R203). -/
def execVsub (d a b : BitVec 5) (k : BitVec 3) (ty : IntTy) (s : State) : Host.Outcome State Fault Refusal :=
  performVec (.vsub d a b k ty) (Op.vbits ty d a b k (fun x y => x + 2 ^ ty.bits - y)) s

/-- VMUL (R203). -/
def execVmul (d a b : BitVec 5) (k : BitVec 3) (ty : IntTy) (s : State) : Host.Outcome State Fault Refusal :=
  performVec (.vmul d a b k ty) (Op.vbits ty d a b k (fun x y => x * y)) s

/-- VMIN (R203). -/
def execVmin (d a b : BitVec 5) (k : BitVec 3) (ty : IntTy) (s : State) : Host.Outcome State Fault Refusal :=
  performVec (.vmin d a b k ty) (Op.vint ty d a b k (fun x y => min x y)) s

/-- VMAX (R203). -/
def execVmax (d a b : BitVec 5) (k : BitVec 3) (ty : IntTy) (s : State) : Host.Outcome State Fault Refusal :=
  performVec (.vmax d a b k ty) (Op.vint ty d a b k (fun x y => max x y)) s

/-- VAND (R203). -/
def execVand (d a b : BitVec 5) (k : BitVec 3) (ty : IntTy) (s : State) : Host.Outcome State Fault Refusal :=
  performVec (.vand d a b k ty) (Op.vbits ty d a b k (fun x y => x &&& y)) s

/-- VOR (R203). -/
def execVor (d a b : BitVec 5) (k : BitVec 3) (ty : IntTy) (s : State) : Host.Outcome State Fault Refusal :=
  performVec (.vor d a b k ty) (Op.vbits ty d a b k (fun x y => x ||| y)) s

/-- VXOR (R203). -/
def execVxor (d a b : BitVec 5) (k : BitVec 3) (ty : IntTy) (s : State) : Host.Outcome State Fault Refusal :=
  performVec (.vxor d a b k ty) (Op.vbits ty d a b k (fun x y => x ^^^ y)) s

/-- VANDN (R203). -/
def execVandn (d a b : BitVec 5) (k : BitVec 3) (ty : IntTy) (s : State) : Host.Outcome State Fault Refusal :=
  performVec (.vandn d a b k ty) (Op.vbits ty d a b k (fun x y => x &&& (2 ^ ty.bits - 1 - y))) s

/-- VSHL (R203). -/
def execVshl (d a b : BitVec 5) (k : BitVec 3) (ty : IntTy) (s : State) : Host.Outcome State Fault Refusal :=
  performVec (.vshl d a b k ty) (Op.vbits ty d a b k (fun x y => x * 2 ^ (y % ty.bits))) s

/-- VSHR (R203). -/
def execVshr (d a b : BitVec 5) (k : BitVec 3) (ty : IntTy) (s : State) : Host.Outcome State Fault Refusal :=
  performVec (.vshr d a b k ty) (Op.vbits ty d a b k (fun x y => x / 2 ^ (y % ty.bits))) s

/-- VSAR (R203). -/
def execVsar (d a b : BitVec 5) (k : BitVec 3) (ty : IntTy) (s : State) : Host.Outcome State Fault Refusal :=
  performVec (.vsar d a b k ty) (Op.vbits ty d a b k (fun x y => elemOfInt ty.bits (elemInt true ty.bits x / (2 ^ (y % ty.bits) : Nat)))) s

/-- VADDS (R203). -/
def execVadds (d a b : BitVec 5) (k : BitVec 3) (ty : IntTy) (s : State) : Host.Outcome State Fault Refusal :=
  performVec (.vadds d a b k ty) (Op.vint ty d a b k (fun x y => clampTo ty (x + y))) s

/-- VSUBS (R203). -/
def execVsubs (d a b : BitVec 5) (k : BitVec 3) (ty : IntTy) (s : State) : Host.Outcome State Fault Refusal :=
  performVec (.vsubs d a b k ty) (Op.vint ty d a b k (fun x y => clampTo ty (x - y))) s

/-- VAVG (R203). -/
def execVavg (d a b : BitVec 5) (k : BitVec 3) (ty : IntTy) (s : State) : Host.Outcome State Fault Refusal :=
  performVec (.vavg d a b k ty) (Op.vint ty d a b k (fun x y => (x + y + 1) / 2)) s

/-- VABS (R203). -/
def execVabs (d a : BitVec 5) (k : BitVec 3) (ty : IntTy) (s : State) : Host.Outcome State Fault Refusal :=
  performVec (.vabs d a k ty)
    (Op.vec1 ty.bits d a k fun x => (elemInt true ty.bits x).natAbs % 2 ^ ty.bits) s

/-! ### VFLT and VFMA (R204, R205) -/

/-- VFADD (R204, R198). -/
def execVfadd (d a b : BitVec 5) (k : BitVec 3) (ty : FltTy) (s : State) : Host.Outcome State Fault Refusal :=
  performVec (.vfadd d a b k ty) (Op.vec2 ty.bits d a b k (addCode (fmtOf ty))) s

/-- VFSUB (R204, R198). -/
def execVfsub (d a b : BitVec 5) (k : BitVec 3) (ty : FltTy) (s : State) : Host.Outcome State Fault Refusal :=
  performVec (.vfsub d a b k ty) (Op.vec2 ty.bits d a b k (subCode (fmtOf ty))) s

/-- VFMUL (R204, R198). -/
def execVfmul (d a b : BitVec 5) (k : BitVec 3) (ty : FltTy) (s : State) : Host.Outcome State Fault Refusal :=
  performVec (.vfmul d a b k ty) (Op.vec2 ty.bits d a b k (mulCode (fmtOf ty))) s

/-- VFMIN (R204, R66): an infinity beside a finite operand is ordered as a value. -/
def execVfmin (d a b : BitVec 5) (k : BitVec 3) (ty : FltTy) (s : State) : Host.Outcome State Fault Refusal :=
  performVec (.vfmin d a b k ty) (Op.vec2 ty.bits d a b k fun x y => extremeCode (fmtOf ty) false 0 [x, y]) s

/-- VFMAX (R204, R66): an infinity beside a finite operand is ordered as a value. -/
def execVfmax (d a b : BitVec 5) (k : BitVec 3) (ty : FltTy) (s : State) : Host.Outcome State Fault Refusal :=
  performVec (.vfmax d a b k ty) (Op.vec2 ty.bits d a b k fun x y => extremeCode (fmtOf ty) true 0 [x, y]) s

/-- VFABS (R204): the sign bit cleared. -/
def execVfabs (d a : BitVec 5) (k : BitVec 3) (ty : FltTy) (s : State) : Host.Outcome State Fault Refusal :=
  performVec (.vfabs d a k ty) (Op.vec1 ty.bits d a k fun x => x % 2 ^ (ty.bits - 1)) s

/-- VFNEG (R204): the sign bit inverted. -/
def execVfneg (d a : BitVec 5) (k : BitVec 3) (ty : FltTy) (s : State) : Host.Outcome State Fault Refusal :=
  performVec (.vfneg d a k ty) (Op.vec1 ty.bits d a k fun x => x ^^^ 2 ^ (ty.bits - 1)) s

/-- A fused product and sum per active element (R205). -/
def Op.vfma (ty : FltTy) (negP negC : Bool) (d a b c : BitVec 5) (k : BitVec 3) : Op Unit := do
  let x ← Op.readV a
  let y ← Op.readV b
  let z ← Op.readV c
  let old ← Op.readV d
  let m ← Op.readK k
  let w := ty.bits
  Op.writeV d (maskedElems w m old fun i =>
    fmaF (fmtOf ty) negP negC (elemAt w x.toNat i) (elemAt w y.toNat i) (elemAt w z.toNat i))

/-- VfmaF32 (R205). -/
def execVfmaF32 (d a b c : BitVec 5) (k : BitVec 3) (s : State) : Host.Outcome State Fault Refusal :=
  performVec (.vfmaF32 d a b c k) (Op.vfma .f32 false false d a b c k) s

/-- VfmsF32 (R205). -/
def execVfmsF32 (d a b c : BitVec 5) (k : BitVec 3) (s : State) : Host.Outcome State Fault Refusal :=
  performVec (.vfmsF32 d a b c k) (Op.vfma .f32 false true d a b c k) s

/-- VfnmaF32 (R205). -/
def execVfnmaF32 (d a b c : BitVec 5) (k : BitVec 3) (s : State) : Host.Outcome State Fault Refusal :=
  performVec (.vfnmaF32 d a b c k) (Op.vfma .f32 true false d a b c k) s

/-- VfnmsF32 (R205). -/
def execVfnmsF32 (d a b c : BitVec 5) (k : BitVec 3) (s : State) : Host.Outcome State Fault Refusal :=
  performVec (.vfnmsF32 d a b c k) (Op.vfma .f32 true true d a b c k) s

/-- VfmaBf16 (R205). -/
def execVfmaBf16 (d a b c : BitVec 5) (k : BitVec 3) (s : State) : Host.Outcome State Fault Refusal :=
  performVec (.vfmaBf16 d a b c k) (Op.vfma .bf16 false false d a b c k) s

/-- VfmsBf16 (R205). -/
def execVfmsBf16 (d a b c : BitVec 5) (k : BitVec 3) (s : State) : Host.Outcome State Fault Refusal :=
  performVec (.vfmsBf16 d a b c k) (Op.vfma .bf16 false true d a b c k) s

/-- VfmaF16 (R205). -/
def execVfmaF16 (d a b c : BitVec 5) (k : BitVec 3) (s : State) : Host.Outcome State Fault Refusal :=
  performVec (.vfmaF16 d a b c k) (Op.vfma .f16 false false d a b c k) s

/-- VfmsF16 (R205). -/
def execVfmsF16 (d a b c : BitVec 5) (k : BitVec 3) (s : State) : Host.Outcome State Fault Refusal :=
  performVec (.vfmsF16 d a b c k) (Op.vfma .f16 false true d a b c k) s

/-! ### Conversions (R206 to R210) -/

/-- The draw of element `l` under `.sr`, from an origin word and the key of R70 (R207); no draw in another mode. -/
def State.draw (s : State) (rm : RMode) (origin : Word) (l : Nat) : Nat :=
  if rm = .sr then
    originDraw (roundingKey s.core.regs.seed s.core.regs.step (s.ctx.sys.tensor.setWidth 32)) origin l
  else 0

/-- The origin register read, under `.sr` only (R207). -/
def Op.origin (rm : RMode) (b : BitVec 6) : Op Word := if rm = .sr then Op.readG b else pure 0

/-- An element-by-element conversion that keeps the lane count (R208). -/
def Op.convert (w : Nat) (d a b : BitVec 5) (k : BitVec 3) (rm : RMode) (f : Nat → Nat → Nat) : Op Unit := do
  let x ← Op.readV a
  let o ← Op.origin rm (b.setWidth 6)
  let old ← Op.readV d
  let m ← Op.readK k
  let s ← get
  Op.writeV d (maskedElems w m old fun i => f (s.draw rm o i) (elemAt w x.toNat i))

/-- A narrowing VCVT: elements 0-7 converted, elements 8-15 zero whatever the mask (R208). -/
def Op.narrow (dst : Fmt) (d a b : BitVec 5) (k : BitVec 3) (rm : RMode) : Op Unit := do
  let x ← Op.readV a
  let o ← Op.origin rm (b.setWidth 6)
  let old ← Op.readV d
  let m ← Op.readK k
  let s ← get
  Op.writeV d (BitVec.ofNat 256 (packElems 16 ((List.range 8).map fun i =>
    if m.getLsbD i then convertF fmtF32 dst rm (s.draw rm o i) (elemAt 32 x.toNat i) else elemAt 16 old.toNat i)))

/-- A widening VCVT: elements 0-7 of the 16-bit source (R208). -/
def Op.widen (src : Fmt) (d a b : BitVec 5) (k : BitVec 3) (rm : RMode) : Op Unit := do
  let x ← Op.readV a
  let _ ← Op.origin rm (b.setWidth 6)
  let old ← Op.readV d
  let m ← Op.readK k
  Op.writeV d (maskedElems 32 m old fun i => convertF src fmtF32 rm 0 (elemAt 16 x.toNat i))

/-- VCVT (R208). -/
def execVcvt (d a b : BitVec 5) (k : BitVec 3) (rm : RMode) (c : BitVec 3) (s : State) :
    Host.Outcome State Fault Refusal :=
  performVec (.vcvt d a b k rm c)
    (match c.toNat with
    | 0 => Op.narrow fmtBf16 d a b k rm
    | 1 => Op.narrow fmtF16 d a b k rm
    | 2 => Op.widen fmtBf16 d a b k rm
    | 3 => Op.widen fmtF16 d a b k rm
    | 4 => Op.convert 16 d a b k rm (convertF fmtBf16 fmtF16 rm)
    | _ => Op.convert 16 d a b k rm (convertF fmtF16 fmtBf16 rm)) s

/-- The float format and signedness of a VCVTI or VCVTF code (R208). -/
def cvtFmt (c : BitVec 3) : Fmt :=
  match c.toNat / 2 with
  | 0 => fmtF32
  | 1 => fmtBf16
  | _ => fmtF16

def cvtSigned (c : BitVec 3) : Bool := c.toNat % 2 = 0

/-- VCVTI (R208). -/
def execVcvti (d a b : BitVec 5) (k : BitVec 3) (rm : RMode) (c : BitVec 3) (s : State) :
    Host.Outcome State Fault Refusal :=
  performVec (.vcvti d a b k rm c)
    (Op.convert (cvtFmt c).w d a b k rm (convertToInt (cvtFmt c) (cvtSigned c) (cvtFmt c).w rm)) s

/-- VCVTF (R208). -/
def execVcvtf (d a b : BitVec 5) (k : BitVec 3) (rm : RMode) (c : BitVec 3) (s : State) :
    Host.Outcome State Fault Refusal :=
  performVec (.vcvtf d a b k rm c)
    (Op.convert (cvtFmt c).w d a b k rm fun rb x =>
      convertFromInt (cvtFmt c) rm rb (elemInt (cvtSigned c) (cvtFmt c).w x)) s

/-- The MX format of a pack format, `none` for a grouped integer (R209). -/
def mxFmt : PackFmt → Option Fmt
  | .e4m3 => some fmtE4M3
  | .e5m2 => some fmtE5M2
  | .e3m2 => some fmtE3M2
  | .e2m3 => some fmtE2M3
  | .e2m1 => some fmtE2M1
  | .i8 | .i4 => none

/-- Element width of a pack format, and its slots (R209). -/
def packBits : PackFmt → Nat
  | .e4m3 | .e5m2 | .i8 => 8
  | .e3m2 | .e2m3 => 6
  | .e2m1 | .i4 => 4

def packSlots (p : PackFmt) : Nat := if packBits p = 4 then 8 else 4

/-- (m × 2^e) / (sm × 2^se) rounded to an integer (R209): 128 quotient bits and a sticky remainder decide it. -/
def roundQuotient (rm : RMode) (rb : Nat) (neg : Bool) (m : Nat) (e : Int) (sm : Nat) (se : Int) : Int :=
  roundI rm rb neg (m * 2 ^ 128 / sm) (e - se - 128) (m * 2 ^ 128 % sm ≠ 0)

/-- The element that VPACK gives for an FP32 code under a scale word (R209). -/
def packElem (p : PackFmt) (rm : RMode) (rb : Nat) (scale : Word) (code : Nat) : Nat :=
  let x := decodeF fmtF32 code
  match mxFmt p with
  | some f =>
    let e8 := scale.bits 7 0
    if e8 = 0xFF || x.isNan then (if f.specials = .none then 0 else 0x7F)
    else match x with
      | .inf neg => if p = .e5m2 then infCode f neg else signCode f neg + f.maxCode
      | .num neg m e => roundF f rm rb neg m (e + 127 - e8) false
      | .nan _ _ => 0
  | none =>
    let w := packBits p
    let z := groupZero scale
    let lo := elemMin true w
    let hi := elemMax true w
    let q : Int := match decodeF fmtF16 (groupScale scale), x with
      | .num sn sm se, .num neg m e =>
        if sm = 0 then clampI lo hi z
        else clampI lo hi (roundQuotient rm rb (neg != sn) m e sm se + z)
      | .num sn sm _, .inf neg =>
        if sm = 0 then clampI lo hi z
        else if sn then (if neg != Config.packInfNegScale then lo else hi)
        else (if neg then lo else hi)
      | _, _ => clampI lo hi z
    elemOfInt w q

/-- The FP32 code that VUNPK gives for an element (R209). -/
def unpackElem (p : PackFmt) (rm : RMode) (rb : Nat) (scale : Word) (e : Nat) : Nat :=
  match mxFmt p with
  | some f =>
    let e8 := scale.bits 7 0
    match decodeF f e with
    | .nan _ _ => nanCode fmtF32
    | v => if e8 = 0xFF then nanCode fmtF32 else encodeF fmtF32 rm rb (v.scale (e8 - 127))
  | none =>
    match decodeF fmtF16 (groupScale scale) with
    | .num sn sm se =>
      let v := elemInt true (packBits p) e - groupZero scale
      if sm = 0 || v = 0 then 0 else roundF fmtF32 rm rb (sn != decide (v < 0)) (sm * v.natAbs) se false
    | _ => nanCode fmtF32

/-- The slot that VPACK and VUNPK use (R209). -/
def packSlot (p : PackFmt) (scale : Word) : Nat := scale.bits 34 32 % packSlots p

/-- VPACK (R209): eight elements into one slot of vd; every other bit stays. -/
def execVpack (d a b : BitVec 5) (k : BitVec 3) (rm : RMode) (fmt : PackFmt) (s : State) :
    Host.Outcome State Fault Refusal :=
  performVec (.vpack d a b k rm fmt) (do
    let x ← Op.readV a
    let g ← Op.readG (b.setWidth 6)
    let o ← Op.origin rm ((b + 1).setWidth 6)
    let old ← Op.readV d
    let m ← Op.readK k
    let s ← get
    let lo := (packBits fmt) * 8 * packSlot fmt g
    let e := packElems (packBits fmt) ((List.range 8).map fun l =>
      if m.getLsbD l then packElem fmt rm (s.draw rm o l) g (elemAt 32 x.toNat l)
      else elemAt (packBits fmt) (old.toNat / 2 ^ lo) l)
    Op.writeV d (VWord.replaceBits old lo (8 * (packBits fmt)) e)) s

/-- VUNPK (R209): one slot of va to eight FP32 elements. -/
def execVunpk (d a b : BitVec 5) (k : BitVec 3) (rm : RMode) (fmt : PackFmt) (s : State) :
    Host.Outcome State Fault Refusal :=
  performVec (.vunpk d a b k rm fmt) (do
    let x ← Op.readV a
    let g ← Op.readG (b.setWidth 6)
    let o ← Op.origin rm ((b + 1).setWidth 6)
    let old ← Op.readV d
    let m ← Op.readK k
    let s ← get
    let lo := (packBits fmt) * 8 * packSlot fmt g
    Op.writeV d (maskedElems 32 m old fun l =>
      unpackElem fmt rm (s.draw rm o l) g (elemAt (packBits fmt) (x.toNat / 2 ^ lo) l))) s

/-- VSCALE (R210). -/
def execVscale (d a b : BitVec 5) (k : BitVec 3) (rm : RMode) (ty : FltTy) (s : State) :
    Host.Outcome State Fault Refusal :=
  performVec (.vscale d a b k rm ty) (do
    let x ← Op.readV a
    let g ← Op.readG (b.setWidth 6)
    let o ← Op.origin rm ((b + 1).setWidth 6)
    let old ← Op.readV d
    let m ← Op.readK k
    let s ← get
    let f := fmtOf ty
    let e := elemInt true 16 (g.bits 15 0)
    Op.writeV d (maskedElems ty.bits m old fun l =>
      encodeF f rm (s.draw rm o l) ((decodeF f (elemAt ty.bits x.toNat l)).scale e))) s

/-! ### Permutes (R211) -/

/-- VSHUF (R211). -/
def execVshuf (d a b : BitVec 5) (k : BitVec 3) (w : Width) (s : State) : Host.Outcome State Fault Refusal :=
  performVec (.vshuf d a b k w) (do
    let x ← Op.readV a
    let y ← Op.readV b
    let old ← Op.readV d
    let m ← Op.readK k
    Op.writeV d (maskedElems w.bits m old fun i =>
      elemAt w.bits x.toNat (elemAt w.bits y.toNat i % w.lanes))) s

/-- VBCST (R211). -/
def execVbcst (d b : BitVec 5) (k : BitVec 3) (w : Width) (s : State) : Host.Outcome State Fault Refusal :=
  performVec (.vbcst d b k w) (do
    let g ← Op.readG (b.setWidth 6)
    let old ← Op.readV d
    let m ← Op.readK k
    Op.writeV d (maskedElems w.bits m old fun _ => g.toNat)) s

/-- VINS (R211). -/
def execVins (d imm b : BitVec 5) (k : BitVec 3) (w : Width) (s : State) : Host.Outcome State Fault Refusal :=
  performVec (.vins d imm b k w) (do
    let g ← Op.readG (b.setWidth 6)
    let old ← Op.readV d
    let m ← Op.readK k
    Op.writeV d (maskedElems w.bits m old fun i => if i = imm.toNat then g.toNat else elemAt w.bits old.toNat i)) s

/-- VEXT (R211). -/
def execVext (d a imm : BitVec 5) (w : Width) (s : State) : Host.Outcome State Fault Refusal :=
  performVec (.vext d a imm w) (do
    let x ← Op.readV a
    Op.writeG (d.setWidth 6) (Word.ofN (elemAt w.bits x.toNat imm.toNat))) s

/-- VROT (R211). -/
def execVrot (d a b : BitVec 5) (k : BitVec 3) (w : Width) (s : State) : Host.Outcome State Fault Refusal :=
  performVec (.vrot d a b k w) (do
    let x ← Op.readV a
    let g ← Op.readG (b.setWidth 6)
    let old ← Op.readV d
    let m ← Op.readK k
    Op.writeV d (maskedElems w.bits m old fun i => elemAt w.bits x.toNat ((i + g.toNat % w.lanes) % w.lanes))) s

/-- VZIP.lo and VZIP.hi (R211). -/
def execVzip (d a b : BitVec 5) (k : BitVec 3) (hi : Bool) (w : Width) (s : State) :
    Host.Outcome State Fault Refusal :=
  performVec (.vzip d a b k hi w) (do
    let x ← Op.readV a
    let y ← Op.readV b
    let old ← Op.readV d
    let m ← Op.readK k
    Op.writeV d (maskedElems w.bits m old fun i =>
      elemAt w.bits (if i % 2 = 0 then x.toNat else y.toNat) (i / 2 + hi.toNat * (w.lanes / 2)))) s

/-- VUZP.ev and VUZP.od (R211). -/
def execVuzp (d a b : BitVec 5) (k : BitVec 3) (hi : Bool) (w : Width) (s : State) :
    Host.Outcome State Fault Refusal :=
  performVec (.vuzp d a b k hi w) (do
    let x ← Op.readV a
    let y ← Op.readV b
    let old ← Op.readV d
    let m ← Op.readK k
    Op.writeV d (maskedElems w.bits m old fun i =>
      let j := 2 * i + hi.toNat
      if j < w.lanes then elemAt w.bits x.toNat j else elemAt w.bits y.toNat (j - w.lanes))) s

/-! ### Reductions (R212) -/

/-- The active elements of a register, in ascending lane order. -/
def activeElems (w : Nat) (k : BitVec 32) (x : VWord) : List Nat :=
  ((List.range (256 / w)).filter fun i => k.getLsbD i).map fun i => elemAt w x.toNat i

/-- A reduction to g[d] of the active elements (R212). -/
def Op.vred (d a : BitVec 5) (k : BitVec 3) (w : Nat) (f : List Nat → Word) : Op Unit := do
  let x ← Op.readV a
  let m ← Op.readK k
  Op.writeG (d.setWidth 6) (f (activeElems w m x))

/-- A float ADD: the special part by R66, else the fixed tree (R212); +0 when no element is active. -/
def redAddF (ty : FltTy) (k : BitVec 32) (x : VWord) : Nat :=
  let f := fmtOf ty
  let n := 256 / ty.bits
  match sumSpecial f (activeElems ty.bits k x) with
  | some c => c
  | none => (treeRoot ty n.log2 ((List.range n).map fun i =>
      if k.getLsbD i then some (elemAt ty.bits x.toNat i) else none)).getD 0

/-- VREDADD (R212). -/
def execVredadd (d a : BitVec 5) (k : BitVec 3) (ty : NumTy) (s : State) : Host.Outcome State Fault Refusal :=
  performVec (.vredadd d a k ty)
    (match ty with
    | .int t => Op.vred d a k t.bits fun l =>
        Word.ofI ((l.map (elemInt t.signed t.bits)).foldl (fun x y => x + y) 0)
    | .flt t => do
        let x ← Op.readV a
        let m ← Op.readK k
        Op.writeG (d.setWidth 6) (Word.ofN (redAddF t m x))) s

/-- VREDMAX (R212). -/
def execVredmax (d a : BitVec 5) (k : BitVec 3) (ty : NumTy) (s : State) : Host.Outcome State Fault Refusal :=
  performVec (.vredmax d a k ty)
    (match ty with
    | .int t => Op.vred d a k t.bits fun l =>
        Word.ofI ((l.map (elemInt t.signed t.bits)).foldl max (elemMin t.signed t.bits))
    | .flt t => Op.vred d a k t.bits fun l =>
        Word.ofN (extremeCode (fmtOf t) true (infCode (fmtOf t) true) l)) s

/-- VREDMIN (R212). -/
def execVredmin (d a : BitVec 5) (k : BitVec 3) (ty : NumTy) (s : State) : Host.Outcome State Fault Refusal :=
  performVec (.vredmin d a k ty)
    (match ty with
    | .int t => Op.vred d a k t.bits fun l =>
        Word.ofI ((l.map (elemInt t.signed t.bits)).foldl min (elemMax t.signed t.bits))
    | .flt t => Op.vred d a k t.bits fun l =>
        Word.ofN (extremeCode (fmtOf t) false (infCode (fmtOf t) false) l)) s

/-- VREDAND (R212). -/
def execVredand (d a : BitVec 5) (k : BitVec 3) (ty : IntTy) (s : State) : Host.Outcome State Fault Refusal :=
  performVec (.vredand d a k ty)
    (Op.vred d a k ty.bits fun l => Word.ofN (l.foldl (fun x y => x &&& y) (2 ^ ty.bits - 1))) s

/-- VREDOR (R212). -/
def execVredor (d a : BitVec 5) (k : BitVec 3) (ty : IntTy) (s : State) : Host.Outcome State Fault Refusal :=
  performVec (.vredor d a k ty)
    (Op.vred d a k ty.bits fun l => Word.ofN (l.foldl (fun x y => x ||| y) 0)) s

/-- VREDXOR (R212). -/
def execVredxor (d a : BitVec 5) (k : BitVec 3) (ty : IntTy) (s : State) : Host.Outcome State Fault Refusal :=
  performVec (.vredxor d a k ty)
    (Op.vred d a k ty.bits fun l => Word.ofN (l.foldl (fun x y => x ^^^ y) 0)) s

/-! ### Compares, selection and masks (R213 to R215) -/

/-- The mask of the lanes below `n` where `f` holds. -/
def maskOf (n : Nat) (f : Nat → Bool) : BitVec 32 := BitVec.ofNat 32 (bitsOf ((List.range n).map f))

/-- kD[i] := 1 for active i where the condition holds, else 0 (R213). -/
def Op.vcmp (d : BitVec 3) (a b : BitVec 5) (k : BitVec 3) (w : Nat) (f : Nat → Nat → Bool) : Op Unit := do
  let x ← Op.readV a
  let y ← Op.readV b
  let m ← Op.readK k
  Op.writeK d (maskOf (256 / w) fun i => m.getLsbD i && f (elemAt w x.toNat i) (elemAt w y.toNat i))

/-- VCMP of integers (R213). -/
def execVcmpInt (d : BitVec 3) (a b : BitVec 5) (k : BitVec 3) (cond : Cond) (ty : IntTy) (s : State) :
    Host.Outcome State Fault Refusal :=
  performVec (.vcmpInt d a b k cond ty)
    (Op.vcmp d a b k ty.bits fun x y =>
      compareI cond (elemInt ty.signed ty.bits x) (elemInt ty.signed ty.bits y)) s

/-- VCMP of floats (R213). -/
def execVcmpFlt (d : BitVec 3) (a b : BitVec 5) (k : BitVec 3) (cond : Cond) (ty : FltTy) (s : State) :
    Host.Outcome State Fault Refusal :=
  performVec (.vcmpFlt d a b k cond ty) (Op.vcmp d a b k ty.bits (compareF (fmtOf ty) cond)) s

/-- VSEL (R214): the mask selects; every element is written. -/
def execVsel (d a b : BitVec 5) (k : BitVec 3) (w : Width) (s : State) : Host.Outcome State Fault Refusal :=
  performVec (.vsel d a b k w) (do
    let x ← Op.readV a
    let y ← Op.readV b
    let m ← Op.readK k
    Op.writeV d (maskedElems w.bits m y fun i => elemAt w.bits x.toNat i)) s

/-- KAND (R215). -/
def execKand (d a b : BitVec 3) (s : State) : Host.Outcome State Fault Refusal :=
  performVec (.kand d a b) (do
    let x ← Op.readK a
    let y ← Op.readK b
    Op.writeK d (x &&& y)) s

/-- KOR (R215). -/
def execKor (d a b : BitVec 3) (s : State) : Host.Outcome State Fault Refusal :=
  performVec (.kor d a b) (do
    let x ← Op.readK a
    let y ← Op.readK b
    Op.writeK d (x ||| y)) s

/-- KXOR (R215). -/
def execKxor (d a b : BitVec 3) (s : State) : Host.Outcome State Fault Refusal :=
  performVec (.kxor d a b) (do
    let x ← Op.readK a
    let y ← Op.readK b
    Op.writeK d (x ^^^ y)) s

/-- KNOT (R215). -/
def execKnot (d a : BitVec 3) (s : State) : Host.Outcome State Fault Refusal :=
  performVec (.knot d a) (do
    let x ← Op.readK a
    Op.writeK d (~~~x)) s

/-- KPOP (R215). -/
def execKpop (d : BitVec 5) (a : BitVec 3) (s : State) : Host.Outcome State Fault Refusal :=
  performVec (.kpop d a) (do
    let x ← Op.readK a
    Op.writeG (d.setWidth 6) (Word.ofN (popcN 32 x.toNat))) s

/-- KFFS (R215). -/
def execKffs (d : BitVec 5) (a : BitVec 3) (s : State) : Host.Outcome State Fault Refusal :=
  performVec (.kffs d a) (do
    let x ← Op.readK a
    Op.writeG (d.setWidth 6) (Word.ofN (ffsN 32 x.toNat))) s

/-- KMOV kD, kA (R215). -/
def execKmov (d a : BitVec 3) (s : State) : Host.Outcome State Fault Refusal :=
  performVec (.kmov d a) (do
    let x ← Op.readK a
    Op.writeK d x) s

/-- KMOV.x2, .x4, .x8 (R215). -/
def execKmovExpand (d a : BitVec 3) (f : BitVec 2) (s : State) : Host.Outcome State Fault Refusal :=
  performVec (.kmovExpand d a f) (do
    let x ← Op.readK a
    Op.writeK d (maskOf 32 fun i => x.getLsbD (i / 2 ^ f.toNat))) s

/-- KMOV kD, gB (R215). -/
def execKmovFromG (d : BitVec 3) (b : BitVec 5) (s : State) : Host.Outcome State Fault Refusal :=
  performVec (.kmovFromG d b) (do
    let g ← Op.readG (b.setWidth 6)
    Op.writeK d (g.setWidth 32)) s

/-- KMOV gD, kA (R215). -/
def execKmovToG (d : BitVec 5) (a : BitVec 3) (s : State) : Host.Outcome State Fault Refusal :=
  performVec (.kmovToG d a) (do
    let x ← Op.readK a
    Op.writeG (d.setWidth 6) (x.setWidth 64)) s

/-! ### VBIT (R216) -/

/-- VLOP3 (R216): bitwise, with a byte-granular mask. -/
def execVlop3 (d a : BitVec 5) (b : BitVec 4) (k : BitVec 3) (t : BitVec 8) (s : State) :
    Host.Outcome State Fault Refusal :=
  performVec (.vlop3 d a b k t) (do
    let x ← Op.readV a
    let y ← Op.readV (b.setWidth 5)
    let old ← Op.readV d
    let m ← Op.readK k
    let r : VWord := lop3Bits t x y old
    Op.writeV d (maskedElems 8 m old fun i => elemAt 8 r.toNat i)) s

/-- VFSHL (R216, R165). -/
def execVfshl (d a : BitVec 5) (b : BitVec 4) (k : BitVec 3) (w : Width) (sh : BitVec 6) (s : State) :
    Host.Outcome State Fault Refusal :=
  performVec (.vfshl d a b k w sh) (Op.vec2 w.bits d a (b.setWidth 5) k (funnel w.bits sh.toNat)) s

/-- VCLZ (R216). -/
def execVclz (d a : BitVec 5) (k : BitVec 3) (w : Width) (s : State) : Host.Outcome State Fault Refusal :=
  performVec (.vclz d a k w) (Op.vec1 w.bits d a k (clzN w.bits)) s

/-- VCTZ (R216). -/
def execVctz (d a : BitVec 5) (k : BitVec 3) (w : Width) (s : State) : Host.Outcome State Fault Refusal :=
  performVec (.vctz d a k w) (Op.vec1 w.bits d a k (ctzN w.bits)) s

/-- VPOPC (R216). -/
def execVpopc (d a : BitVec 5) (k : BitVec 3) (w : Width) (s : State) : Host.Outcome State Fault Refusal :=
  performVec (.vpopc d a k w) (Op.vec1 w.bits d a k (popcN w.bits)) s

/-! ### Draws (R220) -/

/-- draw(o) of the context in focus (R220). -/
def State.rnd (s : State) (o : Word) : Word := streamDraw s.ctx.sys.rkey (Word.ofN s.lthread) o

/-- RDRAW (R220). -/
def execRdraw (d b : BitVec 5) (s : State) : Host.Outcome State Fault Refusal :=
  performVec (.rdraw d b) (do
    let g ← Op.readG (b.setWidth 6)
    let s ← get
    Op.writeG (d.setWidth 6) (s.rnd g)) s

/-- RVEC (R220): 64-bit elements 0-3. -/
def execRvec (d b : BitVec 5) (k : BitVec 3) (s : State) : Host.Outcome State Fault Refusal :=
  performVec (.rvec d b k) (do
    let g ← Op.readG (b.setWidth 6)
    let old ← Op.readV d
    let m ← Op.readK k
    let s ← get
    Op.writeV d (maskedElems 64 m old fun i => (s.rnd (g + Word.ofN i)).toNat)) s

/-- RMASK (R220): bit i is 1 when its 16-bit draw is below T = g[b+1][16:0]. -/
def execRmask (k : BitVec 3) (b : BitVec 5) (s : State) : Host.Outcome State Fault Refusal :=
  performVec (.rmask k b) (do
    let g ← Op.readG (b.setWidth 6)
    let t ← Op.readG ((b + 1).setWidth 6)
    let s ← get
    Op.writeK k (maskOf 32 fun i => quarter (s.rnd (g + Word.ofN (i / 4))) (i % 4) < t.bits 16 0)) s

/-- RKEY gD, gB (R220): the key of R70 for the tensor identity g[b][31:0]. -/
def execRkey (d b : BitVec 5) (s : State) : Host.Outcome State Fault Refusal :=
  performVec (.rkey d b) (do
    let g ← Op.readG (b.setWidth 6)
    let c ← Op.core
    Op.writeG (d.setWidth 6) (roundingKey c.regs.seed c.regs.step (g.setWidth 32))) s

end Sys2Proof.Machine
end

