-- ==== Sys2Proof/Machine/VectorMem.lean ====
section
/-! DEFINITION. Vector loads and stores (R200 to R202) and the special-function unit (R217 to R219). -/

namespace Sys2Proof.Machine

/-! ### Vector memory (R200 to R202) -/

/-- The reference of a vector access: g[a] + imm × 32, a multiple of 32 (R200). -/
def Op.vectorRef (a : BitVec 6) (imm : BitVec 12) (kind : Nat) : Op Word := do
  let x ← Op.readG a
  let d ← Op.imm imm
  let ref := x + d * 32
  if ref.toNat % 32 ≠ 0 then Op.trap cMISAL ref ((⟨ref, 32, 5, kind, 0⟩ : Acc).info 0) else pure ref

/-- The bytes of an access from its first byte to its last active one; EINFO gives the size of the whole access. -/
def vectorAcc (ref : Word) (m : BitVec 32) (kind : Nat) : Acc := ⟨ref, m.toNat.log2 + 1, 5, kind, 0⟩

/-- The lowest byte at or above `lo` that is active. -/
def firstActive (m : BitVec 32) (lo : Nat) : Nat := ((List.range 32).find? fun i => lo ≤ i && m.getLsbD i).getD 0

/-- The check of word `u` of a 32-byte local access with an active byte in it; the bad byte is its lowest active byte
(R480). -/
def Op.vectorCheckWord (ag : Agent) (a : Acc) (m : BitVec 32) (id : CoreId) (off u : Nat) : Op Unit :=
  if (m.toNat / 2 ^ (8 * u)) % 256 = 0 then pure ()
  else
    let j := firstActive m (8 * u)
    Op.lmCheckWord ag { a with ref := a.ref + Word.ofN j } id (off + j) (off / 8 + u)

/-- A POISON or STRUCT trap of a sector whose lowest active byte is `j` bytes above the reference (R480). -/
def Op.badByteAt {α : Type} (ref : Word) (j : Nat) (op : Op α) : Op α := fun s =>
  match op s with
  | .error (.trap t) =>
    if t.log.isSome && t.eaddr = ref then .error (.trap { t with eaddr := ref + Word.ofN j }) else .error (.trap t)
  | r => r

/-- The 32 bytes of a masked vector load; what stands at inactive bytes is not used. -/
def Op.vectorLoad (ref : Word) (m : BitVec 32) : Op Nat := do
  let s ← get
  let ag := s.self 0
  let a := vectorAcc ref m 0
  if refHandle ref ≤ 1 && !s.inSpill ag ref then
    let (id, off) ← Op.localTarget ag a true
    let s ← get
    Op.need (!s.ownRed ag (.local id off) a.n)
    Op.forEach (Op.vectorCheckWord ag a m id off) [0, 1, 2, 3]
    let s ← get
    pure (match s.findCore id with
    | some c => c.lm.value off 32
    | none => 0)
  else Op.badByteAt ref (firstActive m 0) (Op.load { ag with quiet := (2 ^ a.n - 1) ^^^ m.toNat } a)

/-- VLD (R200). -/
def execVld (v : BitVec 5) (a : BitVec 6) (k : BitVec 3) (imm : BitVec 12) (s : State) :
    Host.Outcome State Fault Refusal :=
  performVec (.vld v a k imm) (do
    let ref ← Op.vectorRef a imm 0
    let m ← Op.readK k
    let old ← Op.readV v
    if m = 0 then pure ()
    else
      let n ← Op.loadMsg [0, ref.toNat, 32, 0, 0, m.toNat] ref (Op.vectorLoad ref m)
      Op.writeV v (maskedElems 8 m old fun i => elemAt 8 n i)) s

/-- VST (R200). -/
def execVst (v : BitVec 5) (a : BitVec 6) (k : BitVec 3) (imm : BitVec 12) (s : State) :
    Host.Outcome State Fault Refusal :=
  performVec (.vst v a k imm) (do
    let ref ← Op.vectorRef a imm 1
    let m ← Op.readK k
    let x ← Op.readV v
    if m = 0 then pure ()
    else
      let s ← get
      Op.storeMsg [1, ref.toNat, 32, 0, 0, m.toNat, x.toNat] ref
        (Op.badByteAt ref (firstActive m 0) (Op.storeMasked (s.self 0) (vectorAcc ref m 1) x.toNat m.toNat))) s

/-- The access of one element of a vector memory word (R201). -/
def laneAcc (w : Width) (ref : Word) (kind lane : Nat) : Acc := ⟨ref, w.bytes, sizeCode w.bytes, kind, lane⟩

/-- The alignment of an element's address (R201). -/
def Op.laneAligned (w : Width) (a : Acc) : Op Unit :=
  if a.ref.toNat % w.bytes ≠ 0 then Op.accTrap cMISAL a 0 else pure ()

/-- The reference of lane `i`: g[b] + zext(index) × w/8 (R201). -/
def laneRef (w : Width) (base : Word) (x : VWord) (i : Nat) : Word :=
  base + Word.ofN (elemAt w.bits x.toNat i * w.bytes)

/-- The active lanes of a width, ascending. -/
def activeLanes (w : Nat) (m : BitVec 32) : List Nat := (List.range (256 / w)).filter fun i => m.getLsbD i

/-- VLDB (R201). -/
def execVldb (d b : BitVec 5) (k : BitVec 3) (w : Width) (s : State) : Host.Outcome State Fault Refusal :=
  performVec (.vldb d b k w) (do
    let ref ← Op.readG (b.setWidth 6)
    let m ← Op.readK k
    let old ← Op.readV d
    match (activeLanes w.bits m).head? with
    | none => pure ()
    | some i =>
      let a := laneAcc w ref 0 i
      Op.laneAligned w a
      let s ← get
      let e ← Op.loadMsg [0, ref.toNat, w.bytes, 0, 0] ref (Op.load (s.self 0) a)
      Op.writeV d (maskedElems w.bits m old fun _ => e)) s

/-- Each active lane tried alone first, in ascending order, so that a trap or a wait leaves everything unchanged (R201). -/
def Op.tryLanes (lanes : List Nat) (op : Nat → Op Unit) : Op Unit := Op.forEach (fun i => Op.probe (op i)) lanes

/-- VGATH (R201). -/
def execVgath (d a b : BitVec 5) (k : BitVec 3) (w : Width) (s : State) : Host.Outcome State Fault Refusal :=
  performVec (.vgath d a b k w) (do
    let base ← Op.readG (b.setWidth 6)
    let x ← Op.readV a
    let m ← Op.readK k
    let old ← Op.readV d
    let s ← get
    let ag := s.self 0
    let lanes := activeLanes w.bits m
    let acc (i : Nat) : Acc := laneAcc w (laneRef w base x i) 0 i
    Op.tryLanes lanes fun i => do
      Op.laneAligned w (acc i)
      discard (Op.load ag (acc i))
    let msg := lanes.find? fun i => s.loadMessage (acc i).ref
    let all : Op Nat := do
      let es ← Op.collect (fun i => do
        let e ← Op.load ag (acc i)
        pure (e * 2 ^ (w.bits * i))) lanes
      pure (es.foldl (fun x y => x + y) 0)
    let act : Op Nat := match msg with
      | some i => Op.loadMsg (0 :: lanes.flatMap (fun i => [(acc i).ref.toNat, w.bytes])) (acc i).ref all
      | none => all
    let r ← act
    Op.writeV d (maskedElems w.bits m old fun i => elemAt w.bits r i)) s

/-- VSCAT (R201): elements are written in ascending lane order. -/
def execVscat (d a b : BitVec 5) (k : BitVec 3) (w : Width) (s : State) : Host.Outcome State Fault Refusal :=
  performVec (.vscat d a b k w) (do
    let base ← Op.readG (b.setWidth 6)
    let x ← Op.readV a
    let y ← Op.readV d
    let m ← Op.readK k
    let s ← get
    let ag := s.self 0
    let lanes := activeLanes w.bits m
    let acc (i : Nat) : Acc := laneAcc w (laneRef w base x i) 1 i
    let put (i : Nat) : Op Unit := Op.store ag (acc i) (elemAt w.bits y.toNat i)
    Op.tryLanes lanes fun i => do
      Op.laneAligned w (acc i)
      put i
    let msg := lanes.find? fun i => s.storeMessage (acc i).ref
    let fields := 1 :: lanes.flatMap fun i => [(acc i).ref.toNat, w.bytes, elemAt w.bits y.toNat i]
    match msg with
    | some i => Op.storeMsg fields (acc i).ref (Op.forEach put lanes)
    | none => Op.forEach put lanes) s

/-! ### The special-function unit (R217 to R219) -/

/-- A cluster's unit, and a change of it; the first core of all to be served is core 0 (log entry 74). -/
def State.sfu (s : State) (cl : Nat) : SfuUnit := (s.unc.sfus.find? fun u => u.cluster = cl).getD ⟨cl, [], [], 15, 15⟩

def State.putSfu (s : State) (u : SfuUnit) : State :=
  { s with unc := { s.unc with sfus := u :: s.unc.sfus.filter fun x => x.cluster ≠ u.cluster } }

/-- A request that reaches the queue. Those of one step, which the members of a fused gang make, enter in ascending core number
from the core after the one whose request entered last (R218). -/
def SfuUnit.enter (u : SfuUnit) (r : SfuReq) : SfuUnit :=
  let now := u.queue.filter fun x => x.came = r.came
  let before := if now = [] then u.last else u.before
  let key (x : SfuReq) : Nat := (x.slot % 16 + 31 - before % 16) % 16
  let batch := sortBy (fun a b => key a < key b) (now ++ [r])
  { u with
    queue := (u.queue.filter fun x => x.came ≠ r.came) ++ batch
    last := (batch.getLast?.map (·.slot)).getD r.slot
    before := before }

/-- A VSFU (R218): with an active element, one request, whose result comes later; without, it completes at issue. The
context is not ready while the queue is full. -/
def Op.sfuRequest (i : Instr) (d a : BitVec 5) (k : BitVec 3) : Op Unit := do
  let x ← Op.readV a
  let _ ← Op.readV d
  let m ← Op.readK k
  if m.toNat % 256 = 0 then pure ()
  else
    let s ← get
    let u := s.sfu (clusterOf s.core.slot)
    Op.need (u.queue.length < Config.sfuEntries)
    set (s.putSfu (u.enter ⟨s.core.id, s.core.slot, s.ctx.num, s.tick, i, m, x⟩))
    Op.modCtx fun c => { (c.setPendV d.toNat true) with sfuOut := c.sfuOut + 1 }
    Op.countVector 5

/-- VRCP (R217). -/
def execVrcp (d a : BitVec 5) (k : BitVec 3) (s : State) : Host.Outcome State Fault Refusal :=
  performVec (.vrcp d a k) (Op.sfuRequest (.vrcp d a k) d a k) s

/-- VRSQ (R217). -/
def execVrsq (d a : BitVec 5) (k : BitVec 3) (s : State) : Host.Outcome State Fault Refusal :=
  performVec (.vrsq d a k) (Op.sfuRequest (.vrsq d a k) d a k) s

/-- VSQRT (R217). -/
def execVsqrt (d a : BitVec 5) (k : BitVec 3) (s : State) : Host.Outcome State Fault Refusal :=
  performVec (.vsqrt d a k) (Op.sfuRequest (.vsqrt d a k) d a k) s

/-- VEXP2 (R217). -/
def execVexp2 (d a : BitVec 5) (k : BitVec 3) (s : State) : Host.Outcome State Fault Refusal :=
  performVec (.vexp2 d a k) (Op.sfuRequest (.vexp2 d a k) d a k) s

/-- VLOG2 (R217). -/
def execVlog2 (d a : BitVec 5) (k : BitVec 3) (s : State) : Host.Outcome State Fault Refusal :=
  performVec (.vlog2 d a k) (Op.sfuRequest (.vlog2 d a k) d a k) s

/-- The destination and function of a request (R217). -/
def sfuFunction : Instr → Option (BitVec 5 × (Nat → Nat))
  | .vrcp d _ _ => some (d, rcpCode)
  | .vrsq d _ _ => some (d, rsqCode)
  | .vsqrt d _ _ => some (d, sqrtCode)
  | .vexp2 d _ _ => some (d, exp2Code)
  | .vlog2 d _ _ => some (d, log2Code)
  | _ => none

/-- SFU_REQUEST_START (R218): the unit starts the request at the head of its queue. -/
def execSfuRequestStart (cluster : Nat) (s : State) : Host.Outcome State Fault Refusal :=
  runEvent (do
    let s ← get
    let u := s.sfu cluster
    match u.queue with
    | [] => Op.stall
    | r :: rest => set (s.putSfu { u with queue := rest, started := u.started ++ [r] })) s

/-- The result of a request written to its context's register: the active elements (R217). -/
def Ctx.sfuResult (r : SfuReq) (c : Ctx) : Ctx :=
  match sfuFunction r.op with
  | none => c
  | some (d, f) =>
    let v := maskedElems 32 r.mask (c.vval d.toNat) fun i => f (elemAt 32 r.x.toNat i)
    { (c.setV d.toNat v).setPendV d.toNat false with sfuOut := c.sfuOut - 1 }

/-- SFU_RESULT_WRITE (R218): the oldest started request's result is written. -/
def execSfuResultWrite (cluster : Nat) (s : State) : Host.Outcome State Fault Refusal :=
  runEvent (do
    let s ← get
    let u := s.sfu cluster
    match u.started with
    | [] => Op.stall
    | r :: rest =>
      set ((s.putSfu { u with started := rest }).mapCtx r.core r.ctx (Ctx.sfuResult r))) s

end Sys2Proof.Machine
end

