-- ==== Sys2Proof/Machine/Retire.lean ====
section
/-! DEFINITION. Retirement, the digest sum, the Concordance chain and metering (R440 to R451). -/

namespace Sys2Proof.Machine

/-! ### Digest sums (R442, R443) -/

/-- The logical core's unfolded sum. -/
def LCore.digestSum (c : LCore) : BitVec 128 := c.ctxs.foldl (init := 0) fun (x : BitVec 128) y => x + y.digest

/-- 16 bytes at TCB word 0x60 raised by a value (R443). -/
def Op.addDigestWord (q : Nat) (ref : Word) (x : BitVec 128) : Op Unit := do
  if x = 0 then pure ()
  else match (← Op.hwPlace q (ref + 0x60) 16 rightW) with
    | none => pure ()
    | some p =>
      let s ← get
      if (s.placeGone p).isSome then pure ()
      else
        match (← Op.hwGet p (ref + 0x60) 16) with
        | none => pure ()
        | some old => Op.hwWrite p 16 ((old + x.toNat) % 2 ^ 128)

/-- A pending entry added into the TCB and emptied. -/
def Op.flushPending (ref : Word) (lcore : Nat) : Op Unit := do
  let s ← get
  match s.findTask ref with
  | none => pure ()
  | some t =>
    Op.addDigestWord t.queue.toNat t.tcb ((NatMap.get t.pending lcore).getD 0)
    modify fun s => s.mapTask ref fun t => { t with pending := t.pending.erase lcore }

/-- A logical core's unfolded sum moved into its pending entry. -/
def State.foldSum (s : State) (id : CoreId) : State :=
  match s.findCore id with
  | none => s
  | some c =>
    let x := c.digestSum
    if x = 0 then s
    else
      let s := s.mapCore id fun c => c.mapCtxs fun y => { y with digest := 0 }
      s.mapTask id.task fun t => { t with pending := t.pending.set id.lcore ((NatMap.get t.pending id.lcore).getD 0 + x) }

/-- A digest fold (R443): with SNAP the pending entry waits for a snapshot phase. -/
def Op.foldDigest (id : CoreId) : Op Unit := do
  modify fun s => s.foldSum id
  let s ← get
  match s.findTask id.task with
  | some t => if t.snap then pure () else Op.flushPending id.task id.lcore
  | none => pure ()

/-- DIGEST_FOLD_TIMER (R443): every 1 ms each core that runs folds, those of a task that is being pre-empted among them. -/
def execDigestFoldTimer (s : State) : Host.Outcome State Fault Refusal :=
  runEvent (Op.whole (do
    let s ← get
    let mine (c : LCore) : Bool := match s.findTask c.id.task with
      | some t => t.phase = .running || t.phase = .preempted
      | none => false
    Op.forEach (fun c => Op.foldDigest c) ((s.cores.filter mine).map (·.id)))) s

/-! ### Metering (R447 to R451) -/

def State.mapMeter (s : State) (n : BitVec 32) (f : MeterRec → MeterRec) : State :=
  { s with disp := { s.disp with meters := s.disp.meters.map fun m => if m.number = n then f m else m } }

def State.findMeter (s : State) (n : BitVec 32) : Option MeterRec := s.disp.meters.find? fun m => m.number = n

/-- A fold of one context's counts into a record (R450). -/
def MeterRec.fold (m : MeterRec) (time : Word) (u : Meter) : MeterRec :=
  { m with
    folds := m.folds + 1
    time := time
    counters := Vector.ofFn fun i => m.counters[i] + u.counts[i] }

/-- The contexts of a logical core folded: their counts are cleared, their fJ remainders stay (R448, R450). -/
def State.foldMeter (s : State) (id : CoreId) : State :=
  match s.findCore id, s.findTask id.task with
  | some c, some t =>
    let mine := c.ctxs.filter fun x => x.live || x.unit.counts ≠ Vector.replicate 8 0
    let s := s.mapMeter t.meter fun m => mine.foldl (fun m x => m.fold s.timeUs x.unit) m
    s.mapCore id fun c => c.mapCtxs fun x => { x with unit := ⟨Vector.replicate 8 0, x.unit.femto⟩ }
  | _, _ => s

/-- The slots that a task holds, both placements under TWIN. -/
def State.heldSlots (s : State) (ref : Word) : List Nat :=
  ((s.cores.filter fun c => c.id.task = ref).map (·.slot)).dedup

/-- The physical cores that a task holds (R85): those of its valid remap entries, each of this package counted once, and one for
each entry of another package. A core that has been saved is held no more. -/
def State.heldCores (s : State) (t : Task) : Nat :=
  let bound := t.binds.filter (·.valid)
  ((bound.filter fun b => b.package = s.pkg.address).map (·.slot)).dedup.length +
    (bound.filter fun b => b.package ≠ s.pkg.address).length

/-- The deficit charge of a task for the cycles since the last one (R85): until its last core has been saved or released. -/
def State.chargeTask (s : State) (ref : Word) : State :=
  match s.findTask ref with
  | none => s
  | some t =>
    let used : Nat := s.heldCores t * (s.cycle - t.charged).toNat
    let s := s.mapTask ref fun t => { t with charged := s.cycle }
    s.mapQueue t.queue.toNat fun q => { q with deficit := q.deficit - used }

/-- METERING_FOLD_TIMER (R450, R85): every 1 ms. -/
def execMeteringFoldTimer (s : State) : Host.Outcome State Fault Refusal :=
  runEvent (modify fun s =>
    let s := (s.cores.map (·.id)).foldl State.foldMeter s
    (s.disp.tasks.map (·.ref)).foldl State.chargeTask s) s

/-- The 128 bytes of a metering record (R449). -/
def MeterRec.bytes (m : MeterRec) : List Byte :=
  ([Word.ofN (m.number.toNat * 2 ^ 32 + m.loss.toNat * 2 ^ 31 + m.opened.toNat), m.folds, m.closed, m.time] ++
    m.counters.toList ++ [0, 0, 0, 0]).flatMap fun (w : Word) => bytesOf 8 w.toNat

/-- METERING_READ_MESSAGE (R451). A number without a record has no answer; nor has any while no Conjunction die, and so no
management endpoint, is left (R16, R345). -/
def execMeteringReadMessage (n : BitVec 32) (s : State) : Host.Outcome State Fault Refusal :=
  runEvent (do
    let s ← get
    Op.need !s.headless
    let m ← Op.get! (s.findMeter n)
    let reply := m.bytes
    set { s with pkg := { s.pkg with identity := { s.pkg.identity with
      meterReplies := s.pkg.identity.meterReplies ++ [reply] } } }) s

/-- The task closed in the record it charged (R450). -/
def State.closeMeter (s : State) (ref : Word) : State :=
  match s.findTask ref with
  | none => s
  | some t => s.mapMeter t.meter fun m => { m with opened := m.opened - 1, closed := m.closed + 1 }

/-! ### The Concordance chain (R444 to R446) -/

/-- The entry of a TCB at its link position (R445). -/
def chainEntry (ref seed step : Word) (state revision : Nat) (sum : Nat) (position : Nat) : List Byte :=
  bytesOf 8 ref.toNat ++ bytesOf 8 seed.toNat ++ bytesOf 8 step.toNat ++
  bytesOf 8 (state * 2 ^ 32 + revision * 2 ^ 24) ++ bytesOf 16 sum ++ bytesOf 8 position ++ bytesOf 8 0

/-- The entry of a position kept until the chain passes it. -/
def State.recordChain (s : State) (q position : Nat) (dig : Bool) (entry : List Byte) : State :=
  s.mapChain q fun c =>
    if c.recorded.any fun r => r.1 = position then c
    else { c with recorded := c.recorded ++ [(position, dig, entry)] }

def State.chain (s : State) (q : Nat) : Chain := s.disp.chains.toList.getD q Chain.reset

/-- A digest sum as the TCB holds it. -/
def Op.digestWord (q : Nat) (ref : Word) : Op Nat := do
  match (← Op.hwPlace q (ref + 0x60) 16 rightR) with
  | none => pure 0
  | some p =>
    let s ← get
    if (s.placeGone p).isSome then pure 0 else return (← Op.hwGet p (ref + 0x60) 16).getD 0

/-- Step 3 of R440 for a task. -/
def Op.recordTask (t : Task) (state : Nat) : Op Unit := do
  let sum ← Op.digestWord t.queue.toNat t.tcb
  modify fun s => s.recordChain t.queue.toNat t.position t.dig
    (chainEntry t.tcb (t.word 0x38) (t.word 0x40) state ((t.word 0x30).bits 63 56) sum t.position)

/-- CHAIN_ADVANCE (R445): the next position is passed, by retirement hardware that stands on the Conjunction dies (R15, R345). -/
def execChainAdvance (q : BitVec 6) (s : State) : Host.Outcome State Fault Refusal :=
  runEvent (do
    let s ← get
    Op.need !s.headless
    let c := s.chain q.toNat
    let next := c.folded.toNat + 1
    let r ← Op.get! (c.recorded.find? fun r => r.1 = next)
    set (s.mapChain q.toNat fun c => { c with
      value := if r.2.1 then sha256 (c.value ++ r.2.2) else c.value
      folded := c.folded + 1
      recorded := c.recorded.filter fun r => r.1 ≠ next
      positions := c.positions.filter fun p => p.2 ≠ next })) s

/-- CHAIN_RECORD_WRITE (R444): firmware writes value and folded together while EN is 0. -/
def execChainRecordWrite (q : BitVec 6) (value : List Byte) (folded : Word) (s : State) : Host.Outcome State Fault Refusal :=
  runEvent (do
    let s ← get
    Op.need (!(s.queue q.toNat).en && value.length = 32)
    set (s.mapChain q.toNat fun c => { c with value := value, folded := folded, linked := folded })) s

/-- The queue that DIGEST names: the task's own, or in supervisor mode the one a register names (R446). -/
def Op.digestQueue (r : BitVec 6) : Op Nat := do
  let s ← get
  if s.ctx.supervisor then
    let v ← Op.readG r
    pure (v.bits 5 0)
  else pure s.core.regs.queue.toNat

/-- DIGEST (R446): waits until the chain has passed g[a] positions; then the value, with an acquire at sys scope. -/
def execDigest (d : BitVec 5) (a : BitVec 6) (s : State) : Host.Outcome State Fault Refusal :=
  performNext (.digest d a) (do
    let s ← get
    if s.ctx.supervisor && a = 63 then throw (.trap (s.illTrap ((encode (.digest d a)).getD 0)))
    let n ← Op.readG a
    let q ← Op.digestQueue (a + 1)
    let c := s.chain q
    Op.need (n.toNat ≤ c.folded.toNat)
    Op.writeV d (BitVec.ofNat 256 (valueOf c.value))
    Op.acquire 5) s

/-- DIGEST.n (R446). -/
def execDigestN (d a : BitVec 6) (s : State) : Host.Outcome State Fault Refusal :=
  performNext (.digestN d a) (do
    let q ← Op.digestQueue a
    let s ← get
    Op.writeG d (s.chain q).folded) s

/-! ### A task released (R440 step 8) -/

/-- What a task core keeps for itself when a logical core leaves it (R187, R244). -/
def State.keepCore (s : State) (c : LCore) : State :=
  if c.resident then { s with unc := { s.unc with coreRegs := s.unc.coreRegs.set c.slot (c.shadown, c.mx.startCount) } } else s

/-- The logical cores of a task removed; what stands in focus gives way to another. -/
def State.removeCores (s : State) (ref : Word) : State :=
  let rest := s.peers.filter fun c => c.id.task ≠ ref
  if s.core.id.task ≠ ref then { s with peers := rest }
  else match rest with
    | c :: cs => { s with core := c, peers := cs }
    | [] => { s with core := LCore.empty, peers := [] }

/-- The image areas of a task's logical cores released. -/
def State.freeImages (s : State) (ref : Word) : State :=
  let areas := (s.cores.filter fun c => c.id.task = ref).filterMap (·.imageArea)
  { s with disp := { s.disp with imageAreas := s.disp.imageAreas.filter fun k => !areas.contains k } }

/-- Barrier records, pending entries, image areas, packets, special-function requests and the placement of a task released. -/
def State.releaseTask (s : State) (ref : Word) : State :=
  let s := (s.cores.filter fun c => c.id.task = ref).foldl State.keepCore s
  let s := ((s.freeImages ref).removeCores ref).dropPackets ref
  { s with
    disp := { s.disp with tasks := s.disp.tasks.filter fun t => t.ref ≠ ref }
    unc := { s.unc with
      barriers := s.unc.barriers.filter fun b => b.task ≠ ref
      sfus := s.unc.sfus.map fun u => u.drop fun id => id.task = ref } }

/-! ### RETIRE_TASK (R440, R441) -/

/-- The entry of a successor array, `none` where it is to be skipped: its line is LOST, or its read meets an uncorrectable
error (R40). A place that does not resolve is skipped too, for which R40 gives no outcome (log entry 84). R40 has the array
8-byte aligned and gives no outcome otherwise: the model reads the 8 bytes at each unaligned place (log entry 60). -/
def Op.successorAt (q : Nat) (ref : Word) : Op (Option Word) := Op.hwRead q ref rightR

/-- Successors decremented in ascending order (R440 step 6). -/
def Op.successors (q : Nat) (array : Word) : Nat → Nat → Op Unit
  | 0, _ => pure ()
  | n + 1, i => do
    match (← Op.successorAt q (array + Word.ofN (8 * i))) with
    | some t => discard (Op.decrement .bank errorChainBound q t)
    | none => pure ()
    Op.successors q array n (i + 1)

/-- The contexts of a task's logical cores have all ended, every one having been placed, and nothing of them is outstanding: the engine
commands of a helper that was stopped go on to their end (R176, R174, R440 step 1). -/
def State.taskEnded (s : State) (t : Task) : Bool :=
  t.binds ≠ [] && t.binds.all (fun b => b.placed) &&
  (s.cores.filter fun c => c.id.task = t.ref).all fun c =>
    c.rollbackDue.isNone && c.ctxs.all fun x => !x.live && !c.enginePending x.num

/-- Steps 2, 3 and 4 of R440 for a task with a final state. -/
def Op.settleTask (t : Task) (state : Nat) : Op Unit := do
  let s ← get
  let ids := (s.cores.filter fun c => c.id.task = t.ref).map (·.id)
  set (ids.foldl State.foldSum s)
  Op.forEach (fun (id : CoreId) => Op.flushPending t.ref id.lcore) ids
  Op.recordTask t state
  modify fun s => ((ids.foldl State.foldMeter s).chargeTask t.ref).closeMeter t.ref

/-- RETIRE_TASK (R440); a failed or cancelled task takes steps 2, 3, 4 and 8 (R441). -/
def execRetireTask (task : Word) (s : State) : Host.Outcome State Fault Refusal :=
  runEvent (Op.whole (do
    let s ← get
    let t ← Op.get! (s.findTask task)
    Op.need (!s.headless && !s.unc.bankOps.any fun o => o.core.task = task)
    if t.phase = .running then
      Op.need (s.taskEnded t)
      let q := t.queue.toNat
      let clusters := (s.cores.filter fun c => c.id.task = task).map fun c => clusterOf c.slot
      modify fun s => clusters.foldl State.releaseCluster s
      Op.settleTask t tRETIRED
      let (_, n) ← Op.tcbState q t.tcb
      Op.putState q t.tcb tRETIRED n
      Op.successors q (t.word 0x28) ((t.word 0x30).bits 31 0) 0
    else
      Op.need (t.phase = .failed || t.phase = .cancelled)
      Op.settleTask t (if t.phase = .failed then tFAILED else tCANCELLED)
    modify fun s => s.releaseTask task)) s

end Sys2Proof.Machine
end

