-- ==== Sys2Proof/Machine/Snapshot.lean ====
section
/-! DEFINITION. The snapshot area of a task (R427, R428): its selector bits and its buffers. -/

namespace Sys2Proof.Machine

/-- The pieces of a range of offsets that lie within one frame each: start and length. -/
def framePieces : Nat → Nat → Nat → List (Nat × Nat)
  | 0, _, _ => []
  | fuel + 1, off, n =>
    if n = 0 then []
    else
      let k := min n (65536 - off % 65536)
      (off, k) :: framePieces fuel (off + k) (n - k)

/-- Where the pieces of a range of an object stand: place, offset from the range's start, length. `none` where the reference
does not resolve with the rights needed. -/
def Op.areaPlaces (q : Nat) (ref : Word) (n need : Nat) : Op (Option (List (HwPlace × Nat × Nat))) := do
  let o := refOffset ref
  let one (p : Nat × Nat) : Op (Option (HwPlace × Nat × Nat)) := do
    let r := ref + Word.ofN (p.1 - o)
    match (← Op.hwPlace q r p.2 need) with
    | some h => pure (if h.host then none else some (h, p.1 - o, p.2))
    | none => pure none
  let ps ← Op.collect one (framePieces (n / 65536 + 2) o n)
  pure (if ps.all (·.isSome) then some (ps.filterMap fun p => p) else none)

/-- The directory entries of the lines in a range of bank bytes. -/
def State.entriesIn (s : State) (addr n : Nat) : List DirEntry :=
  s.unc.directory.filter fun e => addr / 128 ≤ e.tag && e.tag < (addr + n + 127) / 128

/-- The coherent lines of a range brought back to the bank: every owner writes back (R335, R339). -/
def Op.gather (addr n : Nat) : Op Unit := do
  let s ← get
  let es := s.entriesIn addr n
  Op.need (!es.any fun e => e.state = .busy)
  set (es.foldl (init := s) fun (s : State) e => if e.state = .lost then s else s.recallEntry e)

/-- The LOST line of a range, if there is one: its reason (R343). -/
def State.lostIn (s : State) (addr n : Nat) : Option Nat :=
  ((s.entriesIn addr n).find? fun e => e.state = .lost).map (·.reason)

/-- Bytes [rel, rel + n) of an image written at bank address `addr`: tags of R284 and R330 clear, fresh check bits. -/
def State.areaStore (s : State) (addr rel n : Nat) (image : Memory) : State :=
  { s with unc := { s.unc with
      hbm := s.unc.hbm.blit addr image rel n
      anchors := s.unc.anchors.filter fun e => !(addr ≤ 128 * e.1 && 128 * e.1 < addr + n)
      mixed := s.unc.mixed.filter fun e => !(addr ≤ 8 * e.1 && 8 * e.1 < addr + n)
      bankFlips := s.unc.bankFlips.filter fun f => !(addr ≤ 8 * f.unit && 8 * f.unit < addr + n) } }

/-- The cause and reason for which the places of an area cannot be reached, if they cannot (R342, R343, R347). -/
def State.areaGone (s : State) (places : List (HwPlace × Nat × Nat)) : Option (Nat × Nat) :=
  match places.findSome? fun p => s.placeGone p.1 with
  | some e => some e
  | none => (places.findSome? fun p => s.lostIn p.1.bank p.2.2).map fun r => (cLOST, r)

/-- An image of `n` bytes written at a reference. -/
def Op.areaWrite (places : List (HwPlace × Nat × Nat)) (image : Memory) : Op Unit :=
  Op.forEach (fun p => do
    if p.1.desc.cls ≠ 0 then Op.gather p.1.bank p.2.2
    modify fun s => s.areaStore p.1.bank p.2.1 p.2.2 image) places

/-- The cause and reason for which an area cannot be read, or its bytes as the codes deliver them (R343, R414 to R421, R437). -/
def Op.areaRead (places : List (HwPlace × Nat × Nat)) : Op (Except (Nat × Nat) Memory) := do
  let s ← get
  match s.areaGone places with
  | some e => pure (.error e)
  | none =>
    Op.forEach (fun p => if p.1.desc.cls ≠ 0 then Op.gather p.1.bank p.2.2 else pure ()) places
    let found ← Op.collect (fun p => Op.verifyBank p.1.reader p.1.off p.1.bank p.2.2 2) places
    if found.any (·.isSome) then pure (.error (cSTRUCT, 0))
    else
      let s ← get
      pure (.ok (places.flatMap fun p =>
        ((s.settled p.1.reader p.1.off p.1.bank p.2.2).unc.hbm.slice p.1.bank p.2.2).map
          fun e => (e.1 - p.1.bank + p.2.1, e.2)))

/-- The pair number of a logical core (R427). -/
def Task.pair (t : Task) (id : CoreId) : Nat := if t.twin then 2 * id.lcore + id.copy else id.lcore

/-- The reference of a pair's buffer (R427). -/
def Task.buffer (t : Task) (id : CoreId) (b : Nat) : Word :=
  t.word 0x78 + Word.ofN (0x4000 + 0x2C0000 * t.pair id + Config.imageBytes * b)

/-- The selector bit of a pair: the buffer that holds the snapshot in force (R427). -/
def Op.selector (t : Task) (id : CoreId) : Op Nat := do
  let p := t.pair id
  let w ← Op.hwRead t.queue.toNat (t.word 0x78 + Word.ofN (8 * (p / 64))) rightR
  pure ((w.getD 0).toNat / 2 ^ (p % 64) % 2)

/-- The selector bit flipped (R428). -/
def Op.flipSelector (t : Task) (id : CoreId) : Op Unit := do
  let p := t.pair id
  let ref := t.word 0x78 + Word.ofN (8 * (p / 64))
  let w ← Op.hwRead t.queue.toNat ref rightR
  Op.hwPut t.queue.toNat ref (w.getD 0 ^^^ (1#64 <<< (p % 64)))

/-- SNAPSHOT_CAPTURE (R428) of the logical core in focus: the complete image goes into the buffer that the selector does not
name. Its unfolded digest contributions move to the pending entry, so that they stand with the snapshot (R443). -/
def Op.capture : Op Unit := do
  let s ← get
  match s.findTask s.core.id.task with
  | none => pure ()
  | some t =>
    let id := s.core.id
    let sel ← Op.selector t id
    let ref := t.buffer id (1 - sel)
    let a : Acc := ⟨ref, Config.imageBytes, 0xF, 1, 0⟩
    Op.checkAccess (s.self 5) a (rightR + rightW)
    match (← Op.areaPlaces t.queue.toNat ref Config.imageBytes (rightR + rightW)) with
    | none => Op.accTrap cHANDLE a 0
    | some places =>
      let s ← get
      match s.areaGone places with
      | some (cause, r) => if cause = cLOST then Op.trap cLOST ref (Word.ofN r) else Op.accTrap cause a r
      | none =>
        modify fun s => s.foldSum id
        let s ← get
        let ended := { s.core with ctx := s.ctx.advance .next }
        Op.areaWrite places (ended.capture s.unc.spills)

end Sys2Proof.Machine
end

