-- ==== Sys2Proof/Machine/Barrier.lean ====
section
/-! DEFINITION. Barrier channels (R349 to R366): phases, snapshot phases, and the barrier instructions. -/

namespace Sys2Proof.Machine

/-! ### Records -/

def Barrier.member (b : Barrier) (lcore : Nat) : Option Member := b.members.find? fun m => m.lcore = lcore

def Barrier.mapMember (b : Barrier) (lcore : Nat) (f : Member → Member) : Barrier :=
  { b with members := b.members.map fun m => if m.lcore = lcore then f m else m }

/-- Whether two records are of one block and channel. -/
def Barrier.same (a b : Barrier) : Bool :=
  a.task = b.task && a.copy = b.copy && a.chan = b.chan && a.group = b.group

def State.putBarrier (s : State) (b : Barrier) : State :=
  { s with unc := { s.unc with barriers := s.unc.barriers.map fun x => if x.same b then b else x } }

/-- The latest value of a record. -/
def State.sameBarrier (s : State) (b : Barrier) : Option Barrier := s.unc.barriers.find? fun x => x.same b

/-- What a record keeps at the completion of a snapshot phase (R428). -/
def Barrier.phase (b : Barrier) : Phase := ⟨b.members, b.gp, b.broken, b.reason, b.snapPhase, b.mixed⟩

/-- A record set back to what it kept (R430 step 4). -/
def Barrier.restore (b : Barrier) (p : Phase) : Barrier :=
  { b with members := p.members, gp := p.gp, broken := p.broken, reason := p.reason, snapPhase := p.snapPhase,
           mixed := p.mixed }

/-- The members of a block that are placed on this package. -/
def State.blockCores (s : State) (b : Barrier) : List LCore :=
  b.members.filterMap fun m => s.findCore ⟨b.task, m.lcore, b.copy⟩

/-- The number of a logical core's window group in its grid (R97). -/
def LCore.windowGroup (c : LCore) : Nat := c.regs.lcore / (max 1 c.regs.lx) * 16 + c.regs.lcore % (max 1 c.regs.lx) / 16

/-- The scope of a block's synchronisation: the narrowest whose instance holds every member as placed (R311, R357). -/
def State.blockScope (s : State) (b : Barrier) : Nat :=
  let l := s.blockCores b
  let same (f : LCore → Nat) : Bool := match l with
    | [] => true
    | c :: cs => cs.all fun d => f d = f c
  if b.members.length ≤ 1 then 1
  else if same LCore.windowGroup && l.length = b.members.length then 2
  else if l.length < b.members.length then 5
  else if same (fun c => dieOf c.slot) then 3 else 4

/-! ### Phases (R352, R359) -/

/-- Whether a member counts as arrived in the phase in progress: its arrival has been signalled, or it has departed with every
arrival of its own signalled (R352, R357). -/
def Barrier.counts (b : Barrier) (m : Member) : Bool := m.signalled = b.gp + 1 || (m.departed && m.signalled = m.lp)

/-- Whether every member counts as arrived, and some member has not departed. -/
def Barrier.full (b : Barrier) : Bool :=
  !b.broken && b.members.any (fun m => !m.departed) && b.members.all b.counts

/-- The members that have not departed. -/
def Barrier.present (b : Barrier) : List Member := b.members.filter fun m => !m.departed

/-- The record after a phase has completed. -/
def Barrier.complete (b : Barrier) : Barrier :=
  let snap := b.present.all (·.snap)
  let none_ := b.present.all fun m => !m.snap
  let b := { b with
    gp := b.gp + 1
    snapPhase := snap
    mixed := !snap && !none_
    everSnap := b.everSnap || snap
    retry := if snap then 0 else b.retry
    members := b.members.map fun m => { m with captured := false } }
  if snap then { b with kept := some b.phase } else b

/-- Whether the block of `a` lies within that of `b`. -/
def Barrier.inside (a b : Barrier) : Bool :=
  a.task = b.task && a.copy = b.copy && a.members.all fun m => b.members.any fun n => n.lcore = m.lcore

/-- What a completed snapshot phase brings with it for one member (R428, R443): its selector bit flips, its pending digest
entry goes to the TCB, and its arrivals are counted from its capture. -/
def Op.takeSnapshot (t : Task) (b : Barrier) (m : Member) : Op Unit := do
  let id : CoreId := ⟨b.task, m.lcore, b.copy⟩
  Op.flipSelector t id
  Op.flushPending b.task m.lcore
  modify fun s => s.mapCore id fun c => { c with arrivedChans := c.sinceCapture, retry := 0 }

/-- The members whose arrival in the phase in progress carries a rollback request, and the contexts that arrived: one that has departed
since is among them (R423). -/
def Barrier.requesters (b : Barrier) : List (Nat × Nat) :=
  b.members.filterMap fun m => if m.signalled = b.gp + 1 then m.request.map fun n => (m.lcore, n) else none

/-- PHASE_COMPLETE (R352, R359, R423): the phase in progress completes if every member has arrived; arrivals that carry a
rollback request trigger the rollback of the block instead, by the lowest of the members that carry one. During a takeover
it waits for the takeover's end (R350). -/
def Op.phaseComplete (b : Barrier) : Op Unit := do
  let s ← get
  if !b.full || s.pkg.takeover then pure ()
  else match b.requesters with
    | m :: ms =>
      let lead := ms.foldl (fun x y => if y.1 < x.1 then y else x) m
      modify fun s => s.mapCore ⟨b.task, lead.1, b.copy⟩ fun c =>
        if c.rollbackDue.isSome then c else { c with rollbackDue := some .deferred, rollbackBy := lead.2 }
    | [] =>
      let b' := b.complete
      modify fun s => s.putBarrier b'
      let s ← get
      match (if b'.snapPhase then s.findTask b.task else none) with
      | none => pure ()
      | some t =>
        Op.forEach (Op.takeSnapshot t b) b.present
        let keep (x : Barrier) : Barrier := if !x.same b && x.inside b then { x with kept := some x.phase } else x
        modify fun s => { s with unc := { s.unc with barriers := s.unc.barriers.map keep } }

/-- Whether BRST's reset is due: every member that has not departed has asked for it (R362). -/
def Barrier.resetDue (b : Barrier) : Bool :=
  b.members.any (fun m => m.reset && !m.departed) && b.members.all fun m => m.departed || m.reset

/-- A record after BRST's reset (R362). What it keeps for the snapshot of a larger block stays; its own snapshot is released. -/
def Barrier.afterReset (b : Barrier) : Barrier :=
  { b with
    gp := 0
    broken := false
    reason := 0
    snapPhase := false
    mixed := false
    everSnap := false
    kept := if b.everSnap then none else b.kept
    resets := b.resets + 1
    members := b.members.map fun m =>
      { m with lp := 0, signalled := 0, snap := false, request := none, captured := false, reset := false } }

/-- A record put in its place, reset where that is due; with its snapshot go the records that it keeps of smaller blocks. -/
def State.putReset (s : State) (b : Barrier) : State :=
  if !b.resetDue then s.putBarrier b
  else
    let s := s.putBarrier b.afterReset
    let drop (x : Barrier) : Barrier := if !x.same b && x.inside b then { x with kept := none } else x
    if b.everSnap then { s with unc := { s.unc with barriers := s.unc.barriers.map drop } } else s

/-- A logical core departs from its blocks when its context 0 ends (R352, R176). -/
def Op.depart (id : CoreId) : Op Unit := do
  let s ← get
  let c ← Op.get! (s.findCore id)
  Op.forEach (fun n => do
    let s ← get
    match s.findBarrier c n with
    | none => pure ()
    | some b =>
      set (s.putReset (b.mapMember c.id.lcore fun m => { m with departed := true }))
      let s ← get
      match s.sameBarrier b with
      | some b => Op.phaseComplete b
      | none => pure ()) ((List.range 4).filter fun n => c.chanOn n)

/-! ### Instructions -/

/-- The barrier event of the context in focus (R365). -/
def Op.raiseBarrier (b : Barrier) : Op Unit :=
  Op.modCtx fun c => c.raiseBroken 0 (Word.ofN (b.reason.toNat * 2 ^ 16 + b.chan.toNat * 2 ^ 8 + 1))

/-- The record and the member of the core in focus on a channel that it uses (R354). -/
def Op.channel (n : BitVec 2) : Op (Barrier × Member) := do
  let s ← get
  if !s.core.chanOn n.toNat then Op.trap cILL 0 (Word.ofN (0x10 + n.toNat))
  else
    let b ← Op.get! (s.findBarrier s.core n.toNat)
    let m ← Op.get! (b.member s.core.regs.lcore)
    pure (b, m)

/-- No engine command of any context of the core has its token outstanding, and no result of a special-function request
or other pending write of a register that a save waits for (R355, R404 step 2). -/
def LCore.quiet (c : LCore) : Bool :=
  c.mx.queue = [] && c.mx.running.isNone && c.copies.queue = [] && c.copies.flight = [] && c.coll = [] &&
  (c.slots.toList.all fun x => !x.isOpen) && c.ctxs.all fun x => x.sfuOut = 0 && x.pendV = 0

/-- Whether an arrival of the core in focus on its snapshot channel carries a rollback request (R423). -/
def State.requests (s : State) (n : BitVec 2) : Bool :=
  let total := (s.core.ctxs.map fun c => c.sys.deferred.toNat).foldl (fun x y => x + y) 0
  s.snapTask && s.core.snapChan = some n && s.ctx.sys.sevpol.getLsbD 2 && s.ctx.sys.sevpol.bits 15 8 < total

/-- ARRIVE with or without .snap (R355, R357). -/
def Op.arrive (n : BitVec 2) (snap : Bool) : Op Unit := do
  let (b, m) ← Op.channel n
  if b.broken then Op.raiseBarrier b
  else
    Op.need (m.lp = b.gp)
    let s ← get
    let on := snap && s.snapTask && (s.core.snapChan.isNone || s.core.snapChan = some n)
    if on then
      if s.ctx.num ≠ 0 || s.core.others.any (fun c => c.live) then Op.trap cILL 0 (Word.ofN (0x20 + n.toNat))
      Op.need s.core.quiet
    match s.bankReport (s.blockScope b) with
    | some r => Op.takeReport r
    | none => pure ()
    Op.twinBoth [0x15, n.toNat, on.toNat] (do
      if on then
        Op.modCore fun c => { c with snapChan := some n }
        Op.capture
        Op.modCore fun c => { c with sinceCapture := 0 }
      let s ← get
      let req := if s.requests n then some s.ctx.num else none
      set (s.putBarrier (b.mapMember m.lcore fun m =>
        { m with lp := m.lp + 1, scope := s.blockScope b, snap := on, captured := on, request := req }))
      let bit : BitVec 4 := 1#4 <<< n.toNat
      Op.modCore fun c => { c with arrivedChans := c.arrivedChans ||| bit, sinceCapture := c.sinceCapture ||| bit })

/-- ARRIVE (R355). -/
def execArrive (n : BitVec 2) (s : State) : Host.Outcome State Fault Refusal :=
  performNext (.arrive n) (Op.arrive n false) s

/-- ARRIVE.snap (R355, R427). -/
def execArriveSnap (n : BitVec 2) (s : State) : Host.Outcome State Fault Refusal :=
  performNext (.arriveSnap n) (Op.arrive n true) s

/-- ARRIVAL_SIGNAL (R355, R357): the arrival counts once its release is complete: the core's reductions within the scope
are done and, from die scope on, its cluster's dirty class-0 bytes are written back. -/
def execArrivalSignal (core : CoreId) (chan : BitVec 2) (s : State) : Host.Outcome State Fault Refusal :=
  runEvent (Op.whole (do
    let s ← get
    let c ← Op.get! (s.findCore core)
    let b ← Op.get! (s.findBarrier c chan.toNat)
    let m ← Op.get! (b.member core.lcore)
    Op.need (m.lp ≠ m.signalled)
    Op.need (!s.unc.bankOps.any fun o => o.core = core && !o.far && (s.focusCore core).siteIn m.scope o.site)
    if 3 ≤ m.scope then modify fun s => s.releaseCluster (clusterOf c.slot)
    let b := b.mapMember m.lcore fun m => { m with signalled := m.lp }
    modify fun s => s.putBarrier b
    Op.phaseComplete b)) s

/-- WAIT (R356, R357, R423). One that observes a break has acquired the release of the BSET that made it (R361). -/
def execWait (d : BitVec 6) (n : BitVec 2) (s : State) : Host.Outcome State Fault Refusal :=
  performNext (.wait d n) (do
    Op.freeG d
    let (b, m) ← Op.channel n
    if m.lp = b.gp then
      Op.writeG d (if b.mixed then 2 else 0)
      let s ← get
      if b.gp ≠ 0 && (!s.snapTask || s.core.snapChan = some n) then
        Op.modCore fun c => c.mapCtxs fun x => { x with sys := { x.sys with deferred := 0 } }
      Op.acquire (max m.scope (s.blockScope b))
    else
      Op.need b.broken
      Op.writeG d 1
      Op.raiseBarrier b
      let s ← get
      Op.acquire (max m.scope (s.blockScope b))) s

/-- The word that BSTAT reads (R358). -/
def Barrier.statWord (b : Barrier) (m : Member) : Word :=
  Word.ofN (2 ^ 63 + b.broken.toNat * 2 ^ 62 + (decide (m.lp ≠ b.gp)).toNat * 2 ^ 61 + b.snapPhase.toNat * 2 ^ 60 +
    m.lp.toNat % 2 ^ 16 * 2 ^ 32 + b.gp.toNat % 2 ^ 16 * 2 ^ 16 + b.reason.toNat * 2 ^ 8)

/-- BSTAT (R358). -/
def execBstat (d : BitVec 6) (n : BitVec 2) (s : State) : Host.Outcome State Fault Refusal :=
  performNext (.bstat d n) (do
    let c ← Op.core
    if c.chanOn n.toNat then
      let (b, m) ← Op.channel n
      Op.writeG d (b.statWord m)
    else Op.writeG d 0) s

/-- BSET (R361): a release of ARRIVE's scope, then the break; the first reason stands. -/
def execBset (a : BitVec 6) (n : BitVec 2) (s : State) : Host.Outcome State Fault Refusal :=
  performNext (.bset a n) (do
    let x ← Op.readG a
    let (b, _) ← Op.channel n
    let s ← get
    Op.releaseWait (s.blockScope b)
    Op.twinBoth [0x15, 3, n.toNat, x.bits 6 0] (do
      Op.release (s.blockScope b)
      modify fun s => s.putBarrier (b.break_ (0x80 + x.bits 6 0)))) s

/-- Whether the core in focus stalls in an ARRIVE on a channel: its previous arrival is pending (R355). -/
def State.arriveStalls (s : State) (n : BitVec 2) : Bool :=
  s.core.chanOn n.toNat && (s.findBarrier s.core n.toNat).any fun b =>
    !b.broken && (b.member s.core.regs.lcore).any fun m => m.lp ≠ b.gp

/-- Whether the context in focus stalls in a BRST: its request has been recorded, and the reset has not been made (R362). -/
def State.brstStalls (s : State) (n : BitVec 2) : Bool :=
  s.ctx.progress.isSome && s.core.chanOn n.toNat && (s.findBarrier s.core n.toNat).any fun b => s.ctx.progress = some b.resets

/-- Whether a word stalls the contexts that issue together with the one in focus: in any of them (R156). -/
def State.gangStalls (s : State) (stalls : State → Bool) : Bool := s.together.any fun id => stalls (s.focus id s.ctx.num)

/-- BRST (R362): the request is recorded, and the word completes when a reset has been made since; the resets made before are the
context's progress. -/
def execBrst (n : BitVec 2) (s : State) : Host.Outcome State Fault Refusal :=
  performNext (.brst n) (do
    let (b, m) ← Op.channel n
    let c ← Op.ctx
    match c.progress with
    | some k => Op.need (b.resets ≠ k)
    | none =>
      modify fun s => s.putReset (b.mapMember m.lcore fun m => { m with reset := true })
      Op.modCtx fun c => { c with progress := some b.resets }
      Op.block) s

end Sys2Proof.Machine
end

