-- ==== Sys2Proof/Machine/Launch.lean ====
section
/-! DEFINITION. Launching (R76 to R83, R191 to R194): LAUNCH, DEPDEC, TCBQ, the host append window, queues enabled and
disabled, the dispatcher's copy of a queue header; and partition reset and cancellation (R91 to R95). -/

namespace Sys2Proof.Machine

/-! ### LAUNCH, DEPDEC, TCBQ (R191 to R194) -/

/-- LAUNCH's append (R192): t goes to the queue that its own queue field names. -/
def Op.launch (who : Requester) (q : Nat) (t : Word) : Op Nat := do
  if !(← Op.validTcb q t) then pure 5
  else
    let w ← Op.tcbWord q t 0x30
    Op.append who q (some q) t (w.bits 47 32)

/-- DEPDEC's decrement (R193). -/
def Op.depdec (who : Requester) (q : Nat) (t : Word) : Op Nat := do
  if !(← Op.validTcb q t) then pure 5
  else
    let to_ := (← Op.tcbWord q t 0x30).bits 47 32
    let s ← get
    if to_ < 64 && !(s.queue to_).launchers.getLsbD q then pure 4
    else Op.decrement who errorChainBound q t

/-- LAUNCH (R192): a release at sys scope, then the append; the header's line comes to the core's cluster (R79, R340). -/
def execLaunch (d a : BitVec 6) (s : State) : Host.Outcome State Fault Refusal :=
  performNext (.launch d a) (do
    let t ← Op.readG a
    Op.freeG d
    Op.releaseWait 5
    let s ← get
    let r ← Op.twinWord [0x26, 0, t.toNat] (do
      Op.release 5
      return Word.ofN (← Op.whole (Op.launch (.cluster (clusterOf s.core.slot)) s.core.regs.queue.toNat t)))
    Op.writeG d r) s

/-- DEPDEC (R193): a release at sys scope, then the decrement. -/
def execDepdec (d a : BitVec 6) (s : State) : Host.Outcome State Fault Refusal :=
  performNext (.depdec d a) (do
    let t ← Op.readG a
    Op.freeG d
    Op.releaseWait 5
    let s ← get
    let r ← Op.twinWord [0x26, 1, t.toNat] (do
      Op.release 5
      return Word.ofN (← Op.whole (Op.depdec (.cluster (clusterOf s.core.slot)) s.core.regs.queue.toNat t)))
    Op.writeG d r) s

/-- TCBQ (R191, R194): word 0x20 with acquire order at sys scope. -/
def execTcbq (d a : BitVec 6) (s : State) : Host.Outcome State Fault Refusal :=
  performNext (.tcbq d a) (do
    let t ← Op.readG a
    Op.freeG d
    let s ← get
    let q := s.core.regs.queue.toNat
    let r ← Op.twinWord [0x26, 2, t.toNat] (Op.whole (do
      if (← Op.validTcb q t) then Op.tcbWord q t 0x20 else pure (BitVec.allOnes 64)))
    Op.acquire 5
    Op.writeG d r) s

/-! ### Queues (R76, R77, R79, R80, R82) -/

/-- What the package's own hardware does, tried: `none` where it has to wait, with nothing done but its requests. -/
def Op.tried {α : Type} (op : Op α) : Op (Option α) := fun s =>
  match op s with
  | .ok (a, s') => .ok (some a, s')
  | .error (.block t) => .ok (none, s.withRequestsOf t)
  | .error _ => .ok (none, s)

/-- An append of the host to queue `q`, as far as it gets: its result, or the append stays under way (R82). -/
def Op.hostAppend (q : Nat) (t : Word) : Op Unit := do
  match (← Op.tried (Op.append .bank q none t q)) with
  | some r => modify fun s => s.mapQueue q fun x => { x with hostAppend := none, hostResult := BitVec.ofNat 3 r }
  | none => modify fun s => s.mapQueue q fun x => { x with hostAppend := some t }

/-- HOST_APPEND (R82, R453): a host write that touches the first 8 bytes of a queue's slot runs an append if it is exactly those
8 bytes and no append to the queue is under way, and makes the result 6 if not (log entry 73). Writes to the other bytes are
ignored. -/
def execHostAppend (off : BitVec 12) (size : Nat) (t : Word) (s : State) : Host.Outcome State Fault Refusal :=
  runEvent (do
    let s ← get
    Op.need (s.pkg.hostUp && !s.headless)
    let q := off.toNat / 64
    if size = 0 then
      let t ← Op.get! (s.queue q).hostAppend
      Op.hostAppend q t
    else if off.toNat % 64 = 0 && size = 8 && (s.queue q).hostAppend.isNone then Op.hostAppend q t
    else
      let touched := (List.range 64).filter fun q => off.toNat < 64 * q + 8 && 64 * q < off.toNat + size
      set (touched.foldl (init := s) fun (s : State) q => s.mapQueue q fun x => { x with hostResult := 6 })) s

/-- Whether the dispatcher has the header line of a queue (R76). -/
def State.sharesHeader (s : State) (q : Nat) : Bool := (s.dirEntry (s.headerTag q)).dispatcher

/-- The dispatcher takes the header line of a queue shared and reads it (R76, R79); the entry is pinned (R333). -/
def Op.shareHeader (q : Nat) : Op Unit := do
  let s ← get
  let tag := s.headerTag q
  match (← Op.dirRequest .dispatcher false tag) with
  | some _ => Op.stall
  | none => modify fun s =>
    (s.putEntry { s.dirEntry tag with pinned := true }).mapQueue q fun x => { x with seenHead := x.head, seenTail := x.tail }

/-- QUEUE_ENABLE (R77): EN := 1; a STOPPED queue becomes ACTIVE. The dispatcher takes the header line shared, now or when the
directory lets it (R76). -/
def execQueueEnable (q : BitVec 6) (s : State) : Host.Outcome State Fault Refusal :=
  runEvent (do
    let s ← get
    set (s.mapQueue q.toNat fun x => { x with en := true, status := if x.status = .stopped then .active else x.status })
    if !s.headless then discard (Op.tried (Op.shareHeader q.toNat))) s

/-- QUEUE_DISABLE (R77): EN := 0; an ACTIVE queue becomes STOPPED. -/
def execQueueDisable (q : BitVec 6) (s : State) : Host.Outcome State Fault Refusal :=
  runEvent (modify fun s => s.mapQueue q.toNat fun x => { x with
    en := false
    status := if x.status = .active then .stopped else x.status }) s

/-- DISPATCHER_WAKEUP (R79): the invalidated header line is read again. -/
def execDispatcherWakeup (q : BitVec 6) (s : State) : Host.Outcome State Fault Refusal :=
  runEvent (Op.whole (do
    let s ← get
    Op.need ((s.queue q.toNat).en && !s.sharesHeader q.toNat && !s.headless)
    Op.shareHeader q.toNat)) s

/-- The dispatcher's 16-byte update of a header (R80): it takes the line in M, writes it, and keeps it in S, pinned (R333, R335,
R340). -/
def Op.ownHeader (q : Nat) : Op Unit := do
  let s ← get
  let tag := s.headerTag q
  match (← Op.dirRequest .dispatcher true tag) with
  | some _ => Op.stall
  | none => modify fun s => s.putEntry { s.dirEntry tag with state := .shared, pinned := true }

/-- The queue's first TCB removed (R80): the pair (head, tail) where it is the last; else the head moves to its link, which is not 0:
a head whose link is 0 while the tail names another TCB is not reached (`Op.clearHead`). -/
def Op.popHead (q : Nat) : Op Unit := do
  let s ← get
  let x := s.queue q
  Op.ownHeader q
  if x.tail = x.head then
    modify fun s => s.mapQueue q fun x => { x with head := 0, tail := 0, seenHead := 0, seenTail := 0 }
  else
    let next ← Op.tcbWord q x.head 0
    Op.need (next ≠ 0)
    modify fun s => s.mapQueue q fun x => { x with head := next, seenHead := next }

/-- DISPATCHER_LINK_CHANGE (R80): the link that the dispatcher waits for has been written, and the queue admits again. -/
def execDispatcherLinkChange (q : BitVec 6) (s : State) : Host.Outcome State Fault Refusal :=
  runEvent (do
    let s ← get
    let x := s.queue q.toNat
    Op.need (x.waitLink && !s.headless)
    let next ← Op.tcbWord q.toNat x.head 0
    Op.need (next ≠ 0)
    modify fun s => s.mapQueue q.toNat fun x => { x with waitLink := false }) s

/-- The link position of a linked TCB (R445), taken from the queue's list. -/
def Op.takePosition (q : Nat) (t : Word) : Op Nat := do
  let s ← get
  match (s.chain q).positions.find? fun p => p.1 = t with
  | none => pure 0
  | some p =>
    set (s.mapChain q fun c => { c with positions := c.positions.filter fun x => x ≠ p })
    pure p.2

/-! ### Tasks stopped by the dispatcher (R91 to R95) -/

/-- The copies in flight of a task cancelled at row boundaries as by CPYC, without tokens (R92, step 3). -/
def Op.cancelCopies (ref : Word) : Op Unit := do
  let s ← get
  Op.forEach (fun (c : LCore) => Op.forEach (fun (e : CopyRun × Nat) => discard (Op.copyCancel c.id e.2 e.1))
    c.copies.flight.zipIdx) (s.cores.filter fun c => c.id.task = ref)

/-- Whether a context of a task stands between two words of an issue group, where no stop from outside it is taken (R134). -/
def State.midGroup (s : State) (ref : Word) : Bool :=
  s.cores.any fun c => c.id.task = ref && c.ctxs.any fun x => x.live && x.pfx.isSome

/-- A running task stopped for good and CANCELLED: steps 2 to 8 of R92, with step 9's release of its placement. `einfo` is
EINFO of its error record. -/
def Op.cancelRunning (ref : Word) (einfo : Nat) : Op Unit := do
  let s ← get
  match s.findTask ref with
  | none => pure ()
  | some t =>
    Op.need (!s.midGroup ref)
    let phases := s.superstepOf ref
    Op.cancelCopies ref
    modify fun s => s.killTask ref
    let q := t.queue.toNat
    let (_, n) ← Op.tcbState q t.tcb
    Op.putState q t.tcb tCANCELLED n
    Op.errorOutcome q (t.word 0x70) ⟨Word.ofN cWDOG, 0, Word.ofN einfo, 0, t.word 0x40, phases⟩
    Op.settleTask t tCANCELLED
    modify fun s => s.releaseTask ref

/-- A task's watchdog budget in µs; 0 for none (R91). -/
def State.budget (s : State) (t : Task) : Nat :=
  if (t.word 0x48).bits 63 32 ≠ 0 then (t.word 0x48).bits 63 32 else (s.queue t.queue.toNat).watchdog.toNat

/-- WATCHDOG_EXPIRY (R91) and the partition reset that it brings (R92), in three steps: the queue is DRAINING; every RUNNING
task of the queue is cancelled, and the queue is RESETTING; the queue is ACTIVE again, or STOPPED, and firmware is told. -/
def execWatchdogExpiry (task : Word) (s : State) : Host.Outcome State Fault Refusal :=
  runEvent (Op.whole (do
    let s ← get
    Op.need !s.headless
    match (List.range 64).find? fun q => (s.queue q).expired = some task with
    | none =>
      let t ← Op.get! (s.findTask task)
      Op.need (t.phase = .running && s.budget t ≠ 0 && s.budget t ≤ t.watch && (s.queue t.queue.toNat).expired.isNone)
      set (s.mapQueue t.queue.toNat fun x => { x with status := .draining, expired := some task })
    | some q =>
      if (s.queue q).status ≠ .resetting then
        let mine := (s.disp.tasks.filter fun x => x.queue.toNat = q && x.isRunning).map (·.ref)
        Op.forEach (fun r => Op.cancelRunning r (if r = task then 1 else 0)) mine
        modify fun s => s.mapQueue q fun x => { x with status := .resetting }
      else
        modify fun s =>
          let s := s.mapQueue q fun x => { x with
            status := if x.en then .active else .stopped
            expired := none
            resets := if x.resets = BitVec.allOnes 16 then x.resets else x.resets + 1 }
          { s with pkg := { s.pkg with firmware := s.pkg.firmware ++ [FwEvent.wdog (BitVec.ofNat 6 q)] } }.msix 1)) s

/-- The queue through whose object table the cancel register judges a reference (R78, R95): that of the task that has it, else
of the queue on whose list it stands, else the lowest for which it is a valid TCB location. -/
def Op.cancelQueue (t : Word) : List Nat → Op (Option Nat)
  | [] => pure none
  | q :: qs => do
    if (← Op.validTcb q t) then pure (some q) else Op.cancelQueue t qs

def Op.queueOf (t : Word) : Op (Option Nat) := do
  let s ← get
  match (s.disp.tasks.filter fun x => x.tcb = t).map fun x => x.queue.toNat with
  | [] =>
    let listed := (List.range 64).filter fun q => (s.chain q).positions.any fun p => p.1 = t
    Op.cancelQueue t (listed ++ List.range 64)
  | qs => Op.cancelQueue t (sortBy (fun a b => a < b) qs)

/-- A TCB that is not running becomes CANCELLED, with its error outcome (R95). -/
def Op.cancelIdle (q : Nat) (t rec0 step : Word) (n : Nat) : Op Unit := do
  let s ← get
  let phases := s.superstepOf (taskKey q t)
  Op.putState q t tCANCELLED n
  Op.errorOutcome q rec0 ⟨Word.ofN cWDOG, 0, 2, 0, step, phases⟩

/-- The cancellation of one TCB (R95): the result. -/
def Op.cancel (t : Word) : Op Nat := do
  match (← Op.queueOf t) with
  | none => pure 2
  | some q =>
    let (st, n) ← Op.tcbState q t
    let s ← get
    let rec0 ← Op.tcbWord q t 0x70
    match s.findTask (taskKey q t) with
    | some x =>
      if x.isRunning then
        Op.cancelRunning x.ref 2
        pure 0
      else if x.phase = .preempted || (x.phase = .held && x.binds ≠ []) then
        Op.cancelIdle q t (x.word 0x70) (x.word 0x40) n
        Op.settleTask x tCANCELLED
        modify fun s => s.releaseTask x.ref
        pure 0
      else if x.phase = .held && st = tREADY then
        Op.cancelIdle q t rec0 0 n
        modify fun s => { s with disp := { s.disp with tasks := s.disp.tasks.filter fun y => y.ref ≠ x.ref } }
        pure 0
      else pure 1
    | none =>
      if st = tIDLE || st = tWAITING || st = tREADY then
        Op.cancelIdle q t rec0 0 n
        pure 0
      else pure 1

/-- CANCEL_TASK (R95): a write of the cancel register, ignored while a cancellation is in progress; of the same reference then,
the cancellation goes on. -/
def execCancelTask (t : Word) (s : State) : Host.Outcome State Fault Refusal :=
  runEvent (do
    let s ← get
    Op.need !s.headless
    if s.disp.cancelBusy && s.disp.cancelTask ≠ t then pure ()
    else
      set { s with disp := { s.disp with cancelTask := t, cancelBusy := true } }
      match (← Op.tried (Op.cancel t)) with
      | some r => modify fun s => { s with disp := { s.disp with cancelBusy := false, cancelResult := BitVec.ofNat 3 r } }
      | none => pure ()) s

end Sys2Proof.Machine
end

