-- ==== Sys2Proof/Machine/Placement.lean ====
section
/-! DEFINITION. Binding logical cores to task cores (R96 to R108, R113, R114), and the first placement of a logical core
(R99, R101, R118). -/

namespace Sys2Proof.Machine

/-! ### A grid (R96, R97) -/

/-- What placement takes from a TCB: grid, gang, helpers, copies. -/
structure Grid where
  lx : Nat
  ly : Nat
  gang : Nat
  helpers : Nat
  copies : Nat
  deriving DecidableEq, Repr

def gridOf (words : List Word) : Grid :=
  let w := words.getD 2 0
  ⟨w.bits 15 0, w.bits 31 16, w.bits 39 32, w.bits 47 40, if w.getLsbD 50 then 2 else 1⟩

def Grid.cores (g : Grid) : Nat := g.lx * g.ly

/-- The gangs of a grid's window groups in order, each as the LCOREs of its members; one list per window group (R97). -/
def Grid.groups (g : Grid) : List (List (List Nat)) :=
  (List.range g.ly).flatMap fun y =>
    (List.range ((g.lx + 15) / 16)).map fun k =>
      let width := min 16 (g.lx - 16 * k)
      (List.range (width / g.gang)).map fun j =>
        (List.range g.gang).map fun i => y * g.lx + 16 * k + j * g.gang + i

/-- The window groups in order, each with the copies of it that are bound on this package: all but those that another package has
granted (R106). -/
def Grid.unitsHere (g : Grid) (away : List Nat) : List (List (List Nat) × List Nat) :=
  g.groups.zipIdx.map fun e => (e.1, (List.range g.copies).filter fun k => !away.contains (e.2 * g.copies + k))

/-! ### Slots (R19, R102, R113) -/

/-- Whether a task core may be bound: its die is in service and not fenced, and the core is neither harvested nor
fenced. -/
def State.usable (s : State) (slot : Nat) : Bool :=
  slot < 2048 && (s.die (dieOf slot)).ready && s.fenceLevel (dieOf slot) = 0 && !s.disp.harvested.contains slot &&
    !s.disp.unusable.contains slot

/-- The slicing depth M (R104). -/
def State.depth (s : State) : Nat := s.disp.placeCtl.bits 21 16 + 1

/-- Whether a queue is a test queue (R438). -/
def State.testQueue (s : State) (q : Nat) : Bool := s.disp.testMask.getLsbD q

/-- The slots of this package to which the logical cores of a task are bound. -/
def State.slotsOf (s : State) (t : Task) : List Nat :=
  (t.binds.filter fun b => b.valid && b.package = s.pkg.address).map (·.slot)

/-- What the tasks other than those of a list, and cores held for other packages (R106), bind, as a list of slots with repeats. A
slot bound for a test task counts as full: no admission shares it (R438). -/
def State.slotsBut (s : State) (gone : List Word) : List Nat :=
  ((s.disp.tasks.filter fun t => !gone.contains t.ref).flatMap fun t =>
    if s.testQueue t.queue.toNat then (s.slotsOf t).flatMap fun x => List.replicate s.depth x else s.slotsOf t) ++
    s.disp.foreign.flatMap (·.slots)

def State.boundSlots (s : State) : List Nat := s.slotsBut []

def loadAt (held : List Nat) (slot : Nat) : Nat := held.count slot

/-- The slots of a run of `g` cores. -/
def runSlots (base g : Nat) : List Nat := (List.range g).map fun i => base + i

/-- How many gangs a run carries. Where gangs of other sizes overlap it R103 does not say how they count: the model takes the greatest
number of logical cores bound to any one core of the run (log entry 90). -/
def runLoad (held : List Nat) (base g : Nat) : Nat :=
  (runSlots base g).foldl (fun m x => max m (loadAt held x)) 0

/-- The runs of a cluster that may take a gang of `g` cores: the slots of their first cores (R102). -/
def runsOf (ok : Nat → Bool) (cluster g : Nat) : List Nat :=
  ((List.range (16 / g)).map fun i => 16 * cluster + i * g).filter fun b => (runSlots b g).all ok

def State.runs (s : State) (cluster g : Nat) : List Nat := runsOf s.usable cluster g

/-- The runs of a cluster among which one is chosen for a gang: an empty one where there is one, else those below depth M (R103). -/
def runChoices (ok : Nat → Bool) (depth : Nat) (held : List Nat) (cluster g : Nat) : List Nat :=
  let rs := runsOf ok cluster g
  match rs.find? fun b => runLoad held b g = 0 with
  | some b => [b]
  | none => rs.filter fun b => runLoad held b g < depth

/-- Whether two clusters (16 × die + cluster) are the same or neighbours (R112). -/
def nearClusters (a b : Nat) : Bool :=
  a / 16 = b / 16 &&
    (let ax := a % 4; let ay := a % 16 / 4; let bx := b % 4; let by_ := b % 16 / 4
     ax ≤ bx + 1 && bx ≤ ax + 1 && ay ≤ by_ + 1 && by_ ≤ ay + 1)

/-- The bindings of a window group: LCORE, copy and slot of each member. -/
abbrev Places := List (Nat × Nat × Nat)

/-- A window group bound to a cluster, gang by gang, every choice of runs tried until `next` is content with one. -/
def bindGroup (ok : Nat → Bool) (depth g copy cluster : Nat) (next : Places → List Nat → Option Places) :
    List (List Nat) → List Nat → Places → Option Places
  | [], held, got => next got held
  | gang :: gangs, held, got =>
    (runChoices ok depth held cluster g).findSome? fun b =>
      let here := gang.zipIdx.map fun e => (e.1, copy, b + e.2)
      bindGroup ok depth g copy cluster next gangs (held ++ here.map fun e => e.2.2) (got ++ here)

/-- A binding of every window group, and of every twin copy that is bound here, in some of `clusters` clusters; every choice is
tried until `fit` allows what is then bound. The copies of a group lie in clusters that are not near each other (R112). -/
def placeGroups (ok : Nat → Bool) (depth clusters g : Nat) (fit : List Nat → Bool) :
    List (List (List Nat) × List Nat) → List Nat → Option Places
  | [], held => if fit held then some [] else none
  | (group, copies) :: rest, held =>
    let rests (held : List Nat) : Option Places := placeGroups ok depth clusters g fit rest held
    let one (copy : Nat) (near : Nat → Bool) (held : List Nat) (next : Nat → List Nat → Option Places) : Option Places :=
      (List.range clusters).findSome? fun c => if near c then none
        else bindGroup ok depth g copy c (fun p held => (next c held).map fun r => p ++ r) group held []
    match copies with
    | [] => rests held
    | [k] => one k (fun _ => false) held fun _ held => rests held
    | k :: l :: _ => one k (fun _ => false) held fun c held => one l (nearClusters c) held fun _ held => rests held

/-- Places in the order of the remap table: by LCORE, then copy (R107). -/
def Places.slots (p : Places) (g : Grid) : List Nat :=
  (List.range (g.cores * g.copies)).map fun i =>
    ((p.find? fun e => e.1 = i / g.copies && e.2.1 = i % g.copies).map fun e => e.2.2).getD 4096

/-- A binding of a task over what `held` leaves, which `fit` allows: the dispatcher's own choice, which is not architected (R103,
log entry 33). A test task's one core goes to the slot in its ARG0, where no logical core is bound (R438). -/
def State.findBinding (s : State) (q : Nat) (words : List Word) (away held : List Nat) (fit : List Nat → Bool) : Option (List Nat) :=
  let g := gridOf words
  if s.testQueue q then
    let slot := (words.getD 16 0).toNat
    if s.usable slot && loadAt held slot = 0 && fit (held ++ [slot]) then some [slot] else none
  else (placeGroups s.usable s.depth 128 g.gang fit (g.unitsHere away) held).map fun p => p.slots g

/-- Whether a task can be bound over the whole usable set of this package and of every other that may be used (R115). Slot `n` of
the package at place k of the reachability table counts as 2048 × (k + 1) + n. -/
def State.bindable (s : State) (q : Nat) (words : List Word) : Bool :=
  let g := gridOf words
  let ok (x : Nat) : Bool := if x < 2048 then s.usable x
    else match s.pkg.remotes[x / 2048 - 1]? with
      | some r => (r.state = .up || r.state = .reset) && r.usable.contains (x % 2048)
      | none => false
  if s.testQueue q then s.usable (words.getD 16 0).toNat
  else (placeGroups ok s.depth (128 * (1 + s.pkg.remotes.length)) g.gang (fun _ => true) (g.unitsHere []) []).isSome

/-- The slot of a logical core in a binding. -/
def slotIn (g : Grid) (b : List Nat) (lcore copy : Nat) : Nat := b.getD (lcore * g.copies + copy) 4096

/-- Whether a gang's slots in a binding form a run (R102), with an empty one chosen where there is one (R103). -/
def State.gangBound (s : State) (g : Grid) (held b : List Nat) (copy : Nat) (gang : List Nat) : Bool :=
  let slots := gang.map fun l => slotIn g b l copy
  let base := slots.headD 4096
  slots = runSlots base g.gang && base % g.gang = 0 && slots.all s.usable && runLoad held base g.gang < s.depth &&
  (runLoad held base g.gang = 0 || (s.runs (base / 16) g.gang).all fun r => runLoad held r g.gang ≠ 0)

/-- Gang by gang in order. -/
def State.gangsBound (s : State) (g : Grid) (b : List Nat) (copy : Nat) : List (List Nat) → List Nat → Option (List Nat)
  | [], held => some held
  | gang :: gangs, held =>
    if s.gangBound g held b copy gang then
      s.gangsBound g b copy gangs (held ++ gang.map fun l => slotIn g b l copy)
    else none

/-- Window groups, each copy of one within one cluster, and the copies of one not near each other (R102, R112): what is bound
then. -/
def State.groupsBound (s : State) (g : Grid) (b : List Nat) : List (List (List Nat) × List Nat) → List Nat → Option (List Nat)
  | [], held => some held
  | (group, copies) :: rest, held =>
    let slotsOf (copy : Nat) : List Nat := group.flatMap fun gang => gang.map fun l => slotIn g b l copy
    let cluster (copy : Nat) : Nat := (slotsOf copy).headD 0 / 16
    if (copies.all fun k => (slotsOf k).all fun x => x / 16 = cluster k) && (copies.length < 2 || !nearClusters (cluster 0) (cluster 1))
    then (copies.foldlM (fun held k => s.gangsBound g b k group held) held).bind (s.groupsBound g b rest)
    else none

/-- Whether a binding is one that the dispatcher may choose. -/
def State.bindingOk (s : State) (q : Nat) (words : List Word) (away held : List Nat) (fit : List Nat → Bool) (b : List Nat) : Bool :=
  let g := gridOf words
  b.length = g.cores * g.copies &&
  (if s.testQueue q then some b = s.findBinding q words away held fit else (s.groupsBound g b (g.unitsHere away) held).any fit)

/-- Barrier records that a task needs: its used blocks (R350). -/
def blocksOf (words : List Word) : List (Nat × Nat × Nat) :=
  let g := gridOf words
  (List.range 4).flatMap fun n =>
    let t := (words.getD 10 0).bits (16 * n + 15) (16 * n)
    if t / 2 ^ 15 = 1 then
      let bw := 2 ^ (t / 256 % 16)
      let bh := 2 ^ (t / 16 % 16)
      let nx := (g.lx + bw - 1) / bw
      (List.range g.copies).flatMap fun c =>
        (List.range (nx * ((g.ly + bh - 1) / bh))).map fun k => (n, c, k)
    else []

def State.recordsFit (s : State) (words : List Word) : Bool :=
  s.unc.barriers.length + (blocksOf words).length ≤ Config.barrierRecords

/-- The position in the rotation that a newly bound gang gets. R107 does not say which: the model takes the smallest that no gang bound
to a core of the run has, and 64 where 0 to 63 are all taken, as gangs of other sizes may bring about (log entry 90). -/
def State.freePosition (s : State) (base g : Nat) (more : List Bind) : Nat :=
  let used := ((s.disp.tasks.flatMap (·.binds)) ++ more).filter fun b =>
    b.valid && b.package = s.pkg.address && base ≤ b.slot && b.slot < base + g
  ((List.range 65).find? fun p => !(used.any fun b => b.position = p)).getD 64

/-- The number of a logical core's window group, and its place within it (R97). -/
def Grid.groupOf (g : Grid) (lcore : Nat) : Nat := lcore / g.lx * ((g.lx + 15) / 16) + lcore % g.lx / 16

def Grid.indexOf (g : Grid) (lcore : Nat) : Nat := lcore % g.lx % 16

/-- The remap entries of a binding (R107): what another package has granted lies there, as it said; all members of a gang that is bound
here take the position of its first core. -/
def State.bindsOf (s : State) (g : Grid) (b : List Nat) (remote : List Grant) : List Bind :=
  (List.range (g.cores * g.copies)).foldl (init := []) fun acc i =>
    let lcore := i / g.copies
    let copy := i % g.copies
    match remote.find? fun r => r.unit = g.groupOf lcore * g.copies + copy with
    | some r =>
      let p := r.places.getD (g.indexOf lcore) (0, 0)
      acc ++ [⟨lcore, copy, p.1, p.2, r.package, true, false, false⟩]
    | none =>
    let lead := lcore - lcore % g.lx % g.gang
    let pos := match acc.find? fun x => x.lcore = lead && x.copy = copy with
      | some x => x.position
      | none => s.freePosition (b.getD i 4096) g.gang acc
    acc ++ [⟨lcore, copy, b.getD i 4096, pos, s.pkg.address, true, false, false⟩]

/-! ### Barrier membership (R101) -/

/-- The word DMEMn of a logical core. -/
def dmemWord (words : List Word) (n lcore : Nat) : Word :=
  let g := gridOf words
  let t := (words.getD 10 0).bits (16 * n + 15) (16 * n)
  if t / 2 ^ 15 = 0 then 0
  else
    let bw := 2 ^ (t / 256 % 16)
    let bh := 2 ^ (t / 16 % 16)
    let x := lcore % g.lx
    let y := lcore / g.lx
    let gx := x / bw
    let gy := y / bh
    let width := min bw (g.lx - gx * bw)
    let height := min bh (g.ly - gy * bh)
    Word.ofN (2 ^ 63 + width * height * 2 ^ 32 + (gy * ((g.lx + bw - 1) / bw) + gx) * 2 ^ 16 +
      ((y - gy * bh) * width + (x - gx * bw)))

/-- The barrier records of a task at admission (R349): every field zero. -/
def barriersOf (ref : Word) (words : List Word) : List Barrier :=
  let g := gridOf words
  (blocksOf words).map fun b =>
    let n := b.1
    let members := (List.range g.cores).filter fun l => (dmemWord words n l).bits 31 16 = b.2.2
    ⟨ref, b.2.1, BitVec.ofNat 2 n, b.2.2, members.map fun l => ⟨l, 0, 0, 0, false, false, none, false, false⟩,
      0, false, 0, false, false, false, 0, none, 0⟩

/-! ### Placement of one logical core (R99, R118) -/

/-- The registers that placement loads (R99), with the home mode (R395). -/
def placeRegs (home : Bool) (q : BitVec 6) (words : List Word) (lcore : Nat) : PlaceRegs :=
  let g := gridOf words
  { home := home, lcore := lcore, lx := g.lx, ly := g.ly, gangix := lcore % g.lx % (max 1 g.gang), gangsz := g.gang, helpers := g.helpers,
    queue := q, seed := words.getD 7 0, step := words.getD 8 0,
    args := Vector.ofFn fun i => words.getD (16 + i.val) 0
    dmem := Vector.ofFn fun n => dmemWord words n.val lcore }

/-- A context at first placement (R99). -/
def freshCtx (n : Nat) (seed sevpol injen : Word) (home : Bool) : Ctx :=
  { Ctx.zero n with
    sys := { SysRegs.zero with rkey := seed, svclvl := svclvlOf false false home, sevpol := sevpol, injen := injen } }

/-- A logical core at first placement with a home mode, without its local memory: only context 0 is live, at the entry. -/
def State.freshAs (s : State) (home : Bool) (c : LCore) (t : Task) : LCore :=
  let q := t.queue.toNat
  let ctx (n : Nat) : Ctx := freshCtx n (t.word 0x38) ((s.queue q).sevpol)
    (if s.disp.injectionMask.getLsbD q then 1 else 0) home
  let own := (NatMap.get s.unc.coreRegs c.slot).getD (0, 0)
  { LCore.empty with
    id := c.id
    slot := c.slot
    position := c.position
    regs := placeRegs home t.queue t.words c.id.lcore
    ctx := { ctx 0 with live := true, pc := BitVec.ofNat 21 ((t.word 0x08).bits 39 0) }
    others := (List.range 10).map fun i => ctx (i + 1)
    shadown := own.1
    mx := { MatrixEngine.zero with startCount := own.2 }
    imageArea := c.imageArea
    retry := c.retry }

/-- A logical core at first placement: its home mode is the queue's now (R395). -/
def State.freshCore (s : State) (c : LCore) (t : Task) : LCore := s.freshAs (s.homeMode t.queue.toNat) c t

/-- The code object of a TCB's entry: its reference from byte 0. -/
def Task.codeRef (t : Task) : Word := Word.ofN (refHandle (t.word 0x08) * 2 ^ 40)

/-- The code header's L and D and its reserved word (R117), or the cause and reason for which it cannot be read. -/
def Op.codeHeader (q : Nat) (code : Word) : Op (Except (Nat × Nat) (Nat × Nat × Nat)) := do
  match (← Op.areaPlaces q code 16 rightX) with
  | none => pure (.error (cHANDLE, 0))
  | some ps =>
    match (← Op.areaRead ps) with
    | .error e => pure (.error e)
    | .ok m => pure (.ok ((m.word 0).bits 31 0, (m.word 0).bits 63 32, (m.word 8).toNat))

/-- The first L + D bytes of a task's code object (R118); or the cause for which they cannot be read. -/
def Op.codeBytes (t : Task) : Op (Except (Nat × Nat) (Memory × Nat)) := do
  match (← Op.codeHeader t.queue.toNat t.codeRef) with
  | .error e => pure (.error e)
  | .ok (l, d, _) =>
    match (← Op.areaPlaces t.queue.toNat t.codeRef (l + d) rightX) with
    | none => pure (.error (cHANDLE, 0))
    | some ps =>
      match (← Op.areaRead ps) with
      | .error e => pure (.error e)
      | .ok m => pure (.ok (m.slice 0 (l + d), l))

/-- A task FAILED for a reason that no context's trap gives (R37, R118, R437). -/
def Op.failFor (ref : Word) (cause einfo : Nat) : Op Unit := do
  let s ← get
  Op.failTask ref ⟨Word.ofN cause, 0, Word.ofN einfo, 0, 0, s.superstepOf ref⟩

/-- The remap entry of a logical core, if it is valid. -/
def State.bindOf (s : State) (id : CoreId) : Option Bind :=
  (s.findTask id.task).bind fun t => t.binds.find? fun b => b.lcore = id.lcore && b.copy = id.copy && b.valid

/-- Whether a logical core is bound to a core of this package. -/
def State.boundCore (s : State) (id : CoreId) : Bool := (s.bindOf id).any fun b => b.package = s.pkg.address

/-! ### Image areas (R105) -/

/-- The image areas that a binding asks for: one for each logical core of this package that has none and is being saved, or shares its
core with another; `fresh` where the newly bound ones, at `more`, have none. -/
def State.areasNeeded (s : State) (gone : List Word) (fresh : Bool) (more : List Nat) : Nat :=
  let stay := ((s.disp.tasks.filter fun t => !gone.contains t.ref).flatMap s.slotsOf) ++ s.disp.foreign.flatMap (·.slots) ++ more
  let shared (x : Nat) : Bool := 2 ≤ stay.count x
  (if fresh then more.countP shared else 0) +
    s.cores.countP fun c => c.imageArea.isNone && s.boundCore c.id && (gone.contains c.id.task || shared c.slot)

/-- Whether image areas are left for them: where none can be allocated, the task does not fit (R105). -/
def State.areasFit (s : State) (gone : List Word) (fresh : Bool) (more : List Nat) : Bool :=
  s.disp.imageAreas.length + s.areasNeeded gone fresh more ≤ s.disp.areaRoom

/-- Whether a logical core is of the same gang as `c` (R97). -/
def LCore.gangmate (c d : LCore) : Bool :=
  d.id.task = c.id.task && d.id.copy = c.id.copy && d.id.lcore - d.id.lcore % c.regs.lx % c.regs.gangsz =
    c.id.lcore - c.id.lcore % c.regs.lx % c.regs.gangsz

/-- Whether a placed gang takes its run at once: no other logical core is resident there, and no gang of a lower position is
bound there (R109). -/
def State.takesCore (s : State) (c : LCore) : Bool :=
  let base := c.slot - c.regs.gangix
  !s.cores.any fun d => !c.gangmate d && base ≤ d.slot && d.slot < base + c.regs.gangsz &&
    (d.resident || d.position < c.position) && s.boundCore d.id

def State.mapBind (s : State) (id : CoreId) (f : Bind → Bind) : State :=
  s.mapTask id.task fun t => { t with binds := t.binds.map fun b => if b.lcore = id.lcore && b.copy = id.copy then f b else b }

/-- A core's local memory and its place in the rotation once a logical core stands there: no other's bytes are left in it, and the
gang that follows is the one after this (R109). -/
def State.takeCore (s : State) (c : LCore) : State :=
  let s := s.mapCores fun d => if d.id ≠ c.id && d.lmAt = some c.slot then { d with lmAt := none } else d
  { s with unc := { s.unc with lastGang := s.unc.lastGang.set c.slot c.position } }

/-- What a logical core that is not resident leaves in its image area; where it has none and none is left, the step waits (R105). -/
def Op.keepImage (id : CoreId) : Op Unit := do
  let s ← get
  Op.need (s.areaFree id)
  set (s.writeImage id)

/-- A placement counted (R108). -/
def State.countPlacement (s : State) (ref : Word) : State :=
  s.mapTask ref fun t => { t with placements := t.placements + 1 }

/-- A logical core placed afresh (R99, R118): registers, local memory, XBOUND. Its cluster's clean scoped lines are invalidated,
so that it sees what its launcher wrote: the acquire of the admission read (R81, R322). -/
def Op.placeFresh (id : CoreId) : Op Unit := do
  let s ← get
  let c ← Op.get! (s.findCore id)
  let t ← Op.get! (s.findTask id.task)
  match (← Op.codeBytes t) with
  | .error (cause, reason) => Op.failFor id.task cause reason
  | .ok (lm, l) =>
    let s ← get
    let fresh := s.freshCore c t
    let fresh := { fresh with
      lm := lm, xbound := BitVec.ofNat 21 l, xbTake := BitVec.ofNat 21 l, resident := s.takesCore fresh, since := s.cycle }
    set (((s.mapCore id fun _ => fresh).mapBind id fun b => { b with placed := true }).countPlacement id.task)
    modify fun s => s.acquireCluster (clusterOf c.slot)
    if fresh.resident then modify fun s => s.takeCore fresh
    else Op.keepImage id

/-- FIRST_PLACEMENT (R99, R118). -/
def execFirstPlacement (core : CoreId) (s : State) : Host.Outcome State Fault Refusal :=
  runEvent (Op.whole (do
    let s ← get
    let t ← Op.get! (s.findTask core.task)
    let c ← Op.get! (s.findCore core)
    Op.need (t.phase = .running && c.imageArea.isNone && c.rollbackDue.isNone && t.binds.any fun b =>
      b.lcore = core.lcore && b.copy = core.copy && b.valid && !b.placed && b.package = s.pkg.address)
    Op.placeFresh core)) s

/-- FENCE_CORE (R113): firmware fences one core or restores one that it has fenced; remap entries that name a core outside the
usable set are invalid. A core harvested at manufacture stays outside (R102). -/
def execFenceCore (slot : Nat) (out : Bool) (s : State) : Host.Outcome State Fault Refusal :=
  runEvent (modify fun s =>
    let d := s.disp
    let d := { d with unusable := if out then (if d.unusable.contains slot then d.unusable else slot :: d.unusable)
      else d.unusable.filter fun x => x ≠ slot }
    { s with disp := { d with tasks := d.tasks.map fun t => { t with binds := t.binds.map fun b =>
      if out && b.slot = slot && b.package = s.pkg.address then { b with valid := false } else b } } }) s

/-! ### The remap table as firmware reads it (R107, R108) -/

/-- A remap entry's 64 bits (R107). -/
def State.remapWord (s : State) (t : Task) (b : Bind) : Word :=
  let resident : Bool := if b.package = s.pkg.address then (s.findCore ⟨t.ref, b.lcore, b.copy⟩).any fun c => c.resident else b.res
  Word.ofN (b.valid.toNat * 2 ^ 63 + b.copy % 2 * 2 ^ 62 + resident.toNat * 2 ^ 61 + b.position % 64 * 2 ^ 52 +
    b.package.toNat * 2 ^ 32 + b.slot % 2 ^ 16)

/-- The task that the status window's reference names. Where tasks of several queues have that reference, R108 does not say which: a
RUNNING one, of the lowest queue (log entry 91). -/
def State.statusOf (s : State) : Option Task :=
  let named := s.disp.tasks.filter fun t => t.tcb = s.disp.statusTask
  match (sortBy (fun (a b : Task) => a.queue.toNat < b.queue.toNat) named).find? Task.isRunning with
  | some t => some t
  | none => named.head?

/-- Word 0x10 of the dispatcher status window (R108): the entry at the index, as it stands; 0 when the task is not RUNNING or the
index lies beyond its grid. -/
def State.statusEntry (s : State) : Word :=
  match s.statusOf with
  | none => 0
  | some t =>
    let i := s.disp.statusIndex.toNat
    if !t.isRunning then 0
    else match t.binds.find? fun b => b.lcore = i / 2 && b.copy = i % 2 with
      | some b => s.remapWord t b
      | none => 0

/-- Word 0x18 of the status window (R108): the placements of the task so far. -/
def State.statusPlacements (s : State) : Word :=
  match s.statusOf with
  | some t => t.placements.setWidth 64
  | none => 0

end Sys2Proof.Machine
end

