-- ==== Sys2Proof/Machine/Dispatcher.lean ====
section
/-! DEFINITION. The dispatcher's selection, admission and pre-emption (R37, R38, R84 to R90, R106, R115, R411, R438). -/

namespace Sys2Proof.Machine

/-! ### The checks of admission (R37) -/

/-- Word 0x10 is wrong (R35, R37, R438). -/
def badShape (words : List Word) (test : Bool) (prio : Nat) : Bool :=
  let g := gridOf words
  let w := words.getD 2 0
  let gangs := [1, 2, 4, 8, 16]
  w.bits 63 53 ≠ 0 || !gangs.contains g.gang || 10 < g.helpers || g.lx = 0 || 256 < g.lx || g.ly = 0 || 256 < g.ly ||
  g.lx % (max 1 g.gang) ≠ 0 || (w.getLsbD 49 && words.getD 15 0 = 0) ||
  (test && !(g.lx = 1 && g.ly = 1 && w.getLsbD 48 && w.getLsbD 52 && prio = 7))

/-- A domain template is wrong (R100). -/
def badTemplate (t : Nat) : Bool :=
  t / 2 ^ 12 % 8 ≠ 0 || t % 16 ≠ 0 || 8 < t / 256 % 16 || 8 < t / 16 % 16 || (t / 2 ^ 15 = 0 && t ≠ 0)

/-- The entry names no valid code object (R37, R117). A D that is not a multiple of 32 breaks R117's text but is not in its list of
invalid headers; it counts as invalid here (DESIGN CHOICE, log entry 96). -/
def Op.badEntry (q : Nat) (entry : Word) : Op Bool := do
  let o := refOffset entry
  let code := Word.ofN (refHandle entry * 2 ^ 40)
  match (← Op.hwPlace q code 16 rightX) with
  | none => pure true
  | some p =>
    match (← Op.codeHeader q code) with
    -- a header that cannot be read fails the task at its placement, with its own cause (R118)
    | .error _ => pure false
    | .ok (l, d, r) =>
      pure (p.desc.layout ≠ 13 || o % 4 ≠ 0 || l < 4096 || 0x100000 < l || l % 4096 ≠ 0 || d % 32 ≠ 0 || 0x100000 < l + d ||
        p.desc.length < l + d || r ≠ 0 || o < 16 || l ≤ o)

/-- The snapshot area is too short or lacks R or W (R427). -/
def Op.badArea (q : Nat) (words : List Word) : Op Bool := do
  let g := gridOf words
  let area := words.getD 15 0
  if !(words.getD 2 0).getLsbD 49 || area = 0 then pure false
  else
    let s ← get
    let h := refHandle area
    let (w0, _, _, w3, d) := s.tableDesc q h
    let need := 0x4000 + 0x2C0000 * g.cores * g.copies
    pure (h < 16 || (s.queue q).entries.toNat ≤ h || d.rights = 0 || !s.descValid q w0 w3 d || !d.has (rightR + rightW) ||
      d.length < refOffset area + need)

/-- The offset of the first word found wrong in a TCB (R37). Word 0x60, the digest sum, which R35 lets software write as zero only,
is not checked: R35 to R37 do not say whether a nonzero one makes the TCB invalid (DESIGN CHOICE, log entry 95). -/
def Op.tcbFault (q : Nat) (words : List Word) : Op (Option Nat) := do
  let s ← get
  let w30 := words.getD 6 0
  let prio := w30.bits 55 48
  if (← Op.badEntry q (words.getD 1 0)) then pure (some 0x08)
  else if badShape words (s.testQueue q) prio then pure (some 0x10)
  else if words.getD 5 0 = 0 && w30.bits 31 0 ≠ 0 then pure (some 0x28)
  else if 7 < prio || w30.bits 47 32 ≠ q then pure (some 0x30)
  else if (List.range 4).any fun n => badTemplate ((words.getD 10 0).bits (16 * n + 15) (16 * n)) then pure (some 0x50)
  else if words.getD 11 0 ≠ 0 then pure (some 0x58)
  else if (← Op.badArea q words) then pure (some 0x78)
  else pure none

/-- The words of a TCB as the dispatcher reads them (R38), word 0x00 included. -/
def Op.readTcb (q : Nat) (t : Word) : Op (List Word) :=
  Op.collect (fun i => Op.tcbWord q t (8 * i)) (List.range 32)

/-- A linked TCB removed without being run: its position is recorded with its final state (R83, R441), and the dispatcher holds it
no more. -/
def Op.dropTcb (q : Nat) (t : Word) : Op Unit := do
  let pos ← Op.takePosition q t
  let (st, _) ← Op.tcbState q t
  modify fun s => { s with disp := { s.disp with
    tasks := s.disp.tasks.filter fun x => !(x.ref = taskKey q t && x.phase = .held && x.binds = []) } }
  let seed ← Op.tcbWord q t 0x38
  let step ← Op.tcbWord q t 0x40
  let w30 ← Op.tcbWord q t 0x30
  let dig := (← Op.tcbWord q t 0x10).getLsbD 48
  let sum ← Op.digestWord q t
  modify fun s => s.recordChain q pos dig (chainEntry t seed step st (w30.bits 63 56) sum pos)
  Op.popHead q

/-- A linked TCB that becomes FAILED at its admission (R37, R39, R115, R343). -/
def Op.failTcb (q : Nat) (t : Word) (words : List Word) (cause einfo : Nat) (eaddr step : Word) : Op Unit := do
  let (_, n) ← Op.tcbState q t
  Op.putState q t tFAILED n
  Op.errorOutcome q (words.getD 14 0) ⟨Word.ofN cause, eaddr, Word.ofN einfo, 0, step, 0⟩
  Op.dropTcb q t

/-! ### Candidates (R84, R85, R88, R89) -/

/-- A head that may be selected: its queue, its TCB, the task that resumes if it was pre-empted, its effective priority,
its words. -/
structure Cand where
  queue : Nat
  ref : Word
  resume : Option Task
  prio : Nat
  words : List Word
  deriving DecidableEq, Repr

def Cand.key (c : Cand) : Word := taskKey c.queue c.ref

/-- Whether every logical core of a pre-empted task has been saved and has given up its core. -/
def Task.saved (t : Task) : Bool := t.binds.all fun b => !b.valid

/-- The earliest admitted of the pre-empted tasks of a queue that are READY: it stands ahead of the queue's head (R89). -/
def State.preempted (s : State) (q : Nat) : Option Task :=
  (s.disp.tasks.filter fun t => t.queue.toNat = q && t.phase = .preempted && t.saved).foldl (init := none) fun acc t =>
    match acc with
    | none => some t
    | some u => if t.firstOrder < u.firstOrder then some t else some u

def State.prioOf (s : State) (q : Nat) (words : List Word) : Nat :=
  max (s.queue q).priority.toNat ((words.getD 6 0).bits 55 48)

/-- The candidate of a queue: the task that stands pre-empted ahead of its head, else the head; none while the dispatcher waits for a
link word (R80), nor one that NEEDMX passes over (R88). -/
def Op.candidate (q : Nat) : Op (Option Cand) := do
  let s ← get
  let x := s.queue q
  let passed (words : List Word) : Bool := s.pkg.start = .limited && (words.getD 2 0).getLsbD 51
  if x.status ≠ .active || x.waitLink then pure none
  else match s.preempted q with
    | some t => pure (if passed t.words then none else some ⟨q, t.tcb, some t, t.prio, t.words⟩)
    | none =>
      let taken := s.disp.tasks.any fun t => t.queue.toNat = q && t.phase = .held
      if !s.sharesHeader q || x.head = 0 || taken then pure none
      else
        let words ← Op.readTcb q x.head
        pure (if passed words then none else some ⟨q, x.head, none, s.prioOf q words, words⟩)

/-- Heads that are not to be run at all are dealt with first: FAILED or CANCELLED ones leave (R83); one whose first line is
LOST stops its queue (R343). The manual does not say what becomes of a head that no longer resolves through its queue's table,
or that lies out of reach otherwise: the model treats it as one whose first line is LOST (log entry 62). A head whose link is 0 while
the tail names another TCB makes the dispatcher wait for the link word (R80). True when something was done. -/
def Op.clearHead (q : Nat) : Op Bool := do
  let s ← get
  let x := s.queue q
  if x.status ≠ .active || !s.sharesHeader q || x.waitLink || x.head = 0 then pure false
  else
    let stop : Op Bool := do
      modify fun s =>
        let s := s.mapQueue q fun x => { x with status := .stopped, en := false }
        { s with pkg := { s.pkg with firmware := s.pkg.firmware ++ [.queueStopped (BitVec.ofNat 6 q)] } }
      pure true
    match (← Op.hwPlace q x.head 128 rightR) with
    | none => stop
    | some p =>
      let s ← get
      if (s.placeGone p).isSome then stop
      else
        let next ← Op.tcbWord q x.head 0
        let (st, _) ← Op.tcbState q x.head
        if x.tail ≠ x.head && next = 0 then
          modify fun s => s.mapQueue q fun x => { x with waitLink := true }
          pure true
        else if st = tFAILED || st = tCANCELLED then
          Op.dropTcb q x.head
          pure true
        else pure false

def Op.clearHeads : List Nat → Op Bool
  | [] => pure false
  | q :: qs => do
    if (← Op.clearHead q) then pure true else Op.clearHeads qs

/-! ### Selection (R85) -/

def State.dispPositive (s : State) (q : Nat) : Bool := decide (0 < (s.queue q).deficit)

/-- The quantum of a queue in core-cycles (R77, R85). -/
def Queue.quantum (q : Queue) : Nat := 65536 * max 1 q.weight.toNat

/-- The rounds of replenishment until some queue has D > 0 (R85 step 3). -/
def State.rounds (s : State) (qs : List Nat) : Nat :=
  let need (q : Nat) : Nat := (-(s.queue q).deficit).toNat / (s.queue q).quantum + 1
  match qs with
  | [] => 0
  | q :: rest => rest.foldl (fun m x => min m (need x)) (need q)

/-- DEFICIT_REPLENISH (R85). -/
def State.replenish (s : State) (qs : List Nat) : State :=
  if qs.any s.dispPositive then s
  else
    let k := s.rounds qs
    qs.foldl (init := s) fun s q => s.mapQueue q fun x => { x with deficit := x.deficit + k * x.quantum }

/-- The first queue with D > 0 after the one last selected at the level. -/
def State.pickQueue (s : State) (level : Nat) (qs : List Nat) : Option Nat :=
  let start := match (s.disp.lastSel.toList.getD level none) with
    | some q => q.toNat + 1
    | none => 0
  ((List.range 64).map fun i => (start + i) % 64).find? fun q => qs.contains q && s.dispPositive q

def State.markSelected (s : State) (level q : Nat) : State :=
  if h : level < 8 then { s with disp := { s.disp with lastSel := s.disp.lastSel.set level (some (BitVec.ofNat 6 q)) } } else s

/-- Whether a queue has a READY head (R83, R85): a task that stands pre-empted or held, or a linked TCB that has not been made
FAILED or CANCELLED, whatever the queue's status. -/
def State.readyHead (s : State) (q : Nat) : Bool :=
  let x := s.queue q
  let ended (r : TcbState) : Bool := s.tcbPlace q x.head = some r.place && (r.state = tFAILED || r.state = tCANCELLED)
  (s.disp.tasks.any fun t => t.queue.toNat = q && (t.phase = .held || t.phase = .preempted)) ||
    (x.head ≠ 0 && !s.disp.tcbs.any ended)

/-- A queue that has no READY head and a positive D. -/
def State.idleDeficit (s : State) (q : Nat) : Bool := s.dispPositive q && !s.readyHead q

/-- A queue without a READY head loses a positive D (R85). -/
def State.dropDeficits (s : State) : State :=
  (List.range 64).foldl (init := s) fun (s : State) q =>
    if s.idleDeficit q then s.mapQueue q fun x => { x with deficit := 0 } else s

/-! ### Admission (R86, R90) -/

/-- The metering context of a task: the TCB's, else the queue's; 0 and a logged event where firmware has not created it
(R90). -/
def State.bindMeter (s : State) (q : Nat) (words : List Word) : BitVec 32 × State :=
  let own := BitVec.ofNat 32 ((words.getD 9 0).bits 31 0)
  let n := if own ≠ 0 then own else (s.queue q).meter
  match s.findMeter n with
  | some _ => (n, s)
  | none => (0, { s with pkg := { s.pkg with firmware := s.pkg.firmware ++ [.unknownMeter n] } })

/-- The logical cores of a task bound to the slots of its remap table. -/
def State.addCores (s : State) (task : Word) (binds : List Bind) : State :=
  let here := binds.filter fun b => b.package = s.pkg.address
  let cores := here.map fun b =>
    { LCore.empty with id := ⟨task, b.lcore, b.copy⟩, slot := b.slot, position := b.position }
  if s.core.ctx.live || s.core.id ≠ ⟨0, 0, 0⟩ then { s with peers := s.peers ++ cores }
  else match cores with
    | c :: cs => { s with core := c, peers := s.peers ++ cs }
    | [] => s

/-- ADMIT_TASK (R86): first admission. The effective priority stays the one of this moment while the task lives, whatever
firmware writes to the queue's priority (log entry 63). A task of another revision fails before any context issues (R411). -/
def Op.admitTask (c : Cand) (binding : List Nat) (remote : List Grant) : Op Unit := do
  let pos ← Op.takePosition c.queue c.ref
  Op.popHead c.queue
  let (_, n) ← Op.tcbState c.queue c.ref
  Op.putState c.queue c.ref tRUNNING n
  modify fun s =>
    let (meter, s) := s.bindMeter c.queue c.words
    let binds := s.bindsOf (gridOf c.words) binding remote
    let t : Task := ⟨c.key, BitVec.ofNat 6 c.queue, .running, c.words, c.prio, meter, s.disp.admissions, s.disp.admissions,
      pos, binds, 0, remote, [], s.cycle, 0⟩
    let s := { s with
      disp := { s.disp with
        tasks := (s.disp.tasks.filter fun (x : Task) => x.ref ≠ c.key) ++ [t]
        admissions := s.disp.admissions + 1 }
      unc := { s.unc with barriers := s.unc.barriers ++ barriersOf c.key c.words } }
    (s.mapMeter meter fun m => { m with opened := m.opened + 1 }).addCores c.key binds
  let rev := (c.words.getD 6 0).bits 63 56
  if rev ≠ 1 then Op.failFor c.key cARCH rev

/-- The admission that resumes a pre-empted task (R86, R89). -/
def Op.resume (c : Cand) (t : Task) (binding : List Nat) : Op Unit := do
  let (_, n) ← Op.tcbState c.queue c.ref
  Op.putState c.queue c.ref tRUNNING n
  modify fun s =>
    let binds := s.bindsOf (gridOf t.words) binding t.remote
    let s := s.mapTask c.key fun t => { t with
      phase := .running, binds := binds, order := s.disp.admissions, charged := s.cycle }
    let s := { s with disp := { s.disp with admissions := s.disp.admissions + 1 } }
    s.mapCores fun k =>
      if k.id.task = c.key then
        match binds.find? fun b => b.lcore = k.id.lcore && b.copy = k.id.copy && b.package = s.pkg.address with
        | some b => { k with slot := b.slot, position := b.position, resident := false }
        | none => k
      else k

/-- The groups, under TWIN the copies of groups, that other packages have granted (R106). -/
def Task.away (t : Task) : List Nat := t.remote.map (·.unit)

/-- What a binding over `held` asks of the image areas, with the tasks of `gone` saved (R105); a resumed task's logical cores have
areas. -/
def State.leaves (s : State) (c : Cand) (gone : List Word) (held after : List Nat) : Bool :=
  s.areasFit gone c.resume.isNone (after.drop held.length)

/-- The binding that a task gets once the tasks of `gone` have been saved, if it fits then (R103, R105). -/
def State.bindingFor (s : State) (c : Cand) (away : List Nat) (gone : List Word) : Option (List Nat) :=
  let held := s.slotsBut gone
  s.findBinding c.queue c.words away held (s.leaves c gone held)

/-- Whether a task fits once the tasks of `gone` have been saved (R103, R105, R350). -/
def State.fits (s : State) (c : Cand) (away : List Nat) (gone : List Word) : Bool :=
  (s.bindingFor c away gone).isSome && (c.resume.isSome || s.recordsFit c.words)

/-- The tasks whose saving lets a task fit: one after another until it does. -/
def State.chooseVictims (s : State) (c : Cand) (away : List Nat) : List Task → List Word → Option (List Word)
  | ts, gone =>
    if s.fits c away gone then some gone
    else match ts with
      | [] => none
      | t :: rest => s.chooseVictims c away rest (gone ++ [t.ref])

/-- The test tasks of a list whose slots are needed: the others leave `gone` one by one (R438). -/
def State.needed (s : State) (c : Cand) (away : List Nat) : List Task → List Word → List Word
  | [], gone => gone
  | t :: rest, gone =>
    let less := gone.filter fun r => r ≠ t.ref
    s.needed c away rest (if s.fits c away less then less else gone)

/-- The tasks whose saving lets a held task fit, with those that are leaving already. For a queue with PE: PREEMPTIBLE tasks of a
greater priority number, the greatest number first and within one the latest admitted, until it fits (R89). Where that is not
enough: the test tasks whose slots it needs, whatever its queue (R438). -/
def State.victims (s : State) (c : Cand) (away : List Nat) (leaving : List Word) : Option (List Word) :=
  let run := s.disp.tasks.filter fun t => t.phase = .running && t.preemptible
  let tests := run.filter fun t => s.testQueue t.queue.toNat
  let before (a b : Task) : Bool := b.prio < a.prio || (a.prio = b.prio && b.order < a.order)
  let lower := if (s.queue c.queue).pe then sortBy before (run.filter fun t => c.prio < t.prio) else []
  match s.chooseVictims c away lower leaving with
  | some gone => some gone
  | none =>
    let all := leaving ++ tests.map (·.ref)
    if s.fits c away all then some (s.needed c away tests all) else none

/-- PREEMPT_TASKS (R89): tasks that are already being saved count as gone. True when some task was chosen. -/
def Op.preempt (c : Cand) (away : List Nat) : Op Bool := do
  let s ← get
  let leaving := (s.disp.tasks.filter fun t => t.phase = .preempted).map (·.ref)
  match s.victims c away leaving with
  | none => pure false
  | some gone =>
    let chosen := gone.filter fun r => !leaving.contains r
    set (chosen.foldl (init := s) fun (s : State) r => (s.chargeTask r).mapTask r fun t => { t with phase := .preempted })
    pure (chosen ≠ [])

/-- A selected task admitted with the binding the dispatcher has chosen, or held (R86). An empty `binding` leaves the choice
to `findBinding` (log entry 33). -/
def Op.settleCand (c : Cand) (away : List Nat) (remote : List Grant) (binding : List Nat) : Op Unit := do
  let s ← get
  if s.fits c away [] then
    let binding := if binding = [] then (s.bindingFor c away []).getD [] else binding
    Op.need (s.bindingOk c.queue c.words away s.boundSlots (s.leaves c [] s.boundSlots) binding)
    match c.resume with
    | some t => Op.resume c t binding
    | none => Op.admitTask c binding remote
  else
    match c.resume with
    | some t => set (s.mapTask t.ref fun t => { t with phase := .held })
    | none =>
      let t : Task := ⟨c.key, BitVec.ofNat 6 c.queue, .held, c.words, c.prio, 0, 0, 0, 0, [], 0, remote, [], 0, 0⟩
      set { s with disp := { s.disp with tasks := (s.disp.tasks.filter fun (x : Task) => x.ref ≠ c.key) ++ [t] } }
    discard (Op.preempt c away)

/-- The admission checks of a head that was never admitted; true when it has failed (R37, R115, R343, R420). The manual names no
cause for a TCB whose second half cannot be resolved: the model takes ILL with EINFO 0 (log entry 64). -/
def Op.rejects (c : Cand) : Op Bool := do
  let fails (cause einfo : Nat) (eaddr : Word) : Op Bool := do
    Op.failTcb c.queue c.ref c.words cause einfo eaddr 0
    pure true
  match (← Op.hwPlace c.queue (c.ref + 128) 128 rightR) with
  | none => fails cILL 0 0
  | some p =>
    let s ← get
    match s.placeGone p with
    | some (cause, reason) => fails cause reason c.ref
    | none =>
      let bad ← (do
        match (← Op.hwPlace c.queue c.ref 128 rightR) with
        | none => pure none
        | some first =>
          match (← Op.hwVerify first c.ref 128) with
          | some r => pure (some r)
          | none => Op.hwVerify p (c.ref + 128) 128)
      match bad with
      | some r => fails cSTRUCT 0 r
      | none => match (← Op.tcbFault c.queue c.words) with
        | some off => fails cILL off 0
        | none =>
          if s.bindable c.queue c.words then pure false
          else fails cGANG (gridOf c.words).gang 0

/-- Whether a candidate fails at its admission. One that resumes has passed the checks of R37; it fails where the whole usable set has
become too small for it (R115). -/
def Op.refused (c : Cand) : Op Bool :=
  match c.resume with
  | none => Op.rejects c
  | some _ => do
    let s ← get
    if s.bindable c.queue c.words then pure false
    else
      Op.failFor c.key cGANG (gridOf c.words).gang
      pure true

/-- The held tasks of ACTIVE queues by ascending priority number, with their words as they stand. One whose queue is no longer
ACTIVE is not admitted (R77, R92), nor one whose queue waits for a link word (R80); such a one holds no other up (log entry 65). -/
def Op.heldCands : Op (List (Cand × Task)) := do
  let s ← get
  let le (a b : Task) : Bool := a.prio < b.prio
  let open_ (t : Task) : Bool := (s.queue t.queue.toNat).status = .active && !(s.queue t.queue.toNat).waitLink
  let hs := sortBy le (s.disp.tasks.filter fun t => t.phase = .held && open_ t)
  let one (t : Task) : Op (Cand × Task) := do
    if t.binds ≠ [] then return (⟨t.queue.toNat, t.tcb, some t, t.prio, t.words⟩, t)
    let words ← Op.readTcb t.queue.toNat t.tcb
    return (⟨t.queue.toNat, t.tcb, none, t.prio, words⟩, t)
  Op.collect one hs

/-- The held task of the smallest number tried again: FAILED where it can be bound no more (R115), admitted where it fits; else it may
pre-empt. No other held task may be admitted before it (R86). True when something was done. -/
def Op.retryHeld (binding : List Nat) (c : Cand) (t : Task) : Op Bool := do
  let s ← get
  let fits := s.fits c t.away []
  if fits || !s.bindable c.queue c.words then
    if (← Op.refused c) then pure true
    else
      Op.need fits
      Op.settleCand c t.away t.remote binding
      pure true
  else Op.preempt c t.away

/-- The selected one of the candidates of smaller priority number than every held task (R85). -/
def Op.selectOne (cands : List Cand) (binding : List Nat) (c0 : Cand) : Op Unit := do
  let level := cands.foldl (fun m c => min m c.prio) c0.prio
  let here := cands.filter fun c => c.prio = level
  modify fun s => s.replenish (here.map (·.queue))
  let s ← get
  let q ← Op.get! (s.pickQueue level (here.map (·.queue)))
  let c ← Op.get! (here.find? fun c => c.queue = q)
  set (s.markSelected level q)
  if (← Op.refused c) then pure ()
  else
    let away := match c.resume with
      | some t => t.away
      | none => []
    Op.settleCand c away [] binding

/-- DISPATCHER_SELECT (R85, R86): heads that cannot run leave; a head of smaller priority number than every held task is selected
and admitted, held, or FAILED; where there is none, the held task of the smallest number is tried again. That order keeps
R87's promise that no queue at a greater number receives anything while a smaller one has a READY head. `binding` is the
dispatcher's choice of cores (R103). -/
def execDispatcherSelect (binding : List Nat) (s : State) : Host.Outcome State Fault Refusal :=
  runEvent (Op.whole (do
    Op.need !s.headless
    if (← Op.clearHeads (List.range 64)) then pure ()
    else
      let idle := (List.range 64).any (← get).idleDeficit
      modify State.dropDeficits
      let held ← Op.heldCands
      let cands ← Op.collect Op.candidate (List.range 64)
      let bar := match held with
        | (c, _) :: _ => c.prio
        | [] => 256
      let open_ := (cands.filterMap fun c => c).filter fun c => c.prio < bar
      match open_, held with
      | c0 :: _, _ => Op.selectOne open_ binding c0
      | [], (c, t) :: _ => if (← Op.retryHeld binding c t) then pure () else Op.need idle
      | [], [] => Op.need idle)) s

/-! ### Bindings on other packages (R106) -/

/-- A window group of a task of another package bound to cores of this one, which are held for it; the two copies of a group of a TWIN
task lie in clusters that are not near each other (R112). A request that cannot be granted is refused, and nothing is held. -/
def State.grantForeign (s : State) (task : Word) (group : Nat) (package : BitVec 13) (gangs size : Nat) (twin : Bool) : State :=
  let group_ := List.replicate gangs (List.range size)
  let other := group / 2 * 2 + (1 - group % 2)
  let fellow (f : ForeignBind) : Bool := f.package = package && f.task = task && f.group = other
  let held := s.boundSlots
  let far := (List.range 128).filter fun c => !(twin && s.disp.foreign.any fun f => fellow f && f.slots.any fun x => nearClusters (x / 16) c)
  let fit (p : Places) (after : List Nat) : Option Places := if s.areasFit [] true (after.drop held.length) then some p else none
  match far.findSome? fun c => bindGroup s.usable s.depth size 0 c fit group_ held [] with
  | some p => { s with disp := { s.disp with foreign := ⟨package, task, group, p.map fun e => e.2.2⟩ :: s.disp.foreign } }
  | none => s

/-- The logical cores of a window group, or of one copy of it under TWIN. -/
def Grid.unitMembers (g : Grid) (unit : Nat) : List (Nat × Nat) :=
  ((List.range g.cores).filter fun l => g.groupOf l = unit / g.copies).map fun l => (l, unit % g.copies)

/-- A window group of a running task whose remap entries have all become invalid bound where another package has granted it (R114). -/
def State.bindAway (s : State) (t : Task) (grant : Grant) : State :=
  let g := gridOf t.words
  let there (b : Bind) : Bind :=
    let p := grant.places.getD (g.indexOf b.lcore) (0, 0)
    { b with slot := p.1, position := p.2, package := grant.package, valid := true, placed := false, res := false }
  let mine (b : Bind) : Bool := (g.unitMembers grant.unit).contains (b.lcore, b.copy)
  s.mapTask t.ref fun t => { t with binds := t.binds.map fun b => if mine b then there b else b }

/-- BINDING_REQUEST (R106): another package's dispatcher answers for a window group of a held task, in rising order of
package address; a refusal withdraws every binding granted for the task, which stays held. It answers for one of a running task
that is to be placed again (R114), or tells whether a logical core bound there is resident. Or another package's dispatcher asks for
cores of this one, or tells its usable set. -/
def execBindingRequest (task : Word) (group : Nat) (package : BitVec 13) (msg : BindMsg) (s : State) :
    Host.Outcome State Fault Refusal :=
  runEvent (do
    let s ← get
    Op.need (package ≠ s.pkg.address && !s.headless)
    match msg with
    | .answer places =>
      let t ← Op.get! (s.findTask task)
      let mine := (gridOf t.words).unitMembers group
      Op.need (mine ≠ [] && (places = [] || places.length = mine.length))
      if t.phase = .running then
        Op.need ((t.binds.filter fun b => mine.contains (b.lcore, b.copy)).all fun b => !b.valid)
        Op.need (!s.cores.any fun c => c.id.task = task && mine.contains (c.id.lcore, c.id.copy) && c.resident)
        if places ≠ [] then set (s.bindAway t ⟨group, package, places⟩)
      else
        Op.need (t.phase = .held)
        Op.need (t.remote.all fun r => r.unit ≠ group && r.package.toNat ≤ package.toNat)
        set (s.mapTask task fun t => { t with remote := if places = [] then [] else t.remote ++ [⟨group, package, places⟩] })
    | .resident lcore copy res =>
      let t ← Op.get! (s.findTask task)
      let b ← Op.get! (t.binds.find? fun b => b.lcore = lcore && b.copy = copy && b.package = package && b.valid)
      let s := if res && !b.placed then s.countPlacement task else s
      set (s.mapBind ⟨task, lcore, copy⟩ fun b => { b with res := res, placed := b.placed || res })
    | .ask gangs size twin =>
      Op.need ([1, 2, 4, 8, 16].contains size && 1 ≤ gangs && gangs * size ≤ 16)
      Op.need (!s.disp.foreign.any fun f => f.package = package && f.task = task && f.group = group)
      set (s.grantForeign task group package gangs size twin)
    | .usable slots =>
      Op.need (s.pkg.remotes.any fun r => r.package = package)
      set { s with pkg := { s.pkg with remotes := s.pkg.remotes.map fun (r : RemotePkg) =>
        if r.package = package then { r with usable := slots } else r } }) s

/-- BINDING_WITHDRAW (R106): the requests for a held task are withdrawn; or another package withdraws its own, or has no more
need of the cores, which are free. -/
def execBindingWithdraw (task : HeldTask) (s : State) : Host.Outcome State Fault Refusal :=
  runEvent (do
    let s ← get
    Op.need !s.headless
    if task.package = s.pkg.address then
      let t ← Op.get! (s.findTask task.ref)
      Op.need (t.phase = .held)
      set (s.mapTask task.ref fun t => { t with remote := [] })
    else
      let mine (f : ForeignBind) : Bool := f.package = task.package && f.task = task.ref
      Op.need (s.disp.foreign.any mine)
      set { s with disp := { s.disp with foreign := s.disp.foreign.filter fun f => !mine f } }) s

end Sys2Proof.Machine
end

