-- ==== Sys2Proof/Machine/Coll.lean ====
section
/-! DEFINITION. The collective engine (R369 to R389): groups, tile tables, calls, contributions, results and aborts. One
contribution of one tile of one member to another member is one packet (log entry 41). -/

namespace Sys2Proof.Machine

/-! ### Groups (R369, R370) -/

/-- `n` bytes of a list as a number, little-endian. -/
def bytesAt (bs : List Byte) (o n : Nat) : Nat := valueOf ((bs.drop o).take n)

/-- The fields of a group descriptor (R370). -/
def groupId (g : List Byte) : Nat := bytesAt g 4 2
def groupSize (g : List Byte) : Nat := bytesAt g 0 2
def groupMembers (g : List Byte) : List Nat := (List.range (groupSize g)).map fun r => bytesAt g (8 + 2 * r) 2

/-- The rank of an LCORE in a group (R370). -/
def rankOf (g : List Byte) (lcore : Nat) : Option Nat := (groupMembers g).findIdx? fun m => m = lcore

/-- Whether a descriptor is valid for a logical core (R370). -/
def groupValid (g : List Byte) (c : LCore) : Bool :=
  let ms := groupMembers g
  bytesAt g 6 2 = 0 && bytesAt g 2 2 = 0 && 1 ≤ groupSize g && groupSize g ≤ 4096 &&
    ms.all (fun m => m < c.regs.lx * c.regs.ly) && decide ms.Nodup && ms.contains c.regs.lcore

/-! ### Tile tables (R371, R372) -/

/-- The header of a tile table (R371). -/
structure CollTab where
  kind : Nat
  op : Nat
  inL : Nat
  outL : Nat
  tiles : Nat
  rmode : Nat
  scope : Nat
  root : Nat
  tensor : BitVec 32
  anchor : Nat
  head0 : Word
  head8 : Word
  deriving DecidableEq, Repr

/-- A tile entry (R371). -/
structure CollTile where
  src : Nat
  dst : Nat
  stride : Nat
  count : Nat
  origin : Word
  deriving DecidableEq, Repr

def collTab (bs : List Byte) : CollTab :=
  let w := Word.ofN (bytesAt bs 0 8)
  let x := Word.ofN (bytesAt bs 8 8)
  { kind := w.bits 7 0, op := w.bits 15 8, inL := w.bits 23 16, outL := w.bits 31 24, tiles := w.bits 39 32,
    rmode := w.bits 45 44, scope := w.bits 48 46, root := w.bits 63 52, tensor := BitVec.ofNat 32 (x.bits 63 32),
    anchor := x.bits 9 0, head0 := w, head8 := x }

def collTile (bs : List Byte) (k : Nat) : CollTile :=
  let o := 32 + 32 * k
  let w := Word.ofN (bytesAt bs (o + 16) 8)
  { src := bytesAt bs o 8 % 2 ^ 20, dst := bytesAt bs (o + 8) 8 % 2 ^ 20, stride := w.bits 63 40, count := w.bits 20 0,
    origin := Word.ofN (bytesAt bs (o + 24) 8) }

/-- Which operators, kinds and layouts combine (R372). -/
def CollTab.combines (t : CollTab) : Bool :=
  if 2 ≤ t.kind then t.op = 0 && t.inL ≤ 16 && t.inL = t.outL
  else match t.op with
    | 0 => (t.inL = 1 || t.inL = 2 || t.inL = 3 || t.inL = 15) && 1 ≤ t.outL && t.outL ≤ 3
    | 1 | 2 => 1 ≤ t.inL && t.inL ≤ 3 && t.inL = t.outL
    | 3 => t.inL = 16 && t.outL = 16
    | _ => t.op ≤ 9 && t.inL = 14 && t.outL = 14

/-- Whether the header is valid (R371, R372). -/
def CollTab.valid (t : CollTab) (bs : List Byte) : Bool :=
  t.head0.bits 51 49 = 0 && t.head0.bits 43 40 = 0 && t.head8.bits 31 10 = 0 && bytesAt bs 16 16 = 0 && t.kind ≤ 3 &&
    t.scope ≤ 5 && t.rmode ≤ 2 && 1 ≤ t.tiles && t.tiles ≤ 64 && (t.root = 0 || t.kind = 1 || t.kind = 2) &&
    (t.anchor = 0 || t.op = 3) && t.combines

/-- A packed layout or one of BSI40 units: counts are multiples of 32 (R372). -/
def byBlocks (layout : Nat) : Bool := layout = 6 || layout = 7 || layout = 8 || layout = 11 || layout = 15

/-- The bytes of `count` elements of a layout; for layout 15 the span that CTAB checks (R34, R372). -/
def collBytes (layout count : Nat) : Nat :=
  if layout = 15 then 336 * (count / 32) else layoutWidth layout * count / 8

/-- The alignment of a tile's offsets (R372). -/
def collAlign (layout : Nat) : Nat := if byBlocks layout || layout = 16 then 8 else layoutWidth layout / 8

/-- The bytes of a tile's destination span (R372). -/
def CollTab.dstBytes (t : CollTab) (x : CollTile) (n : Nat) : Nat :=
  if t.kind = 3 then max (n * x.stride) ((n - 1) * x.stride + collBytes t.outL x.count) else collBytes t.outL x.count

/-- Whether a tile's spans lie within local memory, at or above a boundary (R372). -/
def CollTab.spansIn (t : CollTab) (x : CollTile) (n xb : Nat) : Bool :=
  xb ≤ x.src && xb ≤ x.dst && x.src + collBytes t.inL x.count ≤ Config.lmBytes && x.dst + t.dstBytes x n ≤ Config.lmBytes

/-- Whether tile entry `k` is valid (R371, R372). -/
def CollTab.tileValid (t : CollTab) (bs : List Byte) (n xb k : Nat) : Bool :=
  let o := 32 + 32 * k
  let x := collTile bs k
  bytesAt bs o 8 < 2 ^ 20 && bytesAt bs (o + 8) 8 < 2 ^ 20 && (Word.ofN (bytesAt bs (o + 16) 8)).bits 39 21 = 0 &&
    (x.stride = 0 || t.kind = 3) && 1 ≤ x.count && x.count ≤ 2 ^ 20 &&
    (!(byBlocks t.inL || byBlocks t.outL) || x.count % 32 = 0) &&
    x.src % collAlign t.inL = 0 && x.dst % collAlign t.outL = 0 && t.spansIn x n xb

/-- Whether a table is valid (R371, R372). -/
def tableValid (bs : List Byte) (n xb : Nat) : Bool :=
  let t := collTab bs
  t.valid bs && (List.range t.tiles).all fun k => t.tileValid bs n xb k

/-! ### Slots and calls -/

def LCore.collSlot (c : LCore) (i : Nat) : CollSlot := c.slots.toList.getD i CollSlot.zero

def LCore.setCollSlot (c : LCore) (i : Nat) (x : CollSlot) : LCore :=
  if h : i < 4 then { c with slots := c.slots.set i x } else c

def State.mapSlot (s : State) (id : CoreId) (i : Nat) (f : CollSlot → CollSlot) : State :=
  s.mapCore id fun c => c.setCollSlot i (f (c.collSlot i))

/-- The group, the table and the members of a slot; empty where nothing is loaded. -/
def CollSlot.desc (x : CollSlot) : List Byte := x.group.getD []
def CollSlot.bytes (x : CollSlot) : List Byte := x.table.getD []
def CollSlot.tab (x : CollSlot) : CollTab := collTab x.bytes
def CollSlot.tile (x : CollSlot) (k : Nat) : CollTile := collTile x.bytes k

/-- The mask of every tile of a table. -/
def CollTab.all (t : CollTab) : BitVec 64 := BitVec.ofNat 64 (2 ^ t.tiles - 1)

/-- Tiles done, as a count. -/
def CollSlot.doneCount (x : CollSlot) : Nat := ((List.range 64).filter fun k => x.done.getLsbD k).length

/-- Which call a packet or an abort names at a member (R380, R381). -/
inductive CallAt
  /-- it is open on this slot. -/
  | slot (i : Nat)
  /-- it has ended here. -/
  | past
  /-- it has not been opened here. -/
  | future
  deriving DecidableEq, Repr

/-- Whether a slot's call count has reached a sequence number (counts are mod 2^32). -/
def CollSlot.reached (x : CollSlot) (seq : BitVec 32) : Bool := (x.count - seq).toNat < 2 ^ 31

def LCore.callAt (c : LCore) (gid : Nat) (seq : BitVec 32) : CallAt :=
  let named := (List.range 4).filter fun i => (c.collSlot i).group.isSome && groupId (c.collSlot i).desc = gid
  match named.find? fun i => (c.collSlot i).isOpen && (c.collSlot i).count = seq with
  | some i => .slot i
  | none => if named.any (fun i => (c.collSlot i).reached seq) then .past else .future

/-- The token of a command of the collective queue (R374, R393). -/
def State.collToken (s : State) (id : CoreId) (n : Nat) (t : BitVec 6) (scope : Nat) (token : Word) : State :=
  (s.tokenAcquire id scope).writeToken id n t token

/-- The token of a call (R385, R386): a release at the table's scope of all the call's accesses at the member, which at die scope or
wider writes back (R321, R388). -/
def State.callToken (s : State) (id : CoreId) (n : Nat) (t : BitVec 6) (scope : Nat) (token : Word) : State :=
  (match s.findCore id with
    | some c => if 3 ≤ scope then s.releaseCluster (clusterOf c.slot) else s
    | none => s).collToken id n t scope token

/-- A call ends at a member (R375, R385). -/
def State.endCall (s : State) (id : CoreId) (i status cause operand : Nat) : State :=
  match s.findCore id with
  | none => s
  | some c =>
    let x := c.collSlot i
    if x.isOpen then
      (s.mapSlot id i fun x => { x with isOpen := false, ended := true, received := [] }).callToken id x.ctx x.token x.tab.scope
        (copyToken x.doneCount cause operand status)
    else s

/-- An abort on its way to the members of a call (R380, R386): those where the call has ended, or that know already, take
none. -/
def State.spreadAbort (s : State) (me : CoreId) (targets : List Nat) (gid : Nat) (seq : BitVec 32)
    (status cause operand : Nat) : State :=
  let one (s : State) (m : Nat) : State :=
    let dest : CoreId := { me with lcore := m }
    let known := s.unc.collAborts.any fun a => a.dest = dest && a.groupId = gid && a.seq = seq
    let past := match s.findCore dest with
      | some c => c.callAt gid seq = .past
      | none => false
    if m = me.lcore || known || past then s
    else { s with unc := { s.unc with collAborts := s.unc.collAborts ++ [⟨dest, gid, seq, status, cause, operand⟩] } }
  targets.foldl one s

/-- A call ends at this member, and at every other with the given status (R380, R383, R386). -/
def State.abortCall (s : State) (id : CoreId) (i : Nat) (more : List Nat) (mine others : Nat × Nat × Nat) : State :=
  match s.findCore id with
  | none => s
  | some c =>
    let x := c.collSlot i
    (s.endCall id i mine.1 mine.2.1 mine.2.2).spreadAbort id (groupMembers x.desc ++ more) (groupId x.desc) x.count
      others.1 others.2.1 others.2.2

/-- A member's call stops with status 0x11 (R386). -/
def State.stopCall (s : State) (id : CoreId) (i operand cause : Nat) (eaddr : Word) (einfo : Option Word) (precise : Bool) :
    State :=
  match s.findCore id with
  | none => s
  | some c =>
    let x := c.collSlot i
    let s := s.abortCall id i [] (0x11, cause, operand) (0x12, 2, 4)
    if precise then
      s.reportStop id x.ctx x.token false cause eaddr (einfo.getD (Word.ofN (operand * 2 ^ 16 + x.doneCount)))
    else s

/-! ### Arithmetic (R73, R74, R382, R383) -/

/-- A block of a SUM: its exponent, and each element's slot and class (R73, R74). -/
structure SumBlock where
  exp : Nat
  elems : List (Int × AccClass × Nat)
  deriving DecidableEq, Repr

/-- The float format of layouts 1 to 3. -/
def floatOfLayout (layout : Nat) : Fmt :=
  match layout with
  | 1 => fmtF32
  | 2 => fmtBf16
  | _ => fmtF16

/-- The biased FP32 exponent of a finite nonzero value, at least 1; 0 for the others (R74). -/
def sumExp : FVal → Nat
  | .num _ m e => if m = 0 then 0 else (max 1 ((m.log2 : Int) + e + 127)).toNat
  | _ => 0

/-- The slot and class of a value at a block exponent (R74). -/
def sumSlot (exp : Nat) : FVal → Int × AccClass × Nat
  | .num neg m e => (floorShift (if neg then -m else m) (e + 165 - exp), .finite, 0)
  | .inf neg => (0, if neg then .negInf else .posInf, 0)
  | .nan _ fr => (0, .nan, payloadOf fr)

/-- The block of up to 32 codes of a float format (R382). -/
def sumBlock (f : Fmt) (codes : List Nat) : SumBlock :=
  let vs := codes.map (decodeF f)
  let e := (vs.map sumExp).foldl max 0
  ⟨e, vs.map (sumSlot e)⟩

/-- A list cut into parts of `n`. -/
def chunks {α : Type} (n : Nat) : Nat → List α → List (List α)
  | 0, _ => []
  | fuel + 1, l => if l.isEmpty then [] else l.take n :: chunks n fuel (l.drop n)

/-- Slot `j` of a BSI40 unit (R73). -/
def bsiSlot (u : List Byte) (j : Nat) : Nat := bytesAt u (8 + 5 * j) 5

/-- Whether a unit's header is valid, with the summary it must have where it is an extension (R73). -/
def bsiHeader (u : List Byte) (ext : Bool) : Bool :=
  bytesAt u 2 6 = 0 &&
    (if ext then bytesAt u 0 1 = 0 && bytesAt u 1 1 = 0x80
     else bytesAt u 0 1 ≠ 255 && (bytesAt u 1 1 = 0 || bytesAt u 1 1 = 1))

/-- The block of a data unit and, where its summary is 0x01, its extension; `none` where a unit is invalid (R73). Three points
that R73's list leaves open are the model's choice (log entry 68): a NaN payload above 0x40_0000 is taken as it stands; a data
unit with summary 0x01 that no extension follows makes the block invalid; and the payload of an element that is not NaN, or the
data slot of one that is not finite, is ignored where it is not zero. -/
def bsiBlock (u : List Byte) (ext : List Byte) : Option SumBlock :=
  let two := bytesAt u 1 1 = 1
  let ns := (List.range 32).map fun j => elemInt true 40 (bsiSlot u j)
  if !bsiHeader u false then none
  else if two then
    let xs := (List.range 32).map (bsiSlot ext)
    if !bsiHeader ext true || xs.any (fun x => x / 2 ^ 25 ≠ 0) then none
    else some ⟨bytesAt u 0 1, List.zipWith (fun n x =>
      let cls := AccClass.ofCode (x % 4)
      (n, cls, if cls = .nan then x / 4 % 2 ^ 23 else 0)) ns xs⟩
  else some ⟨bytesAt u 0 1, ns.map fun n => (n, AccClass.finite, 0)⟩

/-- The units of a layout-15 contribution as read: each data unit, with its extension where it carries one. -/
def bsiBlocks : Nat → List Byte → Option (List SumBlock)
  | 0, _ => some []
  | n + 1, bs =>
    let two := bytesAt bs 1 1 = 1
    match bsiBlock (bs.take 168) ((bs.drop 168).take 168), bsiBlocks n (bs.drop (if two then 336 else 168)) with
    | some b, some rest => some (b :: rest)
    | _, _ => none

/-- The blocks of a member's contribution to a SUM (R382). -/
def sumBlocks (t : CollTab) (x : CollTile) (bs : List Byte) : Option (List SumBlock) :=
  if t.inL = 15 then bsiBlocks (x.count / 32) bs
  else
    let w := layoutWidth t.inL
    let codes := (List.range x.count).map fun l => bytesAt bs (w / 8 * l) (w / 8)
    some ((chunks 32 (x.count / 32 + 1) codes).map (sumBlock (floatOfLayout t.inL)))

/-- Element `l` of the sum of one block of every member: exact integers at the agreed exponent, classes joined, converted to
the output format (R74, R382). -/
def sumElem (t : CollTab) (key origin : Word) (bs : List SumBlock) (l j : Nat) : Nat :=
  let f := floatOfLayout t.outL
  let e := (bs.map (·.exp)).foldl max 0
  let parts := bs.map fun b =>
    let p := b.elems.getD j (0, AccClass.finite, 0)
    (floorShift p.1 ((b.exp : Int) - e), p.2)
  let cls := (parts.map (·.2)).foldl joinClass (AccClass.finite, 0)
  let v := (parts.map (·.1)).foldl (fun x y => x + y) 0
  let mode : RMode := if t.rmode = 0 then .rne else if t.rmode = 1 then .rz else .sr
  match cls with
  | (.finite, _) => roundF f mode (if mode = .sr then originDraw key origin l else 0) (v < 0) v.natAbs ((e : Int) - 165) false
  | (.posInf, _) => infCode f false
  | (.negInf, _) => infCode f true
  | (.nan, p) => payloadCode f p

/-- An integer operator (R383). -/
def collInt (op x y : Nat) : Nat :=
  match op with
  | 4 => (x + y) % 2 ^ 64
  | 5 => if elemInt true 64 x < elemInt true 64 y then y else x
  | 6 => if elemInt true 64 y < elemInt true 64 x then y else x
  | 7 => x &&& y
  | 8 => x ||| y
  | _ => x ^^^ y

/-- Whether a contribution is valid: BSI40 units of a SUM (R73, R382), accumulator images of ACC (R62, R383). -/
def contributionValid (t : CollTab) (x : CollTile) (bs : List Byte) : Bool :=
  if 2 ≤ t.kind then true
  else if t.op = 0 then (sumBlocks t x bs).isSome
  else if t.op = 3 then (List.range x.count).all fun l => (Elem.ofImage (bytesAt bs (16 * l) 16)).isSome
  else true

/-- The combined result of every member's contribution (R382, R383, R65, R66). -/
def combineTile (t : CollTab) (x : CollTile) (key : Word) (parts : List (List Byte)) : List Byte :=
  let w := layoutWidth t.outL / 8
  let codes (l : Nat) : List Nat := parts.map fun bs => bytesAt bs (w * l) w
  let elem (l : Nat) : Nat :=
    if t.op = 1 || t.op = 2 then extremeCode (floatOfLayout t.outL) (t.op = 1) 0 (codes l)
    else if t.op = 3 then
      let es := (codes l).filterMap Elem.ofImage
      (es.foldl Elem.combine Elem.zero).image
    else match codes l with
      | c :: cs => cs.foldl (collInt t.op) c
      | [] => 0
  if t.op = 0 then
    let blocks := parts.map fun bs => (sumBlocks t x bs).getD []
    (List.range x.count).flatMap fun l =>
      bytesOf w (sumElem t key x.origin (blocks.map fun b => b.getD (l / 32) ⟨0, []⟩) l (l % 32))
  else (List.range x.count).flatMap fun l => bytesOf w (elem l)

/-! ### Firing and completion (R379) -/

/-- The agent of an open call: its reads are charged to the context of the CSTART, under the SEVPOL in force there
(R386). -/
def State.callAgent (s : State) (c : LCore) (x : CollSlot) : Agent := s.engineAgent c x.ctx x.sevpol x.tab.scope

/-- A contribution read from local memory; for layout 15 unit by unit as the summaries say (R372, R379). -/
def Op.readUnits (ag : Agent) : Nat → Nat → List Byte → Op (Except Snag (List Byte))
  | 0, _, acc => pure (.ok acc)
  | n + 1, off, acc => do
    let r ← Op.engineRead ag (Word.ofN off) 168 .start
    match r.snag with
    | some e => pure (.error e)
    | none =>
      let u := bytesOf 168 r.value
      if bytesAt u 1 1 = 1 then
        let q ← Op.engineRead ag (Word.ofN (off + 168)) 168 .start
        match q.snag with
        | some e => pure (.error e)
        | none => Op.readUnits ag n (off + 336) (acc ++ u ++ bytesOf 168 q.value)
      else Op.readUnits ag n (off + 168) (acc ++ u)

def Op.readContribution (ag : Agent) (t : CollTab) (x : CollTile) : Op (Except Snag (List Byte)) := do
  if t.inL = 15 then Op.readUnits ag (x.count / 32) x.src []
  else
    let n := collBytes t.inL x.count
    let r ← Op.engineRead ag (Word.ofN x.src) n .start
    match r.snag with
    | some e => pure (.error e)
    | none => pure (.ok (bytesOf n r.value))

/-- Whether no packet of a member's tile is still on its way: matched with an open call at every member it was sent to (log
entry 42). -/
def State.delivered (s : State) (id : CoreId) (gid : Nat) (seq : BitVec 32) (k : Nat) : Bool :=
  let mine (p : Packet) : Bool := p.source = id && p.groupId = gid && p.seq = seq && p.tile = k
  !s.unc.packets.any mine && !s.dies.toList.any fun d => d.overflow.any mine

/-- A contribution kept for a tile, in place of one of the same rank. -/
def CollSlot.keep (x : CollSlot) (n : Contribution) : CollSlot :=
  { x with received := (x.received.filter fun y => !(y.tile = n.tile && y.rank = n.rank)) ++ [n] }

/-- The contribution of a rank to a tile. -/
def CollSlot.from_ (x : CollSlot) (k r : Nat) : Option (List Byte) :=
  (x.received.find? fun y => y.tile = k && y.rank = r).map (·.bytes)

/-- The contributions of every rank to a tile, when all are there. -/
def CollSlot.whole (x : CollSlot) (k : Nat) : Option (List (List Byte)) :=
  let l := (List.range (groupSize x.desc)).map fun r => x.from_ k r
  if l.all Option.isSome then some (l.map fun o => o.getD []) else none

/-- Bytes of a result written to local memory; the stop where a partly covered word is in error. -/
def Op.putResult (ag : Agent) (parts : List (Nat × List Byte)) : Op (Option Snag) :=
  match parts with
  | [] => pure none
  | (off, bs) :: rest => do
    let r ← Op.engineWrite ag false (Word.ofN off) bs.length (valueOf bs)
    match r.2 with
    | some e => pure (some e)
    | none => Op.putResult ag rest

/-- What a tile writes at this member once it can complete, `none` where it cannot yet (R379). -/
def State.tileResult (s : State) (c : LCore) (x : CollSlot) (k : Nat) : Option (List (Nat × List Byte)) :=
  let t := x.tab
  let e := x.tile k
  let rank := (rankOf x.desc c.regs.lcore).getD 0
  let key := roundingKey c.regs.seed c.regs.step t.tensor
  let sent := s.delivered c.id (groupId x.desc) x.count k
  match t.kind with
  | 0 => (x.whole k).map fun ps => [(e.dst, combineTile t e key ps)]
  | 1 =>
    if rank = t.root then (x.whole k).map fun ps => [(e.dst, combineTile t e key ps)]
    else if sent then some [] else none
  | 2 =>
    if rank = t.root then (if sent then some [] else none)
    else (x.from_ k t.root).map fun bs => [(e.dst, bs)]
  | _ => (x.whole k).map fun ps => ps.zipIdx.map fun p => (e.dst + p.2 * e.stride, p.1)

/-- A fired tile completes where it can (R379), and with the last tile the call ends (R375). -/
def Op.tryTile (id : CoreId) (i k : Nat) : Op Unit := do
  let s ← get
  match s.findCore id with
  | none => pure ()
  | some c =>
    let x := c.collSlot i
    if !x.isOpen || !x.fired.getLsbD k || x.done.getLsbD k then pure ()
    else match s.tileResult c x k with
      | none => pure ()
      | some parts =>
        let st ← Op.putResult (s.callAgent c x) parts
        match st with
        | some (.stop cause eaddr einfo precise) => modify fun s => s.stopCall id i 1 cause eaddr einfo precise
        | _ =>
          modify fun s => s.mapSlot id i fun x => { x with done := x.done ||| (1#64 <<< k) }
          let s ← get
          let y := match s.findCore id with
            | some c => c.collSlot i
            | none => x
          if y.done = y.tab.all then set (s.endCall id i 0 0 0)

/-- The members that a member's contribution goes to (R379). -/
def CollTab.targets (t : CollTab) (members : List Nat) (rank : Nat) : List Nat :=
  let others := (members.zipIdx.filter fun p => p.2 ≠ rank).map (·.1)
  match t.kind with
  | 1 => if rank = t.root then [] else (members[t.root]?).toList
  | 2 => if rank = t.root then others else []
  | _ => others

/-- TILE_FIRE (R379, R380): the member's contribution is read and sent. -/
def Op.fireTile (id : CoreId) (i k : Nat) : Op Unit := do
  let s ← get
  match s.findCore id with
  | none => pure ()
  | some c =>
    let x := c.collSlot i
    let t := x.tab
    let e := x.tile k
    let rank := (rankOf x.desc c.regs.lcore).getD 0
    if !x.isOpen || !x.ready.getLsbD k || x.fired.getLsbD k || x.done.getLsbD k then pure ()
    else
      modify fun s => s.mapSlot id i fun x => { x with fired := x.fired ||| (1#64 <<< k) }
      if t.kind = 2 && rank ≠ t.root then Op.tryTile id i k
      else
        let r ← Op.readContribution (s.callAgent c x) t e
        match r with
        | .error (.stop cause eaddr einfo precise) => modify fun s => s.stopCall id i 0 cause eaddr einfo precise
        | .error _ => Op.stall
        | .ok bs =>
          if !contributionValid t e bs then modify fun s => s.abortCall id i [] (0x17, 0, 0) (0x17, 0, 0)
          else
            let mine : Contribution := ⟨k, rank, bs⟩
            let send (m : Nat) : Packet :=
              ⟨{ id with lcore := m }, id, groupId x.desc, groupSize x.desc, x.count, k, t.head0, t.head8, e.count, e.stride,
                Config.packets bs.length + 1, 0, mine⟩
            modify fun s =>
              let s := s.mapSlot id i fun x => x.keep mine
              { s with unc := { s.unc with packets := s.unc.packets ++ (t.targets (groupMembers x.desc) rank).map send } }
            Op.tryTile id i k

/-- Every ready tile of a slot's open call fires. -/
def Op.fireReady (id : CoreId) (i : Nat) : Op Unit := Op.forEach (Op.fireTile id i) (List.range 64)

/-! ### Matching (R380, R381) -/

/-- A packet matched with an open call: its signature compared, its contribution kept, the tile completed where it can be;
and at the sender, where it only waited for the delivery (R379, R380). -/
def Op.matchPacket (i : Nat) (p : Packet) : Op Unit := do
  let s ← get
  match s.findCore p.dest with
  | none => pure ()
  | some c =>
    let x := c.collSlot i
    let t := x.tab
    let e := x.tile p.tile
    let same : Bool := p.members = groupSize x.desc && p.head0 = t.head0 && p.head8 = t.head8 && p.tile < t.tiles &&
      p.count = e.count && p.stride = e.stride
    if !same then modify fun s => s.abortCall p.dest i [p.source.lcore] (0x16, 0, 4) (0x16, 0, 4)
    else
      modify fun s => s.mapSlot p.dest i fun x => x.keep p.contribution
      Op.tryTile p.dest i p.tile
      let s ← get
      match s.findCore p.source with
      | none => pure ()
      | some src => match src.callAt p.groupId p.seq with
        | .slot j => Op.tryTile p.source j p.tile
        | _ => pure ()

/-- The abort that waits for a call at a member, if there is one. -/
def State.abortOf (s : State) (id : CoreId) (gid : Nat) (seq : BitVec 32) : Option CollAbort :=
  s.unc.collAborts.find? fun a => a.dest = id && a.groupId = gid && a.seq = seq

/-- Whether a packet goes to a logical core of a die. -/
def State.toDie (s : State) (d : Nat) (p : Packet) : Bool := (s.findCore p.dest).any fun c => dieOf c.slot = d

/-- The entries of a die's overflow list that stand free (R381): those of contributions whose packets are all in it are taken, and
those of the first packets of one whose others are held. -/
def State.overflowRoom (s : State) (d : Nat) : Nat :=
  (s.die d).ovCapacity.toNat - (((s.die d).overflow.map (·.parts)).sum +
    ((s.unc.packets.filter (s.toDie d)).map (·.stored)).sum)

/-- Whether a packet can be taken from the fabric now: matched, dropped, or appended to the list (R381). -/
def State.takesPacket (s : State) (p : Packet) : Bool :=
  match s.findCore p.dest with
  | none => false
  | some c => c.callAt p.groupId p.seq ≠ .future || p.parts ≤ p.stored + s.overflowRoom (dieOf c.slot)

/-- Packets counted as appended to a die's list. -/
def State.spill (s : State) (d n : Nat) : State :=
  s.mapDie d fun x => { x with ovSpilled := Word.ofN (min (x.ovSpilled.toNat + n) (2 ^ 64 - 1)) }

/-- A packet taken from the fabric (R381). A call that is to be aborted here takes no more contributions. -/
def Op.takePacket (p : Packet) : Op Unit := do
  let s ← get
  match s.findCore p.dest with
  | none => pure ()
  | some c =>
    match c.callAt p.groupId p.seq with
    | .past => pure ()
    | .slot i => if (s.abortOf p.dest p.groupId p.seq).isSome then pure () else Op.matchPacket i p
    | .future =>
      set ((s.mapDie (dieOf c.slot) fun d => { d with overflow := d.overflow ++ [{ p with stored := 0 }] }).spill (dieOf c.slot)
        (p.parts - p.stored))

/-- The packets held at the fabric before a die, counted again (R381): those that the list has no room for, and later ones
of their flows. -/
def State.countHeld (s : State) (d : Nat) : State :=
  let step (acc : List CoreId × Nat) (p : Packet) : List CoreId × Nat :=
    if !s.toDie d p then acc
    else if acc.1.contains p.source || !s.takesPacket p then (p.source :: acc.1, acc.2 + (p.parts - p.stored)) else acc
  let n := (s.unc.packets.foldl step ([], 0)).2
  s.mapDie d fun x => { x with ovHeld := BitVec.ofNat 16 (min n 65535) }

/-- Whether every packet of the same flow before place `j` has been taken: none is left with this source and die
(R381, R457). -/
def State.flowHead (s : State) (j : Nat) (p : Packet) : Bool :=
  let die (q : Packet) : Option Nat := (s.findCore q.dest).map fun c => dieOf c.slot
  !(s.unc.packets.take j).any fun q => q.source = p.source && die q = die p

/-- The oldest packet to a logical core that can be taken now. -/
def State.nextPacket (s : State) (id : CoreId) : Option Packet :=
  (s.unc.packets.zipIdx.find? fun q => q.1.dest = id && s.flowHead q.2 q.1 && s.takesPacket q.1).map (·.1)

/-- The first packets of a contribution that the list has no room for as a whole fill what room it has (R381). -/
def State.storePart (s : State) (id : CoreId) : State :=
  match s.findCore id, s.unc.packets.zipIdx.find? fun q => q.1.dest = id && s.flowHead q.2 q.1 && !s.takesPacket q.1 with
  | some c, some (p, _) =>
    let room := s.overflowRoom (dieOf c.slot)
    let more (x : Packet) : Packet := if x = p then { x with stored := x.stored + room } else x
    if room = 0 then s
    else { (s.spill (dieOf c.slot) room) with unc := { s.unc with packets := s.unc.packets.map more } }
  | _, _ => s

/-- The oldest packet from one member to another. -/
def State.packetFrom (s : State) (source dest : CoreId) : Option Packet :=
  s.unc.packets.find? fun q => q.source = source && q.dest = dest

/-- A packet's message as the router compares it (R433). -/
def Packet.message (p : Packet) : List Nat :=
  [5, p.groupId, p.members, p.seq.toNat, p.tile, p.head0.toNat, p.head8.toNat, p.count, p.stride, p.source.lcore, p.dest.lcore,
    p.contribution.rank] ++ p.contribution.bytes.map (·.toNat)

/-- COLL_PACKET_ARRIVAL (R381): the oldest packet that can be taken is; where none can, the list is filled and the count of packets
held is brought up to date. Under TWIN the packet waits for the other copy's and is compared with it (R433). -/
def Op.packetArrival (id : CoreId) : Op Unit := do
  let s ← get
  let c ← Op.get! (s.findCore id)
  let d := dieOf c.slot
  let drop (p : Packet) (s : State) : State := { s with unc := { s.unc with packets := s.unc.packets.erase p } }
  match s.nextPacket id with
  | none =>
    let t := (s.storePart id).countHeld d
    Op.need ((t.die d).ovHeld ≠ (s.die d).ovHeld || s.overflowRoom d ≠ t.overflowRoom d)
    set t
  | some p =>
    let twin := match s.findTask id.task with
      | some t => t.twin
      | none => false
    if twin then
      let q ← Op.get! (s.packetFrom { p.source with copy := 1 - p.source.copy } { p.dest with copy := 1 - p.dest.copy })
      Op.need (s.takesPacket q)
      if p.message = q.message then
        set (drop q (drop p s))
        Op.takePacket p
        Op.takePacket q
      else
        let a := if p.source.copy = 0 then p else q
        let b := if p.source.copy = 0 then q else p
        Op.twinMismatch a.source 0 a.seq.toNat (messageHash a.message) (messageHash b.message)
    else
      set (drop p s)
      Op.takePacket p
    modify fun s => s.countHeld d

/-- COLL_PACKET_ARRIVAL (R381). -/
def execCollPacketArrival (core : CoreId) (s : State) : Host.Outcome State Fault Refusal :=
  runEvent (Op.packetArrival core) s

/-! ### Aborts and broken groups (R380, R386, R387, R389) -/

/-- Whether a member of a slot's group has been stopped for good (R387). -/
def State.groupStopped (s : State) (id : CoreId) (x : CollSlot) : Bool :=
  (groupMembers x.desc).any fun m => match s.findCore { id with lcore := m } with
    | some c => c.stopped && m ≠ id.lcore
    | none => false

/-- A call ended because a member was stopped for good (R387). -/
def State.breakCall (s : State) (id : CoreId) (i : Nat) : State :=
  match s.findCore id with
  | none => s
  | some c => (s.endCall id i 0x12 1 4).mapCtx id (c.collSlot i).ctx fun x => x.raiseBroken 0 (Word.ofN (0x10002 + i * 2 ^ 8))

/-- The end that waits for a slot's open call: an abort that has reached it, a member stopped for good, or a cut by a
rollback. -/
def State.callEnding (s : State) (id : CoreId) (i : Nat) : Option State :=
  match s.findCore id with
  | none => none
  | some c =>
    let x := c.collSlot i
    let gid := groupId x.desc
    if !x.isOpen then none
    else match s.abortOf id gid x.count with
      | some a =>
        let s := s.abortCall id i [] (a.status, a.cause, a.operand) (a.status, a.cause, a.operand)
        some { s with unc := { s.unc with collAborts := s.unc.collAborts.erase a } }
      | none =>
        if s.groupStopped id x then some (s.breakCall id i)
        else if x.cut then some (s.endCall id i 0x12 2 4) else none

/-- COLL_ABORT (R380, R386, R387). -/
def execCollAbort (core : CoreId) (slot : BitVec 2) (s : State) : Host.Outcome State Fault Refusal :=
  runEvent (do
    let s ← get
    let t ← Op.get! (s.callEnding core slot.toNat)
    set t) s

/-! ### Commands (R373 to R378) -/

/-- The slot of a collective command. -/
def slotOfInstr : Instr → Nat
  | .cgrp _ _ n | .ctab _ _ n | .cstart _ _ n => n.toNat
  | _ => 0

/-- The token register of a command of the collective queue. -/
def CollCmd.tok (c : CollCmd) : BitVec 6 :=
  match c.instr with
  | .cgrp _ t _ | .ctab _ t _ | .cstart _ t _ | .sendm _ _ t _ => t
  | _ => 0

/-- A CSTART (R375). -/
def CollCmd.isStart (c : CollCmd) : Bool :=
  match c.instr with
  | .cstart _ _ _ => true
  | _ => false

/-- A CSTART of a slot is still queued. -/
def LCore.startQueued (c : LCore) (i : Nat) : Bool := c.coll.any fun m => m.isStart && slotOfInstr m.instr = i

/-- CGRP, CTAB and CSTART wait for the operand, for room, for the token register and for the slot's call (R374). -/
def Op.collReady (a t : BitVec 6) (n : BitVec 2) : Op Word := do
  let x ← Op.readG a
  Op.freeG t
  let c ← Op.core
  Op.need (c.coll.length < Config.queueEntries && !(c.collSlot n.toNat).isOpen && !c.startQueued n.toNat)
  pure x

/-- CGRP, CTAB and CSTART at issue (R374): when they are ready, they release at core scope what the context has done to its own
local memory (R323, R388), and enter the queue. -/
def Op.collIssue (i : Instr) (a t : BitVec 6) (n : BitVec 2) (start : Bool) : Op Unit := do
  let x ← Op.collReady a t n
  Op.release 1
  Op.claimG t
  Op.modCore fun c =>
    let c := { c with coll := c.coll ++ [⟨i, c.ctx.num, x, 0, c.ctx.sys.sevpol, none⟩] }
    if start then c.setCollSlot n.toNat { c.collSlot n.toNat with
      issued := true, ended := false, early := 0, ready := 0, fired := 0, done := 0, received := [] }
    else c

/-- CGRP (R374). -/
def execCgrp (a t : BitVec 6) (n : BitVec 2) (s : State) : Host.Outcome State Fault Refusal :=
  performNext (.cgrp a t n) (Op.collIssue (.cgrp a t n) a t n false) s

/-- CTAB (R374). -/
def execCtab (a t : BitVec 6) (n : BitVec 2) (s : State) : Host.Outcome State Fault Refusal :=
  performNext (.ctab a t n) (Op.collIssue (.ctab a t n) a t n false) s

/-- CSTART (R374, R375). With ALL = 1 what precedes it is released at the table's scope, so that it happens before what
follows a tile's completion (R388). -/
def execCstart (a t : BitVec 6) (n : BitVec 2) (s : State) : Host.Outcome State Fault Refusal :=
  performNext (.cstart a t n) (do
    let x ← Op.collReady a t n
    let c ← Op.core
    if x.getLsbD 0 then
      Op.release (if (c.collSlot n.toNat).table.isSome && c.coll = [] then (c.collSlot n.toNat).tab.scope else 5)
    Op.collIssue (.cstart a t n) a t n true) s

/-- TREADY (R376): tiles marked ready in the slot's latest call; those of an open call fire. -/
def execTready (a : BitVec 6) (n : BitVec 2) (s : State) : Host.Outcome State Fault Refusal :=
  performNext (.tready a n) (do
    let mask ← Op.readG a
    let c ← Op.core
    let x := c.collSlot n.toNat
    if !x.issued || x.ended then Op.trap cCOLL 0 (Word.ofN (n.toNat * 2 ^ 8 + 1))
    else
      let queued := !x.isOpen
      Op.release (if queued && (x.table.isNone || c.coll.length ≠ 1) then 5 else x.tab.scope)
      if queued then
        modify fun s => s.mapSlot c.id n.toNat fun x => { x with early := x.early ||| mask }
      else
        modify fun s => s.mapSlot c.id n.toNat fun x => { x with ready := x.ready ||| (mask &&& x.tab.all) }
        Op.fireReady c.id n.toNat) s

/-- CWAIT (R377). -/
def execCwait (a t : BitVec 6) (n : BitVec 2) (s : State) : Host.Outcome State Fault Refusal :=
  performNext (.cwait a t n) (do
    let mask ← Op.readG a
    let c ← Op.core
    let x := c.collSlot n.toNat
    if !x.taken then Op.writeG t 0
    else
      let named := if x.isOpen then mask &&& x.tab.all else mask
      Op.need (named &&& ~~~x.done = 0 || x.ended)
      Op.acquire x.tab.scope
      Op.writeG t x.done) s

/-! ### COLL_TAKE (R370 to R375) -/

/-- What a read of a descriptor or a table gives: its bytes, or how the command ends or waits. -/
inductive CollRead
  | bytes (b : List Byte)
  | refuse (cause : Nat)
  | stop (cause : Nat) (eaddr : Word) (einfo : Option Word) (precise : Bool)
  | wait (ref : Word) (desc : Nat)
  | hold (ref : Word) (package : BitVec 13)
  deriving DecidableEq, Repr

/-- `n` bytes of a descriptor or a table (R374): its agent takes every uncorrectable error in them as structural. -/
def Op.collRead (ag : Agent) (ref : Word) (n : Nat) : Op CollRead := do
  match (← Op.spanCheck ag ref 0 (n - 1) rightR 0) with
  | some cause => pure (.refuse cause)
  | none =>
    let r ← Op.engineRead ag ref n .start
    match r.snag with
    | some (.stop cause eaddr einfo precise) => pure (.stop cause eaddr einfo precise)
    | some (.notres ref desc) => pure (.wait ref desc)
    | some (.hold ref p) => pure (.hold ref p)
    | none => pure (.bytes (bytesOf n r.value))

/-- The whole of a group descriptor: its first word, then its members (R370). -/
def Op.readGroup (ag : Agent) (c : LCore) (ref : Word) : Op CollRead := do
  if ref.toNat % 8 ≠ 0 then pure (.refuse cMISAL)
  else match (← Op.collRead ag ref 8) with
    | .bytes h =>
      let n := groupSize h
      if n = 0 || 4096 < n then pure (.refuse cILL)
      else match (← Op.collRead ag ref (8 + 2 * n)) with
        | .bytes g => if groupValid g c then pure (.bytes g) else pure (.refuse cILL)
        | r => pure r
    | r => pure r

/-- The whole of a tile table: its header, then its entries (R371). `n` is the size of the slot's group. -/
def Op.readTable (ag : Agent) (c : LCore) (n : Nat) (ref : Word) : Op CollRead := do
  if ref.toNat % 32 ≠ 0 then pure (.refuse cMISAL)
  else match (← Op.collRead ag ref 32) with
    | .bytes h =>
      let t := collTab h
      if !t.valid h then pure (.refuse cILL)
      else match (← Op.collRead ag ref (32 + 32 * t.tiles)) with
        | .bytes b => if tableValid b n c.xbTake.toNat then pure (.bytes b) else pure (.refuse cILL)
        | r => pure r
    | r => pure r

/-- Whether a CSTART's checks hold (R375). -/
def CollSlot.canStart (x : CollSlot) (word : Word) : Bool :=
  x.group.isSome && x.table.isSome && word.bits 63 1 = 0 && (!(x.tab.kind = 1 || x.tab.kind = 2) || x.tab.root < groupSize x.desc)

/-- The cause and operand with which a call's local-memory spans are refused when its CSTART is taken: every engine access is checked
then, against the XBOUND in force for takes (R119, R123). Beyond local memory, where a larger group has been loaded since CTAB
checked the table, the cause is BOUND (log entry 43). -/
def CollSlot.spanCause (x : CollSlot) (xb : Nat) : Option (Nat × Nat) :=
  let t := x.tab
  let span (operand off n : Nat) : Option (Nat × Nat) :=
    if Config.lmBytes < off + n then some (cBOUND, operand) else if off < xb then some (cXDATA, operand) else none
  (List.range t.tiles).findSome? fun k =>
    let e := x.tile k
    (span 0 e.src (collBytes t.inL e.count)).or (span 1 e.dst (t.dstBytes e (groupSize x.desc)))

/-- The call opens (R375, R381): the overflow list's entries for it are matched in their order, and its ready tiles
fire. -/
def Op.openCall (id : CoreId) (i : Nat) (cmd : CollCmd) : Op Unit := do
  modify fun s => s.mapSlot id i fun x => { x with
    count := x.count + 1, isOpen := true, taken := true, ended := false, fired := 0, done := 0, received := []
    ready := if cmd.ga.getLsbD 0 then x.tab.all else x.early &&& x.tab.all
    ctx := cmd.ctx, token := cmd.tok, sevpol := cmd.sevpol }
  let s ← get
  match s.callEnding id i with
  | some t => set t
  | none =>
    let c ← Op.get! (s.findCore id)
    let x := c.collSlot i
    let mine (p : Packet) : Bool := p.dest = id && p.groupId = groupId x.desc && p.seq = x.count
    let here := (s.die (dieOf c.slot)).overflow.filter mine
    let back (p : Packet) : Packet := if mine p then { p with stored := 0 } else p
    let t := s.mapDie (dieOf c.slot) fun d => { d with overflow := d.overflow.filter fun p => !mine p }
    set { t with unc := { t.unc with packets := t.unc.packets.map back } }
    Op.forEach Op.takePacket here
    Op.fireReady id i
    modify fun s => s.countHeld (dieOf c.slot)

/-- COLL_TAKE (R374, R375): the engine takes the CGRP, CTAB or CSTART at the head of the queue. -/
def Op.collTake (id : CoreId) : Op Unit := do
  let s ← get
  let c ← Op.get! (s.findCore id)
  Op.need c.resident
  match c.coll with
  | [] => Op.stall
  | cmd :: rest =>
    let ag := { s.engineAgent c cmd.ctx 0 0 with strict := true }
    let i := slotOfInstr cmd.instr
    let x := c.collSlot i
    let pop (s : State) : State := s.mapCore id fun c => { c with coll := rest }
    let finish (r : CollRead) (operand : Nat) (f : List Byte → CollSlot → CollSlot) : Op Unit :=
      match r with
      | .bytes b => modify fun s => ((pop s).mapSlot id i (f b)).collToken id cmd.ctx cmd.tok 1 0
      | .refuse cause => modify fun s => (pop s).collToken id cmd.ctx cmd.tok 1 (copyToken 0 cause operand 0x10)
      | .stop cause eaddr einfo precise => do
        modify fun s => (pop s).collToken id cmd.ctx cmd.tok 1 (copyToken 0 cause operand 0x11)
        if precise then
          modify fun s => s.reportStop id cmd.ctx cmd.tok false cause eaddr (einfo.getD (Word.ofN (operand * 2 ^ 16)))
      | .wait ref desc => do
        if (← Op.takeRefused ag ref desc) then
          modify fun s => (pop s).collToken id cmd.ctx cmd.tok 1 (copyToken 0 cFRAME operand 0x11)
      | .hold _ p => do
        Op.need (s.routeExpired p id)
        modify fun s => (pop s).collToken id cmd.ctx cmd.tok 1 (copyToken 0 cREMOTE operand 0x11)
    match cmd.instr with
    | .cgrp _ _ _ =>
      let r ← Op.readGroup ag c cmd.ga
      finish r 3 fun b x => { x with group := some b, cut := false }
    | .ctab _ _ _ =>
      let r ← Op.readTable ag c (match x.group with | some g => groupSize g | none => 1) cmd.ga
      finish r 2 fun b x => { x with table := some b }
    | .cstart _ _ _ =>
      modify pop
      let refuse (cause operand : Nat) : Op Unit := modify fun s =>
        (s.mapSlot id i fun x => { x with ended := true, taken := true }).collToken id cmd.ctx cmd.tok 1 (copyToken 0 cause operand 0x10)
      if !x.canStart cmd.ga then refuse cILL 6
      else match x.spanCause c.xbTake.toNat with
        | some (cause, operand) => refuse cause operand
        | none => Op.openCall id i cmd
    | _ => Op.stall

/-- COLL_TAKE (R374). -/
def execCollTake (core : CoreId) (s : State) : Host.Outcome State Fault Refusal := runEvent (Op.collTake core) s

end Sys2Proof.Machine
end

