-- ==== Sys2Proof/Machine/Mail.lean ====
section
/-! DEFINITION. Mail between logical cores (R390 to R394). -/

namespace Sys2Proof.Machine

/-! ### Rings and records (R390) -/

/-- The bytes of a mail ring. -/
def MailRing.bytes (r : MailRing) : Nat := 4096 * 2 ^ r.size.toNat

/-- The local offset of the record at a counter. -/
def MailRing.place (r : MailRing) (n : BitVec 32) : Nat := r.base.toNat + n.toNat % r.bytes

/-- The bytes of a record of a payload of `n` bytes: L (R390). -/
def recordBytes (n : Nat) : Nat := 32 * ((8 + n + 31) / 32)

/-- A record's header (R390). -/
def mailHeader (sender ctx kind tag n : Nat) : Word :=
  Word.ofN (sender * 2 ^ 48 + ctx * 2 ^ 44 + kind * 2 ^ 42 + 2 ^ 40 + tag * 2 ^ 16 + n)

/-- EINFO of a MAIL event for a record's header (R393). -/
def mailInfo (h : Word) : Word :=
  Word.ofN (h.bits 63 48 * 2 ^ 36 + h.bits 47 44 * 2 ^ 32 + h.bits 31 0)

/-- The ring that two configuration words give, if RECVM.cfg takes it (R392). -/
def MailRing.ofWords (w0 w1 : Word) (xb : Nat) : Option MailRing :=
  let r : MailRing := ⟨true, false, BitVec.ofNat 3 (w0.bits 22 20), BitVec.ofNat 20 (w0.bits 19 0),
    BitVec.ofNat 32 (w1.bits 63 32), BitVec.ofNat 32 (w1.bits 31 0)⟩
  if w0.bits 63 23 = 0 && w0.bits 22 20 ≤ 6 && r.base.toNat % 4096 = 0 && r.base.toNat + r.bytes ≤ 0x100000 &&
      xb ≤ r.base.toNat && r.consumer = r.producer && r.consumer.toNat % 32 = 0
  then some r else none

/-- RECVM.cfg (R392). No send has space reserved between two events: each acts as a whole. -/
def execRecvmCfg (a : BitVec 6) (s : State) : Host.Outcome State Fault Refusal :=
  performNext (.recvmCfg a) (do
    let ref ← Op.readG a
    let acc := coreAcc ref 16 0
    Op.aligned acc
    let s ← get
    let v ← Op.loadMsg [0, ref.toNat, 16, 0, 0] ref (Op.load (s.self 0) acc)
    let c ← Op.core
    match MailRing.ofWords (Word.ofN v) (Word.ofN (v / 2 ^ 64)) c.xbTake.toNat with
    | some r => Op.modCore fun c => { c with mail := r }
    | none => Op.trap cCOLL 0 3) s

/-! ### Sending (R393) -/

/-- SENDM at issue (R374, R391, R393): it waits for room in the queue and for the token register, and releases at sys
scope. -/
def execSendm (a b t : BitVec 6) (nb : Bool) (s : State) : Host.Outcome State Fault Refusal :=
  performNext (.sendm a b t nb) (do
    let x ← Op.readG a
    let y ← Op.readG b
    let c ← Op.core
    Op.need (c.coll.length < Config.queueEntries)
    Op.freeG t
    Op.release 5
    Op.claimG t
    Op.modCore fun c => { c with coll := c.coll ++ [⟨.sendm a b t nb, c.ctx.num, x, y, c.ctx.sys.sevpol, none⟩] }) s

/-- What a send finds at the destination ring (R393). -/
inductive SendStep
  /-- it ends with this status, cause and operand. -/
  | ends (status cause operand : Nat)
  /-- it waits for room. -/
  | wait
  /-- it ends with status 0x18 after an empty ring has gone back to its start. -/
  | full (ring : MailRing)
  /-- it writes: a pad first, of the bytes to the ring's end, if there is one; the ring before the record. -/
  | write (pad : Option (Nat × Nat)) (ring : MailRing)
  deriving DecidableEq, Repr

/-- A send of a record of `l` bytes, with or without NB, at a ring (R393). -/
def MailRing.send (r : MailRing) (l : Nat) (nb : Bool) : SendStep :=
  let b := r.bytes
  let e := b - r.producer.toNat % b
  let free := b - (r.producer - r.consumer).toNat
  if !r.configured then .ends 0x19 0 5
  else if r.broken then .ends 0x12 0 5
  else if b < l then .ends 0x10 cBOUND 5
  else if r.producer = r.consumer && e < l then
    let n := r.producer + BitVec.ofNat 32 e
    let back : MailRing := { r with producer := n, consumer := n }
    if nb then .full back else .write none back
  else if l ≤ e && l ≤ free then .write none r
  else if e < l && e + l ≤ free then
    .write (some (r.place r.producer, e - 8)) { r with producer := r.producer + BitVec.ofNat 32 e }
  else .wait

/-- A record written at a logical core's ring, and its MAIL event set (R393). -/
def State.putMail (s : State) (dest : CoreId) (r : MailRing) (pad : Option (Nat × Nat)) (h : Word) (payload : List Byte) :
    State :=
  let s := match pad with
    | some (off, n) => s.lmWrite dest off (bytesOf 8 (mailHeader 0 0 1 0 n).toNat)
    | none => s
  let s := s.lmWrite dest (r.place r.producer) (bytesOf 8 h.toNat ++ payload)
  let r := { r with producer := r.producer + BitVec.ofNat 32 (recordBytes payload.length) }
  s.mapCore dest fun c =>
    let c := { c with mail := r }
    c.mapCtxs fun x => if x.live then x.raiseMail 0 (mailInfo h) else x

/-- The fields of a send word (R393). -/
def sendDest (w : Word) : Nat := w.bits 47 32
def sendTag (w : Word) : Nat := w.bits 31 16
def sendLen (w : Word) : Nat := w.bits 15 0

/-- Whether a command is a SENDM, and whether it has NB. -/
def CollCmd.isSend (c : CollCmd) : Bool :=
  match c.instr with
  | .sendm _ _ _ _ => true
  | _ => false

def CollCmd.nb (c : CollCmd) : Bool :=
  match c.instr with
  | .sendm _ _ _ nb => nb
  | _ => false

/-- What the take of a send finds before its ring (R393). -/
inductive SendTake
  | ends (cause operand : Nat)
  | stop (cause : Nat) (eaddr : Word) (einfo : Option Word) (precise : Bool)
  | payload (b : List Byte)
  deriving DecidableEq, Repr

/-- The checks of a send and the read of its payload (R393). -/
def Op.sendChecks (ag : Agent) (c : LCore) (cmd : CollCmd) : Op SendTake := do
  let n := sendLen cmd.gb
  if cmd.gb.bits 63 48 ≠ 0 || 4088 < n then pure (.ends cILL 6)
  else if c.regs.lx * c.regs.ly ≤ sendDest cmd.gb then pure (.ends cRIGHT 6)
  else if cmd.ga.toNat % 8 ≠ 0 then pure (.ends cMISAL 0)
  else if 2 ^ 40 ≤ cmd.ga.toNat then pure (.ends cBOUND 0)
  else if n = 0 then pure (.payload [])
  else match (← Op.spanCheck ag cmd.ga 0 (n - 1) rightR 0) with
    | some cause => pure (.ends cause 0)
    | none =>
      let r ← Op.engineRead ag cmd.ga n .start
      match r.snag with
      | some (.stop cause eaddr einfo precise) => pure (.stop cause eaddr einfo precise)
      | some _ => Op.stall
      | none => pure (.payload (bytesOf n r.value))

/-- A send ends: its command leaves the queue and its token is written. -/
def State.endSend (s : State) (id : CoreId) (cmd : CollCmd) (status cause operand done : Nat) : State :=
  (s.mapCore id fun c => { c with coll := c.coll.drop 1 }).collToken id cmd.ctx cmd.tok 5 (copyToken done cause operand status)

/-- The logical core that a send goes to, one of the sender's copy; `none` where another package holds it, which this model
does not reach, and a ring that is not configured where it has not been placed. -/
def State.sendRing (s : State) (me : CoreId) (lcore : Nat) : Option MailRing :=
  match s.findCore { me with lcore := lcore } with
  | some c => some c.mail
  | none =>
    let elsewhere := match s.findTask me.task with
      | some t => t.binds.any fun b => b.lcore = lcore && b.package ≠ s.pkg.address
      | none => false
    if elsewhere then none else some MailRing.zero

/-- A send with its payload at the ring, indivisibly; in every copy of the destination in `copies` (R393, R433). A ring found
broken by a send that has waited also sets EVENTS.BROKEN. -/
def Op.sendAt (ids : List CoreId) (cmds : List CollCmd) (waited : Bool) : Op Unit := do
  let s ← get
  match ids.zip cmds with
  | [] => Op.stall
  | (me, cmd) :: rest =>
    let payload := cmd.payload.getD []
    let l := recordBytes payload.length
    let rings ← Op.collect (fun id => Op.get! (s.sendRing id (sendDest cmd.gb))) ids
    let steps := rings.map fun (r : MailRing) => r.send l cmd.nb
    let all := (me, cmd) :: rest
    match steps.find? fun x => match x with | .ends _ _ _ => true | _ => false with
    | some (.ends status cause operand) =>
      let one (s : State) (x : CoreId × CollCmd) : State :=
        let s := s.endSend x.1 x.2 status cause operand 0
        if waited && status = 0x12 then s.mapCtx x.1 x.2.ctx fun k => k.raiseBroken 0 0x10003 else s
      set (all.foldl one s)
    | _ =>
      let full (x : SendStep) : Bool := match x with
        | .wait => true
        | .full _ => true
        | _ => false
      if steps.any full then
        let turned (s : State) (x : (CoreId × CollCmd) × SendStep) : State :=
          let s := s.endSend x.1.1 x.1.2 0x18 0 0 0
          match x.2 with
          | .full r => s.mapCore { x.1.1 with lcore := sendDest cmd.gb } fun c => { c with mail := r }
          | _ => s
        if cmd.nb then set ((all.zip steps).foldl turned s)
        else
          Op.need (!waited)
          let begin_ (s : State) (x : CoreId × CollCmd) : State :=
            s.mapCore x.1 fun c => { c with coll := x.2 :: c.coll.drop 1 }
          set (all.foldl begin_ s)
      else
        let h := mailHeader me.lcore cmd.ctx 0 (sendTag cmd.gb) payload.length
        let one (s : State) (x : (CoreId × CollCmd) × SendStep) : State :=
          match x.2 with
          | .write pad r =>
            (s.endSend x.1.1 x.1.2 0 0 0 payload.length).putMail { x.1.1 with lcore := sendDest cmd.gb } r pad h payload
          | _ => s
        set ((all.zip steps).foldl one s)

/-- The copies that an event of a logical core's engine concerns, the primary first (R433). -/
def State.copiesOf (s : State) (id : CoreId) : List CoreId :=
  match s.findTask id.task with
  | some t => if t.twin then [{ id with copy := 0 }, { id with copy := 1 }] else [id]
  | none => [id]

/-- The sends at the heads of the queues of a logical core's copies. -/
def Op.sendHeads (s : State) (ids : List CoreId) (begun : Bool) : Op (List CollCmd) :=
  Op.collect (fun id => do
    let c ← Op.get! (s.findCore id)
    Op.need c.resident
    let cmd ← Op.get! c.coll.head?
    Op.need (cmd.isSend && cmd.payload.isSome = begun)
    pure cmd) ids

/-- A send's message as the router compares it (R433). -/
def CollCmd.message (c : CollCmd) : List Nat :=
  [6, c.gb.toNat, c.nb.toNat, c.ctx] ++ (c.payload.getD []).map (·.toNat)

/-- SENDM_TAKE (R393): the send at the head of the queue is checked and acts, or begins to wait. Under TWIN both copies'
sends are compared and one message reaches both copies of the destination (R433). -/
def Op.sendTake (id : CoreId) : Op Unit := do
  let s ← get
  let ids := s.copiesOf id
  let cmds ← Op.sendHeads s ids false
  let one (x : CoreId × CollCmd) : Op (Option CollCmd) := do
    let s ← get
    let c ← Op.get! (s.findCore x.1)
    let ag := s.engineAgent c x.2.ctx x.2.sevpol 5
    match (← Op.sendChecks ag c x.2) with
    | .payload b => pure (some { x.2 with payload := some b })
    | .ends cause operand =>
      modify fun s => s.endSend x.1 x.2 0x10 cause operand 0
      pure none
    | .stop cause eaddr einfo precise =>
      modify fun s => s.endSend x.1 x.2 0x11 cause 0 0
      if precise then modify fun s => s.reportStop x.1 x.2.ctx x.2.tok false cause eaddr (einfo.getD 0)
      pure none
  let taken ← Op.collect one (ids.zip cmds)
  let ready := taken.filterMap fun (x : Option CollCmd) => x
  if ready.length < ids.length then pure ()
  else
    let messages := ready.map CollCmd.message
    let first := messages.headD []
    let seq := ((s.findCore { id with copy := 0 }).map (·.sendSeq)).getD 0
    if messages.all fun m => m = first then
      modify fun s => ids.foldl (init := s) fun s id => s.mapCore id fun c => { c with sendSeq := c.sendSeq + 1 }
      Op.sendAt ids ready false
    else
      set s
      Op.twinMismatch { id with copy := 0 } ((ready.head?.map (·.ctx)).getD 0) seq (messageHash first)
        (messageHash (messages.getD 1 []))

/-- SENDM_TAKE (R393). -/
def execSendmTake (core : CoreId) (s : State) : Host.Outcome State Fault Refusal := runEvent (Op.sendTake core) s

/-- SENDM_RETRY (R393): a send that waits finds room, or the ring broken. -/
def execSendmRetry (core : CoreId) (s : State) : Host.Outcome State Fault Refusal :=
  runEvent (do
    let s ← get
    let ids := s.copiesOf core
    let cmds ← Op.sendHeads s ids true
    Op.sendAt ids cmds true) s

/-! ### Receiving (R394) -/

/-- Pads at the consumer passed over: as many as the ring can hold, at most `fuel`. -/
def Op.skipPads (ag : Agent) : Nat → MailRing → Op (MailRing × Option Word)
  | 0, r => pure (r, none)
  | fuel + 1, r => do
    if r.producer = r.consumer then pure (r, none)
    else
      let off := r.place r.consumer
      let s ← get
      let v ← Op.localLoad ag ⟨Word.ofN off, 8, 3, 0, 0⟩ s.core.id off
      let h := Word.ofN v
      if h.bits 43 42 = 1 then
        Op.skipPads ag fuel { r with consumer := r.consumer + BitVec.ofNat 32 (recordBytes (h.bits 15 0)) }
      else pure (r, some h)

/-- Whether the context in focus is the next to be served of those that wait (R394). -/
def LCore.mailTurn (c : LCore) : Bool :=
  match c.mailWaits with
  | [] => true
  | n :: _ => n = c.ctx.num

/-- The context in focus waits for mail no longer. -/
def LCore.mailServed (c : LCore) : LCore := { c with mailWaits := c.mailWaits.filter fun n => n ≠ c.ctx.num }

/-- A record's payload copied to local memory, at most `fuel` pieces of 128 bytes. -/
def Op.copyPayload (ag : Agent) : Nat → Nat → Nat → Nat → Op Unit
  | 0, _, _, _ => pure ()
  | fuel + 1, src, dst, n => do
    if n = 0 then pure ()
    else
      let k := min n 128
      let s ← get
      let v ← Op.localLoad ag ⟨Word.ofN src, k, 7, 0, 0⟩ s.core.id src
      Op.localStore ag ⟨Word.ofN dst, k, 7, 1, 0⟩ s.core.id dst v (2 ^ k - 1)
      Op.copyPayload ag fuel (src + k) (dst + k) (n - k)

/-- RECVM (R394). -/
def execRecvm (a b t : BitVec 6) (nb : Bool) (s : State) : Host.Outcome State Fault Refusal :=
  performNext (.recvm a b t nb) (do
    let ref ← Op.readG a
    let cap ← Op.readG b
    let s ← get
    Op.need (!s.ctx.pendG.getLsbD t.toNat)
    let c := s.core
    let ag := s.self 0
    if !c.mail.configured then Op.trap cCOLL 0 2
    else
      let n := min cap.toNat 4088
      let acc : Acc := ⟨ref, n, 0xF, 1, 0⟩
      if ref.toNat % 8 ≠ 0 then Op.accTrap cMISAL acc 0
      else if 2 ^ 40 ≤ ref.toNat then Op.accTrap cBOUND acc 0
      else
        if n ≠ 0 then discard (Op.localTarget ag acc true)
        let (r, h) ← Op.skipPads ag (c.mail.bytes / 32 + 1) c.mail
        match h with
        | none =>
          Op.modCore fun c => { c with mail := r }
          if nb then Op.writeG t 0
          else if r.broken then
            Op.modCore LCore.mailServed
            Op.modCtx fun x => x.raiseBroken 0 0x10003
            Op.writeG t 1
          else if c.mailWaits.contains c.ctx.num then Op.stall
          else
            Op.modCore fun c => { c with mailWaits := c.mailWaits ++ [c.ctx.num] }
            Op.block
        | some h =>
          Op.need c.mailTurn
          if cap.toNat < h.bits 15 0 then
            Op.modCore fun c => { c.mailServed with mail := r }
            Op.writeG t (h ||| Word.ofN (2 ^ 41))
          else
            Op.copyPayload ag 32 (r.place r.consumer + 8) ref.toNat (h.bits 15 0)
            Op.modCore fun c => { c.mailServed with
              mail := { r with consumer := r.consumer + BitVec.ofNat 32 (recordBytes (h.bits 15 0)) } }
            Op.acquire 5
            Op.writeG t h) s

end Sys2Proof.Machine
end

