-- ==== Sys2Proof/Machine/Control.lean ====
section
/-! DEFINITION. Branches and jumps (R168 to R170), hints (R131 to R140), and the words that are never an instruction
(R129, R119). -/

namespace Sys2Proof.Machine

/-- A conditional branch (R168): both sources read, then the outcome. -/
def Op.branch (c a : BitVec 6) (imm : BitVec 14) (taken : Word → Word → Bool) : Op Exit := do
  let x ← Op.readG c
  let y ← Op.readG a
  let ctx ← Op.ctx
  pure (.branch (taken x y) (branchTarget ctx.pc imm))

/-- BEQ (R168). -/
def execBeq (c a : BitVec 6) (imm : BitVec 14) (s : State) : Host.Outcome State Fault Refusal :=
  perform (.beq c a imm) (Op.branch c a imm fun x y => x = y) s

/-- BNE (R168). -/
def execBne (c a : BitVec 6) (imm : BitVec 14) (s : State) : Host.Outcome State Fault Refusal :=
  perform (.bne c a imm) (Op.branch c a imm fun x y => x ≠ y) s

/-- BLT (R168). -/
def execBlt (c a : BitVec 6) (imm : BitVec 14) (s : State) : Host.Outcome State Fault Refusal :=
  perform (.blt c a imm) (Op.branch c a imm ltS) s

/-- BGE (R168). -/
def execBge (c a : BitVec 6) (imm : BitVec 14) (s : State) : Host.Outcome State Fault Refusal :=
  perform (.bge c a imm) (Op.branch c a imm fun x y => !ltS x y) s

/-- BLTU (R168). -/
def execBltu (c a : BitVec 6) (imm : BitVec 14) (s : State) : Host.Outcome State Fault Refusal :=
  perform (.bltu c a imm) (Op.branch c a imm ltU) s

/-- BGEU (R168). -/
def execBgeu (c a : BitVec 6) (imm : BitVec 14) (s : State) : Host.Outcome State Fault Refusal :=
  perform (.bgeu c a imm) (Op.branch c a imm fun x y => !ltU x y) s

/-- JAL (R169): g1 receives its own offset + 4. -/
def execJal (imm : BitVec 26) (s : State) : Host.Outcome State Fault Refusal :=
  perform (.jal imm) (do
    let c ← Op.ctx
    Op.writeG 1 (Word.ofN (c.pc.toNat + 4))
    pure (.jump (jalTarget c.pc imm))) s

/-- A code offset in a register: a multiple of 4 below 0x10_0000, or MISAL with EADDR the value (R170, R173). -/
def Op.codeTarget (t : Word) : Op (BitVec 21) :=
  if t.toNat % 4 ≠ 0 || 0x100000 ≤ t.toNat then Op.trap cMISAL t ((⟨t, 4, 2, 4, 0⟩ : Acc).info 0)
  else pure (BitVec.ofNat 21 t.toNat)

/-- JALR (R170). The immediate takes no extension (R133). -/
def execJalr (d a : BitVec 6) (imm : BitVec 14) (s : State) : Host.Outcome State Fault Refusal :=
  perform (.jalr d a imm) (do
    let x ← Op.readG a
    Op.freeG d
    let t ← Op.codeTarget (x + imm.signExtend 64)
    let c ← Op.ctx
    Op.writeG d (Word.ofN (c.pc.toNat + 4))
    pure (.jump t)) s

/-! ### Hints -/

/-- What each prefix word adds to its group; one of a kind too many makes the group ILL (R132). -/
def Pfx.addImmx (p : BitVec 22) (x : Pfx) : Pfx :=
  if 2 ≤ x.immx.length then { x with excess := true } else { x with immx := x.immx ++ [p] }

def Pfx.addLikely (taken : Bool) (x : Pfx) : Pfx :=
  if x.likely.isSome then { x with excess := true } else { x with likely := some taken }

def Pfx.addNofold (x : Pfx) : Pfx := if x.nofold then { x with excess := true } else { x with nofold := true }

/-- IMMX (R133): a prefix; a third one makes the group ILL (R132). -/
def execImmx (p : BitVec 22) (s : State) : Host.Outcome State Fault Refusal := performPrefix (Pfx.addImmx p) s

/-- LIKELY (R135): a prefix; a second one makes the group ILL (R132). It changes no outcome. -/
def execLikely (taken : Bool) (s : State) : Host.Outcome State Fault Refusal := performPrefix (Pfx.addLikely taken) s

/-- NOFOLD (R136): a prefix; a second one makes the group ILL (R132). -/
def execNofold (s : State) : Host.Outcome State Fault Refusal := performPrefix Pfx.addNofold s

/-- What a word adds to its group, where it is a prefix word. -/
def prefixOf (i : Instr) : Option (Pfx → Pfx) :=
  match i with
  | .immx p => some (Pfx.addImmx p)
  | .likely t => some (Pfx.addLikely t)
  | .nofold => some Pfx.addNofold
  | _ => none

/-- PRIO (R137). -/
def execPrio (n : BitVec 3) (s : State) : Host.Outcome State Fault Refusal :=
  performNext (.prio n) (Op.modCtx fun c => { c with level := n }) s

/-- REV (R138, R411): any revision but 1 raises ARCH, with entry at TRAPV. -/
def execRev (n : BitVec 8) (s : State) : Host.Outcome State Fault Refusal :=
  performNext (.rev n) (do
    let c ← Op.ctx
    if n = 1 then Op.modCtx fun c => { c with revn := 1 }
    else Op.trap cARCH (Word.ofN c.pc.toNat) (wordInfo n ((encode (.rev n)).getD 0))) s

/-- The cause that a 1-byte load of a reference would raise, 0 where it would not trap (R139, R183); where its frame is not resident
the descriptor's address comes with it. The load is not made. -/
def Op.loadCause (ref : Word) : Op (Nat × Option Nat) := do
  let s ← get
  let ag := s.self 0
  let acc := coreAcc ref 1 5
  match (Op.checkAccess ag acc rightR) s with
  | .error (.trap t) => pure (t.cause.toNat, none)
  | .error _ => Op.stall
  | .ok (_, s') =>
    set s'
    if refHandle ref ≤ 1 then pure (0, none)
    else
      let desc ← Op.descriptor ag acc
      let w ← Op.foreseen (Op.translate (dieOf s.core.slot) desc (refOffset ref) true)
      let s ← get
      pure (match w with
        | .bad | .unread => (cSTRUCT, none)
        | .notres _ => (cFRAME, some desc.addr)
        | .moving => (0, none)
        | .host _ => (if s.pkg.hostUp then 0 else cREMOTE, none)
        | .bank b => (match s.placeGone ⟨ag.queue, refHandle ref, desc, refOffset ref, b, false⟩ with
          | some (cause, _) => (cause, none)
          | none => (0, none))
        | .stale => (cREMOTE, none))

/-- What a SPIN on a reference watches (R139), where it waits at all: not for a reference that would trap for a 1-byte load, and
for the scoped and the coherent class only while the line is valid in the context's L1. -/
def State.spinWatch (s : State) (ref : Word) : Option Watch :=
  let ag := s.self 0
  let a := coreAcc ref 1 0
  match (Op.loadCause ref) s with
  | .error _ => none
  | .ok ((cause, _), s') =>
    if cause ≠ 0 then none
    else if refHandle ref ≤ 1 then
      match (Op.localTarget ag a false) s' with
      | .ok ((id, off), _) => some (.block id (off / 128))
      | .error _ => none
    else match (Op.descriptor ag a) s' with
      | .error _ => none
      | .ok (d, s') =>
        if 2 ≤ d.cls then some .nothing
        else match (Op.translate (dieOf s.core.slot) d (refOffset ref) true) s' with
          | .ok (.bank b, _) => match s.findLine (clusterOf s.core.slot) (b / 128) with
            | some l => if l.l1s.contains s.core.slot && l.valid.getLsbD (b % 128) then some (.line (b / 128)) else none
            | none => none
          | _ => none

/-- What a SPIN of the context in focus would wait for: nothing where an enabled event is already pending (R139). -/
def State.spinHeld (s : State) (a : BitVec 6) : Option Watch :=
  if s.ctx.sys.events &&& s.ctx.sys.evmask = 0 then s.spinWatch (s.ctx.gval a.toNat) else none

/-- SPIN (R139): the context stops issuing until SPIN_WAIT_END. In a gang none waits where the wait of some member ends at
once. -/
def execSpin (a : BitVec 6) (s : State) : Host.Outcome State Fault Refusal :=
  performNext (.spin a) (do
    let ref ← Op.readG a
    let s ← get
    match s.spinHeld a with
    | none => pure ()
    | some w =>
      if s.together.all fun id => ((s.focus id s.ctx.num).spinHeld a).isSome then
        Op.modCtx fun c => { c with wait := some (.spin ref w false s.cycle) }) s

/-- NOP and HNOP (R140). -/
def execHnop (k : BitVec 4) (p : BitVec 22) (s : State) : Host.Outcome State Fault Refusal :=
  performNext (.hnop k p) (pure ()) s

/-- A fetched word that is ILL at decode (R129): the trap, taken at its group (R132). -/
def execIll (w : BitVec 32) (s : State) : Host.Outcome State Fault Refusal :=
  if !s.ctx.live then .fault .noContext
  else if s.waits then .next { s with stalled := true }
  else if s.inGang then
    let n := s.ctx.num
    .next ((((s.gang s.core).map (·.id)).foldl (init := s) fun (s : State) id =>
      let t := s.focus id n
      t.takeTrap (t.illTrap w.toNat)).focus s.core.id n)
  else .next (s.takeTrap (s.illTrap w.toNat))

/-- A fetch at an offset at or above XBOUND (R119, R120): EADDR is that offset, EINFO the XBOUND in force. In a gang the
leader's fetch governs and every member takes the trap. No word issues (R153). -/
def execXfetch (off : BitVec 21) (s : State) : Host.Outcome State Fault Refusal :=
  if !s.ctx.live then .fault .noContext
  else if s.waits then .next { s with stalled := true }
  else
    let t : Trap := ⟨BitVec.ofNat 8 cXFETCH, Word.ofN off.toNat, Word.ofN s.core.xbound.toNat, none, none, none⟩
    if s.inGang then
      let n := s.ctx.num
      .next ((((s.gang s.core).map (·.id)).foldl (init := s) fun (s : State) id => (s.focus id n).takeTrapAt t).focus s.core.id n)
    else .next (s.takeTrapAt t)

end Sys2Proof.Machine
end

