-- ==== Sys2Proof/Machine/Fences.lean ====
section
/-! DEFINITION. FENCE, FENCE.E, WBR and INVR (R325 to R329). -/

namespace Sys2Proof.Machine

/-- FENCE (R326): with ls or ss a release at its scope, with ll or ls an acquire at its scope; with sl or ss it waits for the
context's reductions, its only stores that are not applied when they issue, at whatever site (R316 item 4 knows no scope). -/
def execFence (e : BitVec 4) (sc : Scope) (s : State) : Host.Outcome State Fault Refusal :=
  performNext (.fence e sc) (do
    let s ← get
    Op.need (!(e.getLsbD 2 || e.getLsbD 3) || !s.ownReds)
    if e.getLsbD 1 || e.getLsbD 3 then Op.release sc.num
    if e.getLsbD 0 || e.getLsbD 1 then Op.acquire sc.num) s

/-- Whether a report is taken at FENCE.E: a copy's or a collective's (R420, R386), or one passed by a helper (R174). -/
def Report.atFenceE (r : Report) : Bool :=
  match r.kind with
  | .engine _ m => !m
  | .bank _ => false
  | .passed _ _ => true

/-- FENCE.E (R327): not ready until every engine command that the context enqueued has ended; then an acquire and a release
at its scope. A pending stop of R243 is not taken here; a copy's or a collective's is (R420, R386). -/
def execFenceE (sc : Scope) (s : State) : Host.Outcome State Fault Refusal :=
  performNext (.fenceE sc) (do
    let s ← get
    Op.need (!s.core.enginePending s.ctx.num)
    match s.ctx.reports.find? fun r => r.atFenceE with
    | some r => Op.takeReport r
    | none =>
      Op.acquire sc.num
      Op.release sc.num) s

/-- The checks of a range (R328): as a load of it with no right needed and no XDATA check. The object's class, if it is an
object, and its lines' banks are found with it. -/
def Op.rangeCheck (ref len : Word) : Op (Option Desc) := do
  let s ← get
  let acc : Acc := ⟨ref, len.toNat, 0xF, 5, 0⟩
  if len = 0 then pure none
  else if 2 ^ 40 ≤ len.toNat then Op.accTrap cBOUND acc 0
  else if refHandle ref ≤ 1 then
    let _ ← Op.localTarget (s.self 0) acc false
    pure none
  else
    let d ← Op.descriptor (s.self 0) acc
    Op.descCheck (s.self 0) acc 0 d
    pure (some d)

/-- The tags of the lines of an object's range, widened to whole lines, that are resident: frame by frame, each line. -/
def State.rangeTags (s : State) (d : Desc) (off len : Nat) : List Nat :=
  ((List.range ((off + len + 127) / 128 - off / 128)).map fun i => 128 * (off / 128 + i)).filterMap fun o =>
    match s.unc.priv.walk d.extents (o / 65536) with
    | .entry fe =>
      let w := s.unc.priv.word fe
      if w.bits 63 62 = 1 then (match entryPlace w o with | .bank b => some (b / 128) | _ => none) else none
    | _ => none

/-- The clean class-0 bytes of one line of a cluster invalidated (R329); SPINs that watch the line are over (R139). -/
def State.invalidateTag (s : State) (cl tag : Nat) : State :=
  let gone : Bool := s.unc.lines.any fun l => l.tag = tag && (CacheLine.acquired cl l).isNone
  let s := if gone then s.wakeLine cl tag else s
  { s with unc := { s.unc with lines := s.unc.lines.filterMap fun l =>
      if l.tag = tag then CacheLine.acquired cl l else some l } }

/-- The lines of a range that a cluster holds as class-0 lines. -/
def State.heldTags (s : State) (d : Desc) (off len : Nat) : List Nat :=
  let held := (s.unc.lines.filter fun l => l.cluster = clusterOf s.core.slot && l.state = .scoped).map (·.tag)
  if held = [] then [] else (s.rangeTags d off len).filter fun t => held.contains t

/-- WBR (R328): the dirty class-0 bytes of the range are written back; then a release fence at its scope that carries, of
class 0, only the range. For other memory it acts as FENCE.rel. -/
def execWbr (a b : BitVec 6) (sc : Scope) (s : State) : Host.Outcome State Fault Refusal :=
  performNext (.wbr a b sc) (do
    let ref ← Op.readG a
    let len ← Op.readG b
    match (← Op.rangeCheck ref len) with
    | some d =>
      if d.cls = 0 then
        Op.releaseWait sc.num
        let clean (s : State) (t : Nat) : State := s.cleanLine (clusterOf s.core.slot) t
        modify fun s => (s.heldTags d (refOffset ref) len.toNat).foldl clean s
      else Op.release sc.num
    | none => if len = 0 then Op.releaseWait sc.num else Op.release sc.num) s

/-- INVR (R329): the clean class-0 bytes of the range are invalidated; then an acquire fence that orders, of class 0, only
the range. For other memory it acts as FENCE.acq. -/
def execInvr (a b : BitVec 6) (sc : Scope) (s : State) : Host.Outcome State Fault Refusal :=
  performNext (.invr a b sc) (do
    let ref ← Op.readG a
    let len ← Op.readG b
    match (← Op.rangeCheck ref len) with
    | some d =>
      if d.cls = 0 then
        let drop (s : State) (t : Nat) : State := s.invalidateTag (clusterOf s.core.slot) t
        modify fun s => (s.heldTags d (refOffset ref) len.toNat).foldl drop s
      else Op.acquire sc.num
    | none => if len = 0 then pure () else Op.acquire sc.num) s

end Sys2Proof.Machine
end

