-- ==== Sys2Proof/Machine/System.lean ====
section
/-! DEFINITION. Context and system instructions (R171 to R190), and the events of one context: an event taken, a
helper's end, the end of a SPIN, and the answers of the host (R401, R174, R139, R454, R455). -/

namespace Sys2Proof.Machine

/-- A word refused in task mode (R399): EADDR its offset, EINFO the word. -/
def Op.privTrap {α : Type} (i : Instr) : Op α := do
  let c ← Op.ctx
  Op.trap cPRIV (Word.ofN c.pc.toNat) (wordInfo c.revn ((encode i).getD 0))

/-- A CTX word refused at run time (R172). -/
def Op.ctxTrap {α : Type} (reason helper : Nat) : Op α := Op.trap cILL 0 (Word.ofN (reason * 16 + helper))

/-! ### Helpers (R171 to R176) -/

/-- The helper as START leaves it (R173, and the reset column of R187 for the registers that a trap entry writes and for DEFER;
log entry 79). A special-function request of the helper's earlier life is not dropped: its register stays pending, and its result
lands in the new life; the late value of an earlier far atomic is dropped (DESIGN CHOICE, log entry 97). -/
def Ctx.started (h issuer : Ctx) (t : BitVec 21) (arg seed : Word) (home : Bool) : Ctx :=
  let z := { h with
    live := true
    pc := t
    pfx := none
    level := 3
    revn := issuer.revn
    ar := false
    byp := false
    ovlActive := false
    g := Vector.replicate 64 0
    v := Vector.replicate 32 0
    k := Vector.replicate 8 0
    sys := { h.sys with
      rkey := seed, tensor := issuer.sys.tensor, evmask := 0, events := 0, svclvl := svclvlOf false false home
      epc := 0, ecause := 0, eaddr := 0, einfo := 0, deferred := 0 }
    pendG := h.arriving.foldl (fun (m : BitVec 64) (e : BitVec 6 × Word) => m &&& ~~~(1#64 <<< e.1.toNat)) h.pendG
    arriving := []
    wait := none
    hostGot := []
    farGot := none
    refused := none
    remoteBad := none
    progress := none
    ringRec := none
    stopReq := false
    twinMsg := none
    dirty := ⟨BitVec.allOnes 64, BitVec.allOnes 32, BitVec.allOnes 8, none⟩ }
  z.setG 3 arg

/-- START (R173). -/
def execStart (n a b : BitVec 6) (s : State) : Host.Outcome State Fault Refusal :=
  perform (.start n a b) (do
    let t ← Op.readG a
    let arg ← Op.readG b
    let s ← get
    if s.core.regs.helpers < n.toNat then Op.ctxTrap 1 n.toNat
    else if (match s.core.findCtx n.toNat with | some h => h.live | none => false) then Op.ctxTrap 2 n.toNat
    else
      let pc ← Op.codeTarget t
      let home := s.homeHere
      Op.modCore fun c => c.mapCtx n.toNat fun h => h.started s.ctx pc arg c.regs.seed home
      pure (.keyed t)) s

/-- STOP (R174): the helper ends at its next instruction boundary. -/
def execStop (n : BitVec 6) (s : State) : Host.Outcome State Fault Refusal :=
  performNext (.stop n) (do
    let c ← Op.ctx
    if c.num = n.toNat then Op.ctxTrap 3 n.toNat
    else Op.modCore fun c => c.mapCtx n.toNat fun h => { h with stopReq := h.live }) s

/-- JOIN (R175). It waits too for a write of the helper to its g3 that is still on its way (R152). -/
def execJoin (d n : BitVec 6) (s : State) : Host.Outcome State Fault Refusal :=
  performNext (.join d n) (do
    let c ← Op.core
    if c.ctx.num = n.toNat then Op.ctxTrap 3 n.toNat
    else match c.findCtx n.toNat with
      | some h =>
        Op.need (!h.live && !h.pendG.getLsbD 3)
        Op.writeG d (h.gval 3)
      | none => Op.writeG d 0) s

/-- A context outside an issue group and outside a word that has begun at a bank or at the host: where it can be stopped
or interrupted (R134, R401, R403). -/
def Ctx.atBoundary (c : Ctx) : Bool :=
  c.pfx.isNone && c.farGot.isNone && c.hostGot = [] && (match c.wait with
    | some .far | some (.host _ _ _) | some .twin | some .rollback => false
    | _ => true)

/-- A report passed to context 0 (R174). -/
def Report.pass (r : Report) : Report :=
  { r with kind := match r.kind with
      | .engine _ m => .passed none m
      | .bank die => .passed (some die) false
      | .passed d m => .passed d m }

/-- HELPER_STOP_END (R174). -/
def execHelperStopEnd (c : CtxId) (s : State) : Host.Outcome State Fault Refusal :=
  runEvent (do
    let s ← get
    let core ← Op.get! (s.findCore c.core)
    let h ← Op.get! (core.findCtx c.num)
    Op.need (h.live && h.stopReq && h.atBoundary && c.num ≠ 0)
    let passed := h.reports.map Report.pass
    set (s.mapCore c.core fun k =>
      let k := k.mapCtx c.num fun x => { x with live := false, stopReq := false, wait := none, reports := [], progress := none, ringRec := none }
      let k := k.mapCtx 0 fun x => { x with reports := x.reports ++ passed }
      { k with
        mx := { k.mx with skipFor := if k.mx.skipFor = some c.num then some 0 else k.mx.skipFor }
        mailWaits := k.mailWaits.filter fun n => n ≠ c.num
        xbTake := match k.raise with
          | some r => if r.ctx = c.num then k.xbound else k.xbTake
          | none => k.xbTake
        raise := k.raise.filter fun r => r.ctx ≠ c.num })) s

/-- END (R176, R327, R285): waits for the context's engine commands, sends and reductions, and for context 0 for the helpers;
takes its pending reports; then the context is no longer live, and context 0 departs from its barriers
(R352). -/
def execEndCtx (s : State) : Host.Outcome State Fault Refusal :=
  performNext .endCtx (Op.whole (do
    let s ← get
    let c := s.ctx
    Op.need (!s.core.enginePending c.num)
    Op.need (!s.unc.bankOps.any fun o => o.core = s.core.id && o.ctx = c.num && !o.far)
    Op.need (c.num ≠ 0 || !s.core.others.any fun h => h.live)
    match c.reports with
    | r :: _ => Op.takeReport r
    | [] =>
      if c.num = 0 then Op.depart s.core.id
      Op.modCtx fun c => { c with live := false, stopReq := false })) s

/-! ### YIELD, FUSE, SPLIT (R177, R178) -/

/-- YIELD (R177): the context waits until the other contexts that may issue have issued once. -/
def execYield (s : State) : Host.Outcome State Fault Refusal :=
  performNext .yield (Op.modCore fun c =>
    let mine := (c.others.filter fun x => x.live && x.wait.isNone).map (·.num)
    if mine = [] then c else { c with ctx := { c.ctx with wait := some (.yielded mine) } }) s

/-- FUSE and SPLIT are refused to helpers and while a helper is live (R172). -/
def Op.gangWord : Op Unit := do
  let c ← Op.core
  if c.ctx.num ≠ 0 || c.others.any (fun h => h.live) then Op.ctxTrap 4 0

/-- The last member of a split gang issues FUSE (R178): all go on fused from the next word, or, where their words lie at
different offsets, every member traps GANG. -/
def State.fuseAll (s : State) : State :=
  let me := s.core.id
  let members := s.gang s.core
  let lead := match members with
    | m :: _ => m.fuseAt
    | [] => none
  let bits := bitsOf (members.map fun m => decide (m.fuseAt ≠ lead))
  let each (f : State → State) : State :=
    (members.foldl (init := s) fun (s : State) m => f (s.focus m.id 0)).focus me 0
  if bits = 0 then
    each fun s =>
      let word := s.setCtx { s.ctx with pc := s.core.fuseAt.getD s.ctx.pc }
      let s := if s.core.id = me then s else word.finish .next
      { s with core := { s.core with fused := true, fuseAt := none } }
  else each fun s => { s.takeTrap (gangTrap bits) with stalled := false }

/-- FUSE (R178). -/
def execFuse (s : State) : Host.Outcome State Fault Refusal :=
  perform .fuse (do
    Op.gangWord
    let s ← get
    if s.core.regs.gangsz ≤ 1 || s.core.fused then pure .next
    else if s.core.fuseAt.isSome then Op.stall
    else
      set { s with core := { s.core with fuseAt := some s.ctx.pc } }
      let s ← get
      if (s.gang s.core).any fun m => m.fuseAt.isNone then Op.block
      else
        let t := s.fuseAll
        if t.core.fused then
          set t
          pure .next
        else
          set t
          pure .set) s

/-- SPLIT (R178). -/
def execSplit (s : State) : Host.Outcome State Fault Refusal :=
  performNext .split (do
    Op.gangWord
    Op.modCore fun c => if 1 < c.regs.gangsz then { c with fused := false, fuseAt := none } else c) s

/-! ### TRAP, ERET, HALT (R181, R182, R184) -/

/-- TRAP (R181). -/
def execTrap (c : BitVec 8) (s : State) : Host.Outcome State Fault Refusal :=
  performNext (.trap c) (Op.trap cSWTRAP 0 (Word.ofN c.toNat)) s

/-- ERET (R182, R413). -/
def execEret (s : State) : Host.Outcome State Fault Refusal :=
  perform .eret (do
    Op.modCtx Ctx.eret
    pure .set) s

/-- The events that are pending and enabled (R401). -/
def Ctx.enabledEvents (c : Ctx) : Word := c.sys.events &&& c.sys.evmask

/-- HALT (R184): in a handler it issues once an enabled event is pending; outside one, the event is taken before it. -/
def execHalt (s : State) : Host.Outcome State Fault Refusal :=
  performNext .halt (do
    let c ← Op.ctx
    if !c.supervisor then Op.privTrap .halt
    else Op.need (c.enabledEvents ≠ 0 && c.ti)) s

/-- The trap of the event that a context takes at its boundary (R401). -/
def Ctx.eventTrap (c : Ctx) : Option Trap :=
  let e := c.enabledEvents
  let mk (cause : Nat) (i : Word × Word) : Option Trap := some ⟨BitVec.ofNat 8 cause, i.1, i.2, none, none, none⟩
  if c.ti || !c.live || !c.atBoundary then none
  else if e.getLsbD 0 then mk cBROKEN c.evInfo.broken
  else if e.getLsbD 1 then mk cMAIL c.evInfo.mail
  else if e.getLsbD 2 then mk cHANDBACK c.evInfo.handback
  else none

/-- TAKE_EVENT (R401): the lowest pending enabled event enters the handler; in a fused gang the other members trap GANG
(R157). -/
def execTakeEvent (c : CtxId) (s : State) : Host.Outcome State Fault Refusal :=
  runEvent (do
    let s ← get
    let core ← Op.get! (s.findCore c.core)
    Op.need (core.resident && (core.findCtx c.num).isSome)
    let back := s.core.id
    let n := s.ctx.num
    let t := s.focus c.core c.num
    let ids := if t.inGang then (t.gang t.core).map (·.id) else [c.core]
    let traps := ids.map fun id => (t.focus id c.num).ctx.eventTrap
    Op.need (traps.any (·.isSome) && ids.all fun id => (t.focus id c.num).ctx.atBoundary)
    let bits := bitsOf (traps.map (·.isSome))
    set (((ids.zip traps).foldl (init := t) fun (u : State) p =>
      (u.focus p.1 c.num).takeEvent (p.2.getD (gangTrap bits))).focus back n)) s

/-! ### GETS (R180, R187 to R190) -/

/-- A metering counter as last folded, plus the unfolded count (R189). -/
def State.metr (s : State) (i : Nat) : Word :=
  let base : Word := match s.findTask s.core.id.task with
    | some t => match s.findMeter t.meter with
      | some m => m.counters.toList.getD i 0
      | none => 0
    | none => 0
  base + s.ctx.unit.counts.toList.getD i 0

/-- The system registers that placement loads or that show counts and states (R187). -/
def State.sysPlaced (s : State) (r : Nat) : Word :=
  let p := s.core.regs
  if r = 0x000 then Word.ofN s.ctx.num
  else if r = 0x001 then Word.ofN p.lcore
  else if r = 0x002 then Word.ofN (p.ly * 65536 + p.lx)
  else if r = 0x003 then Word.ofN s.lthread
  else if r = 0x004 then Word.ofN p.gangix
  else if r = 0x005 then Word.ofN p.gangsz
  else if r = 0x006 then tcbRef s.core.id.task
  else if r = 0x007 then Word.ofN p.queue.toNat
  else if r = 0x008 then p.seed
  else if r = 0x009 then p.step
  else if r = 0x00E then Word.ofN s.ctx.level.toNat
  else if r = 0x00F then Word.ofN s.ctx.revn.toNat
  else if 0x010 ≤ r && r ≤ 0x01F then p.args.toList.getD (r - 0x010) 0
  else if r = 0x020 then (s.die (dieOf s.core.slot)).cycle
  else if r = 0x021 then s.timeUs
  else if 0x030 ≤ r && r ≤ 0x033 then p.dmem.toList.getD (r - 0x030) 0
  else if 0x070 ≤ r && r ≤ 0x077 then s.metr (r - 0x070)
  else 0

/-- The value of a system register as the context in focus sees it (R187). -/
def State.sysValue (s : State) (r : Nat) : Word :=
  let y := s.ctx.sys
  if r = 0x00A then y.rkey
  else if r = 0x00B then y.tensor
  else if r = 0x00C then Word.ofN s.core.xbound.toNat
  else if r = 0x00D then y.ovlh
  else if r = 0x022 then y.deferred
  else if r = 0x040 then y.events
  else if r = 0x041 then y.evmask
  else if r = 0x050 then y.trapv
  else if r = 0x051 then y.epc
  else if r = 0x052 then y.ecause
  else if r = 0x053 then y.eaddr
  else if r = 0x054 then y.einfo
  else if r = 0x055 then y.svclvl
  else if r = 0x060 then y.sevpol
  else if r = 0x061 then s.core.shadown
  else if r = 0x062 then y.injen
  else if r = 0x080 then s.core.archmap
  else s.sysPlaced r

/-- GETS (R180). -/
def execGets (d : BitVec 6) (r : BitVec 12) (s : State) : Host.Outcome State Fault Refusal :=
  performNext (.gets d r) (do
    Op.freeG d
    let s ← get
    if r = 0x080 && !s.ctx.supervisor then Op.privTrap (.gets d r)
    else Op.writeG d (s.sysValue r.toNat)) s

/-- A system register that a context holds, written with its reserved and RO fields left alone (R6, R7, R187, R188);
`sup` is supervisor mode. XBOUND, SHADOWN and ARCHMAP are the core's. -/
def SysRegs.write (y : SysRegs) (r : Nat) (v : Word) (sup : Bool) : SysRegs :=
  let code := v &&& 0xFFFFC
  if r = 0x00A then { y with rkey := v }
  else if r = 0x00B then { y with tensor := v }
  else if r = 0x00D then { y with ovlh := code }
  else if r = 0x040 then { y with events := y.events &&& ~~~v }
  else if r = 0x041 then { y with evmask := v &&& 7 }
  else if r = 0x050 then { y with trapv := code }
  else if r = 0x051 then { y with epc := code }
  else if r = 0x052 then { y with ecause := v &&& 0xFF }
  else if r = 0x053 then { y with eaddr := v }
  else if r = 0x054 then { y with einfo := v }
  else if !sup then y
  else if r = 0x055 then { y with svclvl := (y.svclvl &&& 5) ||| (v &&& 2) }
  else if r = 0x060 then { y with sevpol := v &&& 0x00FFFF06 }
  else if r = 0x062 then { y with injen := v &&& 1 }
  else y

/-! ### TOUCH, OBJINV, EINJ (R183, R185, R186) -/

/-- TOUCH (R183): the cause that a 1-byte load would raise, and residency service of kind 2 where its frame is not
resident. It is no access, and the port's counts leave it out (R269). -/
def execTouch (d a : BitVec 6) (s : State) : Host.Outcome State Fault Refusal :=
  performNext (.touch d a) (do
    let ref ← Op.readG a
    Op.freeG d
    let (cause, missing) ← Op.loadCause ref
    match missing with
    | some desc => modify fun s => s.requestResidency (s.self 0) ref desc 2 (dieOf s.core.slot)
    | none => pure ()
    Op.writeG d (Word.ofN cause)) s

/-- Whether some shoot-down that firmware began on a frame of the object of a descriptor address still waits for a port: steps 2
to 4 are not over (R261). -/
def State.shooting (s : State) (desc : Nat) : Bool :=
  let p := s.unc.priv
  let list := (p.word (desc + 16)).toNat
  let es := p.extents list (min (2 ^ 20) ((p.word list).bits 31 0)) 0
  s.unc.shoots.any fun x => x.copyTo.isNone &&
    (es.any fun e => e.2.2.1 ≤ x.entry && x.entry < e.2.2.1 + 16 * e.2.1) &&
    !((List.range 8).all fun d => x.acked.contains d || s.fenceLevel d = 2)

/-- OBJINV (R185): the object-cache entries loaded from a device-private address leave the caches of the scope. At package scope
or wider it completes after step 4 of a shoot-down of the object's frames (R261). -/
def execObjinv (a : BitVec 6) (sc : Scope) (s : State) : Host.Outcome State Fault Refusal :=
  performNext (.objinv a sc) (do
    let s ← get
    if !s.ctx.supervisor then Op.privTrap (.objinv a sc)
    else
      let addr ← Op.readG a
      Op.need (sc.num < 4 || !s.shooting addr.toNat)
      let die := dieOf s.core.slot
      set { s with unc := { s.unc with objectCache := s.unc.objectCache.filter fun e =>
        !(e.addr = addr.toNat && (4 ≤ sc.num || dieOf e.slot = die)) } }) s

/-- Flipped bits of a local-memory word (R186). -/
def LCore.flip (c : LCore) (w : Nat) (mask : Word) : LCore :=
  let m := (NatMap.get c.lmFlips w).getD 0 ^^^ mask
  { c with lmFlips := if m = 0 then c.lmFlips.erase w else c.lmFlips.set w m }

/-- EINJ (R186, R251, R475). Tier .lm names the issuing core's own local memory, through handle 1 as well. -/
def execEinj (c a : BitVec 6) (tier : Tier) (s : State) : Host.Outcome State Fault Refusal :=
  performNext (.einj c a tier) (do
    let s ← get
    if !s.ctx.supervisor && !s.ctx.sys.injen.getLsbD 0 then Op.privTrap (.einj c a tier)
    else
      let mask ← Op.readG c
      let ref ← Op.readG a
      let acc := coreAcc ref 8 5
      let ag := s.self 0
      if refHandle ref ≤ 1 then
        let (_, off) ← Op.localTarget ag acc true
        if tier ≠ .lm then Op.accTrap cRIGHT acc 0
        else modify fun s => s.mapCore s.core.id fun k => k.flip (off / 8) mask
      else
        let d ← Op.descriptor ag acc
        Op.descCheck ag acc (rightR + rightW) d
        if tier = .lm || d.cls = 3 then Op.accTrap cRIGHT acc 0
        else match (← Op.locate ag acc d true) with
          | .bank b =>
            let tag := b / 128
            if mask = 0 then pure ()
            else match tier with
              | .l1 | .cc =>
                let (l, _) ← Op.ensureLine ag acc d tag false
                let slot := if tier = .l1 then s.core.slot else 0
                modify fun s => match s.findLine l.cluster l.tag with
                  | some l => s.putLine { l with flips := l.flips ++ [⟨tier, slot, b % 128 / 8, mask⟩] }
                  | none => s
              | .msc => modify fun s =>
                let s := s.mscHold tag
                { s with unc := { s.unc with bankFlips := s.unc.bankFlips ++ [⟨.msc, 0, b / 8, mask⟩] } }
              | _ => modify fun s => { s with unc := { s.unc with
                  bankFlips := s.unc.bankFlips ++ [⟨.hbm, 0, b / 8, mask⟩] } }
          | _ => Op.accTrap cRIGHT acc 0) s

/-! ### The end of a SPIN (R139) -/

/-- Whether a SPIN's wait may end for a reason: the line or block has changed, an enabled event is pending, the logical core is to
be saved, or 65,536 cycles have passed (R139). -/
def State.spinOver (s : State) (c : LCore) (x : Ctx) (why : SpinEnd) : Bool :=
  match x.wait with
  | some (.spin _ _ woken since) => match why with
    | .changed => woken
    | .event => x.enabledEvents ≠ 0
    | .switched => s.saveDue c
    | .limit => 65536 ≤ (s.cycle - since).toNat
  | _ => false

/-- A context that has issued a SPIN goes on. -/
def Ctx.endSpin (x : Ctx) : Ctx :=
  match x.wait with
  | some (.spin _ _ _ _) => { x with wait := none }
  | _ => x

/-- SPIN_WAIT_END (R139): a written block or a line that leaves the L1, an enabled event, a save, or the limit. A gang resumes
when any member's wait ends. -/
def execSpinWaitEnd (c : CtxId) (why : SpinEnd) (s : State) : Host.Outcome State Fault Refusal :=
  runEvent (do
    let s ← get
    let core ← Op.get! (s.findCore c.core)
    let x ← Op.get! (core.findCtx c.num)
    Op.need (s.spinOver core x why)
    let ids := if core.fused then (s.gang core).map (·.id) else [core.id]
    set ((c.core :: ids).foldl (init := s) fun s id => s.mapCtx id c.num Ctx.endSpin)) s

/-! ### Answers of the host (R454, R455) -/

/-- The oldest value on its way to a register arrives (R279). -/
def Ctx.arrive (c : Ctx) : Ctx :=
  match c.arriving with
  | [] => c
  | (d, m) :: rest => { (c.setG d.toNat m).setPendG d.toNat false with arriving := rest }

/-- A read of the host's memory for a copy of a context fails: for the oldest in flight that none has failed for, which ends with
cause REMOTE where it next reads class 3 (R455, log entry 78). -/
def Op.copyHostFails (c : LCore) (n : Nat) : Op Unit := do
  match c.copies.flight.findIdx? fun r => r.cmd.ctx = n && !r.hostBad with
  | none => Op.stall
  | some i => modify fun s => s.mapCore c.id fun c => { c with copies := { c.copies with
      flight := c.copies.flight.modify i fun r => { r with hostBad := true } } }

/-- LOAD_DATA_RETURN: a far atomic's old value reaches its register (R279); or the completion of a class 3 read comes, of the
address to which it was sent (R261, R454, R455). -/
def execLoadDataReturn (c : CtxId) (reply : HostReply) (s : State) : Host.Outcome State Fault Refusal :=
  runEvent (do
    let s ← get
    let core ← Op.get! (s.findCore c.core)
    let x ← Op.get! (core.findCtx c.num)
    if x.arriving ≠ [] then
      set (s.mapCtx c.core c.num Ctx.arrive)
      return ()
    Op.need s.pkg.hostUp
    match x.wait with
    | some (.host ref n addr) =>
      set (s.mapCtx c.core c.num fun x => match reply with
        | .data => { x with wait := none, hostGot := (ref, s.unc.host.read addr n) :: x.hostGot }
        | .unsupported => { x with wait := none, remoteBad := some 5 }
        | .poisoned => { x with wait := none, remoteBad := some 6 })
    | _ =>
      Op.need (reply ≠ .data)
      Op.copyHostFails core c.num) s

/-- HOST_COMPLETION_TIMEOUT (R455): 50 ms without a completion. -/
def execHostCompletionTimeout (c : CtxId) (s : State) : Host.Outcome State Fault Refusal :=
  runEvent (do
    let s ← get
    let core ← Op.get! (s.findCore c.core)
    let x ← Op.get! (core.findCtx c.num)
    match x.wait with
    | some (.host _ _ _) => set (s.mapCtx c.core c.num fun x => { x with wait := none, remoteBad := some 4 })
    | _ => Op.copyHostFails core c.num) s

/-- HOST_LINK_DOWN (R455): reads outstanding on the link fail with reason 7. -/
def execHostLinkDown (s : State) : Host.Outcome State Fault Refusal :=
  runEvent (do
    let s ← get
    Op.need s.pkg.hostUp
    let down (x : Ctx) : Ctx := match x.wait with
      | some (.host _ _ _) => { x with wait := none }
      | _ => x
    set { s.mapCores (fun c => c.mapCtxs down) with pkg := { s.pkg with hostUp := false } }) s

end Sys2Proof.Machine
end

