-- ==== Sys2Proof/Machine/Save.lean ====
section
/-! DEFINITION. Saving and restoring a logical core (R403 to R409), the rotation of a run's gangs (R109 to R111), and
a gang placed again on another run (R103, R114). -/

namespace Sys2Proof.Machine

/-! ### Fetched words -/

/-- The word at the PC of the context in focus: from local memory, or from the Archaism store while AR = 1 (R116, R413). -/
def State.wordHere (s : State) : Nat :=
  let c := s.ctx
  if c.ar then
    let off := c.pc.toNat
    if 0x3000 ≤ off && off < 0x3B00 then s.unc.spills.value (spillAt s.core.slot 0 + (off - 0x3000)) 4
    else ((NatMap.get (s.die (dieOf s.core.slot)).archStore (off / 4)).getD 0).toNat
  else s.core.lm.value c.pc.toNat 4

/-! ### Switch points (R109) -/

/-- The last word of the issue group that begins at the context in focus, with the prefix words before it recorded. -/
def State.groupWord : Nat → State → Option (State × Instr)
  | 0, _ => none
  | n + 1, s =>
    if !s.ctx.ar && s.core.xbound ≤ s.ctx.pc then none
    else match decodeWord s.wordHere with
      | .ok i => match prefixOf i with
        | some f => State.groupWord n (s.addPrefix f)
        | none => some (s, i)
      | .error _ => none

/-- The words of a group that is not ILL: two IMMX, a LIKELY, a NOFOLD and the last word (R132). -/
def groupWords : Nat := 5

/-- Whether an attempt to issue a word leaves its context where it is. -/
def stays (pc : BitVec 21) (r : Host.Outcome State Fault Refusal) : Bool :=
  match r with
  | .next u => u.ctx.pc = pc
  | _ => false

/-- Whether a general register awaits a token or another write in a context that issues with the one in focus. -/
def State.awaits (s : State) (r : BitVec 6) : Bool :=
  s.cores.any fun c => s.together.contains c.id && (c.findCtx s.ctx.num).any fun x => x.pendG.getLsbD r.toNat

/-- Whether the context in focus is stalled on one of the waits of R109's table, or has no PC. A stall on a scoreboard token is
none of them. -/
def State.atSwitchWait (s : State) : Bool :=
  let c := s.ctx
  if !c.live then true
  else match c.wait with
    | some (.spin _ _ woken _) => !woken
    | some _ => false
    | none =>
      let stalls (t : State) (regs : List (BitVec 6)) (r : Host.Outcome State Fault Refusal) : Bool :=
        !regs.any s.awaits && (stays t.ctx.pc r || stays c.pc r)
      if c.pfx.isSome then false
      else match s.groupWord groupWords with
        | some (t, .wait d n) => stalls t [d] (execWait d n t)
        | some (t, .waitf h m) => stalls t [] (execWaitf h m t)
        | some (t, .waite h m) => stalls t [] (execWaite h m t)
        | some (t, .cwait a r n) => stalls t [a, r] (execCwait a r n t)
        | some (t, .recvm a b r nb) => stalls t [a, b, r] (execRecvm a b r nb t)
        | some (_, .arrive n) => s.gangStalls fun t => t.arriveStalls n
        | some (_, .arriveSnap n) => s.gangStalls fun t => t.arriveStalls n
        | some (_, .brst n) => s.gangStalls fun t => t.brstStalls n
        | _ => false

/-- Whether every live context of a logical core is stalled at a switch point. -/
def State.coreWaits (s : State) (id : CoreId) : Bool :=
  match s.findCore id with
  | none => true
  | some c => c.ctxs.all fun x => (s.focus id x.num).atSwitchWait

/-- Whether a placed gang is ready (R109): a context of a member is not stalled at a switch point. -/
def State.gangReady (s : State) (ids : List CoreId) : Bool := ids.any fun id => !s.coreWaits id

/-! ### Saving (R403 to R405) -/

/-- The vector registers that matrix commands of context `n`, queued or stopped, have yet to write: readouts that a save takes with
the queue (R248). -/
def LCore.owedV (c : LCore) (n : Nat) : BitVec 32 :=
  (c.mx.queue ++ (c.mx.running.map (·.cmd)).toList).foldl (init := 0) fun m x => match x.vreg with
    | some v => if x.ctx = n then m ||| 1#32 <<< v.toNat else m
    | none => m

/-- Whether a logical core can be saved now: every context at a boundary, nothing pending but tokens and readouts, the engines at
their pre-emption points, its reductions done (R403, R404 steps 1 to 4). -/
def State.canSave (s : State) (c : LCore) : Bool :=
  c.ctxs.all (fun x => !x.live || x.atBoundary) &&
    c.ctxs.all (fun x => x.sfuOut = 0 && x.pendV &&& ~~~(c.owedV x.num) = 0 && x.arriving = []) && c.matrixStops &&
    !s.unc.bankOps.any fun o => o.core = c.id

/-- What a save leaves of a context: the word that waits issues again; a SPIN or a YIELD has issued (R403). -/
def Ctx.saved (x : Ctx) : Ctx :=
  { x with wait := none, refused := none, remoteBad := none, ringRec := none, evInfo := ⟨(0, 0), (0, 0), (0, 0)⟩ }

/-- What a save leaves of a logical core (R389, R403, R244). -/
def LCore.saved (c : LCore) : LCore :=
  let c := c.mapCtxs Ctx.saved
  { c with
    coll := c.coll.map fun m => { m with payload := none }
    xbTake := c.xbound
    raise := none
    fuseAt := none
    mailWaits := []
    mx := { c.mx with shadow := none }
    resident := false
    switchDue := false
    lmAt := some c.slot }

/-- The running matrix command brought to its pre-emption point: after a number of block steps or rows that the manual leaves
open (R248, log entry 9). One that meets an error there, or ends, does so as it would without the save. -/
def Op.matrixHalt (id : CoreId) : Op Unit := do
  let s ← get
  let c ← Op.get! (s.findCore id)
  match c.mx.running with
  | none => pure ()
  | some r =>
    let k := Config.rowsMoved s.tick 4096 % (r.cmd.steps c.mx - r.progress + 1)
    if r.waiting || k = 0 then pure () else Op.matrixRun id k

/-- The save of a logical core (R404): its engines come to their pre-emption points, what it wrote is released at sys scope, its
sums and counts are folded, the delta of R405 goes to its image area. -/
def Op.saveCore (id : CoreId) : Op Unit := do
  let s ← get
  let c ← Op.get! (s.findCore id)
  Op.need (c.resident && s.canSave c && s.areaFree id)
  Op.matrixHalt id
  let kept ← Op.copySave id 0 c.copies.flight
  modify fun s => s.mapCore id fun c => { c with copies := { c.copies with flight := kept } }
  modify fun s => s.releaseCluster (clusterOf c.slot)
  Op.foldDigest id
  modify fun s => (s.foldMeter id).chargeTask id.task
  let s ← get
  let c ← Op.get! (s.findCore id)
  modify fun s => ((s.keepCore c).mapCore id LCore.saved).writeImage id

/-! ### Restoring (R408) -/

/-- The local memory of a core that is restored elsewhere than where its image was saved (R408 step 2): the blocks of its map from
the image, every other block from the code object. -/
def State.blocksOver (s : State) (c : LCore) (code : Memory) : Memory :=
  match c.imageArea with
  | none => code
  | some k =>
    let base := imageBase k
    ((List.range 8192).filter fun b => s.unc.priv.hasBlock base b).foldl (init := code) fun m b =>
      m.blit (128 * b) (s.unc.priv.slice (base + 0x60000 + 128 * b) 128) (base + 0x60000 + 128 * b) 128

/-- Whether a core's local memory can be left as it stands (R408 step 2): the image's header names the core, and no other logical
core has been restored there since. -/
def State.lmStands (s : State) (c : LCore) : Bool :=
  c.lmAt = some c.slot && c.imageArea.any fun k => (s.unc.priv.word (imageBase k + 0x20)).bits 63 48 = c.slot

/-- Spill areas of contexts in a routine written into the Archaism store of the core that a logical core stands on (R405, R413). -/
def State.loadSpills (s : State) (c : LCore) (image : Memory) (base : Nat) : State :=
  let put (m : Memory) (x : Ctx) : Memory := m.write (spillAt c.slot x.num) (image.read (base + recordAt x.num + 0x700) 256)
  { s with unc := { s.unc with spills := (c.ctxs.filter fun x => x.ar).foldl put s.unc.spills } }

/-- A context as a restore leaves it: the details of its events are not saved (R407). -/
def Ctx.restored (x : Ctx) : Ctx := { x with evInfo := ⟨(0, 0), (0, 0), (0, 0)⟩ }

/-- The restore of a logical core to the core its remap entry names: it becomes resident, with the core's own SHADOWN and
start count; calls that a save has stopped fire again (R389). Where local memory must be filled again, the code object is read
again: a not-resident frame makes it wait, and LOST or REMOTE makes the task FAILED (R118). What step 3 of R408 loads from the image
stands in the logical core, as its save left it (log entry 94). -/
def Op.restoreCore (id : CoreId) : Op Unit := do
  let s ← get
  let c ← Op.get! (s.findCore id)
  let t ← Op.get! (s.findTask id.task)
  Op.need (!c.resident && !s.cores.any fun d => d.id ≠ id && d.resident && d.slot = c.slot)
  let got : Except (Nat × Nat) (Memory × NatMap Word) ← (if s.lmStands c then pure (.ok (c.lm, c.lmFlips)) else do
    match (← Op.codeBytes t) with
    | .error e => pure (.error e)
    | .ok (code, _) => return .ok ((← get).blocksOver c code, []))
  match got with
  | .error (cause, reason) => Op.failFor id.task cause reason
  | .ok (lm, flips) =>
    let own := (NatMap.get s.unc.coreRegs c.slot).getD (0, 0)
    modify fun s => s.takeCore c
    modify fun s => s.mapCore id fun c => { c.clean.mapCtxs Ctx.restored with
      lm := lm
      lmFlips := flips
      resident := true
      lmAt := some c.slot
      shadown := own.1
      mx := { c.clean.mx with startCount := own.2 }
      since := s.cycle
      switchDue := false }
    modify fun s => s.acquireCluster (clusterOf c.slot)
    match c.imageArea with
    | some k => modify fun s =>
        let t := s.loadSpills c s.unc.priv (imageBase k)
        { t with unc := { t.unc with priv := t.unc.priv.setWord (imageBase k + 0x20) (Word.ofN (c.slot * 2 ^ 48)) } }
    | none => pure ()
    Op.forEach (Op.fireReady id) (List.range 4)

/-! ### Collective calls of a pre-empted task (R389) -/

/-- Tiles not completed are abandoned in every call of a task: packets of tiles that their sender has not completed are
discarded, with the overflow list's entries; a contribution of a member that has completed the tile, and so will not send
it again, is kept (log entry 42). -/
def State.suspendCalls (s : State) (ref : Word) : State :=
  let sent (id : CoreId) (gid : Nat) (seq : BitVec 32) (k : Nat) : Bool :=
    match s.findCore id with
    | some c => (List.range 4).any fun i =>
        let x := c.collSlot i
        x.group.isSome && groupId x.desc = gid && x.reached seq && (x.count ≠ seq || !x.isOpen || x.done.getLsbD k)
    | none => false
  let slot (c : LCore) (x : CollSlot) : CollSlot :=
    if !x.isOpen then x
    else { x with
      fired := x.fired &&& x.done
      received := x.received.filter fun r => match (groupMembers x.desc)[r.rank]? with
        | some m => sent { c.id with lcore := m } (groupId x.desc) x.count r.tile
        | none => false }
  let t := s.mapCores fun c => if c.id.task = ref then { c with slots := c.slots.map (slot c) } else c
  let t := { t with unc := { t.unc with
    packets := (t.unc.packets.filter fun p => p.dest.task ≠ ref || sent p.source p.groupId p.seq p.tile).map fun p =>
      if p.dest.task = ref then { p with stored := 0 } else p } }
  (List.range 8).foldl (init := t) fun t d =>
    t.mapDie d fun x => { x with overflow := x.overflow.filter fun p => p.dest.task ≠ ref }

/-! ### The rotation of a run's gangs (R109) -/

/-- The members of the gang of a logical core. -/
def State.gangIds (s : State) (c : LCore) : List CoreId := (s.gang c).map (·.id)

/-- Whether two placed logical cores' gangs have a core in common: their runs overlap. -/
def LCore.runMeets (c d : LCore) : Bool :=
  let base := c.slot - c.regs.gangix
  let other := d.slot - d.regs.gangix
  other < base + c.regs.gangsz && base < other + d.regs.gangsz

/-- Whether a logical core's task is RUNNING and its core has been placed where its remap entry says. -/
def State.placedHere (s : State) (d : LCore) : Bool := match s.findTask d.id.task with
  | some t => t.phase = .running && t.binds.any fun b => b.lcore = d.id.lcore && b.copy = d.id.copy && b.valid
  | none => false

/-- The gangs bound to the run of `c` other than its own, each by its first member, in the order in which they follow a
position: rising, wrapping from the highest to 0 (R109). -/
def State.gangsAfter (s : State) (c : LCore) (position : Nat) : List LCore :=
  let others := s.cores.filter fun d =>
    d.regs.gangix = 0 && !c.gangmate d && c.runMeets d && s.placedHere d && d.imageArea.isSome
  let place (d : LCore) : Nat := (d.position + 127 - position) % 64
  sortBy (fun (a b : LCore) => place a < place b) others

/-- The gangs bound to a run, without the resident one, in the order in which they follow it, each given by its members. -/
def State.nextGangs (s : State) (c : LCore) : List (List CoreId) := (s.gangsAfter c c.position).map s.gangIds

/-- Whether the gang of `c` is the one to be restored on its run, where no gang is resident: the first in order that is ready
after the one that was resident there last; where none is ready, the first in order (R109). -/
def State.isNext (s : State) (c : LCore) : Bool :=
  let last := (NatMap.get s.unc.lastGang c.slot).getD 63
  let place (d : LCore) : Nat := (d.position + 127 - last) % 64
  let others := s.gangsAfter c last
  let ready (d : LCore) : Bool := s.gangReady (s.gangIds d)
  if ready c then !others.any fun d => ready d && place d < place c
  else !others.any fun d => ready d || place d < place c

/-- The quantum in cycles (R104). -/
def State.quantum (s : State) : Nat := 4096 * max 1 (s.disp.placeCtl.bits 15 0)

/-! ### Events -/

/-- A pre-empted task whose last core in this package is free stands READY ahead of its queue (R89). A head of the queue that was held
stands behind it and is held no more, to be selected again in its turn; one of a smaller priority number stays held, since R86
admits nothing of a greater number before it (log entry 89). -/
def Op.endPreemption (ref : Word) : Op Unit := do
  let s ← get
  let t ← Op.get! (s.findTask ref)
  if t.binds.any fun b => b.valid && b.package = s.pkg.address then pure ()
  else
    set ((s.suspendCalls ref).mapTask ref fun t => { t with binds := t.binds.map fun b => { b with valid := false } })
    let (_, n) ← Op.tcbState t.queue.toNat t.tcb
    Op.putState t.queue.toNat t.tcb tREADY n
    let behind (u : Task) : Bool := u.queue = t.queue && u.phase = .held && u.binds = [] && t.prio ≤ u.prio
    modify fun s => { s with disp := { s.disp with tasks := s.disp.tasks.filter fun u => !behind u } }

/-- CONTEXT_SAVE (R404) of a logical core of a task that is being pre-empted (R89): its core is free; with the last one the
task stands READY ahead of its queue. A core that a time-slice switch has saved already only gives up its place. -/
def execContextSave (core : CoreId) (s : State) : Host.Outcome State Fault Refusal :=
  runEvent (Op.whole (do
    let s ← get
    let t ← Op.get! (s.findTask core.task)
    let c ← Op.get! (s.findCore core)
    Op.need (t.phase = .preempted && t.binds.any fun b => b.lcore = core.lcore && b.copy = core.copy && b.valid)
    if c.resident then Op.saveCore core
    modify fun s => (s.chargeTask t.ref).mapBind core fun b => { b with valid := false }
    Op.endPreemption core.task)) s

/-- CONTEXT_RESTORE (R408): after a resumption, a re-placement, or when the gang before it has left the run, in order of
position (R109). -/
def execContextRestore (core : CoreId) (s : State) : Host.Outcome State Fault Refusal :=
  runEvent (Op.whole (do
    let s ← get
    let t ← Op.get! (s.findTask core.task)
    let c ← Op.get! (s.findCore core)
    let b ← Op.get! (t.binds.find? fun b => b.lcore = core.lcore && b.copy = core.copy)
    Op.need (t.phase = .running && b.valid && b.package = s.pkg.address && c.imageArea.isSome && c.rollbackDue.isNone)
    Op.need (!s.cores.any fun d => d.resident && !c.gangmate d && c.runMeets d)
    Op.need (s.isNext c || (s.gang c).any fun d => d.resident)
    if !b.placed then
      modify fun s => (s.mapBind core fun b => { b with placed := true }).countPlacement t.ref
    Op.restoreCore core)) s

/-- QUANTUM_EXPIRY (R109): the resident gang has stayed its quantum and another gang of its run is ready. -/
def execQuantumExpiry (slot : Nat) (s : State) : Host.Outcome State Fault Refusal :=
  runEvent (do
    let s ← get
    let c ← Op.get! (s.cores.find? fun c => c.slot = slot && c.resident)
    Op.need (!c.switchDue && s.quantum ≤ (s.cycle - c.since).toNat && (s.nextGangs c).any s.gangReady)
    let ids := s.gangIds c
    set (s.mapCores fun d => if ids.contains d.id then { d with switchDue := true } else d)) s

/-- The members of a gang that are resident. -/
def State.residents (s : State) (ids : List CoreId) : List CoreId :=
  ids.filter fun id => (s.findCore id).any fun c => c.resident

/-- TIME_SLICE_SWITCH (R110): at a switch point the resident gang of a run is saved and the next ready one restored. Where the
next one's run takes in cores of further resident gangs, each of them must have come to its switch point. -/
def execTimeSliceSwitch (slot : Nat) (s : State) : Host.Outcome State Fault Refusal :=
  runEvent (Op.whole (do
    let s ← get
    let c ← Op.get! (s.cores.find? fun c => c.slot = slot && c.resident)
    let next ← Op.get! ((s.nextGangs c).find? s.gangReady)
    let lead ← Op.get! ((next.head?).bind s.findCore)
    let out := s.cores.filter fun d => d.resident && !lead.gangmate d && lead.runMeets d
    Op.need (out.all fun d => d.switchDue || (s.gangIds d).all s.coreWaits)
    Op.forEach Op.saveCore ((out.flatMap s.gangIds).dedup.filter fun id => (s.findCore id).any fun d => d.resident)
    Op.forEach Op.restoreCore (next.filter fun id => !(s.findCore id).any fun d => d.resident))) s

/-! ### Re-placement (R114) -/

/-- A gang's remap entries set to a run, from its first core on, where its members are to be placed again. -/
def State.moveGang (s : State) (c : LCore) (base position : Nat) : State :=
  let s := s.mapTask c.id.task fun t => { t with binds := t.binds.map fun b =>
    let mine : Bool := c.gangmate { c with id := ⟨c.id.task, b.lcore, b.copy⟩ }
    if mine then
      { b with slot := base + (b.lcore - (c.id.lcore - c.regs.gangix)), position := position, package := s.pkg.address, valid := true,
               placed := false, res := false }
    else b }
  s.mapCores fun d => if c.gangmate d then
      { d with slot := base + d.regs.gangix, position := position, resident := false }
    else d

/-- A logical core whose remap entry has become invalid bound to `slot`, with the rest of its gang, over the usable set of this
moment (R102 to R104, R112). The gangs of its window group stay in their cluster while that has a run for this one; otherwise the
whole group leaves it. A core that is not to be rolled back is saved first. -/
def Op.replaceGang (core : CoreId) (slot : Nat) : Op Unit := do
  let s ← get
  let t ← Op.get! (s.findTask core.task)
  let c ← Op.get! (s.findCore core)
  let g := gridOf t.words
  let b ← Op.get! (t.binds.find? fun b => b.lcore = core.lcore && b.copy = core.copy)
  let base := slot - c.regs.gangix
  let group (l : Nat) : Nat := l / g.lx * 16 + l % g.lx / 16
  let idOf (x : Bind) : CoreId := ⟨t.ref, x.lcore, x.copy⟩
  let inGang (x : Bind) : Bool := c.gangmate { c with id := idOf x }
  let inGroup (x : Bind) : Bool := x.copy = core.copy && group x.lcore = group core.lcore
  let valid := t.binds.filter (·.valid)
  let mates := valid.filter fun x => inGroup x && !inGang x && x.package = s.pkg.address
  let twins := valid.filter fun x => x.copy ≠ core.copy && group x.lcore = group core.lcore && x.package = s.pkg.address
  Op.need (t.phase = .running && !b.valid && c.regs.gangix ≤ slot && base % g.gang = 0 && (runSlots base g.gang).all s.usable)
  Op.need (twins.all fun x => !nearClusters (x.slot / 16) (slot / 16))
  let out := valid.filter fun x => inGang x && x.package = s.pkg.address
  let away := mates.filter fun x => x.slot / 16 ≠ slot / 16
  let leaving (l : List Bind) : List Nat := l.foldl (fun held x => held.erase x.slot) s.boundSlots
  -- the cluster of the group has no run for this gang, and the new one takes the whole group
  let size := ((g.groups.find? fun gs => gs.any fun l => l.contains core.lcore).getD []).length
  let room : Bool := away.all fun x => runChoices s.usable s.depth (leaving out) (x.slot / 16) g.gang = [] &&
    (bindGroup s.usable s.depth g.gang 0 (slot / 16) (fun p _ => some p) (List.replicate size (List.range g.gang))
      (leaving (out ++ mates)) []).isSome
  Op.need room
  let held := leaving (out ++ away)
  Op.need (runLoad held base g.gang < s.depth)
  Op.need (runLoad held base g.gang = 0 || (s.runs (slot / 16) g.gang).all fun r => runLoad held r g.gang ≠ 0)
  Op.need (s.areasFit [] c.rollbackDue.isSome (runSlots base g.gang))
  Op.forEach Op.saveCore (if c.rollbackDue.isSome then [] else s.residents (core :: (out ++ away).map idOf).dedup)
  let gone := away.map idOf
  modify fun s => gone.foldl (init := s) fun s id => s.mapBind id fun b => { b with valid := false }
  let s ← get
  set (s.moveGang c base (s.freePosition base g.gang []))

/-- The slots among which the dispatcher picks a core's new place: the runs of every cluster. -/
def State.replaceSlots (s : State) (c : LCore) : List Nat :=
  let lost : Bool := (s.findTask c.id.task).any fun t => t.phase = .running &&
    t.binds.any fun b => !b.valid && b.lcore = c.id.lcore && b.copy = c.id.copy
  if lost then (List.range 128).flatMap fun cl => (s.runs cl (max 1 c.regs.gangsz)).map fun b => b + c.regs.gangix else []

/-- The first of a list of slots to which a logical core can be moved. -/
def Op.replaceAt (core : CoreId) : List Nat → Op Unit
  | [] => Op.stall
  | x :: xs => fun s => match (Op.replaceGang core x) s with
    | .error .stall => Op.replaceAt core xs s
    | r => r

/-- Every logical core of a list that is not bound moved somewhere. -/
def Op.replaceAll : List CoreId → Op Unit
  | [] => pure ()
  | id :: rest => do
    let s ← get
    if s.boundCore id then pure ()
    else
      let c ← Op.get! (s.findCore id)
      Op.replaceAt id (s.replaceSlots c)
    Op.replaceAll rest

/-- The logical cores of a task that are due to roll back after a fence (R437). -/
def State.fencedCores (s : State) (ref : Word) : List CoreId :=
  (s.cores.filter fun c => c.id.task = ref && c.rollbackDue = some .fence).map (·.id)

/-- Whether every core of a task that rolls back after a fence can be bound now. -/
def State.canReplace (s : State) (ref : Word) : Bool :=
  match (Op.replaceAll (s.fencedCores ref)) s with
  | .ok _ => true
  | .error _ => false

/-- REPLACE_LOGICAL_CORE (R114): a logical core whose remap entry has become invalid is bound to `slot`, with the rest of its
gang. A block that rolls back after a fence is bound as a whole or not at all (R437). Which slot the dispatcher picks is not
architected (R103, log entry 33). -/
def execReplaceLogicalCore (core : CoreId) (slot : Nat) (s : State) : Host.Outcome State Fault Refusal :=
  runEvent (Op.whole (do
    Op.replaceGang core slot
    let s ← get
    Op.need (s.canReplace core.task))) s

end Sys2Proof.Machine
end

