-- ==== Sys2Proof/Machine/Xbound.lean ====
section
/-! DEFINITION. Writes of system registers, XBOUND with its waiting raise among them (R116, R122, R123, R180). -/

namespace Sys2Proof.Machine

/-- Bytes that a taken command names: a reference and the first and last byte relative to it. -/
structure Footprint where
  ref : Word
  lo : Int
  hi : Int
  deriving DecidableEq, Repr

/-- The slots of a ring. -/
def Ring.footprint (r : Ring) : Footprint := ⟨Word.ofN r.base.toNat, 0, (r.slots * r.slotBytes : Nat) - 1⟩

/-- What a running matrix command names: its operand spans, and the slots of an MMAR's ring (R123). -/
def LCore.matrixFootprint (c : LCore) : List Footprint :=
  match c.mx.running with
  | none => []
  | some r =>
    (r.cmd.operands c.mx).map (fun o => ⟨o.base, o.lo, o.hi⟩) ++
    (if r.cmd.product = some 1 then [(c.ring (r.cmd.gb.toNat % 8)).footprint] else [])

/-- What a copy in flight names: every byte between the lowest and the highest that its record reaches, and the slots of its
ring (R123). -/
def LCore.copyFootprint (c : LCore) (r : CopyRun) : List Footprint :=
  let one (ref : Word) (x : Option (Int × Int)) : List Footprint := match x with
    | some (lo, hi) => [⟨ref, lo, hi⟩]
    | none => []
  one r.shape.src r.shape.srcSpan ++ one r.shape.dst r.shape.dstSpan ++ one r.shape.aux r.shape.auxSpan ++
    (if r.onRing then [(c.ring r.shape.ring).footprint] else [])

/-- What the open calls and a send that waits name (R123). -/
def LCore.collFootprint (c : LCore) : List Footprint :=
  let call (x : CollSlot) : List Footprint :=
    if !x.isOpen then []
    else (List.range x.tab.tiles).flatMap fun k =>
      let e := x.tile k
      [⟨Word.ofN e.src, 0, (collBytes x.tab.inL e.count : Nat) - 1⟩,
       ⟨Word.ofN e.dst, 0, (x.tab.dstBytes e (groupSize x.desc) : Nat) - 1⟩]
  let send (m : CollCmd) : List Footprint := match m.payload with
    | some b => [⟨m.ga, 0, (b.length : Int) - 1⟩]
    | none => []
  c.slots.toList.flatMap call ++ c.coll.flatMap send

/-- Whether a footprint of a logical core reaches bytes [lo, hi) of another one's local memory. -/
def State.reaches (s : State) (owner : LCore) (target : CoreId) (lo hi : Nat) (f : Footprint) : Bool :=
  let h := refHandle f.ref
  let o := refOffset f.ref
  let id := if h = 0 then some owner.id
    else if h = 1 then (s.windowCore owner (o / 2 ^ 20 % 16)).map (·.id) else none
  let base : Int := if h = 1 then (o % 2 ^ 20 : Nat) else o
  id = some target && base + f.lo < hi && (lo : Int) ≤ base + f.hi

/-- Whether a command taken by an engine of the core or of its window group names bytes [lo, hi) of its local memory, or a
reduction of context `n` to them is still on its way (R123). -/
def State.drains (s : State) (me : LCore) (n lo hi : Nat) : Bool :=
  let group := s.cores.filter fun c => c.id.task = me.id.task && c.id.copy = me.id.copy
  let names (c : LCore) : Bool :=
    (c.matrixFootprint ++ (c.copies.flight.flatMap c.copyFootprint) ++ c.collFootprint).any (s.reaches c me.id lo hi)
  let red (o : BankOp) : Bool := match o.site with
    | .local id off => o.core = me.id && o.ctx = n && id = me.id && lo ≤ off && off < hi
    | .bank _ => false
  group.any names || s.unc.bankOps.any red

/-- The bound, in bytes, that a write of XBOUND gives (R116). -/
def boundOf (v : Word) : Nat := 4096 * min 256 (v.bits 20 12)

/-- Whether raising a core's XBOUND to `b` waits for what names its new code (R123). -/
def State.raiseWaits (s : State) (n b : Nat) (c : LCore) : Bool := c.xbound.toNat < b && s.drains c n c.xbound.toNat b

/-- The logical cores whose XBOUND a SETS of the context in focus writes (R116). -/
def State.xbCores (s : State) : List LCore := if s.inGang then s.gang s.core else [s.core]

/-- A SETS of XBOUND (R122, R123): a lowering acts at once; a raising is in force for takes at once, and the SETS completes
when what names the new code has drained, in a gang that of every member (R156). A SETS that finds the raise of another context
under way stalls until that is over (log entry 86). -/
def Op.setXbound (v : Word) : Op Unit := do
  let s ← get
  let n := s.ctx.num
  let b := boundOf v
  let bound := BitVec.ofNat 21 b
  let fresh : Op Unit := do
    if s.xbCores.any (s.raiseWaits n b) then
      Op.modCore fun c => { c with
        xbound := if b ≤ c.xbound.toNat then bound else c.xbound
        xbTake := bound
        raise := some ⟨n, b / 4096⟩ }
      Op.block
    else Op.modCore fun c => { c with xbound := bound, xbTake := bound, raise := none }
  match s.core.raise with
  | none => fresh
  | some r =>
    if r.ctx ≠ n then Op.stall
    else if r.bound * 4096 ≠ b then fresh
    else if s.core.xbound.toNat = b then Op.modCore fun c => { c with raise := none }
    else Op.stall

/-- The value that a SETS of XBOUND writes: in a gang every member takes the same one, the leader's (R116, log entry 72). -/
def State.xbValue (s : State) (a : BitVec 6) (v : Word) : Word :=
  if !s.inGang then v
  else match (s.gang s.core).head?.bind fun c => c.findCtx s.ctx.num with
    | some x => x.gval a.toNat
    | none => v

/-- SETS (R180, R187). In a gang each member writes its own g[a]; to XBOUND all write the same value (R116, log entry 72). -/
def execSets (a : BitVec 6) (r : BitVec 12) (s : State) : Host.Outcome State Fault Refusal :=
  performNext (.sets a r) (do
    let s ← get
    let sup := s.ctx.supervisor
    if r = 0x080 && !sup then Op.privTrap (.sets a r)
    else
      let v ← Op.readG a
      if r = 0x00C then Op.setXbound (s.xbValue a v)
      else if r = 0x080 then Op.modCore fun c => { c with archmap := v }
      else if r = 0x061 then (if sup then Op.modCore fun c => { c with shadown := v &&& 0xFFFF } else pure ())
      else Op.modCtx fun c => { c with sys := c.sys.write r.toNat v sup }) s

/-- XBOUND_RAISE_COMPLETE (R123): the bytes of the raise have drained, in a gang those of every member. -/
def execXboundRaiseComplete (core : CoreId) (s : State) : Host.Outcome State Fault Refusal :=
  runEvent (do
    let s ← get
    let c ← Op.get! (s.findCore core)
    let r ← Op.get! c.raise
    let mates := ((s.focusCore core).xbCores.filter fun d => d.raise = some r && d.id ≠ core)
    Op.need (c.xbound.toNat < r.bound * 4096 && !(c :: mates).any (s.raiseWaits r.ctx (r.bound * 4096)))
    let done (c : LCore) : LCore := { c with xbound := BitVec.ofNat 21 (r.bound * 4096) }
    set (mates.foldl (init := s.mapCore core done) fun (s : State) d => s.mapCore d.id done)) s

end Sys2Proof.Machine
end

