-- ==== Sys2Proof/Machine/Rollback.lean ====
section
/-! DEFINITION. Superstep rollback (R429 to R432), the comparison of twin messages (R433, R434), and die fencing (R435 to
R437). -/

namespace Sys2Proof.Machine

/-- The code of a trigger in the rollback record (R425). -/
def RbTriggerCode : RbTrigger → Nat
  | .struct => 1
  | .deferred => 2
  | .twin => 3
  | .fence => 4

/-- The retry count in force: that of the block, or a greater one that a member carries into it (R429, R431). -/
def State.retryCount (s : State) (c : LCore) (b : Option Barrier) (ids : List CoreId) : Nat :=
  let own := ids.foldl (init := 0) fun m id => match s.findCore id with
    | some d => max m d.retry
    | none => m
  match b with
  | some b => max b.retry own
  | none => c.retry

/-- A member stopped, with its engine commands, copies, calls and special-function requests abandoned without tokens (R430
step 1, R436). -/
def LCore.abandon (c : LCore) : LCore :=
  let c := c.mapCtxs Ctx.kill
  { c with
    mx := { c.mx with queue := [], running := none, skipFor := none }
    copies := ⟨[], []⟩
    coll := []
    raise := none
    xbTake := c.xbound
    mailWaits := []
    slots := c.slots.map fun x => { x with isOpen := false, ended := true, received := [] } }

def State.abandonCores (s : State) (ids : List CoreId) : State :=
  let s := s.mapCores fun c => if ids.contains c.id then c.abandon else c
  { s with unc := { s.unc with
    sfus := s.unc.sfus.map fun u => u.drop fun id => ids.contains id
    bankOps := s.unc.bankOps.filter fun o => !(ids.contains o.core && o.far) } }

/-- Digest contributions since the snapshot withdrawn (R430 step 2, R443). -/
def State.withdrawDigests (s : State) (ids : List CoreId) : State :=
  let s := s.mapCores fun c => if ids.contains c.id then c.mapCtxs fun x => { x with digest := 0 } else c
  ids.foldl (init := s) fun s id => s.mapTask id.task fun t => { t with pending := t.pending.erase id.lcore }

/-! ### Restoring the members (R430 step 3) -/

/-- The spill area of context 0 of a snapshot, put into the image area of a member that is not resident. -/
def State.imageSpill (s : State) (c : LCore) (snapshot : Memory) : State :=
  match c.imageArea with
  | some k => if !c.ctx.ar then s else { s with unc := { s.unc with
      priv := s.unc.priv.write (imageBase k + recordAt 0 + 0x700) (snapshot.read (recordAt 0 + 0x700) 256) } }
  | none => s

/-- A restored member stands as it did: resident where it was, its image written whole where it is not. It has been placed again
(R108, R114). -/
def Op.settleMember (id : CoreId) (was : Bool) (snapshot : Memory) : Op Unit := do
  modify fun s => (s.mapBind id fun b => { b with placed := true }).countPlacement id.task
  let s ← get
  let c ← Op.get! (s.findCore id)
  let own := (NatMap.get s.unc.coreRegs c.slot).getD (0, 0)
  if was then
    modify fun s => ((s.mapCore id fun c => { c with resident := true }).acquireCluster (clusterOf c.slot)).loadSpills c snapshot 0
  else if s.boundCore id && s.takesCore c then
    modify fun s => (((s.mapCore id fun c => { c with
      resident := true, lmAt := some c.slot, since := s.cycle, shadown := own.1,
      mx := { c.mx with startCount := own.2 } }).acquireCluster (clusterOf c.slot)).takeCore c).loadSpills c snapshot 0
  else
    modify fun s => s.mapCore id fun c => { c with resident := false }
    Op.keepImage id
    modify fun s => match s.findCore id with
      | some c => s.imageSpill c snapshot
      | none => s

/-- One member restored from the buffer that its selector names, or placed afresh (R430 step 3), its snapshot channel, its home mode
and what its contexts have metered kept (R427, R395); the task core keeps its own SHADOWN and start count (R187, R244). A snapshot
with a nonzero reserved field is invalid (R7), for which the manual states no outcome: the task becomes FAILED as for one whose code
is wrong (log entry 69). False where the task has FAILED. -/
def Op.restoreMember (t : Task) (snap : Bool) (id : CoreId) : Op Bool := do
  modify fun s => match s.findCore id with
    | some c => s.keepCore c
    | none => s
  let s ← get
  let c ← Op.get! (s.findCore id)
  let place (c : LCore) : LCore := { c with
    rollbackDue := none, arrivedChans := 0, sinceCapture := 0, mailWaits := [], switchDue := false, stopped := false }
  if snap then
    let sel ← Op.selector t id
    match (← Op.areaPlaces t.queue.toNat (t.buffer id sel) Config.imageBytes rightR) with
    | none =>
      Op.failFor t.ref cLOST 2
      pure false
    | some ps => match (← Op.areaRead ps) with
      | .error (cause, reason) =>
        Op.failFor t.ref cause reason
        pure false
      | .ok m =>
        if !imageValid m then
          Op.failFor t.ref cSTRUCT 0
          pure false
        else
          modify fun s => s.mapCore id fun c => place (c.fromSnapshot m (s.freshAs c.regs.home c t).others)
          Op.settleMember id c.resident m
          pure true
  else match (← Op.codeBytes t) with
    | .error (cause, reason) =>
      Op.failFor t.ref cause reason
      pure false
    | .ok (lm, l) =>
      let unit (x : Ctx) : Ctx := { x with unit := ((c.findCtx x.num).map (·.unit)).getD x.unit }
      let fresh := place { (s.freshAs c.regs.home c t).mapCtxs unit with
        lm := lm, xbound := BitVec.ofNat 21 l, xbTake := BitVec.ofNat 21 l, since := c.since, snapChan := c.snapChan,
        blockDirty := List.range 8192 }
      set (s.mapCore id fun _ => fresh)
      Op.settleMember id c.resident []
      pure true

/-- Every member in turn, until one cannot be restored. -/
def Op.restoreMembers (t : Task) (snap : Bool) : List CoreId → Op Bool
  | [] => pure true
  | id :: rest => do
    if (← Op.restoreMember t snap id) then Op.restoreMembers t snap rest else pure false

/-! ### Barrier records (R430 steps 4 and 5) -/

/-- A record as admission left it; its retry count stays (R349). -/
def Barrier.fresh (b : Barrier) : Barrier :=
  { b with
    gp := 0
    broken := false
    reason := 0
    snapPhase := false
    mixed := false
    members := b.members.map fun m => ⟨m.lcore, 0, 0, 0, false, false, none, false, false⟩ }

/-- A record after the rollback of a block of one copy: its snapshot channel's and those within the block go back to what
they kept; one that reaches beyond it and had an arrival from a member since the capture is broken (R430 step 4). Where the
core has no block, since it has chosen no channel, every channel with an arrival from it is broken (R429). -/
def Barrier.rolledBack (b : Barrier) (copy : Nat) (lcores : List Nat) (own : Option (BitVec 2 × Nat)) (arrived : Nat → BitVec 4)
    (retry : Nat) : Barrier :=
  let back (b : Barrier) : Barrier := match b.kept with
    | some p => b.restore p
    | none => b.fresh
  if b.copy ≠ copy then b
  else if own = some (b.chan, b.group) then { back b with retry := retry }
  else if own.isSome && b.members.all fun m => lcores.contains m.lcore then back b
  else if b.members.any fun m => lcores.contains m.lcore && (arrived m.lcore).getLsbD b.chan.toNat then b.break_ 2
  else b

/-! ### Collective calls (R389) -/

/-- Whether a group reaches from a block to outside it. -/
def groupCrosses (ids : List CoreId) (c : LCore) (x : CollSlot) : Bool :=
  let ms := groupMembers x.desc
  let inside (m : Nat) : Bool := ids.contains { c.id with lcore := m }
  x.group.isSome && ms.any inside && !ms.all inside

/-- What a rollback does to collective calls (R389): contributions sent to or from a member for a call beyond its restored
count are discarded; calls of groups that reach beyond the block end, and such slots are cut until CGRP loads them again. -/
def State.cutCalls (s : State) (ids : List CoreId) : State :=
  let beyond (id : CoreId) (gid : Nat) (seq : BitVec 32) : Bool :=
    ids.contains id && (match s.findCore id with
      | some c => !(List.range 4).any fun i =>
          let x := c.collSlot i
          x.group.isSome && groupId x.desc = gid && x.reached seq
      | none => true)
  let gone (p : Packet) : Bool := beyond p.source p.groupId p.seq || beyond p.dest p.groupId p.seq
  let t := { s with unc := { s.unc with
    packets := s.unc.packets.filter fun p => !gone p
    collAborts := s.unc.collAborts.filter fun a => !beyond a.dest a.groupId a.seq } }
  let t := (List.range 8).foldl (init := t) fun t d =>
    t.mapDie d fun x => { x with overflow := x.overflow.filter fun p => !gone p }
  let keep (c : LCore) (x : CollSlot) : CollSlot := { x with
    received := x.received.filter fun r => match (groupMembers x.desc)[r.rank]? with
      | some m => !beyond { c.id with lcore := m } (groupId x.desc) x.count
      | none => false
    cut := x.cut || groupCrosses ids c x }
  let t := t.mapCores fun c => { c with slots := c.slots.map (keep c) }
  t.cores.foldl (init := t) fun t c => (List.range 4).foldl (init := t) fun t i =>
    if groupCrosses ids c (c.collSlot i) then t.endCall c.id i 0x12 2 4 else t

/-! ### ROLLBACK (R430, R431) -/

/-- The failure of a task whose trigger finds the retry count used up (R431): the trigger's cause, with the triggering context's
registers for what the rule does not name; a fence has no context, and context 0 stands for it. -/
def Op.rollbackFails (c : LCore) (t : Task) (trigger : RbTrigger) : Op Unit := do
  let s ← get
  let x := (c.findCtx c.rollbackBy).getD c.ctx
  let phases := s.superstep c
  let place := Word.ofN (x.num * 2 ^ 32 + c.id.lcore)
  let words (cause : Nat) (einfo : Word) : ErrWords := ⟨Word.ofN cause, x.sys.eaddr, einfo, place, c.regs.step, phases⟩
  Op.failTask t.ref (match trigger with
    | .struct => words cSTRUCT x.sys.einfo
    | .deferred => words cPOISON 2
    | .twin => words cTWIN x.sys.einfo
    | .fence => words cLOST 4)

/-- The rollback record (R425 kind 0x04). -/
def State.rollbackRecord (s : State) (c : LCore) (trigger : RbTrigger) (retry : Nat) : State :=
  s.telemetry (dieOf c.slot) (Word.ofN (4 * 2 ^ 56 + RbTriggerCode trigger * 2 ^ 48 + c.slot * 2 ^ 32 + c.id.lcore)) (tcbRef c.id.task)
    (Word.ofN (retry % 2 ^ 32 * 2 ^ 32 + c.regs.queue.toNat))

/-- One copy of the block through steps 1 to 4. False where the task has FAILED instead. -/
def Op.rollbackCopy (t : Task) (b : Option Barrier) (lcores : List Nat) (retry : Nat) (copy : Nat) : Op Bool := do
  let s ← get
  let ids : List CoreId := lcores.map fun l => ⟨t.ref, l, copy⟩
  let arrived (l : Nat) : BitVec 4 := match s.findCore ⟨t.ref, l, copy⟩ with
    | some d => d.arrivedChans
    | none => 0
  set ((s.abandonCores ids).withdrawDigests ids)
  let snap : Bool := (b.bind fun b => s.sameBarrier { b with copy := copy }).any fun x => x.kept.isSome
  if (← Op.restoreMembers t snap ids) then
    modify fun s =>
      let own := b.map fun b => (b.chan, b.group)
      let back (x : Barrier) : Barrier :=
        if x.task = t.ref then x.rolledBack copy lcores own arrived retry else x
      let s := { s with unc := { s.unc with barriers := s.unc.barriers.map back } }
      let clear (x : Ctx) : Ctx := { x with sys := { x.sys with deferred := 0 } }
      let s := s.mapCores fun d => if ids.contains d.id then d.mapCtxs clear else d
      s.cutCalls ids
    pure true
  else pure false

/-- Every copy in turn. -/
def Op.rollbackCopies (t : Task) (b : Option Barrier) (lcores : List Nat) (retry : Nat) : List Nat → Op Bool
  | [] => pure true
  | k :: ks => do
    if (← Op.rollbackCopy t b lcores retry k) then Op.rollbackCopies t b lcores retry ks else pure false

/-- ROLLBACK (R430): the block of the triggering core's snapshot channel goes back to its last snapshot, or is placed afresh.
Members that a fence has unbound must have been bound again (R437); those of a task that is being pre-empted may have been saved
(log entry 82). -/
def Op.rollback (core : CoreId) (trigger : RbTrigger) : Op Unit := do
  let s ← get
  let t ← Op.get! (s.findTask core.task)
  let c ← Op.get! (s.findCore core)
  Op.need (t.isRunning && t.snap && c.rollbackDue = some trigger)
  let b := s.rollbackBlock c
  let lcores := rollbackMembers c b
  let ids : List CoreId := t.copyList.flatMap fun k => lcores.map fun l => ⟨t.ref, l, k⟩
  let retry := s.retryCount c b ids
  let rmax := match c.findCtx 0 with
    | some x => x.sys.sevpol.bits 23 16
    | none => 0
  set (ids.foldl State.foldMeter s)
  if retry = rmax then Op.rollbackFails c t trigger
  else
    let bound (id : CoreId) : Bool := t.phase = .preempted || (s.bindOf id).isSome
    Op.need (ids.all fun id => (s.findCore id).isSome && bound id)
    if (← Op.rollbackCopies t b lcores (retry + 1) t.copyList) then
      if b.isNone then
        modify fun s => s.mapCores fun d => if ids.contains d.id then { d with retry := retry + 1 } else d
      let block := match b with
        | some (b : Barrier) => b.members.map fun (m : Member) => m.lcore
        | none => lcores
      modify fun s => s.mapCores fun d =>
        if d.id.task = t.ref && block.contains d.id.lcore then { d with rollbackDue := none } else d
      modify fun s => s.rollbackRecord c trigger (retry + 1)

/-- ROLLBACK (R430). -/
def execRollback (core : CoreId) (trigger : RbTrigger) (s : State) : Host.Outcome State Fault Refusal :=
  runEvent (Op.whole (Op.rollback core trigger)) s

/-! ### Twin messages (R433, R434) -/

/-- TWIN_MESSAGE_COMPARE (R433): messages of equal sequence numbers of a logical core's two copies; equal hashes pass, a
mismatch stops the block (R434). -/
def execTwinMessageCompare (task : Word) (lcore : Nat) (ctx : Nat) (s : State) : Host.Outcome State Fault Refusal :=
  runEvent (Op.whole (do
    let s ← get
    let a : CoreId := ⟨task, lcore, 0⟩
    let b : CoreId := ⟨task, lcore, 1⟩
    let message (id : CoreId) : Op TwinMsg := do
      let c ← Op.get! (s.findCore id)
      let x ← Op.get! (c.findCtx ctx)
      Op.need (x.wait = some .twin)
      Op.get! x.twinMsg
    let m ← message a
    let n ← message b
    Op.need (m.seq = n.seq && !m.passed && !n.passed)
    if m.hash = n.hash then
      let pass (x : Ctx) : Ctx := { x with wait := none, twinMsg := x.twinMsg.map fun (t : TwinMsg) => { t with passed := true } }
      set ((s.mapCtx a ctx pass).mapCtx b ctx pass)
    else Op.twinMismatch a ctx m.seq m.hash n.hash)) s

/-! ### Die fencing (R435 to R437, R341, R342) -/

/-- The code of a fence trigger (R425). -/
def FenceTriggerCode : FenceTrigger → Nat
  | .containment => 1
  | .supply => 2
  | .firmware => 3

/-- The directory and the caches after a fence (R341, R342): the die's clusters count as having sent an empty PUT from every
line, a transaction that waits on them ends so, and at level 2 every line of the die's stacks is LOST. -/
def State.fenceDirectory (s : State) (d level : Nat) : State :=
  let gone (q : Requester) : Bool := match q with
    | .cluster c => c / 16 = d
    | _ => false
  let waits (tx : DirTx) : Bool := tx.forward.any fun c => c / 16 = d
  -- one to which an owner on the die has already given its data goes through before the die's copies do
  let supplied := (s.unc.dirTxs.filter fun tx => !waits tx && !gone tx.requester && tx.data.isSome &&
    tx.before.hasOwner && !tx.before.remote && tx.before.owner / 16 = d).map (·.tag)
  let s := supplied.foldl State.dirComplete s
  let ended := s.unc.dirTxs.filter fun tx => waits tx || gone tx.requester
  -- a transaction whose owner is lost ends with the entry as it was, as far as the copies still stand; one whose requester
  -- is lost ends as granted when the owner has given the line up
  let left (tx : DirTx) : DirEntry :=
    if !waits tx && tx.data.isSome then dirAfter tx.before tx.requester tx.own
    else { tx.before with sharers := (sharerList tx.before.sharers).foldl (init := 0) fun v c =>
      if (s.findLine c tx.tag).isSome then v ||| sharerBit c else v }
  let cut (tx : DirTx) : DirTx :=
    { tx with before := tx.before.fence d, invalidate := tx.invalidate.filter fun c => c / 16 ≠ d }
  let rest := (s.unc.dirTxs.filter fun tx => !(waits tx || gone tx.requester)).map cut
  let s := { s with unc := { s.unc with
    dirTxs := rest
    dirWaiting := s.unc.dirWaiting.filter fun w => !gone w.requester
    lines := s.unc.lines.filter fun l => l.cluster / 16 ≠ d } }
  let s := ended.foldl (init := s) fun s tx => s.putEntry (left tx)
  let s := s.unc.directory.foldl (init := s) fun s e => s.putEntry (e.fence d)
  -- what the entries that changed owner mean for the new owner's copy
  let heir (l : CacheLine) : CacheLine :=
    let e := s.dirEntry l.tag
    if e.state = .owned && e.owner = l.cluster && !e.remote && l.state = .shared then
      { l with state := .owned, dirty := BitVec.allOnes 128 } else l
  let s := { s with unc := { s.unc with lines := s.unc.lines.map heir } }
  if level < 2 then s.countLost
  else
    let header (tag : Nat) : Bool := (List.range 64).any fun q => s.headerTag q = tag
    let here (tag : Nat) : Bool := tagHome tag = s.pkg.address.toNat && tagStack tag / 2 = d && !header tag
    let gone : List Nat := ((s.unc.directory.filter fun (e : DirEntry) => here e.tag).map (·.tag)) ++
      ((s.unc.lines.filter fun (l : CacheLine) => here l.tag && l.state ≠ .scoped).map (·.tag))
    let s := { s with unc := { s.unc with
      lines := s.unc.lines.filter fun (l : CacheLine) => !here l.tag
      dirTxs := s.unc.dirTxs.filter fun tx => !here tx.tag
      dirWaiting := s.unc.dirWaiting.filter fun w => !here w.tag } }
    (gone.dedup.foldl (init := s) fun s tag =>
      s.putEntry { s.dirEntry tag with state := .lost, reason := 2, sharers := 0 }).countLost

/-- The cores of a die leave the usable set: remap entries that name them are invalid (R113, R436 step 4). -/
def State.unbindDie (s : State) (d : Nat) : State :=
  let free (b : Bind) : Bind :=
    if b.package = s.pkg.address && dieOf b.slot = d then { b with valid := false } else b
  { s with disp := { s.disp with tasks := s.disp.tasks.map fun (t : Task) => { t with binds := t.binds.map free } } }

/-- Whether a task's snapshot area and code object are reachable (R437). Frames that are not resident lie on no fenced die. -/
def State.areaReachable (s : State) (t : Task) : Bool :=
  let g := gridOf t.words
  let open_ (ref : Word) (n need : Nat) : Bool := match (Op.areaPlaces t.queue.toNat ref n need) s with
    | .ok (some ps, _) => !ps.any fun p => (s.placeGone p.1).isSome
    | .ok (none, _) => false
    | .error _ => true
  open_ (t.word 0x78) (0x4000 + 0x2C0000 * g.cores * g.copies) rightR && open_ t.codeRef 16 rightX

/-- Logical cores stopped and bound to no core (R437). -/
def State.unbindCores (s : State) (ids : List CoreId) : State :=
  let s := (s.cores.filter fun c => ids.contains c.id).foldl State.keepCore s
  let s := (s.abandonCores ids).mapCores fun c =>
    if ids.contains c.id then { c with rollbackDue := some .fence, rollbackBy := 0, resident := false } else c
  ids.foldl (init := s) fun s id => s.mapBind id fun b => { b with valid := false }

/-- Whether the blocks that roll back can be bound over the whole usable set, were no other task there (R437): as the task's other
blocks stand, or with the whole task bound anew. -/
def State.blocksBindable (s : State) (t : Task) (mine blocks : List CoreId) : Bool :=
  let alone : State := { s with disp := { s.disp with
    tasks := s.disp.tasks.filter fun u => u.ref = t.ref
    foreign := []
    imageAreas := [] } }
  s.bindable t.queue.toNat t.words || (alone.unbindCores mine).canReplace t.ref || (alone.unbindCores blocks).canReplace t.ref

/-- A task touched by a fence (R437): with SNAP each block that holds a member on the die is due to roll back; where its lost
members cannot be bound now, it waits bound to no core; a task that is being pre-empted gives the lost cores up and rolls back when
it resumes. Any other task, and one that can no longer be bound at all, becomes
FAILED. -/
def Op.resolveTask (touched : List CoreId) (t : Task) : Op Unit := do
  let mine := touched.filter fun id => id.task = t.ref
  if mine = [] || t.phase = .failed || t.phase = .cancelled then pure ()
  else
    let s ← get
    let blocks := (mine.flatMap (s.blockIds t)).dedup
    if t.snap && s.blocksBindable t mine blocks && s.areaReachable t then
      if t.phase = .preempted then
        modify fun s => s.unbindCores mine
        Op.endPreemption t.ref
      else modify fun s =>
        let s := s.unbindCores mine
        if s.canReplace t.ref then s else s.unbindCores blocks
    else Op.failFor t.ref cLOST 4

/-- The surviving die with the lowest number (R424). -/
def State.survivor (s : State) : Nat := ((List.range 8).find? fun d => s.fenceLevel d = 0).getD 0

/-- The queues whose header lines have become LOST since `before` are stopped, and firmware is told (R341). -/
def State.stopHeaders (before s : State) : State :=
  let lost (t : State) (q : Nat) : Bool := (t.dirEntry (s.headerTag q)).state = .lost
  (List.range 64).foldl (init := s) fun (s : State) q =>
    if lost s q && !lost before q then
      let s := s.mapQueue q fun x => { x with status := .stopped, en := false }
      { s with pkg := { s.pkg with firmware := s.pkg.firmware ++ [FwEvent.queueStopped (BitVec.ofNat 6 q)] } }
    else s

/-- The homes of proxy entries that have become LOST since `before` are told (R341). -/
def State.tellHomes (before s : State) : State :=
  (s.unc.directory.filter fun e => e.state = .lost && s.isProxy e.tag && (before.dirEntry e.tag).state ≠ .lost).foldl
    (init := s) fun s e => s.tell e.home e.tag .lost

/-- A die's overflow list is lost with the die; what it held of contributions whose other packets are held is sent again (R381). -/
def State.clearOverflow (s : State) (d : Nat) : State :=
  let back (p : Packet) : Packet := if s.toDie d p then { p with stored := 0 } else p
  let t := s.mapDie d fun x => { x with overflow := [] }
  { t with unc := { t.unc with packets := t.unc.packets.map back } }

/-- The logical cores that stand on a die: those bound there, and those that run there still though their remap entry has become
invalid (R113, R436). -/
def State.coresOn (s : State) (d : Nat) : List CoreId :=
  (s.cores.filter fun c => c.slot < 2048 && dieOf c.slot = d &&
    (c.resident || (s.bindOf c.id).any fun b => b.package = s.pkg.address && b.slot = c.slot)).map (·.id)

/-- A die fence (R436). For a supply or temperature fault it is taken at level 2 (R435). -/
def Op.fenceDie (d level : Nat) (trigger : FenceTrigger) : Op Unit := do
  let s ← get
  Op.need (s.fenceLevel d < level && level ≤ 2 && d < 8 && (trigger ≠ .supply || level = 2))
  let mask : Word := Word.ofN (3 * 2 ^ (2 * d))
  let s := { s with pkg := { s.pkg with fence := (s.pkg.fence &&& ~~~mask) ||| Word.ofN (level * 2 ^ (2 * d)) } }
  -- step 1 and 2: what stands on the die stops; its unfolded sums and counts are lost (R443, R450)
  let touched := s.coresOn d
  let s := (s.cores.filter fun c => touched.contains c.id).foldl State.keepCore s
  let s := s.abandonCores touched
  let s := s.mapCores fun c => if 2048 ≤ c.slot && dieOf c.slot = d then c.kill else c
  let s := s.mapCores fun c => if touched.contains c.id then c.mapCtxs fun x => { x with digest := 0, unit := ⟨Vector.replicate 8 0, 0⟩ } else c
  let s := s.disp.tasks.foldl (init := s) fun (s : State) t =>
    if touched.any fun id => id.task = t.ref then s.mapMeter t.meter fun m => { m with loss := true } else s
  let s := (s.clearOverflow d).mapDie d fun x => { x with residency := [], refused := [], ready := false }
  let t := s.fenceDirectory d level
  set (((s.tellHomes (s.stopHeaders t)).unbindDie d))
  let s ← get
  Op.forEach (Op.resolveTask touched) s.disp.tasks
  modify fun s => s.telemetry s.survivor (Word.ofN (6 * 2 ^ 56 + level * 2 ^ 48 + d * 2 ^ 40))
    (Word.ofN (FenceTriggerCode trigger)) 0
  modify fun s => { s with pkg := { s.pkg with firmware := s.pkg.firmware ++ [FwEvent.fenced (BitVec.ofNat 3 d)] } }
  modify fun s => (s.msix 2).settleStart

/-- DIE_FENCE (R436). -/
def execDieFence (die : BitVec 3) (level : BitVec 2) (trigger : FenceTrigger) (s : State) :
    Host.Outcome State Fault Refusal :=
  runEvent (Op.whole (Op.fenceDie die.toNat level.toNat trigger)) s

/-- FENCE_REGISTER_WRITE (R435): levels written above the current ones fence their dies; others are ignored. -/
def execFenceRegisterWrite (value : Word) (s : State) : Host.Outcome State Fault Refusal :=
  runEvent (Op.whole (Op.forEach (fun d => do
    let s ← get
    let level := value.bits (2 * d + 1) (2 * d)
    if s.fenceLevel d < level && level ≤ 2 then Op.fenceDie d level .firmware else pure ()) (List.range 8))) s

/-- SUPPLY_THERMAL_FAULT (R462): the die is fenced at level 2. -/
def execSupplyThermalFault (die : BitVec 3) (s : State) : Host.Outcome State Fault Refusal :=
  runEvent (Op.whole (Op.fenceDie die.toNat 2 .supply)) s

end Sys2Proof.Machine
end

