-- ==== Sys2Proof/Machine/Coherence.lean ====
section
/-! DEFINITION. The Conjunction directory as it works step by step, its failures, remote packages and the control window
(R332 to R348). A core's access makes its whole request at once (Op.dirRequest); the events here are the same steps taken
one by one. -/

namespace Sys2Proof.Machine

/-! ### Requests (R335, R336, R338) -/

/-- Whether the port of a cluster's die has translated a reference of one of its cores to this line of a class 1 or 2 object
(R258, R335). -/
def State.translated (s : State) (cl tag : Nat) : Bool :=
  s.unc.objectCache.any fun e =>
    let d := descOf e.addr e.w0 e.w1 e.w2 e.w3
    clusterOf e.slot = cl && (d.cls = 1 || d.cls = 2) &&
      ((s.die (cl / 16)).tb.any fun t => t.extents = d.extents && t.word.bits 63 62 = 1 &&
        entryPlace t.word 0 = .bank (tag / 512 * 65536))

/-- The primary meets a request (R335, R336, R339): a BUSY line keeps it waiting; a LOST line refuses it. -/
def Op.dirArrive (q : Requester) (own : Bool) (tag : Nat) : Op Unit := do
  let s ← get
  let e := s.dirEntry tag
  Op.need (!s.dirHeld tag)
  if e.state = .busy then
    set { s with unc := { s.unc with dirWaiting := s.unc.dirWaiting ++ [(⟨tag, q, own⟩ : DirWaiting)] } }
  else if e.state = .lost then pure ()
  else if s.isProxy tag && e.lacks own then set (s.askHome q own tag)
  else
    Op.need (s.dirReaches e own)
    let s ← Op.get! (s.dirRoom tag)
    set (s.dirStart q own tag)

/-- A cluster's request (R335). -/
def Op.clusterRequest (cluster line : Nat) (own : Bool) : Op Unit := do
  let s ← get
  Op.need (cluster < 128 && s.translated cluster line && !s.dirHas (.cluster cluster) own line)
  Op.dirArrive (.cluster cluster) own line

/-- DIR_GETS (R335). -/
def execDirGets (cluster line : Nat) (s : State) : Host.Outcome State Fault Refusal :=
  runEvent (Op.clusterRequest cluster line false) s

/-- DIR_GETX (R335). -/
def execDirGetx (cluster line : Nat) (s : State) : Host.Outcome State Fault Refusal :=
  runEvent (Op.clusterRequest cluster line true) s

/-- The requests that wait for a line, in order of arrival (R336): those that need nothing any more leave, and the first other
begins its transaction, or goes on waiting where the directory has no room for it yet. -/
def Op.dirNextOf (tag : Nat) : List DirWaiting → Op Unit
  | [] => pure ()
  | w :: ws => do
    let s ← get
    if w.tag ≠ tag then Op.dirNextOf tag ws
    else
      let t : State := { s with unc := { s.unc with dirWaiting := s.unc.dirWaiting.erase w } }
      if s.dirHas w.requester w.own tag || (s.dirEntry tag).state = .lost then
        set t
        Op.dirNextOf tag ws
      else match (Op.dirArrive w.requester w.own tag) t with
        | .ok (_, t) => set t
        | .error _ => pure ()

def Op.dirNext (tag : Nat) : Op Unit := do
  let s ← get
  Op.dirNextOf tag s.unc.dirWaiting

/-- DIR_PUT (R335, R336): a cluster evicts a line, a dirty one with its data. A PUT that meets a forward answers it and is
resolved when the transaction has ended. A class 0 line leaves without the directory (R322). -/
def execDirPut (cluster line : Nat) (s : State) : Host.Outcome State Fault Refusal :=
  runEvent (do
    let s ← get
    let l ← Op.get! (s.findLine cluster line)
    if l.state = .scoped then set (s.giveLine l)
    else
      Op.need (!s.dirHeld line)
      if (s.dirEntry line).state = .busy then
        Op.need ((s.findTx line).any fun tx => tx.forward = some cluster)
        set ((s.dirComplete line).dirPutLine cluster line)
        Op.dirNext line
      else set (s.dirPutLine cluster line)) s

/-- DIR_FORWARD (R335): the owner supplies the line. -/
def execDirForward (line : Nat) (s : State) : Host.Outcome State Fault Refusal :=
  runEvent (do
    let s ← get
    let tx ← Op.get! (s.findTx line)
    Op.need (!s.dirHeld line && tx.forward.isSome)
    set (s.dirForward tx)) s

/-- DIR_INVALIDATE (R335). -/
def execDirInvalidate (cluster line : Nat) (s : State) : Host.Outcome State Fault Refusal :=
  runEvent (do
    let s ← get
    let tx ← Op.get! (s.findTx line)
    Op.need (!s.dirHeld line && tx.invalidate.contains cluster)
    set (s.dirInvalidateOne tx cluster)) s

/-- DIR_GRANT (R334): the grant comes when the data is there and every copy to be invalidated is gone. -/
def execDirGrant (line : Nat) (s : State) : Host.Outcome State Fault Refusal :=
  runEvent (do
    let s ← get
    let tx ← Op.get! (s.findTx line)
    Op.need (!s.dirHeld line && tx.forward.isNone && tx.invalidate = [] && !tx.granted)
    set (s.dirGrantLine tx)) s

/-- DIR_TRANSACTION_COMPLETE (R336): the line leaves BUSY and the next request is resolved; so too where a fence has ended the
transaction and requests still wait. A line that its bank holds for an operation stays so until that has been made; where it has been
withdrawn the bank gives the line up (R335). -/
def execDirTransactionComplete (line : Nat) (s : State) : Host.Outcome State Fault Refusal :=
  runEvent (do
    let s ← get
    Op.need (!s.dirHeld line)
    match s.findTx line with
    | some tx =>
      Op.need (tx.granted && !(tx.requester = .bank && s.unc.bankOps.any fun o => match o.site with
        | .bank a => a / 128 = line
        | _ => false))
      set ((s.dirFinish tx).bankRelease line)
    | none => Op.need ((s.dirEntry line).state ≠ .busy && s.unc.dirWaiting.any fun w => w.tag = line)
    Op.dirNext line) s

/-- What the home is told of a package's rights that come back (R335, R338): an owner's line is written to the bank, and the
package leaves the list. -/
def State.takeBack (s : State) (e : DirEntry) (p : BitVec 13) (dirty : Bool) : State :=
  let owner : Bool := e.remote && e.packages.head? = some p
  let s := if owner && dirty then s.bankWrite e.tag (BitVec.allOnes 128) (s.remoteData e) else s
  let left := e.packages.filter fun x => x ≠ p
  let others : Bool := e.sharers ≠ 0 || e.dispatcher || left ≠ [] || e.coarse
  s.putEntry { e with
    packages := left
    remote := e.remote && !owner
    state := if owner || e.state = .shared then (if others then .shared else .invalid) else e.state }

/-- The copies of a line in the package's clusters all dropped. -/
def State.dropCopies (s : State) (tag : Nat) : State :=
  ((s.unc.lines.filter fun l => l.tag = tag).map (·.cluster)).foldl (fun s c => s.evictLine c tag) s

/-- A grant of the home to this package (R338): the proxy entry takes the rights, and where no cluster holds the line its bytes
are those that come with the grant (log entry 8). The requests that it answers are resolved here next, in their order. -/
def State.takeGrant (s : State) (tag : Nat) (own exclusive : Bool) : State :=
  let e := s.dirEntry tag
  let held : Bool := (sharerList e.sharers).any fun c => (s.findLine c tag).isSome
  let s := if held then s else (s.bankWrite tag (BitVec.allOnes 128) (Config.remoteLine s.tick tag)).forgetTcbs tag
  let mine (w : DirWaiting) : Bool := w.tag = tag && (own || !w.own)
  let s := { s with unc := { s.unc with
    proxyWants := s.unc.proxyWants.filter fun w => !mine w
    dirWaiting := (s.unc.proxyWants.filter fun w => mine w && !s.unc.dirWaiting.contains w) ++ s.unc.dirWaiting } }
  s.putEntry { e with
    proxy := true
    granted := if own then .modified else if exclusive then .exclusive else .shared }

/-- A forward or an invalidation of the home to this package's proxy entry (R335, R338): to share, an owner here supplies the
line and keeps O, or S of a clean one; to own, every copy here goes. -/
def State.yieldLine (s : State) (tag : Nat) (own : Bool) : State :=
  let e := s.dirEntry tag
  if own then (s.dropCopies tag).putEntry (DirEntry.empty tag)
  else
    let s := if e.state = .exclusive then { s with unc := { s.unc with lines := s.unc.lines.map fun l =>
        if l.tag = tag then { l with state := .shared } else l } }
      else if e.state = .modified then { s with unc := { s.unc with lines := s.unc.lines.map fun l =>
        if l.tag = tag then { l with state := .owned } else l } }
      else s
    s.putEntry { e with
      state := match e.state with
        | .exclusive => .shared
        | .modified => .owned
        | st => st
      granted := if e.state = .modified || e.state = .owned then .owned else .shared }

/-- PROXY_REQUEST (R338): another package's message about a line. To the home primary here: a request for rights, the return of
rights, or a proxy entry that has become LOST (R341). From the home of a line that has a proxy entry here: a grant that this
package asked for, or a forward or invalidation. -/
def execProxyRequest (package : BitVec 13) (line : Nat) (msg : ProxyMsg) (s : State) : Host.Outcome State Fault Refusal :=
  runEvent (do
    let s ← get
    Op.need (package ≠ s.pkg.address && s.reach package.toNat = 0 && !s.dirHeld line)
    let e := s.dirEntry line
    match msg with
    | .request own =>
      Op.need (tagHome line = s.pkg.address.toNat)
      -- a line that a cluster holds as a class 0 line has no directory entry (R332)
      Op.need (!s.unc.lines.any fun l => l.tag = line && l.state = .scoped)
      -- a line of a stack whose path is lost is refused too (R342)
      if e.state = .lost || s.fenceLevel (tagStack line / 2) = 2 then set (s.tell package line .lost)
      else Op.dirArrive (.package package) own line
    | .giveBack dirty =>
      Op.need (tagHome line = s.pkg.address.toNat && e.state ≠ .busy && e.state ≠ .lost)
      if e.packages.contains package then set (s.takeBack e package dirty)
    | .lost =>
      if tagHome line = s.pkg.address.toNat then
        Op.need (e.remote && e.packages.head? = some package && e.state ≠ .busy && e.state ≠ .lost)
        set ((s.dropCopies line).putEntry
          { e with state := .lost, reason := 1, sharers := 0, packages := [], remote := false }).countLost
      else
        Op.need (tagHome line = package.toNat && s.unc.proxyWants.any fun w => w.tag = line)
        set (({ s with unc := { s.unc with proxyWants := s.unc.proxyWants.filter fun w => w.tag ≠ line } }.dropCopies line).putEntry
          { DirEntry.empty line with state := .lost, reason := 1 }).countLost
    | .grant own exclusive =>
      Op.need (tagHome line = package.toNat && e.state ≠ .busy && e.state ≠ .lost)
      Op.need (s.unc.proxyWants.any fun w => w.tag = line && (own || !w.own))
      let s ← Op.get! (s.dirRoom line)
      set (s.takeGrant line own exclusive)
      Op.dirNext line
    | .forward own =>
      Op.need (tagHome line = package.toNat && e.state ≠ .busy && e.state ≠ .lost)
      -- a package without a proxy entry answers at once
      if e.granted ≠ .invalid then set (s.yieldLine line own)
      else set (s.tell package line (.giveBack false))) s

/-! ### Loss of Conjunction dies (R344, R345) -/

def State.mapCdie (s : State) (c : BitVec 1) (f : ConjunctionDie → ConjunctionDie) : State :=
  { s with cdies := s.cdies.set c.toNat (f (s.cdies[c.toNat]'(by omega))) (by omega) }

def State.cdie (s : State) (c : BitVec 1) : ConjunctionDie := s.cdies[c.toNat]'(by omega)

/-- CONJUNCTION_DIE_LOSS (R344, R16): the die's fabric ports go down with it; coherent requests wait until the survivor has
taken over. -/
def execConjunctionDieLoss (cdie : BitVec 1) (s : State) : Host.Outcome State Fault Refusal :=
  runEvent (do
    let s ← get
    Op.need (!(s.cdie cdie).lost && !(s.cdie (1 - cdie)).lost)
    let s := (s.mapCdie cdie fun x => { x with lost := true }).mapCdie (1 - cdie) fun x => { x with mirrorLost := true }
    let cut (p : Port) : Port := if p.num.toNat % 32 / 16 = cdie.toNat then { p with up := false } else p
    set ({ s with pkg := { s.pkg with takeover := true, ports := s.pkg.ports.map cut } }.msix 3)) s

/-- CONJUNCTION_TAKEOVER_COMPLETE (R344). -/
def execConjunctionTakeoverComplete (s : State) : Host.Outcome State Fault Refusal :=
  runEvent (do
    let s ← get
    Op.need s.pkg.takeover
    let lead (x : ConjunctionDie) : ConjunctionDie := if x.lost then x else { x with primaryAll := true }
    set { s with pkg := { s.pkg with takeover := false }, cdies := s.cdies.map lead }
    -- phases whose last arrival came during the takeover complete now (R350)
    Op.forEach Op.phaseComplete s.unc.barriers) s

/-- BOTH_CONJUNCTION_LOSS (R345): directory, dispatcher, retirement, fabric and host link are gone; every compute die is
fenced with its stacks out of reach; every task ends without an error record. -/
def execBothConjunctionLoss (s : State) : Host.Outcome State Fault Refusal :=
  runEvent (do
    let s ← get
    Op.need (!(s.cdies.toList.all fun x => x.lost))
    let s := (s.cores.map (·.id)).foldl (init := s) fun s id => (s.killTask id.task).releaseTask id.task
    let s := (List.range 8).foldl (init := s) fun s d =>
      (s.fenceDirectory d 2).mapDie d fun x => { x with ready := false, overflow := [], residency := [], refused := [] }
    let stop (x : Queue) : Queue := { x with status := .stopped, expired := none, hostAppend := none }
    let cut (p : Port) : Port := { p with up := false }
    let gone (x : ConjunctionDie) : ConjunctionDie := { x with lost := true, mirrorLost := true }
    set { s with
      cdies := s.cdies.map gone
      disp := { s.disp with
        tasks := []
        queues := s.disp.queues.map stop }
      unc := { s.unc with dirTxs := [], dirWaiting := [], proxyWants := [], shoots := [], bankOps := [], sfus := [] }
      pkg := { s.pkg with
        takeover := false
        hostUp := false
        fence := 0xAAAA
        ports := s.pkg.ports.map cut } }) s

/-! ### Remote packages (R346, R347) -/

/-- The entry of a package in the reachability table: with epoch 0 where the table has none, and UP while any port is (R346). -/
def State.remotePkg (s : State) (p : BitVec 13) : RemotePkg :=
  (s.pkg.remotes.find? fun r => r.package = p).getD
    ⟨p, if s.pkg.ports.any fun x => x.up then .up else .unreachable, 0, [], false, [], []⟩

def State.putRemote (s : State) (r : RemotePkg) : State :=
  { s with pkg := { s.pkg with remotes := r :: s.pkg.remotes.filter fun x => x.package ≠ r.package } }

/-- The contexts that wait for a route to a package go on (`none`) or have failed with a reason (R347). -/
def State.endRouteWaits (s : State) (p : BitVec 13) (bad : Option (BitVec 8)) : State :=
  let free (x : Ctx) : Ctx := match x.wait with
    | some (.route _ q) => if q = p then { x with wait := none, remoteBad := bad } else x
    | _ => x
  s.mapCores fun c => c.mapCtxs free

/-- The copies in flight that have waited for a package, marked or cleared (R347). -/
def State.markCopies (s : State) (p : BitVec 13) (late : Bool) : State :=
  let mark (r : CopyRun) : CopyRun :=
    if late then { r with timedOut := some p } else if r.timedOut = some p then { r with timedOut := none } else r
  s.mapCores fun c => { c with copies := { c.copies with flight := c.copies.flight.map mark } }

/-- What RESET and DOWN do to an entry that names the package (R347): its line is LOST where it owned it, and it is no
longer among the sharing packages. -/
def DirEntry.dropPackage (e : DirEntry) (p : BitVec 13) : DirEntry :=
  if e.remote && e.packages.head? = some p && (e.state = .owned || e.state = .modified) then
    { e with state := .lost, reason := 3, sharers := 0, packages := [], remote := false }
  else
    let owner : Bool := e.remote && e.packages.head? = some p
    let left := e.packages.filter fun x => x ≠ p
    { e with
      packages := left
      remote := e.remote && !owner
      state := if owner then .invalid else if e.state = .shared && e.sharers = 0 && !e.dispatcher && left = [] && !e.coarse then .invalid else e.state }

/-- A package that has been reset or is powered down (R347); a transaction under way goes on from the entry that is left. -/
def State.dropPackage (s : State) (p : BitVec 13) : State :=
  -- cached remote descriptors are discarded, and what a home there granted or was asked for is gone
  let s := { s with unc := { s.unc with
    objectCache := s.unc.objectCache.filter fun e => e.package ≠ p
    proxyWants := s.unc.proxyWants.filter fun w => tagHome w.tag ≠ p.toNat } }
  let dead := (s.unc.directory.filter fun e => e.state ≠ .lost && (e.dropPackage p).state = .lost).map (·.tag)
  let s := dead.foldl State.dropCopies s
  let s := s.unc.directory.foldl (init := s) fun s e => s.putEntry (e.dropPackage p)
  let lost := s.unc.dirTxs.filter fun tx => (tx.before.dropPackage p).state = .lost
  let s := lost.foldl (init := s) fun s tx => s.putEntry (tx.before.dropPackage p)
  let keep (tx : DirTx) : Option DirTx :=
    if (tx.before.dropPackage p).state = .lost || tx.requester = Requester.package p then none
    else some { tx with before := tx.before.dropPackage p }
  let gone := s.unc.dirTxs.filter fun tx => tx.requester = Requester.package p && (tx.before.dropPackage p).state ≠ .lost
  let s := gone.foldl (init := s) fun s tx =>
    let s := match tx.data with
      | some d => if tx.own then s.bankWrite tx.tag (BitVec.allOnes 128) d else s
      | none => s
    let left (c : Nat) : Bool := (s.findLine c tx.tag).isSome
    s.putEntry (if tx.own && tx.data.isSome then { tx.before with state := .invalid, sharers := 0, remote := false, packages := [] }
      else { (dirAfter tx.before tx.requester false).dropPackage p with
        sharers := (sharerList tx.before.sharers).foldl (init := 0) fun v c => if left c then v ||| sharerBit c else v })
  { s with unc := { s.unc with
      dirTxs := s.unc.dirTxs.filterMap keep
      dirWaiting := s.unc.dirWaiting.filter fun w => w.requester ≠ Requester.package p } }.countLost

/-- LINK_STATE_MESSAGE (R346): a package whose last route has failed is UNREACHABLE; one that a route reaches again is UP, or
RESET while entries still name its old epoch. A package that is DOWN stays so until it answers with a new epoch. -/
def execLinkStateMessage (package : BitVec 13) (reachable : Bool) (s : State) : Host.Outcome State Fault Refusal :=
  runEvent (do
    let s ← get
    Op.need (package ≠ s.pkg.address)
    let r := s.remotePkg package
    if r.state = .down then set (s.putRemote r)
    else if reachable then
      set (((s.putRemote { r with state := if r.stale then .reset else .up, expired := [] }).endRouteWaits package none).markCopies package false)
    else set (s.putRemote { r with state := .unreachable, expired := if r.state = .unreachable then r.expired else [] })) s

/-- REMOTE_EPOCH_CHANGE (R346, R347): a response carries an epoch that the table does not have. -/
def execRemoteEpochChange (package : BitVec 13) (epoch : BitVec 32) (s : State) : Host.Outcome State Fault Refusal :=
  runEvent (do
    let s ← get
    let r := s.remotePkg package
    Op.need (package ≠ s.pkg.address && epoch ≠ r.epoch)
    set (((s.putRemote { r with state := .reset, epoch := epoch, expired := [], stale := true, rebound := [] }).endRouteWaits
      package (some 2)).dropPackage package)) s

/-- REMOTE_POWER_DOWN (R346, R347). -/
def execRemotePowerDown (package : BitVec 13) (s : State) : Host.Outcome State Fault Refusal :=
  runEvent (do
    let s ← get
    Op.need (package ≠ s.pkg.address)
    let r := s.remotePkg package
    set (((s.putRemote { r with state := .down, expired := [] }).endRouteWaits package (some 3)).dropPackage package)) s

/-- REMOTE_ROUTE_TIMEOUT (R347): 10 ms without a route: the accesses that wait trap REMOTE with reason 1, and engine
commands that wait stop. -/
def execRemoteRouteTimeout (package : BitVec 13) (s : State) : Host.Outcome State Fault Refusal :=
  runEvent (do
    let s ← get
    let r := s.remotePkg package
    Op.need (r.state = .unreachable)
    let late : List CoreId := (s.cores.filter fun (c : LCore) => c.copies.queue ≠ [] || c.coll ≠ []).map (·.id)
    set (((s.putRemote { r with expired := late }).endRouteWaits package (some 1)).markCopies package true)) s

/-! ### The directory control window (R333, R348) -/

/-- The state code of an entry. -/
def DirState.code : DirState → Nat
  | .invalid => 0
  | .shared => 1
  | .exclusive => 2
  | .owned => 3
  | .modified => 4
  | .lost => 5
  | .busy => 6

/-- The four words of an entry in package `me` (R333). -/
def DirEntry.words (e : DirEntry) (me : BitVec 13) : List Word :=
  let flags := e.pinned.toNat * 2 ^ 60 + e.coarse.toNat * 2 ^ 59 + (if e.home = me then 0 else 2 ^ 58) +
    e.dispatcher.toNat * 2 ^ 57 + e.bank.toNat * 2 ^ 56 + e.remote.toNat * 2 ^ 55
  [Word.ofN (e.state.code * 2 ^ 61 + flags + e.owner % 128 * 2 ^ 48 + e.home.toNat * 2 ^ 35 + e.tag % 2 ^ 33),
   Word.ofN e.sharers.toNat,
   Word.ofN (e.sharers.toNat / 2 ^ 64),
   Word.ofN (min 4 e.packages.length * 2 ^ 52 + packElems 13 ((e.packages.take 4).map (·.toNat)))]

/-- The tag that a control window selects. -/
def ConjunctionDie.tag (c : ConjunctionDie) : Nat := c.select.bits 45 0

/-- DCMD_READ (R348): DENT := the entry, or zero when none exists. -/
def execDcmdRead (cdie : BitVec 1) (s : State) : Host.Outcome State Fault Refusal :=
  runEvent (do
    let s ← get
    Op.need (!(s.cdie cdie).lost)
    let words := match s.unc.directory.find? fun e => e.tag = (s.cdie cdie).tag with
      | some e => e.words s.pkg.address
      | none => [0, 0, 0, 0]
    set (s.mapCdie cdie fun x => { x with dent := words })) s

/-- DCMD_CLEAR_LOST (R348): a LOST entry becomes I; another is left alone. -/
def execDcmdClearLost (cdie : BitVec 1) (s : State) : Host.Outcome State Fault Refusal :=
  runEvent (do
    let s ← get
    Op.need (!(s.cdie cdie).lost)
    let e := s.dirEntry (s.cdie cdie).tag
    if e.state = .lost then
      set (s.putEntry { DirEntry.empty e.tag with pinned := e.pinned }).countLost
    else pure ()) s

/-- DCMD_RECALL (R348): no effect on an entry that is pinned, BUSY or LOST. -/
def execDcmdRecall (cdie : BitVec 1) (s : State) : Host.Outcome State Fault Refusal :=
  runEvent (do
    let s ← get
    Op.need (!(s.cdie cdie).lost)
    match s.unc.directory.find? fun e => e.tag = (s.cdie cdie).tag with
    | some e => if e.pinned || e.state = .busy || e.state = .lost then pure () else set (s.recallEntry e)
    | none => pure ()) s

end Sys2Proof.Machine
end

