-- ==== Sys2Proof/Machine/Device.lean ====
section
/-! DEFINITION. The module in its system: registers that firmware writes (R6), start-up (R459 to R461), the fabric (R456 to
R458), power and ageing (R439, R462), identity and attestation (R464 to R466). -/

namespace Sys2Proof.Machine

/-! ### REGISTER_WRITE (R6) -/

/-- Whether some task is RUNNING (R104); of a die, whether one has a core there (R381). -/
def State.anyRunning (s : State) : Bool := s.disp.tasks.any Task.isRunning

def State.runningOn (s : State) (d : Nat) : Bool :=
  s.disp.tasks.any fun t => t.isRunning && t.binds.any fun b =>
    b.package = s.pkg.address && dieOf b.slot = d

/-- Whether a device-private address lies in a frame entry that an object of some queue's table reaches (R255, R257). -/
def State.inFrameEntry (s : State) (addr : Nat) : Bool :=
  s.disp.queues.toList.zipIdx.any fun (x, q) =>
    (List.range x.entries.toNat).any fun h =>
      let d := (s.tableDesc q h).2.2.2.2
      16 ≤ h && d.rights ≠ 0 &&
        ((s.unc.priv.extents d.extents (min (2 ^ 20) ((s.unc.priv.word d.extents).bits 31 0)) 0).any fun e =>
          e.2.2.1 ≤ addr && addr < e.2.2.1 + 16 * e.2.1)

/-- Whether an object of some queue's table has its bytes in a frame of a bank, numbered by 64 KiB (R255, R256). -/
def State.reachesFrame (s : State) (frame : Nat) : Bool :=
  s.disp.queues.toList.zipIdx.any fun (x, q) =>
    (List.range x.entries.toNat).any fun h =>
      let d := (s.tableDesc q h).2.2.2.2
      16 ≤ h && d.rights ≠ 0 &&
        ((s.unc.priv.extents d.extents (min (2 ^ 20) ((s.unc.priv.word d.extents).bits 31 0)) 0).any fun e =>
          (List.range e.2.1).any fun i =>
            let w := s.unc.priv.word (e.2.2.1 + 16 * i)
            w.bits 63 62 = 1 && entryPlace w 0 = .bank (65536 * frame))

/-- Frames that have become an object's since `before`: its lines have no anchors (R284), and TCBs there are new (R36, log entry
59). -/
def State.newFrames (s before : State) : State :=
  let same (frame : Nat) : Bool := before.reachesFrame frame || !s.reachesFrame frame
  { s with
    unc := { s.unc with anchors := s.unc.anchors.filter fun e => same (e.1 / 512) }
    disp := { s.disp with tcbs := s.disp.tcbs.filter fun r => same (r.place / 65536) } }

/-- A word of device-private memory that firmware writes, with fresh check bits (R414). -/
def State.writePriv (s : State) (addr : Nat) (v : Word) : State :=
  { s with unc := { s.unc with priv := s.unc.priv.setWord addr v, privFlips := s.unc.privFlips.erase (addr / 8) } }

/-- A frame whose bytes are an object's from now on: its lines have no anchors (R284), and TCBs there are new (R36, log entry 59). -/
def State.clearAnchors (s : State) (w : Word) : State :=
  match (if w.bits 63 62 = 1 then entryPlace w 0 else .moving) with
  | .bank a => { s with
      unc := { s.unc with anchors := s.unc.anchors.filter fun e => e.1 / 512 ≠ a / 65536 }
      disp := { s.disp with tcbs := s.disp.tcbs.filter fun r => r.place / 65536 ≠ a / 65536 } }
  | _ => s

/-- A frame entry that firmware has written names its package as it is now, though it was reset before (R347). -/
def State.rebind (s : State) (entry : Nat) : State :=
  { s with pkg := { s.pkg with remotes := s.pkg.remotes.map fun (r : RemotePkg) =>
      if r.stale && !r.rebound.contains entry then { r with rebound := entry :: r.rebound } else r } }

/-- A frame that the free list of its die takes up, or loses (R269). -/
def State.setFree (s : State) (frame : Nat) (free : Bool) : State :=
  s.mapDie (frame / 2 ^ 21) fun x => { x with
    freeFrames := (if free then [frame] else []) ++ x.freeFrames.filter fun f => f ≠ frame }

/-- Firmware's write of a word of a frame entry that it has in hand: word 0x08 and the reserved bits are read-only (R256); one
that maps a frame takes it from the free ones. -/
def State.writeEntry (s : State) (addr : Nat) (v : Word) : State :=
  if addr % 16 ≠ 0 then s
  else
    let w := v &&& 0xF000001FFFFFFFFF
    let s := s.writePriv addr w
    let s := (s.clearAnchors w).rebind addr
    if w.bits 63 62 = 1 && !w.getLsbD 61 && w.bits 36 24 = s.pkg.address.toNat then s.setFree (w.bits 23 0) false else s

/-- A word of a queue's configuration record, EN, the deficit, the resets and the status left alone (R77). -/
def Queue.writeWord (x : Queue) (w : Nat) (v : Word) : Queue :=
  match w with
  | 0 => { x with pe := v.getLsbD 62, priority := BitVec.ofNat 3 (v.bits 58 56), weight := BitVec.ofNat 16 (v.bits 47 32),
                  meter := BitVec.ofNat 32 (v.bits 31 0) }
  | 1 => { x with table := v }
  | 2 => { x with entries := BitVec.ofNat 25 (v.bits 24 0) }
  | 3 => { x with watchdog := BitVec.ofNat 32 (v.bits 31 0) }
  | 6 => { x with launchers := v }
  | _ => x

/-- The RW fields of a register set to those of a value; a rule that lets firmware write only at some times is the event's
condition. -/
def Op.registerWrite (r : DevReg) (v : Word) : Op Unit := do
  let s ← get
  let disp (f : Dispatcher → Dispatcher) : Op Unit := set { s with disp := f s.disp }
  let die (d : BitVec 3) (f : DieState → DieState) : Op Unit := set (s.mapDie d.toNat f)
  match r with
  | .queueCfg q w =>
    Op.need (!(s.queue q.toNat).en)
    set (s.mapQueue q.toNat fun x => x.writeWord w v)
  | .supervisorMask => disp fun d => { d with supervisorMask := v }
  | .injectionMask => disp fun d => { d with injectionMask := v }
  | .testMask => disp fun d => { d with testMask := v }
  | .sevpolEntry q => set (s.mapQueue q.toNat fun x => { x with sevpol := v &&& 0x00FFFF06 })
  | .placeCtl =>
    Op.need (!s.anyRunning)
    disp fun d => { d with placeCtl := v &&& 0x3FFFFF }
  | .statusTask => disp fun d => { d with statusTask := v }
  | .statusIndex => disp fun d => { d with statusIndex := BitVec.ofNat 17 (v.bits 16 0) }
  | .migc0 d => die d fun x => { x with migc0 := v }
  | .migc1 d => die d fun x => { x with migc1 := v &&& 0xFFFFFFFFFFFF0001 }
  | .overflowBase d =>
    Op.need (!s.runningOn d.toNat && v.toNat % 4096 = 0)
    die d fun x => { x with ovBase := v }
  | .overflowCapacity d =>
    Op.need (!s.runningOn d.toNat)
    die d fun x => { x with ovCapacity := BitVec.ofNat 32 (v.bits 31 0) }
  | .telemetryBase d =>
    Op.need (v.toNat % 4096 = 0)
    die d fun x => { x with telemetry := { x.telemetry with base := v } }
  | .telemetryEntries d =>
    let n := v.bits 31 0
    Op.need (n = 0 || (128 ≤ n && n ≤ 2 ^ 20 && n = 2 ^ n.log2))
    die d fun x => { x with telemetry := { x.telemetry with entries := BitVec.ofNat 32 n } }
  | .telemetryConsumer d => die d fun x => { x with telemetry := { x.telemetry with consumer := BitVec.ofNat 32 (v.bits 63 32) } }
  | .telemetryLc d => die d fun x => { x with telemetry := { x.telemetry with lc := v.getLsbD 0 } }
  | .mixedMask d => die d fun x => { x with mixedMask := v }
  | .dirSelect c => set (s.mapCdie c fun x => { x with select := v &&& 0x3FFFFFFFFFFF })
  | .bankWord c off =>
    let tag := (s.cdie c).tag
    Op.need ((s.dirEntry tag).state = .lost)
    set (s.bankWrite tag (byteMask (8 * off.toNat) 8) (lineSet 0 (8 * off.toNat) 8 v.toNat))
  | .msixTable i => set { s with pkg := { s.pkg with msixTable := s.pkg.msixTable.set i.toNat v } }
  | .plim => set { s with pkg := { s.pkg with plim := v &&& 0x0000FFFF0000FFFF } }
  | .energy d i => die d fun x => { x with energy := x.energy.set i.toNat (BitVec.ofNat 32 (v.bits 31 0)) }
  | .meterCreate n =>
    if s.disp.meters.any fun m => m.number = n then pure ()
    else disp fun d => { d with meters := d.meters ++ [⟨n, false, 0, 0, 0, 0, Vector.replicate 8 0⟩] }
  | .table addr =>
    Op.need (addr % 8 = 0 && addr < 2 ^ 64 && !s.inFrameEntry addr)
    set ((s.writePriv addr v).newFrames s)
  | .frameEntry addr =>
    Op.need (addr % 8 = 0 && addr < 2 ^ 64)
    let st := (s.unc.priv.word (addr / 16 * 16)).bits 63 62
    Op.need (addr % 16 ≠ 0 || (st ≠ 1 && st ≠ 2 && v.bits 63 62 ≠ 2))
    set (s.writeEntry addr v)
  | .freeFrame d =>
    Op.need (v.bits 23 20 / 2 = d.toNat)
    set (s.setFree (v.bits 23 0) (v.getLsbD 63))
  | .testRecord slot q result kernel =>
    let d := dieOf slot.toNat
    Op.need (slot.toNat < 2048)
    let s := s.telemetry d (Word.ofN (7 * 2 ^ 56 + result.toNat * 2 ^ 48 + slot.toNat * 2 ^ 32 + kernel.toNat)) v (Word.ofN q.toNat)
    set (if result = 0 then s
      else { s with pkg := { s.pkg with firmware := s.pkg.firmware ++ [FwEvent.reported (BitVec.ofNat 3 d)] } })

/-- REGISTER_WRITE (R6). -/
def execRegisterWrite (r : DevReg) (value : Word) (s : State) : Host.Outcome State Fault Refusal :=
  runEvent (Op.registerWrite r value) s

/-! ### Start-up (R459 to R461, R463, R467) -/

/-- The code of a start state. -/
def StartState.code : StartState → Nat
  | .reset => 0
  | .starting => 1
  | .limited => 2
  | .full => 3
  | .failed => 4

/-- The start state register (R459). -/
def State.startReg (s : State) : Word :=
  let mask (f : Nat → Bool) : Nat := bitsOf ((List.range 8).map f)
  Word.ofN (mask (fun d => s.fenceLevel d ≠ 0) * 2 ^ 24 + mask (fun d => (s.die d).ready) * 2 ^ 16 + s.pkg.warm.toNat * 16 +
    s.pkg.start.code)

/-- The measurements of R466, of the images at the last start and of the start state register as it stands. -/
def State.measurements (s : State) (images : List (List Byte)) : List (List Byte) :=
  images.take 5 ++ [sha256 (bytesOf 8 s.startReg.toNat)]

/-- The place of a port in the mesh (R456): whether the package that it faces is in the mesh. -/
def portFaces (a : BitVec 13) (side : Nat) : Bool :=
  let px := a.toNat % 128
  let py := a.toNat / 128
  match side with
  | 0 => 0 < py
  | 1 => px < 127
  | 2 => py < 63
  | _ => 0 < px

/-- The ports after training: those on the mesh's edge stay down (R456, R460). -/
def trainedPorts (a : BitVec 13) : List Port :=
  (List.range 128).map fun n => ⟨BitVec.ofNat 7 n, portFaces a (n / 32), 0, 0, [], []⟩

/-- A start (R460 steps 1, 2, 4 and 6): fences and every die's state are cleared, memory is zero, the links are trained.
What outlives it is the host's memory, the package's address, the owner chain and the epoch, which rises (R346). `verified`
is the signature of the Conjunction firmware (R467). -/
def State.restart (s : State) (warm verified : Bool) : State :=
  let fresh := State.reset
  let images := [Config.measure s.tick 1, Config.measure s.tick 2, Config.measure s.tick 3, Config.measure s.tick 4, sha256 [1]]
  let t := { fresh with
    unc := { fresh.unc with host := s.unc.host }
    pkg := { fresh.pkg with
      address := s.pkg.address
      start := s.pkg.start
      warm := warm
      epoch := s.pkg.epoch + 1
      msix := s.pkg.msix
      ports := if verified then trainedPorts s.pkg.address else []
      identity := { fresh.pkg.identity with ownerChain := s.pkg.identity.ownerChain } }
    agenda := s.agenda
    tick := s.tick }
  let t := t.setStart (if verified then .starting else .failed)
  { t with pkg := { t.pkg with identity := { t.pkg.identity with measured := t.measurements images } } }

/-- COLD_START (R460). -/
def execColdStart (verified : Bool) (s : State) : Host.Outcome State Fault Refusal :=
  runEvent (modify fun s => s.restart false verified) s

/-- WARM_START (R460): as a cold start; stored training results and test signatures change no state. -/
def execWarmStart (verified : Bool) (s : State) : Host.Outcome State Fault Refusal :=
  runEvent (modify fun s => s.restart true verified) s

/-- The words of a loaded Archaism image (R413). -/
def archWords (ws : List (BitVec 32)) : NatMap (BitVec 32) :=
  ((ws.take 4096).zipIdx.filter fun e => e.1 ≠ 0).map fun e => (e.2, e.1)

/-- Service core `n` of a die, slot 0x800 + 256 × die + n (R17, R19): a core with its contexts in supervisor mode, which holds no
logical core of any task (R18). What firmware it runs, and from where, is not architected, so none of its contexts is live (log
entry 70). -/
def LCore.service (die n : Nat) : LCore :=
  let ctx := Ctx.zero 0
  { LCore.empty with
    id := ⟨0, 1 + 4 * die + n, 0⟩
    slot := 2048 + 256 * die + n
    resident := true
    ctx := { ctx with sys := { ctx.sys with svclvl := svclvlOf false false true } } }

/-- The four service cores of a die that enters service (R17). -/
def State.addService (s : State) (die : Nat) : State :=
  { s with peers := s.peers ++ (List.range 4).map (LCore.service die) }

/-- The ageing record of one monitor reading (R425, R439, R463). -/
def State.ageing (s : State) (die : Nat) (reading : AgeReading) : State :=
  s.telemetry die
    (Word.ofN (3 * 2 ^ 56 + reading.monitor.toNat * 2 ^ 48 + reading.site.toNat * 2 ^ 32 + reading.count.toNat))
    (Word.ofN (reading.margin.toNat * 2 ^ 32 + reading.supply.toNat * 2 ^ 16 + reading.temperature.toNat)) 0

/-- DIE_ENTER_SERVICE (R460 steps 3 to 8): a die whose images verified, with a usable core and a supply that gives the
margin, enters service; another is fenced at level 1 (R460, R463, R467). -/
def execDieEnterService (die : BitVec 3) (found : DieStart) (s : State) : Host.Outcome State Fault Refusal :=
  runEvent (do
    let s ← get
    let d := die.toNat
    Op.need ((s.pkg.start = .starting || s.pkg.start = .limited) && !(s.die d).ready && s.fenceLevel d = 0)
    let s := found.samples.foldl (fun (s : State) x => s.ageing d x) s
    let usable : Bool := found.usableCore && (List.range 256).any fun n => !found.harvested.contains n
    let good : Bool := usable && found.marginMet && found.imagesVerified
    let s := if good then
        let s := (s.addService d).mapDie d fun x => { x with
          ready := true
          cycle := Word.ofN (Config.extraCycles s.tick % (s.cycle.toNat + 1))
          archStore := archWords found.archaism
          energy := Vector.ofFn fun (i : Fin 32) => found.energy.getD i.val 0 }
        let out := (found.harvested.filter fun n => n < 256).map fun n => 256 * d + n
        { s with disp := { s.disp with harvested := (out.filter fun n => !s.disp.harvested.contains n) ++ s.disp.harvested } }
      else
        let s := { s with pkg := { s.pkg with
          fence := s.pkg.fence ||| Word.ofN (2 ^ (2 * d))
          firmware := s.pkg.firmware ++ [FwEvent.fenced die] ++ (if found.marginMet then [] else [FwEvent.reported die]) } }
        s.msix 2
    let s := s.settleStart
    set { s with pkg := { s.pkg with identity := { s.pkg.identity with
      measured := s.measurements s.pkg.identity.measured } } }) s

/-! ### Fabric (R456 to R458) -/

/-- The sides that lie on a minimal path from package `a` to package `b` (R456). -/
def minimalSides (a b : BitVec 13) : List Nat :=
  let ax := a.toNat % 128
  let ay := a.toNat / 128
  let bx := b.toNat % 128
  let by_ := b.toNat / 128
  (if by_ < ay then [0] else []) ++ (if ax < bx then [1] else []) ++ (if ay < by_ then [2] else []) ++ (if bx < ax then [3] else [])

def State.port (s : State) (n : BitVec 7) : Option Port := s.pkg.ports.find? fun p => p.num = n

def State.mapPort (s : State) (n : BitVec 7) (f : Port → Port) : State :=
  { s with pkg := { s.pkg with ports := s.pkg.ports.map fun p => if p.num = n then f p else p } }

/-- The ports that a flit for another package may leave by (R457), and whether that is a non-minimal hop: those on a minimal
path; where none of them is up, any other that is up, for at most two such hops. -/
def State.exits (s : State) (arrived : BitVec 7) (x : Flit) : List Port × Bool :=
  let ups := s.pkg.ports.filter fun p => p.up
  let near := ups.filter fun p => (minimalSides s.pkg.address x.package).contains (p.num.toNat / 32)
  if near ≠ [] then (near, false)
  else if 2 ≤ x.detours then ([], true)
  else
    let others := ups.filter fun p => p.num ≠ arrived
    (if others ≠ [] then others else ups, true)

/-- The early flits of a flow that follow on from `next`, delivered in turn. -/
def Flow.advance (f : Flow) : Nat → List Flit → Flow × List Flit
  | 0, out => (f, out)
  | n + 1, out => match f.early.find? fun x => x.seq = f.next with
    | some x => Flow.advance { f with next := f.next + 1, early := f.early.filter fun y => y ≠ x } n (out ++ [x])
    | none => (f, out)

/-- A flit at its destination die's router (R457): in sequence it is delivered with the early flits that follow on; early it
is held, at most 256 per flow; `none` when its flow has no room. One that was delivered before is dropped. -/
def DieState.receive (d : DieState) (x : Flit) : Option DieState :=
  let f := (d.flows.find? fun f => f.source = x.source && f.cls = x.cls).getD ⟨x.source, x.cls, 0, []⟩
  let put (f : Flow) : List Flow := f :: d.flows.filter fun g => !(g.source = x.source && g.cls = x.cls)
  if x.seq = f.next then
    let (f, more) := Flow.advance { f with next := f.next + 1 } (Config.earlyFlits + 1) []
    some { d with flows := put f, delivered := d.delivered ++ [x] ++ more }
  else if 32768 ≤ (x.seq - f.next).toNat || f.early.any fun y => y.seq = x.seq then some d
  else if f.early.length < Config.earlyFlits then some { d with flows := put { f with early := f.early ++ [x] } }
  else none

/-- One flit of a port's input buffer moved on, if it can be: delivered here, or sent by a port whose class is not halted.
`i` numbers the choice among ports. -/
def State.moveFlit (s : State) (n : BitVec 7) (i : Nat) (x : Flit) : State :=
  let out (s : State) : State := s.mapPort n fun p => { p with buffer := p.buffer.erase x }
  if x.package = s.pkg.address then
    match (s.die x.die.toNat).receive x with
    | some d => out (s.mapDie x.die.toNat fun _ => d)
    | none => s
  else
    let (ports, detour) := s.exits n x
    let open_ := ports.filter fun p => !p.stopped.getLsbD x.cls.toNat
    match open_[Config.portChoice s.tick i % max 1 open_.length]? with
    | some p => out (s.mapPort p.num fun p => { p with replay := p.replay ++ [{ x with detours := x.detours + detour.toNat }] })
    | none => s

/-- The flits of a class in a port's input buffer. -/
def Port.held (p : Port) (c : Nat) : Nat := (p.buffer.filter fun x => x.cls.toNat = c).length

/-- STOP is signalled at 48 flits of a class and GO at 16 (R458). -/
def Port.signal (p : Port) : Port :=
  let bit (c : Nat) : Bool := if 48 ≤ p.held c then true else if p.held c ≤ 16 then false else p.signalled.getLsbD c
  { p with signalled := BitVec.ofNat 4 (bitsOf ((List.range 4).map bit)) }

/-- Every flit that can move on does so, port by port, and the signals follow. -/
def State.moveFlits (s : State) : State :=
  let all := s.pkg.ports.flatMap fun p => p.buffer.map fun x => (p.num, x)
  let s := all.zipIdx.foldl (init := s) fun s e => s.moveFlit e.1.1 e.2 e.1.2
  { s with pkg := { s.pkg with ports := s.pkg.ports.map Port.signal } }

/-- FLIT_ARRIVAL (R457, R458): an input buffer holds 64 flits of a class. -/
def execFlitArrival (port : BitVec 7) (flit : Flit) (s : State) : Host.Outcome State Fault Refusal :=
  runEvent (do
    let s ← get
    let p ← Op.get! (s.port port)
    Op.need (p.up && p.held flit.cls.toNat < 64)
    set (s.mapPort port fun p => { p with buffer := p.buffer ++ [flit] }).moveFlits) s

/-- FLOW_STOP (R458): the port sends no flit of the class until GO. -/
def execFlowStop (port : BitVec 7) (cls : BitVec 2) (s : State) : Host.Outcome State Fault Refusal :=
  runEvent (modify fun s => s.mapPort port fun p => { p with stopped := p.stopped ||| (1#4 <<< cls.toNat) }) s

/-- FLOW_GO (R458). -/
def execFlowGo (port : BitVec 7) (cls : BitVec 2) (s : State) : Host.Outcome State Fault Refusal :=
  runEvent (modify fun s =>
    (s.mapPort port fun p => { p with stopped := p.stopped &&& ~~~(1#4 <<< cls.toNat) }).moveFlits) s

/-- LINK_REPLAY (R458): a lost or damaged flit goes again from the replay buffer; no flit is lost and no order changes. -/
def execLinkReplay (port : BitVec 7) (s : State) : Host.Outcome State Fault Refusal :=
  runEvent (do
    let s ← get
    let p ← Op.get! (s.port port)
    Op.need (p.up && p.replay ≠ [])) s

/-- LINK_RETRAIN_TIMEOUT (R458, R346): the link goes down and routes adapt; with no link left, every package that was UP, or UP after
a reset, is UNREACHABLE. -/
def execLinkRetrainTimeout (port : BitVec 7) (s : State) : Host.Outcome State Fault Refusal :=
  runEvent (do
    let s ← get
    let p ← Op.get! (s.port port)
    Op.need p.up
    let s := s.mapPort port fun p => { p with up := false }
    let cut (r : RemotePkg) : RemotePkg :=
      if r.state = .up || r.state = .reset then { r with state := .unreachable, expired := [] } else r
    let s := if s.pkg.ports.any fun p => p.up then s
      else { s with pkg := { s.pkg with remotes := s.pkg.remotes.map cut } }
    set s.moveFlits) s

/-! ### Power and ageing (R439, R462) -/

/-- POWER_ESTIMATE (R462): above the limit engine starts are delayed, until the estimate is below 98 % of it. -/
def execPowerEstimate (watts : Nat) (s : State) : Host.Outcome State Fault Refusal :=
  runEvent (modify fun s =>
    let limit := min 3600 (s.pkg.plim.bits 15 0)
    let delaying := if limit < watts then true else if watts * 100 < 98 * limit then false else s.pkg.delaying
    { s with pkg := { s.pkg with power := BitVec.ofNat 16 (min 65535 watts), delaying := delaying } }) s

/-- AGEING_SAMPLE (R425, R439): the ageing record of one reading. -/
def execAgeingSample (die : BitVec 3) (reading : AgeReading) (s : State) : Host.Outcome State Fault Refusal :=
  runEvent (modify fun s => s.ageing die.toNat reading) s

/-! ### Identity and attestation (R464 to R466) -/

/-- The chain of a certificate slot (R465). -/
def State.certificate (s : State) (slot : Nat) : Option (List Byte) :=
  if slot = 0 then some Config.identityChain else if slot = 1 then s.pkg.identity.ownerChain else none

/-- An SPDM answer, which a Conjunction die that is not lost gives (R464). -/
def answerSpdm (reply : State → SpdmReply) (s : State) : Host.Outcome State Fault Refusal :=
  runEvent (do
    let s ← get
    Op.need !s.headless
    set { s with pkg := { s.pkg with identity := { s.pkg.identity with
      replies := s.pkg.identity.replies ++ [reply s] } } }) s

/-- GET_VERSION (R464): SPDM 1.2. -/
def execGetVersion (s : State) : Host.Outcome State Fault Refusal := answerSpdm (fun _ => .version 1 2) s

/-- GET_CAPABILITIES (R464): certificates, challenge and measurements; no secure session. -/
def execGetCapabilities (s : State) : Host.Outcome State Fault Refusal :=
  answerSpdm (fun _ => .capabilities true true true false) s

/-- NEGOTIATE_ALGORITHMS (R464): of the algorithms offered, RSASSA with 3072-bit keys and SHA-256. -/
def execNegotiateAlgorithms (rsa3072 sha : Bool) (s : State) : Host.Outcome State Fault Refusal :=
  answerSpdm (fun _ => .algorithms rsa3072 sha) s

/-- GET_DIGESTS (R464, R465): the SHA-256 digests of the chains, by slot. -/
def execGetDigests (s : State) : Host.Outcome State Fault Refusal :=
  answerSpdm (fun s => .digests ((List.range 8).map fun n => (s.certificate n).map sha256)) s

/-- GET_CERTIFICATE (R465): the slot's chain; an empty slot has none. -/
def execGetCertificate (slot : BitVec 3) (s : State) : Host.Outcome State Fault Refusal :=
  answerSpdm (fun s => .certificate ((s.certificate slot.toNat).getD [])) s

/-- CHALLENGE (R464, R465): a signature by the package key over the SHA-256 digest of the slot's chain digest, the nonce and
the measurements. -/
def execChallenge (slot : BitVec 3) (nonce : List Byte) (s : State) : Host.Outcome State Fault Refusal :=
  answerSpdm (fun s => .challenge slot (Config.sign (sha256
    (sha256 ((s.certificate slot.toNat).getD []) ++ nonce ++ s.pkg.identity.measured.flatten)))) s

/-- GET_MEASUREMENTS (R466): the measurement of an index from 1 to 6. -/
def execGetMeasurements (index : BitVec 8) (s : State) : Host.Outcome State Fault Refusal :=
  answerSpdm (fun s => .measurements
    (if index = 0 then [] else (s.pkg.identity.measured[index.toNat - 1]?).toList)) s

/-- SPDM_UNSUPPORTED_REQUEST (R464). -/
def execSpdmUnsupportedRequest (code : Byte) (s : State) : Host.Outcome State Fault Refusal :=
  answerSpdm (fun _ => .unsupported code) s

/-- OWNER_CHAIN_PROVISIONING (R465): once. -/
def execOwnerChainProvisioning (chain : List Byte) (s : State) : Host.Outcome State Fault Refusal :=
  runEvent (do
    let s ← get
    Op.need !s.headless
    match s.pkg.identity.ownerChain with
    | some _ => pure ()
    | none => set { s with pkg := { s.pkg with identity := { s.pkg.identity with ownerChain := some chain } } }) s

end Sys2Proof.Machine
end

