-- ==== Sys2Proof/Machine/Frames.lean ====
section
/-! DEFINITION. Events at the memory ports: object cache fills and walks, residency service, shoot-downs, migration and
replication (R252 to R270). -/

namespace Sys2Proof.Machine

/-! ### Fills and walks (R253, R258) -/

/-- OBJECT_CACHE_FILL (R253): the valid descriptor of a handle fills an entry of the cache of the logical core's slot. -/
def execObjectCacheFill (core : CoreId) (handle : Nat) (s : State) : Host.Outcome State Fault Refusal :=
  runEvent (do
    let s ← get
    let c ← Op.get! (s.findCore core)
    let q := c.regs.queue.toNat
    Op.need (c.resident && 16 ≤ handle && handle < (s.queue q).entries.toNat && (s.ocFind c.slot q handle).isNone)
    let (w0, w1, w2, w3, d) := s.tableDesc q handle
    Op.need (d.rights ≠ 0 && s.descValid q w0 w3 d)
    set (s.ocFill ⟨c.slot, c.regs.queue, handle, d.addr, w0, w1, w2, w3, s.pkg.address, s.pkg.epoch⟩)) s

/-- The descriptor by which a core of a die reaches an extent list. -/
def State.descOfExtents (s : State) (die extents : Nat) : Option Desc :=
  (s.unc.objectCache.find? fun e => dieOf e.slot = die && e.w2.toNat = extents).map fun e =>
    descOf e.addr e.w0 e.w1 e.w2 e.w3

/-- TRANSLATION_WALK (R258): a request for frame `f` reaches the port; a resident frame fills the translation buffer where
it misses and the request is counted; MOVING holds it, and a frame that is not resident faults it. -/
def execTranslationWalk (die extents f : Nat) (s : State) : Host.Outcome State Fault Refusal :=
  runEvent (do
    let s ← get
    let d ← Op.get! (s.descOfExtents die extents)
    match (← Op.translate die d (65536 * f) false) with
    | .bank _ | .host _ => pure ()
    | _ => Op.stall) s

/-! ### Residency (R263, R264) -/

/-- What a queue's reference finds at its frame: whether it is not resident or uncovered, and the descriptor's address. -/
def State.notResident (s : State) (q : Nat) (ref : Word) : Option Nat :=
  let h := refHandle ref
  if h < 16 || (s.queue q).entries.toNat ≤ h then none
  else
    let (w0, _, _, w3, d) := s.tableDesc q h
    if d.rights = 0 || !s.descValid q w0 w3 d then none
    else match s.unc.priv.walk d.extents (refOffset ref / 65536) with
      | .uncovered => some d.addr
      | .entry fe => if (s.unc.priv.word fe).bits 63 62 = 0 then some d.addr else none
      | .invalid => none

/-- FRAME_NOT_RESIDENT_FAULT (R264 steps 4 and 5): the run-ahead of a context that met a not-resident frame has stopped with this
batch, at most 16 distinct frames, the first being the one it waits for; each other member is asked for, once. The step of the
faulting word has run the context ahead, and the batch is the one that it found. -/
def execFrameNotResidentFault (c : CtxId) (batch : List Word) (s : State) : Host.Outcome State Fault Refusal :=
  runEvent (do
    let s ← get
    let core ← Op.get! (s.findCore c.core)
    let x ← Op.get! (core.findCtx c.num)
    let q := core.regs.queue.toNat
    match x.wait, batch with
    | some (.residency ref ahead), first :: rest =>
      Op.need (ahead = .begun || ahead = .stopped batch)
      Op.need (first = ref && batch.length ≤ 16 && batch.dedup.length = batch.length && batch.all fun r => r.toNat % 65536 = 0)
      let ag : Agent := ⟨c.core, c.num, core.slot, q, x.supervisor, false, 0, false, false, [], false, false, 0⟩
      Op.forEach (fun r => do
        let s ← get
        match s.notResident q r with
        | some d => set (s.requestResidency ag r d 1 (dieOf core.slot))
        | none => Op.need (ahead ≠ .begun)) rest
      modify fun s => s.mapCtx c.core c.num fun x => { x with wait := some (.residency ref .asked) }
    | _, _ => Op.stall) s

/-- The requests that one answer of the service ends: the one sent and those for the same frame that wait on it. -/
def State.answered (s : State) (die : Nat) (r : ResReq) : List ResReq :=
  (s.die die).residency.filter fun x => s.frameOf x = s.frameOf r

/-- The contexts and copies of a die that wait for a frame of a queue go on; where it is refused they will find so. -/
def State.endResidency (s : State) (die : Nat) (r : ResReq) (refused : Bool) : State :=
  let ended := s.answered die r
  let mine (c : LCore) (ref : Word) : Bool := ended.any fun x => x.ref = ref && x.queue = c.regs.queue
  let free (c : LCore) (x : Ctx) : Ctx := match x.wait with
    | some (.residency ref _) =>
      if mine c ref then { x with wait := none, refused := if refused then some ref else x.refused } else x
    | _ => x
  let move (c : LCore) (f : CopyRun) : CopyRun :=
    if f.frame.any (mine c) then (if refused then { f with refused := true } else { f with frame := none, refused := false })
    else f
  let takes := ended.filter fun x => x.kind = 3 && (match s.findCore x.core with
    | some c => !(c.copies.flight.any fun f => f.frame = some x.ref)
    | none => false)
  let s := s.mapCores fun c =>
    if dieOf c.slot = die then
      { c.mapCtxs (free c) with copies := { c.copies with flight := c.copies.flight.map (move c) } }
    else c
  s.mapDie die fun x => { x with
    residency := x.residency.filter fun y => !ended.contains y
    refused := if refused then x.refused ++ takes else x.refused }

/-- RESIDENCY_SERVICE_END (R263): the service answers the oldest request of a die: it writes the frame entry RES, or it
refuses and sets REF in the entry where one exists. Where the frame was uncovered the firmware has added its extent before
it answers (R255, REGISTER_WRITE). -/
def execResidencyServiceEnd (die : Nat) (entry : Option Word) (s : State) : Host.Outcome State Fault Refusal :=
  runEvent (do
    let s ← get
    let r ← Op.get! (s.die die).residency.head?
    let p := s.unc.priv
    let d := descOf r.desc (p.word r.desc) (p.word (r.desc + 8)) (p.word (r.desc + 16)) (p.word (r.desc + 24))
    let walk := p.walk d.extents (refOffset r.ref / 65536)
    match entry, walk with
    | some w, .entry fe =>
      if (p.word fe).bits 63 62 = 0 then
        Op.need (entryValid d w (p.word (fe + 8)) && w.bits 63 62 = 1 && !w.getLsbD 60)
        set (s.writeEntry fe w)
      else Op.need ((p.word fe).bits 63 62 = 1)
      modify fun s => s.endResidency die r false
    | some _, _ => Op.stall
    | none, .entry fe =>
      Op.need ((p.word fe).bits 63 62 = 0)
      set { s with unc := { s.unc with priv := p.setWord fe (p.word fe ||| Word.ofN (2 ^ 60)) } }
      modify fun s => s.endResidency die r true
    | none, _ => modify fun s => s.endResidency die r true) s

/-! ### Shoot-down (R261, R262) -/

/-- Word 0x00 of a frame entry with another state. -/
def entryState (w : Word) (st : Nat) : Word := (w &&& 0x3FFFFFFFFFFFFFFF) ||| Word.ofN (st * 2 ^ 62)

def State.findShoot (s : State) (entry : Nat) : Option Shoot := s.unc.shoots.find? fun x => x.entry = entry

/-- MOVING is written to a RES entry and a shoot-down begins; an agent that finds MOVING abandons its change (R262). -/
def Op.startShoot (entry : Nat) (copyTo : Option FrameCopy) : Op Unit := do
  let s ← get
  let w := s.unc.priv.word entry
  if w.bits 63 62 = 2 then pure ()
  else
    Op.need (entry % 16 = 0 && w.bits 63 62 = 1 && (s.findShoot entry).isNone)
    set { s with unc := { s.unc with
      priv := s.unc.priv.setWord entry (entryState w 2)
      shoots := s.unc.shoots ++ [(⟨entry, w, [], copyTo⟩ : Shoot)] } }

/-- FRAME_MOVING_WRITE (R261 step 1). -/
def execFrameMovingWrite (entry : Nat) (s : State) : Host.Outcome State Fault Refusal :=
  runEvent (Op.startShoot entry none) s

/-- PORT_SHOOTDOWN (R261 steps 2 to 4): the port removes the entry; what left it under the old entry has completed; it
acknowledges. -/
def execPortShootdown (die entry : Nat) (s : State) : Host.Outcome State Fault Refusal :=
  runEvent (do
    let s ← get
    let x ← Op.get! (s.findShoot entry)
    let old := entryPlace x.before 0
    let under (o : BankOp) : Bool := match s.findCore o.core, o.site with
      | some c, .bank a => dieOf c.slot = die && old = .bank (a / 65536 * 65536)
      | _, _ => false
    -- a class 3 read that was sent to the old location drains too
    let reads (c : Ctx) : Bool := match c.wait with
      | some (.host _ _ a) => old = .host (a / 65536 * 65536)
      | _ => false
    let asks : Bool := s.cores.any fun c => dieOf c.slot = die && c.ctxs.any reads
    Op.need (die < 8 && !x.acked.contains die && !s.unc.bankOps.any under && !asks)
    let gone := (s.die die).tb.filter fun e => e.entry = entry
    let s := gone.foldl State.tbLeave s
    let s := s.mapDie die fun d => { d with tb := d.tb.filter fun e => e.entry ≠ entry }
    let ack (y : Shoot) : Shoot := if y.entry = entry then { y with acked := die :: y.acked } else y
    set { s with unc := { s.unc with shoots := s.unc.shoots.map ack } }) s

/-- Every dirty copy of a frame's lines written back and every copy dropped (R269). -/
def Op.flushFrame (addr : Nat) : Op Unit := do
  let s ← get
  let mine := s.unc.lines.filter fun l => l.tag / 512 = addr / 65536 && l.state = .scoped
  set (mine.foldl (init := s) fun s l => (s.writeBack l).dropLine l.cluster l.tag)
  Op.gather addr 65536

/-- A sparse table's entries of [a, a + n) set at `b` in place of what stood there; those of the old place stay if `keep`. -/
def NatMap.moved {α : Type} (m : NatMap α) (a b n : Nat) (keep : Bool) : NatMap α :=
  let mine := m.filter fun e => a ≤ e.1 && e.1 < a + n
  let rest := m.filter fun e => !(b ≤ e.1 && e.1 < b + n) && (keep || !(a ≤ e.1 && e.1 < a + n))
  mine.foldl (init := rest) fun (t : NatMap α) e => t.set (e.1 - a + b) e.2

/-- The 64 KiB of a frame copied with their check bits and tags to another (R269, R284); `keep` leaves the old frame as
it is. -/
def State.copyFrame (s : State) (a b : Nat) (keep : Bool) : State :=
  let out := s.unc.mscHeld.filter fun t => t / 512 = a / 65536 || t / 512 = b / 65536
  let s := out.foldl State.mscEvict s
  let flip (f : Flip) : List Flip :=
    let there : Flip := ⟨.hbm, 0, f.unit - a / 8 + b / 8, f.mask⟩
    if f.unit / 8192 = a / 65536 then (if keep then [f, there] else [there])
    else if f.unit / 8192 = b / 65536 then [] else [f]
  let entry (e : DirEntry) : DirEntry :=
    if !keep && e.state = .lost && e.tag / 512 = a / 65536 then { e with tag := e.tag - a / 128 + b / 128 } else e
  let tcb (r : TcbState) : TcbState := if !keep && r.place / 65536 = a / 65536 then { r with place := r.place - a + b } else r
  { s with disp := { s.disp with tcbs := s.disp.tcbs.map tcb }, unc := { s.unc with
      hbm := s.unc.hbm.blit b s.unc.hbm a 65536
      bankFlips := s.unc.bankFlips.flatMap flip
      directory := s.unc.directory.map entry
      anchors := s.unc.anchors.moved (a / 128) (b / 128) 512 keep
      mixed := s.unc.mixed.moved (a / 8) (b / 8) 8192 keep } }

/-- The word of a RES entry for a frame of the package at a bank address. -/
def entryAt (addr : Nat) : Word :=
  Word.ofN (2 ^ 62 + addr / 2 ^ 40 * 2 ^ 24 + addr / 2 ^ 36 % 16 * 2 ^ 20 + addr / 2 ^ 16 % 2 ^ 20)

/-- The severity of what the codes find in a sector of an object (R419). -/
def Desc.severity (d : Desc) (c : Checked) : Nat :=
  c.severity (sectorStructural d.layout d.profile || d.cls = 1 || d.cls = 2)

/-- The sectors of object frame `f`, at bank address `addr`, in which the codes find an uncorrectable error (R415, R419). -/
def State.frameErrors (s : State) (d : Desc) (f addr : Nat) : List (Nat × Checked) :=
  (s.flippedSectors d.layout d.profile (65536 * f) addr 65536).filter fun x => d.severity x.2 ≠ 0

/-- The queue and handle in whose object table a descriptor lies, if one does (R28). -/
def State.tableSlot (s : State) (desc : Nat) : Option (Nat × Nat) :=
  ((List.range 64).find? fun q => (s.queue q).table.toNat + 32 * 16 ≤ desc && desc < (s.queue q).table.toNat + 32 * (s.queue q).entries.toNat).map
    fun q => (q, (desc - (s.queue q).table.toNat) / 32)

/-- Those errors recorded with no receiving agent and action 0, at the die that owns the frame's tier (R424, R426). -/
def State.logFrame (s : State) (d : Desc) (desc f addr : Nat) : State :=
  let place := (s.tableSlot desc).getD (0, 0)
  let r : BankReader := ⟨bankOwner addr, 0, place.1, place.2, d⟩
  (s.frameErrors d f addr).foldl (init := s) fun (s : State) x =>
    s.logSector r (65536 * f + 32 * x.1 - addr) x (d.severity x.2) 0

/-- A die's own free frame that a migration did not use is free again; the frame it left is free too (R269). -/
def State.freeAfter (s : State) (f : FrameCopy) (bank : Nat) : State :=
  if f.replica then s else s.setFree (bank / 65536 % 2 ^ 24) true

/-- Step 5 of a port's own change (R269): the frame moves, or is replicated; with an uncorrectable error, or a LOST line, it
stays. The two words of the entry that result. -/
def Op.finishPort (x : Shoot) (f : FrameCopy) (old : Nat) : Op (Word × Word) := do
  Op.flushFrame old
  let s ← get
  let p := s.unc.priv
  let d := descOf f.desc (p.word f.desc) (p.word (f.desc + 8)) (p.word (f.desc + 16)) (p.word (f.desc + 24))
  let counts := p.word (x.entry + 8)
  let cut (addr : Nat) : Bool := s.fenceLevel (bankOwner addr) = 2
  if s.frameErrors d f.frame old ≠ [] || (s.lostIn old 65536).isSome || cut old || cut f.target then
    set ((if cut old then s else s.logFrame d f.desc f.frame old).freeAfter f f.target)
    pure (x.before, counts)
  else
    let s := (s.copyFrame old f.target f.replica).freeAfter f old
    set { s with unc := { s.unc with movedAt := s.unc.movedAt.set x.entry s.timeUs } }
    if f.replica then pure (x.before, counts ||| Word.ofN (2 ^ (56 + f.die)))
    else pure (entryAt f.target, counts &&& Word.ofN (0xFF * 2 ^ 56))

/-- Step 5 of firmware's change: to NOTRES, or RES where `word` places the frame. -/
def Op.finishFirmware (x : Shoot) (word : Word) : Op (Word × Word) := do
  Op.need (word.bits 63 62 ≤ 1 && word.bits 59 37 = 0)
  let s ← get
  let counts := s.unc.priv.word (x.entry + 8)
  match entryPlace x.before 0 with
  | .bank old =>
    Op.flushFrame old
    -- a stack whose path is lost gives no bytes (R342)
    if s.fenceLevel (bankOwner old) ≠ 2 then match (if word.bits 63 62 = 1 then entryPlace word 0 else .moving) with
      | .bank new => if new ≠ old && s.fenceLevel (bankOwner new) ≠ 2 then modify fun s => s.copyFrame old new false
      | _ => pure ()
  | _ => pure ()
  modify fun s => s.rebind x.entry
  -- the change leaves the frame without replicas (R270, log entry 85)
  pure (word, counts &&& Word.ofN (2 ^ 56 - 1))

/-- SHOOTDOWN_FINISH (R261 steps 5 and 6): every port that is in service has acknowledged. -/
def execShootdownFinish (entry : Nat) (word : Word) (s : State) : Host.Outcome State Fault Refusal :=
  runEvent (do
    let s ← get
    let x ← Op.get! (s.findShoot entry)
    Op.need ((List.range 8).all fun d => x.acked.contains d || s.fenceLevel d = 2)
    let (w0, w1) ← (match x.copyTo, entryPlace x.before 0 with
      | some f, .bank old => Op.finishPort x f old
      | _, _ => Op.finishFirmware x word)
    modify fun s => { s with unc := { s.unc with
      priv := (s.unc.priv.setWord entry w0).setWord (entry + 8) w1
      shoots := s.unc.shoots.filter fun y => y.entry ≠ entry } }) s

/-! ### Migration and replication (R267 to R270) -/

/-- The fields of MIGC0 and MIGC1 (R268). -/
structure MigCoeffs where
  cq : Int
  cr : Int
  ch : Int
  cm : Int
  threshold : Int
  reserve : Nat
  off : Bool
  deriving DecidableEq, Repr

def DieState.coeffs (d : DieState) : MigCoeffs :=
  ⟨d.migc0.bits 63 48, d.migc0.bits 47 32, d.migc0.bits 31 16, d.migc0.bits 15 0, d.migc1.bits 63 32,
    d.migc1.bits 31 16, d.migc1.getLsbD 0⟩

/-- What a port decides for a frame (R267). -/
inductive MigChoice | remoteMap | replicate | migrate
  deriving DecidableEq, Repr

/-- The decision of R269 from the counts, the link queue's depth and the free frames. -/
def MigCoeffs.decide (k : MigCoeffs) (nd nh q free : Nat) (canrep canmig : Bool) : MigChoice :=
  let short : Int := ((k.reserve - free : Nat) : Int)
  let smig := k.cm * nd - k.ch * nh - k.cq * q - short
  let srep := k.cr * nd - k.cq * q - short
  if k.off then .remoteMap
  else if canrep && k.threshold < srep && smig ≤ srep then .replicate
  else if canmig && k.threshold < smig then .migrate
  else .remoteMap

/-- The place of a replica set's region for frame `f` on a die (R270): `none` where the die takes no replicas. -/
def State.replicaTarget (s : State) (set die f : Nat) : Option Nat :=
  let w := s.unc.priv.word (s.pkg.replicaTable.toNat + 64 * set + 8 * die)
  if w = 0 then none
  else some (s.pkg.address.toNat * 2 ^ 40 + w.bits 23 20 * 2 ^ 36 + (w.bits 19 0 + f) * 2 ^ 16)

/-- MIGRATION_EVALUATE (R269): a port's own count of a frame on another die of the package has reached a multiple of 256.
`q` is the depth of the link queue, `free` the number of the port's free frames, and `stack`, `frame` the one that a migration
takes. An object
without right M is not replicated either, as R30 has it (log entry 66). -/
def execMigrationEvaluate (die : Nat) (core : CoreId) (ref : Word) (q free stack frame : Nat) (s : State) :
    Host.Outcome State Fault Refusal :=
  runEvent (do
    let s ← get
    let c ← Op.get! (s.findCore core)
    let h := refHandle ref
    let e ← Op.get! (s.ocFind c.slot c.regs.queue.toNat h)
    let d := descOf e.addr e.w0 e.w1 e.w2 e.w3
    let f := refOffset ref / 65536
    let t ← Op.get! (s.tbFind die d.extents f)
    Op.need (dieOf c.slot = die && die < 8 && 16 ≤ h && q ≤ 255 && free = (s.die die).freeFrames.length)
    Op.need (t.word.bits 63 62 = 1 && t.nd ≠ 0 && t.nd % 256 = 0)
    match entryPlace t.word 0 with
    | .bank old =>
      let loc := old / 2 ^ 36 % 16 / 2
      Op.need (old / 2 ^ 40 = s.pkg.address.toNat && loc ≠ die)
      match NatMap.get s.unc.movedAt t.entry with
      | some at_ => Op.need (1000 ≤ (s.timeUs - at_).toNat)
      | none => pure ()
      let nh := match s.tbFind loc d.extents f with
        | some x => x.nh
        | none => t.nh
      let target := s.replicaTarget d.replicas die f
      let canrep : Bool := d.has rightM && d.replicas ≠ 0 && target.isSome && !d.has rightW && !d.has rightA && !t.replicas.getLsbD die
      let canmig : Bool := d.has rightM && !d.has rightP
      match (s.die die).coeffs.decide t.nd nh q free canrep canmig, target with
      | .remoteMap, _ => pure ()
      | .replicate, some r => Op.startShoot t.entry (some ⟨die, f, r, true, d.addr⟩)
      | .replicate, none => pure ()
      | .migrate, _ =>
        let place := 2 ^ 20 * stack + frame
        Op.need (frame < 2 ^ 20 && (s.die die).freeFrames.contains place && (s.findShoot t.entry).isNone)
        set (s.setFree place false)
        Op.startShoot t.entry (some ⟨die, f, s.pkg.address.toNat * 2 ^ 40 + place * 2 ^ 16, false, d.addr⟩)
    | _ => Op.stall) s

/-- ACCESS_COUNT_HALVING (R269): every 1 ms. -/
def execAccessCountHalving (s : State) : Host.Outcome State Fault Refusal :=
  runEvent (modify fun s =>
    let half (e : TbEntry) : TbEntry := { e with nd := e.nd / 2, nh := e.nh / 2 }
    (List.range 8).foldl (init := s) fun (s : State) d => s.mapDie d fun x => { x with tb := x.tb.map half }) s

end Sys2Proof.Machine
end

