-- ==== Sys2Proof/Machine/Dispatch.lean ====
section
/-! DEFINITION. One arm per instruction or event: its meaning, in the file of its family. -/

namespace Sys2Proof.Machine

def exec (i : Instr) (s : State) : Host.Outcome State Fault Refusal :=
  match i with
  | .add d a b => Sys2Proof.Machine.execAdd d a b s
  | .sub d a b => Sys2Proof.Machine.execSub d a b s
  | .and d a b => Sys2Proof.Machine.execAnd d a b s
  | .or d a b => Sys2Proof.Machine.execOr d a b s
  | .xor d a b => Sys2Proof.Machine.execXor d a b s
  | .andn d a b => Sys2Proof.Machine.execAndn d a b s
  | .orn d a b => Sys2Proof.Machine.execOrn d a b s
  | .xnor d a b => Sys2Proof.Machine.execXnor d a b s
  | .shl d a b => Sys2Proof.Machine.execShl d a b s
  | .shr d a b => Sys2Proof.Machine.execShr d a b s
  | .sar d a b => Sys2Proof.Machine.execSar d a b s
  | .rol d a b => Sys2Proof.Machine.execRol d a b s
  | .ror d a b => Sys2Proof.Machine.execRor d a b s
  | .slt d a b => Sys2Proof.Machine.execSlt d a b s
  | .sltu d a b => Sys2Proof.Machine.execSltu d a b s
  | .seq d a b => Sys2Proof.Machine.execSeq d a b s
  | .sne d a b => Sys2Proof.Machine.execSne d a b s
  | .minS d a b => Sys2Proof.Machine.execMinS d a b s
  | .maxS d a b => Sys2Proof.Machine.execMaxS d a b s
  | .minU d a b => Sys2Proof.Machine.execMinU d a b s
  | .maxU d a b => Sys2Proof.Machine.execMaxU d a b s
  | .mul d a b => Sys2Proof.Machine.execMul d a b s
  | .mulh d a b => Sys2Proof.Machine.execMulh d a b s
  | .mulhu d a b => Sys2Proof.Machine.execMulhu d a b s
  | .div d a b => Sys2Proof.Machine.execDiv d a b s
  | .divu d a b => Sys2Proof.Machine.execDivu d a b s
  | .rem d a b => Sys2Proof.Machine.execRem d a b s
  | .remu d a b => Sys2Proof.Machine.execRemu d a b s
  | .addw d a b => Sys2Proof.Machine.execAddw d a b s
  | .subw d a b => Sys2Proof.Machine.execSubw d a b s
  | .shlw d a b => Sys2Proof.Machine.execShlw d a b s
  | .shrw d a b => Sys2Proof.Machine.execShrw d a b s
  | .sarw d a b => Sys2Proof.Machine.execSarw d a b s
  | .mulw d a b => Sys2Proof.Machine.execMulw d a b s
  | .lop3 d a b t => Sys2Proof.Machine.execLop3 d a b t s
  | .fshl d a b w sh => Sys2Proof.Machine.execFshl d a b w sh s
  | .clz d a w => Sys2Proof.Machine.execClz d a w s
  | .ctz d a w => Sys2Proof.Machine.execCtz d a w s
  | .popc d a w => Sys2Proof.Machine.execPopc d a w s
  | .ffs d a w => Sys2Proof.Machine.execFfs d a w s
  | .brev d a w => Sys2Proof.Machine.execBrev d a w s
  | .bswap d a w => Sys2Proof.Machine.execBswap d a w s
  | .addi d a imm => Sys2Proof.Machine.execAddi d a imm s
  | .andi d a imm => Sys2Proof.Machine.execAndi d a imm s
  | .ori d a imm => Sys2Proof.Machine.execOri d a imm s
  | .xori d a imm => Sys2Proof.Machine.execXori d a imm s
  | .slti d a imm => Sys2Proof.Machine.execSlti d a imm s
  | .sltiu d a imm => Sys2Proof.Machine.execSltiu d a imm s
  | .shli d a n => Sys2Proof.Machine.execShli d a n s
  | .shri d a n => Sys2Proof.Machine.execShri d a n s
  | .sari d a n => Sys2Proof.Machine.execSari d a n s
  | .rori d a n => Sys2Proof.Machine.execRori d a n s
  | .extz d a p l => Sys2Proof.Machine.execExtz d a p l s
  | .exts d a p l => Sys2Proof.Machine.execExts d a p l s
  | .dep d a p l => Sys2Proof.Machine.execDep d a p l s
  | .lds d a imm w => Sys2Proof.Machine.execLds d a imm w s
  | .ldz d a imm w => Sys2Proof.Machine.execLdz d a imm w s
  | .st c a imm w => Sys2Proof.Machine.execSt c a imm w s
  | .amoaddW d a b ord sc => Sys2Proof.Machine.execAmoaddW d a b ord sc s
  | .amoandW d a b ord sc => Sys2Proof.Machine.execAmoandW d a b ord sc s
  | .amoorW d a b ord sc => Sys2Proof.Machine.execAmoorW d a b ord sc s
  | .amoxorW d a b ord sc => Sys2Proof.Machine.execAmoxorW d a b ord sc s
  | .amominW d a b ord sc => Sys2Proof.Machine.execAmominW d a b ord sc s
  | .amomaxW d a b ord sc => Sys2Proof.Machine.execAmomaxW d a b ord sc s
  | .amominuW d a b ord sc => Sys2Proof.Machine.execAmominuW d a b ord sc s
  | .amomaxuW d a b ord sc => Sys2Proof.Machine.execAmomaxuW d a b ord sc s
  | .amoaddD d a b ord sc => Sys2Proof.Machine.execAmoaddD d a b ord sc s
  | .amoandD d a b ord sc => Sys2Proof.Machine.execAmoandD d a b ord sc s
  | .amoorD d a b ord sc => Sys2Proof.Machine.execAmoorD d a b ord sc s
  | .amoxorD d a b ord sc => Sys2Proof.Machine.execAmoxorD d a b ord sc s
  | .amominD d a b ord sc => Sys2Proof.Machine.execAmominD d a b ord sc s
  | .amomaxD d a b ord sc => Sys2Proof.Machine.execAmomaxD d a b ord sc s
  | .amominuD d a b ord sc => Sys2Proof.Machine.execAmominuD d a b ord sc s
  | .amomaxuD d a b ord sc => Sys2Proof.Machine.execAmomaxuD d a b ord sc s
  | .swp d a b ord sc dw => Sys2Proof.Machine.execSwp d a b ord sc dw s
  | .cas d a b ord sc dw => Sys2Proof.Machine.execCas d a b ord sc dw s
  | .ldo d a ord sc dw => Sys2Proof.Machine.execLdo d a ord sc dw s
  | .sto a b ord sc dw => Sys2Proof.Machine.execSto a b ord sc dw s
  | .redadd dw a b rel sc => Sys2Proof.Machine.execRedadd dw a b rel sc s
  | .redand dw a b rel sc => Sys2Proof.Machine.execRedand dw a b rel sc s
  | .redor dw a b rel sc => Sys2Proof.Machine.execRedor dw a b rel sc s
  | .redxor dw a b rel sc => Sys2Proof.Machine.execRedxor dw a b rel sc s
  | .redmin dw a b rel sc => Sys2Proof.Machine.execRedmin dw a b rel sc s
  | .redmax dw a b rel sc => Sys2Proof.Machine.execRedmax dw a b rel sc s
  | .redminu dw a b rel sc => Sys2Proof.Machine.execRedminu dw a b rel sc s
  | .redmaxu dw a b rel sc => Sys2Proof.Machine.execRedmaxu dw a b rel sc s
  | .redacc d a b rel sc => Sys2Proof.Machine.execRedacc d a b rel sc s
  | .fence e sc => Sys2Proof.Machine.execFence e sc s
  | .fenceE sc => Sys2Proof.Machine.execFenceE sc s
  | .wbr a b sc => Sys2Proof.Machine.execWbr a b sc s
  | .invr a b sc => Sys2Proof.Machine.execInvr a b sc s
  | .arrive n => Sys2Proof.Machine.execArrive n s
  | .arriveSnap n => Sys2Proof.Machine.execArriveSnap n s
  | .wait d n => Sys2Proof.Machine.execWait d n s
  | .bstat d n => Sys2Proof.Machine.execBstat d n s
  | .bset a n => Sys2Proof.Machine.execBset a n s
  | .brst n => Sys2Proof.Machine.execBrst n s
  | .start n a b => Sys2Proof.Machine.execStart n a b s
  | .stop n => Sys2Proof.Machine.execStop n s
  | .join d n => Sys2Proof.Machine.execJoin d n s
  | .gets d r => Sys2Proof.Machine.execGets d r s
  | .sets a r => Sys2Proof.Machine.execSets a r s
  | .trap c => Sys2Proof.Machine.execTrap c s
  | .touch d a => Sys2Proof.Machine.execTouch d a s
  | .objinv a sc => Sys2Proof.Machine.execObjinv a sc s
  | .einj c a tier => Sys2Proof.Machine.execEinj c a tier s
  | .digest d a => Sys2Proof.Machine.execDigest d a s
  | .digestN d a => Sys2Proof.Machine.execDigestN d a s
  | .beq c a imm => Sys2Proof.Machine.execBeq c a imm s
  | .bne c a imm => Sys2Proof.Machine.execBne c a imm s
  | .blt c a imm => Sys2Proof.Machine.execBlt c a imm s
  | .bge c a imm => Sys2Proof.Machine.execBge c a imm s
  | .bltu c a imm => Sys2Proof.Machine.execBltu c a imm s
  | .bgeu c a imm => Sys2Proof.Machine.execBgeu c a imm s
  | .jal imm => Sys2Proof.Machine.execJal imm s
  | .jalr d a imm => Sys2Proof.Machine.execJalr d a imm s
  | .rset h a => Sys2Proof.Machine.execRset h a s
  | .waitf h m => Sys2Proof.Machine.execWaitf h m s
  | .waite h m => Sys2Proof.Machine.execWaite h m s
  | .advp h m => Sys2Proof.Machine.execAdvp h m s
  | .advc h m => Sys2Proof.Machine.execAdvc h m s
  | .rstat d h w => Sys2Proof.Machine.execRstat d h w s
  | .cpy a b t => Sys2Proof.Machine.execCpy a b t s
  | .cpyr a b t sc z => Sys2Proof.Machine.execCpyr a b t sc z s
  | .cpyc r => Sys2Proof.Machine.execCpyc r s
  | .cpyq a t => Sys2Proof.Machine.execCpyq a t s
  | .mma a b t tile => Sys2Proof.Machine.execMma a b t tile s
  | .mmar a b t tile => Sys2Proof.Machine.execMmar a b t tile s
  | .mmaz a b t tile => Sys2Proof.Machine.execMmaz a b t tile s
  | .mcfg a b t => Sys2Proof.Machine.execMcfg a b t s
  | .mcfgRd a b t => Sys2Proof.Machine.execMcfgRd a b t s
  | .minit a t tile => Sys2Proof.Machine.execMinit a t tile s
  | .mrd a b t tile => Sys2Proof.Machine.execMrd a b t tile s
  | .mrdv a v t tile => Sys2Proof.Machine.execMrdv a v t tile s
  | .mlda a b t tile => Sys2Proof.Machine.execMlda a b t tile s
  | .mldaAdd a b t tile => Sys2Proof.Machine.execMldaAdd a b t tile s
  | .msta a t tile => Sys2Proof.Machine.execMsta a t tile s
  | .mstat a t tile => Sys2Proof.Machine.execMstat a t tile s
  | .mshad a t tile => Sys2Proof.Machine.execMshad a t tile s
  | .cgrp a t n => Sys2Proof.Machine.execCgrp a t n s
  | .ctab a t n => Sys2Proof.Machine.execCtab a t n s
  | .cstart a t n => Sys2Proof.Machine.execCstart a t n s
  | .tready a n => Sys2Proof.Machine.execTready a n s
  | .cwait a t n => Sys2Proof.Machine.execCwait a t n s
  | .rdraw d b => Sys2Proof.Machine.execRdraw d b s
  | .rvec d b k => Sys2Proof.Machine.execRvec d b k s
  | .rmask k b => Sys2Proof.Machine.execRmask k b s
  | .rkey d b => Sys2Proof.Machine.execRkey d b s
  | .launch d a => Sys2Proof.Machine.execLaunch d a s
  | .depdec d a => Sys2Proof.Machine.execDepdec d a s
  | .tcbq d a => Sys2Proof.Machine.execTcbq d a s
  | .sendm a b t nb => Sys2Proof.Machine.execSendm a b t nb s
  | .recvm a b t nb => Sys2Proof.Machine.execRecvm a b t nb s
  | .recvmCfg a => Sys2Proof.Machine.execRecvmCfg a s
  | .vld v a k imm => Sys2Proof.Machine.execVld v a k imm s
  | .vst v a k imm => Sys2Proof.Machine.execVst v a k imm s
  | .vadd d a b k ty => Sys2Proof.Machine.execVadd d a b k ty s
  | .vsub d a b k ty => Sys2Proof.Machine.execVsub d a b k ty s
  | .vmul d a b k ty => Sys2Proof.Machine.execVmul d a b k ty s
  | .vmin d a b k ty => Sys2Proof.Machine.execVmin d a b k ty s
  | .vmax d a b k ty => Sys2Proof.Machine.execVmax d a b k ty s
  | .vand d a b k ty => Sys2Proof.Machine.execVand d a b k ty s
  | .vor d a b k ty => Sys2Proof.Machine.execVor d a b k ty s
  | .vxor d a b k ty => Sys2Proof.Machine.execVxor d a b k ty s
  | .vandn d a b k ty => Sys2Proof.Machine.execVandn d a b k ty s
  | .vshl d a b k ty => Sys2Proof.Machine.execVshl d a b k ty s
  | .vshr d a b k ty => Sys2Proof.Machine.execVshr d a b k ty s
  | .vsar d a b k ty => Sys2Proof.Machine.execVsar d a b k ty s
  | .vadds d a b k ty => Sys2Proof.Machine.execVadds d a b k ty s
  | .vsubs d a b k ty => Sys2Proof.Machine.execVsubs d a b k ty s
  | .vavg d a b k ty => Sys2Proof.Machine.execVavg d a b k ty s
  | .vabs d a k ty => Sys2Proof.Machine.execVabs d a k ty s
  | .vfadd d a b k ty => Sys2Proof.Machine.execVfadd d a b k ty s
  | .vfsub d a b k ty => Sys2Proof.Machine.execVfsub d a b k ty s
  | .vfmul d a b k ty => Sys2Proof.Machine.execVfmul d a b k ty s
  | .vfmin d a b k ty => Sys2Proof.Machine.execVfmin d a b k ty s
  | .vfmax d a b k ty => Sys2Proof.Machine.execVfmax d a b k ty s
  | .vfabs d a k ty => Sys2Proof.Machine.execVfabs d a k ty s
  | .vfneg d a k ty => Sys2Proof.Machine.execVfneg d a k ty s
  | .vfmaF32 d a b c k => Sys2Proof.Machine.execVfmaF32 d a b c k s
  | .vfmsF32 d a b c k => Sys2Proof.Machine.execVfmsF32 d a b c k s
  | .vfnmaF32 d a b c k => Sys2Proof.Machine.execVfnmaF32 d a b c k s
  | .vfnmsF32 d a b c k => Sys2Proof.Machine.execVfnmsF32 d a b c k s
  | .vfmaBf16 d a b c k => Sys2Proof.Machine.execVfmaBf16 d a b c k s
  | .vfmsBf16 d a b c k => Sys2Proof.Machine.execVfmsBf16 d a b c k s
  | .vfmaF16 d a b c k => Sys2Proof.Machine.execVfmaF16 d a b c k s
  | .vfmsF16 d a b c k => Sys2Proof.Machine.execVfmsF16 d a b c k s
  | .vcvt d a b k rm c => Sys2Proof.Machine.execVcvt d a b k rm c s
  | .vcvti d a b k rm c => Sys2Proof.Machine.execVcvti d a b k rm c s
  | .vcvtf d a b k rm c => Sys2Proof.Machine.execVcvtf d a b k rm c s
  | .vpack d a b k rm fmt => Sys2Proof.Machine.execVpack d a b k rm fmt s
  | .vunpk d a b k rm fmt => Sys2Proof.Machine.execVunpk d a b k rm fmt s
  | .vscale d a b k rm ty => Sys2Proof.Machine.execVscale d a b k rm ty s
  | .vshuf d a b k w => Sys2Proof.Machine.execVshuf d a b k w s
  | .vbcst d b k w => Sys2Proof.Machine.execVbcst d b k w s
  | .vins d imm b k w => Sys2Proof.Machine.execVins d imm b k w s
  | .vext d a imm w => Sys2Proof.Machine.execVext d a imm w s
  | .vrot d a b k w => Sys2Proof.Machine.execVrot d a b k w s
  | .vzip d a b k hi w => Sys2Proof.Machine.execVzip d a b k hi w s
  | .vuzp d a b k hi w => Sys2Proof.Machine.execVuzp d a b k hi w s
  | .vredadd d a k ty => Sys2Proof.Machine.execVredadd d a k ty s
  | .vredmax d a k ty => Sys2Proof.Machine.execVredmax d a k ty s
  | .vredmin d a k ty => Sys2Proof.Machine.execVredmin d a k ty s
  | .vredand d a k ty => Sys2Proof.Machine.execVredand d a k ty s
  | .vredor d a k ty => Sys2Proof.Machine.execVredor d a k ty s
  | .vredxor d a k ty => Sys2Proof.Machine.execVredxor d a k ty s
  | .vcmpInt d a b k cond ty => Sys2Proof.Machine.execVcmpInt d a b k cond ty s
  | .vcmpFlt d a b k cond ty => Sys2Proof.Machine.execVcmpFlt d a b k cond ty s
  | .vsel d a b k w => Sys2Proof.Machine.execVsel d a b k w s
  | .kand d a b => Sys2Proof.Machine.execKand d a b s
  | .kor d a b => Sys2Proof.Machine.execKor d a b s
  | .kxor d a b => Sys2Proof.Machine.execKxor d a b s
  | .knot d a => Sys2Proof.Machine.execKnot d a s
  | .kpop d a => Sys2Proof.Machine.execKpop d a s
  | .kffs d a => Sys2Proof.Machine.execKffs d a s
  | .kmov d a => Sys2Proof.Machine.execKmov d a s
  | .kmovExpand d a f => Sys2Proof.Machine.execKmovExpand d a f s
  | .kmovFromG d b => Sys2Proof.Machine.execKmovFromG d b s
  | .kmovToG d a => Sys2Proof.Machine.execKmovToG d a s
  | .vlop3 d a b k t => Sys2Proof.Machine.execVlop3 d a b k t s
  | .vfshl d a b k w sh => Sys2Proof.Machine.execVfshl d a b k w sh s
  | .vclz d a k w => Sys2Proof.Machine.execVclz d a k w s
  | .vctz d a k w => Sys2Proof.Machine.execVctz d a k w s
  | .vpopc d a k w => Sys2Proof.Machine.execVpopc d a k w s
  | .vrcp d a k => Sys2Proof.Machine.execVrcp d a k s
  | .vrsq d a k => Sys2Proof.Machine.execVrsq d a k s
  | .vsqrt d a k => Sys2Proof.Machine.execVsqrt d a k s
  | .vexp2 d a k => Sys2Proof.Machine.execVexp2 d a k s
  | .vlog2 d a k => Sys2Proof.Machine.execVlog2 d a k s
  | .vldb d b k w => Sys2Proof.Machine.execVldb d b k w s
  | .vgath d a b k w => Sys2Proof.Machine.execVgath d a b k w s
  | .vscat d a b k w => Sys2Proof.Machine.execVscat d a b k w s
  | .immx p => Sys2Proof.Machine.execImmx p s
  | .prio n => Sys2Proof.Machine.execPrio n s
  | .rev n => Sys2Proof.Machine.execRev n s
  | .likely taken => Sys2Proof.Machine.execLikely taken s
  | .spin a => Sys2Proof.Machine.execSpin a s
  | .hnop k p => Sys2Proof.Machine.execHnop k p s
  | .endCtx => Sys2Proof.Machine.execEndCtx s
  | .yield => Sys2Proof.Machine.execYield s
  | .fuse => Sys2Proof.Machine.execFuse s
  | .split => Sys2Proof.Machine.execSplit s
  | .eret => Sys2Proof.Machine.execEret s
  | .halt => Sys2Proof.Machine.execHalt s
  | .efence => Sys2Proof.Machine.execEfence s
  | .nofold => Sys2Proof.Machine.execNofold s
  | .hostAppend off size t => Sys2Proof.Machine.execHostAppend off size t s
  | .queueEnable q => Sys2Proof.Machine.execQueueEnable q s
  | .queueDisable q => Sys2Proof.Machine.execQueueDisable q s
  | .dispatcherWakeup q => Sys2Proof.Machine.execDispatcherWakeup q s
  | .dispatcherLinkChange q => Sys2Proof.Machine.execDispatcherLinkChange q s
  | .dispatcherSelect binding => Sys2Proof.Machine.execDispatcherSelect binding s
  | .bindingRequest task group package msg => Sys2Proof.Machine.execBindingRequest task group package msg s
  | .bindingWithdraw task => Sys2Proof.Machine.execBindingWithdraw task s
  | .firstPlacement core => Sys2Proof.Machine.execFirstPlacement core s
  | .replaceLogicalCore core slot => Sys2Proof.Machine.execReplaceLogicalCore core slot s
  | .quantumExpiry slot => Sys2Proof.Machine.execQuantumExpiry slot s
  | .timeSliceSwitch slot => Sys2Proof.Machine.execTimeSliceSwitch slot s
  | .contextSave core => Sys2Proof.Machine.execContextSave core s
  | .contextRestore core => Sys2Proof.Machine.execContextRestore core s
  | .watchdogExpiry task => Sys2Proof.Machine.execWatchdogExpiry task s
  | .cancelTask t => Sys2Proof.Machine.execCancelTask t s
  | .fenceCore slot out => Sys2Proof.Machine.execFenceCore slot out s
  | .xboundRaiseComplete core => Sys2Proof.Machine.execXboundRaiseComplete core s
  | .takeEvent c => Sys2Proof.Machine.execTakeEvent c s
  | .loadDataReturn c reply => Sys2Proof.Machine.execLoadDataReturn c reply s
  | .helperStopEnd c => Sys2Proof.Machine.execHelperStopEnd c s
  | .spinWaitEnd c why => Sys2Proof.Machine.execSpinWaitEnd c why s
  | .sfuRequestStart cluster => Sys2Proof.Machine.execSfuRequestStart cluster s
  | .sfuResultWrite cluster => Sys2Proof.Machine.execSfuResultWrite cluster s
  | .matrixCommandTake core => Sys2Proof.Machine.execMatrixCommandTake core s
  | .matrixCommandEnd core => Sys2Proof.Machine.execMatrixCommandEnd core s
  | .mmarSlotReady core => Sys2Proof.Machine.execMmarSlotReady core s
  | .objectCacheFill core handle => Sys2Proof.Machine.execObjectCacheFill core handle s
  | .translationWalk die extents f => Sys2Proof.Machine.execTranslationWalk die extents f s
  | .frameNotResidentFault c batch => Sys2Proof.Machine.execFrameNotResidentFault c batch s
  | .residencyServiceEnd die entry => Sys2Proof.Machine.execResidencyServiceEnd die entry s
  | .frameMovingWrite entry => Sys2Proof.Machine.execFrameMovingWrite entry s
  | .portShootdown die entry => Sys2Proof.Machine.execPortShootdown die entry s
  | .shootdownFinish entry word => Sys2Proof.Machine.execShootdownFinish entry word s
  | .migrationEvaluate die core ref q free stack frame => Sys2Proof.Machine.execMigrationEvaluate die core ref q free stack frame s
  | .accessCountHalving => Sys2Proof.Machine.execAccessCountHalving s
  | .remoteRouteTimeout package => Sys2Proof.Machine.execRemoteRouteTimeout package s
  | .farAtomic => Sys2Proof.Machine.execFarAtomic s
  | .redApply => Sys2Proof.Machine.execRedApply s
  | .redaccApply => Sys2Proof.Machine.execRedaccApply s
  | .copyTake core => Sys2Proof.Machine.execCopyTake core s
  | .copyComplete core place => Sys2Proof.Machine.execCopyComplete core place s
  | .copyRingSlotReady core place => Sys2Proof.Machine.execCopyRingSlotReady core place s
  | .copyFrameFault core place => Sys2Proof.Machine.execCopyFrameFault core place s
  | .dirGets cluster line => Sys2Proof.Machine.execDirGets cluster line s
  | .dirGetx cluster line => Sys2Proof.Machine.execDirGetx cluster line s
  | .dirPut cluster line => Sys2Proof.Machine.execDirPut cluster line s
  | .dirForward line => Sys2Proof.Machine.execDirForward line s
  | .dirInvalidate cluster line => Sys2Proof.Machine.execDirInvalidate cluster line s
  | .dirGrant line => Sys2Proof.Machine.execDirGrant line s
  | .dirTransactionComplete line => Sys2Proof.Machine.execDirTransactionComplete line s
  | .proxyRequest package line msg => Sys2Proof.Machine.execProxyRequest package line msg s
  | .conjunctionDieLoss cdie => Sys2Proof.Machine.execConjunctionDieLoss cdie s
  | .conjunctionTakeoverComplete => Sys2Proof.Machine.execConjunctionTakeoverComplete s
  | .bothConjunctionLoss => Sys2Proof.Machine.execBothConjunctionLoss s
  | .linkStateMessage package reachable => Sys2Proof.Machine.execLinkStateMessage package reachable s
  | .remoteEpochChange package epoch => Sys2Proof.Machine.execRemoteEpochChange package epoch s
  | .remotePowerDown package => Sys2Proof.Machine.execRemotePowerDown package s
  | .dcmdRead cdie => Sys2Proof.Machine.execDcmdRead cdie s
  | .dcmdClearLost cdie => Sys2Proof.Machine.execDcmdClearLost cdie s
  | .dcmdRecall cdie => Sys2Proof.Machine.execDcmdRecall cdie s
  | .arrivalSignal core chan => Sys2Proof.Machine.execArrivalSignal core chan s
  | .collTake core => Sys2Proof.Machine.execCollTake core s
  | .collPacketArrival core => Sys2Proof.Machine.execCollPacketArrival core s
  | .collAbort core slot => Sys2Proof.Machine.execCollAbort core slot s
  | .sendmTake core => Sys2Proof.Machine.execSendmTake core s
  | .sendmRetry core => Sys2Proof.Machine.execSendmRetry core s
  | .rollback core trigger => Sys2Proof.Machine.execRollback core trigger s
  | .twinMessageCompare task lcore ctx => Sys2Proof.Machine.execTwinMessageCompare task lcore ctx s
  | .fenceRegisterWrite value => Sys2Proof.Machine.execFenceRegisterWrite value s
  | .dieFence die level trigger => Sys2Proof.Machine.execDieFence die level trigger s
  | .supplyThermalFault die => Sys2Proof.Machine.execSupplyThermalFault die s
  | .retireTask task => Sys2Proof.Machine.execRetireTask task s
  | .chainAdvance q => Sys2Proof.Machine.execChainAdvance q s
  | .digestFoldTimer => Sys2Proof.Machine.execDigestFoldTimer s
  | .meteringFoldTimer => Sys2Proof.Machine.execMeteringFoldTimer s
  | .meteringReadMessage n => Sys2Proof.Machine.execMeteringReadMessage n s
  | .hostCompletionTimeout c => Sys2Proof.Machine.execHostCompletionTimeout c s
  | .hostLinkDown => Sys2Proof.Machine.execHostLinkDown s
  | .flitArrival port flit => Sys2Proof.Machine.execFlitArrival port flit s
  | .flowStop port cls => Sys2Proof.Machine.execFlowStop port cls s
  | .flowGo port cls => Sys2Proof.Machine.execFlowGo port cls s
  | .linkReplay port => Sys2Proof.Machine.execLinkReplay port s
  | .linkRetrainTimeout port => Sys2Proof.Machine.execLinkRetrainTimeout port s
  | .coldStart verified => Sys2Proof.Machine.execColdStart verified s
  | .warmStart verified => Sys2Proof.Machine.execWarmStart verified s
  | .dieEnterService die found => Sys2Proof.Machine.execDieEnterService die found s
  | .powerEstimate watts => Sys2Proof.Machine.execPowerEstimate watts s
  | .getVersion => Sys2Proof.Machine.execGetVersion s
  | .getCapabilities => Sys2Proof.Machine.execGetCapabilities s
  | .negotiateAlgorithms rsa3072 sha256 => Sys2Proof.Machine.execNegotiateAlgorithms rsa3072 sha256 s
  | .getDigests => Sys2Proof.Machine.execGetDigests s
  | .getCertificate slot => Sys2Proof.Machine.execGetCertificate slot s
  | .challenge slot nonce => Sys2Proof.Machine.execChallenge slot nonce s
  | .getMeasurements index => Sys2Proof.Machine.execGetMeasurements index s
  | .spdmUnsupportedRequest code => Sys2Proof.Machine.execSpdmUnsupportedRequest code s
  | .registerWrite r value => Sys2Proof.Machine.execRegisterWrite r value s
  | .ill w => Sys2Proof.Machine.execIll w s
  | .xfetch off => Sys2Proof.Machine.execXfetch off s
  | .ageingSample die reading => Sys2Proof.Machine.execAgeingSample die reading s
  | .chainRecordWrite q value folded => Sys2Proof.Machine.execChainRecordWrite q value folded s
  | .ownerChainProvisioning chain => Sys2Proof.Machine.execOwnerChainProvisioning chain s

end Sys2Proof.Machine
end

