-- ==== Sys2Proof/Machine/Ahead.lean ====
section
/-! DEFINITION. Run-ahead behind an access that met a not-resident frame (R264, R265): the words that the context goes on
issuing, on a copy of the state that is then discarded, and the batch of frames that their loads meet. -/

namespace Sys2Proof.Machine

/-- The words that run-ahead issues (R264 step 3). -/
def Instr.runsAhead (i : Instr) : Bool :=
  let m := i.major
  match i with
  | .immx _ | .likely _ | .nofold | .hnop _ _ => true
  | _ => (0x01 ≤ m && m ≤ 0x0E) || (0x18 ≤ m && m ≤ 0x1F) || m = 0x25 || (0x28 ≤ m && m ≤ 0x31) || m = 0x33

/-- A set of general, vector and mask registers. -/
structure Marks where
  g : BitVec 64
  v : BitVec 32
  k : BitVec 8
  deriving DecidableEq, Repr

def Marks.none : Marks := ⟨0, 0, 0⟩
def Marks.join (a b : Marks) : Marks := ⟨a.g ||| b.g, a.v ||| b.v, a.k ||| b.k⟩
def Marks.minus (a b : Marks) : Marks := ⟨a.g &&& ~~~b.g, a.v &&& ~~~b.v, a.k &&& ~~~b.k⟩
def Marks.ofG (n : BitVec 6) : Marks := ⟨1#64 <<< n.toNat, 0, 0⟩
def Marks.ofV (n : BitVec 5) : Marks := ⟨0, 1#32 <<< n.toNat, 0⟩

/-- A word of memory as run-ahead tells them apart: a load with its destination, or a store with the register of its bytes; the
registers of its address; and the number of bytes of a scalar or whole vector access. -/
inductive MemWord
  | load (dest addr : Marks) (n : Nat)
  | store (data addr : Marks) (n : Nat)
  deriving DecidableEq, Repr

/-- Whether two sets have a register in common. -/
def Marks.meets (a b : Marks) : Bool := a.g &&& b.g ≠ 0 || a.v &&& b.v ≠ 0 || a.k &&& b.k ≠ 0

def Instr.memWord : Instr → Option MemWord
  | .lds d a _ w | .ldz d a _ w => some (.load (.ofG d) (.ofG a) w.bytes)
  | .st c a _ w => some (.store (.ofG c) (.ofG a) w.bytes)
  | .vld v a _ _ => some (.load (.ofV v) (.ofG a) 32)
  | .vst v a _ _ => some (.store (.ofV v) (.ofG a) 32)
  | .vldb d b _ w => some (.load (.ofV d) (.ofG (b.setWidth 6)) w.bytes)
  | .vgath d a b _ _ => some (.load (.ofV d) ((Marks.ofG (b.setWidth 6)).join (.ofV a)) 0)
  | .vscat d a b _ _ => some (.store (.ofV d) ((Marks.ofG (b.setWidth 6)).join (.ofV a)) 0)
  | _ => none

/-- Where a scalar or whole vector access of the context begins. -/
def State.memStart (s : State) : Instr → Option Word
  | .lds _ a imm _ | .ldz _ a imm _ | .st _ a imm _ | .vld _ a _ imm | .vst _ a _ imm =>
    some (s.ctx.gval a.toNat + immExt (match s.ctx.pfx with
      | some p => p.immx
      | none => []) imm)
  | .vldb _ b _ _ => some (s.ctx.gval b.toNat)
  | _ => none

/-- A context whose registers of a set hold all zeros or all ones, to see what depends on them. -/
def Ctx.fill (c : Ctx) (m : Marks) (ones : Bool) : Ctx :=
  { c with
    g := Vector.ofFn fun i => if m.g.getLsbD i then (if ones then BitVec.allOnes 64 else 0) else c.g[i]
    v := Vector.ofFn fun i => if m.v.getLsbD i then (if ones then BitVec.allOnes 256 else 0) else c.v[i]
    k := Vector.ofFn fun i => if m.k.getLsbD i then (if ones then BitVec.allOnes 32 else 0) else c.k[i] }

/-- Run-ahead under way: the copy, the registers whose values are invalid, the places of stores whose bytes are, the stores held,
and the batch of frames so far (R264). -/
structure Ahead where
  s : State
  bad : Marks
  poison : List (Word × Nat)
  stores : Nat
  batch : List Word

/-- How one word of run-ahead ends: it issues, its access meets a not-resident frame, or it would trap, wait or not be ready. -/
inductive AheadWord
  | issued (t : State)
  | missing (frame : Word)
  | halted

/-- ECAUSE while run-ahead lasts: no cause, so that a trap shows. -/
def noCause : Word := 0x10000

/-- The word executed on the copy. A class 3 read goes to the host's memory and its bytes come at once; what it reads changes
nothing there. -/
def State.tryOn : Nat → State → Instr → AheadWord
  | 0, _, _ => .halted
  | n + 1, s, i => match exec i s with
    | .next t =>
      if t.stalled || t.ctx.sys.ecause ≠ noCause || t.core.id ≠ s.core.id || !t.ctx.live then .halted
      else match t.ctx.wait with
        | none => .issued t
        | some (.residency frame _) => .missing frame
        | some (.host ref k addr) =>
          State.tryOn n (t.setCtx { t.ctx with wait := none, hostGot := (ref, t.unc.host.read addr k) :: t.ctx.hostGot }) i
        | some _ => .halted
    | _ => .halted

/-- The word executed on the copy; a vector gather reads at most 32 elements of the host's memory. -/
def State.tryWord (s : State) (i : Instr) : AheadWord := s.tryOn 34 i

/-- The copy with nothing written yet, and the registers of a set as not ready. -/
def State.clean (s : State) : State := s.setCtx { s.ctx with dirty := ⟨0, 0, 0, none⟩ }
def State.unready (s : State) (m : Marks) : State :=
  s.setCtx { s.ctx with pendG := s.ctx.pendG ||| m.g, pendV := s.ctx.pendV ||| m.v }

/-- The registers that the copy has written since it was clean. -/
def State.written (s : State) : Marks := ⟨s.ctx.dirty.g, s.ctx.dirty.v, s.ctx.dirty.k⟩

/-- Whether the word reads one of these general or vector registers: it is not ready while they are not. -/
def State.readsAny (s : State) (i : Instr) (m : Marks) : Bool :=
  (m.g ≠ 0 || m.v ≠ 0) && (match exec i (s.unready m) with
    | .next t => t.stalled
    | _ => true)

/-- Whether what the word writes or where it goes depends on registers of a set through their values: as a mask, or as the old
contents of its destination. -/
def State.varies (s : State) (i : Instr) (m : Marks) : Bool :=
  if m = .none then false
  else
    match (s.setCtx (s.ctx.fill m false)).tryWord i, (s.setCtx (s.ctx.fill m true)).tryWord i with
    | .issued t, .issued u =>
      let w := t.written.join u.written
      let differs (n : Nat) : Bool := (w.g.getLsbD n && t.ctx.gval n ≠ u.ctx.gval n) ||
        (w.v.getLsbD n && t.ctx.vval n ≠ u.ctx.vval n) || (w.k.getLsbD n && t.ctx.kval n ≠ u.ctx.kval n)
      t.ctx.pc ≠ u.ctx.pc || t.core.lm ≠ u.core.lm || t.unc ≠ u.unc || (List.range 64).any differs
    | _, _ => true

/-- The word passes without effect. -/
def Ahead.pass (a : Ahead) (bad : Marks) : Ahead :=
  { a with s := a.s.setCtx (a.s.ctx.advance .next), bad := a.bad.join bad }

/-- Whether a load's bytes may be those of a store whose bytes are invalid. -/
def Ahead.poisoned (a : Ahead) (start : Option Word) (n : Nat) : Bool :=
  a.poison.any fun p => match start with
    | some r => n = 0 || (r.toNat < p.1.toNat + p.2 && p.1.toNat < r.toNat + n)
    | none => true

/-- A load: made where its address is valid and its frame is resident (R264 step 2). -/
def Ahead.load (a : Ahead) (i : Instr) (dest addr : Marks) (n : Nat) : Option Ahead :=
  if a.bad.meets addr then some (a.pass dest)
  else match a.s.tryWord i with
    | .halted => none
    | .missing frame =>
      some { (a.pass dest) with batch := if a.batch.contains frame then a.batch else a.batch ++ [frame] }
    | .issued t =>
      if a.poisoned (a.s.memStart i) n || a.s.varies i ⟨a.bad.g &&& dest.g, a.bad.v &&& dest.v, a.bad.k⟩ then some (a.pass dest)
      else some { a with s := t, bad := a.bad.minus dest }

/-- A store, held in the store shadow of 64 entries (R264 steps 2 and 3). The faulting store itself begins the batch. -/
def Ahead.store (a : Ahead) (i : Instr) (data addr : Marks) (n : Nat) : Option Ahead :=
  if 64 ≤ a.stores then none
  else
    let held := { a with stores := a.stores + 1 }
    if a.bad.meets addr || a.s.varies i ⟨0, 0, a.bad.k⟩ then some (held.pass .none)
    else
      let hides : List (Word × Nat) := match a.s.memStart i with
        | some r => [(r, n)]
        | none => [(0, 2 ^ 64)]
      match a.s.tryWord i with
      | .halted => none
      | .missing frame =>
        let held := { held with poison := a.poison ++ hides }
        some { (held.pass .none) with batch := if a.batch = [] then [frame] else a.batch }
      | .issued t =>
        if a.bad.g &&& data.g ≠ 0 || a.bad.v &&& data.v ≠ 0 then some { (held.pass .none) with poison := a.poison ++ hides }
        else some { held with s := t }

/-- A word without an access: its results are invalid where it reads an invalid one; a branch or JALR that does stops the run. -/
def Ahead.compute (a : Ahead) (i : Instr) : Option Ahead :=
  match a.s.tryWord i with
  | .issued t =>
    let w := t.written
    let branch : Bool := 0x18 ≤ i.major && i.major ≤ 0x1F
    let own : Marks := ⟨a.bad.g &&& w.g, a.bad.v &&& w.v, a.bad.k⟩
    if a.s.readsAny i (a.bad.minus w) || a.s.varies i own then
      if branch then none else some { a with s := t, bad := a.bad.join w }
    else some { a with s := t, bad := a.bad.minus w }
  | _ => none

/-- The next word of the run, or its stop (R264 steps 2 and 3). -/
def Ahead.word (a : Ahead) : Option Ahead :=
  let a := { a with s := a.s.clean }
  if !a.s.ctx.ar && a.s.core.xbound ≤ a.s.ctx.pc then none
  else match decodeWord a.s.wordHere with
    | .error _ => none
    | .ok i =>
      if !Instr.runsAhead i then none
      else match Instr.memWord i with
        | some (.load dest addr n) => a.load i dest addr n
        | some (.store data addr n) => a.store i data addr n
        | none => a.compute i

/-- The next word in every member, or none where it stops the run in one of them, or where they part (R156, R265). -/
def Ahead.words (l : List Ahead) : Option (List Ahead) :=
  let next := l.filterMap Ahead.word
  let pcs := next.map fun a => a.s.ctx.pc
  if next.length = l.length && pcs.all (fun pc => some pc = pcs.head?) && l.all (fun a => a.batch.length < 16) then some next
  else none

/-- The run from its first word to its stop: 16 frames, 512 words, or a word that stops it. -/
def Ahead.run : Nat → List Ahead → List Ahead
  | 0, l => l
  | n + 1, l => match Ahead.words l with
    | some m => Ahead.run n m
    | none => l

/-- A context as run-ahead finds it, on a copy of the state, at its issue group. -/
def State.aheadCopy (s : State) (id : CoreId) (n : Nat) : Ahead :=
  let t := s.focus id n
  let c := { t.ctx with wait := none, pc := t.ctx.groupStart, pfx := none, sys := { t.ctx.sys with ecause := noCause } }
  ⟨{ t with core := { t.core with fused := false, ctx := c }, stalled := false }, .none, [], 0, []⟩

/-- A context that has just met a not-resident frame has run ahead, in a gang in lock-step with the others, and the batch of each
member that met one stands until FRAME_NOT_RESIDENT_FAULT asks for it (R264, R265, log entry 71). -/
def State.runAhead (s : State) (ids : List CoreId) (n : Nat) : State :=
  let met (id : CoreId) : Option Word := match ((s.findCore id).bind (·.findCtx n)).bind (·.wait) with
    | some (.residency frame .begun) => some frame
    | _ => none
  if ids.all fun id => (met id).isNone then s
  else
    let runs := Ahead.run 512 (ids.map fun id => s.aheadCopy id n)
    (ids.zip runs).foldl (init := s) fun (u : State) p => match met p.1 with
      | some frame => u.mapCtx p.1 n fun c => { c with wait := some (.residency frame (.stopped p.2.batch)) }
      | none => u

end Sys2Proof.Machine
end

