-- ==== Sys2Proof/Machine/Issue.lean ====
section
/-! DEFINITION. Fetching and issuing (R116 to R120, R129 to R134, R152, R153, R156, R177), the turn of the machine's own
events, and the passing of time (R189, R190, R447). The step only calls what stands here. -/

namespace Sys2Proof.Machine

/-! ### Fetch (R119, R130, R420) -/

/-- The check of a fetched word of local memory (R417, R420): an uncorrectable word traps STRUCT with the word's offset. -/
def State.fetchCheck (s : State) : Except Trap State :=
  let pc := s.ctx.pc.toNat
  match (Op.lmCheck (s.self 0) ⟨Word.ofN pc, 4, 2, 6, 0⟩ s.core.id pc 4) s with
  | .ok (_, t) => .ok t
  | .error (.trap t) => .error { t with eaddr := Word.ofN pc }
  | .error _ => .ok s

/-- The fetch of a word whose stored bits are bad: the leader's, in a gang, whose other members record GANG (R156, R157). -/
def State.fetchTrap (s : State) (t : Trap) : State :=
  if s.inGang then s.gangTraps (s.together.map fun id => if id = s.core.id then some t else none) else s.takeTrapAt t

/-- The word at the PC of the context in focus is fetched and issues, or traps (R130). -/
def State.issueWord (s : State) : Host.Outcome State Fault Refusal :=
  if s.waits then .next { s with stalled := true }
  else if !s.ctx.ar && s.core.xbound ≤ s.ctx.pc then execXfetch s.ctx.pc s
  else match (if s.ctx.ar then .ok s else s.fetchCheck) with
    | .error t => .next (s.fetchTrap t)
    | .ok s => match decodeWord s.wordHere with
      | .ok i => exec i s
      | .error _ => execIll (BitVec.ofNat 32 s.wordHere) s

/-- The offset of the word of the issue group that begins at the context in focus which cannot be fetched: the first at or above
XBOUND behind its prefix words (R120, R153). -/
def State.groupFetch : Nat → State → Option (BitVec 21)
  | 0, _ => none
  | n + 1, s =>
    if s.ctx.ar then none
    else if s.core.xbound ≤ s.ctx.pc then some s.ctx.pc
    else match decodeWord s.wordHere with
      | .ok i => match prefixOf i with
        | some f => State.groupFetch n (s.addPrefix f)
        | none => none
      | .error _ => none

/-! ### Readiness (R152) -/

/-- Whether the issue group that begins at the context in focus can issue to its end: its words are tried in turn. -/
def State.groupReady : Nat → State → Bool
  | 0, _ => false
  | n + 1, s => match s.issueWord with
    | .next t => if t.stalled then false else if t.ctx.pfx.isSome && t.ctx.pc ≠ s.ctx.pc then State.groupReady n t else true
    | _ => false

/-- The words that a group can have: as many as a code space holds. -/
def groupBound : Nat := 262145

/-- Whether context `n` of the logical core in focus is ready. -/
def State.ready (s : State) (n : Nat) : Bool :=
  let t := s.focus s.core.id n
  t.ctx.live && !t.waits && t.groupReady groupBound

/-- The numbers of the ready contexts of the logical core in focus. -/
def State.readyCtxs (s : State) : List Nat := ((s.core.ctxs.filter fun x => x.live).map (·.num)).filter s.ready

/-- The choice of R153 among contexts: the smallest level, then the first after `last`. -/
def LCore.choose (c : LCore) (ready : List Nat) : Option Nat :=
  let key (n : Nat) : Nat := ((c.findCtx n).map (·.level.toNat)).getD 7 * 16 + (n + 21 - c.last) % 11
  ready.foldl (init := none) fun (best : Option Nat) n => match best with
    | none => some n
    | some m => if key n < key m then some n else some m

/-! ### One logical core's turn -/

/-- Whether a logical core issues: it is resident, its contexts have not been stopped, and in a fused gang it is the leader
of members that are all resident (R109, R156). -/
def State.issues (s : State) (c : LCore) : Bool :=
  c.resident && !c.stopped &&
    (!(c.fused && 1 < c.regs.gangsz) || (c.regs.gangix = 0 && (s.gang c).all fun d => d.resident && !d.stopped))

/-- A YIELD's wait holds only contexts that were ready when it issued (R177). -/
def Ctx.pruneYield (x : Ctx) (keep : Nat → Bool) : Ctx :=
  match x.wait with
  | some (.yielded others) =>
    let left := others.filter keep
    { x with wait := if left = [] then none else some (.yielded left) }
  | _ => x

/-- Context `n` of the core has issued a word in state `before`: waits of other contexts' YIELDs no longer hold it, and its
own YIELD waits only for contexts that were ready. -/
def State.afterIssue (before s : State) (ids : List CoreId) (n : Nat) : State :=
  let yields := s.cores.any fun c => ids.contains c.id && c.ctxs.any fun x => match x.wait with
    | some (.yielded _) => true
    | _ => false
  if !yields then s
  else
    let others := before.readyCtxs
    let prune (x : Ctx) : Ctx :=
      if x.num = n then x.pruneYield others.contains else x.pruneYield fun m => m ≠ n
    s.mapCores fun c => if ids.contains c.id then c.mapCtxs prune else c

/-- The first of several turns that acts. -/
def firstActing : List (State → Host.Outcome State Fault Refusal) → State → Option State
  | [], _ => none
  | f :: fs, s => match f s with
    | .next t => if t.stalled then firstActing fs s else some t
    | _ => firstActing fs s

/-- What comes at a boundary before the next issue group: the end of a stopped helper, and a pending event (R174, R401). -/
def State.boundaryTurn (s : State) : Option State :=
  let one (id : CoreId) (x : Ctx) : List (State → Host.Outcome State Fault Refusal) :=
    (if x.stopReq then [execHelperStopEnd ⟨id, x.num⟩] else []) ++
    (if x.eventTrap.isSome then [execTakeEvent ⟨id, x.num⟩] else [])
  firstActing (s.together.flatMap fun id => match s.findCore id with
    | some c => c.ctxs.flatMap (one id)
    | none => []) s

/-- The YIELDs of a core none of whose other contexts is ready end (R177). -/
def State.endYields (s : State) : State :=
  let ids := s.together
  s.mapCores fun c => if ids.contains c.id then c.mapCtxs fun x => x.pruneYield fun _ => false else c

/-- One word of context `n` of the logical core in focus. A group one of whose words cannot be fetched traps before any word of
it issues (R153). -/
def State.issueCtx (s : State) (n : Nat) : Host.Outcome State Fault Refusal :=
  let t := s.focus s.core.id n
  let word : Host.Outcome State Fault Refusal := match (if t.ctx.pfx.isSome then none else t.groupFetch groupBound) with
    | some off => execXfetch off t
    | none => t.issueWord
  match word with
  | .next u => .next (if u.stalled then u else (t.afterIssue u t.together n).runAhead t.together n)
  | r => r

/-- The turn of the logical core in focus (R134, R153): the context in the middle of a group goes on; else what comes at a
boundary; else the chosen ready context begins. -/
def State.coreTurn (s : State) : Host.Outcome State Fault Refusal :=
  if !s.issues s.core then .next { s with stalled := true }
  else match s.core.ctxs.find? fun x => x.live && x.pfx.isSome with
    | some x => s.issueCtx x.num
    | none => match s.boundaryTurn with
      | some t => .next t
      | none => match s.core.choose s.readyCtxs with
        | some n => s.issueCtx n
        | none =>
          let t := s.endYields
          match t.core.choose t.readyCtxs with
          | some n => t.issueCtx n
          | none => .next { s with stalled := true }

/-- The turn of a logical core. -/
def State.turnOf (s : State) (id : CoreId) : Host.Outcome State Fault Refusal :=
  if (s.findCore id).isSome then (s.focusCore id).coreTurn else .next { s with stalled := true }

/-! ### The machine's own events -/

/-- The events of one logical core that its hardware brings about. -/
def LCore.ownEvents (c : LCore) : List (State → Host.Outcome State Fault Refusal) :=
  let id := c.id
  let copies := (List.range c.copies.flight.length).flatMap fun i =>
    [execCopyComplete id i, execCopyRingSlotReady id i, execCopyFrameFault id i]
  let engine := (if c.mx.running.isSome then [execMmarSlotReady id, execMatrixCommandEnd id] else []) ++
    (if c.mx.queue ≠ [] then [execMatrixCommandTake id] else []) ++
    (if c.copies.queue ≠ [] then [execCopyTake id] else []) ++
    (if c.coll ≠ [] then [execCollTake id, execSendmTake id, execSendmRetry id] else [])
  let signals := (List.range 4).flatMap fun n => if c.chanOn n then [execArrivalSignal id (BitVec.ofNat 2 n)] else []
  let aborts := (List.range 4).map fun n => execCollAbort id (BitVec.ofNat 2 n)
  let due := match c.rollbackDue with
    | some t => [execRollback id t]
    | none => []
  let raise := if c.raise.isSome then [execXboundRaiseComplete id] else []
  let twins := if c.id.copy = 0 then (c.ctxs.filter fun x => x.wait = some .twin).map fun x =>
      execTwinMessageCompare id.task id.lcore x.num
    else []
  let host := (c.ctxs.filter fun x => match x.wait with
    | some (.host _ _ _) => true
    | _ => x.arriving ≠ []).map fun x => execLoadDataReturn ⟨id, x.num⟩ .data
  let spins := (c.ctxs.filter fun x => match x.wait with
    | some (.spin _ _ _ _) => true
    | _ => false).flatMap fun x => [SpinEnd.changed, .event, .switched].map fun why => execSpinWaitEnd ⟨id, x.num⟩ why
  let ahead := c.ctxs.filterMap fun x => match x.wait with
    | some (.residency _ (.stopped batch)) => some (execFrameNotResidentFault ⟨id, x.num⟩ batch)
    | _ => none
  let place := [execFirstPlacement id, execContextRestore id, execContextSave id]
  place ++ due ++ raise ++ engine ++ copies ++ [execCollPacketArrival id] ++ aborts ++ signals ++ twins ++ host ++ spins ++
    ahead ++ (if c.resident then [execQuantumExpiry c.slot, execTimeSliceSwitch c.slot] else [])

/-- The package's own events: banks, special-function units, the directory, shoot-downs that ports began, the dispatcher and
retirement. -/
def State.ownEvents (s : State) : List (State → Host.Outcome State Fault Refusal) :=
  let sfu := s.unc.sfus.flatMap fun u => [execSfuRequestStart u.cluster, execSfuResultWrite u.cluster]
  let banks := if s.unc.bankOps = [] then [] else [execFarAtomic, execRedApply, execRedaccApply]
  let dir := s.unc.dirTxs.flatMap fun x =>
    [execDirForward x.tag] ++ (x.invalidate.map fun c => execDirInvalidate c x.tag) ++
      [execDirGrant x.tag, execDirTransactionComplete x.tag]
  let next := ((s.unc.dirWaiting.map (·.tag)).dedup.filter fun t => (s.findTx t).isNone).map execDirTransactionComplete
  let shoots := s.unc.shoots.flatMap fun x =>
    ((List.range 8).map fun d => execPortShootdown d x.entry) ++
      (if x.copyTo.isSome then [execShootdownFinish x.entry x.before] else [])
  let queues := (List.range 64).flatMap fun q =>
    if (s.queue q).en then [execDispatcherWakeup (BitVec.ofNat 6 q), execDispatcherLinkChange (BitVec.ofNat 6 q)] else []
  let appends := (List.range 64).flatMap fun q => match (s.queue q).hostAppend with
    | some t => [execHostAppend (BitVec.ofNat 12 (64 * q)) 0 t]
    | none => []
  let cancel := if s.disp.cancelBusy then [execCancelTask s.disp.cancelTask] else []
  let resets := (List.range 64).flatMap fun q => match (s.queue q).expired with
    | some t => [execWatchdogExpiry t]
    | none => []
  let chains := (List.range 64).flatMap fun q =>
    if (s.disp.chains.toList.getD q Chain.reset).recorded = [] then [] else [execChainAdvance (BitVec.ofNat 6 q)]
  let tasks := s.disp.tasks.flatMap fun t => [execRetireTask t.ref, execWatchdogExpiry t.ref]
  let select := if (s.disp.queues.toList.any fun q => q.en) || (List.range 64).any s.idleDeficit then
      [execDispatcherSelect []]
    else []
  let takeover := if s.pkg.takeover then [execConjunctionTakeoverComplete] else []
  let again := s.cores.flatMap fun c => (s.replaceSlots c).map fun slot => execReplaceLogicalCore c.id slot
  (s.cores.flatMap LCore.ownEvents) ++ again ++ sfu ++ banks ++ dir ++ next ++ shoots ++ takeover ++ resets ++ tasks ++
    chains ++ queues ++ appends ++ cancel ++ select

/-- The SPIN waits that reach their limit, when nothing else happens (R139). -/
def State.spinEnds (s : State) : List (State → Host.Outcome State Fault Refusal) :=
  s.cores.flatMap fun c => (c.ctxs.filter fun x => match x.wait with
    | some (.spin _ _ _ _) => true
    | _ => false).map fun x => execSpinWaitEnd ⟨c.id, x.num⟩ .limit

/-- The turns of the logical cores, the one that issued longest ago first. -/
def State.coreTurns (s : State) : List (State → Host.Outcome State Fault Refusal) :=
  s.cores.reverse.map fun c => fun s => s.turnOf c.id

/-- A turn where the agenda names none: cores and the machine's own events change about, so that neither holds the other
up. -/
def State.freeTurn (s : State) : Host.Outcome State Fault Refusal :=
  let order := if s.tick % 2 = 0 then s.coreTurns ++ s.ownEvents else s.ownEvents ++ s.coreTurns
  match firstActing (order ++ s.spinEnds) s with
  | some t => .next t
  | none => .next { s with stalled := true }

/-! ### The agenda -/

/-- Whether an instruction is an event that the outside world or the package may bring about at any time: not a word, nor
what a fetch makes of one. -/
def isEvent (i : Instr) : Bool :=
  match i with
  | .ill _ => false
  | .xfetch _ => false
  | i => (encode i).isNone

/-- The agenda's first turn, else a free one. -/
def State.nextTurn (s : State) : Host.Outcome State Fault Refusal :=
  match s.agenda with
  | .issue id :: rest => { s with agenda := rest, stalled := false }.turnOf id
  | .event i :: rest =>
    if isEvent i then exec i { s with agenda := rest, stalled := false } else .next { s with agenda := rest, stalled := true }
  | [] => { s with stalled := false }.freeTurn

/-- Whether a context of a logical core is in the middle of an issue group. -/
def LCore.inGroup (c : LCore) : Bool := c.ctxs.any fun x => x.live && x.pfx.isSome

/-- The agenda behind the next word of a group: an entry for that core's own turn is used up. -/
def State.groupAgenda (s : State) (id : CoreId) : List Turn :=
  match s.agenda with
  | .issue i :: rest => if i = id then rest else s.agenda
  | l => l

/-- One turn. A group that has begun goes on to its last word first, so that this word acts on the conditions under which the
group began (R153); prefix words reach no other agent. -/
def State.turn (s : State) : Host.Outcome State Fault Refusal :=
  match s.cores.find? fun c => s.issues c && c.inGroup with
  | none => s.nextTurn
  | some c => match { s with agenda := s.groupAgenda c.id, stalled := false }.turnOf c.id with
    | .next t => if t.stalled then s.nextTurn else .next t
    | r => r

/-! ### Time (R91, R189, R190, R447) -/

/-- The counts of a context over `d` cycles and their energy, while it is live, or a helper that has ended and whose commands go on
(R174): engine cycles and resident cycles exactly;
lines, flits and local-memory units are free (log entry 5), and so is how many of the cycles delay the start of a command that
heads its queue while the package delays starts (R23, R462). Vector instructions and K-steps count where they are made. -/
def Ctx.count (x : Ctx) (c : LCore) (table : Vector (BitVec 32) 32) (delaying : Bool) (n place d : Nat) : Ctx :=
  let matrix : Bool := c.mx.running.any fun r => r.cmd.ctx = x.num
  let copying : Bool := c.copies.flight.any fun r => r.cmd.ctx = x.num
  let free (i : Nat) : Nat := Config.meterCount n (16 * place + i)
  let late (idle : Bool) (head : Option Nat) (i : Nat) : Nat :=
    if delaying && idle && head = some x.num then min d (free i) else 0
  let lateM := late c.mx.running.isNone (c.mx.queue.head?.map (·.ctx)) 3
  let lateC := late true (c.copies.queue.head?.map (·.ctx)) 7
  let resident := if x.live then d else 0
  let add : List Nat := [(if matrix then d else 0) + lateM, 0, (if copying then d else 0) + lateC, resident, 128 * free 4,
    128 * free 5, 64 * free 6]
  let used : List (Nat × Nat) := [(6, free 0), (7, free 1), (8, free 2), (9, free 5), (10, free 4), (11, free 6), (12, resident)]
  if x.live || c.enginePending x.num then
    used.foldl (init := { x with unit := { x.unit with
        counts := Vector.ofFn fun (i : Fin 8) => x.unit.counts[i] + Word.ofN (add.getD i 0) } })
      fun x e => x.burn table e.1 e.2
  else x

/-- The counts of a logical core. -/
def LCore.count (c : LCore) (table : Vector (BitVec 32) 32) (delaying : Bool) (n d place : Nat) : LCore :=
  if c.resident then c.mapCtxs fun x => x.count c table delaying n (16 * place + x.num) d else c

/-- Time passes after a turn: one cycle and a free number more, a free number of µs, which the watchdogs of RUNNING tasks
count (log entry 3). -/
def State.tickOn (s : State) : State :=
  let d := 1 + Config.extraCycles s.tick
  let us := Config.extraMicros s.tick
  let table (c : LCore) : Vector (BitVec 32) 32 := (s.die (dieOf c.slot)).energy
  let watch (t : Task) : Task := if t.phase = .running then { t with watch := t.watch + us } else t
  { s with
    core := s.core.count (table s.core) s.pkg.delaying s.tick d 0
    peers := s.peers.zipIdx.map fun e => e.1.count (table e.1) s.pkg.delaying s.tick d (e.2 + 1)
    dies := s.dies.map fun x => { x with cycle := x.cycle + Word.ofN d }
    disp := { s.disp with tasks := s.disp.tasks.map watch }
    cycle := s.cycle + Word.ofN d
    timeUs := s.timeUs + Word.ofN us
    tick := s.tick + 1 }

/-! ### A word placed where the next step fetches -/

/-- A logical core with nothing in progress but context 0, live at offset 0x10 below XBOUND 0x1000, with `w` there. -/
def LCore.withWord (c : LCore) (w : Nat) : LCore :=
  { c with
    resident := true
    stopped := false
    fused := false
    xbound := 0x1000
    ctx := { c.ctx with
      live := true
      pc := 0x10
      pfx := none
      wait := none
      ar := false
      stopReq := false
      reports := []
      sys := { c.ctx.sys with events := 0 } }
    others := c.others.map fun x => { x with live := false }
    lmFlips := []
    lm := c.lm.store 0x10 4 w }

end Sys2Proof.Machine
end

