-- ==== Sys2Proof/Machine/Step.lean ====
section
/-! DEFINITION. One step of the machine: one turn, then the passing of time. -/

namespace Sys2Proof.Machine

/-- ONE STEP: the turn that the agenda names, or a free one, and then time passes. -/
def step (s : State) : Host.Outcome State Fault Refusal :=
  match s.turn with
  | .next t => .next t.tickOn
  | .fault f => .fault f
  | .refused r => .refused r

/-- `s` with the instruction whose first `nbits` bits are those of `w` stored where the next step fetches it: on the logical
core in focus, which has the next turn, at the PC of its context. The others of its contexts are not live. -/
def State.withFetchWord (s : State) (nbits w : Nat) : State :=
  { s with core := s.core.withWord (w % 2 ^ nbits), agenda := [.issue s.core.id] }

end Sys2Proof.Machine
end

