-- ==== Sys2Proof/Safety.lean ====
section
/-! DEFINITION. What a safe run is, and the words in which claims about this machine are stated: when a word issues, when
its registers can be read and written, the state that a completed word leaves, and the invariant of the memories. -/

namespace Sys2Proof.Machine

/-! ### Safe runs -/

/-- A run of n steps that meets no fault and no refusal. -/
def State.RunsFor (s : State) (n : Nat) : Prop := ∃ t, Sys2Proof.core.run n s = .next t

/-- A SAFE state: every run from it goes on. -/
def State.Safe (s : State) : Prop := ∀ n, s.RunsFor n

/-! ### Every memory in its canonical form -/

/-- The memory of one logical core. -/
def LCore.MemoriesWf (c : LCore) : Prop := c.lm.wf = true

/-- Every memory of the machine lists rising addresses and no byte that an unlisted address reads as. -/
def State.MemoriesWf (s : State) : Prop :=
  s.unc.hbm.wf = true ∧ s.unc.priv.wf = true ∧ s.unc.host.wf = true ∧ s.unc.spills.wf = true ∧ ∀ c ∈ s.cores, c.MemoriesWf

/-! ### A word that issues -/

/-- The word issues in the context in focus alone and is neither ILL by its group nor listed for ARCH: what remains are the
checks of its own entry (R130, R132, R152). -/
def State.Issues (s : State) (i : Instr) : Prop :=
  s.ctx.live = true ∧ s.ctx.wait = none ∧ s.inGang = false ∧ s.wordTrap i = none

/-- The value of g[n] in the context in focus; g0 reads zero (R10). -/
def State.G (s : State) (n : BitVec 6) : Word := s.ctx.gval n.toNat

/-- The value of v[n] in the context in focus. -/
def State.V (s : State) (n : BitVec 5) : VWord := s.ctx.vval n.toNat

/-- The value of k[n] in the context in focus; k0 reads all ones (R196). -/
def State.K (s : State) (n : BitVec 3) : BitVec 32 := s.ctx.kval n.toNat

/-- g[n] can be read: no write to it is pending and it is no token of a stopped engine command (R152, R243). -/
def State.CanRead (s : State) (n : BitVec 6) : Prop :=
  s.ctx.pendG.getLsbD n.toNat = false ∧ s.ctx.reportAt n.toNat = none

/-- g[n] can be written: no write to it is pending (R152). -/
def State.CanWrite (s : State) (n : BitVec 6) : Prop := s.ctx.pendG.getLsbD n.toNat = false

/-- v[n] can be read or written: no write to it is pending (R152). -/
def State.VReady (s : State) (n : BitVec 5) : Prop := s.ctx.pendV.getLsbD n.toNat = false

/-- The IMMX payloads of the group in progress (R133). -/
def State.payloads (s : State) : List (BitVec 22) :=
  match s.ctx.pfx with
  | some p => p.immx
  | none => []

/-- The word has completed and the PC stands at the next word; nothing else has changed. -/
def State.done (s : State) : State := s.finish .next

/-- The word has completed with `v` written to g[d]; a write to g0 is discarded (R10). -/
def State.doneG (s : State) (d : BitVec 6) (v : Word) : State := (s.setCtx (s.ctx.setG d.toNat v)).done

/-- The word has completed with `v` written to v[d]. -/
def State.doneV (s : State) (d : BitVec 5) (v : VWord) : State := (s.setCtx (s.ctx.setV d.toNat v)).done

/-- The word has completed with `v` written to k[d]; a write to k0 is discarded (R10). -/
def State.doneK (s : State) (d : BitVec 3) (v : BitVec 32) : State := (s.setCtx (s.ctx.setK d.toNat v)).done

/-- The word traps with this trap, and nothing of it takes effect (R10, R396). -/
def Trap.plain (cause : Nat) (eaddr einfo : Word) : Trap := ⟨BitVec.ofNat 8 cause, eaddr, einfo, none, none, none⟩

/-! ### What two states have in common -/

/-- The memories, caches, directory, packets and barrier records are the same. -/
def State.SameUncore (s t : State) : Prop := t.unc = s.unc

/-- The system registers, accumulators and engines of the logical core in focus, its other contexts, its local memory and
its rings are the same. -/
def State.SameCoreRest (s t : State) : Prop :=
  t.core.others = s.core.others ∧ t.core.mx = s.core.mx ∧ t.core.copies = s.core.copies ∧ t.core.coll = s.core.coll ∧
  t.core.lm = s.core.lm ∧ t.core.lmFlips = s.core.lmFlips ∧ t.core.rings = s.core.rings ∧ t.core.mail = s.core.mail ∧
  t.core.slots = s.core.slots ∧ t.core.regs = s.core.regs ∧ t.core.xbound = s.core.xbound ∧
  t.core.archmap = s.core.archmap ∧ t.core.shadown = s.core.shadown

/-- What lies outside the logical core in focus is the same. -/
def State.SameOutside (s t : State) : Prop :=
  t.peers = s.peers ∧ t.disp = s.disp ∧ t.dies = s.dies ∧ t.cdies = s.cdies ∧ t.unc = s.unc ∧ t.pkg = s.pkg ∧
  t.cycle = s.cycle ∧ t.timeUs = s.timeUs

/-- The general registers other than g[d] are the same. -/
def State.SameG (s t : State) (d : BitVec 6) : Prop := ∀ n : BitVec 6, n ≠ d → t.G n = s.G n

/-- The vector registers, and the mask registers, are the same. -/
def State.SameVK (s t : State) : Prop := t.ctx.v = s.ctx.v ∧ t.ctx.k = s.ctx.k

/-- The system registers of the context in focus, its mode, revision and level are the same. -/
def State.SameSys (s t : State) : Prop :=
  t.ctx.sys = s.ctx.sys ∧ t.ctx.level = s.ctx.level ∧ t.ctx.revn = s.ctx.revn ∧ t.ctx.ar = s.ctx.ar ∧
  t.ctx.digest = s.ctx.digest

/-! ### Local memory -/

/-- The byte at an offset of the local memory of the logical core in focus. -/
def State.localByte (s : State) (o : Nat) : Byte := s.core.lm.get o

/-- The little-endian value of `n` bytes of local memory (R3). -/
def State.localValue (s : State) (o n : Nat) : Nat := s.core.lm.value o n

/-- An access of `n` bytes by the context in focus to its own local memory passes every check (R26, R119, R273): handle 0,
aligned, inside 1 MiB, at or above XBOUND, with no stored error, outside an Archaism routine, and behind no reduction of its own
to those bytes that has yet to be applied (R317). -/
def State.LocalOk (s : State) (ref : Word) (n : Nat) : Prop :=
  refHandle ref = 0 ∧ refOffset ref % n = 0 ∧ refOffset ref + n ≤ 0x100000 ∧
  s.core.xbound.toNat ≤ refOffset ref ∧ s.core.lmFlips = [] ∧ s.ctx.ar = false ∧
  s.ownRed (s.self 0) (.local s.core.id (refOffset ref)) n = false

/-- A store to the local memory of the logical core in focus has no effect beyond its bytes: the core is resident, so that no image
takes them (R111), and no SPIN watches a block (R139). -/
def State.StoreHere (s : State) : Prop :=
  s.core.resident = true ∧
    ∀ c ∈ s.cores, ∀ x ∈ c.ctxs, ∀ r id b w n, x.wait ≠ some (.spin r (.block id b) w n)

/-- The bytes of local memory outside [o, o + n) are the same. -/
def State.SameLocalBut (s t : State) (o n : Nat) : Prop :=
  ∀ a, a < o ∨ o + n ≤ a → t.localByte a = s.localByte a

/-- Nothing that a release or an acquire would wait for or act on: no reduction or far atomic is under way, no report is
pending, and no cluster holds a line (R285, R321, R322). -/
def State.Settled (s : State) : Prop := s.unc.bankOps = [] ∧ s.ctx.reports = [] ∧ s.unc.lines = []

/-- The registers of the context in focus but g[d], its system registers, and everything outside the core, caches, banks and
local memory apart, are the same; the PC stands at the next word. -/
def State.SameButG (s t : State) (d : BitVec 6) : Prop :=
  s.SameG t d ∧ s.SameVK t ∧ s.SameSys t ∧ t.core.others = s.core.others ∧ t.core.mx = s.core.mx ∧
  t.core.rings = s.core.rings ∧ t.core.copies = s.core.copies ∧ t.core.coll = s.core.coll ∧ t.core.mail = s.core.mail ∧
  t.core.slots = s.core.slots ∧ t.core.xbound = s.core.xbound ∧ t.peers = s.peers ∧ t.disp = s.disp ∧ t.pkg = s.pkg ∧
  t.ctx.pc = s.ctx.pc + 4 ∧ t.stalled = false

/-! ### Events -/

/-- The event acts: it answers a next state, and it has not found its conditions wanting. -/
def State.ActsTo (s : State) (i : Instr) (t : State) : Prop := exec i s = .next t ∧ t.stalled = false

/-! ### Shapes of claims -/

/-- A word with two sources completes with f of them in g[d]. -/
def Completes2 (mk : BitVec 6 → BitVec 6 → BitVec 6 → Instr) (f : Word → Word → Word) : Prop :=
  ∀ (s : State) (d a b : BitVec 6), s.Issues (mk d a b) → s.CanRead a → s.CanRead b → s.CanWrite d →
    exec (mk d a b) s = .next (s.doneG d (f (s.G a) (s.G b)))

/-- A word with a source and an immediate that IMMX can extend completes with f of them in g[d]. -/
def CompletesImm (mk : BitVec 6 → BitVec 6 → BitVec 14 → Instr) (f : Word → Word → Word) : Prop :=
  ∀ (s : State) (d a : BitVec 6) (imm : BitVec 14), s.Issues (mk d a imm) → s.CanRead a → s.CanWrite d →
    exec (mk d a imm) s = .next (s.doneG d (f (s.G a) (immExt s.payloads imm)))

/-- A word with one source completes with f of it in g[d]. -/
def Completes1 (mk : BitVec 6 → BitVec 6 → Instr) (f : Word → Word) : Prop :=
  ∀ (s : State) (d a : BitVec 6), s.Issues (mk d a) → s.CanRead a → s.CanWrite d →
    exec (mk d a) s = .next (s.doneG d (f (s.G a)))

/-- A word that acts on each element of width w of g[a] completes with a register whose every element is related to the
source's element by `rel w`. -/
def CompletesElems (mk : BitVec 6 → BitVec 6 → Width → Instr) (rel : Nat → Nat → Nat → Prop) : Prop :=
  ∀ (s : State) (d a : BitVec 6) (w : Width), s.Issues (mk d a w) → s.CanRead a → s.CanWrite d →
    ∃ v : Word, exec (mk d a w) s = .next (s.doneG d v) ∧
      ∀ i < 64 / w.bits, rel w.bits (elemAt w.bits (s.G a).toNat i) (elemAt w.bits v.toNat i)

/-- An atomic of `n` bytes at the local memory of its own core completes with the old value in g[d] and, where `new` gives
one, the new value in memory, and changes nothing else (R277 to R280). -/
def AtomicAtLocal (i : Instr) (d a b : BitVec 6) (n : Nat) (new : Nat → Nat → Nat → Option Nat) : Prop :=
  ∀ s : State, s.Issues i → s.CanRead a → s.CanRead b → s.CanRead d → s.LocalOk (s.G a) n → s.StoreHere → s.Settled →
    s.core.lm.wf = true → ∃ t : State, exec i s = .next t ∧
      t.G d = (if d = 0 then 0 else Word.ofN (s.localValue (refOffset (s.G a)) n)) ∧
      t.localValue (refOffset (s.G a)) n =
        (new (s.localValue (refOffset (s.G a)) n) ((s.G b).toNat % 2 ^ (8 * n)) ((s.G d).toNat % 2 ^ (8 * n))).getD
          (s.localValue (refOffset (s.G a)) n) ∧
      s.SameLocalBut t (refOffset (s.G a)) n ∧ s.SameButG t d ∧ t.unc = s.unc

/-- A reduction sends its operation to its site and completes: to a local memory, or to the bank where the object's frame
lies; nothing else changes (R281, R282). One at a line that is LOST traps (R343). -/
def SendsReduction (mk : Bool → BitVec 6 → BitVec 6 → Bool → Scope → Instr) : Prop :=
  (∀ (s : State) (dw : Bool) (a b : BitVec 6) (rel : Bool) (sc : Scope), s.Issues (mk dw a b rel sc) → s.CanRead a →
    s.CanRead b → s.LocalOk (s.G a) (if dw then 8 else 4) → s.Settled →
    exec (mk dw a b rel sc) s = .next (State.done { s with unc := { s.unc with bankOps :=
      [⟨s.core.id, s.ctx.num, false, rel, mk dw a b rel sc, .local s.core.id (refOffset (s.G a)), if dw then 8 else 4, s.G a,
        0, 0, 0, 0, s.G b, 0, 0, 0⟩] } })) ∧
  (∀ (s s₁ s₂ : State) (dw : Bool) (a b : BitVec 6) (sc : Scope) (d : Desc) (addr : Nat), s.Issues (mk dw a b false sc) →
    s.CanRead a → s.CanRead b → 16 ≤ refHandle (s.G a) → (s.G a).toNat % (if dw then 8 else 4) = 0 →
    Op.descriptor (s.self sc.num) (coreAcc (s.G a) (if dw then 8 else 4) 3) s = .ok (d, s₁) →
    Op.descCheck (s.self sc.num) (coreAcc (s.G a) (if dw then 8 else 4) 3) (rightR + rightW + rightA) d s₁ = .ok ((), s₁) →
    Op.locate (s.self sc.num) (coreAcc (s.G a) (if dw then 8 else 4) 3) d false s₁ = .ok (.bank addr, s₂) →
    s₂.twinned = false →
    (d.cls ≠ 0 → (s₂.dirEntry (addr / 128)).state = .lost → exec (mk dw a b false sc) s =
      .next (s.takeTrap (Trap.plain cLOST (s.G a) (Word.ofN (s₂.dirEntry (addr / 128)).reason)))) ∧
    ((d.cls = 0 ∨ (s₂.dirEntry (addr / 128)).state ≠ .lost) →
    exec (mk dw a b false sc) s = .next (State.done { s₂ with unc := { s₂.unc with bankOps := s₂.unc.bankOps ++
      [⟨s.core.id, s.ctx.num, false, false, mk dw a b false sc, .bank addr, if dw then 8 else 4, s.G a, d.cls, d.tensor, d.layout,
        d.profile, s.G b, 0, 0, 0⟩] } })))

/-- A conditional branch completes with the PC at its target when it is taken and at the next word otherwise. -/
def Branches (mk : BitVec 6 → BitVec 6 → BitVec 14 → Instr) (taken : Word → Word → Prop) : Prop :=
  ∀ (s : State) (c a : BitVec 6) (imm : BitVec 14), s.Issues (mk c a imm) → s.CanRead c → s.CanRead a →
    ∃ b : Bool, (b = true ↔ taken (s.G c) (s.G a)) ∧
      exec (mk c a imm) s = .next (s.finish (.branch b (branchTarget s.ctx.pc imm)))

/-! ### Vector words -/

/-- One vector instruction, or one special-function request, counted for the context in focus (R447, R448). -/
def State.counted (s : State) (entry : Nat) : State :=
  match Op.countVector entry s with
  | .ok (_, t) => t
  | .error _ => s

/-- A vector word has completed: with `v` in v[d], in g[d] or in k[d], or with no register written. -/
def State.doneVec (s : State) (d : BitVec 5) (v : VWord) : State := ((s.setCtx (s.ctx.setV d.toNat v)).counted 4).done
def State.doneVecG (s : State) (d : BitVec 5) (v : Word) : State := ((s.setCtx (s.ctx.setG d.toNat v)).counted 4).done
def State.doneVecK (s : State) (d : BitVec 3) (v : BitVec 32) : State := ((s.setCtx (s.ctx.setK d.toNat v)).counted 4).done
def State.doneVecNone (s : State) : State := (s.counted 4).done

/-- A vector register whose active elements, of width w, are f of their number, and whose inactive ones are `old`'s (R196). -/
def Masked (w : Nat) (k : BitVec 32) (old v : VWord) (f : Nat → Int) : Prop :=
  ∀ i < 256 / w, (elemAt w v.toNat i : Int) = if k.getLsbD i then f i % 2 ^ w else elemAt w old.toNat i

/-- A vector word with three, two or one vector sources completes with f of their elements, mod 2^w, in the active elements
of v[d]. -/
def CompletesV3 (mk : BitVec 5 → BitVec 5 → BitVec 5 → BitVec 5 → BitVec 3 → Instr) (w : Nat) (f : Nat → Nat → Nat → Int) :
    Prop :=
  ∀ (s : State) (d a b c : BitVec 5) (k : BitVec 3), s.Issues (mk d a b c k) → s.VReady a → s.VReady b → s.VReady c →
    s.VReady d → ∃ v : VWord, exec (mk d a b c k) s = .next (s.doneVec d v) ∧
      Masked w (s.K k) (s.V d) v fun i => f (elemAt w (s.V a).toNat i) (elemAt w (s.V b).toNat i) (elemAt w (s.V c).toNat i)

def CompletesV2 (mk : BitVec 5 → BitVec 5 → BitVec 5 → BitVec 3 → Instr) (w : Nat) (f : Nat → Nat → Int) : Prop :=
  ∀ (s : State) (d a b : BitVec 5) (k : BitVec 3), s.Issues (mk d a b k) → s.VReady a → s.VReady b → s.VReady d →
    ∃ v : VWord, exec (mk d a b k) s = .next (s.doneVec d v) ∧
      Masked w (s.K k) (s.V d) v fun i => f (elemAt w (s.V a).toNat i) (elemAt w (s.V b).toNat i)

def CompletesV1 (mk : BitVec 5 → BitVec 5 → BitVec 3 → Instr) (w : Nat) (f : Nat → Int) : Prop :=
  ∀ (s : State) (d a : BitVec 5) (k : BitVec 3), s.Issues (mk d a k) → s.VReady a → s.VReady d →
    ∃ v : VWord, exec (mk d a k) s = .next (s.doneVec d v) ∧
      Masked w (s.K k) (s.V d) v fun i => f (elemAt w (s.V a).toNat i)

/-- A special-function word, alone in its step, sends one request to its cluster's unit where an element is active, and v[d] is
pending until its result is written; with no active element it changes nothing; it waits while the queue is full (R218). -/
def SendsSfu (mk : BitVec 5 → BitVec 5 → BitVec 3 → Instr) : Prop :=
  ∀ (s : State) (d a : BitVec 5) (k : BitVec 3), s.Issues (mk d a k) → s.VReady a → s.VReady d →
    let cl := clusterOf s.core.slot
    (∀ x ∈ (s.sfu cl).queue, x.came ≠ s.tick) →
    ((s.K k).toNat % 256 = 0 → exec (mk d a k) s = .next s.doneVecNone) ∧
    ((s.K k).toNat % 256 ≠ 0 → (s.sfu cl).queue.length < Config.sfuEntries → ∃ t, exec (mk d a k) s = .next t ∧
      (t.sfu cl).queue = (s.sfu cl).queue ++ [⟨s.core.id, s.core.slot, s.ctx.num, s.tick, mk d a k, s.K k, s.V a⟩] ∧
      (t.sfu cl).started = (s.sfu cl).started ∧ t.ctx.pendV = s.ctx.pendV ||| (1#32 <<< d.toNat) ∧ t.ctx.v = s.ctx.v ∧
      t.ctx.g = s.ctx.g ∧ t.ctx.k = s.ctx.k ∧ s.SameSys t ∧ s.SameCoreRest t ∧ t.ctx.pc = s.ctx.pc + 4) ∧
    ((s.K k).toNat % 256 ≠ 0 → Config.sfuEntries ≤ (s.sfu cl).queue.length →
      exec (mk d a k) s = .next s.standStill)

/-- A code is that of the sum of the finite values (−1)^s m 2^e and (−1)^t n 2^g, exact and rounded once to the nearest, ties to
even; a zero sum is −0 only where both are negative (R68, R198). -/
def RoundsSum (f : Fmt) (code : Nat) (s : Bool) (m : Nat) (e : Int) (t : Bool) (n : Nat) (g : Int) : Prop :=
  let lo := min e g
  let part (neg : Bool) (a : Nat) (x : Int) : Int := (if neg then -1 else 1) * (a * 2 ^ (x - lo).toNat)
  let v := part s m e + part t n g
  code = if v = 0 then signCode f (s && t) else roundF f .rne 0 (decide (v < 0)) v.natAbs lo false

/-! ### Engine commands -/

/-- NOFOLD of the group in progress (R136). -/
def State.nofold (s : State) : Bool :=
  match s.ctx.pfx with
  | some p => p.nofold
  | none => false

/-- A matrix, copy or collective command entered in its queue with what it records at issue, its token register `t` pending
(R223, R295, R374). -/
def State.queueMatrix (s : State) (i : Instr) (x y z : Word) (t : BitVec 6) : State :=
  { s with core := { s.core with
      ctx := s.ctx.setPendG t.toNat true
      mx := { s.core.mx with queue := s.core.mx.queue ++
        [⟨i, s.ctx.num, x, y, z, s.ctx.sys.tensor, s.ctx.sys.sevpol, s.nofold⟩] } } }

def State.queueCopy (s : State) (i : Instr) (x y : Word) (t : BitVec 6) : State :=
  { s with core := { s.core with
      ctx := s.ctx.setPendG t.toNat true
      copies := { s.core.copies with queue := s.core.copies.queue ++ [⟨i, s.ctx.num, x, y, s.ctx.sys.sevpol, s.nofold⟩] } } }

def State.queueColl (s : State) (i : Instr) (x y : Word) (t : BitVec 6) : State :=
  { s with core := { s.core with
      ctx := s.ctx.setPendG t.toNat true
      coll := s.core.coll ++ [⟨i, s.ctx.num, x, y, s.ctx.sys.sevpol, none⟩] } }

/-- A matrix command of two register operands, or of one, records them and enters the matrix queue while it has room, and
waits else (R223). -/
def QueuesMatrix2 (mk : BitVec 6 → BitVec 6 → BitVec 6 → Instr) : Prop :=
  ∀ (s : State) (a b t : BitVec 6), s.Issues (mk a b t) → s.CanRead a → s.CanRead b → s.CanWrite t →
    s.unc.bankOps = [] → s.ctx.reports = [] →
    (s.core.mx.queue.length < 2 → exec (mk a b t) s = .next (s.queueMatrix (mk a b t) (s.G a) (s.G b) 0 t).done) ∧
    (2 ≤ s.core.mx.queue.length → exec (mk a b t) s = .next s.standStill)

def QueuesMatrix1 (mk : BitVec 6 → BitVec 6 → Instr) : Prop :=
  ∀ (s : State) (a t : BitVec 6), s.Issues (mk a t) → s.CanRead a → s.CanWrite t → s.unc.bankOps = [] → s.ctx.reports = [] →
    (s.core.mx.queue.length < 2 → exec (mk a t) s = .next (s.queueMatrix (mk a t) (s.G a) 0 0 t).done) ∧
    (2 ≤ s.core.mx.queue.length → exec (mk a t) s = .next s.standStill)

/-- A copy command records its operands and enters the copy queue while it has room, and waits else (R295). -/
def QueuesCopy (mk : BitVec 6 → BitVec 6 → BitVec 6 → Instr) : Prop :=
  ∀ (s : State) (a b t : BitVec 6), s.Issues (mk a b t) → s.CanRead a → s.CanRead b → s.CanWrite t →
    s.unc.bankOps = [] → s.ctx.reports = [] →
    (s.core.copies.queue.length < 2 → exec (mk a b t) s = .next (s.queueCopy (mk a b t) (s.G a) (s.G b) t).done) ∧
    (2 ≤ s.core.copies.queue.length → exec (mk a b t) s = .next s.standStill)

/-- The context's token register holds `v` and is not pending; a token register of 0 takes nothing (R224, R299). -/
def State.HasToken (s : State) (id : CoreId) (n : Nat) (r : BitVec 6) (v : Word) : Prop :=
  ∃ (c : LCore) (x : Ctx), s.findCore id = some c ∧ c.findCtx n = some x ∧
    (r ≠ 0 → x.gval r.toNat = v ∧ x.pendG.getLsbD r.toNat = false)

/-- Nothing outside the logical cores is changed but the package's counters. -/
def State.SameAround (s t : State) : Prop :=
  t.unc = s.unc ∧ t.disp = s.disp ∧ t.dies = s.dies ∧ t.cdies = s.cdies

/-! ### Fused gangs -/

/-- The members of the fused gang whose leader is in focus, in the order of GANGIX (R156). -/
def State.members (s : State) : List CoreId := (s.gang s.core).map (·.id)

/-- A member of the gang in focus, with its context of the same number. -/
def State.member (s : State) (id : CoreId) : State := s.focus id s.ctx.num

/-- Every member has entered a GANG trap with these bits (R157). -/
def State.gangSplit (s : State) (bs : List Bool) : State :=
  (s.members.foldl (init := s) fun (u : State) id =>
    (u.focus id s.ctx.num).takeTrap (Trap.plain cGANG 0 (Word.ofN (bitsOf bs)))).focus s.core.id s.ctx.num

/-- A conditional branch that some members of a gang take and some do not traps GANG in every member, with a bit for each
that takes it (R157). -/
def GangSplits (mk : BitVec 6 → BitVec 6 → BitVec 14 → Instr) (taken : Word → Word → Prop) : Prop :=
  ∀ (s : State) (c a : BitVec 6) (imm : BitVec 14) (bs : List Bool), s.ctx.live = true → s.waits = false →
    s.inGang = true →
    List.Forall₂ (fun id b => (s.member id).wordTrap (mk c a imm) = none ∧ (s.member id).CanRead c ∧
      (s.member id).CanRead a ∧ (b = true ↔ taken ((s.member id).G c) ((s.member id).G a))) s.members bs →
    true ∈ bs → false ∈ bs → exec (mk c a imm) s = .next (s.gangSplit bs)

end Sys2Proof.Machine
end

