-- ==== Sys2Proof/Certificates/Slice0/Obligations.lean ====
section
/-! DEFINITION. The statements for the provers: what the rules of the manual say of each instruction and event, of the
machine's step, its encodings and its reset. -/

open Sys2Proof Sys2Proof.Machine

/-! ### Encodings -/

/-- Words written out from the manual's own examples and encodings decode to the instructions they stand for: ADDI g5, g0
(R161), the three BIT words of the worked example of chapter 7, FENCE, WAIT, CPY. -/
def Obligations.KnownWordsDecode : Prop :=
  decodeWord 0x10501678 = .ok (.addi 5 0 0x1678) ∧
  decodeWord 0x0481C003 = .ok (.or 8 7 0) ∧
  decodeWord 0x0C816617 = .ok (.lop3 8 5 6 0x17) ∧
  decodeWord 0x0C914644 = .ok (.fshl 9 5 6 .w16 4) ∧
  decodeWord 0x0CA00030 = .ok (.clz 10 0 .w32) ∧
  decodeWord 0x50000F28 = .ok (.fence 15 .sys) ∧
  decodeWord 0x54500021 = .ok (.wait 5 1) ∧
  decodeWord 0x84518700 = .ok (.cpy 5 6 7)

/-- Decoding the word of a well-formed instruction gives the instruction back, whatever its operands. -/
def Obligations.DecodeOfEncode : Prop :=
  ∀ (i : Instr) (w : Nat), i.wf = true → encode i = some w → w < 2 ^ 32 ∧ decodeWord w = .ok i ∧ decodeTableWord 32 w = some i

/-- A word that decodes is the word of what it decodes to: a word with a nonzero reserved field, or of no encoding, is no
instruction (R7, R129). -/
def Obligations.EncodeOfDecode : Prop :=
  ∀ (w : Nat) (i : Instr), w < 2 ^ 32 → decodeWord w = .ok i → encode i = some w ∧ i.wf = true

/-! ### The step -/

/-- A step with the issuing logical core in focus runs the instruction that the word at the PC of its context decodes to, and
then time passes: of a context in the middle of its group the group's next word; else, where no other core is in the middle of
one, nothing comes at a boundary and
every word of its group can be fetched, the first word of the context that the core chooses. After the word the waits of YIELDs
are brought up to date, and a context that met a not-resident frame runs ahead. -/
def Obligations.StepRunsDecodedWord : Prop :=
  ∀ (s s₀ : State) (i : Instr) (t : State), s₀ = { s with agenda := [], stalled := false } →
    s.agenda = [.issue s.core.id] → s.issues s.core = true →
    ((s.ctx.live = true ∧ s.ctx.pfx.isSome = true) ∨
     (s.core.ctxs.find? (fun x => x.live && x.pfx.isSome) = none ∧ (∀ c ∈ s.peers, c.inGroup = false) ∧
      s₀.boundaryTurn = none ∧
      s.core.choose s₀.readyCtxs = some s.ctx.num ∧ s.ctx.pfx = none ∧ s₀.groupFetch groupBound = none)) →
    s.waits = false → s.ctx.ar = false → s.ctx.pc < s.core.xbound → s.core.lmFlips = [] →
    decodeWord s.wordHere = .ok i → exec i s₀ = .next t → t.stalled = false →
    step s = .next (((s₀.afterIssue t s₀.together s.ctx.num).runAhead s₀.together s.ctx.num).tickOn)

/-- No step is refused, and the only fault is that of a core word with no live context to execute it. -/
def Obligations.StepNeverRefuses : Prop :=
  ∀ s : State, (∀ r, step s ≠ .refused r) ∧ ∀ f, step s = .fault f → f = .noContext

/-! ### Reset and the memories -/

/-- Right after reset: the start state is 0 and not warm, no die is in service, the fence register (the level of every die)
is 0, the power limit is 3,600 W over 100 µs (R459, R462), every queue is disabled with priority 7, weight 1 and an empty
header (R76, R77), the slicing depth field is 3 and the quantum field 16 (R104), CYCLE of every die and TIMEUS are 0, and the migration registers hold their
reset values (R268). The memories have their canonical form at reset. -/
def Obligations.ResetLeaves : Prop :=
  (State.reset.pkg.start = .reset ∧ State.reset.pkg.warm = false ∧ (∀ d : Fin 8, State.reset.dies[d].ready = false) ∧
   State.reset.pkg.fence = 0 ∧
   State.reset.pkg.plim.bits 47 32 = 100 ∧ State.reset.pkg.plim.bits 15 0 = 3600 ∧ State.reset.pkg.powerDelayed = 0 ∧
   (∀ q : Fin 64, State.reset.disp.queues[q].en = false ∧ State.reset.disp.queues[q].priority = 7 ∧
     State.reset.disp.queues[q].weight = 1 ∧ State.reset.disp.queues[q].status = .stopped ∧
     State.reset.disp.queues[q].head = 0 ∧ State.reset.disp.queues[q].tail = 0 ∧ State.reset.disp.queues[q].appends = 0) ∧
   State.reset.disp.placeCtl.bits 21 16 = 3 ∧ State.reset.disp.placeCtl.bits 15 0 = 16 ∧
   (∀ d : Fin 8, State.reset.dies[d].cycle = 0) ∧ State.reset.timeUs = 0 ∧
   (∀ d : Fin 8, State.reset.dies[d].migc0.bits 63 48 = 8 ∧ State.reset.dies[d].migc0.bits 47 32 = 3 ∧
     State.reset.dies[d].migc0.bits 31 16 = 2 ∧ State.reset.dies[d].migc0.bits 15 0 = 4 ∧
     State.reset.dies[d].migc1.bits 63 32 = 512 ∧ State.reset.dies[d].migc1.bits 31 16 = 64 ∧
     State.reset.dies[d].migc1.getLsbD 0 = false)) ∧
  (State.reset.MemoriesWf)

/-- Every step keeps every memory (HBM, device-private, host, the spill areas, each local memory) in its canonical form. -/
def Obligations.StepKeepsMemoriesWf : Prop :=
  ∀ s t : State, s.MemoriesWf → step s = .next t → t.MemoriesWf

/-- Memory: a byte written is the byte read, every other byte reads as before, and the canonical form is kept, for single bytes and for values of n bytes (R3). -/
def Obligations.MemoryReadsWhatWasWritten : Prop :=
  (∀ (m : Memory) (a b : Nat) (v : Byte), m.wf = true →
    (m.set a v).wf = true ∧ (m.set a v).get a = v ∧ (b ≠ a → (m.set a v).get b = m.get b)) ∧
  (∀ (m : Memory) (a n v : Nat), m.wf = true →
    (m.store a n v).wf = true ∧ (m.store a n v).value a n = v % 2 ^ (8 * n) ∧
    ∀ b, b < a ∨ a + n ≤ b → (m.store a n v).get b = m.get b)

/-! ### Scalar words -/

/-- The ALU words write the values of R158's table, in its own arithmetic, and complete on every operand. The divides of
R159 complete on every operand, a zero divisor included, and none traps. The ALUW words of R160: 32-bit results, sign-
extended. -/
def Obligations.AluResults : Prop :=
  (Completes2 .add (fun x y => Word.ofN (x.toNat + y.toNat)) ∧
   Completes2 .sub (fun x y => Word.ofI ((x.toNat : Int) - y.toNat)) ∧
   Completes2 .and (fun x y => x &&& y) ∧
   Completes2 .or (fun x y => x ||| y) ∧
   Completes2 .xor (fun x y => x ^^^ y) ∧
   Completes2 .andn (fun x y => x &&& ~~~y) ∧
   Completes2 .orn (fun x y => x ||| ~~~y) ∧
   Completes2 .xnor (fun x y => ~~~(x ^^^ y)) ∧
   Completes2 .shl (fun x y => Word.ofN (x.toNat * 2 ^ y.bits 5 0)) ∧
   Completes2 .shr (fun x y => Word.ofN (x.toNat / 2 ^ y.bits 5 0)) ∧
   Completes2 .sar (fun x y => Word.ofI (x.toInt / 2 ^ y.bits 5 0)) ∧
   Completes2 .rol (fun x y => Word.ofN (x.toNat * 2 ^ y.bits 5 0 % 2 ^ 64 + x.toNat * 2 ^ y.bits 5 0 / 2 ^ 64)) ∧
   Completes2 .ror (fun x y => Word.ofN (x.toNat / 2 ^ y.bits 5 0 + x.toNat % 2 ^ y.bits 5 0 * 2 ^ (64 - y.bits 5 0))) ∧
   Completes2 .slt (fun x y => if x.toInt < y.toInt then 1 else 0) ∧
   Completes2 .sltu (fun x y => if x.toNat < y.toNat then 1 else 0) ∧
   Completes2 .seq (fun x y => if x = y then 1 else 0) ∧
   Completes2 .sne (fun x y => if x = y then 0 else 1) ∧
   Completes2 .minS (fun x y => Word.ofI (min x.toInt y.toInt)) ∧
   Completes2 .maxS (fun x y => Word.ofI (max x.toInt y.toInt)) ∧
   Completes2 .minU (fun x y => Word.ofN (min x.toNat y.toNat)) ∧
   Completes2 .maxU (fun x y => Word.ofN (max x.toNat y.toNat)) ∧
   Completes2 .mul (fun x y => Word.ofI (x.toInt * y.toInt)) ∧
   Completes2 .mulh (fun x y => Word.ofI (x.toInt * y.toInt / 2 ^ 64)) ∧
   Completes2 .mulhu (fun x y => Word.ofN (x.toNat * y.toNat / 2 ^ 64))) ∧
  (Completes2 .div (fun x y => if y = 0 then Word.ofN (2 ^ 64 - 1) else Word.ofI (Int.tdiv x.toInt y.toInt)) ∧
   Completes2 .divu (fun x y => if y = 0 then Word.ofN (2 ^ 64 - 1) else Word.ofN (x.toNat / y.toNat)) ∧
   Completes2 .rem (fun x y => if y = 0 then x else Word.ofI (x.toInt - y.toInt * Int.tdiv x.toInt y.toInt)) ∧
   Completes2 .remu (fun x y => if y = 0 then x else Word.ofN (x.toNat % y.toNat))) ∧
  (Completes2 .addw (fun x y => (BitVec.ofNat 32 (x.bits 31 0 + y.bits 31 0)).signExtend 64) ∧
   Completes2 .subw (fun x y => (BitVec.ofInt 32 ((x.bits 31 0 : Int) - y.bits 31 0)).signExtend 64) ∧
   Completes2 .shlw (fun x y => (BitVec.ofNat 32 (x.bits 31 0 * 2 ^ y.bits 4 0)).signExtend 64) ∧
   Completes2 .shrw (fun x y => (BitVec.ofNat 32 (x.bits 31 0 / 2 ^ y.bits 4 0)).signExtend 64) ∧
   Completes2 .sarw (fun x y => (BitVec.ofInt 32 ((x.setWidth 32).toInt / 2 ^ y.bits 4 0)).signExtend 64) ∧
   Completes2 .mulw (fun x y => (BitVec.ofNat 32 (x.bits 31 0 * y.bits 31 0)).signExtend 64))

/-- The immediate forms of R161 and R162; the immediate is that of R133 where IMMX words stand before the word. An IMMX word
completes in every context that may issue: the PC goes on, no register changes, and its payload stands for the word after it. -/
def Obligations.ImmediateResults : Prop :=
  CompletesImm .addi (fun x y => Word.ofN (x.toNat + y.toNat)) ∧
  CompletesImm .andi (fun x y => x &&& y) ∧
  CompletesImm .ori (fun x y => x ||| y) ∧
  CompletesImm .xori (fun x y => x ^^^ y) ∧
  CompletesImm .slti (fun x y => if x.toInt < y.toInt then 1 else 0) ∧
  CompletesImm .sltiu (fun x y => if x.toNat < y.toNat then 1 else 0) ∧
  (∀ n : BitVec 6, Completes1 (fun d a => .shli d a n) (fun x => Word.ofN (x.toNat * 2 ^ n.toNat))) ∧
  (∀ n : BitVec 6, Completes1 (fun d a => .shri d a n) (fun x => Word.ofN (x.toNat / 2 ^ n.toNat))) ∧
  (∀ n : BitVec 6, Completes1 (fun d a => .sari d a n) (fun x => Word.ofI (x.toInt / 2 ^ n.toNat))) ∧
  (∀ n : BitVec 6, Completes1 (fun d a => .rori d a n)
    (fun x => Word.ofN (x.toNat / 2 ^ n.toNat + x.toNat % 2 ^ n.toNat * 2 ^ (64 - n.toNat)))) ∧
  (∀ f : BitVec 14, immExt [] f = f.signExtend 64) ∧
  (∀ (p : BitVec 22) (f : BitVec 14), immExt [p] f = (p ++ f).signExtend 64) ∧
  (∀ (p q : BitVec 22) (f : BitVec 14), immExt [p, q] f = (p ++ q ++ f).signExtend 64) ∧
  (∀ (s : State) (p : BitVec 22), s.ctx.live = true → s.ctx.wait = none → s.inGang = false →
    ∃ t, exec (.immx p) s = .next t ∧ t.ctx.pc = s.ctx.pc + 4 ∧ t.ctx.g = s.ctx.g ∧ t.ctx.v = s.ctx.v ∧ t.ctx.k = s.ctx.k ∧
      (s.payloads.length < 2 → t.payloads = s.payloads ++ [p]))

/-- LOP3 (R164): bit i of the result is bit 7 − (4x[i] + 2y[i] + d[i]) of the table, d the old destination. -/
def Obligations.Lop3Result : Prop :=
  ∀ (s : State) (d a : BitVec 6) (b : BitVec 5) (t : BitVec 8), s.Issues (.lop3 d a b t) → s.CanRead a →
    s.CanRead (b.setWidth 6) → s.CanRead d →
    ∃ v : Word, exec (.lop3 d a b t) s = .next (s.doneG d v) ∧
      ∀ i < 64, v.getLsbD i =
        t.getLsbD (7 - (4 * ((s.G a).getLsbD i).toNat + 2 * ((s.G (b.setWidth 6)).getLsbD i).toNat + ((s.G d).getLsbD i).toNat))

/-- FSHL (R165) and the unary words (R166), element by element. EXTZ, EXTS and DEP (R167), for every position and length
that an encoding admits. -/
def Obligations.PackedBitAndFieldResults : Prop :=
  ((∀ (s : State) (d a : BitVec 6) (b : BitVec 5) (w : Width) (n : BitVec 6), s.Issues (.fshl d a b w n) → s.CanRead a →
     s.CanRead (b.setWidth 6) → s.CanWrite d → n.toNat < w.bits →
     ∃ v : Word, exec (.fshl d a b w n) s = .next (s.doneG d v) ∧
       ∀ i < 64 / w.bits, elemAt w.bits v.toNat i =
         (elemAt w.bits (s.G a).toNat i * 2 ^ w.bits + elemAt w.bits (s.G (b.setWidth 6)).toNat i) * 2 ^ n.toNat
           / 2 ^ w.bits % 2 ^ w.bits) ∧
   CompletesElems .clz (fun w e r => r ≤ w ∧ e < 2 ^ (w - r) ∧ (r < w → 2 ^ (w - r - 1) ≤ e)) ∧
   CompletesElems .ctz (fun w e r => r ≤ w ∧ (∀ j < r, e.testBit j = false) ∧ (r < w → e.testBit r = true)) ∧
   CompletesElems .popc (fun w e r => r = ((List.range w).filter fun j => e.testBit j).length) ∧
   CompletesElems .ffs (fun _ e r => (e = 0 → r = 0) ∧
     (e ≠ 0 → 1 ≤ r ∧ e.testBit (r - 1) = true ∧ ∀ j < r - 1, e.testBit j = false)) ∧
   CompletesElems .brev (fun w e r => ∀ j < w, r.testBit (w - 1 - j) = e.testBit j) ∧
   CompletesElems .bswap (fun w e r => ∀ j < w / 8, r / 2 ^ (8 * (w / 8 - 1 - j)) % 256 = e / 2 ^ (8 * j) % 256)) ∧
  ((∀ p l : BitVec 6, p.toNat + l.toNat + 1 ≤ 64 →
     Completes1 (fun d a => .extz d a p l) (fun x => Word.ofN (x.toNat / 2 ^ p.toNat % 2 ^ (l.toNat + 1)))) ∧
   (∀ p l : BitVec 6, p.toNat + l.toNat + 1 ≤ 64 →
     Completes1 (fun d a => .exts d a p l) (fun x => Word.ofI ((BitVec.ofNat (l.toNat + 1) (x.toNat / 2 ^ p.toNat)).toInt))) ∧
   (∀ (s : State) (d a p l : BitVec 6), p.toNat + l.toNat + 1 ≤ 64 → s.Issues (.dep d a p l) → s.CanRead a → s.CanRead d →
     ∃ v : Word, exec (.dep d a p l) s = .next (s.doneG d v) ∧
       ∀ i < 64, v.getLsbD i =
         if p.toNat ≤ i ∧ i ≤ p.toNat + l.toNat then (s.G a).getLsbD (i - p.toNat) else (s.G d).getLsbD i))

/-! ### Branches, jumps and hints -/

/-- The conditional branches of R168: taken to their own offset + sext(imm14) × 4 mod 2^20, else on to the next word; no
register changes. JAL and JALR (R169, R170): the link register receives the word's own offset + 4, and the PC the
target; a JALR target that is no multiple of 4 or not below 0x10_0000 traps MISAL with EADDR the target, and writes
nothing. -/
def Obligations.BranchAndJumpOutcomes : Prop :=
  (Branches .beq (fun x y => x = y) ∧
   Branches .bne (fun x y => x ≠ y) ∧
   Branches .blt (fun x y => x.toInt < y.toInt) ∧
   Branches .bge (fun x y => y.toInt ≤ x.toInt) ∧
   Branches .bltu (fun x y => x.toNat < y.toNat) ∧
   Branches .bgeu (fun x y => y.toNat ≤ x.toNat) ∧
   (∀ (pc : BitVec 21) (imm : BitVec 14),
     ((branchTarget pc imm).toNat : Int) = (pc.toNat + imm.toInt * 4) % 2 ^ 20) ∧
   (∀ (s : State) (b : Bool) (t : BitVec 21),
     (s.finish (.branch b t)).ctx.pc = (if b then t else s.ctx.pc + 4) ∧ (s.finish (.branch b t)).ctx.g = s.ctx.g ∧
     s.SameVK (s.finish (.branch b t)) ∧ s.SameSys (s.finish (.branch b t)) ∧ s.SameCoreRest (s.finish (.branch b t)) ∧
     s.SameOutside (s.finish (.branch b t)))) ∧
  ((∀ (s : State) (imm : BitVec 26), s.Issues (.jal imm) → s.CanWrite 1 →
     exec (.jal imm) s = .next ((s.setCtx (s.ctx.setG 1 (Word.ofN (s.ctx.pc.toNat + 4)))).finish (.jump (jalTarget s.ctx.pc imm)))) ∧
   (∀ (pc : BitVec 21) (imm : BitVec 26), ((jalTarget pc imm).toNat : Int) = (pc.toNat + imm.toInt * 4) % 2 ^ 20) ∧
   (∀ (s : State) (d a : BitVec 6) (imm : BitVec 14), s.Issues (.jalr d a imm) → s.CanRead a → s.CanWrite d →
     (s.G a + imm.signExtend 64).toNat % 4 = 0 → (s.G a + imm.signExtend 64).toNat < 0x100000 →
     exec (.jalr d a imm) s = .next ((s.setCtx (s.ctx.setG d.toNat (Word.ofN (s.ctx.pc.toNat + 4)))).finish
       (.jump ((s.G a + imm.signExtend 64).setWidth 21)))) ∧
   (∀ (s : State) (d a : BitVec 6) (imm : BitVec 14), s.Issues (.jalr d a imm) → s.CanRead a → s.CanWrite d →
     ((s.G a + imm.signExtend 64).toNat % 4 ≠ 0 ∨ 0x100000 ≤ (s.G a + imm.signExtend 64).toNat) →
     ∃ info, exec (.jalr d a imm) s = .next (s.takeTrap (Trap.plain cMISAL (s.G a + imm.signExtend 64) info))))

/-- The prefix words IMMX, LIKELY and NOFOLD in a context alone (R132, R133, R135, R136): each is recorded in the group that
begins with the first of them, the PC goes on, and nothing else changes; one too many marks the group as one with too many
prefixes, whose last word is ILL. The hints that stand alone: PRIO sets the level (R137), REV 1 the revision, and any other REV
raises ARCH with the revision it names (R138, R411); NOP and HNOP change nothing (R140); SPIN makes its context wait where its
reference can be watched and no enabled event is pending, and changes nothing otherwise (R139). -/
def Obligations.PrefixAndHintWords : Prop :=
  (∀ s : State, s.ctx.live = true → s.ctx.wait = none → s.inGang = false →
     (∀ p : BitVec 22, ∃ q : Pfx, exec (.immx p) s = .next { s with
         core := { s.core with ctx := { s.ctx with pfx := some q, pc := s.ctx.pc + 4 }, last := s.ctx.num }, stalled := false } ∧
       q.start = s.ctx.groupStart ∧ (s.payloads.length < 2 → q.immx = s.payloads ++ [p]) ∧
       (2 ≤ s.payloads.length → q.excess = true)) ∧
     (∀ b : Bool, ∃ q : Pfx, exec (.likely b) s = .next { s with
         core := { s.core with ctx := { s.ctx with pfx := some q, pc := s.ctx.pc + 4 }, last := s.ctx.num }, stalled := false } ∧
       q.start = s.ctx.groupStart ∧ q.immx = s.payloads ∧ (s.ctx.pfx = none → q.likely = some b ∧ q.excess = false) ∧
       (∀ p, s.ctx.pfx = some p → p.likely.isSome = true → q.excess = true)) ∧
     (∃ q : Pfx, exec .nofold s = .next { s with
         core := { s.core with ctx := { s.ctx with pfx := some q, pc := s.ctx.pc + 4 }, last := s.ctx.num }, stalled := false } ∧
       q.start = s.ctx.groupStart ∧ q.immx = s.payloads ∧ q.nofold = true ∧ (s.ctx.pfx = none → q.excess = false) ∧
       (∀ p, s.ctx.pfx = some p → p.nofold = true → q.excess = true))) ∧
  ((∀ (s : State) (n : BitVec 3), s.Issues (.prio n) →
     exec (.prio n) s = .next (s.setCtx { s.ctx with level := n }).done) ∧
   (∀ s : State, s.Issues (.rev 1) → exec (.rev 1) s = .next (s.setCtx { s.ctx with revn := 1 }).done) ∧
   (∀ (s : State) (n : BitVec 8), s.Issues (.rev n) → n ≠ 1 → ∃ info : Word,
     exec (.rev n) s = .next (s.takeTrap (Trap.plain cARCH (Word.ofN s.ctx.pc.toNat) info)) ∧
     info.bits 63 62 = 2 ∧ info.bits 39 32 = n.toNat ∧ info.bits 31 0 = 0xFC800000 + n.toNat) ∧
   (∀ (s : State) (k : BitVec 4) (p : BitVec 22), s.Issues (.hnop k p) → exec (.hnop k p) s = .next s.done) ∧
   (∀ (c : Ctx) (p : Pfx) (i : Instr), c.pfx = some p → p.excess = true → c.groupIll i = true) ∧
   (∀ (s : State) (a : BitVec 6) (w : Watch), s.Issues (.spin a) → s.CanRead a → s.spinWatch (s.G a) = some w →
     s.ctx.sys.events &&& s.ctx.sys.evmask = 0 →
     exec (.spin a) s = .next (s.setCtx { s.ctx with wait := some (.spin (s.G a) w false s.cycle) }).done) ∧
   (∀ (s : State) (a : BitVec 6), s.Issues (.spin a) → s.CanRead a →
     (s.spinWatch (s.G a) = none ∨ s.ctx.sys.events &&& s.ctx.sys.evmask ≠ 0) → exec (.spin a) s = .next s.done))

/-! ### Traps -/

/-- A fetched word that is ILL traps ILL with EADDR its offset and EINFO the word and the revision (R129, R397, R399); a
fetch at or above XBOUND traps XFETCH with EADDR the offset and EINFO the XBOUND in force, no word having issued (R119, R120, R153). Every encoded
word that is no prefix: where its group breaks the prefix rules it traps ILL, and else, where ARCHMAP lists its major,
it traps ARCH, before any check of its own, with EADDR its offset and EINFO the word (R130, R132, R412). -/
def Obligations.FetchChecksTrap : Prop :=
  ((∀ (s : State) (w : BitVec 32), s.ctx.live = true → s.ctx.wait = none → s.inGang = false → ∃ info : Word,
     exec (.ill w) s = .next (s.takeTrap (Trap.plain cILL (Word.ofN s.ctx.pc.toNat) info)) ∧
     info.bits 63 62 = 2 ∧ info.bits 61 40 = 0 ∧ info.bits 39 32 = s.ctx.revn.toNat ∧ info.bits 31 0 = w.toNat) ∧
   (∀ (s : State) (off : BitVec 21), s.ctx.live = true → s.ctx.wait = none → s.inGang = false →
     exec (.xfetch off) s = .next (s.takeTrapAt (Trap.plain cXFETCH (Word.ofN off.toNat) (Word.ofN s.core.xbound.toNat))))) ∧
  (∀ (s : State) (i : Instr) (w : Nat), encode i = some w → i.isPrefix = false →
     s.ctx.live = true → s.ctx.wait = none → s.inGang = false →
     (s.ctx.groupIll i = true →
       exec i s = .next (s.takeTrap (Trap.plain cILL (Word.ofN s.ctx.pc.toNat) (wordInfo s.ctx.revn w)))) ∧
     (s.ctx.groupIll i = false → s.ctx.ar = false → s.ctx.byp = false → s.core.archmap.getLsbD i.major = true →
       exec i s = .next (s.takeTrap (Trap.plain cARCH (Word.ofN s.ctx.pc.toNat) (wordInfo s.ctx.revn w)))))

/-- TRAP ENTRY (R396, R398): a trap that is not terminal saves the group's offset, the cause, EADDR and EINFO, moves S to PS,
sets TI and the home mode, and goes to TRAPV; no other register, no memory and nothing outside the core changes. -/
def Obligations.TrapEntry : Prop :=
  ∀ (s : State) (cause : Nat) (ea ei : Word), cause < 0x100 → cause ≠ cSTRUCT → cause ≠ cLOST → cause ≠ cXFETCH → cause ≠ cARCH →
    s.ctx.ti = false → s.ctx.sys.trapv.bits 19 2 ≠ 0 →
    let t := s.takeTrap (Trap.plain cause ea ei)
    t.ctx.pc = BitVec.ofNat 21 s.ctx.sys.trapv.toNat ∧
    t.ctx.sys = { s.ctx.sys with
      epc := Word.ofN (s.ctx.groupStart.toNat % 2 ^ 20), ecause := Word.ofN cause, eaddr := ea, einfo := ei
      svclvl := svclvlOf true s.ctx.supervisor s.homeHere } ∧
    t.ctx.g = s.ctx.g ∧ s.SameVK t ∧ t.ctx.level = s.ctx.level ∧ t.ctx.revn = s.ctx.revn ∧ t.ctx.pfx = none ∧
    t.ctx.live = s.ctx.live ∧ t.stalled = false ∧ s.SameCoreRest t ∧ s.SameOutside t

/-- The other entries of R396: XFETCH goes to OVLH where that is nonzero, below XBOUND and not in use, whatever TRAPV holds
(R120), and otherwise to a nonzero TRAPV; ARCH goes to the Archaism routine of the word's major, in supervisor mode with AR set,
where the store's entry is valid, names revision 1 and so does EINFO (R412, R413), and otherwise to a nonzero TRAPV with AR as it
was. -/
def Obligations.OverlayAndArchaismEntry : Prop :=
  (∀ (s : State) (ea ei : Word), s.ctx.sys.ovlh ≠ 0 → s.ctx.sys.ovlh.toNat < s.core.xbound.toNat → s.ctx.ovlActive = false →
    s.ctx.ti = false →
    let t := s.takeTrap (Trap.plain cXFETCH ea ei)
    t.ctx.pc = BitVec.ofNat 21 s.ctx.sys.ovlh.toNat ∧ t.ctx.ovlActive = true ∧ t.ctx.ti = true ∧ t.ctx.sys.eaddr = ea ∧
    t.ctx.sys.einfo = ei ∧ t.ctx.g = s.ctx.g ∧ s.SameVK t ∧ s.SameCoreRest t ∧ s.SameOutside t) ∧
  (∀ (s : State) (ea ei : Word), s.ctx.sys.trapv.bits 19 2 ≠ 0 →
    (s.ctx.ovlActive = true ∨
      (s.ctx.ti = false ∧ (s.ctx.sys.ovlh = 0 ∨ s.core.xbound.toNat ≤ s.ctx.sys.ovlh.toNat))) →
    (s.takeTrap (Trap.plain cXFETCH ea ei)).ctx.pc = BitVec.ofNat 21 s.ctx.sys.trapv.toNat ∧
    (s.takeTrap (Trap.plain cXFETCH ea ei)).ctx.ovlActive = s.ctx.ovlActive) ∧
  (∀ (s : State) (ea ei : Word), s.ctx.sys.trapv.bits 19 2 ≠ 0 → s.ctx.ti = false →
    (s.routine (dieOf s.core.slot) (ei.bits 31 26) = none ∨ ei.bits 39 32 ≠ 1) →
    (s.takeTrap (Trap.plain cARCH ea ei)).ctx.pc = BitVec.ofNat 21 s.ctx.sys.trapv.toNat ∧
    (s.takeTrap (Trap.plain cARCH ea ei)).ctx.ar = s.ctx.ar) ∧
  (∀ (s : State) (ea ei : Word) (r : BitVec 21), s.routine (dieOf s.core.slot) (ei.bits 31 26) = some r →
    ei.bits 39 32 = 1 → s.ctx.ti = false →
    let t := s.takeTrap (Trap.plain cARCH ea ei)
    t.ctx.pc = r ∧ t.ctx.ar = true ∧ t.ctx.supervisor = true ∧ t.ctx.ti = true ∧ t.ctx.ps = s.ctx.supervisor ∧
    t.ctx.g = s.ctx.g ∧ s.SameVK t ∧ s.SameCoreRest t ∧ s.SameOutside t)

/-- TERMINAL TRAPS (R400): STRUCT and LOST always; any cause but an event's while TI is set (an XFETCH after entry at OVLH
excepted); any cause but one that enters OVLH or a routine while TRAPV[19:2] is 0. A STRUCT in a task with SNAP
records its registers and leads to the rollback; otherwise the registers are recorded and the task fails with them. -/
def Obligations.TerminalTraps : Prop :=
  (∀ (s : State) (ea ei : Word), s.terminal (Trap.plain cSTRUCT ea ei) = true ∧ s.terminal (Trap.plain cLOST ea ei) = true) ∧
  (∀ (s : State) (cause : Nat) (ea ei : Word), cause < 0x100 → cause ≠ cXFETCH → cause ≠ cARCH → cause ≠ cSTRUCT →
    cause ≠ cLOST →
    (s.terminal (Trap.plain cause ea ei) = true ↔
      s.ctx.sys.trapv.bits 19 2 = 0 ∨ (s.ctx.ti = true ∧ cause ≠ cBROKEN ∧ cause ≠ cMAIL ∧ cause ≠ cHANDBACK))) ∧
  (∀ (s : State) (ea ei : Word), s.snapTask = true →
    let t := s.takeTrap (Trap.plain cSTRUCT ea ei)
    t.ctx.wait = some .rollback ∧ t.core.rollbackDue = some .struct ∧
    t.ctx.sys = { s.ctx.sys with
      epc := Word.ofN (s.ctx.groupStart.toNat % 2 ^ 20), ecause := Word.ofN cSTRUCT, eaddr := ea, einfo := ei } ∧
    t.ctx.pc = s.ctx.pc ∧ t.ctx.g = s.ctx.g ∧ s.SameVK t ∧ s.SameOutside t) ∧
  (∀ (s u : State) (t : Trap), t.log = none → t.gone = none → s.terminal t = true →
    (t.cause.toNat = cSTRUCT → s.snapTask = false) →
    Op.failTask s.core.id.task (State.trapWords { s with stalled := false } t)
      (State.setCtx { s with stalled := false } (s.ctx.record t)) = .ok ((), u) →
    s.takeTrap t = u ∧ (t.report = none → (s.ctx.record t).g = s.ctx.g ∧
      (s.ctx.record t).sys = { s.ctx.sys with
        epc := Word.ofN (s.ctx.groupStart.toNat % 2 ^ 20), ecause := Word.ofN t.cause.toNat, eaddr := t.eaddr, einfo := t.einfo }))

/-- TRAP and ERET (R181, R182, R413): TRAP traps SWTRAP with EINFO its code; ERET takes the PC from EPC, clears TI, restores
S from PS in supervisor mode and never enters it from task mode, and leaves every other register as it was. -/
def Obligations.TrapAndEretWords : Prop :=
  (∀ (s : State) (c : BitVec 8), s.Issues (.trap c) →
    exec (.trap c) s = .next (s.takeTrap (Trap.plain cSWTRAP 0 (Word.ofN c.toNat)))) ∧
  (∀ s : State, s.Issues .eret → ∃ t, exec .eret s = .next t ∧
    t.ctx.pc = BitVec.ofNat 21 s.ctx.sys.epc.toNat ∧ t.ctx.ti = false ∧ t.ctx.ps = s.ctx.ps ∧
    t.ctx.supervisor = (s.ctx.supervisor && s.ctx.ps) ∧ t.ctx.ar = false ∧ t.ctx.byp = s.ctx.ar ∧ t.ctx.ovlActive = false ∧
    t.ctx.sys = { s.ctx.sys with svclvl := t.ctx.sys.svclvl } ∧ t.ctx.g = s.ctx.g ∧ s.SameVK t ∧
    t.ctx.level = s.ctx.level ∧ t.ctx.revn = s.ctx.revn ∧ s.SameCoreRest t ∧ s.SameOutside t)

/-! ### Contexts -/

/-- START, STOP and JOIN (R172 to R175). START of a free helper within the helper count makes it live at its entry, with
g3 the argument and every other general register, every vector register and every mask register but k0 zero, level 3, no event
pending or enabled, the registers of a trap zero, RKEY the seed, TENSOR its starter's, TRAPV its own and the home mode, and its
starter goes on; an entry that is no code offset traps MISAL; a helper number above the count, or a live helper, traps ILL with
its reason. STOP of another context asks it to end where it is live; of itself it traps ILL. JOIN of a context that is not live
reads its g3, once no write to that is on its way, and zero where there is none of that number; of a live one it waits; of itself it traps ILL. -/
def Obligations.HelperWords : Prop :=
  (∀ (s : State) (n a b : BitVec 6) (h : Ctx), s.Issues (.start n a b) → s.CanRead a → s.CanRead b →
    s.ctx.num ≠ n.toNat → s.core.findCtx n.toNat = some h → h.live = false → n.toNat ≤ s.core.regs.helpers →
    (s.G a).toNat % 4 = 0 → (s.G a).toNat < 0x100000 →
    ∃ (t : State) (x : Ctx), exec (.start n a b) s = .next t ∧ t.core.findCtx n.toNat = some x ∧ x.live = true ∧
      x.pc = (s.G a).setWidth 21 ∧ x.gval 3 = s.G b ∧ (∀ m, m ≠ 3 → x.gval m = 0) ∧ (∀ m, x.vval m = 0) ∧
      (∀ m, m ≠ 0 → x.kval m = 0) ∧ x.level = 3 ∧
      x.sys.evmask = 0 ∧ x.sys.events = 0 ∧ x.sys.epc = 0 ∧ x.sys.ecause = 0 ∧ x.sys.eaddr = 0 ∧ x.sys.einfo = 0 ∧
      x.sys.rkey = s.core.regs.seed ∧ x.sys.tensor = s.ctx.sys.tensor ∧ x.sys.trapv = h.sys.trapv ∧
      x.supervisor = s.homeHere ∧ t.ctx.pc = s.ctx.pc + 4 ∧ t.ctx.g = s.ctx.g ∧ s.SameSys t ∧
      s.SameOutside t) ∧
  (∀ (s : State) (n a b : BitVec 6) (h : Ctx), s.Issues (.start n a b) → s.CanRead a → s.CanRead b →
    s.core.findCtx n.toNat = some h → h.live = false → n.toNat ≤ s.core.regs.helpers →
    ((s.G a).toNat % 4 ≠ 0 ∨ 0x100000 ≤ (s.G a).toNat) →
    ∃ info, exec (.start n a b) s = .next (s.takeTrap (Trap.plain cMISAL (s.G a) info))) ∧
  (∀ (s : State) (n a b : BitVec 6), s.Issues (.start n a b) → s.CanRead a → s.CanRead b → s.core.regs.helpers < n.toNat →
    exec (.start n a b) s = .next (s.takeTrap (Trap.plain cILL 0 (Word.ofN (0x10 + n.toNat))))) ∧
  (∀ (s : State) (n a b : BitVec 6) (h : Ctx), s.Issues (.start n a b) → s.CanRead a → s.CanRead b →
    n.toNat ≤ s.core.regs.helpers → s.core.findCtx n.toNat = some h → h.live = true →
    exec (.start n a b) s = .next (s.takeTrap (Trap.plain cILL 0 (Word.ofN (0x20 + n.toNat))))) ∧
  (∀ (s : State) (n : BitVec 6), s.Issues (.stop n) → s.ctx.num ≠ n.toNat →
    exec (.stop n) s = .next (State.done { s with core := s.core.mapCtx n.toNat fun h => { h with stopReq := h.live } })) ∧
  (∀ (s : State) (n : BitVec 6), s.Issues (.stop n) → s.ctx.num = n.toNat →
    exec (.stop n) s = .next (s.takeTrap (Trap.plain cILL 0 (Word.ofN (0x30 + n.toNat))))) ∧
  (∀ (s : State) (d n : BitVec 6) (h : Ctx), s.Issues (.join d n) → s.CanWrite d → s.ctx.num ≠ n.toNat →
    s.core.findCtx n.toNat = some h → h.live = false →
    exec (.join d n) s = .next (if h.pendG.getLsbD 3 then s.standStill else s.doneG d (h.gval 3))) ∧
  (∀ (s : State) (d n : BitVec 6), s.Issues (.join d n) → s.CanWrite d → s.core.findCtx n.toNat = none →
    exec (.join d n) s = .next (s.doneG d 0)) ∧
  (∀ (s : State) (d n : BitVec 6) (h : Ctx), s.Issues (.join d n) → s.ctx.num ≠ n.toNat →
    s.core.findCtx n.toNat = some h → h.live = true → exec (.join d n) s = .next s.standStill) ∧
  (∀ (s : State) (d n : BitVec 6), s.Issues (.join d n) → s.ctx.num = n.toNat →
    exec (.join d n) s = .next (s.takeTrap (Trap.plain cILL 0 (Word.ofN (0x30 + n.toNat)))))

/-- END, YIELD, SPLIT, FUSE and HALT (R176 to R178, R184). END of a context with nothing outstanding makes it not live (a
helper; context 0 of a core that uses no channel once no helper is live), and waits for its engine commands. YIELD waits for the
other contexts that may issue. SPLIT and FUSE in a gang of one change nothing; a member of a larger gang that is split issues SPLIT
with no effect, and its FUSE waits at its own offset until every member has come to theirs; both trap ILL in a helper. HALT in task
mode traps PRIV, in a handler it completes once an enabled event is pending, and it waits while none is. PRIO, REV 1, HNOP and SPIN
complete in every context that issues alone: PRIO sets the level (R137), REV the revision (R138), HNOP changes nothing (R140), SPIN
no register (R139); so do the prefixes LIKELY and NOFOLD, which stand for the word after them (R135, R136). -/
def Obligations.ContextWords : Prop :=
  (∀ s : State, s.Issues .endCtx → s.core.enginePending s.ctx.num = false → s.unc.bankOps = [] → s.ctx.reports = [] →
    (s.ctx.num ≠ 0 ∨ ((∀ x ∈ s.core.others, x.live = false) ∧ ∀ n < 4, s.core.chanOn n = false)) →
    exec .endCtx s = .next (s.setCtx { s.ctx with live := false, stopReq := false }).done) ∧
  (∀ s : State, s.Issues .endCtx → s.core.enginePending s.ctx.num = true → exec .endCtx s = .next s.standStill) ∧
  (∀ s : State, s.Issues .yield → (∀ x ∈ s.core.others, x.live = false) → exec .yield s = .next s.done) ∧
  (∀ s : State, s.Issues .yield → ∀ x ∈ s.core.others, x.live = true → x.wait = none →
    ∃ l, x.num ∈ l ∧ exec .yield s = .next (s.setCtx { s.ctx with wait := some (.yielded l) }).done) ∧
  (∀ s : State, s.Issues .split → s.ctx.num = 0 → (∀ x ∈ s.core.others, x.live = false) →
    exec .split s = .next (if s.core.regs.gangsz ≤ 1 then s.done
      else State.done { s with core := { s.core with fused := false, fuseAt := none } })) ∧
  (∀ s : State, s.Issues .fuse → s.ctx.num = 0 → (∀ x ∈ s.core.others, x.live = false) → s.core.regs.gangsz ≤ 1 →
    exec .fuse s = .next s.done) ∧
  (∀ s : State, s.Issues .fuse → s.ctx.num = 0 → (∀ x ∈ s.core.others, x.live = false) → 1 < s.core.regs.gangsz →
    s.core.fused = false → s.core.fuseAt = none →
    (∃ id ∈ s.members, id ≠ s.core.id ∧ ∀ c, s.findCore id = some c → c.fuseAt = none) →
    exec .fuse s = .next (State.retreat { s with core := { s.core with fuseAt := some s.ctx.pc } })) ∧
  (∀ s : State, s.ctx.num ≠ 0 →
    (s.Issues .split → exec .split s = .next (s.takeTrap (Trap.plain cILL 0 0x40))) ∧
    (s.Issues .fuse → exec .fuse s = .next (s.takeTrap (Trap.plain cILL 0 0x40)))) ∧
  (∀ s : State, s.Issues .halt → s.ctx.supervisor = false → ∃ info : Word,
    exec .halt s = .next (s.takeTrap (Trap.plain cPRIV (Word.ofN s.ctx.pc.toNat) info)) ∧ info.bits 63 62 = 2) ∧
  (∀ s : State, s.Issues .halt → s.ctx.supervisor = true → s.ctx.ti = true → s.ctx.enabledEvents ≠ 0 →
    exec .halt s = .next s.done) ∧
  (∀ s : State, s.Issues .halt → s.ctx.supervisor = true → s.ctx.enabledEvents = 0 → exec .halt s = .next s.standStill) ∧
  (∀ (s : State) (n : BitVec 3), s.Issues (.prio n) →
    ∃ t, exec (.prio n) s = .next t ∧ t.ctx.level = n ∧ t.ctx.pc = s.ctx.pc + 4 ∧ t.ctx.g = s.ctx.g) ∧
  (∀ s : State, s.Issues (.rev 1) →
    ∃ t, exec (.rev 1) s = .next t ∧ t.ctx.revn = 1 ∧ t.ctx.pc = s.ctx.pc + 4 ∧ t.ctx.g = s.ctx.g) ∧
  (∀ (s : State) (k : BitVec 4) (p : BitVec 22), s.Issues (.hnop k p) → exec (.hnop k p) s = .next s.done) ∧
  (∀ (s : State) (a : BitVec 6), s.Issues (.spin a) → s.CanRead a →
    ∃ t, exec (.spin a) s = .next t ∧ t.ctx.pc = s.ctx.pc + 4 ∧ t.ctx.g = s.ctx.g) ∧
  (∀ s : State, s.ctx.live = true → s.ctx.wait = none → s.inGang = false →
    (∀ b : Bool, ∃ t q, exec (.likely b) s = .next t ∧ t.ctx.pfx = some q ∧ (s.ctx.pfx = none → q.likely = some b) ∧
      t.ctx.pc = s.ctx.pc + 4 ∧ t.ctx.g = s.ctx.g) ∧
    (∃ t q, exec .nofold s = .next t ∧ t.ctx.pfx = some q ∧ q.nofold = true ∧ t.ctx.pc = s.ctx.pc + 4 ∧ t.ctx.g = s.ctx.g))

/-! ### System registers -/

/-- GETS (R180, R187): it completes for every register but ARCHMAP in task mode, which traps PRIV, and writes the register's
value: CYCLE is that of the core's die, and a METR the task's folded count with the context's own. -/
def Obligations.GetsReads : Prop :=
  (∀ (s : State) (d : BitVec 6) (r : BitVec 12), s.Issues (.gets d r) → s.CanWrite d → (r = 0x080 → s.ctx.supervisor = true) →
    exec (.gets d r) s = .next (s.doneG d (s.sysValue r.toNat))) ∧
  (∀ (s : State) (d : BitVec 6), s.Issues (.gets d 0x080) → s.CanWrite d → s.ctx.supervisor = false → ∃ info : Word,
    exec (.gets d 0x080) s = .next (s.takeTrap (Trap.plain cPRIV (Word.ofN s.ctx.pc.toNat) info))) ∧
  (∀ s : State, s.sysValue 0x000 = Word.ofN s.ctx.num ∧ s.sysValue 0x001 = Word.ofN s.core.regs.lcore ∧
    s.sysValue 0x002 = Word.ofN (s.core.regs.ly * 2 ^ 16 + s.core.regs.lx) ∧
    s.sysValue 0x003 = Word.ofN (16 * s.core.regs.lcore + s.ctx.num) ∧ s.sysValue 0x004 = Word.ofN s.core.regs.gangix ∧
    s.sysValue 0x005 = Word.ofN s.core.regs.gangsz ∧ s.sysValue 0x006 = tcbRef s.core.id.task ∧
    s.sysValue 0x007 = Word.ofN s.core.regs.queue.toNat ∧ s.sysValue 0x008 = s.core.regs.seed ∧
    s.sysValue 0x009 = s.core.regs.step ∧ s.sysValue 0x00A = s.ctx.sys.rkey ∧ s.sysValue 0x00B = s.ctx.sys.tensor ∧
    s.sysValue 0x00C = Word.ofN s.core.xbound.toNat ∧ s.sysValue 0x00D = s.ctx.sys.ovlh ∧
    s.sysValue 0x00E = Word.ofN s.ctx.level.toNat ∧ s.sysValue 0x00F = Word.ofN s.ctx.revn.toNat ∧
    (∀ n : Fin 16, s.sysValue (0x010 + n.val) = s.core.regs.args[n]) ∧
    s.sysValue 0x020 = (s.die (dieOf s.core.slot)).cycle ∧
    s.sysValue 0x021 = s.timeUs ∧ s.sysValue 0x022 = s.ctx.sys.deferred ∧
    (∀ n : Fin 4, s.sysValue (0x030 + n.val) = s.core.regs.dmem[n]) ∧ s.sysValue 0x040 = s.ctx.sys.events ∧
    s.sysValue 0x041 = s.ctx.sys.evmask ∧ s.sysValue 0x050 = s.ctx.sys.trapv ∧ s.sysValue 0x051 = s.ctx.sys.epc ∧
    s.sysValue 0x052 = s.ctx.sys.ecause ∧ s.sysValue 0x053 = s.ctx.sys.eaddr ∧ s.sysValue 0x054 = s.ctx.sys.einfo ∧
    s.sysValue 0x055 = s.ctx.sys.svclvl ∧ s.sysValue 0x060 = s.ctx.sys.sevpol ∧ s.sysValue 0x061 = s.core.shadown ∧
    s.sysValue 0x062 = s.ctx.sys.injen ∧ (∀ n : Fin 8, s.sysValue (0x070 + n.val) = s.metr n.val) ∧
    s.sysValue 0x080 = s.core.archmap)

/-- SETS (R6, R7, R180, R187, R188, R422): it completes for every register but ARCHMAP in task mode, which traps PRIV. RW
registers take the value with reserved fields left alone, EVENTS clears the bits written 1, RO registers ignore the
write; in task mode SVCLVL, SEVPOL, SHADOWN and INJEN are RO, in supervisor mode SVCLVL changes PS alone. XBOUND takes 4 KiB ×
the bound, at most 1 MiB, at once where it is lowered or nothing that has been taken names the new code; a raise that must wait
is in force for takes at once, and the word waits until XBOUND has been raised. -/
def Obligations.SetsWrites : Prop :=
  (∀ (s : State) (a : BitVec 6) (r : BitVec 12), s.Issues (.sets a r) → s.CanRead a → r ≠ 0x00C → r ≠ 0x061 → r ≠ 0x080 →
    exec (.sets a r) s = .next (s.setCtx { s.ctx with
      sys := s.ctx.sys.write r.toNat (s.G a) s.ctx.supervisor }).done) ∧
  (∀ (y : SysRegs) (v : Word) (sup : Bool),
    y.write 0x00A v sup = { y with rkey := v } ∧ y.write 0x00B v sup = { y with tensor := v } ∧
    y.write 0x00D v sup = { y with ovlh := v &&& 0xFFFFC } ∧ y.write 0x040 v sup = { y with events := y.events &&& ~~~v } ∧
    y.write 0x041 v sup = { y with evmask := v &&& 7 } ∧ y.write 0x050 v sup = { y with trapv := v &&& 0xFFFFC } ∧
    y.write 0x051 v sup = { y with epc := v &&& 0xFFFFC } ∧ y.write 0x052 v sup = { y with ecause := v &&& 0xFF } ∧
    y.write 0x053 v sup = { y with eaddr := v } ∧ y.write 0x054 v sup = { y with einfo := v } ∧
    y.write 0x055 v false = y ∧ y.write 0x060 v false = y ∧ y.write 0x062 v false = y ∧
    y.write 0x060 v true = { y with sevpol := v &&& 0x00FFFF06 } ∧ y.write 0x062 v true = { y with injen := v &&& 1 } ∧
    y.write 0x055 v true = { y with svclvl := (y.write 0x055 v true).svclvl } ∧
    (∀ b, (y.write 0x055 v true).svclvl.getLsbD b = if b = 1 then v.getLsbD 1 else (y.svclvl.getLsbD b && (b = 0 || b = 2))) ∧
    (∀ r, (r ≤ 0x009 ∨ 0x00E ≤ r ∧ r ≤ 0x033 ∨ 0x070 ≤ r) → y.write r v sup = y)) ∧
  (∀ (s : State) (a : BitVec 6), s.Issues (.sets a 0x061) → s.CanRead a →
    exec (.sets a 0x061) s = .next (if s.ctx.supervisor then
      State.done { s with core := { s.core with shadown := (s.G a) &&& 0xFFFF } } else s.done)) ∧
  (∀ (s : State) (a : BitVec 6), s.Issues (.sets a 0x080) → s.ctx.supervisor = true → s.CanRead a →
    exec (.sets a 0x080) s = .next (State.done { s with core := { s.core with archmap := s.G a } })) ∧
  (∀ (s : State) (a : BitVec 6), s.Issues (.sets a 0x080) → s.ctx.supervisor = false → ∃ info : Word,
    exec (.sets a 0x080) s = .next (s.takeTrap (Trap.plain cPRIV (Word.ofN s.ctx.pc.toNat) info))) ∧
  (∀ (s : State) (a : BitVec 6) (b : Nat), s.Issues (.sets a 0x00C) → s.CanRead a →
    b = 4096 * min 256 ((s.G a).bits 20 12) →
    (s.core.raise = none → (b ≤ s.core.xbound.toNat ∨ s.drains s.core s.ctx.num s.core.xbound.toNat b = false) →
      exec (.sets a 0x00C) s = .next (State.done { s with core := { s.core with
        xbound := BitVec.ofNat 21 b, xbTake := BitVec.ofNat 21 b, raise := none } })) ∧
    (s.core.raise = none → s.core.xbound.toNat < b → s.drains s.core s.ctx.num s.core.xbound.toNat b = true →
      exec (.sets a 0x00C) s = .next (State.retreat { s with core := { s.core with
        xbTake := BitVec.ofNat 21 b, raise := some ⟨s.ctx.num, b / 4096⟩ } })) ∧
    (s.core.raise = some ⟨s.ctx.num, b / 4096⟩ → s.core.xbound.toNat < b →
      exec (.sets a 0x00C) s = .next s.standStill) ∧
    (s.core.raise = some ⟨s.ctx.num, b / 4096⟩ → s.core.xbound.toNat = b →
      exec (.sets a 0x00C) s = .next (State.done { s with core := { s.core with raise := none } })))

/-! ### Loads and stores -/

/-- LDS, LDZ and LDO of local memory (R3, R272, R273, R277): the little-endian bytes at the reference, sign- or zero-extended,
go to g[d]; nothing else changes. The three words at any place, LDO without acquire order there: the value that the shared
load operation gives, in the state that it leaves. -/
def Obligations.LoadsDeliverBytes : Prop :=
  (∀ (s : State) (d a : BitVec 6) (imm : BitVec 12) (w : Width), s.Issues (.ldz d a imm w) → s.CanRead a → s.CanWrite d →
    s.LocalOk (s.G a + immExt s.payloads imm) w.bytes →
    exec (.ldz d a imm w) s =
      .next (s.doneG d (Word.ofN (s.localValue (refOffset (s.G a + immExt s.payloads imm)) w.bytes)))) ∧
  (∀ (s : State) (d a : BitVec 6) (imm : BitVec 12) (w : Width), s.Issues (.lds d a imm w) → s.CanRead a → s.CanWrite d →
    s.LocalOk (s.G a + immExt s.payloads imm) w.bytes →
    exec (.lds d a imm w) s = .next (s.doneG d (Word.ofI
      (BitVec.ofNat w.bits (s.localValue (refOffset (s.G a + immExt s.payloads imm)) w.bytes)).toInt))) ∧
  (∀ (s : State) (d a : BitVec 6) (ord : Order) (sc : Scope) (dw : Bool), s.Issues (.ldo d a ord sc dw) → s.CanRead a →
    s.CanWrite d → s.LocalOk (s.G a) (if dw then 8 else 4) → s.Settled →
    exec (.ldo d a ord sc dw) s =
      .next (s.doneG d (Word.ofN (s.localValue (refOffset (s.G a)) (if dw then 8 else 4))))) ∧
  (∀ (s t : State) (d a : BitVec 6) (imm : BitVec 12) (w : Width) (m : Nat), s.Issues (.ldz d a imm w) → s.CanRead a →
    s.CanWrite d → t.CanWrite d → s.twinned = false → (s.G a + immExt s.payloads imm).toNat % w.bytes = 0 →
    Op.load (s.self 0) (coreAcc (s.G a + immExt s.payloads imm) w.bytes 0) s = .ok (m, t) →
    exec (.ldz d a imm w) s = .next (t.doneG d (Word.ofN m))) ∧
  (∀ (s t : State) (d a : BitVec 6) (imm : BitVec 12) (w : Width) (m : Nat), s.Issues (.lds d a imm w) → s.CanRead a →
    s.CanWrite d → t.CanWrite d → s.twinned = false → (s.G a + immExt s.payloads imm).toNat % w.bytes = 0 →
    Op.load (s.self 0) (coreAcc (s.G a + immExt s.payloads imm) w.bytes 0) s = .ok (m, t) →
    exec (.lds d a imm w) s = .next (t.doneG d (Word.ofI (BitVec.ofNat w.bits m).toInt))) ∧
  (∀ (s t : State) (d a : BitVec 6) (ord : Order) (sc : Scope) (dw : Bool) (m : Nat), s.Issues (.ldo d a ord sc dw) →
    s.CanRead a → s.CanWrite d → t.CanWrite d → s.twinned = false → isAcq ord = false →
    (s.G a).toNat % (if dw then 8 else 4) = 0 →
    Op.load (s.self sc.num) (coreAcc (s.G a) (if dw then 8 else 4) 0) s = .ok (m, t) →
    exec (.ldo d a ord sc dw) s = .next (t.doneG d (Word.ofN m)))

/-- ST and STO to the local memory of a resident core that no SPIN watches (R3, R273, R277): the low bytes of the register stand at the reference computed from the base
and the displacement; every other byte of memory, every register and everything outside the core is unchanged. -/
def Obligations.StoresWriteTheirBytes : Prop :=
  (∀ (s : State) (c a : BitVec 6) (imm : BitVec 12) (w : Width), s.Issues (.st c a imm w) → s.CanRead c → s.CanRead a →
    s.LocalOk (s.G a + immExt s.payloads imm) w.bytes → s.StoreHere → s.core.lm.wf = true →
    ∃ t : State, exec (.st c a imm w) s = .next t ∧
      t.localValue (refOffset (s.G a + immExt s.payloads imm)) w.bytes = (s.G c).toNat % 2 ^ w.bits ∧
      s.SameLocalBut t (refOffset (s.G a + immExt s.payloads imm)) w.bytes ∧ t.ctx.g = s.ctx.g ∧ s.SameButG t 0 ∧
      t.unc = s.unc) ∧
  (∀ (s : State) (a b : BitVec 6) (ord : Order) (sc : Scope) (dw : Bool), s.Issues (.sto a b ord sc dw) → s.CanRead a →
    s.CanRead b → s.LocalOk (s.G a) (if dw then 8 else 4) → s.StoreHere → s.Settled → s.core.lm.wf = true →
    ∃ t : State, exec (.sto a b ord sc dw) s = .next t ∧
      t.localValue (refOffset (s.G a)) (if dw then 8 else 4) = (s.G b).toNat % 2 ^ (if dw then 64 else 32) ∧
      s.SameLocalBut t (refOffset (s.G a)) (if dw then 8 else 4) ∧ t.ctx.g = s.ctx.g ∧ s.SameButG t 0 ∧ t.unc = s.unc)

/-- The checks of a load (LDZ) of local memory and of an object, in their order (R26, R119, R253, R273): MISAL first;
for handle 0 BOUND then XDATA; for an object HANDLE at or above the table's entries or for an entry with no rights. Each
traps with EADDR the reference, and nothing is read or written. -/
def Obligations.AccessChecksTrap : Prop :=
  ∀ (s : State) (d a : BitVec 6) (imm : BitVec 12) (w : Width), s.Issues (.ldz d a imm w) → s.CanRead a → s.CanWrite d →
    s.ctx.ar = false → s.twinned = false →
    let ref := s.G a + immExt s.payloads imm
    let trap (cause : Nat) : Host.Outcome State Fault Refusal :=
      .next (s.takeTrap (Trap.plain cause ref ((coreAcc ref w.bytes 0).info 0)))
    (ref.toNat % w.bytes ≠ 0 → exec (.ldz d a imm w) s = trap cMISAL) ∧
    (ref.toNat % w.bytes = 0 → refHandle ref = 0 → 0x100000 < refOffset ref + w.bytes → exec (.ldz d a imm w) s = trap cBOUND) ∧
    (ref.toNat % w.bytes = 0 → refHandle ref = 0 → refOffset ref + w.bytes ≤ 0x100000 → refOffset ref < s.core.xbound.toNat →
      exec (.ldz d a imm w) s = trap cXDATA) ∧
    (ref.toNat % w.bytes = 0 → 2 ≤ refHandle ref →
      (refHandle ref < 16 ∨ (s.queue s.core.regs.queue.toNat).entries.toNat ≤ refHandle ref) →
      exec (.ldz d a imm w) s = trap cHANDLE) ∧
    (ref.toNat % w.bytes = 0 → 16 ≤ refHandle ref → refHandle ref < (s.queue s.core.regs.queue.toNat).entries.toNat →
      s.ocFind s.core.slot s.core.regs.queue.toNat (refHandle ref) = none →
      (s.tableDesc s.core.regs.queue.toNat (refHandle ref)).2.2.2.2.rights = 0 →
      exec (.ldz d a imm w) s = trap cHANDLE)

/-! ### Atomics and reductions -/

/-- SWP, CAS and the sixteen AMO words at local memory (R277 to R280): g[d] receives the old value, zero-extended; memory
receives the sum, AND, OR, XOR, signed or unsigned minimum or maximum, the operand, or, where the old value equals
g[d], the operand. -/
def Obligations.AtomicsAtLocalMemory : Prop :=
  ∀ (d a b : BitVec 6) (ord : Order) (sc : Scope),
    AtomicAtLocal (.amoaddW d a b ord sc) d a b 4 (fun m x _ => some ((m + x) % 2 ^ 32)) ∧
    AtomicAtLocal (.amoaddD d a b ord sc) d a b 8 (fun m x _ => some ((m + x) % 2 ^ 64)) ∧
    AtomicAtLocal (.amoandW d a b ord sc) d a b 4 (fun m x _ => some (m &&& x)) ∧
    AtomicAtLocal (.amoandD d a b ord sc) d a b 8 (fun m x _ => some (m &&& x)) ∧
    AtomicAtLocal (.amoorW d a b ord sc) d a b 4 (fun m x _ => some (m ||| x)) ∧
    AtomicAtLocal (.amoorD d a b ord sc) d a b 8 (fun m x _ => some (m ||| x)) ∧
    AtomicAtLocal (.amoxorW d a b ord sc) d a b 4 (fun m x _ => some (m ^^^ x)) ∧
    AtomicAtLocal (.amoxorD d a b ord sc) d a b 8 (fun m x _ => some (m ^^^ x)) ∧
    AtomicAtLocal (.amominW d a b ord sc) d a b 4
      (fun m x _ => some (if (BitVec.ofNat 32 x).toInt < (BitVec.ofNat 32 m).toInt then x else m)) ∧
    AtomicAtLocal (.amominD d a b ord sc) d a b 8
      (fun m x _ => some (if (BitVec.ofNat 64 x).toInt < (BitVec.ofNat 64 m).toInt then x else m)) ∧
    AtomicAtLocal (.amomaxW d a b ord sc) d a b 4
      (fun m x _ => some (if (BitVec.ofNat 32 m).toInt < (BitVec.ofNat 32 x).toInt then x else m)) ∧
    AtomicAtLocal (.amomaxD d a b ord sc) d a b 8
      (fun m x _ => some (if (BitVec.ofNat 64 m).toInt < (BitVec.ofNat 64 x).toInt then x else m)) ∧
    AtomicAtLocal (.amominuW d a b ord sc) d a b 4 (fun m x _ => some (min m x)) ∧
    AtomicAtLocal (.amominuD d a b ord sc) d a b 8 (fun m x _ => some (min m x)) ∧
    AtomicAtLocal (.amomaxuW d a b ord sc) d a b 4 (fun m x _ => some (max m x)) ∧
    AtomicAtLocal (.amomaxuD d a b ord sc) d a b 8 (fun m x _ => some (max m x)) ∧
    (∀ dw : Bool, AtomicAtLocal (.swp d a b ord sc dw) d a b (if dw then 8 else 4) (fun _ x _ => some x)) ∧
    (∀ dw : Bool, AtomicAtLocal (.cas d a b ord sc dw) d a b (if dw then 8 else 4)
      (fun m x e => if m = e then some x else none))

/-- The eight integer reductions (R281, R282) send their operation to its site and complete without a result. REDACC
(R283, R285): the source images are read at issue, the anchor is g[d][9:0], the operation goes to the bank of its
destination, and g[d] is pending until the status arrives. A source outside local memory, and a destination in it,
trap HANDLE. A reduction of a line that is LOST traps LOST at its issue (R343). -/
def Obligations.ReductionsAndRedaccAreSent : Prop :=
  (SendsReduction .redadd ∧ SendsReduction .redand ∧ SendsReduction .redor ∧ SendsReduction .redxor ∧
   SendsReduction .redmin ∧ SendsReduction .redmax ∧ SendsReduction .redminu ∧ SendsReduction .redmaxu) ∧
  ((∀ (s s₁ s₂ s₃ : State) (d a b : BitVec 6) (sc : Scope) (desc : Desc) (addr bytes : Nat),
     s.Issues (.redacc d a b false sc) → s.CanRead d → s.CanRead a → s.CanRead b →
     (s.G a).toNat % 128 = 0 → s.LocalOk (s.G b) 128 → 16 ≤ refHandle (s.G a) →
     Op.descriptor (s.self sc.num) ⟨s.G a, 128, 7, 3, 0⟩ s = .ok (desc, s₁) →
     Op.descCheck (s.self sc.num) ⟨s.G a, 128, 7, 3, 0⟩ rightA desc s₁ = .ok ((), s₁) → desc.layout = 16 →
     Op.load (s.self sc.num) ⟨s.G b, 128, 7, 3, 0⟩ s₁ = .ok (bytes, s₂) →
     Op.locate (s.self sc.num) ⟨s.G a, 128, 7, 3, 0⟩ desc false s₂ = .ok (.bank addr, s₃) → s₃.twinned = false →
     (desc.cls = 0 ∨ (s₃.dirEntry (addr / 128)).state ≠ .lost) →
     ∃ t : State, exec (.redacc d a b false sc) s = .next t ∧
       t.unc.bankOps = s₃.unc.bankOps ++ [⟨s.core.id, s.ctx.num, false, false, .redacc d a b false sc, .bank addr, 128, s.G a, desc.cls,
         desc.tensor, desc.layout, desc.profile, 0, 0, bytes, (s.G d).setWidth 10⟩] ∧
       t.ctx.pendG = (s₃.ctx.setPendG d.toNat true).pendG ∧ t.ctx.g = s₃.ctx.g ∧ t.ctx.pc = s₃.ctx.pc + 4 ∧
       s₃.SameSys t ∧ s₃.SameCoreRest t) ∧
   (∀ (s : State) (d a b : BitVec 6) (sc : Scope), s.Issues (.redacc d a b false sc) → s.CanRead d → s.CanRead a →
     s.CanRead b → (s.G a).toNat % 128 = 0 → (s.G b).toNat % 128 = 0 →
     (refHandle (s.G b) ≠ 0 → exec (.redacc d a b false sc) s =
       .next (s.takeTrap (Trap.plain cHANDLE (s.G b) ((⟨s.G b, 128, 7, 3, 0⟩ : Acc).info 0)))) ∧
     (refHandle (s.G b) = 0 → refHandle (s.G a) < 16 → exec (.redacc d a b false sc) s =
       .next (s.takeTrap (Trap.plain cHANDLE (s.G a) ((⟨s.G a, 128, 7, 3, 0⟩ : Acc).info 0))))))

/-- FAR_ATOMIC, RED_APPLY and REDACC_APPLY (R280, R282, R283): an operation that is the oldest of its bank's or local memory's
unit is taken from the list. At a bank of this package of class 0, not fenced at level 2, with no stored error, no cached line
and no size tag, a far atomic leaves its new value there and its old one with its context; an integer reduction at a local memory
or such a bank leaves its result; a REDACC whose line and sources hold valid images, at a line with no anchor tag or its own,
leaves the combined images and the tag, and one whose sources hold none answers status 2. -/
def Obligations.BankOperationsAct : Prop :=
  (∀ (s : State) (kind : BankOp → Bool) (o : BankOp), s.nextOp kind = some o → kind o = true ∧
    ∃ p : Nat, s.unc.bankOps[p]? = some o ∧ ∀ (q : Nat) (x : BankOp), q < p → s.unc.bankOps[q]? = some x → x.site.unit ≠ o.site.unit) ∧
  (∀ (s : State) (kind : BankOp → Bool) (o : BankOp) (p : Nat), s.unc.bankOps[p]? = some o → kind o = true →
    (∀ (q : Nat) (x : BankOp), q < p → s.unc.bankOps[q]? = some x → x.site.unit ≠ o.site.unit) → (s.nextOp kind).isSome = true) ∧
  (∀ (s : State) (o : BankOp) (addr n : Nat) (k : AtomicOp) (v : Nat),
    s.nextOp s.farReady = some o → s.farGroup o = [o] → o.site = .bank addr → atomicOf o.instr = some (k, n) → o.n = n → o.cls = 0 →
    addr / 2 ^ 40 = s.pkg.address.toNat → s.fenceLevel (addr / 2 ^ 36 % 16 / 2) ≠ 2 →
    (k = .compare → o.rel = true → s.unc.bankOps = [o] ∧ (s.focus o.core o.ctx).ctx.reports = []) →
    s.unc.mixed = [] → s.unc.bankFlips = [] → s.unc.lines = [] → s.unc.hbm.wf = true → addr % n = 0 →
    k.new n (s.unc.hbm.value addr n) (o.x.toNat % 2 ^ (8 * n)) (o.e.toNat % 2 ^ (8 * n)) = some v →
    ∃ t : State, s.ActsTo .farAtomic t ∧ t.unc.bankOps = s.unc.bankOps.erase o ∧ t.unc.hbm.value addr n = v ∧
      (∀ b, b < addr ∨ addr + n ≤ b → t.unc.hbm.get b = s.unc.hbm.get b) ∧
      (∀ c, s.findCore o.core = some c → ∀ x, c.findCtx o.ctx = some x →
        ∃ c' x', t.findCore o.core = some c' ∧ c'.findCtx o.ctx = some x' ∧ x'.wait = none ∧
          x'.farGot = some (.old (Word.ofN (s.unc.hbm.value addr n))) ∧ x'.g = x.g ∧ x'.pc = x.pc)) ∧
  (∀ (s : State) (o : BankOp) (off n : Nat) (k : AtomicOp) (v : Nat) (c : LCore),
    s.nextOp BankOp.isRed = some o → atomicOf o.instr = some (k, n) → o.n = n → o.site = .local o.core off →
    s.findCore o.core = some c → c.lmFlips = [] →
    k.new n (c.lm.value off n) (o.x.toNat % 2 ^ (8 * n)) 0 = some v →
    exec .redApply s = .next { State.lmWrite { s with unc := { s.unc with bankOps := s.unc.bankOps.erase o } } o.core off
      (bytesOf n v) with stalled := false }) ∧
  (∀ (s : State) (o : BankOp) (addr n : Nat) (k : AtomicOp) (v : Nat),
    s.nextOp BankOp.isRed = some o → o.site = .bank addr → atomicOf o.instr = some (k, n) → o.n = n → o.cls = 0 →
    addr / 2 ^ 40 = s.pkg.address.toNat → s.fenceLevel (addr / 2 ^ 36 % 16 / 2) ≠ 2 →
    s.unc.mixed = [] → s.unc.bankFlips = [] → s.unc.lines = [] → s.unc.directory = [] → s.unc.hbm.wf = true → addr % n = 0 →
    k.new n (s.unc.hbm.value addr n) (o.x.toNat % 2 ^ (8 * n)) 0 = some v →
    ∃ t : State, s.ActsTo .redApply t ∧ t.unc.bankOps = s.unc.bankOps.erase o ∧ t.unc.hbm.value addr n = v ∧
      (∀ b, b < addr ∨ addr + n ≤ b → t.unc.hbm.get b = s.unc.hbm.get b) ∧ t.core = s.core ∧ t.peers = s.peers) ∧
  (∀ (s : State) (o : BankOp) (addr : Nat), s.nextOp BankOp.isRedacc = some o → o.site = .bank addr → o.cls = 0 →
    addr / 2 ^ 40 = s.pkg.address.toNat → s.fenceLevel (addr / 2 ^ 36 % 16 / 2) ≠ 2 →
    s.unc.bankFlips = [] → s.unc.lines = [] → s.unc.directory = [] →
    (Elem.ofImages (lineImages o.images) = none →
      exec .redaccApply s = .next { (State.answerRedacc { s with unc := { s.unc with bankOps := s.unc.bankOps.erase o } }
        o 2) with stalled := false }) ∧
    (∀ (xs ls : List Elem) (d a b : BitVec 6) (rel : Bool) (sc : Scope), o.instr = .redacc d a b rel sc →
      Elem.ofImages (lineImages o.images) = some xs → s.unc.hbm.wf = true → addr % 128 = 0 →
      Elem.ofImages (lineImages (s.unc.hbm.value addr 128)) = some ls →
      (NatMap.get s.unc.anchors (addr / 128) = none ∨ NatMap.get s.unc.anchors (addr / 128) = some o.anchor) →
      ∃ t : State, s.ActsTo .redaccApply t ∧ t.unc.bankOps = s.unc.bankOps.erase o ∧
        t.unc.hbm.value addr 128 = packElems 128 ((List.zipWith Elem.combine ls xs).map Elem.image) ∧
        (∀ b, b < addr ∨ addr + 128 ≤ b → t.unc.hbm.get b = s.unc.hbm.get b) ∧
        NatMap.get t.unc.anchors (addr / 128) = some o.anchor ∧
        (∀ c, s.findCore o.core = some c → ∀ x, c.findCtx o.ctx = some x →
          ∃ c' x', t.findCore o.core = some c' ∧ c'.findCtx o.ctx = some x' ∧ x'.gval d.toNat = 0 ∧
            (d ≠ 0 → x'.pendG.getLsbD d.toNat = false) ∧ x'.pc = x.pc)))

/-! ### Fences, cache words and injection -/

/-- FENCE, FENCE.E, WBR and INVR (R326 to R329): with nothing outstanding they complete. A fence with ls or ss at die
scope or wider leaves no dirty class-0 byte in its cluster, and one with ll or ls leaves no clean one; one with ls, sl or ss
waits for the context's reductions within its scope, with sl or ss for those at every site (R316 item 4); FENCE.E waits for the engine commands of its context; WBR and INVR over a
range of length 0 change nothing, and one of 2^40 bytes or more traps BOUND. After a release at die scope or wider no class-0 line of the cluster has a dirty byte, and
after an acquire none has a valid byte that is not dirty; lines of other clusters and coherent lines keep their bytes
(R321, R322). -/
def Obligations.FencesReleaseAndAcquire : Prop :=
  ((∀ (s : State) (e : BitVec 4) (sc : Scope), s.Issues (.fence e sc) → s.unc.bankOps = [] → s.ctx.reports = [] →
     let rel : Bool := (e.getLsbD 1 || e.getLsbD 3) && 3 ≤ sc.num
     let acq : Bool := (e.getLsbD 0 || e.getLsbD 1) && 3 ≤ sc.num
     let s₁ := if rel then s.releaseCluster (clusterOf s.core.slot) else s
     exec (.fence e sc) s = .next (State.done (if acq then s₁.acquireCluster (clusterOf s.core.slot) else s₁))) ∧
   (∀ (s : State) (e : BitVec 4) (sc : Scope), s.Issues (.fence e sc) → s.redsIn sc.num = true →
     (e.getLsbD 1 = true ∨ e.getLsbD 2 = true ∨ e.getLsbD 3 = true) → exec (.fence e sc) s = .next s.standStill) ∧
   (∀ (s : State) (e : BitVec 4) (sc : Scope), s.Issues (.fence e sc) → s.ownReds = true →
     (e.getLsbD 2 = true ∨ e.getLsbD 3 = true) → exec (.fence e sc) s = .next s.standStill) ∧
   (∀ (s : State) (sc : Scope), s.Issues (.fenceE sc) → s.core.enginePending s.ctx.num = false → s.unc.bankOps = [] →
     s.ctx.reports = [] →
     exec (.fenceE sc) s = .next (State.done (if 3 ≤ sc.num
       then (s.acquireCluster (clusterOf s.core.slot)).releaseCluster (clusterOf s.core.slot) else s))) ∧
   (∀ (s : State) (sc : Scope), s.Issues (.fenceE sc) → s.core.enginePending s.ctx.num = true →
     exec (.fenceE sc) s = .next s.standStill) ∧
   (∀ (s : State) (a b : BitVec 6) (sc : Scope), s.Issues (.wbr a b sc) → s.CanRead a → s.CanRead b → s.unc.bankOps = [] →
     s.ctx.reports = [] → (s.G b = 0 ∨ s.LocalOk (s.G a) 1 ∧ refOffset (s.G a) + (s.G b).toNat ≤ 0x100000 ∧ s.unc.lines = []) →
     exec (.wbr a b sc) s = .next s.done) ∧
   (∀ (s : State) (a b : BitVec 6) (sc : Scope), s.Issues (.invr a b sc) → s.CanRead a → s.CanRead b → 
     (s.G b = 0 ∨ s.LocalOk (s.G a) 1 ∧ refOffset (s.G a) + (s.G b).toNat ≤ 0x100000 ∧ s.unc.lines = []) →
     exec (.invr a b sc) s = .next s.done) ∧
   (∀ (s : State) (a b : BitVec 6) (sc : Scope), s.CanRead a → s.CanRead b → 2 ^ 40 ≤ (s.G b).toNat →
     (s.Issues (.wbr a b sc) → exec (.wbr a b sc) s = .next (s.takeTrap (Trap.plain cBOUND (s.G a)
       ((⟨s.G a, (s.G b).toNat, 0xF, 5, 0⟩ : Acc).info 0)))) ∧
     (s.Issues (.invr a b sc) → exec (.invr a b sc) s = .next (s.takeTrap (Trap.plain cBOUND (s.G a)
       ((⟨s.G a, (s.G b).toNat, 0xF, 5, 0⟩ : Acc).info 0)))))) ∧
  ((∀ (s : State) (cl : Nat), (s.unc.lines.map fun l => (l.cluster, l.tag)).Nodup →
     (∀ l ∈ (s.releaseCluster cl).unc.lines, l.cluster = cl → l.state = .scoped → l.dirty = 0) ∧
     (∀ l ∈ s.unc.lines, l.cluster ≠ cl ∨ l.state ≠ .scoped → l ∈ (s.releaseCluster cl).unc.lines)) ∧
   (∀ (s : State) (cl : Nat),
     (∀ l ∈ (s.acquireCluster cl).unc.lines, l.cluster = cl → l.state = .scoped → l.valid = l.dirty ∧ l.dirty ≠ 0) ∧
     (∀ l ∈ s.unc.lines, l.cluster ≠ cl ∨ l.state ≠ .scoped → l ∈ (s.acquireCluster cl).unc.lines) ∧
     (s.acquireCluster cl).unc.hbm = s.unc.hbm))

/-- OBJINV, TOUCH, EINJ and DIGEST (R183, R185, R186, R446). OBJINV in supervisor mode removes the entries loaded from its
address in its scope, from package scope on once every port has answered the shoot-downs of its object's frames, and traps PRIV
in task mode. TOUCH of local memory answers 0 where a 1-byte load would pass, and
the load's cause where it would trap. EINJ needs supervisor mode or INJEN, and flips the mask's bits in the aligned
word of its own local memory. DIGEST reads the value of its queue's chain, or in supervisor mode of the chain that g[a + 1] names,
once the chain has passed g[a] positions, with an acquire at sys scope, and DIGEST.n the count. -/
def Obligations.SystemMemoryWords : Prop :=
  (∀ (s : State) (a : BitVec 6) (sc : Scope), s.Issues (.objinv a sc) → s.ctx.supervisor = true → s.CanRead a →
    (4 ≤ sc.num → s.shooting (s.G a).toNat = false) →
    exec (.objinv a sc) s = .next (State.done { s with unc := { s.unc with objectCache := s.unc.objectCache.filter fun e =>
      !(e.addr = (s.G a).toNat && (4 ≤ sc.num || dieOf e.slot = dieOf s.core.slot)) } })) ∧
  (∀ (s : State) (a : BitVec 6) (sc : Scope), s.Issues (.objinv a sc) → s.ctx.supervisor = true → s.CanRead a →
    4 ≤ sc.num → s.shooting (s.G a).toNat = true → exec (.objinv a sc) s = .next s.standStill) ∧
  (∀ (s : State) (a : BitVec 6) (sc : Scope), s.Issues (.objinv a sc) → s.ctx.supervisor = false → ∃ info : Word,
    exec (.objinv a sc) s = .next (s.takeTrap (Trap.plain cPRIV (Word.ofN s.ctx.pc.toNat) info)) ∧ info.bits 63 62 = 2) ∧
  (∀ (s : State) (d a : BitVec 6), s.Issues (.touch d a) → s.CanRead a → s.CanWrite d → s.LocalOk (s.G a) 1 →
    exec (.touch d a) s = .next (s.doneG d 0)) ∧
  (∀ (s : State) (d a : BitVec 6), s.Issues (.touch d a) → s.CanRead a → s.CanWrite d → s.ctx.ar = false →
    refHandle (s.G a) = 0 → refOffset (s.G a) < s.core.xbound.toNat → refOffset (s.G a) < 0x100000 →
    exec (.touch d a) s = .next (s.doneG d (Word.ofN cXDATA))) ∧
  (∀ (s : State) (c a : BitVec 6), s.Issues (.einj c a .lm) → (s.ctx.supervisor = true ∨ s.ctx.sys.injen.getLsbD 0 = true) →
    s.CanRead c → s.CanRead a → refHandle (s.G a) = 0 → refOffset (s.G a) + 8 ≤ 0x100000 →
    s.core.xbound.toNat ≤ refOffset (s.G a) →
    exec (.einj c a .lm) s = .next (State.done { s with core := s.core.flip (refOffset (s.G a) / 8) (s.G c) }) ∧
    ∀ n, (NatMap.get (s.core.flip n (s.G c)).lmFlips n).getD 0 = (NatMap.get s.core.lmFlips n).getD 0 ^^^ s.G c) ∧
  (∀ (s : State) (c a : BitVec 6) (tier : Tier), s.Issues (.einj c a tier) → s.ctx.supervisor = false →
    s.ctx.sys.injen.getLsbD 0 = false → ∃ info : Word,
    exec (.einj c a tier) s = .next (s.takeTrap (Trap.plain cPRIV (Word.ofN s.ctx.pc.toNat) info)) ∧ info.bits 63 62 = 2) ∧
  (∀ (s : State) (d : BitVec 5) (a : BitVec 6) (q : Nat), s.Issues (.digest d a) → s.CanRead a → s.VReady d →
    (s.ctx.supervisor = false ∧ q = s.core.regs.queue.toNat ∨
      s.ctx.supervisor = true ∧ a ≠ 63 ∧ s.CanRead (a + 1) ∧ q = (s.G (a + 1)).bits 5 0) →
    ((s.G a).toNat ≤ (s.chain q).folded.toNat → exec (.digest d a) s = .next (State.done
      ((s.setCtx (s.ctx.setV d.toNat (BitVec.ofNat 256 (valueOf (s.chain q).value)))).acquireCluster (clusterOf s.core.slot)))) ∧
    ((s.chain q).folded.toNat < (s.G a).toNat → exec (.digest d a) s = .next s.standStill)) ∧
  (∀ (s : State) (d a : BitVec 6), s.Issues (.digestN d a) → s.CanWrite d →
    (s.ctx.supervisor = false → exec (.digestN d a) s = .next (s.doneG d (s.chain s.core.regs.queue.toNat).folded)) ∧
    (s.ctx.supervisor = true → s.CanRead a → exec (.digestN d a) s = .next (s.doneG d (s.chain ((s.G a).bits 5 0)).folded)))

/-! ### Rings -/

/-- WAITF, WAITE, ADVP, ADVC and RSTAT (R47 to R50, R287 to R291) on a configured ring. The waits complete once m slots
are filled, or free, and wait else; the advances add m to PRODUCER or CONSUMER where m slots are free, or filled;
RSTAT reads the configuration word it names. Each trap has its reason: 2 unconfigured, 3 an advance that does not fit,
4 broken, 5 more slots than the ring has. RSET (R47, R48, R288): the 16 bytes at g[a] in local memory become the
ring's configuration where they are valid (no reserved or broken bit, 2 to 4,096 slots of at most 64 KiB that lie
within local memory, a base of 32 bytes, CONSUMER equal to PRODUCER); otherwise it traps RING with reason 1. It waits, with what
it has read, while a command names the handle. -/
def Obligations.RingWords : Prop :=
  (∀ (s : State) (h : BitVec 3) (m : BitVec 4),
     let r := s.core.ring h.toNat
     let n := m.toNat + 1
     let trap (reason : Nat) : Host.Outcome State Fault Refusal :=
       .next (s.takeTrap (Trap.plain cRING 0 (Word.ofN (h.toNat * 2 ^ 8 + reason))))
     (s.Issues (.waitf h m) →
       (r.count = 0 → exec (.waitf h m) s = trap 2) ∧
       (r.count ≠ 0 → r.slots < n → exec (.waitf h m) s = trap 5) ∧
       (r.count ≠ 0 → n ≤ r.slots → r.broken = true → exec (.waitf h m) s = trap 4) ∧
       (r.count ≠ 0 → n ≤ r.slots → r.broken = false → n ≤ r.filled → exec (.waitf h m) s = .next s.done) ∧
       (r.count ≠ 0 → n ≤ r.slots → r.broken = false → r.filled < n → exec (.waitf h m) s = .next s.standStill)) ∧
     (s.Issues (.waite h m) →
       (r.count = 0 → exec (.waite h m) s = trap 2) ∧
       (r.count ≠ 0 → r.slots < n → exec (.waite h m) s = trap 5) ∧
       (r.count ≠ 0 → n ≤ r.slots → r.broken = true → exec (.waite h m) s = trap 4) ∧
       (r.count ≠ 0 → n ≤ r.slots → r.broken = false → r.filled + n ≤ r.slots → exec (.waite h m) s = .next s.done) ∧
       (r.count ≠ 0 → n ≤ r.slots → r.broken = false → r.slots < r.filled + n →
         exec (.waite h m) s = .next s.standStill)) ∧
     (s.Issues (.advp h m) →
       (r.count = 0 → exec (.advp h m) s = trap 2) ∧
       (r.count ≠ 0 → r.broken = true → exec (.advp h m) s = trap 4) ∧
       (r.count ≠ 0 → r.broken = false → r.slots < r.filled + n → exec (.advp h m) s = trap 3) ∧
       (r.count ≠ 0 → r.broken = false → r.filled + n ≤ r.slots → s.unc.bankOps = [] → s.ctx.reports = [] →
         exec (.advp h m) s = .next (State.done { s with
           core := s.core.setRing h.toNat { r with producer := r.producer + BitVec.ofNat 32 n } }))) ∧
     (s.Issues (.advc h m) →
       (r.count = 0 → exec (.advc h m) s = trap 2) ∧
       (r.count ≠ 0 → r.broken = true → exec (.advc h m) s = trap 4) ∧
       (r.count ≠ 0 → r.broken = false → r.filled < n → exec (.advc h m) s = trap 3) ∧
       (r.count ≠ 0 → r.broken = false → n ≤ r.filled → s.unc.bankOps = [] → s.ctx.reports = [] →
         exec (.advc h m) s = .next (State.done { s with
           core := s.core.setRing h.toNat { r with consumer := r.consumer + BitVec.ofNat 32 n } }))) ∧
     (∀ (d : BitVec 6) (w : BitVec 1), s.Issues (.rstat d h w) → s.CanWrite d →
       (r.count = 0 → exec (.rstat d h w) s = trap 2) ∧
       (r.count ≠ 0 → ∃ v : Word, exec (.rstat d h w) s = .next (s.doneG d v) ∧
         (w = 0 → v.getLsbD 28 = r.broken ∧ v.bits 63 29 = 0 ∧ v.bits 27 24 = r.count.toNat ∧ v.bits 23 20 = r.size.toNat ∧
           v.bits 19 0 = r.base.toNat) ∧
         (w = 1 → v.bits 63 32 = r.consumer.toNat ∧ v.bits 31 0 = r.producer.toNat)))) ∧
  (∀ (s : State) (h : BitVec 3) (a : BitVec 6) (v : Nat), s.Issues (.rset h a) → s.CanRead a →
     (s.ctx.ringRec = none ∧ s.LocalOk (s.G a) 16 ∧ v = s.localValue (refOffset (s.G a)) 16 ∨
       s.ctx.ringRec = some (s.G a, v)) →
     let w0 : Word := Word.ofN v
     let w1 : Word := Word.ofN (v / 2 ^ 64)
     let valid : Prop := w0.bits 63 28 = 0 ∧ 1 ≤ w0.bits 27 24 ∧ w0.bits 27 24 ≤ 12 ∧ w0.bits 23 20 ≤ 11 ∧
       w0.bits 19 0 % 32 = 0 ∧ w0.bits 19 0 + 2 ^ w0.bits 27 24 * (32 * 2 ^ w0.bits 23 20) ≤ 2 ^ 20 ∧
       w1.bits 63 32 = w1.bits 31 0
     (s.core.namesRing h.toNat = true → s.ctx.ringRec = none →
       exec (.rset h a) s = .next (s.setCtx { s.ctx with ringRec := some (s.G a, v) }).retreat) ∧
     (s.core.namesRing h.toNat = true → s.ctx.ringRec.isSome = true → exec (.rset h a) s = .next s.standStill) ∧
     (s.core.namesRing h.toNat = false → valid → exec (.rset h a) s = .next (State.done { s with
       core := s.core.setRing h.toNat ⟨false, BitVec.ofNat 4 (w0.bits 27 24), BitVec.ofNat 4 (w0.bits 23 20),
         BitVec.ofNat 20 (w0.bits 19 0), BitVec.ofNat 32 (w1.bits 63 32), BitVec.ofNat 32 (w1.bits 31 0)⟩ })) ∧
     (s.core.namesRing h.toNat = false → ¬valid →
       exec (.rset h a) s = .next (s.takeTrap (Trap.plain cRING 0 (Word.ofN (h.toNat * 2 ^ 8 + 1))))))

/-! ### Barriers -/

/-- ARRIVE, ARRIVE.snap, WAIT, BSTAT, BSET, BRST and the signal of an arrival (R351 to R362). On a channel that the
task does not use ARRIVE traps ILL and BSTAT reads 0. ARRIVE raises the member's phase by one and remembers the scope of its
release; on a broken record it raises the BROKEN event and arrives not; it waits while the previous phase is not complete.
ARRIVE.snap on the snapshot channel of a task with SNAP first captures its core, once it is quiet; elsewhere it is an ARRIVE; with
another context live, or in one but context 0, it traps ILL. WAIT completes with 0, or 2 after a snapshot mismatch, once the
member's phase is complete, with 1 and a BROKEN event where the record is broken, either with an acquire, and waits else. BSET
releases and breaks the record, the first reason standing. BRST records its request and completes once the reset has been made. A
signalled arrival completes the phase when every member has arrived, but not during a takeover. -/
def Obligations.BarrierWords : Prop :=
  (∀ (s : State) (n : BitVec 2), s.core.chanOn n.toNat = false →
    (s.Issues (.arrive n) → exec (.arrive n) s = .next (s.takeTrap (Trap.plain cILL 0 (Word.ofN (0x10 + n.toNat))))) ∧
    (∀ d, s.Issues (.bstat d n) → s.CanWrite d → exec (.bstat d n) s = .next (s.doneG d 0))) ∧
  (∀ (s : State) (n : BitVec 2) (b : Barrier) (m : Member), s.core.chanOn n.toNat = true →
    s.findBarrier s.core n.toNat = some b → b.member s.core.regs.lcore = some m →
    let event : Word := Word.ofN (b.reason.toNat * 2 ^ 16 + b.chan.toNat * 2 ^ 8 + 1)
    let arrived : State := { s.putBarrier (b.mapMember m.lcore fun (x : Member) =>
        { x with lp := x.lp + 1, scope := s.blockScope b, snap := false, captured := false, request := if s.requests n then some s.ctx.num else none }) with
      core := { s.core with
        arrivedChans := s.core.arrivedChans ||| (1#4 <<< n.toNat), sinceCapture := s.core.sinceCapture ||| (1#4 <<< n.toNat) } }
    (s.Issues (.arrive n) → b.broken = true → exec (.arrive n) s = .next (s.setCtx (s.ctx.raiseBroken 0 event)).done) ∧
    (s.Issues (.arrive n) → b.broken = false → m.lp = b.gp → s.ctx.reports = [] → s.twinned = false →
      exec (.arrive n) s = .next arrived.done) ∧
    (s.Issues (.arrive n) → b.broken = false → m.lp ≠ b.gp → exec (.arrive n) s = .next s.standStill) ∧
    (s.Issues (.arriveSnap n) → b.broken = false → m.lp = b.gp → s.ctx.reports = [] → s.twinned = false →
      (s.snapTask = false ∨ ∃ c, s.core.snapChan = some c ∧ c ≠ n) → exec (.arriveSnap n) s = .next arrived.done) ∧
    (s.Issues (.arriveSnap n) → b.broken = false → m.lp = b.gp → s.snapTask = true →
      (s.core.snapChan = none ∨ s.core.snapChan = some n) →
      ((s.ctx.num ≠ 0 ∨ ∃ x ∈ s.core.others, x.live = true) →
        exec (.arriveSnap n) s = .next (s.takeTrap (Trap.plain cILL 0 (Word.ofN (0x20 + n.toNat))))) ∧
      (s.ctx.num = 0 → (∀ x ∈ s.core.others, x.live = false) → s.core.quiet = false →
        exec (.arriveSnap n) s = .next s.standStill)) ∧
    (∀ s₁, s.Issues (.arriveSnap n) → b.broken = false → m.lp = b.gp → s.ctx.reports = [] → s.twinned = false →
      s.snapTask = true → (s.core.snapChan = none ∨ s.core.snapChan = some n) → s.ctx.num = 0 →
      (∀ x ∈ s.core.others, x.live = false) → s.core.quiet = true →
      Op.capture { s with core := { s.core with snapChan := some n } } = .ok ((), s₁) →
      ∃ t, exec (.arriveSnap n) s = .next t ∧ t.ctx.pc = s₁.ctx.pc + 4 ∧ t.ctx.g = s₁.ctx.g ∧ t.core.sinceCapture = 1#4 <<< n.toNat ∧
        ∃ q : Option Nat, t.unc.barriers = (s₁.putBarrier (b.mapMember m.lcore fun (x : Member) =>
          { x with lp := x.lp + 1, scope := s₁.blockScope b, snap := true, captured := true, request := q })).unc.barriers) ∧
    (∀ d, s.Issues (.wait d n) → s.CanWrite d → m.lp = b.gp →
      exec (.wait d n) s =
        let u := s.setCtx (s.ctx.setG d.toNat (if b.mixed then 2 else 0))
        let u := if b.gp ≠ 0 ∧ (s.snapTask = false ∨ s.core.snapChan = some n) then
            { u with core := u.core.mapCtxs fun x => { x with sys := { x.sys with deferred := 0 } } }
          else u
        .next (State.done (if 3 ≤ max m.scope (s.blockScope b) then u.acquireCluster (clusterOf s.core.slot) else u))) ∧
    (∀ d, s.Issues (.wait d n) → s.CanWrite d → m.lp ≠ b.gp → b.broken = true →
      exec (.wait d n) s =
        let u := s.setCtx ((s.ctx.setG d.toNat 1).raiseBroken 0 event)
        .next (State.done (if 3 ≤ max m.scope (s.blockScope b) then u.acquireCluster (clusterOf s.core.slot) else u))) ∧
    (∀ d, s.Issues (.wait d n) → s.CanWrite d → m.lp ≠ b.gp → b.broken = false →
      exec (.wait d n) s = .next s.standStill) ∧
    (∀ d, s.Issues (.bstat d n) → s.CanWrite d → ∃ v : Word, exec (.bstat d n) s = .next (s.doneG d v) ∧
      v.getLsbD 63 = true ∧ v.getLsbD 62 = b.broken ∧ (v.getLsbD 61 = true ↔ m.lp ≠ b.gp) ∧ v.getLsbD 60 = b.snapPhase ∧
      v.bits 59 48 = 0 ∧ v.bits 47 32 = m.lp.toNat % 2 ^ 16 ∧ v.bits 31 16 = b.gp.toNat % 2 ^ 16 ∧ v.bits 15 8 = b.reason.toNat ∧
      v.bits 7 0 = 0) ∧
    (∀ a, s.Issues (.bset a n) → s.CanRead a → s.unc.bankOps = [] → s.ctx.reports = [] → s.twinned = false →
      exec (.bset a n) s = .next (State.done ((if 3 ≤ s.blockScope b then s.releaseCluster (clusterOf s.core.slot) else s).putBarrier
        (if b.broken then b else { b with broken := true, reason := BitVec.ofNat 8 (0x80 + (s.G a).bits 6 0) })))) ∧
    (s.Issues (.brst n) → (∃ k, s.ctx.progress = some k ∧ b.resets ≠ k) → exec (.brst n) s = .next s.done) ∧
    (s.Issues (.brst n) → s.ctx.progress = some b.resets → exec (.brst n) s = .next s.standStill) ∧
    (s.Issues (.brst n) → s.ctx.progress = none → ∃ t, exec (.brst n) s = .next t ∧ t.ctx.pc = s.ctx.groupStart ∧
      t.ctx.progress = some b.resets ∧ t.ctx.g = s.ctx.g ∧
      t.unc.barriers = (s.putReset (b.mapMember m.lcore fun (x : Member) => { x with reset := true })).unc.barriers)) ∧
  (∀ (s : State) (id : CoreId) (n : BitVec 2) (c : LCore) (b : Barrier) (m : Member), s.findCore id = some c →
    s.findBarrier c n.toNat = some b → b.member id.lcore = some m → m.lp ≠ m.signalled → s.unc.bankOps = [] → s.unc.lines = [] →
    let b' := b.mapMember m.lcore fun (x : Member) => { x with signalled := m.lp }
    ((b'.full = false ∨ s.pkg.takeover = true) →
      exec (.arrivalSignal id n) s = .next { s.putBarrier b' with stalled := false }) ∧
    (b'.full = true → s.pkg.takeover = false → (∀ x ∈ b'.members, x.snap = false ∧ x.request = none) →
      b'.complete.gp = b.gp + 1 ∧ b'.complete.snapPhase = false ∧ b'.complete.mixed = false ∧
      exec (.arrivalSignal id n) s = .next { (s.putBarrier b').putBarrier b'.complete with stalled := false }))

/-! ### Events of a context -/

/-- TAKE_EVENT, HELPER_STOP_END, SPIN_WAIT_END, LOAD_DATA_RETURN, HOST_COMPLETION_TIMEOUT, HOST_LINK_DOWN and
XBOUND_RAISE_COMPLETE (R401, R174, R139, R454, R455, R123). An event is taken as a trap with what was kept for it, BROKEN
before MAIL before HANDBACK, no word having issued and BY as it was; a stopped helper at its boundary is no longer live, keeps its registers, and passes its
reports to context 0; a SPIN's wait ends, in every member of a fused gang, once its block or line has changed, an enabled event
is pending, its core is to be saved, or 65,536 cycles have passed; a far atomic's value reaches its register; a wait for the host
ends with the bytes at the address to which the read was sent, or with the reason for which the word will trap REMOTE; a raise of
XBOUND completes when what named the new code has drained. -/
def Obligations.ContextEvents : Prop :=
  (∀ (s : State) (c : CtxId), s.core.id = c.core → s.ctx.num = c.num → s.core.resident = true → s.inGang = false →
    s.ctx.live = true → s.ctx.ti = false → s.ctx.atBoundary = true → s.ctx.sys.trapv.bits 19 2 ≠ 0 →
    let e := s.ctx.sys.events &&& s.ctx.sys.evmask
    (e.getLsbD 0 = true → exec (.takeEvent c) s =
      .next (s.takeEvent (Trap.plain cBROKEN s.ctx.evInfo.broken.1 s.ctx.evInfo.broken.2))) ∧
    (e.getLsbD 0 = false → e.getLsbD 1 = true → exec (.takeEvent c) s =
      .next (s.takeEvent (Trap.plain cMAIL s.ctx.evInfo.mail.1 s.ctx.evInfo.mail.2))) ∧
    (e.getLsbD 0 = false → e.getLsbD 1 = false → e.getLsbD 2 = true → exec (.takeEvent c) s =
      .next (s.takeEvent (Trap.plain cHANDBACK s.ctx.evInfo.handback.1 s.ctx.evInfo.handback.2)))) ∧
  (∀ (s : State) (c : CtxId) (k : LCore) (h : Ctx), s.findCore c.core = some k → k.findCtx c.num = some h → c.num ≠ 0 →
    h.live = true → h.stopReq = true → h.atBoundary = true →
    ∃ (t : State) (k' : LCore) (h' : Ctx), s.ActsTo (.helperStopEnd c) t ∧ t.findCore c.core = some k' ∧
      k'.findCtx c.num = some h' ∧ h'.live = false ∧ h'.stopReq = false ∧ h'.g = h.g ∧ h'.v = h.v ∧ h'.k = h.k ∧
      (∀ x, k.findCtx 0 = some x → ∃ x', k'.findCtx 0 = some x' ∧ x'.reports = x.reports ++ h.reports.map Report.pass ∧
        x'.g = x.g ∧ x'.pc = x.pc) ∧
      t.unc = s.unc ∧ t.disp = s.disp ∧ t.pkg = s.pkg) ∧
  (∀ (s : State) (c : CtxId) (why : SpinEnd) (k : LCore) (x : Ctx), s.findCore c.core = some k →
    k.findCtx c.num = some x → s.spinOver k x why = true →
    exec (.spinWaitEnd c why) s = .next { (if k.fused then (s.gang k).map (·.id) else [k.id]).foldl
      (fun (u : State) id => u.mapCtx id c.num Ctx.endSpin) (s.mapCtx c.core c.num Ctx.endSpin) with stalled := false }) ∧
  (∀ (s : State) (k : LCore) (x : Ctx) (r since : Word) (w : Watch) (woken : Bool), x.wait = some (.spin r w woken since) →
    x.endSpin = { x with wait := none } ∧ s.spinOver k x .changed = woken ∧
    (s.spinOver k x .event = true ↔ x.sys.events &&& x.sys.evmask ≠ 0) ∧ s.spinOver k x .switched = s.saveDue k ∧
    (s.spinOver k x .limit = true ↔ 65536 ≤ (s.cycle - since).toNat)) ∧
  (∀ (s : State) (c : CtxId) (k : LCore) (x : Ctx) (r : HostReply), s.findCore c.core = some k → k.findCtx c.num = some x →
    x.arriving ≠ [] → exec (.loadDataReturn c r) s = .next { s.mapCtx c.core c.num Ctx.arrive with stalled := false }) ∧
  (∀ (x : Ctx) (d : BitVec 6) (m : Word) (rest : List (BitVec 6 × Word)), x.arriving = (d, m) :: rest → d ≠ 0 →
    x.arrive.gval d.toNat = m ∧ x.arrive.pendG.getLsbD d.toNat = false ∧ x.arrive.arriving = rest ∧ x.arrive.pc = x.pc ∧
    ∀ n, n ≠ d.toNat → x.arrive.gval n = x.gval n) ∧
  (∀ (s : State) (c : CtxId) (k : LCore) (x : Ctx) (ref : Word) (n addr : Nat), s.findCore c.core = some k →
    k.findCtx c.num = some x → x.wait = some (.host ref n addr) →
    let fails (r : BitVec 8) : Host.Outcome State Fault Refusal :=
      .next { s.mapCtx c.core c.num (fun (y : Ctx) => { y with wait := none, remoteBad := some r }) with stalled := false }
    exec (.hostCompletionTimeout c) s = fails 4 ∧
    (s.pkg.hostUp = true → x.arriving = [] →
      exec (.loadDataReturn c .unsupported) s = fails 5 ∧ exec (.loadDataReturn c .poisoned) s = fails 6 ∧
      exec (.loadDataReturn c .data) s = .next { s.mapCtx c.core c.num (fun (y : Ctx) =>
        { y with wait := none, hostGot := (ref, s.unc.host.read addr n) :: y.hostGot }) with stalled := false })) ∧
  (∀ s : State, s.pkg.hostUp = true → ∃ t, s.ActsTo .hostLinkDown t ∧ t.pkg = { s.pkg with hostUp := false } ∧
    t.unc = s.unc ∧ t.disp = s.disp ∧ t.core.lm = s.core.lm ∧ t.ctx.g = s.ctx.g ∧
    ∀ c ∈ t.cores, ∀ x ∈ c.ctxs, ∀ ref n addr, x.wait ≠ some (.host ref n addr)) ∧
  (∀ (s : State) (id : CoreId) (c : LCore) (r : Raise), s.findCore id = some c → c.raise = some r →
    (s.focusCore id).inGang = false → c.xbound.toNat < r.bound * 4096 → s.drains c r.ctx c.xbound.toNat (r.bound * 4096) = false →
    exec (.xboundRaiseComplete id) s = .next { s.mapCore id (fun (c : LCore) =>
      { c with xbound := BitVec.ofNat 21 (r.bound * 4096) }) with stalled := false })

/-! ### Retirement, digest, chain and metering -/

/-- The timers of R443 and R450, METERING_READ_MESSAGE (R449, R451), CHAIN_ADVANCE and CHAIN_RECORD_WRITE (R444, R445) and
RETIRE_TASK (R440, R441). The digest fold moves a core's unfolded sum into its pending entry; the metering fold adds a
context's counts to its record and clears them; a chain passes its next position, hashing the entry of a task with DIG;
firmware writes a chain record while its queue is disabled; a retired task leaves no logical core, no barrier record and no place
of its own behind. Retirement, the chains and the management answers need a Conjunction die (R16, R345). -/
def Obligations.RetirementEvents : Prop :=
  (∀ (s : State) (t : Task), s.peers = [] → s.findTask s.core.id.task = some t → t.phase = .running → t.snap = true →
    s.core.digestSum ≠ 0 → ∃ (u : State) (t' : Task), s.ActsTo .digestFoldTimer u ∧ u.core.digestSum = 0 ∧
      u.findTask s.core.id.task = some t' ∧
      NatMap.get t'.pending s.core.id.lcore = some ((NatMap.get t.pending s.core.id.lcore).getD 0 + s.core.digestSum) ∧
      u.unc = s.unc ∧ u.ctx.g = s.ctx.g) ∧
  (∀ (s : State) (t : Task) (m : MeterRec), s.peers = [] → s.core.others = [] → s.findTask s.core.id.task = some t →
    s.findMeter t.meter = some m → s.ctx.live = true → ∃ (u : State) (m' : MeterRec), s.ActsTo .meteringFoldTimer u ∧
      u.ctx.unit = ⟨Vector.replicate 8 0, s.ctx.unit.femto⟩ ∧ u.findMeter t.meter = some m' ∧
      (∀ i : Fin 8, m'.counters[i] = m.counters[i] + s.ctx.unit.counts[i]) ∧ m'.folds = m.folds + 1 ∧ m'.time = s.timeUs ∧
      u.ctx.g = s.ctx.g ∧ u.unc = s.unc) ∧
  (∀ (s : State) (n : BitVec 32) (m : MeterRec), s.headless = false → s.findMeter n = some m →
    exec (.meteringReadMessage n) s = .next { s with
      pkg := { s.pkg with identity := { s.pkg.identity with meterReplies := s.pkg.identity.meterReplies ++ [m.bytes] } }
      stalled := false } ∧
    m.bytes.length = 128) ∧
  (∀ (s : State) (q : BitVec 6) (r : Nat × Bool × List Byte), s.headless = false →
    (s.chain q.toNat).recorded.find? (fun x => x.1 = (s.chain q.toNat).folded.toNat + 1) = some r →
    ∃ t, s.ActsTo (.chainAdvance q) t ∧ (t.chain q.toNat).folded = (s.chain q.toNat).folded + 1 ∧
      (t.chain q.toNat).value = (if r.2.1 then sha256 ((s.chain q.toNat).value ++ r.2.2) else (s.chain q.toNat).value) ∧
      (∀ p : BitVec 6, p ≠ q → t.chain p.toNat = s.chain p.toNat) ∧ t.core = s.core ∧ t.unc = s.unc) ∧
  (∀ (s : State) (q : BitVec 6) (v : List Byte) (f : Word), (s.queue q.toNat).en = false → v.length = 32 →
    ∃ t, s.ActsTo (.chainRecordWrite q v f) t ∧ (t.chain q.toNat).value = v ∧ (t.chain q.toNat).folded = f ∧
      (∀ p : BitVec 6, p ≠ q → t.chain p.toNat = s.chain p.toNat) ∧ t.core = s.core ∧ t.unc = s.unc) ∧
  (∀ (s s₁ s₂ s₃ s₄ : State) (task : Word) (st n : Nat) (t : Task), s.headless = false → s.findTask task = some t →
    (∀ o ∈ s.unc.bankOps, o.core.task ≠ task) → t.phase = .running → s.taskEnded t = true →
    Op.settleTask t tRETIRED (((s.cores.filter fun c => c.id.task = task).map fun c => clusterOf c.slot).foldl
      State.releaseCluster s) = .ok ((), s₁) →
    Op.tcbState t.queue.toNat t.tcb s₁ = .ok ((st, n), s₂) →
    Op.putState t.queue.toNat t.tcb tRETIRED n s₂ = .ok ((), s₃) →
    Op.successors t.queue.toNat (t.word 0x28) ((t.word 0x30).bits 31 0) 0 s₃ = .ok ((), s₄) →
    exec (.retireTask task) s = .next { s₄.releaseTask task with stalled := false }) ∧
  (∀ (s s₁ : State) (task : Word) (t : Task), s.headless = false → s.findTask task = some t → (∀ o ∈ s.unc.bankOps, o.core.task ≠ task) →
    (t.phase = .failed → Op.settleTask t tFAILED s = .ok ((), s₁) →
      exec (.retireTask task) s = .next { s₁.releaseTask task with stalled := false }) ∧
    (t.phase = .cancelled → Op.settleTask t tCANCELLED s = .ok ((), s₁) →
      exec (.retireTask task) s = .next { s₁.releaseTask task with stalled := false })) ∧
  (∀ (s : State) (task : Word), task ≠ 0 → (s.releaseTask task).findTask task = none ∧
    (∀ c ∈ (s.releaseTask task).cores, c.id.task ≠ task) ∧ (∀ b ∈ (s.releaseTask task).unc.barriers, b.task ≠ task))

/-! ### The Conjunction directory -/

/-- The steps of a coherent request for a line homed here (R333 to R336, R338): a GETS, a GETX or another package's request makes
the line BUSY and opens a transaction, or waits behind the one that has; the owner supplies its data and keeps the line as S, O or
not at all; a sharer loses its copy; the grant gives the requester the line, in M where it owns it; and the end of the
transaction leaves the entry that R335 gives for a GETX and for a GETS of a line in I, E or M. A PUT gives a line up. The loss of
one Conjunction die, the survivor's takeover and the loss of both (R344, R345); the reachability messages and what RESET, DOWN and
a 10 ms wait do (R346, R347); the control window (R333, R348). -/
def Obligations.DirectoryAndRemotePackages : Prop :=
  ((∀ (s : State) (cl line : Nat) (own : Bool), s.dirHeld line = false → s.unc.directory = [] →
     tagHome line = s.pkg.address.toNat →
     let opened (q : Requester) : State := { s with
       unc := { s.unc with
         directory := [{ DirEntry.empty line with state := .busy }]
         dirTxs := ⟨line, q, own, DirEntry.empty line, none, [], none, [], false, 0⟩ :: s.unc.dirTxs }
       stalled := false }
     (cl < 128 → s.translated cl line = true → s.findLine cl line = none →
       exec (if own then .dirGetx cl line else .dirGets cl line) s = .next (opened (.cluster cl))) ∧
     (∀ p : BitVec 13, p ≠ s.pkg.address → s.reach p.toNat = 0 → s.unc.lines = [] → s.fenceLevel (tagStack line / 2) ≠ 2 →
       exec (.proxyRequest p line (.request own)) s = .next (opened (.package p)))) ∧
   (∀ (s : State) (cl line : Nat) (own : Bool), s.dirHeld line = false → (s.dirEntry line).state = .busy → cl < 128 →
     s.translated cl line = true → s.findLine cl line = none →
     exec (if own then .dirGetx cl line else .dirGets cl line) s = .next { s with
       unc := { s.unc with dirWaiting := s.unc.dirWaiting ++ [⟨line, .cluster cl, own⟩] }, stalled := false }) ∧
   (∀ (s : State) (line c : Nat) (tx : DirTx) (l : CacheLine), s.dirHeld line = false → s.findTx line = some tx →
     tx.forward = some c → s.findLine c line = some l → ∃ (t : State) (tx' : DirTx), s.ActsTo (.dirForward line) t ∧
       t.findTx line = some tx' ∧ tx'.forward = none ∧ tx'.data = some l.data ∧ tx'.invalidate = tx.invalidate ∧
       (tx.own = true → t.findLine c line = none) ∧
       (tx.own = false → t.findLine c line = some { l with state := if tx.before.state = .exclusive then .shared else .owned }) ∧
       (∀ d m, (d, m) ≠ (c, line) → t.findLine d m = s.findLine d m) ∧ t.unc.hbm = s.unc.hbm ∧ t.core.lm = s.core.lm ∧
       t.ctx.g = s.ctx.g ∧ t.ctx.pc = s.ctx.pc) ∧
   (∀ (s : State) (line c : Nat) (tx : DirTx), s.dirHeld line = false → s.findTx line = some tx → c ∈ tx.invalidate →
     ∃ (t : State) (tx' : DirTx), s.ActsTo (.dirInvalidate c line) t ∧ t.findTx line = some tx' ∧
       tx'.invalidate = tx.invalidate.filter (fun x => x ≠ c) ∧ t.findLine c line = none ∧
       (∀ d m, (d, m) ≠ (c, line) → t.findLine d m = s.findLine d m) ∧ t.unc.hbm = s.unc.hbm ∧ t.core.lm = s.core.lm ∧
       t.ctx.g = s.ctx.g ∧ t.ctx.pc = s.ctx.pc) ∧
   (∀ (s : State) (line c : Nat) (tx : DirTx), s.dirHeld line = false → s.findTx line = some tx → tx.requester = .cluster c →
     tx.forward = none → tx.invalidate = [] → tx.granted = false →
     ((s.unc.lines.filter fun l => l.cluster = c).length < Config.ccLines ∨ (s.findLine c line).isSome = true) → ∃ (t : State) (tx' : DirTx) (l : CacheLine),
       s.ActsTo (.dirGrant line) t ∧ t.findTx line = some tx' ∧ tx'.granted = true ∧ t.findLine c line = some l ∧
       (tx.own = true → l.state = .modified) ∧
       (s.findLine c line = none → l.data = tx.data.getD (s.bankLine line) ∧ l.valid = BitVec.allOnes 128 ∧
         (tx.own = false → tx.before.state ≠ .invalid → l.state = .shared)) ∧
       (∀ l₀, s.findLine c line = some l₀ → l.data = l₀.data) ∧ t.unc.hbm = s.unc.hbm ∧ t.core = s.core) ∧
   (∀ (s : State) (line c : Nat) (tx : DirTx), s.dirHeld line = false → s.findTx line = some tx → tx.granted = true →
     tx.requester = .cluster c → tx.before.tag = line → (∀ w ∈ s.unc.dirWaiting, w.tag ≠ line) →
     ∃ t : State, s.ActsTo (.dirTransactionComplete line) t ∧ t.findTx line = none ∧
       (tx.own = true → (t.dirEntry line).state = .modified ∧ (t.dirEntry line).owner = c ∧
         (t.dirEntry line).sharers = sharerBit c) ∧
       (tx.own = false → tx.before.state = .invalid → tx.before.dispatcher = false → tx.before.packages = [] →
         tx.before.coarse = false → tx.before.granted ≠ .shared → tx.before.granted ≠ .owned →
         (∀ l, s.findLine c line = some l → l.state ≠ .modified) →
         (t.dirEntry line).state = .exclusive ∧ (t.dirEntry line).owner = c ∧ (t.dirEntry line).sharers = sharerBit c) ∧
       (tx.own = false → tx.before.state = .exclusive → (t.dirEntry line).state = .shared ∧
         (t.dirEntry line).sharers = tx.before.sharers ||| sharerBit c) ∧
       (tx.own = false → tx.before.state = .modified → (t.dirEntry line).state = .owned ∧
         (t.dirEntry line).owner = tx.before.owner ∧ (t.dirEntry line).sharers = tx.before.sharers ||| sharerBit c) ∧
       t.unc.lines = s.unc.lines ∧ t.unc.hbm = s.unc.hbm ∧ t.core = s.core) ∧
   (∀ (s : State) (cl line : Nat) (l : CacheLine), s.findLine cl line = some l →
     (l.state = .scoped → exec (.dirPut cl line) s = .next { (s.writeBack l).evictLine cl line with stalled := false }) ∧
     (l.state ≠ .scoped → s.dirHeld line = false → (s.dirEntry line).state ≠ .busy →
       exec (.dirPut cl line) s = .next { s.dirPutLine cl line with stalled := false } ∧
       (s.dirPutLine cl line).findLine cl line = none ∧
       ((s.dirEntry line).state = .modified → (s.dirEntry line).remote = false → (s.dirEntry line).bank = false →
         (s.dirEntry line).dispatcher = false →
         (s.dirEntry line).owner = cl → (s.dirEntry line).tag = line →
         ((s.dirPutLine cl line).dirEntry line).state = .invalid ∧
         (s.dirPutLine cl line).unc.hbm = (s.writeBack l).unc.hbm)))) ∧
  ((∀ (s : State) (c : BitVec 1), (s.cdie c).lost = false → (s.cdie (1 - c)).lost = false →
     ∃ t, s.ActsTo (.conjunctionDieLoss c) t ∧ (t.cdie c).lost = true ∧ (t.cdie (1 - c)).lost = false ∧
       (t.cdie (1 - c)).mirrorLost = true ∧ t.pkg.takeover = true ∧ t.pkg.msix = s.pkg.msix ++ [3] ∧ (∀ line, t.dirHeld line = true) ∧
       (∀ p ∈ t.pkg.ports, p.num.toNat % 32 / 16 = c.toNat → p.up = false) ∧ t.core = s.core ∧ t.unc = s.unc ∧ t.disp = s.disp) ∧
   (∀ s : State, s.pkg.takeover = true → (∀ b ∈ s.unc.barriers, b.full = false) → ∃ t, s.ActsTo .conjunctionTakeoverComplete t ∧ t.pkg = { s.pkg with takeover := false } ∧
     (∀ c : BitVec 1, (t.cdie c).lost = (s.cdie c).lost ∧ ((s.cdie c).lost = false → (t.cdie c).primaryAll = true)) ∧
     t.core = s.core ∧ t.unc = s.unc ∧ t.disp = s.disp) ∧
   (∀ s : State, (∃ c, (s.cdie c).lost = false) → ∃ t, s.ActsTo .bothConjunctionLoss t ∧
     (∀ c, (t.cdie c).lost = true) ∧ t.disp.tasks = [] ∧ t.pkg.hostUp = false ∧ t.pkg.fence = 0xAAAA ∧ t.unc.dirTxs = [] ∧
     t.unc.bankOps = [] ∧ (∀ p ∈ t.pkg.ports, p.up = false) ∧ (∀ q : Fin 64, t.disp.queues[q].status = .stopped)) ∧
   (∀ (s : State) (p : BitVec 13), p ≠ s.pkg.address →
     (∀ r : Bool, (s.remotePkg p).state = .down →
       ∃ t, s.ActsTo (.linkStateMessage p r) t ∧ t.remotePkg p = s.remotePkg p ∧ t.unc = s.unc ∧ t.core = s.core) ∧
     ((s.remotePkg p).state ≠ .down →
       (∃ t, s.ActsTo (.linkStateMessage p false) t ∧ (t.remotePkg p).state = .unreachable ∧ t.unc = s.unc ∧ t.core = s.core) ∧
       (∃ t, s.ActsTo (.linkStateMessage p true) t ∧ (t.remotePkg p).state = (if (s.remotePkg p).stale then .reset else .up) ∧ t.unc = s.unc ∧
         ∀ c ∈ t.cores, ∀ x ∈ c.ctxs, ∀ r, x.wait ≠ some (.route r p))) ∧
     ((s.remotePkg p).state = .unreachable → ∃ t, s.ActsTo (.remoteRouteTimeout p) t ∧ t.unc = s.unc ∧
       (∀ r, s.ctx.wait = some (.route r p) → t.ctx.wait = none ∧ t.ctx.remoteBad = some 1) ∧
       (∀ c ∈ t.cores, ∀ x ∈ c.ctxs, ∀ r, x.wait ≠ some (.route r p)) ∧
       ∀ c ∈ t.cores, ∀ r ∈ c.copies.flight, r.timedOut = some p) ∧
     (∀ e : BitVec 32, e ≠ (s.remotePkg p).epoch → ∃ t, s.ActsTo (.remoteEpochChange p e) t ∧
       (t.remotePkg p).state = .reset ∧ (t.remotePkg p).epoch = e ∧
       (∀ r, s.ctx.wait = some (.route r p) → t.ctx.wait = none ∧ t.ctx.remoteBad = some 2) ∧
       (s.unc.dirTxs = [] → (s.unc.directory.map (·.tag)).Nodup → ∀ x ∈ s.unc.directory, x.remote = true →
         x.packages.head? = some p → (x.state = .owned ∨ x.state = .modified) →
         (t.dirEntry x.tag).state = .lost ∧ (t.dirEntry x.tag).reason = 3)) ∧
     (∃ t, s.ActsTo (.remotePowerDown p) t ∧ (t.remotePkg p).state = .down ∧ (t.remotePkg p).epoch = (s.remotePkg p).epoch ∧
       (∀ r, s.ctx.wait = some (.route r p) → t.ctx.wait = none ∧ t.ctx.remoteBad = some 3))) ∧
   (∀ (s : State) (c : BitVec 1), (s.cdie c).lost = false →
     let tag := (s.cdie c).select.bits 45 0
     ((∀ e ∈ s.unc.directory, e.tag ≠ tag) → ∃ t, s.ActsTo (.dcmdRead c) t ∧ (t.cdie c).dent = [0, 0, 0, 0] ∧ t.unc = s.unc ∧
       t.core = s.core) ∧
     (∀ e, s.unc.directory.find? (fun x => x.tag = tag) = some e → ∃ (t : State) (w0 w1 w2 w3 : Word),
       s.ActsTo (.dcmdRead c) t ∧ (t.cdie c).dent = [w0, w1, w2, w3] ∧ w0.bits 63 61 = e.state.code ∧
       w0.getLsbD 60 = e.pinned ∧ w0.getLsbD 59 = e.coarse ∧ (w0.getLsbD 58 = true ↔ e.home ≠ s.pkg.address) ∧ w0.getLsbD 57 = e.dispatcher ∧
       w0.getLsbD 56 = e.bank ∧ w0.getLsbD 55 = e.remote ∧ w0.bits 54 48 = e.owner % 128 ∧
       w0.bits 47 35 = e.home.toNat ∧ w1.toNat + w2.toNat * 2 ^ 64 = e.sharers.toNat ∧ w3.bits 55 52 = min 4 e.packages.length ∧
       t.unc = s.unc ∧ t.core = s.core) ∧
     ((s.dirEntry tag).state = .lost → (s.dirEntry tag).tag = tag → ∃ t, s.ActsTo (.dcmdClearLost c) t ∧
       (t.dirEntry tag).state = .invalid ∧ t.unc.hbm = s.unc.hbm ∧ t.unc.lines = s.unc.lines ∧ t.core = s.core) ∧
     ((s.dirEntry tag).state ≠ .lost → exec (.dcmdClearLost c) s = .next { s with stalled := false }) ∧
     (∀ e, s.unc.directory.find? (fun x => x.tag = tag) = some e →
       ((e.pinned = true ∨ e.state = .busy ∨ e.state = .lost) → exec (.dcmdRecall c) s = .next { s with stalled := false }) ∧
       (e.pinned = false → e.state ≠ .busy → e.state ≠ .lost → exec (.dcmdRecall c) s =
         .next { s.recallEntry e with stalled := false } ∧ ((s.recallEntry e).dirEntry tag).state = .invalid)) ∧
     ((∀ e ∈ s.unc.directory, e.tag ≠ tag) → exec (.dcmdRecall c) s = .next { s with stalled := false })))
/-! ### Vector words -/

/-- FRAME of every word whose completion is stated below by `done`, `doneG`, `doneV` or `doneK`: the PC moves to the next
word; the other registers, the system registers, the engines, the rings, all memory and everything outside the core
are unchanged; a write to g0 or k0 is discarded (R10). FRAME of a vector word that writes v[d], g[d] or k[d], or no
register: it counts one vector instruction in METR1, may raise METR7 (energy), moves the PC to the next word, and changes none of
the other registers, no memory and nothing outside the core. -/
def Obligations.CompletedWordFrame : Prop :=
  ((∀ (s : State) (d : BitVec 6) (v : Word),
     (s.doneG d v).G d = (if d = 0 then 0 else v) ∧ s.SameG (s.doneG d v) d ∧ s.SameVK (s.doneG d v) ∧
     s.SameSys (s.doneG d v) ∧ s.SameCoreRest (s.doneG d v) ∧ s.SameOutside (s.doneG d v) ∧
     (∀ o, (s.doneG d v).localByte o = s.localByte o) ∧ (s.doneG d v).ctx.pc = s.ctx.pc + 4) ∧
   (∀ (s : State) (d : BitVec 5) (v : VWord),
     (s.doneV d v).V d = v ∧ (∀ n, n ≠ d → (s.doneV d v).V n = s.V n) ∧ (s.doneV d v).ctx.g = s.ctx.g ∧
     (s.doneV d v).ctx.k = s.ctx.k ∧ s.SameSys (s.doneV d v) ∧ s.SameCoreRest (s.doneV d v) ∧ s.SameOutside (s.doneV d v)) ∧
   (∀ (s : State) (d : BitVec 3) (v : BitVec 32),
     (s.doneK d v).K d = (if d = 0 then BitVec.allOnes 32 else v) ∧ (∀ n, n ≠ d → (s.doneK d v).K n = s.K n) ∧
     (s.doneK d v).ctx.g = s.ctx.g ∧ (s.doneK d v).ctx.v = s.ctx.v ∧ s.SameSys (s.doneK d v) ∧
     s.SameCoreRest (s.doneK d v) ∧ s.SameOutside (s.doneK d v)) ∧
   (∀ s : State, s.done.ctx.g = s.ctx.g ∧ s.SameVK s.done ∧ s.SameSys s.done ∧ s.SameCoreRest s.done ∧
     s.SameOutside s.done ∧ s.done.ctx.pc = s.ctx.pc + 4)) ∧
  (∀ s : State,
     (s.counted 4).ctx.unit.counts[1] = s.ctx.unit.counts[1] + 1 ∧
     (∀ i : Fin 8, i ≠ 1 → i ≠ 7 → (s.counted 4).ctx.unit.counts[i] = s.ctx.unit.counts[i]) ∧
     (∀ (d : BitVec 5) (v : VWord), (s.doneVec d v).V d = v ∧ (∀ n, n ≠ d → (s.doneVec d v).V n = s.V n) ∧
       (s.doneVec d v).ctx.g = s.ctx.g ∧ (s.doneVec d v).ctx.k = s.ctx.k ∧ s.SameSys (s.doneVec d v) ∧
       s.SameCoreRest (s.doneVec d v) ∧ s.SameOutside (s.doneVec d v) ∧ (s.doneVec d v).ctx.pc = s.ctx.pc + 4) ∧
     (∀ (d : BitVec 5) (v : Word), (s.doneVecG d v).G (d.setWidth 6) = (if d = 0 then 0 else v) ∧
       s.SameG (s.doneVecG d v) (d.setWidth 6) ∧ s.SameVK (s.doneVecG d v) ∧ s.SameSys (s.doneVecG d v) ∧
       s.SameCoreRest (s.doneVecG d v) ∧ s.SameOutside (s.doneVecG d v) ∧ (s.doneVecG d v).ctx.pc = s.ctx.pc + 4) ∧
     (∀ (d : BitVec 3) (v : BitVec 32), (s.doneVecK d v).K d = (if d = 0 then BitVec.allOnes 32 else v) ∧
       (∀ n, n ≠ d → (s.doneVecK d v).K n = s.K n) ∧ (s.doneVecK d v).ctx.g = s.ctx.g ∧ (s.doneVecK d v).ctx.v = s.ctx.v ∧
       s.SameSys (s.doneVecK d v) ∧ s.SameCoreRest (s.doneVecK d v) ∧ s.SameOutside (s.doneVecK d v) ∧
       (s.doneVecK d v).ctx.pc = s.ctx.pc + 4) ∧
     s.doneVecNone.ctx.g = s.ctx.g ∧ s.SameVK s.doneVecNone ∧ s.SameSys s.doneVecNone ∧ s.SameCoreRest s.doneVecNone ∧
     s.SameOutside s.doneVecNone ∧ s.doneVecNone.ctx.pc = s.ctx.pc + 4)

/-- The integer vector words of R203, for every element type, on every operand: active elements receive the value, mod 2^w,
inactive ones keep theirs (R196). -/
def Obligations.VectorIntegerResults : Prop :=
  ∀ ty : IntTy,
    let w := ty.bits
    let val (e : Nat) : Int := elemInt ty.signed w e
    let lo : Int := if ty.signed then -2 ^ (w - 1) else 0
    let hi : Int := if ty.signed then 2 ^ (w - 1) - 1 else 2 ^ w - 1
    CompletesV2 (fun d a b k => .vadd d a b k ty) w (fun x y => x + y) ∧
    CompletesV2 (fun d a b k => .vsub d a b k ty) w (fun x y => x - y) ∧
    CompletesV2 (fun d a b k => .vmul d a b k ty) w (fun x y => x * y) ∧
    CompletesV2 (fun d a b k => .vmin d a b k ty) w (fun x y => min (val x) (val y)) ∧
    CompletesV2 (fun d a b k => .vmax d a b k ty) w (fun x y => max (val x) (val y)) ∧
    CompletesV2 (fun d a b k => .vand d a b k ty) w (fun x y => ((x &&& y : Nat) : Int)) ∧
    CompletesV2 (fun d a b k => .vor d a b k ty) w (fun x y => ((x ||| y : Nat) : Int)) ∧
    CompletesV2 (fun d a b k => .vxor d a b k ty) w (fun x y => ((x ^^^ y : Nat) : Int)) ∧
    CompletesV2 (fun d a b k => .vandn d a b k ty) w (fun x y => ((x &&& (2 ^ w - 1 - y) : Nat) : Int)) ∧
    CompletesV2 (fun d a b k => .vshl d a b k ty) w (fun x y => x * 2 ^ (y % w)) ∧
    CompletesV2 (fun d a b k => .vshr d a b k ty) w (fun x y => x / 2 ^ (y % w)) ∧
    CompletesV2 (fun d a b k => .vsar d a b k ty) w (fun x y => elemInt true w x / 2 ^ (y % w)) ∧
    CompletesV2 (fun d a b k => .vadds d a b k ty) w (fun x y => max lo (min hi (val x + val y))) ∧
    CompletesV2 (fun d a b k => .vsubs d a b k ty) w (fun x y => max lo (min hi (val x - val y))) ∧
    CompletesV2 (fun d a b k => .vavg d a b k ty) w (fun x y => (val x + val y + 1) / 2) ∧
    CompletesV1 (fun d a k => .vabs d a k ty) w (fun x => |elemInt true w x|)

/-- The float vector words of R204 and R205 complete on every operand with one code for each element; VFABS and VFNEG clear
and invert the sign bit of any code. The rules of R198 hold of the codes of VFADD, VFSUB, VFMUL and the VFMA forms: an infinity
less itself, and a zero times an infinity even beside a NaN to be added, give the default NaN; else the first NaN operand is
quieted; and a finite sum, product or fused sum is the exact one rounded once. Those of R66 and R59 hold of VFMIN and VFMAX: the
lower or higher operand, −0 below +0; a NaN of the smaller payload; the default NaN for infinities of both signs. -/
def Obligations.VectorFloatResults : Prop :=
  (∀ ty : FltTy,
    let w := ty.bits
    let f := fmtOf ty
    CompletesV2 (fun d a b k => .vfadd d a b k ty) w (fun x y => addCode f x y) ∧
    CompletesV2 (fun d a b k => .vfsub d a b k ty) w (fun x y => subCode f x y) ∧
    CompletesV2 (fun d a b k => .vfmul d a b k ty) w (fun x y => mulCode f x y) ∧
    CompletesV2 (fun d a b k => .vfmin d a b k ty) w (fun x y => extremeCode f false 0 [x, y]) ∧
    CompletesV2 (fun d a b k => .vfmax d a b k ty) w (fun x y => extremeCode f true 0 [x, y]) ∧
    CompletesV1 (fun d a k => .vfabs d a k ty) w (fun x => x % 2 ^ (w - 1)) ∧
    CompletesV1 (fun d a k => .vfneg d a k ty) w (fun x => x + 2 ^ (w - 1))) ∧
  CompletesV3 .vfmaF32 32 (fun x y z => fmaF fmtF32 false false x y z) ∧
  CompletesV3 .vfmsF32 32 (fun x y z => fmaF fmtF32 false true x y z) ∧
  CompletesV3 .vfnmaF32 32 (fun x y z => fmaF fmtF32 true false x y z) ∧
  CompletesV3 .vfnmsF32 32 (fun x y z => fmaF fmtF32 true true x y z) ∧
  CompletesV3 .vfmaBf16 16 (fun x y z => fmaF fmtBf16 false false x y z) ∧
  CompletesV3 .vfmsBf16 16 (fun x y z => fmaF fmtBf16 false true x y z) ∧
  CompletesV3 .vfmaF16 16 (fun x y z => fmaF fmtF16 false false x y z) ∧
  CompletesV3 .vfmsF16 16 (fun x y z => fmaF fmtF16 false true x y z) ∧
  (∀ (ty : FltTy) (x y : Nat),
    let f := fmtOf ty
    (∀ n fr, decodeF f x = .nan n fr →
      addCode f x y = quietCode f n fr ∧ subCode f x y = quietCode f n fr ∧ mulCode f x y = quietCode f n fr) ∧
    (∀ n fr, (decodeF f x).isNan = false → decodeF f y = .nan n fr →
      addCode f x y = quietCode f n fr ∧ subCode f x y = quietCode f n fr ∧ mulCode f x y = quietCode f n fr) ∧
    (∀ n, decodeF f x = .inf n →
      (decodeF f y = .inf (!n) → addCode f x y = nanCode f) ∧ (decodeF f y = .inf n → subCode f x y = nanCode f) ∧
      (decodeF f y = .inf n → addCode f x y = infCode f n) ∧
      (∀ m e, decodeF f y = .num m 0 e → mulCode f x y = nanCode f ∧ mulCode f y x = nanCode f) ∧
      (∀ p q r, decodeF f y = .num p q r → addCode f x y = infCode f n ∧ subCode f x y = infCode f n ∧
        (q ≠ 0 → mulCode f x y = infCode f (n != p)))) ∧
    (∀ n m e p q r, decodeF f x = .num n m e → decodeF f y = .num p q r →
      RoundsSum f (addCode f x y) n m e p q r ∧ RoundsSum f (subCode f x y) n m e (!p) q r ∧
      mulCode f x y = roundF f .rne 0 (n != p) (m * q) (e + r) false)) ∧
  (∀ (ty : FltTy) (negP negC : Bool) (x y z : Nat),
    let f := fmtOf ty
    let r := fmaF f negP negC x y z
    (∀ n fr, decodeF f x = .nan n fr → r = quietCode f n fr) ∧
    (∀ n fr, (decodeF f x).isNan = false → decodeF f y = .nan n fr → r = quietCode f n fr) ∧
    (∀ n m e, (decodeF f x = .inf n ∧ decodeF f y = .num m 0 e ∨ decodeF f y = .inf n ∧ decodeF f x = .num m 0 e) →
      r = nanCode f) ∧
    (∀ n m e p q g, decodeF f x = .num n m e → decodeF f y = .num p q g →
      (∀ u fr, decodeF f z = .nan u fr → r = quietCode f u fr) ∧
      (∀ u, decodeF f z = .inf u → r = infCode f (u != negC)) ∧
      (∀ u w v, decodeF f z = .num u w v → RoundsSum f r ((n != p) != negP) (m * q) (e + g) (u != negC) w v))) ∧
  (∀ (ty : FltTy) (high : Bool) (x y : Nat),
    let f := fmtOf ty
    let r := extremeCode f high 0 [x, y]
    (∀ n fr, decodeF f x = .nan n fr →
      ((decodeF f y).isNan = false → r = payloadCode f (payloadOf fr)) ∧
      (∀ m fs, decodeF f y = .nan m fs → r = payloadCode f (min (payloadOf fr) (payloadOf fs)))) ∧
    (∀ n fr, (decodeF f x).isNan = false → decodeF f y = .nan n fr → r = payloadCode f (payloadOf fr)) ∧
    (∀ n, decodeF f x = .inf n → decodeF f y = .inf (!n) → r = nanCode f) ∧
    ((decodeF f x).isNan = false → (decodeF f y).isNan = false →
      (∀ n, decodeF f x = .inf n → decodeF f y ≠ .inf (!n)) →
      r = if high then (if orderKey f x < orderKey f y then y else x) else (if orderKey f y < orderKey f x then y else x)))

/-- The conversions of R206 to R210: VCVT, VCVTI, VCVTF, VPACK, VUNPK and VSCALE complete on every operand; under .sr the
origin register is read, in the other modes it is not. A narrowing VCVT clears the upper half of v[d]; VPACK changes
one slot only. -/
def Obligations.VectorConversions : Prop :=
  ∀ (s : State) (d a b : BitVec 5) (k : BitVec 3) (rm : RMode), s.VReady a → s.VReady d →
    let x := (s.V a).toNat
    let origin (r : BitVec 5) : Word := if rm = .sr then s.G (r.setWidth 6) else 0
    let drawn (r : BitVec 5) (l : Nat) : Nat := s.draw rm (origin r) l
    (∀ c : BitVec 3, c.toNat < 6 → s.Issues (.vcvt d a b k rm c) → (rm = .sr → s.CanRead (b.setWidth 6)) →
      ∃ v : VWord, exec (.vcvt d a b k rm c) s = .next (s.doneVec d v) ∧
        (c.toNat ≤ 1 → v.toNat < 2 ^ 128 ∧ ∀ i < 8, elemAt 16 v.toNat i = if (s.K k).getLsbD i then
            convertF fmtF32 (if c.toNat = 0 then fmtBf16 else fmtF16) rm (drawn b i) (elemAt 32 x i) % 2 ^ 16
          else elemAt 16 (s.V d).toNat i) ∧
        (c.toNat = 2 ∨ c.toNat = 3 → Masked 32 (s.K k) (s.V d) v fun i =>
          convertF (if c.toNat = 2 then fmtBf16 else fmtF16) fmtF32 rm 0 (elemAt 16 x i)) ∧
        (c.toNat = 4 → Masked 16 (s.K k) (s.V d) v fun i => convertF fmtBf16 fmtF16 rm (drawn b i) (elemAt 16 x i)) ∧
        (c.toNat = 5 → Masked 16 (s.K k) (s.V d) v fun i => convertF fmtF16 fmtBf16 rm (drawn b i) (elemAt 16 x i))) ∧
    (∀ c : BitVec 3, s.Issues (.vcvti d a b k rm c) → (rm = .sr → s.CanRead (b.setWidth 6)) →
      ∃ v : VWord, exec (.vcvti d a b k rm c) s = .next (s.doneVec d v) ∧ Masked (cvtFmt c).w (s.K k) (s.V d) v fun i =>
        convertToInt (cvtFmt c) (cvtSigned c) (cvtFmt c).w rm (drawn b i) (elemAt (cvtFmt c).w x i)) ∧
    (∀ c : BitVec 3, s.Issues (.vcvtf d a b k rm c) → (rm = .sr → s.CanRead (b.setWidth 6)) →
      ∃ v : VWord, exec (.vcvtf d a b k rm c) s = .next (s.doneVec d v) ∧ Masked (cvtFmt c).w (s.K k) (s.V d) v fun i =>
        convertFromInt (cvtFmt c) rm (drawn b i) (elemInt (cvtSigned c) (cvtFmt c).w (elemAt (cvtFmt c).w x i))) ∧
    (s.CanRead (b.setWidth 6) → (rm = .sr → s.CanRead ((b + 1).setWidth 6)) →
      let g := s.G (b.setWidth 6)
      (∀ p : PackFmt, s.Issues (.vpack d a b k rm p) →
        let n := packBits p
        let lo := 8 * n * (g.bits 34 32 % (if n = 4 then 8 else 4))
        ∃ v : VWord, exec (.vpack d a b k rm p) s = .next (s.doneVec d v) ∧
          (∀ l < 8, elemAt n (v.toNat / 2 ^ lo) l = if (s.K k).getLsbD l
            then packElem p rm (drawn (b + 1) l) g (elemAt 32 x l) % 2 ^ n else elemAt n ((s.V d).toNat / 2 ^ lo) l) ∧
          ∀ j < 256, j < lo ∨ lo + 8 * n ≤ j → v.getLsbD j = (s.V d).getLsbD j) ∧
      (∀ p : PackFmt, s.Issues (.vunpk d a b k rm p) →
        let n := packBits p
        let lo := 8 * n * (g.bits 34 32 % (if n = 4 then 8 else 4))
        ∃ v : VWord, exec (.vunpk d a b k rm p) s = .next (s.doneVec d v) ∧
          Masked 32 (s.K k) (s.V d) v fun l => unpackElem p rm (drawn (b + 1) l) g (elemAt n (x / 2 ^ lo) l)) ∧
      (∀ ty : FltTy, s.Issues (.vscale d a b k rm ty) →
        ∃ v : VWord, exec (.vscale d a b k rm ty) s = .next (s.doneVec d v) ∧
          Masked ty.bits (s.K k) (s.V d) v fun l => encodeF (fmtOf ty) rm (drawn (b + 1) l)
            ((decodeF (fmtOf ty) (elemAt ty.bits x l)).scale ((g.setWidth 16).toInt))))

/-- The permutes, reductions, compares, selection and bit words of R211 to R214 and R216 complete on every operand. -/
def Obligations.VectorMoveResults : Prop :=
  (∀ w : Width,
    (∀ (s : State) (d a b : BitVec 5) (k : BitVec 3), s.Issues (.vshuf d a b k w) → s.VReady a → s.VReady b → s.VReady d →
      ∃ v : VWord, exec (.vshuf d a b k w) s = .next (s.doneVec d v) ∧ Masked w.bits (s.K k) (s.V d) v fun i =>
        elemAt w.bits (s.V a).toNat (elemAt w.bits (s.V b).toNat i % (256 / w.bits))) ∧
    (∀ (s : State) (d b : BitVec 5) (k : BitVec 3), s.Issues (.vbcst d b k w) → s.CanRead (b.setWidth 6) → s.VReady d →
      ∃ v : VWord, exec (.vbcst d b k w) s = .next (s.doneVec d v) ∧
        Masked w.bits (s.K k) (s.V d) v fun _ => (s.G (b.setWidth 6)).toNat) ∧
    (∀ (s : State) (d n b : BitVec 5) (k : BitVec 3), s.Issues (.vins d n b k w) → s.CanRead (b.setWidth 6) → s.VReady d →
      ∃ v : VWord, exec (.vins d n b k w) s = .next (s.doneVec d v) ∧ Masked w.bits (s.K k) (s.V d) v fun i =>
        if i = n.toNat then (s.G (b.setWidth 6)).toNat else elemAt w.bits (s.V d).toNat i) ∧
    (∀ (s : State) (d a n : BitVec 5), s.Issues (.vext d a n w) → s.VReady a → s.CanWrite (d.setWidth 6) →
      exec (.vext d a n w) s = .next (s.doneVecG d (Word.ofN (elemAt w.bits (s.V a).toNat n.toNat)))) ∧
    (∀ (s : State) (d a b : BitVec 5) (k : BitVec 3), s.Issues (.vrot d a b k w) → s.VReady a → s.CanRead (b.setWidth 6) →
      s.VReady d → ∃ v : VWord, exec (.vrot d a b k w) s = .next (s.doneVec d v) ∧ Masked w.bits (s.K k) (s.V d) v fun i =>
        elemAt w.bits (s.V a).toNat ((i + (s.G (b.setWidth 6)).toNat) % (256 / w.bits))) ∧
    (∀ (s : State) (d a b : BitVec 5) (k : BitVec 3) (hi : Bool), s.Issues (.vzip d a b k hi w) → s.VReady a → s.VReady b →
      s.VReady d → ∃ v : VWord, exec (.vzip d a b k hi w) s = .next (s.doneVec d v) ∧
        Masked w.bits (s.K k) (s.V d) v fun i => elemAt w.bits (if i % 2 = 0 then s.V a else s.V b).toNat
          (i / 2 + if hi then 128 / w.bits else 0)) ∧
    (∀ (s : State) (d a b : BitVec 5) (k : BitVec 3) (od : Bool), s.Issues (.vuzp d a b k od w) → s.VReady a → s.VReady b →
      s.VReady d → ∃ v : VWord, exec (.vuzp d a b k od w) s = .next (s.doneVec d v) ∧
        Masked w.bits (s.K k) (s.V d) v fun i =>
          let j := 2 * i + if od then 1 else 0
          if i < 128 / w.bits then elemAt w.bits (s.V a).toNat j else elemAt w.bits (s.V b).toNat (j - 256 / w.bits)) ∧
    (∀ (s : State) (d a b : BitVec 5) (k : BitVec 3), s.Issues (.vsel d a b k w) → s.VReady a → s.VReady b → s.VReady d →
      ∃ v : VWord, exec (.vsel d a b k w) s = .next (s.doneVec d v) ∧ ∀ i < 256 / w.bits,
        elemAt w.bits v.toNat i = if (s.K k).getLsbD i then elemAt w.bits (s.V a).toNat i else elemAt w.bits (s.V b).toNat i) ∧
    (∀ (s : State) (d a : BitVec 5) (b : BitVec 4) (k : BitVec 3) (n : BitVec 6), s.Issues (.vfshl d a b k w n) →
      s.VReady a → s.VReady (b.setWidth 5) → s.VReady d → ∃ v : VWord, exec (.vfshl d a b k w n) s = .next (s.doneVec d v) ∧
        Masked w.bits (s.K k) (s.V d) v fun i =>
          (elemAt w.bits (s.V a).toNat i * 2 ^ w.bits + elemAt w.bits (s.V (b.setWidth 5)).toNat i) * 2 ^ n.toNat / 2 ^ w.bits) ∧
    CompletesV1 (fun d a k => .vclz d a k w) w.bits (fun x => clzN w.bits x) ∧
    CompletesV1 (fun d a k => .vctz d a k w) w.bits (fun x => ctzN w.bits x) ∧
    CompletesV1 (fun d a k => .vpopc d a k w) w.bits (fun x => popcN w.bits x)) ∧
  (∀ (s : State) (d a : BitVec 5) (b : BitVec 4) (k : BitVec 3) (t : BitVec 8), s.Issues (.vlop3 d a b k t) → s.VReady a →
    s.VReady (b.setWidth 5) → s.VReady d → ∃ v : VWord, exec (.vlop3 d a b k t) s = .next (s.doneVec d v) ∧
      ∀ j < 256, v.getLsbD j = if (s.K k).getLsbD (j / 8) then t.getLsbD (7 - (4 * ((s.V a).getLsbD j).toNat +
        2 * ((s.V (b.setWidth 5)).getLsbD j).toNat + ((s.V d).getLsbD j).toNat)) else (s.V d).getLsbD j) ∧
  (∀ (s : State) (d a : BitVec 5) (k : BitVec 3), s.VReady a → s.CanWrite (d.setWidth 6) →
    (∀ ty : IntTy,
      let active := activeElems ty.bits (s.K k) (s.V a)
      let vals := active.map (elemInt ty.signed ty.bits)
      (s.Issues (.vredadd d a k (.int ty)) → exec (.vredadd d a k (.int ty)) s = .next (s.doneVecG d (Word.ofI vals.sum))) ∧
      (s.Issues (.vredmax d a k (.int ty)) → exec (.vredmax d a k (.int ty)) s =
        .next (s.doneVecG d (Word.ofI (vals.foldl max (if ty.signed then -2 ^ (ty.bits - 1) else 0))))) ∧
      (s.Issues (.vredmin d a k (.int ty)) → exec (.vredmin d a k (.int ty)) s =
        .next (s.doneVecG d (Word.ofI (vals.foldl min (if ty.signed then 2 ^ (ty.bits - 1) - 1 else 2 ^ ty.bits - 1))))) ∧
      (s.Issues (.vredand d a k ty) → exec (.vredand d a k ty) s =
        .next (s.doneVecG d (Word.ofN (active.foldl (fun x y => x &&& y) (2 ^ ty.bits - 1))))) ∧
      (s.Issues (.vredor d a k ty) → exec (.vredor d a k ty) s =
        .next (s.doneVecG d (Word.ofN (active.foldl (fun x y => x ||| y) 0)))) ∧
      (s.Issues (.vredxor d a k ty) → exec (.vredxor d a k ty) s =
        .next (s.doneVecG d (Word.ofN (active.foldl (fun x y => x ^^^ y) 0))))) ∧
    (∀ ty : FltTy,
      let active := activeElems ty.bits (s.K k) (s.V a)
      (s.Issues (.vredadd d a k (.flt ty)) → exec (.vredadd d a k (.flt ty)) s =
        .next (s.doneVecG d (Word.ofN (redAddF ty (s.K k) (s.V a))))) ∧
      (s.Issues (.vredmax d a k (.flt ty)) → exec (.vredmax d a k (.flt ty)) s =
        .next (s.doneVecG d (Word.ofN (extremeCode (fmtOf ty) true (infCode (fmtOf ty) true) active)))) ∧
      (s.Issues (.vredmin d a k (.flt ty)) → exec (.vredmin d a k (.flt ty)) s =
        .next (s.doneVecG d (Word.ofN (extremeCode (fmtOf ty) false (infCode (fmtOf ty) false) active)))))) ∧
  (∀ (s : State) (d : BitVec 3) (a b : BitVec 5) (k : BitVec 3) (c : Cond), s.VReady a → s.VReady b →
    (∀ ty : IntTy, s.Issues (.vcmpInt d a b k c ty) → ∃ m : BitVec 32, exec (.vcmpInt d a b k c ty) s = .next (s.doneVecK d m) ∧
      ∀ i < 32, m.getLsbD i = (decide (i < 256 / ty.bits) && (s.K k).getLsbD i && compareI c
        (elemInt ty.signed ty.bits (elemAt ty.bits (s.V a).toNat i)) (elemInt ty.signed ty.bits (elemAt ty.bits (s.V b).toNat i)))) ∧
    (∀ ty : FltTy, s.Issues (.vcmpFlt d a b k c ty) → ∃ m : BitVec 32, exec (.vcmpFlt d a b k c ty) s = .next (s.doneVecK d m) ∧
      ∀ i < 32, m.getLsbD i = (decide (i < 256 / ty.bits) && (s.K k).getLsbD i && compareF (fmtOf ty) c
        (elemAt ty.bits (s.V a).toNat i) (elemAt ty.bits (s.V b).toNat i))))

/-- The mask words of R215 and the draws of R220 complete on every operand. -/
def Obligations.MaskAndDrawResults : Prop :=
  (∀ (s : State) (d a b : BitVec 3),
    (s.Issues (.kand d a b) → exec (.kand d a b) s = .next (s.doneVecK d (s.K a &&& s.K b))) ∧
    (s.Issues (.kor d a b) → exec (.kor d a b) s = .next (s.doneVecK d (s.K a ||| s.K b))) ∧
    (s.Issues (.kxor d a b) → exec (.kxor d a b) s = .next (s.doneVecK d (s.K a ^^^ s.K b))) ∧
    (s.Issues (.knot d a) → exec (.knot d a) s = .next (s.doneVecK d (~~~(s.K a)))) ∧
    (s.Issues (.kmov d a) → exec (.kmov d a) s = .next (s.doneVecK d (s.K a))) ∧
    (∀ f : BitVec 2, s.Issues (.kmovExpand d a f) → ∃ m : BitVec 32, exec (.kmovExpand d a f) s = .next (s.doneVecK d m) ∧
      ∀ i < 32, m.getLsbD i = (s.K a).getLsbD (i / 2 ^ f.toNat))) ∧
  (∀ (s : State) (d : BitVec 5) (a : BitVec 3), s.CanWrite (d.setWidth 6) →
    (s.Issues (.kpop d a) → ∃ n : Nat, exec (.kpop d a) s = .next (s.doneVecG d (Word.ofN n)) ∧
      n = ((List.range 32).filter fun i => (s.K a).getLsbD i).length) ∧
    (s.Issues (.kffs d a) → ∃ n : Nat, exec (.kffs d a) s = .next (s.doneVecG d (Word.ofN n)) ∧ (s.K a = 0 → n = 0) ∧
      (s.K a ≠ 0 → 1 ≤ n ∧ (s.K a).getLsbD (n - 1) = true ∧ ∀ i < n - 1, (s.K a).getLsbD i = false)) ∧
    (s.Issues (.kmovToG d a) → exec (.kmovToG d a) s = .next (s.doneVecG d ((s.K a).setWidth 64)))) ∧
  (∀ (s : State) (d : BitVec 3) (b : BitVec 5), s.CanRead (b.setWidth 6) →
    (s.Issues (.kmovFromG d b) → exec (.kmovFromG d b) s = .next (s.doneVecK d ((s.G (b.setWidth 6)).setWidth 32))) ∧
    (s.Issues (.rmask d b) → s.CanRead ((b + 1).setWidth 6) → ∃ m : BitVec 32, exec (.rmask d b) s = .next (s.doneVecK d m) ∧
      ∀ i < 32, (m.getLsbD i = true ↔
        quarter (streamDraw s.ctx.sys.rkey (Word.ofN s.lthread) (s.G (b.setWidth 6) + Word.ofN (i / 4))) (i % 4) <
          (s.G ((b + 1).setWidth 6)).bits 16 0))) ∧
  (∀ (s : State) (d b : BitVec 5), s.CanRead (b.setWidth 6) →
    (s.Issues (.rdraw d b) → s.CanWrite (d.setWidth 6) →
      exec (.rdraw d b) s = .next (s.doneVecG d (streamDraw s.ctx.sys.rkey (Word.ofN s.lthread) (s.G (b.setWidth 6))))) ∧
    (s.Issues (.rkey d b) → s.CanWrite (d.setWidth 6) →
      exec (.rkey d b) s = .next (s.doneVecG d (roundingKey s.core.regs.seed s.core.regs.step ((s.G (b.setWidth 6)).setWidth 32)))) ∧
    (∀ k : BitVec 3, s.Issues (.rvec d b k) → s.VReady d → ∃ v : VWord, exec (.rvec d b k) s = .next (s.doneVec d v) ∧
      Masked 64 (s.K k) (s.V d) v fun i =>
        (streamDraw s.ctx.sys.rkey (Word.ofN s.lthread) (s.G (b.setWidth 6) + Word.ofN i)).toNat))

/-- The vector loads and stores of R200 and R201 at local memory: bytes or lanes that the mask selects, and no access at all
with an empty mask; a store is to the local memory of a resident core that no SPIN watches; VLD and VST trap MISAL at a reference
that is no multiple of 32. The special-function words send one request, and the unit's events start it and write its active
elements (R217, R218). -/
def Obligations.VectorMemoryAndSfu : Prop :=
  (∀ (s : State) (v : BitVec 5) (a : BitVec 6) (k : BitVec 3) (imm : BitVec 12), s.CanRead a → s.VReady v →
    let ref := s.G a + immExt s.payloads imm * 32
    let o := refOffset ref
    (s.Issues (.vld v a k imm) →
      (ref.toNat % 32 ≠ 0 → exec (.vld v a k imm) s =
        .next (s.takeTrap (Trap.plain cMISAL ref ((⟨ref, 32, 5, 0, 0⟩ : Acc).info 0)))) ∧
      (ref.toNat % 32 = 0 → s.K k = 0 → exec (.vld v a k imm) s = .next s.doneVecNone) ∧
      (s.K k ≠ 0 → s.LocalOk ref 32 → ∃ x : VWord, exec (.vld v a k imm) s = .next (s.doneVec v x) ∧
        Masked 8 (s.K k) (s.V v) x fun i => (s.localByte (o + i)).toNat)) ∧
    (s.Issues (.vst v a k imm) →
      (ref.toNat % 32 ≠ 0 → exec (.vst v a k imm) s =
        .next (s.takeTrap (Trap.plain cMISAL ref ((⟨ref, 32, 5, 1, 0⟩ : Acc).info 0)))) ∧
      (ref.toNat % 32 = 0 → s.K k = 0 → exec (.vst v a k imm) s = .next s.doneVecNone) ∧
      (s.K k ≠ 0 → s.LocalOk ref 32 → s.StoreHere → s.core.lm.wf = true → ∃ t, exec (.vst v a k imm) s = .next t ∧
        (∀ i < 32, (s.K k).getLsbD i = true → t.localByte (o + i) = BitVec.ofNat 8 (elemAt 8 (s.V v).toNat i)) ∧
        (∀ p, (∀ i < 32, (s.K k).getLsbD i = true → p ≠ o + i) → t.localByte p = s.localByte p) ∧
        s.SameButG t 0 ∧ t.unc = s.unc))) ∧
  (∀ (s : State) (d b : BitVec 5) (k : BitVec 3) (w : Width), s.Issues (.vldb d b k w) → s.CanRead (b.setWidth 6) →
    s.VReady d →
    (activeLanes w.bits (s.K k) = [] → exec (.vldb d b k w) s = .next s.doneVecNone) ∧
    (activeLanes w.bits (s.K k) ≠ [] → s.LocalOk (s.G (b.setWidth 6)) w.bytes → ∃ x : VWord,
      exec (.vldb d b k w) s = .next (s.doneVec d x) ∧
      Masked w.bits (s.K k) (s.V d) x fun _ => s.localValue (refOffset (s.G (b.setWidth 6))) w.bytes)) ∧
  (∀ (s : State) (d a b : BitVec 5) (k : BitVec 3) (w : Width), s.CanRead (b.setWidth 6) → s.VReady a → s.VReady d →
    let at_ (i : Nat) : Word := s.G (b.setWidth 6) + Word.ofN (elemAt w.bits (s.V a).toNat i * w.bytes)
    (∀ i < 256 / w.bits, (s.K k).getLsbD i = true → s.LocalOk (at_ i) w.bytes) →
    (s.Issues (.vgath d a b k w) → ∃ x : VWord, exec (.vgath d a b k w) s = .next (s.doneVec d x) ∧
      Masked w.bits (s.K k) (s.V d) x fun i => s.localValue (refOffset (at_ i)) w.bytes) ∧
    (s.Issues (.vscat d a b k w) → s.StoreHere → s.core.lm.wf = true → ∃ t, exec (.vscat d a b k w) s = .next t ∧
      (∀ i < 256 / w.bits, (s.K k).getLsbD i = true →
        (∀ j < 256 / w.bits, i < j → (s.K k).getLsbD j = true → refOffset (at_ j) ≠ refOffset (at_ i)) →
        t.localValue (refOffset (at_ i)) w.bytes = elemAt w.bits (s.V d).toNat i) ∧
      (∀ p, (∀ i < 256 / w.bits, (s.K k).getLsbD i = true → p < refOffset (at_ i) ∨ refOffset (at_ i) + w.bytes ≤ p) →
        t.localByte p = s.localByte p) ∧
      s.SameButG t 0 ∧ t.unc = s.unc)) ∧
  SendsSfu .vrcp ∧ SendsSfu .vrsq ∧ SendsSfu .vsqrt ∧ SendsSfu .vexp2 ∧ SendsSfu .vlog2 ∧
  (∀ (s : State) (cl : Nat) (r : SfuReq) (rest : List SfuReq), (s.sfu cl).queue = r :: rest →
    exec (.sfuRequestStart cl) s =
      .next { s.putSfu { s.sfu cl with queue := rest, started := (s.sfu cl).started ++ [r] } with stalled := false }) ∧
  (∀ (s : State) (cl : Nat) (r : SfuReq) (rest : List SfuReq), (s.sfu cl).started = r :: rest →
    exec (.sfuResultWrite cl) s = .next { (s.putSfu { s.sfu cl with started := rest }).mapCtx r.core r.ctx
      (Ctx.sfuResult r) with stalled := false }) ∧
  (∀ (r : SfuReq) (c : Ctx) (d a : BitVec 5) (k : BitVec 3) (f : Nat → Nat),
    (r.op = .vrcp d a k ∧ f = rcpCode ∨ r.op = .vrsq d a k ∧ f = rsqCode ∨ r.op = .vsqrt d a k ∧ f = sqrtCode ∨
      r.op = .vexp2 d a k ∧ f = exp2Code ∨ r.op = .vlog2 d a k ∧ f = log2Code) →
    (c.sfuResult r).pendV.getLsbD d.toNat = false ∧ (c.sfuResult r).g = c.g ∧ (c.sfuResult r).k = c.k ∧
    (∀ n, n ≠ d.toNat → (c.sfuResult r).vval n = c.vval n) ∧
    Masked 32 r.mask (c.vval d.toNat) ((c.sfuResult r).vval d.toNat) fun i => f (elemAt 32 r.x.toNat i))

/-! ### Engine words -/

/-- The matrix words (R223, R241, R243): each records its operands, TENSOR, SEVPOL and NOFOLD and enters the queue, its
token register (MRDV: and its vector register) pending, or waits while the queue is full. EFENCE waits until the commands pending
at its issue have ended, then takes a stop report, or completes. The copy words (R295, R300 to R302): CPY and CPYR enter the
queue, or wait while it is full. CPYQ waits until its context has at most g[a] copies queued or in flight, and reads their number.
CPYC with no such command does nothing; a queued command that it names ends with status 0x14 and no progress; one in flight stops
at a row boundary and ends with status 0x14 and the elements moved, or, where it meets an error first, as that error ends it. -/
def Obligations.MatrixAndCopyWords : Prop :=
  ((∀ tile : BitVec 3, QueuesMatrix2 (fun a b t => .mma a b t tile) ∧ QueuesMatrix2 (fun a b t => .mmar a b t tile) ∧
     QueuesMatrix2 (fun a b t => .mmaz a b t tile) ∧ QueuesMatrix2 (fun a b t => .mrd a b t tile) ∧
     QueuesMatrix2 (fun a b t => .mlda a b t tile) ∧ QueuesMatrix2 (fun a b t => .mldaAdd a b t tile) ∧
     QueuesMatrix1 (fun a t => .minit a t tile) ∧ QueuesMatrix1 (fun a t => .msta a t tile) ∧
     QueuesMatrix1 (fun a t => .mstat a t tile) ∧ QueuesMatrix1 (fun a t => .mshad a t tile)) ∧
   QueuesMatrix2 .mcfg ∧ QueuesMatrix2 .mcfgRd ∧
   (∀ (s : State) (a : BitVec 6) (v : BitVec 5) (t : BitVec 6) (tile : BitVec 3), s.Issues (.mrdv a v t tile) → s.CanRead a →
     s.CanRead (a + 1) → s.CanWrite t → s.VReady v → s.unc.bankOps = [] → s.ctx.reports = [] →
     let q := s.queueMatrix (.mrdv a v t tile) (s.G a) 0 (s.G (a + 1)) t
     (s.core.mx.queue.length < 2 → exec (.mrdv a v t tile) s = .next (q.setCtx (q.ctx.setPendV v.toNat true)).done) ∧
     (2 ≤ s.core.mx.queue.length → exec (.mrdv a v t tile) s = .next s.standStill)) ∧
   (∀ s : State, s.Issues .efence →
     (s.ctx.progress = none ∧ s.core.mx.queue = [] ∧ s.core.mx.running = none) ∨ s.ctx.progress = some 0 →
     (s.ctx.matrixReport = none → exec .efence s = .next s.done) ∧
     (∀ r, s.ctx.matrixReport = some r →
       exec .efence s = .next (s.takeTrap ⟨r.cause, r.eaddr, r.einfo, some r, none, none⟩))) ∧
   (∀ s : State, s.Issues .efence → s.ctx.progress = none → s.core.mx.queue ≠ [] ∨ s.core.mx.running.isSome = true →
     exec .efence s = .next (s.setCtx { s.ctx with
       progress := some (s.core.mx.queue.length + (if s.core.mx.running.isSome then 1 else 0)) }).retreat) ∧
   (∀ (s : State) (n : Nat), s.Issues .efence → s.ctx.progress = some (n + 1) → exec .efence s = .next s.standStill)) ∧
  (QueuesCopy .cpy ∧ (∀ (sc : Scope) (z : BitVec 3), QueuesCopy fun a b t => .cpyr a b t sc z) ∧
   (∀ (s : State) (a t : BitVec 6), s.Issues (.cpyq a t) → s.CanRead a → s.CanWrite t →
     let n := (s.core.copies.queue.filter fun x => x.ctx = s.ctx.num).length +
       (s.core.copies.flight.filter fun x => x.cmd.ctx = s.ctx.num).length
     (n ≤ (s.G a).toNat → exec (.cpyq a t) s = .next (s.doneG t (Word.ofN n))) ∧
     ((s.G a).toNat < n → exec (.cpyq a t) s = .next s.standStill)) ∧
   (∀ (s : State) (r : BitVec 6), s.Issues (.cpyc r) → (∀ c ∈ s.core.copies.queue, ¬(c.ctx = s.ctx.num ∧ c.tok = r)) →
     (∀ f ∈ s.core.copies.flight, ¬(f.cmd.ctx = s.ctx.num ∧ f.cmd.tok = r)) → exec (.cpyc r) s = .next s.done) ∧
   (∀ (s : State) (r : BitVec 6) (before after : List CopyCmd) (c : CopyCmd), s.Issues (.cpyc r) →
     s.core.copies.queue = before ++ c :: after → (∀ x ∈ before, ¬(x.ctx = s.ctx.num ∧ x.tok = r)) → c.ctx = s.ctx.num →
     c.tok = r → s.unc.lines = [] → ∃ t, exec (.cpyc r) s = .next t ∧ t.core.copies.queue = before ++ after ∧
       t.core.copies.flight = s.core.copies.flight ∧ t.HasToken s.core.id s.ctx.num r 0x14 ∧ s.SameG t r ∧ s.SameVK t ∧
       s.SameSys t ∧ t.ctx.pc = s.ctx.pc + 4 ∧ s.SameOutside t) ∧
   (∀ (s s₁ : State) (r : BitVec 6) (before after : List CopyRun) (f : CopyRun) (n : Nat) (st : Stopped), s.Issues (.cpyc r) →
     (∀ c ∈ s.core.copies.queue, ¬(c.ctx = s.ctx.num ∧ c.tok = r)) → s.core.copies.flight = before ++ f :: after →
     (∀ x ∈ before, ¬(x.cmd.ctx = s.ctx.num ∧ x.cmd.tok = r)) → f.cmd.ctx = s.ctx.num → f.cmd.tok = r →
     let i := before.length
     let dropped := s₁.mapCore s.core.id fun c => c.dropCopy i
     Op.copyCancel s.core.id i f s = .ok ((n, st), s₁) → exec (.cpyc r) s = .next (State.done (match st with
       | some (operand, .stop cause eaddr einfo precise) =>
         dropped.copyStop s.core.id f.cmd (f.doneAt n) operand cause eaddr einfo precise
       | _ => dropped.copyEnd s.core.id f.cmd (copyToken (f.doneAt n) 0 0 0x14)))))

/-- The collective words and SENDM (R374 to R377, R388, R391, R393). With no reduction under way and no report, CGRP, CTAB and
CSTART enter the queue; they wait while it is full, a call of their slot is open or a CSTART of it is queued; CSTART also begins
its slot's next call. SENDM enters the queue after its release, and waits while it is full. TREADY on a slot with no call, or
whose call has ended, traps COLL with reason 1; for a queued call it keeps the mask; for an open one it marks its tiles and they
fire. CWAIT reads the tiles done once all it names are, or the call has ended, and waits else; 0 where no call has been taken.
RECVM and RECVM.cfg (R390, R392, R394). RECVM.cfg takes the 16 bytes at g[a], which may lie anywhere, as the mail ring where they
are valid and traps COLL with reason 3 else. RECVM with no ring traps COLL with reason 2. With an empty ring NB reads 0; without
NB a broken ring reads 1 and sets EVENTS.BROKEN, and else the context waits in its turn. With a record at the consumer that is no
pad it waits for its turn, then reads the header: a payload longer than g[b] stays, with bit 41 of the header set; else the
payload is copied and the record consumed. -/
def Obligations.CollectiveAndMailWords : Prop :=
  ((∀ (s : State) (a t : BitVec 6) (n : BitVec 2), s.CanRead a → s.CanWrite t →
     let free : Prop := s.core.coll.length < 2 ∧ (s.core.collSlot n.toNat).isOpen = false ∧ s.core.startQueued n.toNat = false
     (s.Issues (.cgrp a t n) → free → s.unc.bankOps = [] → s.ctx.reports = [] → exec (.cgrp a t n) s = .next (s.queueColl (.cgrp a t n) (s.G a) 0 t).done) ∧
     (s.Issues (.ctab a t n) → free → s.unc.bankOps = [] → s.ctx.reports = [] → exec (.ctab a t n) s = .next (s.queueColl (.ctab a t n) (s.G a) 0 t).done) ∧
     (s.Issues (.cstart a t n) → free → s.Settled →
       let q := s.queueColl (.cstart a t n) (s.G a) 0 t
       exec (.cstart a t n) s = .next (State.done { q with core := q.core.setCollSlot n.toNat { s.core.collSlot n.toNat with
         issued := true, ended := false, early := 0, ready := 0, fired := 0, done := 0, received := [] } })) ∧
     (s.Issues (.cgrp a t n) → ¬free → exec (.cgrp a t n) s = .next s.standStill) ∧
     (s.Issues (.ctab a t n) → ¬free → exec (.ctab a t n) s = .next s.standStill) ∧
     (s.Issues (.cstart a t n) → ¬free → s.Settled → exec (.cstart a t n) s = .next s.standStill)) ∧
   (∀ (s : State) (a b t : BitVec 6) (nb : Bool), s.Issues (.sendm a b t nb) → s.CanRead a → s.CanRead b → s.CanWrite t →
     s.Settled →
     (s.core.coll.length < 2 → exec (.sendm a b t nb) s = .next (s.queueColl (.sendm a b t nb) (s.G a) (s.G b) t).done) ∧
     (2 ≤ s.core.coll.length → exec (.sendm a b t nb) s = .next s.standStill)) ∧
   (∀ (s : State) (a : BitVec 6) (n : BitVec 2), s.Issues (.tready a n) → s.CanRead a →
     let x := s.core.collSlot n.toNat
     (x.issued = false ∨ x.ended = true →
       exec (.tready a n) s = .next (s.takeTrap (Trap.plain cCOLL 0 (Word.ofN (n.toNat * 2 ^ 8 + 1))))) ∧
     (x.issued = true → x.ended = false → x.isOpen = false → s.Settled →
       exec (.tready a n) s = .next (State.done { s with core := s.core.setCollSlot n.toNat { x with early := x.early ||| s.G a } })) ∧
     (∀ s₂, x.issued = true → x.ended = false → x.isOpen = true → s.Settled →
       Op.fireReady s.core.id n.toNat { s with core := s.core.setCollSlot n.toNat { x with
         ready := x.ready ||| (s.G a &&& x.tab.all) } } = .ok ((), s₂) → exec (.tready a n) s = .next s₂.done)) ∧
   (∀ (s : State) (a t : BitVec 6) (n : BitVec 2), s.Issues (.cwait a t n) → s.CanRead a → s.CanWrite t →
     let x := s.core.collSlot n.toNat
     let named := if x.isOpen then s.G a &&& x.tab.all else s.G a
     (x.taken = false → exec (.cwait a t n) s = .next (s.doneG t 0)) ∧
     (x.taken = true → named &&& ~~~x.done = 0 ∨ x.ended = true → s.unc.lines = [] →
       exec (.cwait a t n) s = .next (s.doneG t x.done)) ∧
     (x.taken = true → named &&& ~~~x.done ≠ 0 → x.ended = false → exec (.cwait a t n) s = .next s.standStill))) ∧
  ((∀ (s : State) (a : BitVec 6), s.Issues (.recvmCfg a) → s.CanRead a → s.LocalOk (s.G a) 16 →
     let w0 : Word := Word.ofN (s.localValue (refOffset (s.G a)) 16)
     let w1 : Word := Word.ofN (s.localValue (refOffset (s.G a)) 16 / 2 ^ 64)
     let valid : Prop := w0.bits 63 23 = 0 ∧ w0.bits 22 20 ≤ 6 ∧ w0.bits 19 0 % 4096 = 0 ∧
       w0.bits 19 0 + 4096 * 2 ^ w0.bits 22 20 ≤ 2 ^ 20 ∧ s.core.xbTake.toNat ≤ w0.bits 19 0 ∧ w1.bits 63 32 = w1.bits 31 0 ∧
       w1.bits 63 32 % 32 = 0
     (valid → exec (.recvmCfg a) s = .next (State.done { s with core := { s.core with
       mail := ⟨true, false, BitVec.ofNat 3 (w0.bits 22 20), BitVec.ofNat 20 (w0.bits 19 0), BitVec.ofNat 32 (w1.bits 63 32),
         BitVec.ofNat 32 (w1.bits 31 0)⟩ } })) ∧
     (¬valid → exec (.recvmCfg a) s = .next (s.takeTrap (Trap.plain cCOLL 0 3)))) ∧
   (∀ (s s₁ : State) (a : BitVec 6) (v : Nat), s.Issues (.recvmCfg a) → s.CanRead a → s.twinned = false →
     (s.G a).toNat % 16 = 0 → Op.load (s.self 0) (coreAcc (s.G a) 16 0) s = .ok (v, s₁) →
     (∀ r, MailRing.ofWords (Word.ofN v) (Word.ofN (v / 2 ^ 64)) s₁.core.xbTake.toNat = some r →
       exec (.recvmCfg a) s = .next (State.done { s₁ with core := { s₁.core with mail := r } })) ∧
     (MailRing.ofWords (Word.ofN v) (Word.ofN (v / 2 ^ 64)) s₁.core.xbTake.toNat = none →
       exec (.recvmCfg a) s = .next (s₁.takeTrap (Trap.plain cCOLL 0 3)))) ∧
   (∀ (s : State) (a b t : BitVec 6) (nb : Bool), s.Issues (.recvm a b t nb) → s.CanRead a → s.CanRead b → s.CanWrite t →
     s.core.mail.configured = false → exec (.recvm a b t nb) s = .next (s.takeTrap (Trap.plain cCOLL 0 2))) ∧
   (∀ (s : State) (a b t : BitVec 6) (nb : Bool), s.Issues (.recvm a b t nb) → s.CanRead a → s.CanRead b → s.CanWrite t →
     s.core.mail.configured = true → refHandle (s.G a) = 0 → refOffset (s.G a) % 8 = 0 →
     refOffset (s.G a) + min (s.G b).toNat 4088 ≤ 0x100000 → s.core.xbound.toNat ≤ refOffset (s.G a) →
     let r := s.core.mail
     let h : Word := Word.ofN (s.localValue (r.place r.consumer) 8)
     let n := h.bits 15 0
     let served : LCore := { s.core with mailWaits := s.core.mailWaits.filter fun m => m ≠ s.ctx.num }
     (r.producer = r.consumer →
       (nb = true → exec (.recvm a b t nb) s = .next (s.doneG t 0)) ∧
       (nb = false → r.broken = true → exec (.recvm a b t nb) s = .next
         (State.done { s with core := { served with ctx := (s.ctx.raiseBroken 0 0x10003).setG t.toNat 1 } })) ∧
       (nb = false → r.broken = false → s.ctx.num ∉ s.core.mailWaits → exec (.recvm a b t nb) s = .next
         (State.retreat { s with core := { s.core with mailWaits := s.core.mailWaits ++ [s.ctx.num] } })) ∧
       (nb = false → r.broken = false → s.ctx.num ∈ s.core.mailWaits →
         exec (.recvm a b t nb) s = .next s.standStill)) ∧
     (r.producer ≠ r.consumer → s.core.lmFlips = [] → h.bits 43 42 ≠ 1 →
       (s.core.mailTurn = false → exec (.recvm a b t nb) s = .next s.standStill) ∧
       (s.core.mailTurn = true → (s.G b).toNat < n → exec (.recvm a b t nb) s = .next
         (State.done { s with core := { served with ctx := s.ctx.setG t.toNat (h ||| 0x20000000000) } })) ∧
       (s.core.mailTurn = true → n ≤ (s.G b).toNat → n ≤ 4088 → s.unc.lines = [] → s.StoreHere → s.core.lm.wf = true →
         (refOffset (s.G a) + n ≤ r.place r.consumer + 8 ∨ r.place r.consumer + 8 + n ≤ refOffset (s.G a)) →
         ∃ u, exec (.recvm a b t nb) s = .next u ∧ u.G t = (if t = 0 then 0 else h) ∧ s.SameG u t ∧ s.SameVK u ∧ s.SameSys u ∧
           (∀ j < n, u.localByte (refOffset (s.G a) + j) = s.localByte (r.place r.consumer + 8 + j)) ∧
           s.SameLocalBut u (refOffset (s.G a)) n ∧ u.core.mailWaits = served.mailWaits ∧
           u.core.mail = { r with consumer := r.consumer + BitVec.ofNat 32 (32 * ((8 + n + 31) / 32)) } ∧
           u.ctx.pc = s.ctx.pc + 4 ∧ u.unc = s.unc))))
/-! ### The accumulator -/

/-- THE ACCUMULATOR (R62 to R66, R75). The join of special states is the table of R63, commutative and associative; two
elements combine as R65 says; an image gives its element back; and contributions may be added, and elements combined,
in any order and any grouping with the same bits. -/
def Obligations.AccumulatorArithmetic : Prop :=
  let okState : AccClass × Nat → Prop := fun x => x.2 ≤ 0x400000 ∧ (x.1 ≠ .nan → x.2 = 0)
  let ok : Elem → Prop := fun e => okState (e.cls, e.payload.toNat)
  let okIn : Contrib → Prop := fun c => ∀ k p, c = .special k p → okState (k, p)
  (∀ x y z, okState x → okState y → okState z →
    joinClass x y = joinClass y x ∧ joinClass (joinClass x y) z = joinClass x (joinClass y z) ∧ okState (joinClass x y) ∧
    joinClass (.finite, 0) x = x ∧ joinClass x x = x) ∧
  (∀ p q : Nat, joinClass (.nan, p) (.nan, q) = (.nan, min p q) ∧ joinClass (.nan, p) (.posInf, 0) = (.nan, p) ∧
    joinClass (.nan, p) (.negInf, 0) = (.nan, p) ∧ joinClass (.posInf, 0) (.negInf, 0) = (.nan, 0x400000)) ∧
  (∀ x y : Elem, (x.combine y).a = x.a + y.a ∧ (x.combine y).clamp = (x.clamp || y.clamp) ∧
    ((x.combine y).cls, (x.combine y).payload) =
      ((joinClass (x.cls, x.payload.toNat) (y.cls, y.payload.toNat)).1,
        BitVec.ofNat 23 (joinClass (x.cls, x.payload.toNat) (y.cls, y.payload.toNat)).2)) ∧
  (∀ x y z : Elem, ok x → ok y → ok z → x.combine y = y.combine x ∧ (x.combine y).combine z = x.combine (y.combine z) ∧
    Elem.ofImage x.image = some x) ∧
  (∀ (e : Elem) (c : Int), e.cls = .finite →
    (e.add (.num c)).cls = .finite ∧ (e.add (.num c)).payload = e.payload ∧
    (-(2 ^ 79) ≤ c ∧ c ≤ 2 ^ 79 - 1 → (e.add (.num c)).a = e.a + BitVec.ofInt 96 c ∧ (e.add (.num c)).clamp = e.clamp) ∧
    (2 ^ 79 - 1 < c → (e.add (.num c)).a = e.a + BitVec.ofInt 96 (2 ^ 79 - 1) ∧ (e.add (.num c)).clamp = true) ∧
    (c < -(2 ^ 79) → (e.add (.num c)).a = e.a + BitVec.ofInt 96 (-(2 ^ 79)) ∧ (e.add (.num c)).clamp = true)) ∧
  (∀ (e : Elem) (l₁ l₂ : List Contrib), ok e → (∀ c ∈ l₁, okIn c) → l₁.Perm l₂ → l₁.foldl Elem.add e = l₂.foldl Elem.add e) ∧
  (∀ (x y : Elem) (l : List Contrib), ok x → ok y → (∀ c ∈ l, okIn c) →
    (l.foldl Elem.add x).combine y = l.foldl Elem.add (x.combine y))

/-! ### The matrix engine -/

/-- MATRIX_COMMAND_TAKE, MATRIX_COMMAND_END and MMAR_SLOT_READY (R224, R225, R227, R232, R234, R236, R239, R243, R245, R248,
R461). While a stop report has not been taken, a taken command ends with status 0x13; one that a check refuses ends with
status 0x10, the cause and the operand, and sets LCAUSE and LSTAT; any other runs. In limited service, and once the save of its
core is due, no command is taken, and once the save is due no command of steps goes on. A command without steps has its effect
whole: MCFG and MCFG.rd load their pair, MINIT sets its tiles' anchors and empties them, MSHAD marks its tile, MSTAT reads a
status or a configuration word, MRDV writes its vector register. A command whose remaining steps all succeed ends with their whole
number as its progress, MRD after the shadow check and MMAR with its ring's slot consumed unless the ring is broken; one that meets an error stops with
status 0x11; an MLDA with an invalid image ends with status 0x10. An MMAR begins when its ring has a filled slot, and ends with
status 0x12 when the ring is broken. -/
def Obligations.MatrixEvents : Prop :=
  (∀ (s : State) (id : CoreId) (c : LCore) (x : Ctx) (m : MCmd) (rest : List MCmd), s.findCore id = some c →
    c.findCtx m.ctx = some x → c.resident = true → c.mx.running = none → s.pkg.start ≠ .limited → s.saveDue c = false →
    c.mx.queue = m :: rest → (∀ o ∈ m.operands c.mx, s.windowWaits c o.base = false) →
    let acts (f : MatrixEngine → Prop) (token : Option Word) : Prop := ∃ (t : State) (c' : LCore),
      s.ActsTo (.matrixCommandTake id) t ∧ t.findCore id = some c' ∧ f c'.mx ∧ c'.lm = c.lm ∧ c'.rings = c.rings ∧
      s.SameAround t ∧ ∀ v, token = some v → t.HasToken id m.ctx m.tok v
    (c.mx.skipFor.isSome = true → acts (fun e => e = { c.mx with queue := rest }) (some 0x13)) ∧
    (∀ cause operand, c.mx.skipFor = none → s.matrixRefusal c m = some (cause, operand) →
      acts (fun e => e = { c.mx with queue := rest, lcause := BitVec.ofNat 8 cause, lstat := 0x10 })
        (some (Word.ofN (cause * 2 ^ 24 + operand * 2 ^ 16 + 0x10)))) ∧
    (c.mx.skipFor = none → s.matrixRefusal c m = none →
      acts (fun e => ∃ p, e = { c.mx with queue := rest, running := some ⟨m, p, decide (m.product = some 1)⟩ } ∧
        ((∀ a t k, m.instr ≠ .mstat a t k) → p = 0)) none)) ∧
  (∀ (s : State) (id : CoreId) (c : LCore), s.findCore id = some c →
    (s.pkg.start = .limited ∨ s.saveDue c = true → exec (.matrixCommandTake id) s = .next { s with stalled := true }) ∧
    (∀ r, c.mx.running = some r → r.waiting = true → s.saveDue c = true →
      exec (.mmarSlotReady id) s = .next { s with stalled := true }) ∧
    (∀ r, c.mx.running = some r → r.cmd.steps c.mx ≠ 0 → s.saveDue c = true →
      exec (.matrixCommandEnd id) s = .next { s with stalled := true })) ∧
  (∀ (s : State) (c : LCore) (m : MCmd),
    (∀ a t k, m.instr = .minit a t k → (m.ga.toInt < -512 ∨ 511 < m.ga.toInt) → s.matrixRefusal c m = some (cILL, 6)) ∧
    (∀ a t k, m.instr = .mshad a t k → 3 ≤ m.ga.toNat → s.matrixRefusal c m = some (cILL, 6)) ∧
    (∀ a b t, m.instr = .mcfg a b t → (m.ga.bits 5 2 ≠ 0 ∨ m.ga.bits 23 16 = 0 ∨ m.gb.bits 15 0 % 8 ≠ 0) →
      s.matrixRefusal c m = some (cILL, 6)) ∧
    (∀ a b t k, m.instr = .mma a b t k → engineValid c.mx.mxc0 c.mx.mxc1 = true → c.mx.mxc0.bits 1 0 ≠ 0 → k ≠ 0 → k ≠ 4 →
      s.matrixRefusal c m = some (cILL, 6))) ∧
  (∀ (s : State) (id : CoreId) (c : LCore) (x : Ctx) (m : MCmd) (p : Nat), s.findCore id = some c → c.findCtx m.ctx = some x →
    c.resident = true → c.mx.running = some ⟨m, p, false⟩ →
    let ends (f : MatrixEngine → Prop) (token : Word) : Prop := ∃ (t : State) (c' : LCore),
      s.ActsTo (.matrixCommandEnd id) t ∧ t.findCore id = some c' ∧ f c'.mx ∧ c'.mx.running = none ∧ c'.lm = c.lm ∧
      s.SameAround t ∧ t.HasToken id m.ctx m.tok token
    let ext := extentOf (c.mx.mxc0.bits 1 0)
    (∀ a b t, m.instr = .mcfg a b t → ends (fun e => e = { c.mx with mxc0 := m.ga, mxc1 := m.gb, running := none }) 0) ∧
    (∀ a b t, m.instr = .mcfgRd a b t → ends (fun e => e = { c.mx with mxo0 := m.ga, mxo1 := m.gb, running := none }) 0) ∧
    (∀ a t k, m.instr = .minit a t k → ends (fun e =>
      (∀ q, (ext k.toNat).base ≤ q → q < (ext k.toNat).base + (ext k.toNat).tiles → (e.tile q).anchor = m.ga.setWidth 10 ∧
        (e.tile q).sat = false ∧ (e.tile q).elems = []) ∧
      (∀ q, q < (ext k.toNat).base ∨ (ext k.toNat).base + (ext k.toNat).tiles ≤ q → e.tile q = c.mx.tile q) ∧
      e.mxc0 = c.mx.mxc0 ∧ e.mxc1 = c.mx.mxc1 ∧ e.queue = c.mx.queue) 0) ∧
    (∀ a t k, m.instr = .mshad a t k → ends (fun e =>
      e.tile k.toNat = { c.mx.tile k.toNat with mark := m.ga.setWidth 2 } ∧
      (∀ q, q ≠ k.toNat → e.tile q = c.mx.tile q) ∧ e.queue = c.mx.queue) 0) ∧
    (∀ a t k, m.instr = .mstat a t k → m.ga = 0 → ∃ w : Word,
      ends (fun e => e = { c.mx with lcause := 0, lstat := 0, running := none }) w ∧
      w.bits 63 48 = 0 ∧ w.bits 47 40 = c.mx.lcause.toNat ∧ w.bits 39 32 = c.mx.lstat.toNat ∧ w.bits 22 21 = p % 4 ∧
      (w.getLsbD 17 = true ↔ ∃ y ∈ (c.mx.tile k.toNat).elems, y.2.cls ≠ .finite) ∧
      w.getLsbD 16 = (c.mx.tile k.toNat).sat ∧ w.bits 15 0 = (c.mx.tile k.toNat).anchor.toNat) ∧
    (∀ a t k, m.instr = .mstat a t k → m.ga ≠ 0 → ends (fun e => e = { c.mx with running := none })
      (if m.ga = 1 then c.mx.mxc0 else if m.ga = 2 then c.mx.mxc1 else if m.ga = 3 then c.mx.mxo0
        else if m.ga = 4 then c.mx.mxo1 else BitVec.allOnes 64)) ∧
    (∀ a v t k, m.instr = .mrdv a v t k →
      let o := rdConfig c.mx.mxo0 c.mx.mxo1
      let w := if o.fmt = 1 then 32 else 16
      1 ≤ o.fmt → o.fmt ≤ 3 → ends (fun e => e.queue = c.mx.queue) 0 ∧
      ∃ (t' : State) (c' : LCore) (x' : Ctx), exec (.matrixCommandEnd id) s = .next t' ∧ t'.findCore id = some c' ∧
        c'.findCtx m.ctx = some x' ∧ x'.pendV.getLsbD v.toNat = false ∧
        ∀ l < 256 / w, elemAt w (x'.vval v.toNat).toNat l =
          readCode c.mx (ext k.toNat) (rdFmt o.fmt) (rdMode o.mode) (c.keyFor m) m.ga1 127 (m.ga.bits 6 0)
            (m.ga.bits 14 8 + l) % 2 ^ w)) ∧
  (∀ (s s₁ : State) (id : CoreId) (c : LCore) (m : MCmd) (p : Nat), s.findCore id = some c → c.resident = true →
    c.mx.running = some ⟨m, p, false⟩ → s.saveDue c = false →
    let ag := s.engineAgent c m.ctx m.sevpol 2
    let n := m.steps c.mx
    let slot := c.mmarSlot m
    let ends (t : State) : Prop := s.ActsTo (.matrixCommandEnd id)
      { t.matrixEnd id m (Word.ofN (n % 2 ^ 16 * 2 ^ 32)) with stalled := false }
    1 ≤ n → p ≤ n →
    (∀ s₂, Op.matBegin ag m p n s = .ok (.ok true, s₁) → Op.matSteps ag m slot (n - p) p s₁ = .ok ((n, none), s₂) →
      let t := s₂.burnSteps id m (n - p)
      ((∀ a b t k, m.instr ≠ .mmar a b t k) → (∀ a b t k, m.instr ≠ .mrd a b t k) → ends t) ∧
      (∀ a b t' k, m.instr = .mrd a b t' k → ends (t.shadowCheck id m)) ∧
      (∀ a b t' k, m.instr = .mmar a b t' k → ends (t.mapCore id fun c' =>
        let ring := c'.ring (m.gb.toNat % 8)
        if ring.broken then c' else c'.setRing (m.gb.toNat % 8) ((ring.consume 1).getD ring)))) ∧
    (∀ s₂ k tr, Op.matBegin ag m p n s = .ok (.ok true, s₁) → Op.matSteps ag m slot (n - p) p s₁ = .ok ((k, some tr), s₂) →
      s.ActsTo (.matrixCommandEnd id) { (s₂.burnSteps id m (k - p)).matrixStop id m k (tr.einfo.bits 23 16) tr.cause.toNat
        tr.eaddr with stalled := false }) ∧
    (∀ tr, Op.matBegin ag m p n s = .ok (.error tr, s₁) →
      s.ActsTo (.matrixCommandEnd id) { s₁.matrixStop id m p 0 tr.cause.toNat tr.eaddr with stalled := false }) ∧
    (Op.matBegin ag m p n s = .ok (.ok false, s₁) →
      s.ActsTo (.matrixCommandEnd id) { s₁.matrixRefuse id m cILL 0 with stalled := false })) ∧
  (∀ (s : State) (id : CoreId) (c : LCore) (x : Ctx) (r : MRun), s.findCore id = some c → c.findCtx r.cmd.ctx = some x →
    c.resident = true → c.mx.running = some r → r.waiting = true → s.saveDue c = false →
    let ring := c.ring (r.cmd.gb.toNat % 8)
    (ring.broken = true → ∃ t c', s.ActsTo (.mmarSlotReady id) t ∧ t.findCore id = some c' ∧
      c'.mx = { c.mx with running := none } ∧ t.HasToken id r.cmd.ctx r.cmd.tok 0x12 ∧ s.SameAround t) ∧
    (ring.broken = false → 1 ≤ ring.filled → ∃ t c', s.ActsTo (.mmarSlotReady id) t ∧ t.findCore id = some c' ∧
      c' = { c with mx := { c.mx with running := some { r with waiting := false } } } ∧ s.SameAround t) ∧
    (ring.broken = false → ring.filled = 0 → exec (.mmarSlotReady id) s = .next { s with stalled := true }))

/-! ### The copy engine -/

/-- COPY_TAKE, COPY_COMPLETE, COPY_RING_SLOT_READY and COPY_FRAME_FAULT (R292, R295 to R299, R303, R305). A command whose
check fails ends with status 0x10, the cause and the operand; one of no elements ends at once; any other is in flight.
A copy moves its elements and ends with their number; for one within a sector of local memory every byte is named. A
ring copy whose ring is broken ends with status 0x12, and waits while no slot is ready. A copy that meets a frame that
is not resident asks for it and waits, or with HB = 1 hands back: its residual record, status 0x15, and
EVENTS.HANDBACK. -/
def Obligations.CopyEvents : Prop :=
  (∀ (s : State) (id : CoreId) (c : LCore) (x : Ctx) (m : CopyCmd) (rest : List CopyCmd), s.findCore id = some c →
    c.findCtx m.ctx = some x → c.resident = true → c.copies.flight.length < 1024 → c.copies.queue = m :: rest →
    let ag := s.engineAgent c m.ctx m.sevpol m.scope
    let refused (cause operand : Nat) : Prop := ∃ t c', s.ActsTo (.copyTake id) t ∧ t.findCore id = some c' ∧
      c'.copies = { c.copies with queue := rest } ∧ c'.lm = c.lm ∧ s.SameAround t ∧
      t.HasToken id m.ctx m.tok (Word.ofN (cause * 2 ^ 24 + operand * 2 ^ 16 + 0x10))
    (m.isCpy = true → m.gb.bits 63 20 ≠ 0 ∨ m.gb.bits 5 4 ≠ 0 ∨ 6 ≤ m.gb.bits 2 0 → s.unc.lines = [] → refused cILL 6) ∧
    (m.isCpy = true → m.gb.bits 63 20 = 0 → m.gb.bits 5 4 = 0 → m.gb.bits 2 0 < 6 → m.gb.getLsbD 3 = true →
      m.gb.bits 19 6 * 64 < c.xbTake.toNat → s.unc.lines = [] → refused cXDATA 6) ∧
    (m.isCpy = true → m.gb.bits 63 20 = 0 → m.gb.bits 5 4 = 0 → m.gb.bits 2 0 < 6 → m.gb.getLsbD 3 = false →
      m.ga.toNat % 64 ≠ 0 → s.unc.lines = [] → refused cMISAL 4) ∧
    (∀ cause operand, Op.takeChecks ag c m s = .ok (.refuse cause operand, s) → s.unc.lines = [] → refused cause operand) ∧
    (∀ sh, Op.takeChecks ag c m s = .ok (.go sh, s) → sh.total ≠ 0 → ∃ t c', s.ActsTo (.copyTake id) t ∧
      t.findCore id = some c' ∧ c'.copies = ⟨rest, c.copies.flight ++
        [⟨m, sh, 0, 0, none, false, none, s.ocHeld c.slot ag.queue [sh.src, sh.dst, sh.aux], false⟩]⟩ ∧ c'.ctx = c.ctx ∧
      c'.lm = c.lm ∧ s.SameAround t) ∧
    (∀ sh, Op.takeChecks ag c m s = .ok (.go sh, s) → sh.total = 0 → s.unc.lines = [] → ∃ t c', s.ActsTo (.copyTake id) t ∧
      t.findCore id = some c' ∧ c'.copies = { c.copies with queue := rest } ∧ s.SameAround t ∧ t.HasToken id m.ctx m.tok 0) ∧
    (let pop (u : State) : State := u.mapCore id fun c => { c with copies := { c.copies with queue := rest } }
     ∀ s₁,
     (∀ cause operand, Op.takeChecks ag c m s = .ok (.refuse cause operand, s₁) → s.ActsTo (.copyTake id)
       { (pop s₁).copyEnd id m (copyToken 0 cause operand 0x10) with stalled := false }) ∧
     (∀ cause eaddr einfo precise, Op.takeChecks ag c m s = .ok (.stop cause eaddr einfo precise, s₁) → s.ActsTo (.copyTake id)
       { (pop s₁).copyStop id m 0 4 cause eaddr einfo precise with stalled := false }) ∧
     (∀ sh, Op.takeChecks ag c m s = .ok (.go sh, s₁) → sh.total = 0 → s.ActsTo (.copyTake id)
       { (pop s₁.countDelayed).copyEnd id m (copyToken 0 0 0 0) with stalled := false }) ∧
     (∀ sh, Op.takeChecks ag c m s = .ok (.go sh, s₁) → sh.total ≠ 0 → ∃ t, s.ActsTo (.copyTake id) t ∧
       t.core.ctx = s₁.core.ctx ∧ t.unc = s₁.unc ∧ t.dies = s₁.dies ∧ ∀ c', s₁.findCore id = some c' → ∃ u r,
         t.findCore id = some u ∧ u.copies = ⟨rest, c'.copies.flight ++ [r]⟩ ∧ r.cmd = m ∧ r.shape = sh ∧ r.slots = 0 ∧
         r.base = 0 ∧ r.frame = none ∧ u.lm = c'.lm))) ∧
  (∀ (s : State) (x : Ctx) (r : CopyRun) (rest : List CopyRun) (n : Nat), (∀ k, s.findTask s.core.id.task = some k → k.twin = false) →
    s.StoreHere → s.core.copies.flight = r :: rest → s.core.findCtx r.cmd.ctx = some x → s.core.lmFlips = [] →
    s.core.lm.wf = true → s.unc.lines = [] → r.base = 0 → r.shape.kind = 0 → r.shape.layout = 4 → r.shape.srcRing = false →
    r.shape.dstRing = false → r.shape.d0 = n → r.shape.d1 = 0 → 1 ≤ n → refHandle r.shape.src = 0 → refHandle r.shape.dst = 0 →
    refOffset r.shape.src % 32 + n ≤ 32 → refOffset r.shape.dst % 32 + n ≤ 32 →
    (refOffset r.shape.src + n ≤ refOffset r.shape.dst ∨ refOffset r.shape.dst + n ≤ refOffset r.shape.src) →
    ∃ t, s.ActsTo (.copyComplete s.core.id 0) t ∧ t.core.copies = { s.core.copies with flight := rest } ∧
      (∀ j < n, t.localByte (refOffset r.shape.dst + j) = s.localByte (refOffset r.shape.src + j)) ∧
      s.SameLocalBut t (refOffset r.shape.dst) n ∧ t.HasToken s.core.id r.cmd.ctx r.cmd.tok (Word.ofN (n * 2 ^ 32)) ∧
      s.SameAround t) ∧
  (∀ (s s₁ : State) (id : CoreId) (place : Nat) (log : List Nat), (∀ k, s.findTask id.task = some k → k.twin = false) →
    (Op.copyFinish id place s = .ok (log, s₁) → s.ActsTo (.copyComplete id place) { s₁ with stalled := false }) ∧
    (Op.copySlot id place s = .ok (log, s₁) → s.ActsTo (.copyRingSlotReady id place) { s₁ with stalled := false })) ∧
  (∀ (s : State) (id : CoreId) (c : LCore) (x : Ctx) (r : CopyRun) (place : Nat), (∀ k, s.findTask id.task = some k → k.twin = false) →
    s.findCore id = some c → c.copies.flight[place]? = some r → c.findCtx r.cmd.ctx = some x → c.resident = true →
    r.shape.srcRing = true ∨ r.shape.dstRing = true →
    ((c.ring r.shape.ring).broken = true → s.unc.lines = [] → ∃ t c', s.ActsTo (.copyRingSlotReady id place) t ∧
      t.findCore id = some c' ∧ c'.copies = { c.copies with flight := c.copies.flight.eraseIdx place } ∧ c'.rings = c.rings ∧
      s.SameAround t ∧ t.HasToken id r.cmd.ctx r.cmd.tok
        (Word.ofN ((r.base + r.shape.before (r.slots * r.shape.slotRows)) % 2 ^ 32 * 2 ^ 32 + 0x12))) ∧
    ((c.ring r.shape.ring).broken = false → r.shape.srcRing = true → (c.ring r.shape.ring).filled = 0 →
      exec (.copyRingSlotReady id place) s = .next { s with stalled := true }) ∧
    ((c.ring r.shape.ring).broken = false → r.shape.srcRing = false → (c.ring r.shape.ring).slots ≤ (c.ring r.shape.ring).filled →
      exec (.copyRingSlotReady id place) s = .next { s with stalled := true })) ∧
  (∀ (s s₁ : State) (id : CoreId) (c : LCore) (r : CopyRun) (place : Nat) (m : Moving) (operand desc : Nat) (ref : Word),
    (∀ k, s.findTask id.task = some k → k.twin = false) → s.findCore id = some c → c.copies.flight[place]? = some r →
    c.resident = true → r.frame = none → r.shape.srcRing = false → r.shape.dstRing = false → m.run = none →
    let j := s.copyJob id c r r.shape r.shape.src r.shape.dst 0 r.shape.rows
    Op.moveRows j.1 r.shape r.shape.src r.shape.dst r.shape.rows 0 j.2 s = .ok ((m, some (operand, .notres ref desc)), s₁) →
    (r.cmd.hb = false → s.ActsTo (.copyFrameFault id place) { (s.requestResidency j.1.ag ref desc 3 (dieOf c.slot)).mapCore id
      (fun (c : LCore) => c.putCopy place { r with frame := some (Word.ofN (ref.toNat / 65536 * 65536)) }) with stalled := false }) ∧
    (r.cmd.hb = true → s.ActsTo (.copyFrameFault id place)
      { (((((s₁.requestResidency j.1.ag ref desc 3 (dieOf c.slot)).lmWrite id r.cmd.residualAt
          ((r.shape.residual m.done).1.words.flatMap fun (w : Word) => bytesOf 8 w.toNat)).mapCore id
            fun (c : LCore) => c.dropCopy place).copyEnd id r.cmd
            (copyToken (r.base + m.done) cFRAME operand 0x15)).mapCtx id r.cmd.ctx fun (x : Ctx) =>
              x.raiseHandback ref (Word.ofN r.cmd.tok.toNat)) with stalled := false })) ∧
  (∀ (s s₁ : State) (id : CoreId) (c : LCore) (r : CopyRun) (place : Nat) (m : Moving) (operand desc : Nat) (ref : Word),
    (∀ k, s.findTask id.task = some k → k.twin = false) → s.findCore id = some c → c.copies.flight[place]? = some r →
    c.resident = true → r.frame = none → r.shape.srcRing = true ∨ r.shape.dstRing = true →
    let ring := c.ring r.shape.ring
    let rows := r.shape.slotRows
    let at_ := Word.ofN (ring.slotAt (if r.shape.srcRing then ring.consumer else ring.producer))
    let src := if r.shape.srcRing then r.shape.src + at_ else r.shape.src
    let dst := if r.shape.dstRing then r.shape.dst + at_ else r.shape.dst
    let j := s.copyJob id c r r.shape src dst (r.slots * rows) rows
    ring.broken = false → (r.shape.srcRing = true → 1 ≤ ring.filled) → (r.shape.srcRing = false → ring.filled < ring.slots) →
    Op.moveRows j.1 r.shape src dst rows (r.slots * rows) j.2 s = .ok ((m, some (operand, .notres ref desc)), s₁) →
    s.ActsTo (.copyFrameFault id place) { (s.requestResidency j.1.ag ref desc 3 (dieOf c.slot)).mapCore id
      (fun (c : LCore) => c.putCopy place { r with frame := some (Word.ofN (ref.toNat / 65536 * 65536)) }) with stalled := false })

/-! ### Collectives and mail -/

/-- COLL_TAKE, COLL_PACKET_ARRIVAL and COLL_ABORT (R374, R375, R380, R381, R385 to R389). A CGRP or CTAB loads what it
read, or ends with its cause and operand; a CSTART whose checks fail ends with status 0x10, and else opens its slot's
next call; with no tile ready, nothing more. A packet of a call that has ended is dropped, and one of a call not yet opened goes to
the overflow list; one of an open call is kept for its tile where its signature is the call's, and ends the call where it is not.
A call that an abort has reached, a member of which has been stopped, or that a rollback has cut ends with that status. -/
def Obligations.CollectiveEvents : Prop :=
  (∀ (s : State) (id : CoreId) (c : LCore) (x : Ctx) (m : CollCmd) (rest : List CollCmd) (a t : BitVec 6) (n : BitVec 2),
    s.findCore id = some c → c.findCtx m.ctx = some x → c.resident = true → c.coll = m :: rest →
    let slot := c.collSlot n.toNat
    let ag := { s.engineAgent c m.ctx 0 0 with strict := true }
    let acts (f : CollSlot → Prop) (token : Word) : Prop := ∃ u c', s.ActsTo (.collTake id) u ∧ u.findCore id = some c' ∧
      c'.coll = rest ∧ f (c'.collSlot n.toNat) ∧ c'.lm = c.lm ∧ s.SameAround u ∧ u.HasToken id m.ctx t token
    (∀ b, m.instr = .cgrp a t n → Op.readGroup ag c m.ga s = .ok (.bytes b, s) →
      acts (fun y => y = { slot with group := some b, cut := false }) 0) ∧
    (m.instr = .cgrp a t n → m.ga.toNat % 8 ≠ 0 →
      acts (fun y => y = slot) (Word.ofN (cMISAL * 2 ^ 24 + 3 * 2 ^ 16 + 0x10))) ∧
    (∀ cause, m.instr = .cgrp a t n → Op.readGroup ag c m.ga s = .ok (.refuse cause, s) →
      acts (fun y => y = slot) (Word.ofN (cause * 2 ^ 24 + 3 * 2 ^ 16 + 0x10))) ∧
    (∀ b g, m.instr = .ctab a t n → slot.group = some g → Op.readTable ag c (groupSize g) m.ga s = .ok (.bytes b, s) →
      acts (fun y => y = { slot with table := some b }) 0) ∧
    (m.instr = .ctab a t n → m.ga.toNat % 32 ≠ 0 →
      acts (fun y => y = slot) (Word.ofN (cMISAL * 2 ^ 24 + 2 * 2 ^ 16 + 0x10))) ∧
    (∀ cause, m.instr = .ctab a t n → Op.readTable ag c (match slot.group with | some g => groupSize g | none => 1) m.ga s =
        .ok (.refuse cause, s) →
      acts (fun y => y = slot) (Word.ofN (cause * 2 ^ 24 + 2 * 2 ^ 16 + 0x10))) ∧
    (let pop (u : State) : State := u.mapCore id fun c => { c with coll := rest }
     ∀ s₁,
     (m.instr = .cgrp a t n →
       (∀ b, Op.readGroup ag c m.ga s = .ok (.bytes b, s₁) → s.ActsTo (.collTake id)
         { ((pop s₁).mapSlot id n.toNat fun y => { y with group := some b, cut := false }).collToken id m.ctx t 1 0
           with stalled := false }) ∧
       (∀ cause, Op.readGroup ag c m.ga s = .ok (.refuse cause, s₁) → s.ActsTo (.collTake id)
         { (pop s₁).collToken id m.ctx t 1 (copyToken 0 cause 3 0x10) with stalled := false })) ∧
     (m.instr = .ctab a t n →
       (∀ b g, slot.group = some g → Op.readTable ag c (groupSize g) m.ga s = .ok (.bytes b, s₁) → s.ActsTo (.collTake id)
         { ((pop s₁).mapSlot id n.toNat fun y => { y with table := some b }).collToken id m.ctx t 1 0 with stalled := false }) ∧
       (∀ cause g, slot.group = some g → Op.readTable ag c (groupSize g) m.ga s = .ok (.refuse cause, s₁) →
         s.ActsTo (.collTake id) { (pop s₁).collToken id m.ctx t 1 (copyToken 0 cause 2 0x10) with stalled := false }))) ∧
    (∀ cause operand, m.instr = .cstart a t n → slot.canStart m.ga = true → slot.spanCause c.xbTake.toNat = some (cause, operand) →
      acts (fun y => y = { slot with ended := true, taken := true }) (Word.ofN (cause * 2 ^ 24 + operand * 2 ^ 16 + 0x10))) ∧
    (m.instr = .cstart a t n → slot.group = none ∨ slot.table = none ∨ m.ga.bits 63 1 ≠ 0 →
      acts (fun y => y = { slot with ended := true, taken := true }) (Word.ofN (cILL * 2 ^ 24 + 6 * 2 ^ 16 + 0x10))) ∧
    (m.instr = .cstart a t n → slot.canStart m.ga = true → slot.spanCause c.xbTake.toNat = none → m.ga.getLsbD 0 = false → slot.early = 0 →
      slot.cut = false → s.unc.collAborts = [] → (∀ d ∈ s.cores, d.stopped = false) →
      (s.die (dieOf c.slot)).overflow = [] → ∃ u c', s.ActsTo (.collTake id) u ∧ u.findCore id = some c' ∧ c'.coll = rest ∧
        c'.collSlot n.toNat = { slot with
          count := slot.count + 1, isOpen := true, taken := true, ended := false, ready := 0, fired := 0, done := 0
          received := [], ctx := m.ctx, token := t, sevpol := m.sevpol } ∧ c'.lm = c.lm ∧ c'.ctx = c.ctx ∧ u.unc = s.unc)) ∧
  (∀ (s : State) (id : CoreId) (c : LCore) (p : Packet), s.findCore id = some c → s.nextPacket id = some p →
    (∀ k, s.findTask id.task = some k → k.twin = false) →
    (c.callAt p.groupId p.seq = .past → ∃ u, s.ActsTo (.collPacketArrival id) u ∧ u.core = s.core ∧ u.peers = s.peers ∧
      u.unc = { s.unc with packets := s.unc.packets.erase p }) ∧
    (c.callAt p.groupId p.seq = .future → dieOf c.slot < 8 → ∃ u, s.ActsTo (.collPacketArrival id) u ∧ u.core = s.core ∧
      u.peers = s.peers ∧ u.unc = { s.unc with packets := s.unc.packets.erase p } ∧
      (u.die (dieOf c.slot)).overflow = (s.die (dieOf c.slot)).overflow ++ [{ p with stored := 0 }]) ∧
    (∀ i, c.callAt p.groupId p.seq = .slot i → i < 4 → s.unc.collAborts = [] →
      (p.members ≠ groupSize (c.collSlot i).desc ∨ p.head0 ≠ (c.collSlot i).tab.head0 ∨ p.head8 ≠ (c.collSlot i).tab.head8) →
      ∃ u c', s.ActsTo (.collPacketArrival id) u ∧ u.findCore id = some c' ∧ (c'.collSlot i).isOpen = false ∧
        (c'.collSlot i).ended = true) ∧
    (∀ i, c.callAt p.groupId p.seq = .slot i → i < 4 → s.unc.collAborts = [] →
      let x := c.collSlot i
      p.members = groupSize x.desc → p.head0 = x.tab.head0 → p.head8 = x.tab.head8 → p.tile < x.tab.tiles →
      p.count = (x.tile p.tile).count → p.stride = (x.tile p.tile).stride → x.fired.getLsbD p.tile = false →
      (∀ e j, s.findCore p.source = some e → e.callAt p.groupId p.seq = .slot j →
        (e.collSlot j).fired.getLsbD p.tile = false) →
      ∃ u c', s.ActsTo (.collPacketArrival id) u ∧ u.findCore id = some c' ∧ c'.collSlot i = x.keep p.contribution ∧
        c'.lm = c.lm ∧ u.unc = { s.unc with packets := s.unc.packets.erase p })) ∧
  (∀ (s : State) (id : CoreId) (c : LCore) (n : BitVec 2) (x : Ctx), s.findCore id = some c →
    c.findCtx (c.collSlot n.toNat).ctx = some x → s.unc.lines = [] →
    let slot := c.collSlot n.toNat
    let ends (status cause operand : Nat) : Prop := ∃ u c', s.ActsTo (.collAbort id n) u ∧ u.findCore id = some c' ∧
      c'.collSlot n.toNat = { slot with isOpen := false, ended := true, received := [] } ∧ c'.lm = c.lm ∧
      u.HasToken id slot.ctx slot.token
        (Word.ofN (slot.doneCount * 2 ^ 32 + cause * 2 ^ 24 + operand * 2 ^ 16 + status))
    (slot.isOpen = false → exec (.collAbort id n) s = .next { s with stalled := true }) ∧
    (∀ a, slot.isOpen = true → s.abortOf id (groupId slot.desc) slot.count = some a → ends a.status a.cause a.operand) ∧
    (slot.isOpen = true → s.abortOf id (groupId slot.desc) slot.count = none → s.groupStopped id slot = true →
      ends 0x12 1 4) ∧
    (slot.isOpen = true → s.abortOf id (groupId slot.desc) slot.count = none → s.groupStopped id slot = false →
      slot.cut = true → ends 0x12 2 4) ∧
    (slot.isOpen = true → s.abortOf id (groupId slot.desc) slot.count = none → s.groupStopped id slot = false →
      slot.cut = false → exec (.collAbort id n) s = .next { s with stalled := true }))

/-- SENDM_TAKE and SENDM_RETRY (R393). A send whose check fails ends with status 0x10 and its cause, and one whose payload meets
an error with 0x11; at a ring that is not configured it ends with status 0x19, at a broken one with 0x12 (one that had waited also
sets EVENTS.BROKEN), where its record is larger than the ring with BOUND; without room with 0x18 under NB, and it waits else. With
room its record is written, behind a pad to the ring's end where it would not fit before that end, the ring's producer passes it,
every live context of the destination gets the MAIL event, and it ends with the payload's length. An empty ring whose room before
its end is too small goes back to its start first, and under NB the send ends there with 0x18 and nothing written. -/
def Obligations.MailEvents : Prop :=
  ∀ (s : State) (id : CoreId) (c : LCore) (x : Ctx) (m : CollCmd) (rest : List CollCmd) (a b t : BitVec 6) (nb : Bool),
    s.findCore id = some c → c.findCtx m.ctx = some x → c.resident = true → c.coll = m :: rest → m.instr = .sendm a b t nb →
    (∀ k, s.findTask id.task = some k → k.twin = false) → s.unc.lines = [] →
    let ag := s.engineAgent c m.ctx m.sevpol 5
    let dest : CoreId := { id with lcore := m.gb.bits 47 32 }
    let ends (i : Instr) (token : Word) : Prop := ∃ u c', s.ActsTo i u ∧ u.findCore id = some c' ∧ c'.coll = rest ∧
      c'.lm = c.lm ∧ c'.mail = c.mail ∧ s.SameAround u ∧ u.HasToken id m.ctx t token
    let writes (i : Instr) (p : List Byte) (pad : Option (Nat × Nat)) (r : MailRing) (d : LCore) : Prop := ∃ u c' d', s.ActsTo i u ∧
      u.findCore id = some c' ∧ c'.coll = rest ∧ u.HasToken id m.ctx t (Word.ofN (p.length % 2 ^ 32 * 2 ^ 32)) ∧
      u.findCore dest = some d' ∧ d'.mail = { r with producer := r.producer + BitVec.ofNat 32 (32 * ((8 + p.length + 31) / 32)) } ∧
      d'.lm.value (r.place r.producer) 8 =
        (mailHeader id.lcore m.ctx 0 (m.gb.bits 31 16) p.length).toNat ∧
      (∀ j < p.length, d'.lm.get (r.place r.producer + 8 + j) = p.getD j 0) ∧
      (∀ off k, pad = some (off, k) → d'.lm.value off 8 = (mailHeader 0 0 1 0 k).toNat) ∧
      (∀ o, o < r.place r.producer ∨ r.place r.producer + 8 + p.length ≤ o →
        (∀ off k, pad = some (off, k) → o < off ∨ off + 8 ≤ o) → d'.lm.get o = d.lm.get o) ∧
      (∀ y ∈ d.ctxs, y.live = true → ∃ y' ∈ d'.ctxs, y'.num = y.num ∧ y'.sys.events.getLsbD 1 = true) ∧
      (d.resident = true → s.SameAround u)
    (m.payload = none →
      (m.gb.bits 63 48 ≠ 0 ∨ 4088 < m.gb.bits 15 0 →
        ends (.sendmTake id) (Word.ofN (cILL * 2 ^ 24 + 6 * 2 ^ 16 + 0x10))) ∧
      (m.gb.bits 63 48 = 0 → m.gb.bits 15 0 ≤ 4088 → c.regs.lx * c.regs.ly ≤ m.gb.bits 47 32 →
        ends (.sendmTake id) (Word.ofN (cRIGHT * 2 ^ 24 + 6 * 2 ^ 16 + 0x10))) ∧
      (∀ cause operand, Op.sendChecks ag c m s = .ok (.ends cause operand, s) →
        ends (.sendmTake id) (Word.ofN (cause * 2 ^ 24 + operand * 2 ^ 16 + 0x10))) ∧
      (∀ s₁ cause eaddr einfo precise, Op.sendChecks ag c m s = .ok (.stop cause eaddr einfo precise, s₁) →
        let u := s₁.endSend id m 0x11 cause 0 0
        s.ActsTo (.sendmTake id) { (if precise then u.reportStop id m.ctx t false cause eaddr (einfo.getD 0) else u)
          with stalled := false }) ∧
      (∀ p r, Op.sendChecks ag c m s = .ok (.payload p, s) → s.sendRing id (m.gb.bits 47 32) = some r →
        let l := 32 * ((8 + p.length + 31) / 32)
        (r.configured = false → ends (.sendmTake id) (Word.ofN (5 * 2 ^ 16 + 0x19))) ∧
        (r.configured = true → r.broken = true → ends (.sendmTake id) (Word.ofN (5 * 2 ^ 16 + 0x12))) ∧
        (r.configured = true → r.broken = false → r.bytes < l →
          ends (.sendmTake id) (Word.ofN (cBOUND * 2 ^ 24 + 5 * 2 ^ 16 + 0x10))) ∧
        (r.send l nb = .wait → nb = true → ends (.sendmTake id) 0x18) ∧
        (∀ d r', s.findCore dest = some d → r.send l nb = .full r' → ∃ u c' d', s.ActsTo (.sendmTake id) u ∧ u.findCore id = some c' ∧
          c'.coll = rest ∧ u.HasToken id m.ctx t 0x18 ∧ u.findCore dest = some d' ∧ d'.mail = r' ∧ d'.lm = d.lm) ∧
        (r.send l nb = .wait → nb = false → ∃ u c', s.ActsTo (.sendmTake id) u ∧ u.findCore id = some c' ∧
          c' = { c with coll := { m with payload := some p } :: rest } ∧ s.SameAround u) ∧
        (∀ d pad r', s.findCore dest = some d → d.lm.wf = true → r.send l nb = .write pad r' → writes (.sendmTake id) p pad r' d))) ∧
    (∀ p r, m.payload = some p → s.sendRing id (m.gb.bits 47 32) = some r →
      let l := 32 * ((8 + p.length + 31) / 32)
      (r.configured = true → r.broken = true → ∃ u c' y, s.ActsTo (.sendmRetry id) u ∧ u.findCore id = some c' ∧ c'.coll = rest ∧
        u.HasToken id m.ctx t (Word.ofN (5 * 2 ^ 16 + 0x12)) ∧ c'.findCtx m.ctx = some y ∧ y.sys.events.getLsbD 0 = true ∧
        y.evInfo.broken = (0, 0x10003)) ∧
      (r.configured = false → ends (.sendmRetry id) (Word.ofN (5 * 2 ^ 16 + 0x19))) ∧
      (r.send l nb = .wait → nb = false → exec (.sendmRetry id) s = .next { s with stalled := true }) ∧
      (∀ d pad r', s.findCore dest = some d → d.lm.wf = true → r.send l nb = .write pad r' → writes (.sendmRetry id) p pad r' d))

/-! ### Launching -/

/-- LAUNCH, DEPDEC and TCBQ (R78, R83, R191 to R194). A reference that is no valid TCB location gives result 5 (TCBQ: all
ones); otherwise g[d] takes the result of the append to the queue that the TCB names, or of the decrement, whose codes R78 and R83
give; TCBQ reads word 0x20, with acquire order. -/
def Obligations.LaunchWords : Prop :=
  (∀ (s : State) (d a : BitVec 6), s.CanRead a → s.CanWrite d → s.Settled → s.twinned = false → (s.G a).toNat % 128 ≠ 0 →
    (s.Issues (.launch d a) → exec (.launch d a) s = .next (s.doneG d 5)) ∧
    (s.Issues (.depdec d a) → exec (.depdec d a) s = .next (s.doneG d 5)) ∧
    (s.Issues (.tcbq d a) → exec (.tcbq d a) s = .next (s.doneG d (BitVec.allOnes 64)))) ∧
  (∀ (s s₁ : State) (d a : BitVec 6) (n : Nat), s.CanRead a → s.CanWrite d → s₁.CanWrite d → s.Settled → s.twinned = false →
    let q := s.core.regs.queue.toNat
    let who := Requester.cluster (clusterOf s.core.slot)
    (s.Issues (.launch d a) → Op.launch who q (s.G a) s = .ok (n, s₁) →
      exec (.launch d a) s = .next (s₁.doneG d (Word.ofN n))) ∧
    (s.Issues (.depdec d a) → Op.depdec who q (s.G a) s = .ok (n, s₁) →
      exec (.depdec d a) s = .next (s₁.doneG d (Word.ofN n)))) ∧
  (∀ (s s₁ s₂ : State) (d a : BitVec 6) (w : Word), s.Issues (.tcbq d a) → s.CanRead a → s.CanWrite d → s.twinned = false →
    let q := s.core.regs.queue.toNat
    let acquired (t : State) : State := t.acquireCluster (clusterOf t.core.slot)
    (Op.validTcb q (s.G a) s = .ok (false, s₁) → s₁.CanWrite d →
      exec (.tcbq d a) s = .next ((acquired s₁).doneG d (BitVec.allOnes 64))) ∧
    (Op.validTcb q (s.G a) s = .ok (true, s₁) → Op.tcbWord q (s.G a) 0x20 s₁ = .ok (w, s₂) → s₂.CanWrite d →
      exec (.tcbq d a) s = .next ((acquired s₂).doneG d w))) ∧
  (∀ (s s₁ s₂ : State) (who : Requester) (q : Nat) (t w : Word),
    (Op.validTcb q t s = .ok (false, s₁) → Op.launch who q t s = .ok (5, s₁) ∧ Op.depdec who q t s = .ok (5, s₁)) ∧
    (Op.validTcb q t s = .ok (true, s₁) → Op.tcbWord q t 0x30 s₁ = .ok (w, s₂) →
      Op.launch who q t s = Op.append who q (some q) t (w.bits 47 32) s₂ ∧
      (w.bits 47 32 < 64 → (s₂.queue (w.bits 47 32)).launchers.getLsbD q = false → Op.depdec who q t s = .ok (4, s₂)) ∧
      (64 ≤ w.bits 47 32 ∨ (s₂.queue (w.bits 47 32)).launchers.getLsbD q = true →
        Op.depdec who q t s = Op.decrement who errorChainBound q t s₂))) ∧
  (∀ (s s₁ s₂ : State) (who : Requester) (table q st c : Nat) (n : Option Nat) (t : Word),
    (64 ≤ q → Op.append who table n t q s = .ok (3, s)) ∧
    (q < 64 → Op.validTcb table t s = .ok (false, s) → Op.append who table n t q s = .ok (5, s)) ∧
    (∀ m, q < 64 → Op.validTcb table t s = .ok (true, s) → n = some m → (s.queue q).launchers.getLsbD m = false →
      Op.append who table n t q s = .ok (4, s)) ∧
    (q < 64 → Op.validTcb table t s = .ok (true, s) → (∀ m, n = some m → (s.queue q).launchers.getLsbD m = true) →
      Op.tcbState table t s = .ok ((st, c), s) →
      (st ≠ tIDLE → Op.append who table n t q s = .ok (2, s)) ∧
      (st = tIDLE → c ≠ 0 → Op.putState table t tWAITING c s = .ok ((), s₁) → Op.append who table n t q s = .ok (1, s₁)) ∧
      (st = tIDLE → c = 0 → Op.putState table t tREADY 0 s = .ok ((), s₁) → Op.link who table t q s₁ = .ok ((), s₂) →
        Op.append who table n t q s = .ok (0, s₂)))) ∧
  (∀ (s s₁ s₂ s₃ : State) (who : Requester) (table fuel st n : Nat) (t w : Word),
    Op.validTcb table t s = .ok (true, s) → Op.tcbState table t s = .ok ((st, n), s) →
    (2 ≤ n → st = tIDLE ∨ st = tWAITING → (s.tcbPlace table t).any s.admittedAt = false → Op.putState table t tWAITING (n - 1) s = .ok ((), s₁) →
      Op.decrement who (fuel + 1) table t s = .ok (1, s₁)) ∧
    (n = 1 → st = tIDLE ∨ st = tWAITING → (s.tcbPlace table t).any s.admittedAt = false → Op.tcbWord table t 0x30 s = .ok (w, s₁) → w.bits 47 32 < 64 →
      Op.putState table t tREADY 0 s₁ = .ok ((), s₂) → Op.link who table t (w.bits 47 32) s₂ = .ok ((), s₃) →
      Op.decrement who (fuel + 1) table t s = .ok (0, s₃)) ∧
    (3 ≤ st ∨ (s.tcbPlace table t).any s.admittedAt = true → 1 ≤ n → Op.putState table t st (n - 1) s = .ok ((), s₁) →
      Op.decrement who (fuel + 1) table t s = .ok (2, s₁)) ∧
    (3 ≤ st ∨ (s.tcbPlace table t).any s.admittedAt = true → n = 0 → Op.decrement who (fuel + 1) table t s = .ok (3, s)) ∧
    (st ≤ 2 → (s.tcbPlace table t).any s.admittedAt = false → n = 0 → Op.putState table t tFAILED 0 s = .ok ((), s₁) → Op.tcbWord table t 0x70 s₁ = .ok (0, s₂) →
      Op.decrement who (fuel + 1) table t s = .ok (3, s₂)))

/-- The events of queues and tasks outside the cores (R76, R77, R79, R80, R82, R91, R92, R95). HOST_APPEND: a write of exactly the
first 8 bytes of a slot appends; what it cannot finish stays under way; any other write that touches those bytes gives result 6.
QUEUE_ENABLE and QUEUE_DISABLE set EN and make a queue ACTIVE or STOPPED, and the dispatcher takes the header of an enabled one.
DISPATCHER_WAKEUP takes it again. DISPATCHER_LINK_CHANGE ends the wait for a link word that has been written. WATCHDOG_EXPIRY, in three
steps: the queue is DRAINING; its running tasks are cancelled and it is RESETTING; it is ACTIVE or STOPPED again, its resets are
counted and firmware is told. CANCEL_TASK: a running task is cancelled with result 0, one that is not running becomes CANCELLED
with result 0, one that has ended gives 1, and no valid TCB location 2. -/
def Obligations.QueueEvents : Prop :=
  (∀ (s : State) (off : BitVec 12) (size : Nat) (t : Word),
    let q := off.toNat / 64
    let answered (u : State) (r : Nat) : State :=
      { u.mapQueue q (fun x => { x with hostAppend := none, hostResult := BitVec.ofNat 3 r }) with stalled := false }
    let waiting (u : State) (t : Word) : State := { u.mapQueue q (fun x => { x with hostAppend := some t }) with stalled := false }
    (s.pkg.hostUp = false ∨ s.headless = true → exec (.hostAppend off size t) s = .next { s with stalled := true }) ∧
    (s.pkg.hostUp = true → s.headless = false →
      (off.toNat % 64 = 0 → size = 8 → (s.queue q).hostAppend = none →
        (∀ r s₁, Op.append .bank q none t q s = .ok (r, s₁) → s.ActsTo (.hostAppend off size t) (answered s₁ r)) ∧
        (∀ h, Op.append .bank q none t q s = .error h → s.ActsTo (.hostAppend off size t)
          (waiting (match h with | .block u => s.withRequestsOf u | _ => s) t))) ∧
      (∀ t' r s₁, size = 0 → (s.queue q).hostAppend = some t' → Op.append .bank q none t' q s = .ok (r, s₁) →
        s.ActsTo (.hostAppend off size t) (answered s₁ r)) ∧
      (size ≠ 0 → ¬(off.toNat % 64 = 0 ∧ size = 8 ∧ (s.queue q).hostAppend = none) → ∃ u, s.ActsTo (.hostAppend off size t) u ∧
        (∀ k < 64, u.queue k = if off.toNat < 64 * k + 8 ∧ 64 * k < off.toNat + size then { s.queue k with hostResult := 6 }
          else s.queue k) ∧
        u.core = s.core ∧ u.peers = s.peers ∧ u.unc = s.unc ∧ u.disp.tasks = s.disp.tasks))) ∧
  (∀ (s : State) (q : BitVec 6),
    let u := s.mapQueue q.toNat fun x => { x with en := true, status := if x.status = .stopped then .active else x.status }
    (s.headless = true → s.ActsTo (.queueEnable q) { u with stalled := false }) ∧
    (∀ v, s.headless = false → Op.shareHeader q.toNat u = .ok ((), v) → s.ActsTo (.queueEnable q) { v with stalled := false }) ∧
    (∀ h, s.headless = false → Op.shareHeader q.toNat u = .error h → s.ActsTo (.queueEnable q)
      { (match h with | .block v => u.withRequestsOf v | _ => u) with stalled := false })) ∧
  (∀ (s t : State) (q : Nat), q < 64 → Op.shareHeader q s = .ok ((), t) → t.queue q = { t.queue q with
    seenHead := (t.queue q).head, seenTail := (t.queue q).tail }) ∧
  (∀ (s : State) (q : BitVec 6), ∃ t, s.ActsTo (.queueDisable q) t ∧
    t.queue q.toNat = { s.queue q.toNat with
      en := false, status := if (s.queue q.toNat).status = .active then .stopped else (s.queue q.toNat).status } ∧
    (∀ k, k ≠ q.toNat → t.queue k = s.queue k) ∧ t.core = s.core ∧ t.peers = s.peers ∧ t.unc = s.unc ∧
    t.disp.tasks = s.disp.tasks) ∧
  (∀ (s : State) (q : BitVec 6),
    (∀ t, (s.queue q.toNat).en = true → s.sharesHeader q.toNat = false → s.headless = false →
      Op.shareHeader q.toNat s = .ok ((), t) → s.ActsTo (.dispatcherWakeup q) { t with stalled := false }) ∧
    ((s.queue q.toNat).en = false ∨ s.sharesHeader q.toNat = true ∨ s.headless = true →
      exec (.dispatcherWakeup q) s = .next { s with stalled := true })) ∧
  (∀ (s : State) (q : BitVec 6) (w : Word), (s.queue q.toNat).waitLink = true → s.headless = false →
    Op.tcbWord q.toNat (s.queue q.toNat).head 0 s = .ok (w, s) →
    (w = 0 → exec (.dispatcherLinkChange q) s = .next { s with stalled := true }) ∧
    (w ≠ 0 → s.ActsTo (.dispatcherLinkChange q) { s.mapQueue q.toNat (fun x => { x with waitLink := false }) with stalled := false })) ∧
  (∀ (s s₁ : State) (ref : Word) (k : Task), s.findTask ref = some k → s.headless = false →
    ((List.range 64).find? (fun q => (s.queue q).expired = some ref) = none →
      (k.phase ≠ .running ∨ s.budget k = 0 ∨ k.watch < s.budget k ∨ (s.queue k.queue.toNat).expired.isSome = true →
        exec (.watchdogExpiry ref) s = .next { s with stalled := true }) ∧
      (k.phase = .running → s.budget k ≠ 0 → s.budget k ≤ k.watch → (s.queue k.queue.toNat).expired = none →
        s.ActsTo (.watchdogExpiry ref) { s.mapQueue k.queue.toNat (fun x => { x with status := .draining, expired := some ref })
          with stalled := false })) ∧
    (∀ q, (List.range 64).find? (fun q => (s.queue q).expired = some ref) = some q →
      ((s.queue q).status = .draining →
        Op.forEach (fun r => Op.cancelRunning r (if r = ref then 1 else 0))
          ((s.disp.tasks.filter fun x => x.queue.toNat = q && x.isRunning).map (·.ref)) s = .ok ((), s₁) →
        s.ActsTo (.watchdogExpiry ref) { s₁.mapQueue q (fun x => { x with status := .resetting }) with stalled := false }) ∧
      ((s.queue q).status = .resetting → ∃ t, s.ActsTo (.watchdogExpiry ref) t ∧ t.core = s.core ∧ t.peers = s.peers ∧
        t.unc = s.unc ∧ t.disp.tasks = s.disp.tasks ∧ t.pkg.firmware = s.pkg.firmware ++ [FwEvent.wdog (BitVec.ofNat 6 q)] ∧
        t.pkg.msix = s.pkg.msix ++ [1] ∧ (t.queue q).status = (if (s.queue q).en then .active else .stopped) ∧
        (t.queue q).expired = none ∧ (t.queue q).resets.toNat = min 65535 ((s.queue q).resets.toNat + 1)))) ∧
  (∀ (s : State) (t : Word), s.headless = false →
    let s₀ : State := { s with disp := { s.disp with cancelTask := t, cancelBusy := true } }
    let answers (u : State) (r : BitVec 3) : Prop := s.ActsTo (.cancelTask t)
      { u with disp := { u.disp with cancelBusy := false, cancelResult := r }, stalled := false }
    (s.disp.cancelBusy = true → s.disp.cancelTask ≠ t → s.ActsTo (.cancelTask t) { s with stalled := false }) ∧
    (s.disp.cancelBusy = false ∨ s.disp.cancelTask = t →
      (t.toNat % 128 ≠ 0 → answers s₀ 2) ∧
      (∀ s₁, Op.queueOf t s₀ = .ok (none, s₁) → answers s₁ 2) ∧
      (∀ q st n r, Op.queueOf t s₀ = .ok (some q, s₀) → Op.tcbState q t s₀ = .ok ((st, n), s₀) →
        Op.tcbWord q t 0x70 s₀ = .ok (r, s₀) →
        (∀ k s₁, s.findTask (taskKey q t) = some k → k.isRunning = true → Op.cancelRunning k.ref 2 s₀ = .ok ((), s₁) → answers s₁ 0) ∧
        (∀ k, s.findTask (taskKey q t) = some k → k.phase = .failed ∨ k.phase = .cancelled → answers s₀ 1) ∧
        (∀ s₁, s.findTask (taskKey q t) = none → st ≤ 2 → Op.cancelIdle q t r 0 n s₀ = .ok ((), s₁) → answers s₁ 0) ∧
        (s.findTask (taskKey q t) = none → 3 ≤ st → answers s₀ 1))))

/-! ### The dispatcher -/

/-- Selection, admission, and bindings on other packages (R85 to R89, R106). Heads that are not to be run leave first. Of the
candidates of smaller priority number than every held task, a queue of the least number is selected, the first with a positive
deficit after the one last selected there; where none is positive, each gains the same whole number of quanta, and one becomes
positive. Where there is none, the held task of the smallest number is tried again. An admitted task of revision 1 is RUNNING with
the words read. Another package's answer for a window group joins the held task's bindings, or, refused, withdraws them, and binds
one of a running task that has lost its cores; what it tells of a logical core's residency is kept, the first time as a placement; a
request of another package holds cores here, until it is withdrawn. -/
def Obligations.DispatcherSelection : Prop :=
  (∀ (s : State) (b : List Nat), s.headless = true → exec (.dispatcherSelect b) s = .next { s with stalled := true }) ∧
  (∀ (s s₁ : State) (b : List Nat), s.headless = false → Op.clearHeads (List.range 64) s = .ok (true, s₁) →
    s.ActsTo (.dispatcherSelect b) { s₁ with stalled := false }) ∧
  (∀ (s s₁ s₂ s₃ : State) (b : List Nat) (held : List (Cand × Task)) (cs : List (Option Cand)), s.headless = false →
    Op.clearHeads (List.range 64) s = .ok (false, s₁) → Op.heldCands s₁.dropDeficits = .ok (held, s₂) →
    Op.collect Op.candidate (List.range 64) s₂ = .ok (cs, s₃) →
    let idle := (List.range 64).any s₁.idleDeficit
    let cands := cs.filterMap fun c => c
    let acts (t : State) : Prop := s.ActsTo (.dispatcherSelect b) { t with stalled := false }
    (∀ (s₄ s₅ : State) (c : Cand) (q : Nat), c ∈ cands → (∀ x ∈ cands, c.prio ≤ x.prio) →
      c.prio < 256 → (∀ h, held.head? = some h → c.prio < h.1.prio) →
      let here := cands.filter fun x => x.prio = c.prio
      s₄ = s₃.replenish (here.map (·.queue)) → s₄.pickQueue c.prio (here.map (·.queue)) = some q →
      here.find? (fun x => x.queue = q) = some c →
      (Op.refused c (s₄.markSelected c.prio q) = .ok (true, s₅) → acts s₅) ∧
      (∀ s₆, Op.refused c (s₄.markSelected c.prio q) = .ok (false, s₅) →
        Op.settleCand c (match c.resume with | some t => t.away | none => []) [] b s₅ = .ok ((), s₆) → acts s₆)) ∧
    (∀ (s₄ : State) (c : Cand) (k : Task) (rest : List (Cand × Task)), held = (c, k) :: rest → (∀ x ∈ cands, c.prio ≤ x.prio) →
      (Op.retryHeld b c k s₃ = .ok (true, s₄) → acts s₄) ∧
      (Op.retryHeld b c k s₃ = .ok (false, s₄) → idle = true → acts s₄) ∧
      (Op.retryHeld b c k s₃ = .ok (false, s₄) → idle = false →
        exec (.dispatcherSelect b) s = .next { s with stalled := true })) ∧
    (held = [] → cands = [] → (idle = true → acts s₃) ∧
      (idle = false → exec (.dispatcherSelect b) s = .next { s with stalled := true }))) ∧
  (∀ (s : State) (level q : Nat) (qs : List Nat), s.pickQueue level qs = some q → q ∈ qs ∧ q < 64 ∧ 0 < (s.queue q).deficit ∧
    ∀ k, (s.disp.lastSel.toList.getD level none) = some k → ∀ p ∈ qs, p < 64 → 0 < (s.queue p).deficit →
      (q + 63 - k.toNat) % 64 ≤ (p + 63 - k.toNat) % 64) ∧
  (∀ (s : State) (qs : List Nat), qs ≠ [] → qs.Nodup → (∀ q ∈ qs, q < 64) →
    ((∃ q ∈ qs, 0 < (s.queue q).deficit) → s.replenish qs = s) ∧
    ((∀ q ∈ qs, (s.queue q).deficit ≤ 0) → ∃ k : Nat, 1 ≤ k ∧
      (∀ q ∈ qs, ((s.replenish qs).queue q).deficit = (s.queue q).deficit + k * (65536 * max 1 (s.queue q).weight.toNat : Nat)) ∧
      (∃ q ∈ qs, 0 < ((s.replenish qs).queue q).deficit) ∧
      ∀ q ∈ qs, (s.queue q).deficit + ((k - 1) * (65536 * max 1 (s.queue q).weight.toNat) : Nat) ≤ 0)) ∧
  (∀ (s t : State) (c : Cand) (b : List Nat) (r : List Grant), (c.words.getD 6 0).bits 63 56 = 1 →
    Op.admitTask c b r s = .ok ((), t) →
    ∃ k ∈ t.disp.tasks, k.ref = taskKey c.queue c.ref ∧ k.phase = .running ∧ k.words = c.words ∧ k.prio = c.prio ∧ k.queue = BitVec.ofNat 6 c.queue) ∧
  (∀ (s : State) (ref : Word) (g : Nat) (p : BitVec 13), p ≠ s.pkg.address → s.headless = false →
    (∀ (places : List (Nat × Nat)) (k : Task), s.findTask ref = some k → k.phase = .held → (gridOf k.words).unitMembers g ≠ [] →
      (places = [] ∨ places.length = ((gridOf k.words).unitMembers g).length) →
      (∀ r ∈ k.remote, r.unit ≠ g ∧ r.package.toNat ≤ p.toNat) →
      s.ActsTo (.bindingRequest ref g p (.answer places))
        { s.mapTask ref (fun t => { t with remote := if places = [] then [] else t.remote ++ [⟨g, p, places⟩] }) with stalled := false }) ∧
    (∀ (places : List (Nat × Nat)) (k : Task), s.findTask ref = some k → k.phase = .running → places ≠ [] →
      (gridOf k.words).unitMembers g ≠ [] → places.length = ((gridOf k.words).unitMembers g).length →
      (∀ b ∈ k.binds, (b.lcore, b.copy) ∈ (gridOf k.words).unitMembers g → b.valid = false) →
      (∀ c ∈ s.cores, c.id.task = ref → (c.id.lcore, c.id.copy) ∈ (gridOf k.words).unitMembers g → c.resident = false) →
      s.ActsTo (.bindingRequest ref g p (.answer places)) { s.bindAway k ⟨g, p, places⟩ with stalled := false }) ∧
    (∀ (lcore copy : Nat) (res : Bool) (k : Task) (b : Bind), s.findTask ref = some k →
      k.binds.find? (fun b => b.lcore = lcore && b.copy = copy && b.package = p && b.valid) = some b →
      let u := if res = true ∧ b.placed = false then s.countPlacement ref else s
      s.ActsTo (.bindingRequest ref g p (.resident lcore copy res))
        { u.mapBind ⟨ref, lcore, copy⟩ (fun b => { b with res := res, placed := b.placed || res }) with stalled := false }) ∧
    (∀ gangs size twin, size ∈ [1, 2, 4, 8, 16] → 1 ≤ gangs → gangs * size ≤ 16 →
      (∀ f ∈ s.disp.foreign, ¬(f.package = p ∧ f.task = ref ∧ f.group = g)) →
      s.ActsTo (.bindingRequest ref g p (.ask gangs size twin)) { s.grantForeign ref g p gangs size twin with stalled := false }) ∧
    (∀ slots, (∃ r ∈ s.pkg.remotes, r.package = p) → ∃ u, s.ActsTo (.bindingRequest ref g p (.usable slots)) u ∧
      (∀ r ∈ u.pkg.remotes, r.package = p → r.usable = slots) ∧ u.disp = s.disp ∧ u.unc = s.unc ∧ u.core = s.core)) ∧
  (∀ (s : State) (task : Word) (g : Nat) (p : BitVec 13) (gangs size : Nat) (twin : Bool),
    s.grantForeign task g p gangs size twin = s ∨ ∃ f, s.grantForeign task g p gangs size twin =
      { s with disp := { s.disp with foreign := f :: s.disp.foreign } } ∧ f.package = p ∧ f.task = task ∧ f.group = g) ∧
  (∀ (s : State) (ref : Word) (p : BitVec 13), s.headless = false →
    (∀ k, p = s.pkg.address → s.findTask ref = some k → k.phase = .held → s.ActsTo (.bindingWithdraw ⟨ref, p⟩)
      { s.mapTask ref (fun t => { t with remote := [] }) with stalled := false }) ∧
    (p ≠ s.pkg.address → (∃ f ∈ s.disp.foreign, f.package = p ∧ f.task = ref) → s.ActsTo (.bindingWithdraw ⟨ref, p⟩)
      { s with disp := { s.disp with foreign := s.disp.foreign.filter fun f => !(f.package = p && f.task = ref) },
               stalled := false }) ∧
    (p ≠ s.pkg.address → (∀ f ∈ s.disp.foreign, ¬(f.package = p ∧ f.task = ref)) →
      exec (.bindingWithdraw ⟨ref, p⟩) s = .next { s with stalled := true }))

/-- Placement, fencing of one core, re-placement, rotation, saving and restoring (R99, R102 to R104, R109 to R114, R118, R403,
R404, R408). A core placed afresh has its registers as R99 says and its local memory from the code object, and is resident where no
other gang has its run; where the code object cannot be read its task fails. FENCE_CORE fences a core or restores one, and remap
entries that name a fenced core are invalid. A core whose entry is invalid moves to another run with its gang. A quantum that has
expired while another gang is ready asks for a switch, which saves the gangs on the next one's run and restores it. The save of a
pre-empted task's last core leaves its TCB READY. A restored core keeps its registers, and its local memory where it returns to its
own core. -/
def Obligations.PlacementAndSaving : Prop :=
  (∀ (s : State) (id : CoreId) (t : Task) (c : LCore), s.findTask id.task = some t → t.phase = .running →
    s.findCore id = some c → c.imageArea = none →
    c.rollbackDue = none →
    (∃ b ∈ t.binds, b.lcore = id.lcore ∧ b.copy = id.copy ∧ b.valid = true ∧ b.placed = false ∧ b.package = s.pkg.address) →
    (s.takesCore (s.freshCore c t) = true ∨ s.disp.imageAreas.length < s.disp.areaRoom) →
    (∀ lm l, Op.codeBytes t s = .ok (.ok (lm, l), s) →
      ∃ u c', s.ActsTo (.firstPlacement id) u ∧ u.findCore id = some c' ∧ c'.lm = lm ∧ c'.xbound = BitVec.ofNat 21 l ∧
        c'.resident = s.takesCore (s.freshCore c t) ∧ c'.ctx.num = 0 ∧ c'.ctx.live = true ∧
        c'.ctx.pc = BitVec.ofNat 21 ((t.word 0x08).bits 39 0) ∧
        (∀ m, c'.ctx.gval m = 0) ∧ (∀ m, c'.ctx.vval m = 0) ∧ c'.ctx.level = 3 ∧ c'.ctx.sys.rkey = t.word 0x38 ∧
        c'.ctx.supervisor = s.homeMode t.queue.toNat ∧ (∀ x ∈ c'.others, x.live = false) ∧ c'.others.length = 10 ∧
        c'.regs.lcore = id.lcore ∧ c'.regs.seed = t.words.getD 7 0 ∧ c'.regs.step = t.words.getD 8 0 ∧
        c'.regs.lx = (t.words.getD 2 0).bits 15 0 ∧ c'.regs.ly = (t.words.getD 2 0).bits 31 16 ∧
        c'.regs.gangsz = (t.words.getD 2 0).bits 39 32 ∧ c'.regs.helpers = (t.words.getD 2 0).bits 47 40 ∧
        (∀ k : Fin 16, c'.regs.args[k] = t.words.getD (16 + k.val) 0) ∧ c'.rings = Vector.replicate 8 Ring.zero ∧
        u.unc.hbm = s.unc.hbm) ∧
    (∀ cause reason s₁ s₂, Op.codeBytes t s = .ok (.error (cause, reason), s₁) →
      Op.failFor id.task cause reason s₁ = .ok ((), s₂) → s.ActsTo (.firstPlacement id) { s₂ with stalled := false })) ∧
  (∀ (s : State) (slot : Nat) (out : Bool), ∃ u, s.ActsTo (.fenceCore slot out) u ∧ (slot ∈ u.disp.unusable ↔ out = true) ∧
    (∀ k, k ≠ slot → (k ∈ u.disp.unusable ↔ k ∈ s.disp.unusable)) ∧ u.disp.harvested = s.disp.harvested ∧ u.core = s.core ∧
    u.peers = s.peers ∧ u.unc = s.unc ∧ u.pkg = s.pkg ∧ (out = false → u.disp.tasks = s.disp.tasks) ∧
    (out = true → ∀ t ∈ u.disp.tasks, ∀ b ∈ t.binds, b.slot = slot → b.package = s.pkg.address → b.valid = false)) ∧
  (∀ (s : State) (id : CoreId) (slot : Nat) (t : Task) (c : LCore) (b : Bind), s.findTask id.task = some t → s.findCore id = some c →
    t.phase = .running → t.binds.find? (fun b => b.lcore = id.lcore && b.copy = id.copy) = some b → b.valid = false →
    c.rollbackDue.isSome = true → s.fencedCores id.task = [] → s.usable slot = true → (gridOf t.words).gang = 1 →
    c.regs.gangsz = 1 → c.regs.gangix = 0 →
    (∀ x ∈ t.binds, x.valid = true → x.copy = id.copy → x.slot / 16 = slot / 16) →
    (∀ x ∈ t.binds, x.valid = true → x.copy ≠ id.copy → nearClusters (x.slot / 16) (slot / 16) = false) →
    (∀ x ∈ t.binds, x.valid = true → x.lcore ≠ id.lcore) → runLoad s.boundSlots slot 1 < s.depth →
    (runLoad s.boundSlots slot 1 = 0 ∨ ∀ r ∈ s.runs (slot / 16) 1, runLoad s.boundSlots r 1 ≠ 0) →
    s.areasFit [] true [slot] = true →
    ∃ u c' t' b', s.ActsTo (.replaceLogicalCore id slot) u ∧ u.findCore id = some c' ∧ c'.slot = slot ∧ c'.resident = false ∧
      c'.ctx = c.ctx ∧ c'.others = c.others ∧ c'.lm = c.lm ∧ c'.regs = c.regs ∧ u.findTask id.task = some t' ∧
      t'.binds.find? (fun b => b.lcore = id.lcore && b.copy = id.copy) = some b' ∧ b'.valid = true ∧ b'.slot = slot ∧
      b'.package = s.pkg.address ∧ b'.placed = false ∧ u.unc = s.unc) ∧
  (∀ (s s₁ : State) (id : CoreId) (slot : Nat), Op.replaceGang id slot s = .ok ((), s₁) → s₁.canReplace id.task = true →
    s.ActsTo (.replaceLogicalCore id slot) { s₁ with stalled := false }) ∧
  (∀ (s : State) (slot : Nat) (c : LCore), s.cores.find? (fun c => c.slot = slot && c.resident) = some c →
    (c.switchDue = false → s.quantum ≤ (s.cycle - c.since).toNat → (s.nextGangs c).any s.gangReady = true →
      ∃ u, s.ActsTo (.quantumExpiry slot) u ∧ (∀ d ∈ u.cores, d.id ∈ s.gangIds c → d.switchDue = true) ∧ u.unc = s.unc ∧
        u.disp = s.disp) ∧
    (c.switchDue = true ∨ (s.cycle - c.since).toNat < s.quantum →
      exec (.quantumExpiry slot) s = .next { s with stalled := true }) ∧
    (∀ next lead, (s.nextGangs c).find? s.gangReady = some next → (next.head?).bind s.findCore = some lead →
      let out := s.cores.filter fun d => d.resident && !lead.gangmate d && lead.runMeets d
      (∀ s₁ s₂, (∀ d ∈ out, d.switchDue = true ∨ ∀ i ∈ s.gangIds d, s.coreWaits i = true) →
        Op.forEach Op.saveCore ((out.flatMap s.gangIds).dedup.filter fun i => (s.findCore i).any fun d => d.resident) s =
          .ok ((), s₁) →
        Op.forEach Op.restoreCore (next.filter fun i => !(s.findCore i).any fun d => d.resident) s₁ = .ok ((), s₂) →
        s.ActsTo (.timeSliceSwitch slot) { s₂ with stalled := false }) ∧
      ((∃ d ∈ out, d.switchDue = false ∧ ∃ i ∈ s.gangIds d, s.coreWaits i = false) →
        exec (.timeSliceSwitch slot) s = .next { s with stalled := true })) ∧
    ((s.nextGangs c).find? s.gangReady = none → exec (.timeSliceSwitch slot) s = .next { s with stalled := true })) ∧
  (∀ (s s₁ : State) (id : CoreId) (t t₁ : Task) (c : LCore), s.findTask id.task = some t → s.findCore id = some c →
    t.phase = .preempted → (∃ b ∈ t.binds, b.lcore = id.lcore ∧ b.copy = id.copy ∧ b.valid = true) →
    (c.resident = false → s₁ = s) → (c.resident = true → Op.saveCore id s = .ok ((), s₁)) → s₁.findTask id.task = some t₁ →
    let u := (s₁.chargeTask id.task).mapBind id fun b => { b with valid := false }
    let more : Prop := ∃ b ∈ t₁.binds, ¬(b.lcore = id.lcore ∧ b.copy = id.copy) ∧ b.valid = true ∧ b.package = s₁.pkg.address
    (more → s.ActsTo (.contextSave id) { u with stalled := false }) ∧
    (∀ s₂ s₃ st n, ¬more → s₂ = (u.suspendCalls id.task).mapTask id.task (fun t => { t with
        binds := t.binds.map fun b => { b with valid := false } }) →
      Op.tcbState t₁.queue.toNat t₁.tcb s₂ = .ok ((st, n), s₂) → Op.putState t₁.queue.toNat t₁.tcb tREADY n s₂ = .ok ((), s₃) →
      let behind (x : Task) : Bool := x.queue = t₁.queue && x.phase = .held && x.binds = [] && t₁.prio ≤ x.prio
      s.ActsTo (.contextSave id)
        { s₃ with disp := { s₃.disp with tasks := s₃.disp.tasks.filter fun x => !behind x }, stalled := false })) ∧
  (∀ (s : State) (id : CoreId) (t : Task) (c : LCore) (b : Bind), s.findTask id.task = some t → s.findCore id = some c →
    t.phase = .running → t.binds.find? (fun b => b.lcore = id.lcore && b.copy = id.copy) = some b → b.valid = true →
    b.package = s.pkg.address → c.imageArea.isSome = true → c.rollbackDue = none → c.resident = false →
    (∀ d ∈ s.cores, d.resident = true → (c.gangmate d = true ∨ c.runMeets d = false) ∧ (d.id = id ∨ d.slot ≠ c.slot)) →
    s.isNext c = true ∨ (∃ d ∈ s.gang c, d.resident = true) → (∀ n < 4, (c.collSlot n).isOpen = false) →
    let restored (lm : Memory) : Prop := ∃ u c', s.ActsTo (.contextRestore id) u ∧ u.findCore id = some c' ∧ c'.resident = true ∧
      c'.lmAt = some c.slot ∧ c'.lm = lm ∧ c'.ctx.g = c.ctx.g ∧ c'.ctx.v = c.ctx.v ∧ c'.ctx.k = c.ctx.k ∧ c'.ctx.pc = c.ctx.pc ∧
      c'.ctx.sys = c.ctx.sys ∧ c'.xbound = c.xbound ∧ c'.rings = c.rings ∧ c'.switchDue = false ∧ c'.since = s.cycle
    (s.lmStands c = true → restored c.lm) ∧
    (∀ code l, s.lmStands c = false → b.placed = true → Op.codeBytes t s = .ok (.ok (code, l), s) →
      restored (s.blocksOver c code)))

/-! ### Rollback and fences -/

/-- Superstep rollback, twin messages and die fences (R430 to R437, R462). A rollback whose retry count stands at the
limit fails the task; another restores every copy of the block, which then is no longer due, or ends as its restore ends it. Equal
twin messages pass, unequal ones are a mismatch. A fence runs as the shared operation says; with no task it raises the die's level,
drops what its clusters hold, takes the die out of service and reports it; a level that is not higher fences nothing, nor does a supply fault at another level than 2; a supply or
thermal fault fences at level 2; the fence register fences each die whose level it raises. -/
def Obligations.RollbackAndFences : Prop :=
  (∀ (s s₁ s₂ : State) (id : CoreId) (g : RbTrigger) (t : Task) (c : LCore) (x : Ctx), s.findTask id.task = some t →
    s.findCore id = some c → c.findCtx 0 = some x → t.phase = .running → t.snap = true → c.rollbackDue = some g →
    let b := s.rollbackBlock c
    let lcores := rollbackMembers c b
    let ids : List CoreId := t.copyList.flatMap fun k => lcores.map fun l => ⟨t.ref, l, k⟩
    let retry := s.retryCount c b ids
    s₁ = ids.foldl State.foldMeter s →
    (retry = x.sys.sevpol.bits 23 16 → Op.rollbackFails c t g s₁ = .ok ((), s₂) →
      s.ActsTo (.rollback id g) { s₂ with stalled := false }) ∧
    (retry ≠ x.sys.sevpol.bits 23 16 →
      (∀ i ∈ ids, (s.findCore i).isSome = true ∧ ∃ y ∈ t.binds, y.lcore = i.lcore ∧ y.copy = i.copy ∧ y.valid = true) →
      Op.rollbackCopies t b lcores (retry + 1) t.copyList s₁ = .ok (true, s₂) → ∃ u, s.ActsTo (.rollback id g) u ∧
        (∀ d ∈ u.cores, d.id ∈ ids → d.id.task = t.ref → d.id.lcore ∈ (b.map fun b => b.members.map (·.lcore)).getD lcores →
          d.rollbackDue = none ∧ (b = none → d.retry = retry + 1)) ∧ u.disp = s₂.disp ∧ u.unc.barriers = s₂.unc.barriers) ∧
    (retry ≠ x.sys.sevpol.bits 23 16 →
      (∀ i ∈ ids, (s.findCore i).isSome = true ∧ ∃ y ∈ t.binds, y.lcore = i.lcore ∧ y.copy = i.copy ∧ y.valid = true) →
      Op.rollbackCopies t b lcores (retry + 1) t.copyList s₁ = .ok (false, s₂) →
      s.ActsTo (.rollback id g) { s₂ with stalled := false })) ∧
  (∀ (s : State) (id : CoreId) (g : RbTrigger) (c : LCore), s.findCore id = some c → c.rollbackDue = none →
    exec (.rollback id g) s = .next { s with stalled := true }) ∧
  (∀ (s s₁ : State) (ref : Word) (l n : Nat) (ca cb : LCore) (x y : Ctx) (m k : TwinMsg), s.findCore ⟨ref, l, 0⟩ = some ca →
    s.findCore ⟨ref, l, 1⟩ = some cb → ca.findCtx n = some x → cb.findCtx n = some y → x.wait = some .twin →
    y.wait = some .twin → x.twinMsg = some m → y.twinMsg = some k → m.passed = false → k.passed = false →
    (m.seq ≠ k.seq → exec (.twinMessageCompare ref l n) s = .next { s with stalled := true }) ∧
    (m.seq = k.seq → m.hash = k.hash → ∃ u ca' cb', s.ActsTo (.twinMessageCompare ref l n) u ∧
      u.findCore ⟨ref, l, 0⟩ = some ca' ∧ u.findCore ⟨ref, l, 1⟩ = some cb' ∧
      ca'.findCtx n = some { x with wait := none, twinMsg := some { m with passed := true } } ∧
      cb'.findCtx n = some { y with wait := none, twinMsg := some { k with passed := true } } ∧ s.SameAround u ∧ u.pkg = s.pkg) ∧
    (m.seq = k.seq → m.hash ≠ k.hash → Op.twinMismatch ⟨ref, l, 0⟩ n m.seq m.hash k.hash s = .ok ((), s₁) →
      s.ActsTo (.twinMessageCompare ref l n) { s₁ with stalled := false })) ∧
  (∀ (s : State) (d : BitVec 3) (level : BitVec 2) (g : FenceTrigger),
    (level.toNat ≤ s.fenceLevel d.toNat ∨ level = 3 ∨ (g = .supply ∧ level ≠ 2) → exec (.dieFence d level g) s = .next { s with stalled := true }) ∧
    (s.fenceLevel d.toNat < level.toNat → level ≠ 3 → (g = .supply → level = 2) → s.disp.tasks = [] → ∃ u, s.ActsTo (.dieFence d level g) u ∧
      u.fenceLevel d.toNat = level.toNat ∧ (∀ e < 8, e ≠ d.toNat → u.fenceLevel e = s.fenceLevel e) ∧
      (u.die d.toNat).ready = false ∧ FwEvent.fenced d ∈ u.pkg.firmware ∧ 2 ∈ u.pkg.msix ∧
      (∀ l ∈ u.unc.lines, l.cluster / 16 ≠ d.toNat) ∧ u.disp.tasks = [])) ∧
  (∀ (s s₁ : State) (d : BitVec 3) (level : BitVec 2) (g : FenceTrigger), Op.fenceDie d.toNat level.toNat g s = .ok ((), s₁) →
    s.ActsTo (.dieFence d level g) { s₁ with stalled := false }) ∧
  (∀ (s : State) (d : BitVec 3), exec (.supplyThermalFault d) s = exec (.dieFence d 2 .supply) s) ∧
  (∀ (s : State) (v : Word), (∀ d < 8, v.bits (2 * d + 1) (2 * d) ≤ s.fenceLevel d ∨ v.bits (2 * d + 1) (2 * d) = 3) →
    s.ActsTo (.fenceRegisterWrite v) { s with stalled := false }) ∧
  (∀ (s s₁ : State) (v : Word) (d : Nat), d < 8 → s.fenceLevel d < v.bits (2 * d + 1) (2 * d) → v.bits (2 * d + 1) (2 * d) ≤ 2 →
    (∀ e < 8, e ≠ d → v.bits (2 * e + 1) (2 * e) = 0) → Op.fenceDie d (v.bits (2 * d + 1) (2 * d)) .firmware s = .ok ((), s₁) →
    s.ActsTo (.fenceRegisterWrite v) { s₁ with stalled := false })

/-! ### Frames -/

/-- The memory ports' events (R253, R258, R261 to R264, R269): a valid descriptor fills the object cache; a resident frame is
walked, and one that is not or is MOVING holds the walk; the batch of a context whose run-ahead has stopped is asked for; the
residency service grants or refuses, and what waited goes on; a change of a frame writes MOVING, every port acknowledges once what
left it under the old entry has completed, and then the new entry stands; counts are halved; the decision of R269: nothing, a
migration to a free frame of the port's die, or a replica. -/
def Obligations.FrameEvents : Prop :=
  (∀ (s : State) (id : CoreId) (c : LCore) (h : Nat) (w0 w1 w2 w3 : Word) (d : Desc), s.findCore id = some c → c.resident = true →
    16 ≤ h → h < (s.queue c.regs.queue.toNat).entries.toNat → s.ocFind c.slot c.regs.queue.toNat h = none →
    s.tableDesc c.regs.queue.toNat h = (w0, w1, w2, w3, d) → d.rights ≠ 0 → s.descValid c.regs.queue.toNat w0 w3 d = true →
    ∃ u, s.ActsTo (.objectCacheFill id h) u ∧
      u.ocFind c.slot c.regs.queue.toNat h = some ⟨c.slot, c.regs.queue, h, d.addr, w0, w1, w2, w3, s.pkg.address, s.pkg.epoch⟩ ∧
      u.core = s.core ∧ u.peers = s.peers ∧ u.disp = s.disp ∧ u.unc.hbm = s.unc.hbm ∧ u.unc.priv = s.unc.priv) ∧
  (∀ (s s₁ : State) (die ext f : Nat) (d : Desc), s.descOfExtents die ext = some d →
    (∀ b, Op.translate die d (65536 * f) false s = .ok (.bank b, s₁) →
      s.ActsTo (.translationWalk die ext f) { s₁ with stalled := false }) ∧
    (∀ b, Op.translate die d (65536 * f) false s = .ok (.host b, s₁) →
      s.ActsTo (.translationWalk die ext f) { s₁ with stalled := false }) ∧
    (∀ o, Op.translate die d (65536 * f) false s = .ok (.notres o, s₁) →
      exec (.translationWalk die ext f) s = .next { s with stalled := true }) ∧
    (Op.translate die d (65536 * f) false s = .ok (.moving, s₁) →
      exec (.translationWalk die ext f) s = .next { s with stalled := true })) ∧
  (∀ (s : State) (c : CtxId) (k : LCore) (x : Ctx) (ref : Word) (rest : List Word) (ahead : RunAhead),
    s.findCore c.core = some k → k.findCtx c.num = some x → x.wait = some (.residency ref ahead) →
    let batch := ref :: rest
    let q := k.regs.queue.toNat
    let ag : Agent := ⟨c.core, c.num, k.slot, q, x.supervisor, false, 0, false, false, [], false, false, 0⟩
    let ask (u : State) (r : Word) : State := match u.notResident q r with
      | some d => u.requestResidency ag r d 1 (dieOf k.slot)
      | none => u
    let asked := (rest.foldl ask s).mapCtx c.core c.num fun x => { x with wait := some (.residency ref .asked) }
    (batch.length ≤ 16 → batch.Nodup → (∀ r ∈ batch, r.toNat % 65536 = 0) →
      (ahead = .stopped batch ∨ (ahead = .begun ∧ ∀ r ∈ rest, (s.notResident q r).isSome = true)) →
      s.ActsTo (.frameNotResidentFault c batch) { asked with stalled := false }) ∧
    ((ahead = .asked ∨ (∃ l, ahead = .stopped l ∧ l ≠ batch) ∨ 16 < batch.length ∨ ¬batch.Nodup) →
      exec (.frameNotResidentFault c batch) s = .next { s with stalled := true })) ∧
  (∀ (s : State) (die : Nat) (r : ResReq) (rest : List ResReq) (w : Word) (fe : Nat), die < 8 →
    (s.die die).residency = r :: rest →
    let p := s.unc.priv
    let d := descOf r.desc (p.word r.desc) (p.word (r.desc + 8)) (p.word (r.desc + 16)) (p.word (r.desc + 24))
    let goes (i : Instr) (m : Memory) : Prop := ∃ u, s.ActsTo i u ∧ u.unc.priv = m ∧ u.unc.hbm = s.unc.hbm ∧
      (∀ y ∈ (u.die die).residency, ¬(y.ref = r.ref ∧ y.desc = r.desc)) ∧
      ∀ c ∈ u.cores, dieOf c.slot = die → c.regs.queue = r.queue → ∀ x ∈ c.ctxs, ∀ a, x.wait ≠ some (.residency r.ref a)
    p.walk d.extents (refOffset r.ref / 65536) = .entry fe → fe % 16 = 0 → (p.word fe).bits 63 62 = 0 →
    (entryValid d w (p.word (fe + 8)) = true → w.bits 63 62 = 1 → w.getLsbD 60 = false →
      goes (.residencyServiceEnd die (some w)) (p.setWord fe w)) ∧
    goes (.residencyServiceEnd die none) (p.setWord fe (p.word fe ||| 0x1000000000000000))) ∧
  (∀ (s : State) (e : Nat), let w := s.unc.priv.word e
    (w.bits 63 62 = 2 → s.ActsTo (.frameMovingWrite e) { s with stalled := false }) ∧
    (w.bits 63 62 = 1 → e % 16 = 0 → s.findShoot e = none → s.ActsTo (.frameMovingWrite e)
      { s with unc := { s.unc with priv := s.unc.priv.setWord e (entryState w 2), shoots := s.unc.shoots ++ [⟨e, w, [], none⟩] },
               stalled := false }) ∧
    (w.bits 63 62 = 0 ∨ w.bits 63 62 = 3 → exec (.frameMovingWrite e) s = .next { s with stalled := true })) ∧
  (∀ (s : State) (die e : Nat) (x : Shoot), s.findShoot e = some x → die < 8 → die ∉ x.acked →
    let old := entryPlace x.before 0
    let busy : Prop := (∃ o ∈ s.unc.bankOps, ∃ c a, s.findCore o.core = some c ∧ dieOf c.slot = die ∧ o.site = .bank a ∧
        old = .bank (a / 65536 * 65536)) ∨
      (∃ c ∈ s.cores, dieOf c.slot = die ∧ ∃ k ∈ c.ctxs, ∃ r n a, k.wait = some (.host r n a) ∧ old = .host (a / 65536 * 65536))
    (busy → exec (.portShootdown die e) s = .next { s with stalled := true }) ∧
    (¬busy → ∃ u, s.ActsTo (.portShootdown die e) u ∧ (∀ y ∈ (u.die die).tb, y.entry ≠ e) ∧
      u.findShoot e = some { x with acked := die :: x.acked } ∧ u.core = s.core ∧ u.peers = s.peers ∧ u.unc.hbm = s.unc.hbm)) ∧
  (∀ (s s₁ : State) (e : Nat) (w w0 w1 : Word) (x : Shoot), s.findShoot e = some x → x.copyTo = none →
    (∀ d < 8, d ∈ x.acked ∨ s.fenceLevel d = 2) →
    (Op.finishFirmware x w s = .ok ((w0, w1), s₁) → s.ActsTo (.shootdownFinish e w)
      { s₁ with unc := { s₁.unc with priv := (s₁.unc.priv.setWord e w0).setWord (e + 8) w1,
                                     shoots := s₁.unc.shoots.filter fun y => y.entry ≠ e }, stalled := false }) ∧
    (x.before.getLsbD 61 = true → w.bits 63 62 ≤ 1 → w.bits 59 37 = 0 →
      Op.finishFirmware x w s = .ok ((w, s.unc.priv.word (e + 8)), s.rebind e))) ∧
  (∀ (s s₁ : State) (e old : Nat) (w w0 w1 : Word) (x : Shoot) (f : FrameCopy), s.findShoot e = some x → x.copyTo = some f →
    (∀ d < 8, d ∈ x.acked ∨ s.fenceLevel d = 2) → entryPlace x.before 0 = .bank old →
    Op.finishPort x f old s = .ok ((w0, w1), s₁) → s.ActsTo (.shootdownFinish e w)
      { s₁ with unc := { s₁.unc with priv := (s₁.unc.priv.setWord e w0).setWord (e + 8) w1,
                                     shoots := s₁.unc.shoots.filter fun y => y.entry ≠ e }, stalled := false }) ∧
  (∀ s : State, ∃ u, s.ActsTo .accessCountHalving u ∧ (∀ d < 8, (u.die d).tb = (s.die d).tb.map fun (e : TbEntry) =>
    { e with nd := e.nd / 2, nh := e.nh / 2 }) ∧ u.unc = s.unc ∧ u.core = s.core ∧ u.peers = s.peers ∧ u.disp = s.disp) ∧
  (∀ (s : State) (die : Nat) (id : CoreId) (ref : Word) (q free stack frame : Nat) (c : LCore) (o : OcEntry) (t : TbEntry)
    (old : Nat), s.findCore id = some c → s.ocFind c.slot c.regs.queue.toNat (refHandle ref) = some o →
    let d := descOf o.addr o.w0 o.w1 o.w2 o.w3
    let f := refOffset ref / 65536
    let loc := old / 2 ^ 36 % 16 / 2
    s.tbFind die d.extents f = some t → dieOf c.slot = die → die < 8 → 16 ≤ refHandle ref → q ≤ 255 → free = (s.die die).freeFrames.length →
    t.word.bits 63 62 = 1 → t.nd ≠ 0 → t.nd % 256 = 0 → entryPlace t.word 0 = .bank old → old / 2 ^ 40 = s.pkg.address.toNat →
    loc ≠ die → (∀ x, NatMap.get s.unc.movedAt t.entry = some x → 1000 ≤ (s.timeUs - x).toNat) →
    let nh := match s.tbFind loc d.extents f with
      | some x => x.nh
      | none => t.nh
    let k := (s.die die).coeffs
    let short : Int := ((k.reserve - free : Nat) : Int)
    let smig : Int := k.cm * t.nd - k.ch * nh - k.cq * q - short
    let srep : Int := k.cr * t.nd - k.cq * q - short
    let canrep : Prop := d.has rightM = true ∧ d.replicas ≠ 0 ∧ (s.replicaTarget d.replicas die f).isSome = true ∧
      d.has rightW = false ∧ d.has rightA = false ∧ t.replicas.getLsbD die = false
    let canmig : Prop := d.has rightM = true ∧ d.has rightP = false
    let rep : Prop := canrep ∧ k.threshold < srep ∧ smig ≤ srep
    let w := s.unc.priv.word t.entry
    let moving (u : State) (target : Nat) (replica : Bool) : State :=
      { u with unc := { u.unc with priv := u.unc.priv.setWord t.entry (entryState w 2),
                                   shoots := u.unc.shoots ++ [⟨t.entry, w, [], some ⟨die, f, target, replica, d.addr⟩⟩] },
               stalled := false }
    (k.off = true ∨ (¬rep ∧ ¬(canmig ∧ k.threshold < smig)) →
      s.ActsTo (.migrationEvaluate die id ref q free stack frame) { s with stalled := false }) ∧
    (w.bits 63 62 = 1 → t.entry % 16 = 0 → s.findShoot t.entry = none → k.off = false →
      (∀ r, rep → s.replicaTarget d.replicas die f = some r →
        s.ActsTo (.migrationEvaluate die id ref q free stack frame) (moving s r true)) ∧
      (¬rep → canmig → k.threshold < smig → frame < 2 ^ 20 → 2 ^ 20 * stack + frame ∈ (s.die die).freeFrames →
        s.ActsTo (.migrationEvaluate die id ref q free stack frame) (moving (s.setFree (2 ^ 20 * stack + frame) false)
          (s.pkg.address.toNat * 2 ^ 40 + (2 ^ 20 * stack + frame) * 2 ^ 16) false))))

/-! ### The module in its system -/

/-- REGISTER_WRITE and the start (R6, R77, R102, R104, R108, R268, R269, R330, R343, R347, R381, R422, R424, R438, R448, R449, R453,
R460, R462, R467): a register takes its RW fields; a configuration record only while its queue is disabled, and placement control only while no task runs. A
word of a table in device-private memory stands as written; of a frame entry, only the fields that firmware has, and only while the
entry is neither RES nor MOVING. A register of a die is set on that die alone; an overflow list is configured only while no task
runs on its die, a telemetry ring only with a base on 4 KiB and a size that R424 allows; the line a control window selects is
written while it is LOST; a metering record is created once; a test kernel's record goes to its core's die, and a result other than
0 is reported. A start clears the machine but for the host's memory, the package's address, its epoch, which
rises, and the owner chain. A die with a usable core and margin whose images verify enters service, its harvested cores outside the
usable set; another is fenced. -/
def Obligations.RegistersAndStart : Prop :=
  (∀ (s : State) (v : Word),
    s.ActsTo (.registerWrite .supervisorMask v) { s with disp := { s.disp with supervisorMask := v }, stalled := false } ∧
    s.ActsTo (.registerWrite .injectionMask v) { s with disp := { s.disp with injectionMask := v }, stalled := false } ∧
    s.ActsTo (.registerWrite .testMask v) { s with disp := { s.disp with testMask := v }, stalled := false } ∧
    s.ActsTo (.registerWrite .plim v) { s with pkg := { s.pkg with plim := v &&& 0x0000FFFF0000FFFF }, stalled := false } ∧
    s.ActsTo (.registerWrite .statusTask v) { s with disp := { s.disp with statusTask := v }, stalled := false } ∧
    s.ActsTo (.registerWrite .statusIndex v) 
      { s with disp := { s.disp with statusIndex := BitVec.ofNat 17 (v.bits 16 0) }, stalled := false } ∧
    ((∀ t ∈ s.disp.tasks, t.isRunning = false) → s.ActsTo (.registerWrite .placeCtl v)
      { s with disp := { s.disp with placeCtl := v &&& 0x3FFFFF }, stalled := false }) ∧
    ((∃ t ∈ s.disp.tasks, t.isRunning = true) → exec (.registerWrite .placeCtl v) s = .next { s with stalled := true }) ∧
    (∀ (q : BitVec 6) (w : Nat), (s.queue q.toNat).en = true →
      exec (.registerWrite (.queueCfg q w) v) s = .next { s with stalled := true }) ∧
    (∀ q : BitVec 6, (s.queue q.toNat).en = false →
      (∃ u, s.ActsTo (.registerWrite (.queueCfg q 0) v) u ∧ u.queue q.toNat = { s.queue q.toNat with
        pe := v.getLsbD 62, priority := BitVec.ofNat 3 (v.bits 58 56), weight := BitVec.ofNat 16 (v.bits 47 32)
        meter := BitVec.ofNat 32 (v.bits 31 0) }) ∧
      (∃ u, s.ActsTo (.registerWrite (.queueCfg q 1) v) u ∧ u.queue q.toNat = { s.queue q.toNat with table := v }) ∧
      (∃ u, s.ActsTo (.registerWrite (.queueCfg q 2) v) u ∧
        u.queue q.toNat = { s.queue q.toNat with entries := BitVec.ofNat 25 (v.bits 24 0) }) ∧
      (∃ u, s.ActsTo (.registerWrite (.queueCfg q 3) v) u ∧
        u.queue q.toNat = { s.queue q.toNat with watchdog := BitVec.ofNat 32 (v.bits 31 0) }) ∧
      (∃ u, s.ActsTo (.registerWrite (.queueCfg q 6) v) u ∧ u.queue q.toNat = { s.queue q.toNat with launchers := v })) ∧
    (∀ q : BitVec 6, ∃ u, s.ActsTo (.registerWrite (.sevpolEntry q) v) u ∧
      u.queue q.toNat = { s.queue q.toNat with sevpol := v &&& 0x00FFFF06 } ∧ ∀ k, k ≠ q.toNat → u.queue k = s.queue k) ∧
    (∀ d : BitVec 3, ∃ u, s.ActsTo (.registerWrite (.migc1 d) v) u ∧
      u.die d.toNat = { s.die d.toNat with migc1 := v &&& 0xFFFFFFFFFFFF0001 } ∧ ∀ k, k ≠ d.toNat → u.die k = s.die k) ∧
    (∀ d : BitVec 3, ∃ u, s.ActsTo (.registerWrite (.migc0 d) v) u ∧
      u.die d.toNat = { s.die d.toNat with migc0 := v } ∧ ∀ k, k ≠ d.toNat → u.die k = s.die k) ∧
    (∀ addr, addr % 8 = 0 → addr < 2 ^ 64 → s.inFrameEntry addr = false → ∃ u, s.ActsTo (.registerWrite (.table addr) v) u ∧
      u.unc.priv = s.unc.priv.setWord addr v ∧ u.unc.hbm = s.unc.hbm ∧ u.core = s.core ∧ u.peers = s.peers) ∧
    (∀ addr, addr % 16 = 0 → addr < 2 ^ 64 →
      ((s.unc.priv.word addr).bits 63 62 = 0 ∨ (s.unc.priv.word addr).bits 63 62 = 3 → v.bits 63 62 ≠ 2 →
        ∃ u, s.ActsTo (.registerWrite (.frameEntry addr) v) u ∧
          u.unc.priv = s.unc.priv.setWord addr (v &&& 0xF000001FFFFFFFFF) ∧ u.unc.hbm = s.unc.hbm ∧ u.core = s.core) ∧
      ((s.unc.priv.word addr).bits 63 62 = 1 ∨ (s.unc.priv.word addr).bits 63 62 = 2 →
        exec (.registerWrite (.frameEntry addr) v) s = .next { s with stalled := true })) ∧
    (∀ addr, addr % 16 = 8 → addr < 2 ^ 64 → s.ActsTo (.registerWrite (.frameEntry addr) v) { s with stalled := false })) ∧
  (∀ (s : State) (v : Word) (d : BitVec 3),
    let sets (r : DevReg) (f : DieState → DieState) : Prop := ∃ u, s.ActsTo (.registerWrite r v) u ∧
      u.die d.toNat = f (s.die d.toNat) ∧ (∀ k, k ≠ d.toNat → u.die k = s.die k) ∧ u.core = s.core ∧ u.peers = s.peers ∧
      u.unc = s.unc ∧ u.disp = s.disp ∧ u.pkg = s.pkg
    let refuses (r : DevReg) : Prop := exec (.registerWrite r v) s = .next { s with stalled := true }
    sets (.mixedMask d) (fun x => { x with mixedMask := v }) ∧
    (∀ i : BitVec 5, sets (.energy d i) (fun x => { x with energy := x.energy.set i.toNat (BitVec.ofNat 32 (v.bits 31 0)) })) ∧
    sets (.telemetryConsumer d) (fun x => { x with telemetry := { x.telemetry with consumer := BitVec.ofNat 32 (v.bits 63 32) } }) ∧
    sets (.telemetryLc d) (fun x => { x with telemetry := { x.telemetry with lc := v.getLsbD 0 } }) ∧
    (v.toNat % 4096 = 0 → sets (.telemetryBase d) (fun x => { x with telemetry := { x.telemetry with base := v } })) ∧
    (v.toNat % 4096 ≠ 0 → refuses (.telemetryBase d) ∧ refuses (.overflowBase d)) ∧
    ((v.bits 31 0 = 0 ∨ ∃ k, 7 ≤ k ∧ k ≤ 20 ∧ v.bits 31 0 = 2 ^ k) → sets (.telemetryEntries d)
      (fun x => { x with telemetry := { x.telemetry with entries := BitVec.ofNat 32 (v.bits 31 0) } })) ∧
    (v.bits 31 0 ≠ 0 → (∀ k, 7 ≤ k → k ≤ 20 → v.bits 31 0 ≠ 2 ^ k) → refuses (.telemetryEntries d)) ∧
    (s.runningOn d.toNat = false → v.toNat % 4096 = 0 → sets (.overflowBase d) (fun x => { x with ovBase := v })) ∧
    (s.runningOn d.toNat = false → sets (.overflowCapacity d) (fun x => { x with ovCapacity := BitVec.ofNat 32 (v.bits 31 0) })) ∧
    (s.runningOn d.toNat = true → refuses (.overflowBase d) ∧ refuses (.overflowCapacity d)) ∧
    (v.bits 23 20 / 2 = d.toNat → s.ActsTo (.registerWrite (.freeFrame d) v)
      { s.setFree (v.bits 23 0) (v.getLsbD 63) with stalled := false }) ∧
    (v.bits 23 20 / 2 ≠ d.toNat → refuses (.freeFrame d))) ∧
  (∀ (s : State) (v : Word),
    (∀ i : BitVec 4, s.ActsTo (.registerWrite (.msixTable i) v)
      { s with pkg := { s.pkg with msixTable := s.pkg.msixTable.set i.toNat v }, stalled := false }) ∧
    (∀ c : BitVec 1, s.ActsTo (.registerWrite (.dirSelect c) v)
        { s.mapCdie c fun x => { x with select := v &&& 0x3FFFFFFFFFFF } with stalled := false } ∧
      ∀ off : BitVec 4, let tag := (s.cdie c).tag
        ((s.dirEntry tag).state = .lost → s.ActsTo (.registerWrite (.bankWord c off) v)
          { s.bankWrite tag (byteMask (8 * off.toNat) 8) (lineSet 0 (8 * off.toNat) 8 v.toNat) with stalled := false }) ∧
        ((s.dirEntry tag).state ≠ .lost → exec (.registerWrite (.bankWord c off) v) s = .next { s with stalled := true })) ∧
    (∀ n : BitVec 32, ((∃ m ∈ s.disp.meters, m.number = n) →
        s.ActsTo (.registerWrite (.meterCreate n) v) { s with stalled := false }) ∧
      ((∀ m ∈ s.disp.meters, m.number ≠ n) → s.ActsTo (.registerWrite (.meterCreate n) v) { s with
        disp := { s.disp with meters := s.disp.meters ++ [⟨n, false, 0, 0, 0, 0, Vector.replicate 8 0⟩] }, stalled := false })) ∧
    (∀ (slot : BitVec 16) (q : BitVec 6) (result : BitVec 8) (kernel : BitVec 32),
      let u := s.telemetry (slot.toNat / 256)
        (Word.ofN (7 * 2 ^ 56 + result.toNat * 2 ^ 48 + slot.toNat * 2 ^ 32 + kernel.toNat)) v (Word.ofN q.toNat)
      (slot.toNat < 2048 → result = 0 → s.ActsTo (.registerWrite (.testRecord slot q result kernel) v)
        { u with stalled := false }) ∧
      (slot.toNat < 2048 → result ≠ 0 → s.ActsTo (.registerWrite (.testRecord slot q result kernel) v) { u with
        pkg := { u.pkg with firmware := u.pkg.firmware ++ [FwEvent.reported (BitVec.ofNat 3 (slot.toNat / 256))] },
        stalled := false }) ∧
      (2048 ≤ slot.toNat → exec (.registerWrite (.testRecord slot q result kernel) v) s = .next { s with stalled := true }))) ∧
  (∀ (s : State) (ok warm : Bool), ∃ u, s.ActsTo (if warm then .warmStart ok else .coldStart ok) u ∧
    u.pkg.start = (if ok then .starting else .failed) ∧ u.pkg.warm = warm ∧ u.pkg.address = s.pkg.address ∧
    u.pkg.epoch = s.pkg.epoch + 1 ∧ u.pkg.fence = 0 ∧ u.pkg.identity.ownerChain = s.pkg.identity.ownerChain ∧
    u.unc.host = s.unc.host ∧ u.unc.hbm = [] ∧ u.unc.priv = [] ∧ u.unc.lines = [] ∧ u.disp.tasks = [] ∧ u.peers = [] ∧
    u.core = State.reset.core ∧ (∀ d < 8, (u.die d).ready = false) ∧
    (ok = true → ∀ p ∈ u.pkg.ports, p.buffer = [] ∧ p.replay = [] ∧ p.stopped = 0) ∧ (ok = false → u.pkg.ports = [])) ∧
  (∀ (s : State) (d : BitVec 3) (f : DieStart), (s.pkg.start = .starting ∨ s.pkg.start = .limited) → (s.die d.toNat).ready = false →
    s.fenceLevel d.toNat = 0 →
    (f.usableCore = true → (∃ n < 256, n ∉ f.harvested) → f.marginMet = true → f.imagesVerified = true →
      ∃ u, s.ActsTo (.dieEnterService d f) u ∧
      (u.die d.toNat).ready = true ∧ (u.die d.toNat).archStore = archWords f.archaism ∧ u.pkg.fence = s.pkg.fence ∧
      (∀ n ∈ f.harvested, n < 256 → 256 * d.toNat + n ∈ u.disp.harvested) ∧
      (∀ k, k ≠ d.toNat → u.die k = s.die k) ∧ (u.pkg.start = .limited ∨ u.pkg.start = .full)) ∧
    (f.usableCore = false ∨ (∀ n < 256, n ∈ f.harvested) ∨ f.marginMet = false ∨ f.imagesVerified = false → ∃ u, s.ActsTo (.dieEnterService d f) u ∧
      u.fenceLevel d.toNat = 1 ∧ (u.die d.toNat).ready = false ∧ FwEvent.fenced d ∈ u.pkg.firmware ∧ 2 ∈ u.pkg.msix)) ∧
  (∀ (s : State) (d : BitVec 3) (f : DieStart), (s.die d.toNat).ready = true →
    exec (.dieEnterService d f) s = .next { s with stalled := true })

/-- The fabric, power and ageing (R425, R439, R456 to R458, R462). A flit joins the port's buffer while it holds fewer
than 64 of its class, and what can move on does; in sequence it is delivered, a second time dropped, early held, up to
256. STOP and GO halt and free a class. A port that cannot be retrained goes down, and with the last one every package
that was UP is UNREACHABLE. Above the power limit starts are delayed until the estimate is below 98 % of it. -/
def Obligations.FabricAndPower : Prop :=
  (∀ (s : State) (n : BitVec 7) (x : Flit) (p : Port), s.port n = some p →
    (p.up = true → p.held x.cls.toNat < 64 → s.ActsTo (.flitArrival n x)
      { (s.mapPort n fun (p : Port) => { p with buffer := p.buffer ++ [x] }).moveFlits with stalled := false }) ∧
    (p.up = false ∨ 64 ≤ p.held x.cls.toNat → exec (.flitArrival n x) s = .next { s with stalled := true })) ∧
  (∀ (d : DieState) (x : Flit), let f := (d.flows.find? fun f => f.source = x.source && f.cls = x.cls).getD ⟨x.source, x.cls, 0, []⟩
    (x.seq = f.next → f.early = [] → ∃ e, d.receive x = some e ∧ e.delivered = d.delivered ++ [x]) ∧
    (32768 ≤ (x.seq - f.next).toNat → d.receive x = some d) ∧
    (x.seq ≠ f.next → (x.seq - f.next).toNat < 32768 → (∀ y ∈ f.early, y.seq ≠ x.seq) →
      (f.early.length < 256 → ∃ e, d.receive x = some e ∧ e.delivered = d.delivered) ∧
      (256 ≤ f.early.length → d.receive x = none))) ∧
  (∀ (s : State) (n : BitVec 7) (c : BitVec 2), ∃ u, s.ActsTo (.flowStop n c) u ∧
    (∀ p ∈ u.pkg.ports, p.num = n → p.stopped.getLsbD c.toNat = true) ∧ u.core = s.core ∧ u.peers = s.peers ∧ u.unc = s.unc ∧
    u.pkg.ports.map (·.buffer) = s.pkg.ports.map (·.buffer)) ∧
  (∀ (s : State) (n : BitVec 7) (c : BitVec 2), s.ActsTo (.flowGo n c) { (s.mapPort n fun (p : Port) =>
    { p with stopped := p.stopped &&& ~~~(1#4 <<< c.toNat) }).moveFlits with stalled := false }) ∧
  (∀ (s : State) (n : BitVec 7) (p : Port), s.port n = some p →
    (p.up = true → p.replay ≠ [] → s.ActsTo (.linkReplay n) { s with stalled := false }) ∧
    (p.up = false → exec (.linkReplay n) s = .next { s with stalled := true }) ∧
    (p.up = true → (∀ q ∈ s.pkg.ports, q.buffer = []) → ∃ u, s.ActsTo (.linkRetrainTimeout n) u ∧
      (∀ q ∈ u.pkg.ports, q.num = n → q.up = false) ∧ u.unc = s.unc ∧ u.core = s.core ∧
      ((∀ q ∈ s.pkg.ports, q.num ≠ n → q.up = false) → ∀ r ∈ u.pkg.remotes, r.state ≠ .up) ∧
      ((∃ q ∈ s.pkg.ports, q.num ≠ n ∧ q.up = true) → u.pkg.remotes = s.pkg.remotes)) ∧
    (p.up = false → exec (.linkRetrainTimeout n) s = .next { s with stalled := true })) ∧
  (∀ (s : State) (w : Nat), let limit := min 3600 (s.pkg.plim.bits 15 0)
    s.ActsTo (.powerEstimate w) { s with pkg := { s.pkg with
      power := BitVec.ofNat 16 (min 65535 w)
      delaying := if limit < w then true else if w * 100 < 98 * limit then false else s.pkg.delaying }, stalled := false }) ∧
  (∀ (s : State) (d : BitVec 3) (r : AgeReading), s.ActsTo (.ageingSample d r)
    { s.telemetry d.toNat (Word.ofN (3 * 2 ^ 56 + r.monitor.toNat * 2 ^ 48 + r.site.toNat * 2 ^ 32 + r.count.toNat))
      (Word.ofN (r.margin.toNat * 2 ^ 32 + r.supply.toNat * 2 ^ 16 + r.temperature.toNat)) 0 with stalled := false })

/-- Identity and attestation (R464 to R466): while a Conjunction die is left, every request has its answer, the next in the
list, and nothing else changes; with none left, none is given. The owner chain is provisioned once, through a Conjunction die too. -/
def Obligations.AttestationAnswers : Prop :=
  (∀ (s : State), let answers (i : Instr) (r : SpdmReply) : Prop :=
      ((∃ c : BitVec 1, (s.cdie c).lost = false) → s.ActsTo i { s with
        pkg := { s.pkg with identity := { s.pkg.identity with replies := s.pkg.identity.replies ++ [r] } }, stalled := false }) ∧
      ((∀ c : BitVec 1, (s.cdie c).lost = true) → exec i s = .next { s with stalled := true })
    answers .getVersion (.version 1 2) ∧ answers .getCapabilities (.capabilities true true true false) ∧
    (∀ a b, answers (.negotiateAlgorithms a b) (.algorithms a b)) ∧
    (∃ l : List (Option (List Byte)), l.length = 8 ∧ l.head? = some (some (sha256 Config.identityChain)) ∧
      l[1]? = some (s.pkg.identity.ownerChain.map sha256) ∧ (∀ n, 2 ≤ n → n < 8 → l[n]? = some none) ∧
      answers .getDigests (.digests l)) ∧
    answers (.getCertificate 0) (.certificate Config.identityChain) ∧
    answers (.getCertificate 1) (.certificate (s.pkg.identity.ownerChain.getD [])) ∧
    (∀ n : BitVec 3, 2 ≤ n.toNat → answers (.getCertificate n) (.certificate [])) ∧
    (∀ (slot : BitVec 3) (nonce : List Byte), answers (.challenge slot nonce) (.challenge slot (Config.sign (sha256
      (sha256 (if slot = 0 then Config.identityChain else if slot = 1 then s.pkg.identity.ownerChain.getD [] else []) ++ nonce ++
        s.pkg.identity.measured.flatten))))) ∧
    answers (.getMeasurements 0) (.measurements []) ∧
    (∀ n : BitVec 8, 1 ≤ n.toNat → answers (.getMeasurements n)
      (.measurements (s.pkg.identity.measured[n.toNat - 1]?).toList)) ∧
    (∀ c, answers (.spdmUnsupportedRequest c) (.unsupported c))) ∧
  (∀ (s : State) (chain : List Byte),
    ((∀ c : BitVec 1, (s.cdie c).lost = true) → exec (.ownerChainProvisioning chain) s = .next { s with stalled := true }) ∧
    (s.headless = false → s.pkg.identity.ownerChain = none → s.ActsTo (.ownerChainProvisioning chain)
      { s with pkg := { s.pkg with identity := { s.pkg.identity with ownerChain := some chain } }, stalled := false }) ∧
    (s.headless = false → s.pkg.identity.ownerChain.isSome = true → s.ActsTo (.ownerChainProvisioning chain) { s with stalled := false }))


/-! ### Fused gangs -/

/-- A GANG IN LOCK-STEP (R156, R157). A conditional branch whose outcomes differ, and a JALR whose targets differ, take no
effect: every member traps GANG, with a bit for each member that took it, or whose target is the leader's. A word that
traps in some members traps in all: those with their own cause, the others GANG with the bits of those that trapped. A
word that waits in one member waits in all, whatever the others would do. In a gang of two, ADD completes in both members, each on
its own registers; SPLIT ends the lock-step in both (R178); and a split gang of two whose second member comes to FUSE goes on fused
behind it where both FUSEs lie at one offset, and traps GANG in both where they do not. -/
def Obligations.GangLockStep : Prop :=
  (GangSplits .beq (fun x y => x = y) ∧ GangSplits .bne (fun x y => x ≠ y) ∧
    GangSplits .blt (fun x y => x.toInt < y.toInt) ∧ GangSplits .bge (fun x y => y.toInt ≤ x.toInt) ∧
    GangSplits .bltu (fun x y => x.toNat < y.toNat) ∧ GangSplits .bgeu (fun x y => y.toNat ≤ x.toNat)) ∧
  (∀ (s : State) (d a : BitVec 6) (imm : BitVec 14) (bs : List Bool), s.ctx.live = true → s.waits = false →
    s.inGang = true → s.members.head? = some s.core.id →
    List.Forall₂ (fun id b => (s.member id).wordTrap (.jalr d a imm) = none ∧ (s.member id).CanRead a ∧
      (s.member id).CanWrite d ∧ ((s.member id).G a + imm.signExtend 64).toNat % 4 = 0 ∧
      ((s.member id).G a + imm.signExtend 64).toNat < 0x100000 ∧ (b = true ↔ (s.member id).G a = s.G a)) s.members bs →
    false ∈ bs → exec (.jalr d a imm) s = .next (s.gangSplit bs)) ∧
  (∀ (s : State) (d a b : BitVec 6) (ts : List (Option Trap)), s.ctx.live = true → s.waits = false → s.inGang = true →
    List.Forall₂ (fun id t => (s.member id).wordTrap (.add d a b) = t ∧
      (t = none → (s.member id).CanRead a ∧ (s.member id).CanRead b ∧ (s.member id).CanWrite d)) s.members ts →
    (∃ t ∈ ts, t.isSome = true) →
    exec (.add d a b) s = .next (((s.members.zip ts).foldl (init := s) fun (u : State) (p : CoreId × Option Trap) =>
      (u.focus p.1 s.ctx.num).takeTrap (p.2.getD (Trap.plain cGANG 0 (Word.ofN (bitsOf (ts.map (·.isSome))))))).focus
        s.core.id s.ctx.num)) ∧
  (∀ (s : State) (d a b : BitVec 6), s.ctx.live = true → s.waits = false → s.inGang = true →
    (∃ id ∈ s.members, (s.member id).wordTrap (.add d a b) = none ∧ (s.member id).ctx.reportAt a.toNat = none ∧
      (s.member id).ctx.pendG.getLsbD a.toNat = true) →
    exec (.add d a b) s = .next s.standStill) ∧
  (∀ (s : State) (p : LCore) (d a b : BitVec 6), s.ctx.live = true → s.waits = false → s.inGang = true →
    s.peers = [p] → p.id ≠ s.core.id → s.members = [s.core.id, p.id] →
    (∀ id ∈ s.members, (s.member id).wordTrap (.add d a b) = none ∧ (s.member id).CanRead a ∧ (s.member id).CanRead b ∧
      (s.member id).CanWrite d) →
    exec (.add d a b) s = .next (((((s.doneG d (Word.ofN ((s.G a).toNat + (s.G b).toNat))).focus p.id s.ctx.num).doneG d
      (Word.ofN (((s.member p.id).G a).toNat + ((s.member p.id).G b).toNat)))).focus s.core.id s.ctx.num)) ∧
  (∀ (s : State) (p : LCore), s.ctx.live = true → s.waits = false → s.inGang = true → s.ctx.num = 0 →
    s.peers = [p] → p.id ≠ s.core.id → s.members = [s.core.id, p.id] →
    (∀ id ∈ s.members, (s.member id).wordTrap .split = none ∧ (s.member id).ctx.num = 0 ∧
      1 < (s.member id).core.regs.gangsz ∧ ∀ x ∈ (s.member id).core.others, x.live = false) →
    let split (u : State) : State := State.done { u with core := { u.core with fused := false, fuseAt := none } }
    exec .split s = .next ((split ((split s).focus p.id 0)).focus s.core.id 0)) ∧
  (∀ (s : State) (p : LCore) (o : BitVec 21), s.Issues .fuse → s.ctx.num = 0 → (∀ x ∈ s.core.others, x.live = false) →
    1 < s.core.regs.gangsz → s.core.fused = false → s.core.fuseAt = none → s.peers = [p] → p.id ≠ s.core.id → p.ctx.num = 0 →
    s.members = [s.core.id, p.id] → p.fuseAt = some o →
    (s.ctx.pc = o → ∃ t p', exec .fuse s = .next t ∧ t.core.fused = true ∧ t.core.fuseAt = none ∧ t.ctx.pc = s.ctx.pc + 4 ∧
      t.findCore p.id = some p' ∧ p'.fused = true ∧ p'.fuseAt = none ∧ p'.ctx.pc = o + 4 ∧ t.ctx.g = s.ctx.g ∧
      p'.ctx.g = p.ctx.g ∧ t.unc = s.unc) ∧
    (s.ctx.pc ≠ o → exec .fuse s = .next (State.finish ((s.members.foldl
      (init := { s with core := { s.core with fuseAt := some s.ctx.pc } }) fun (u : State) id =>
        { (u.focus id 0).takeTrap (Trap.plain cGANG 0 2) with stalled := false }).focus s.core.id 0) .set)))
end

