-- ==== Sys2Proof/Laws/Memory.lean ====
section
/-! SUPPORT. Every memory operation keeps the canonical form, and reads what was written. -/

namespace Sys2Proof.Machine

/-! ### The canonical form -/

/-- The canonical form from `lo` on: the addresses rise, none lies below `lo`, and no listed byte is zero. -/
theorem Memory.wfFrom_iff (m : Memory) (lo : Nat) :
    Memory.wfFrom lo m = true ↔ m.Pairwise (fun c d => c.1 < d.1) ∧ ∀ c ∈ m, lo ≤ c.1 ∧ c.2 ≠ 0 := by
  induction m generalizing lo <;> grind [Memory.wfFrom, List.pairwise_cons]

theorem Memory.wf_iff (m : Memory) :
    m.wf = true ↔ m.Pairwise (fun c d => c.1 < d.1) ∧ ∀ c ∈ m, c.2 ≠ 0 := by
  simp [Memory.wf, Memory.wfFrom_iff]

/-- Nothing is listed below the start of a canonical memory. -/
theorem Memory.get_below (m : Memory) (lo a : Nat) (hm : Memory.wfFrom lo m = true) (h : a < lo) : m.get a = 0 := by
  cases m <;> grind [Memory.wfFrom, Memory.get]

/-! ### One byte written -/

theorem Memory.wfFrom_set (m : Memory) (lo a : Nat) (v : Byte) (hm : Memory.wfFrom lo m = true) (h : lo ≤ a) :
    Memory.wfFrom lo (m.set a v) = true := by
  fun_induction Memory.set m a v generalizing lo <;> grind [Memory.wfFrom, Memory.wfFrom_iff]

theorem Memory.get_setFrom (m : Memory) (lo a b : Nat) (v : Byte) (hm : Memory.wfFrom lo m = true) :
    (m.set a v).get b = if b = a then v else m.get b := by
  fun_induction Memory.set m a v generalizing lo <;> grind [Memory.wfFrom, Memory.get, Memory.get_below]

theorem Memory.wf_set (m : Memory) (a : Nat) (v : Byte) (hm : m.wf = true) : (m.set a v).wf = true :=
  Memory.wfFrom_set m 0 a v hm (Nat.zero_le a)

theorem Memory.get_set (m : Memory) (a b : Nat) (v : Byte) (hm : m.wf = true) :
    (m.set a v).get b = if b = a then v else m.get b := Memory.get_setFrom m 0 a b v hm

theorem Memory.get_set_same (m : Memory) (a : Nat) (v : Byte) (hm : m.wf = true) : (m.set a v).get a = v := by
  simp [Memory.get_set, hm]

theorem Memory.get_set_other (m : Memory) (a b : Nat) (v : Byte) (hm : m.wf = true) (h : b ≠ a) :
    (m.set a v).get b = m.get b := by
  simp [Memory.get_set, hm, h]

/-! ### Several bytes written -/

theorem Memory.wf_write (m : Memory) (a : Nat) (bs : List Byte) (hm : m.wf = true) : (m.write a bs).wf = true := by
  fun_induction Memory.write m a bs <;> grind [Memory.wf_set]

theorem Memory.get_write_outside (m : Memory) (a b : Nat) (bs : List Byte) (hm : m.wf = true)
    (h : b < a ∨ a + bs.length ≤ b) : (m.write a bs).get b = m.get b := by
  fun_induction Memory.write m a bs <;> grind [Memory.wf_set, Memory.get_set_other]

theorem Memory.wf_store (m : Memory) (a n v : Nat) (hm : m.wf = true) : (m.store a n v).wf = true :=
  Memory.wf_write m a _ hm

theorem Memory.wf_setWord (m : Memory) (a : Nat) (v : Word) (hm : m.wf = true) : (m.setWord a v).wf = true :=
  Memory.wf_store m a 8 _ hm

theorem Memory.wf_writeMasked (m : Memory) (a n v mask : Nat) (hm : m.wf = true) :
    (m.writeMasked a n v mask).wf = true :=
  List.foldlRecOn (motive := fun m : Memory => m.wf = true) _ _ hm fun m hm _ _ => Memory.wf_set m _ _ hm

/-! ### Parts of a memory -/

theorem Memory.wf_filter (p : Host.Cell → Bool) (m : Memory) (hm : m.wf = true) : Memory.wf (m.filter p) = true := by
  rw [Memory.wf_iff] at *
  exact ⟨hm.1.filter _, fun c hc => hm.2 c (List.mem_of_mem_filter hc)⟩

theorem Memory.wf_slice (m : Memory) (a n : Nat) (hm : m.wf = true) : (m.slice a n).wf = true := Memory.wf_filter _ m hm

theorem Memory.wf_below (m : Memory) (a : Nat) (hm : m.wf = true) : (m.below a).wf = true := Memory.wf_filter _ m hm

theorem Memory.wf_above (m : Memory) (a : Nat) (hm : m.wf = true) : (m.above a).wf = true := Memory.wf_filter _ m hm

theorem Memory.mem_slice {m : Memory} {a n : Nat} {c : Host.Cell} (h : c ∈ m.slice a n) : a ≤ c.1 ∧ c.1 < a + n := by
  simpa using (List.mem_filter.mp h).2

theorem Memory.mem_below {m : Memory} {a : Nat} {c : Host.Cell} (h : c ∈ m.below a) : c.1 < a := by
  simpa using (List.mem_filter.mp h).2

theorem Memory.mem_above {m : Memory} {a : Nat} {c : Host.Cell} (h : c ∈ m.above a) : a ≤ c.1 := by
  simpa using (List.mem_filter.mp h).2

/-- Two memories one after the other, the first below an address and the second from it on. -/
theorem Memory.wf_append (m k : Memory) (mid : Nat) (hm : m.wf = true) (hk : k.wf = true) (hl : ∀ c ∈ m, c.1 < mid)
    (hh : ∀ c ∈ k, mid ≤ c.1) : Memory.wf (m ++ k) = true := by
  rw [Memory.wf_iff] at *
  grind

/-- A memory of addresses from `sa` on, moved to `da`. -/
theorem Memory.wf_move (m : Memory) (sa da : Nat) (hm : m.wf = true) (hs : ∀ c ∈ m, sa ≤ c.1) :
    Memory.wf (m.map fun c => (c.1 - sa + da, c.2)) = true := by
  rw [Memory.wf_iff] at *
  refine ⟨List.pairwise_map.mpr (hm.1.imp_of_mem fun hc hd h => ?_), by grind⟩
  grind

theorem Memory.wf_zero (m : Memory) (a n : Nat) (hm : m.wf = true) : (m.zero a n).wf = true :=
  Memory.wf_append _ _ (a + n) (Memory.wf_below m a hm) (Memory.wf_above m _ hm)
    (fun _ hc => Nat.lt_of_lt_of_le (Memory.mem_below hc) (Nat.le_add_right a n)) fun _ hc => Memory.mem_above hc

theorem Memory.wf_blit (m src : Memory) (da sa n : Nat) (hm : m.wf = true) (hs : src.wf = true) :
    (m.blit da src sa n).wf = true := by
  have moved : ∀ c ∈ (src.slice sa n).map fun c => (c.1 - sa + da, c.2), da ≤ c.1 ∧ c.1 < da + n := by
    simp only [List.forall_mem_map]
    exact fun e he => by grind [Memory.mem_slice he]
  refine Memory.wf_append _ _ (da + n) (Memory.wf_append _ _ da (Memory.wf_below m da hm) ?_ ?_ ?_) (Memory.wf_above m _ hm)
    ?_ fun _ hc => Memory.mem_above hc
  · exact Memory.wf_move _ sa da (Memory.wf_slice src sa n hs) fun c hc => (Memory.mem_slice hc).1
  · exact fun _ hc => Memory.mem_below hc
  · exact fun c hc => (moved c hc).1
  · exact fun c hc => (List.mem_append.mp hc).elim
      (fun h => Nat.lt_of_lt_of_le (Memory.mem_below h) (Nat.le_add_right da n)) fun h => (moved c h).2

end Sys2Proof.Machine
end

