-- ==== Sys2Proof/Laws/State.lean ====
section
/-! SUPPORT. One lemma per field per update: what the named updates of the state, of the logical core in focus and of its
context leave in each field. -/

namespace Sys2Proof.Machine


/-! ### State.setCore -/

@[simp] theorem State.setCore_peers (s : State) (c : LCore) : (s.setCore c).peers = s.peers := rfl
@[simp] theorem State.setCore_disp (s : State) (c : LCore) : (s.setCore c).disp = s.disp := rfl
@[simp] theorem State.setCore_dies (s : State) (c : LCore) : (s.setCore c).dies = s.dies := rfl
@[simp] theorem State.setCore_cdies (s : State) (c : LCore) : (s.setCore c).cdies = s.cdies := rfl
@[simp] theorem State.setCore_unc (s : State) (c : LCore) : (s.setCore c).unc = s.unc := rfl
@[simp] theorem State.setCore_pkg (s : State) (c : LCore) : (s.setCore c).pkg = s.pkg := rfl
@[simp] theorem State.setCore_agenda (s : State) (c : LCore) : (s.setCore c).agenda = s.agenda := rfl
@[simp] theorem State.setCore_stalled (s : State) (c : LCore) : (s.setCore c).stalled = s.stalled := rfl
@[simp] theorem State.setCore_cycle (s : State) (c : LCore) : (s.setCore c).cycle = s.cycle := rfl
@[simp] theorem State.setCore_timeUs (s : State) (c : LCore) : (s.setCore c).timeUs = s.timeUs := rfl
@[simp] theorem State.setCore_tick (s : State) (c : LCore) : (s.setCore c).tick = s.tick := rfl
@[simp] theorem State.setCore_core (s : State) (c : LCore) : (s.setCore c).core = c := rfl

/-! ### State.setCtx -/

@[simp] theorem State.setCtx_peers (s : State) (c : Ctx) : (s.setCtx c).peers = s.peers := rfl
@[simp] theorem State.setCtx_disp (s : State) (c : Ctx) : (s.setCtx c).disp = s.disp := rfl
@[simp] theorem State.setCtx_dies (s : State) (c : Ctx) : (s.setCtx c).dies = s.dies := rfl
@[simp] theorem State.setCtx_cdies (s : State) (c : Ctx) : (s.setCtx c).cdies = s.cdies := rfl
@[simp] theorem State.setCtx_unc (s : State) (c : Ctx) : (s.setCtx c).unc = s.unc := rfl
@[simp] theorem State.setCtx_pkg (s : State) (c : Ctx) : (s.setCtx c).pkg = s.pkg := rfl
@[simp] theorem State.setCtx_agenda (s : State) (c : Ctx) : (s.setCtx c).agenda = s.agenda := rfl
@[simp] theorem State.setCtx_stalled (s : State) (c : Ctx) : (s.setCtx c).stalled = s.stalled := rfl
@[simp] theorem State.setCtx_cycle (s : State) (c : Ctx) : (s.setCtx c).cycle = s.cycle := rfl
@[simp] theorem State.setCtx_timeUs (s : State) (c : Ctx) : (s.setCtx c).timeUs = s.timeUs := rfl
@[simp] theorem State.setCtx_tick (s : State) (c : Ctx) : (s.setCtx c).tick = s.tick := rfl
@[simp] theorem State.setCtx_core_id (s : State) (c : Ctx) : (s.setCtx c).core.id = s.core.id := rfl
@[simp] theorem State.setCtx_core_slot (s : State) (c : Ctx) : (s.setCtx c).core.slot = s.core.slot := rfl
@[simp] theorem State.setCtx_core_resident (s : State) (c : Ctx) : (s.setCtx c).core.resident = s.core.resident := rfl
@[simp] theorem State.setCtx_core_position (s : State) (c : Ctx) : (s.setCtx c).core.position = s.core.position := rfl
@[simp] theorem State.setCtx_core_regs (s : State) (c : Ctx) : (s.setCtx c).core.regs = s.core.regs := rfl
@[simp] theorem State.setCtx_core_others (s : State) (c : Ctx) : (s.setCtx c).core.others = s.core.others := rfl
@[simp] theorem State.setCtx_core_last (s : State) (c : Ctx) : (s.setCtx c).core.last = s.core.last := rfl
@[simp] theorem State.setCtx_core_fused (s : State) (c : Ctx) : (s.setCtx c).core.fused = s.core.fused := rfl
@[simp] theorem State.setCtx_core_fuseAt (s : State) (c : Ctx) : (s.setCtx c).core.fuseAt = s.core.fuseAt := rfl
@[simp] theorem State.setCtx_core_xbound (s : State) (c : Ctx) : (s.setCtx c).core.xbound = s.core.xbound := rfl
@[simp] theorem State.setCtx_core_xbTake (s : State) (c : Ctx) : (s.setCtx c).core.xbTake = s.core.xbTake := rfl
@[simp] theorem State.setCtx_core_raise (s : State) (c : Ctx) : (s.setCtx c).core.raise = s.core.raise := rfl
@[simp] theorem State.setCtx_core_archmap (s : State) (c : Ctx) : (s.setCtx c).core.archmap = s.core.archmap := rfl
@[simp] theorem State.setCtx_core_shadown (s : State) (c : Ctx) : (s.setCtx c).core.shadown = s.core.shadown := rfl
@[simp] theorem State.setCtx_core_lm (s : State) (c : Ctx) : (s.setCtx c).core.lm = s.core.lm := rfl
@[simp] theorem State.setCtx_core_lmFlips (s : State) (c : Ctx) : (s.setCtx c).core.lmFlips = s.core.lmFlips := rfl
@[simp] theorem State.setCtx_core_rings (s : State) (c : Ctx) : (s.setCtx c).core.rings = s.core.rings := rfl
@[simp] theorem State.setCtx_core_mail (s : State) (c : Ctx) : (s.setCtx c).core.mail = s.core.mail := rfl
@[simp] theorem State.setCtx_core_slots (s : State) (c : Ctx) : (s.setCtx c).core.slots = s.core.slots := rfl
@[simp] theorem State.setCtx_core_mx (s : State) (c : Ctx) : (s.setCtx c).core.mx = s.core.mx := rfl
@[simp] theorem State.setCtx_core_copies (s : State) (c : Ctx) : (s.setCtx c).core.copies = s.core.copies := rfl
@[simp] theorem State.setCtx_core_coll (s : State) (c : Ctx) : (s.setCtx c).core.coll = s.core.coll := rfl
@[simp] theorem State.setCtx_core_snapChan (s : State) (c : Ctx) : (s.setCtx c).core.snapChan = s.core.snapChan := rfl
@[simp] theorem State.setCtx_core_retry (s : State) (c : Ctx) : (s.setCtx c).core.retry = s.core.retry := rfl
@[simp] theorem State.setCtx_core_arrivedChans (s : State) (c : Ctx) : (s.setCtx c).core.arrivedChans = s.core.arrivedChans := rfl
@[simp] theorem State.setCtx_core_sinceCapture (s : State) (c : Ctx) : (s.setCtx c).core.sinceCapture = s.core.sinceCapture := rfl
@[simp] theorem State.setCtx_core_blockDirty (s : State) (c : Ctx) : (s.setCtx c).core.blockDirty = s.core.blockDirty := rfl
@[simp] theorem State.setCtx_core_imageArea (s : State) (c : Ctx) : (s.setCtx c).core.imageArea = s.core.imageArea := rfl
@[simp] theorem State.setCtx_core_lmAt (s : State) (c : Ctx) : (s.setCtx c).core.lmAt = s.core.lmAt := rfl
@[simp] theorem State.setCtx_core_rollbackDue (s : State) (c : Ctx) : (s.setCtx c).core.rollbackDue = s.core.rollbackDue := rfl
@[simp] theorem State.setCtx_core_rollbackBy (s : State) (c : Ctx) : (s.setCtx c).core.rollbackBy = s.core.rollbackBy := rfl
@[simp] theorem State.setCtx_core_copySeq (s : State) (c : Ctx) : (s.setCtx c).core.copySeq = s.core.copySeq := rfl
@[simp] theorem State.setCtx_core_sendSeq (s : State) (c : Ctx) : (s.setCtx c).core.sendSeq = s.core.sendSeq := rfl
@[simp] theorem State.setCtx_core_stopped (s : State) (c : Ctx) : (s.setCtx c).core.stopped = s.core.stopped := rfl
@[simp] theorem State.setCtx_core_mailWaits (s : State) (c : Ctx) : (s.setCtx c).core.mailWaits = s.core.mailWaits := rfl
@[simp] theorem State.setCtx_core_since (s : State) (c : Ctx) : (s.setCtx c).core.since = s.core.since := rfl
@[simp] theorem State.setCtx_core_switchDue (s : State) (c : Ctx) : (s.setCtx c).core.switchDue = s.core.switchDue := rfl
@[simp] theorem State.setCtx_core_ctx (s : State) (c : Ctx) : (s.setCtx c).core.ctx = c := rfl
@[simp] theorem State.setCtx_ctx (s : State) (c : Ctx) : (s.setCtx c).ctx = c := rfl

/-! ### State.finish -/

@[simp] theorem State.finish_peers (s : State) (f : Exit) : (s.finish f).peers = s.peers := rfl
@[simp] theorem State.finish_disp (s : State) (f : Exit) : (s.finish f).disp = s.disp := rfl
@[simp] theorem State.finish_dies (s : State) (f : Exit) : (s.finish f).dies = s.dies := rfl
@[simp] theorem State.finish_cdies (s : State) (f : Exit) : (s.finish f).cdies = s.cdies := rfl
@[simp] theorem State.finish_unc (s : State) (f : Exit) : (s.finish f).unc = s.unc := rfl
@[simp] theorem State.finish_pkg (s : State) (f : Exit) : (s.finish f).pkg = s.pkg := rfl
@[simp] theorem State.finish_agenda (s : State) (f : Exit) : (s.finish f).agenda = s.agenda := rfl
@[simp] theorem State.finish_stalled (s : State) (f : Exit) : (s.finish f).stalled = false := rfl
@[simp] theorem State.finish_cycle (s : State) (f : Exit) : (s.finish f).cycle = s.cycle := rfl
@[simp] theorem State.finish_timeUs (s : State) (f : Exit) : (s.finish f).timeUs = s.timeUs := rfl
@[simp] theorem State.finish_tick (s : State) (f : Exit) : (s.finish f).tick = s.tick := rfl
@[simp] theorem State.finish_core_id (s : State) (f : Exit) : (s.finish f).core.id = s.core.id := rfl
@[simp] theorem State.finish_core_slot (s : State) (f : Exit) : (s.finish f).core.slot = s.core.slot := rfl
@[simp] theorem State.finish_core_resident (s : State) (f : Exit) : (s.finish f).core.resident = s.core.resident := rfl
@[simp] theorem State.finish_core_position (s : State) (f : Exit) : (s.finish f).core.position = s.core.position := rfl
@[simp] theorem State.finish_core_regs (s : State) (f : Exit) : (s.finish f).core.regs = s.core.regs := rfl
@[simp] theorem State.finish_core_others (s : State) (f : Exit) : (s.finish f).core.others = s.core.others := rfl
@[simp] theorem State.finish_core_fused (s : State) (f : Exit) : (s.finish f).core.fused = s.core.fused := rfl
@[simp] theorem State.finish_core_fuseAt (s : State) (f : Exit) : (s.finish f).core.fuseAt = s.core.fuseAt := rfl
@[simp] theorem State.finish_core_xbound (s : State) (f : Exit) : (s.finish f).core.xbound = s.core.xbound := rfl
@[simp] theorem State.finish_core_xbTake (s : State) (f : Exit) : (s.finish f).core.xbTake = s.core.xbTake := rfl
@[simp] theorem State.finish_core_raise (s : State) (f : Exit) : (s.finish f).core.raise = s.core.raise := rfl
@[simp] theorem State.finish_core_archmap (s : State) (f : Exit) : (s.finish f).core.archmap = s.core.archmap := rfl
@[simp] theorem State.finish_core_shadown (s : State) (f : Exit) : (s.finish f).core.shadown = s.core.shadown := rfl
@[simp] theorem State.finish_core_lm (s : State) (f : Exit) : (s.finish f).core.lm = s.core.lm := rfl
@[simp] theorem State.finish_core_lmFlips (s : State) (f : Exit) : (s.finish f).core.lmFlips = s.core.lmFlips := rfl
@[simp] theorem State.finish_core_rings (s : State) (f : Exit) : (s.finish f).core.rings = s.core.rings := rfl
@[simp] theorem State.finish_core_mail (s : State) (f : Exit) : (s.finish f).core.mail = s.core.mail := rfl
@[simp] theorem State.finish_core_slots (s : State) (f : Exit) : (s.finish f).core.slots = s.core.slots := rfl
@[simp] theorem State.finish_core_mx (s : State) (f : Exit) : (s.finish f).core.mx = s.core.mx := rfl
@[simp] theorem State.finish_core_copies (s : State) (f : Exit) : (s.finish f).core.copies = s.core.copies := rfl
@[simp] theorem State.finish_core_coll (s : State) (f : Exit) : (s.finish f).core.coll = s.core.coll := rfl
@[simp] theorem State.finish_core_snapChan (s : State) (f : Exit) : (s.finish f).core.snapChan = s.core.snapChan := rfl
@[simp] theorem State.finish_core_retry (s : State) (f : Exit) : (s.finish f).core.retry = s.core.retry := rfl
@[simp] theorem State.finish_core_arrivedChans (s : State) (f : Exit) : (s.finish f).core.arrivedChans = s.core.arrivedChans := rfl
@[simp] theorem State.finish_core_sinceCapture (s : State) (f : Exit) : (s.finish f).core.sinceCapture = s.core.sinceCapture := rfl
@[simp] theorem State.finish_core_blockDirty (s : State) (f : Exit) : (s.finish f).core.blockDirty = s.core.blockDirty := rfl
@[simp] theorem State.finish_core_imageArea (s : State) (f : Exit) : (s.finish f).core.imageArea = s.core.imageArea := rfl
@[simp] theorem State.finish_core_lmAt (s : State) (f : Exit) : (s.finish f).core.lmAt = s.core.lmAt := rfl
@[simp] theorem State.finish_core_rollbackDue (s : State) (f : Exit) : (s.finish f).core.rollbackDue = s.core.rollbackDue := rfl
@[simp] theorem State.finish_core_rollbackBy (s : State) (f : Exit) : (s.finish f).core.rollbackBy = s.core.rollbackBy := rfl
@[simp] theorem State.finish_core_copySeq (s : State) (f : Exit) : (s.finish f).core.copySeq = s.core.copySeq := rfl
@[simp] theorem State.finish_core_sendSeq (s : State) (f : Exit) : (s.finish f).core.sendSeq = s.core.sendSeq := rfl
@[simp] theorem State.finish_core_stopped (s : State) (f : Exit) : (s.finish f).core.stopped = s.core.stopped := rfl
@[simp] theorem State.finish_core_mailWaits (s : State) (f : Exit) : (s.finish f).core.mailWaits = s.core.mailWaits := rfl
@[simp] theorem State.finish_core_since (s : State) (f : Exit) : (s.finish f).core.since = s.core.since := rfl
@[simp] theorem State.finish_core_switchDue (s : State) (f : Exit) : (s.finish f).core.switchDue = s.core.switchDue := rfl
@[simp] theorem State.finish_last (s : State) (f : Exit) : (s.finish f).core.last = s.ctx.num := rfl
@[simp] theorem State.finish_ctx (s : State) (f : Exit) : (s.finish f).ctx = s.ctx.advance f := rfl

/-! ### State.retreat -/

@[simp] theorem State.retreat_peers (s : State) : s.retreat.peers = s.peers := rfl
@[simp] theorem State.retreat_disp (s : State) : s.retreat.disp = s.disp := rfl
@[simp] theorem State.retreat_dies (s : State) : s.retreat.dies = s.dies := rfl
@[simp] theorem State.retreat_cdies (s : State) : s.retreat.cdies = s.cdies := rfl
@[simp] theorem State.retreat_unc (s : State) : s.retreat.unc = s.unc := rfl
@[simp] theorem State.retreat_pkg (s : State) : s.retreat.pkg = s.pkg := rfl
@[simp] theorem State.retreat_agenda (s : State) : s.retreat.agenda = s.agenda := rfl
@[simp] theorem State.retreat_stalled (s : State) : s.retreat.stalled = false := rfl
@[simp] theorem State.retreat_cycle (s : State) : s.retreat.cycle = s.cycle := rfl
@[simp] theorem State.retreat_timeUs (s : State) : s.retreat.timeUs = s.timeUs := rfl
@[simp] theorem State.retreat_tick (s : State) : s.retreat.tick = s.tick := rfl
@[simp] theorem State.retreat_core_id (s : State) : s.retreat.core.id = s.core.id := rfl
@[simp] theorem State.retreat_core_slot (s : State) : s.retreat.core.slot = s.core.slot := rfl
@[simp] theorem State.retreat_core_resident (s : State) : s.retreat.core.resident = s.core.resident := rfl
@[simp] theorem State.retreat_core_position (s : State) : s.retreat.core.position = s.core.position := rfl
@[simp] theorem State.retreat_core_regs (s : State) : s.retreat.core.regs = s.core.regs := rfl
@[simp] theorem State.retreat_core_others (s : State) : s.retreat.core.others = s.core.others := rfl
@[simp] theorem State.retreat_core_last (s : State) : s.retreat.core.last = s.core.last := rfl
@[simp] theorem State.retreat_core_fused (s : State) : s.retreat.core.fused = s.core.fused := rfl
@[simp] theorem State.retreat_core_fuseAt (s : State) : s.retreat.core.fuseAt = s.core.fuseAt := rfl
@[simp] theorem State.retreat_core_xbound (s : State) : s.retreat.core.xbound = s.core.xbound := rfl
@[simp] theorem State.retreat_core_xbTake (s : State) : s.retreat.core.xbTake = s.core.xbTake := rfl
@[simp] theorem State.retreat_core_raise (s : State) : s.retreat.core.raise = s.core.raise := rfl
@[simp] theorem State.retreat_core_archmap (s : State) : s.retreat.core.archmap = s.core.archmap := rfl
@[simp] theorem State.retreat_core_shadown (s : State) : s.retreat.core.shadown = s.core.shadown := rfl
@[simp] theorem State.retreat_core_lm (s : State) : s.retreat.core.lm = s.core.lm := rfl
@[simp] theorem State.retreat_core_lmFlips (s : State) : s.retreat.core.lmFlips = s.core.lmFlips := rfl
@[simp] theorem State.retreat_core_rings (s : State) : s.retreat.core.rings = s.core.rings := rfl
@[simp] theorem State.retreat_core_mail (s : State) : s.retreat.core.mail = s.core.mail := rfl
@[simp] theorem State.retreat_core_slots (s : State) : s.retreat.core.slots = s.core.slots := rfl
@[simp] theorem State.retreat_core_mx (s : State) : s.retreat.core.mx = s.core.mx := rfl
@[simp] theorem State.retreat_core_copies (s : State) : s.retreat.core.copies = s.core.copies := rfl
@[simp] theorem State.retreat_core_coll (s : State) : s.retreat.core.coll = s.core.coll := rfl
@[simp] theorem State.retreat_core_snapChan (s : State) : s.retreat.core.snapChan = s.core.snapChan := rfl
@[simp] theorem State.retreat_core_retry (s : State) : s.retreat.core.retry = s.core.retry := rfl
@[simp] theorem State.retreat_core_arrivedChans (s : State) : s.retreat.core.arrivedChans = s.core.arrivedChans := rfl
@[simp] theorem State.retreat_core_sinceCapture (s : State) : s.retreat.core.sinceCapture = s.core.sinceCapture := rfl
@[simp] theorem State.retreat_core_blockDirty (s : State) : s.retreat.core.blockDirty = s.core.blockDirty := rfl
@[simp] theorem State.retreat_core_imageArea (s : State) : s.retreat.core.imageArea = s.core.imageArea := rfl
@[simp] theorem State.retreat_core_lmAt (s : State) : s.retreat.core.lmAt = s.core.lmAt := rfl
@[simp] theorem State.retreat_core_rollbackDue (s : State) : s.retreat.core.rollbackDue = s.core.rollbackDue := rfl
@[simp] theorem State.retreat_core_rollbackBy (s : State) : s.retreat.core.rollbackBy = s.core.rollbackBy := rfl
@[simp] theorem State.retreat_core_copySeq (s : State) : s.retreat.core.copySeq = s.core.copySeq := rfl
@[simp] theorem State.retreat_core_sendSeq (s : State) : s.retreat.core.sendSeq = s.core.sendSeq := rfl
@[simp] theorem State.retreat_core_stopped (s : State) : s.retreat.core.stopped = s.core.stopped := rfl
@[simp] theorem State.retreat_core_mailWaits (s : State) : s.retreat.core.mailWaits = s.core.mailWaits := rfl
@[simp] theorem State.retreat_core_since (s : State) : s.retreat.core.since = s.core.since := rfl
@[simp] theorem State.retreat_core_switchDue (s : State) : s.retreat.core.switchDue = s.core.switchDue := rfl

/-! ### Ctx.advance -/

@[simp] theorem Ctx.advance_num (c : Ctx) (f : Exit) : (c.advance f).num = c.num := by
  unfold Ctx.advance; split <;> rfl
@[simp] theorem Ctx.advance_live (c : Ctx) (f : Exit) : (c.advance f).live = c.live := by
  unfold Ctx.advance; split <;> rfl
@[simp] theorem Ctx.advance_pfx (c : Ctx) (f : Exit) : (c.advance f).pfx = none := by
  unfold Ctx.advance; split <;> rfl
@[simp] theorem Ctx.advance_level (c : Ctx) (f : Exit) : (c.advance f).level = c.level := by
  unfold Ctx.advance; split <;> rfl
@[simp] theorem Ctx.advance_revn (c : Ctx) (f : Exit) : (c.advance f).revn = c.revn := by
  unfold Ctx.advance; split <;> rfl
@[simp] theorem Ctx.advance_ar (c : Ctx) (f : Exit) : (c.advance f).ar = c.ar := by
  unfold Ctx.advance; split <;> rfl
@[simp] theorem Ctx.advance_ovlActive (c : Ctx) (f : Exit) : (c.advance f).ovlActive = c.ovlActive := by
  unfold Ctx.advance; split <;> rfl
@[simp] theorem Ctx.advance_g (c : Ctx) (f : Exit) : (c.advance f).g = c.g := by
  unfold Ctx.advance; split <;> rfl
@[simp] theorem Ctx.advance_v (c : Ctx) (f : Exit) : (c.advance f).v = c.v := by
  unfold Ctx.advance; split <;> rfl
@[simp] theorem Ctx.advance_k (c : Ctx) (f : Exit) : (c.advance f).k = c.k := by
  unfold Ctx.advance; split <;> rfl
@[simp] theorem Ctx.advance_pendG (c : Ctx) (f : Exit) : (c.advance f).pendG = c.pendG := by
  unfold Ctx.advance; split <;> rfl
@[simp] theorem Ctx.advance_pendV (c : Ctx) (f : Exit) : (c.advance f).pendV = c.pendV := by
  unfold Ctx.advance; split <;> rfl
@[simp] theorem Ctx.advance_sys (c : Ctx) (f : Exit) : (c.advance f).sys = c.sys := by
  unfold Ctx.advance; split <;> rfl
@[simp] theorem Ctx.advance_evInfo (c : Ctx) (f : Exit) : (c.advance f).evInfo = c.evInfo := by
  unfold Ctx.advance; split <;> rfl
@[simp] theorem Ctx.advance_wait (c : Ctx) (f : Exit) : (c.advance f).wait = c.wait := by
  unfold Ctx.advance; split <;> rfl
@[simp] theorem Ctx.advance_hostGot (c : Ctx) (f : Exit) : (c.advance f).hostGot = [] := by
  unfold Ctx.advance; split <;> rfl
@[simp] theorem Ctx.advance_farGot (c : Ctx) (f : Exit) : (c.advance f).farGot = none := by
  unfold Ctx.advance; split <;> rfl
@[simp] theorem Ctx.advance_refused (c : Ctx) (f : Exit) : (c.advance f).refused = none := by
  unfold Ctx.advance; split <;> rfl
@[simp] theorem Ctx.advance_remoteBad (c : Ctx) (f : Exit) : (c.advance f).remoteBad = none := by
  unfold Ctx.advance; split <;> rfl
@[simp] theorem Ctx.advance_progress (c : Ctx) (f : Exit) : (c.advance f).progress = none := by
  unfold Ctx.advance; split <;> rfl
@[simp] theorem Ctx.advance_ringRec (c : Ctx) (f : Exit) : (c.advance f).ringRec = none := by
  unfold Ctx.advance; split <;> rfl
@[simp] theorem Ctx.advance_arriving (c : Ctx) (f : Exit) : (c.advance f).arriving = c.arriving := by
  unfold Ctx.advance; split <;> rfl
@[simp] theorem Ctx.advance_stopReq (c : Ctx) (f : Exit) : (c.advance f).stopReq = c.stopReq := by
  unfold Ctx.advance; split <;> rfl
@[simp] theorem Ctx.advance_reports (c : Ctx) (f : Exit) : (c.advance f).reports = c.reports := by
  unfold Ctx.advance; split <;> rfl
@[simp] theorem Ctx.advance_twinSeq (c : Ctx) (f : Exit) : (c.advance f).twinSeq = c.twinSeq := by
  unfold Ctx.advance; split <;> rfl
@[simp] theorem Ctx.advance_twinMsg (c : Ctx) (f : Exit) : (c.advance f).twinMsg = none := by
  unfold Ctx.advance; split <;> rfl
@[simp] theorem Ctx.advance_sfuOut (c : Ctx) (f : Exit) : (c.advance f).sfuOut = c.sfuOut := by
  unfold Ctx.advance; split <;> rfl
@[simp] theorem Ctx.advance_unit (c : Ctx) (f : Exit) : (c.advance f).unit = c.unit := by
  unfold Ctx.advance; split <;> rfl
@[simp] theorem Ctx.advance_digest (c : Ctx) (f : Exit) : (c.advance f).digest = c.digest := by
  unfold Ctx.advance; split <;> rfl
@[simp] theorem Ctx.advance_dirty (c : Ctx) (f : Exit) : (c.advance f).dirty = c.dirty := by
  unfold Ctx.advance; split <;> rfl
@[simp] theorem Ctx.advance_next_pc (c : Ctx) : (c.advance .next).pc = c.pc + 4 := rfl
@[simp] theorem Ctx.advance_jump_pc (c : Ctx) (t : BitVec 21) : (c.advance (.jump t)).pc = t := rfl
@[simp] theorem Ctx.advance_branch_pc (c : Ctx) (b : Bool) (t : BitVec 21) :
    (c.advance (.branch b t)).pc = if b then t else c.pc + 4 := by cases b <;> rfl

/-! ### Ctx.setG -/

@[simp] theorem Ctx.setG_num (c : Ctx) (n : Nat) (v : Word) : (c.setG n v).num = c.num := by
  unfold Ctx.setG; split <;> (try split) <;> rfl
@[simp] theorem Ctx.setG_live (c : Ctx) (n : Nat) (v : Word) : (c.setG n v).live = c.live := by
  unfold Ctx.setG; split <;> (try split) <;> rfl
@[simp] theorem Ctx.setG_pc (c : Ctx) (n : Nat) (v : Word) : (c.setG n v).pc = c.pc := by
  unfold Ctx.setG; split <;> (try split) <;> rfl
@[simp] theorem Ctx.setG_pfx (c : Ctx) (n : Nat) (v : Word) : (c.setG n v).pfx = c.pfx := by
  unfold Ctx.setG; split <;> (try split) <;> rfl
@[simp] theorem Ctx.setG_level (c : Ctx) (n : Nat) (v : Word) : (c.setG n v).level = c.level := by
  unfold Ctx.setG; split <;> (try split) <;> rfl
@[simp] theorem Ctx.setG_revn (c : Ctx) (n : Nat) (v : Word) : (c.setG n v).revn = c.revn := by
  unfold Ctx.setG; split <;> (try split) <;> rfl
@[simp] theorem Ctx.setG_ar (c : Ctx) (n : Nat) (v : Word) : (c.setG n v).ar = c.ar := by
  unfold Ctx.setG; split <;> (try split) <;> rfl
@[simp] theorem Ctx.setG_byp (c : Ctx) (n : Nat) (v : Word) : (c.setG n v).byp = c.byp := by
  unfold Ctx.setG; split <;> (try split) <;> rfl
@[simp] theorem Ctx.setG_ovlActive (c : Ctx) (n : Nat) (v : Word) : (c.setG n v).ovlActive = c.ovlActive := by
  unfold Ctx.setG; split <;> (try split) <;> rfl
@[simp] theorem Ctx.setG_v (c : Ctx) (n : Nat) (v : Word) : (c.setG n v).v = c.v := by
  unfold Ctx.setG; split <;> (try split) <;> rfl
@[simp] theorem Ctx.setG_k (c : Ctx) (n : Nat) (v : Word) : (c.setG n v).k = c.k := by
  unfold Ctx.setG; split <;> (try split) <;> rfl
@[simp] theorem Ctx.setG_pendG (c : Ctx) (n : Nat) (v : Word) : (c.setG n v).pendG = c.pendG := by
  unfold Ctx.setG; split <;> (try split) <;> rfl
@[simp] theorem Ctx.setG_pendV (c : Ctx) (n : Nat) (v : Word) : (c.setG n v).pendV = c.pendV := by
  unfold Ctx.setG; split <;> (try split) <;> rfl
@[simp] theorem Ctx.setG_sys (c : Ctx) (n : Nat) (v : Word) : (c.setG n v).sys = c.sys := by
  unfold Ctx.setG; split <;> (try split) <;> rfl
@[simp] theorem Ctx.setG_evInfo (c : Ctx) (n : Nat) (v : Word) : (c.setG n v).evInfo = c.evInfo := by
  unfold Ctx.setG; split <;> (try split) <;> rfl
@[simp] theorem Ctx.setG_wait (c : Ctx) (n : Nat) (v : Word) : (c.setG n v).wait = c.wait := by
  unfold Ctx.setG; split <;> (try split) <;> rfl
@[simp] theorem Ctx.setG_hostGot (c : Ctx) (n : Nat) (v : Word) : (c.setG n v).hostGot = c.hostGot := by
  unfold Ctx.setG; split <;> (try split) <;> rfl
@[simp] theorem Ctx.setG_farGot (c : Ctx) (n : Nat) (v : Word) : (c.setG n v).farGot = c.farGot := by
  unfold Ctx.setG; split <;> (try split) <;> rfl
@[simp] theorem Ctx.setG_refused (c : Ctx) (n : Nat) (v : Word) : (c.setG n v).refused = c.refused := by
  unfold Ctx.setG; split <;> (try split) <;> rfl
@[simp] theorem Ctx.setG_remoteBad (c : Ctx) (n : Nat) (v : Word) : (c.setG n v).remoteBad = c.remoteBad := by
  unfold Ctx.setG; split <;> (try split) <;> rfl
@[simp] theorem Ctx.setG_progress (c : Ctx) (n : Nat) (v : Word) : (c.setG n v).progress = c.progress := by
  unfold Ctx.setG; split <;> (try split) <;> rfl
@[simp] theorem Ctx.setG_ringRec (c : Ctx) (n : Nat) (v : Word) : (c.setG n v).ringRec = c.ringRec := by
  unfold Ctx.setG; split <;> (try split) <;> rfl
@[simp] theorem Ctx.setG_arriving (c : Ctx) (n : Nat) (v : Word) : (c.setG n v).arriving = c.arriving := by
  unfold Ctx.setG; split <;> (try split) <;> rfl
@[simp] theorem Ctx.setG_stopReq (c : Ctx) (n : Nat) (v : Word) : (c.setG n v).stopReq = c.stopReq := by
  unfold Ctx.setG; split <;> (try split) <;> rfl
@[simp] theorem Ctx.setG_reports (c : Ctx) (n : Nat) (v : Word) : (c.setG n v).reports = c.reports := by
  unfold Ctx.setG; split <;> (try split) <;> rfl
@[simp] theorem Ctx.setG_twinSeq (c : Ctx) (n : Nat) (v : Word) : (c.setG n v).twinSeq = c.twinSeq := by
  unfold Ctx.setG; split <;> (try split) <;> rfl
@[simp] theorem Ctx.setG_twinMsg (c : Ctx) (n : Nat) (v : Word) : (c.setG n v).twinMsg = c.twinMsg := by
  unfold Ctx.setG; split <;> (try split) <;> rfl
@[simp] theorem Ctx.setG_sfuOut (c : Ctx) (n : Nat) (v : Word) : (c.setG n v).sfuOut = c.sfuOut := by
  unfold Ctx.setG; split <;> (try split) <;> rfl
@[simp] theorem Ctx.setG_unit (c : Ctx) (n : Nat) (v : Word) : (c.setG n v).unit = c.unit := by
  unfold Ctx.setG; split <;> (try split) <;> rfl
@[simp] theorem Ctx.setG_digest (c : Ctx) (n : Nat) (v : Word) : (c.setG n v).digest = c.digest := by
  unfold Ctx.setG; split <;> (try split) <;> rfl

/-! ### Ctx.setV -/

@[simp] theorem Ctx.setV_num (c : Ctx) (n : Nat) (v : VWord) : (c.setV n v).num = c.num := by
  unfold Ctx.setV; split <;> rfl
@[simp] theorem Ctx.setV_live (c : Ctx) (n : Nat) (v : VWord) : (c.setV n v).live = c.live := by
  unfold Ctx.setV; split <;> rfl
@[simp] theorem Ctx.setV_pc (c : Ctx) (n : Nat) (v : VWord) : (c.setV n v).pc = c.pc := by
  unfold Ctx.setV; split <;> rfl
@[simp] theorem Ctx.setV_pfx (c : Ctx) (n : Nat) (v : VWord) : (c.setV n v).pfx = c.pfx := by
  unfold Ctx.setV; split <;> rfl
@[simp] theorem Ctx.setV_level (c : Ctx) (n : Nat) (v : VWord) : (c.setV n v).level = c.level := by
  unfold Ctx.setV; split <;> rfl
@[simp] theorem Ctx.setV_revn (c : Ctx) (n : Nat) (v : VWord) : (c.setV n v).revn = c.revn := by
  unfold Ctx.setV; split <;> rfl
@[simp] theorem Ctx.setV_ar (c : Ctx) (n : Nat) (v : VWord) : (c.setV n v).ar = c.ar := by
  unfold Ctx.setV; split <;> rfl
@[simp] theorem Ctx.setV_byp (c : Ctx) (n : Nat) (v : VWord) : (c.setV n v).byp = c.byp := by
  unfold Ctx.setV; split <;> rfl
@[simp] theorem Ctx.setV_ovlActive (c : Ctx) (n : Nat) (v : VWord) : (c.setV n v).ovlActive = c.ovlActive := by
  unfold Ctx.setV; split <;> rfl
@[simp] theorem Ctx.setV_g (c : Ctx) (n : Nat) (v : VWord) : (c.setV n v).g = c.g := by
  unfold Ctx.setV; split <;> rfl
@[simp] theorem Ctx.setV_k (c : Ctx) (n : Nat) (v : VWord) : (c.setV n v).k = c.k := by
  unfold Ctx.setV; split <;> rfl
@[simp] theorem Ctx.setV_pendG (c : Ctx) (n : Nat) (v : VWord) : (c.setV n v).pendG = c.pendG := by
  unfold Ctx.setV; split <;> rfl
@[simp] theorem Ctx.setV_pendV (c : Ctx) (n : Nat) (v : VWord) : (c.setV n v).pendV = c.pendV := by
  unfold Ctx.setV; split <;> rfl
@[simp] theorem Ctx.setV_sys (c : Ctx) (n : Nat) (v : VWord) : (c.setV n v).sys = c.sys := by
  unfold Ctx.setV; split <;> rfl
@[simp] theorem Ctx.setV_evInfo (c : Ctx) (n : Nat) (v : VWord) : (c.setV n v).evInfo = c.evInfo := by
  unfold Ctx.setV; split <;> rfl
@[simp] theorem Ctx.setV_wait (c : Ctx) (n : Nat) (v : VWord) : (c.setV n v).wait = c.wait := by
  unfold Ctx.setV; split <;> rfl
@[simp] theorem Ctx.setV_hostGot (c : Ctx) (n : Nat) (v : VWord) : (c.setV n v).hostGot = c.hostGot := by
  unfold Ctx.setV; split <;> rfl
@[simp] theorem Ctx.setV_farGot (c : Ctx) (n : Nat) (v : VWord) : (c.setV n v).farGot = c.farGot := by
  unfold Ctx.setV; split <;> rfl
@[simp] theorem Ctx.setV_refused (c : Ctx) (n : Nat) (v : VWord) : (c.setV n v).refused = c.refused := by
  unfold Ctx.setV; split <;> rfl
@[simp] theorem Ctx.setV_remoteBad (c : Ctx) (n : Nat) (v : VWord) : (c.setV n v).remoteBad = c.remoteBad := by
  unfold Ctx.setV; split <;> rfl
@[simp] theorem Ctx.setV_progress (c : Ctx) (n : Nat) (v : VWord) : (c.setV n v).progress = c.progress := by
  unfold Ctx.setV; split <;> rfl
@[simp] theorem Ctx.setV_ringRec (c : Ctx) (n : Nat) (v : VWord) : (c.setV n v).ringRec = c.ringRec := by
  unfold Ctx.setV; split <;> rfl
@[simp] theorem Ctx.setV_arriving (c : Ctx) (n : Nat) (v : VWord) : (c.setV n v).arriving = c.arriving := by
  unfold Ctx.setV; split <;> rfl
@[simp] theorem Ctx.setV_stopReq (c : Ctx) (n : Nat) (v : VWord) : (c.setV n v).stopReq = c.stopReq := by
  unfold Ctx.setV; split <;> rfl
@[simp] theorem Ctx.setV_reports (c : Ctx) (n : Nat) (v : VWord) : (c.setV n v).reports = c.reports := by
  unfold Ctx.setV; split <;> rfl
@[simp] theorem Ctx.setV_twinSeq (c : Ctx) (n : Nat) (v : VWord) : (c.setV n v).twinSeq = c.twinSeq := by
  unfold Ctx.setV; split <;> rfl
@[simp] theorem Ctx.setV_twinMsg (c : Ctx) (n : Nat) (v : VWord) : (c.setV n v).twinMsg = c.twinMsg := by
  unfold Ctx.setV; split <;> rfl
@[simp] theorem Ctx.setV_sfuOut (c : Ctx) (n : Nat) (v : VWord) : (c.setV n v).sfuOut = c.sfuOut := by
  unfold Ctx.setV; split <;> rfl
@[simp] theorem Ctx.setV_unit (c : Ctx) (n : Nat) (v : VWord) : (c.setV n v).unit = c.unit := by
  unfold Ctx.setV; split <;> rfl
@[simp] theorem Ctx.setV_digest (c : Ctx) (n : Nat) (v : VWord) : (c.setV n v).digest = c.digest := by
  unfold Ctx.setV; split <;> rfl

/-! ### Ctx.setK -/

@[simp] theorem Ctx.setK_num (c : Ctx) (n : Nat) (v : BitVec 32) : (c.setK n v).num = c.num := by
  unfold Ctx.setK; split <;> (try split) <;> rfl
@[simp] theorem Ctx.setK_live (c : Ctx) (n : Nat) (v : BitVec 32) : (c.setK n v).live = c.live := by
  unfold Ctx.setK; split <;> (try split) <;> rfl
@[simp] theorem Ctx.setK_pc (c : Ctx) (n : Nat) (v : BitVec 32) : (c.setK n v).pc = c.pc := by
  unfold Ctx.setK; split <;> (try split) <;> rfl
@[simp] theorem Ctx.setK_pfx (c : Ctx) (n : Nat) (v : BitVec 32) : (c.setK n v).pfx = c.pfx := by
  unfold Ctx.setK; split <;> (try split) <;> rfl
@[simp] theorem Ctx.setK_level (c : Ctx) (n : Nat) (v : BitVec 32) : (c.setK n v).level = c.level := by
  unfold Ctx.setK; split <;> (try split) <;> rfl
@[simp] theorem Ctx.setK_revn (c : Ctx) (n : Nat) (v : BitVec 32) : (c.setK n v).revn = c.revn := by
  unfold Ctx.setK; split <;> (try split) <;> rfl
@[simp] theorem Ctx.setK_ar (c : Ctx) (n : Nat) (v : BitVec 32) : (c.setK n v).ar = c.ar := by
  unfold Ctx.setK; split <;> (try split) <;> rfl
@[simp] theorem Ctx.setK_byp (c : Ctx) (n : Nat) (v : BitVec 32) : (c.setK n v).byp = c.byp := by
  unfold Ctx.setK; split <;> (try split) <;> rfl
@[simp] theorem Ctx.setK_ovlActive (c : Ctx) (n : Nat) (v : BitVec 32) : (c.setK n v).ovlActive = c.ovlActive := by
  unfold Ctx.setK; split <;> (try split) <;> rfl
@[simp] theorem Ctx.setK_g (c : Ctx) (n : Nat) (v : BitVec 32) : (c.setK n v).g = c.g := by
  unfold Ctx.setK; split <;> (try split) <;> rfl
@[simp] theorem Ctx.setK_v (c : Ctx) (n : Nat) (v : BitVec 32) : (c.setK n v).v = c.v := by
  unfold Ctx.setK; split <;> (try split) <;> rfl
@[simp] theorem Ctx.setK_pendG (c : Ctx) (n : Nat) (v : BitVec 32) : (c.setK n v).pendG = c.pendG := by
  unfold Ctx.setK; split <;> (try split) <;> rfl
@[simp] theorem Ctx.setK_pendV (c : Ctx) (n : Nat) (v : BitVec 32) : (c.setK n v).pendV = c.pendV := by
  unfold Ctx.setK; split <;> (try split) <;> rfl
@[simp] theorem Ctx.setK_sys (c : Ctx) (n : Nat) (v : BitVec 32) : (c.setK n v).sys = c.sys := by
  unfold Ctx.setK; split <;> (try split) <;> rfl
@[simp] theorem Ctx.setK_evInfo (c : Ctx) (n : Nat) (v : BitVec 32) : (c.setK n v).evInfo = c.evInfo := by
  unfold Ctx.setK; split <;> (try split) <;> rfl
@[simp] theorem Ctx.setK_wait (c : Ctx) (n : Nat) (v : BitVec 32) : (c.setK n v).wait = c.wait := by
  unfold Ctx.setK; split <;> (try split) <;> rfl
@[simp] theorem Ctx.setK_hostGot (c : Ctx) (n : Nat) (v : BitVec 32) : (c.setK n v).hostGot = c.hostGot := by
  unfold Ctx.setK; split <;> (try split) <;> rfl
@[simp] theorem Ctx.setK_farGot (c : Ctx) (n : Nat) (v : BitVec 32) : (c.setK n v).farGot = c.farGot := by
  unfold Ctx.setK; split <;> (try split) <;> rfl
@[simp] theorem Ctx.setK_refused (c : Ctx) (n : Nat) (v : BitVec 32) : (c.setK n v).refused = c.refused := by
  unfold Ctx.setK; split <;> (try split) <;> rfl
@[simp] theorem Ctx.setK_remoteBad (c : Ctx) (n : Nat) (v : BitVec 32) : (c.setK n v).remoteBad = c.remoteBad := by
  unfold Ctx.setK; split <;> (try split) <;> rfl
@[simp] theorem Ctx.setK_progress (c : Ctx) (n : Nat) (v : BitVec 32) : (c.setK n v).progress = c.progress := by
  unfold Ctx.setK; split <;> (try split) <;> rfl
@[simp] theorem Ctx.setK_ringRec (c : Ctx) (n : Nat) (v : BitVec 32) : (c.setK n v).ringRec = c.ringRec := by
  unfold Ctx.setK; split <;> (try split) <;> rfl
@[simp] theorem Ctx.setK_arriving (c : Ctx) (n : Nat) (v : BitVec 32) : (c.setK n v).arriving = c.arriving := by
  unfold Ctx.setK; split <;> (try split) <;> rfl
@[simp] theorem Ctx.setK_stopReq (c : Ctx) (n : Nat) (v : BitVec 32) : (c.setK n v).stopReq = c.stopReq := by
  unfold Ctx.setK; split <;> (try split) <;> rfl
@[simp] theorem Ctx.setK_reports (c : Ctx) (n : Nat) (v : BitVec 32) : (c.setK n v).reports = c.reports := by
  unfold Ctx.setK; split <;> (try split) <;> rfl
@[simp] theorem Ctx.setK_twinSeq (c : Ctx) (n : Nat) (v : BitVec 32) : (c.setK n v).twinSeq = c.twinSeq := by
  unfold Ctx.setK; split <;> (try split) <;> rfl
@[simp] theorem Ctx.setK_twinMsg (c : Ctx) (n : Nat) (v : BitVec 32) : (c.setK n v).twinMsg = c.twinMsg := by
  unfold Ctx.setK; split <;> (try split) <;> rfl
@[simp] theorem Ctx.setK_sfuOut (c : Ctx) (n : Nat) (v : BitVec 32) : (c.setK n v).sfuOut = c.sfuOut := by
  unfold Ctx.setK; split <;> (try split) <;> rfl
@[simp] theorem Ctx.setK_unit (c : Ctx) (n : Nat) (v : BitVec 32) : (c.setK n v).unit = c.unit := by
  unfold Ctx.setK; split <;> (try split) <;> rfl
@[simp] theorem Ctx.setK_digest (c : Ctx) (n : Nat) (v : BitVec 32) : (c.setK n v).digest = c.digest := by
  unfold Ctx.setK; split <;> (try split) <;> rfl

/-! ### State.mapDie -/

@[simp] theorem State.mapDie_core (s : State) (d : Nat) (f : DieState → DieState) : (s.mapDie d f).core = s.core := by
  unfold State.mapDie; split <;> rfl
@[simp] theorem State.mapDie_peers (s : State) (d : Nat) (f : DieState → DieState) : (s.mapDie d f).peers = s.peers := by
  unfold State.mapDie; split <;> rfl
@[simp] theorem State.mapDie_disp (s : State) (d : Nat) (f : DieState → DieState) : (s.mapDie d f).disp = s.disp := by
  unfold State.mapDie; split <;> rfl
@[simp] theorem State.mapDie_cdies (s : State) (d : Nat) (f : DieState → DieState) : (s.mapDie d f).cdies = s.cdies := by
  unfold State.mapDie; split <;> rfl
@[simp] theorem State.mapDie_unc (s : State) (d : Nat) (f : DieState → DieState) : (s.mapDie d f).unc = s.unc := by
  unfold State.mapDie; split <;> rfl
@[simp] theorem State.mapDie_pkg (s : State) (d : Nat) (f : DieState → DieState) : (s.mapDie d f).pkg = s.pkg := by
  unfold State.mapDie; split <;> rfl
@[simp] theorem State.mapDie_agenda (s : State) (d : Nat) (f : DieState → DieState) : (s.mapDie d f).agenda = s.agenda := by
  unfold State.mapDie; split <;> rfl
@[simp] theorem State.mapDie_stalled (s : State) (d : Nat) (f : DieState → DieState) : (s.mapDie d f).stalled = s.stalled := by
  unfold State.mapDie; split <;> rfl
@[simp] theorem State.mapDie_cycle (s : State) (d : Nat) (f : DieState → DieState) : (s.mapDie d f).cycle = s.cycle := by
  unfold State.mapDie; split <;> rfl
@[simp] theorem State.mapDie_timeUs (s : State) (d : Nat) (f : DieState → DieState) : (s.mapDie d f).timeUs = s.timeUs := by
  unfold State.mapDie; split <;> rfl
@[simp] theorem State.mapDie_tick (s : State) (d : Nat) (f : DieState → DieState) : (s.mapDie d f).tick = s.tick := by
  unfold State.mapDie; split <;> rfl

/-! ### State.mapQueue -/

@[simp] theorem State.mapQueue_core (s : State) (q : Nat) (f : Queue → Queue) : (s.mapQueue q f).core = s.core := by
  unfold State.mapQueue; split <;> rfl
@[simp] theorem State.mapQueue_peers (s : State) (q : Nat) (f : Queue → Queue) : (s.mapQueue q f).peers = s.peers := by
  unfold State.mapQueue; split <;> rfl
@[simp] theorem State.mapQueue_dies (s : State) (q : Nat) (f : Queue → Queue) : (s.mapQueue q f).dies = s.dies := by
  unfold State.mapQueue; split <;> rfl
@[simp] theorem State.mapQueue_cdies (s : State) (q : Nat) (f : Queue → Queue) : (s.mapQueue q f).cdies = s.cdies := by
  unfold State.mapQueue; split <;> rfl
@[simp] theorem State.mapQueue_unc (s : State) (q : Nat) (f : Queue → Queue) : (s.mapQueue q f).unc = s.unc := by
  unfold State.mapQueue; split <;> rfl
@[simp] theorem State.mapQueue_pkg (s : State) (q : Nat) (f : Queue → Queue) : (s.mapQueue q f).pkg = s.pkg := by
  unfold State.mapQueue; split <;> rfl
@[simp] theorem State.mapQueue_agenda (s : State) (q : Nat) (f : Queue → Queue) : (s.mapQueue q f).agenda = s.agenda := by
  unfold State.mapQueue; split <;> rfl
@[simp] theorem State.mapQueue_stalled (s : State) (q : Nat) (f : Queue → Queue) : (s.mapQueue q f).stalled = s.stalled := by
  unfold State.mapQueue; split <;> rfl
@[simp] theorem State.mapQueue_cycle (s : State) (q : Nat) (f : Queue → Queue) : (s.mapQueue q f).cycle = s.cycle := by
  unfold State.mapQueue; split <;> rfl
@[simp] theorem State.mapQueue_timeUs (s : State) (q : Nat) (f : Queue → Queue) : (s.mapQueue q f).timeUs = s.timeUs := by
  unfold State.mapQueue; split <;> rfl
@[simp] theorem State.mapQueue_tick (s : State) (q : Nat) (f : Queue → Queue) : (s.mapQueue q f).tick = s.tick := by
  unfold State.mapQueue; split <;> rfl

/-! ### State.mapChain -/

@[simp] theorem State.mapChain_core (s : State) (q : Nat) (f : Chain → Chain) : (s.mapChain q f).core = s.core := by
  unfold State.mapChain; split <;> rfl
@[simp] theorem State.mapChain_peers (s : State) (q : Nat) (f : Chain → Chain) : (s.mapChain q f).peers = s.peers := by
  unfold State.mapChain; split <;> rfl
@[simp] theorem State.mapChain_dies (s : State) (q : Nat) (f : Chain → Chain) : (s.mapChain q f).dies = s.dies := by
  unfold State.mapChain; split <;> rfl
@[simp] theorem State.mapChain_cdies (s : State) (q : Nat) (f : Chain → Chain) : (s.mapChain q f).cdies = s.cdies := by
  unfold State.mapChain; split <;> rfl
@[simp] theorem State.mapChain_unc (s : State) (q : Nat) (f : Chain → Chain) : (s.mapChain q f).unc = s.unc := by
  unfold State.mapChain; split <;> rfl
@[simp] theorem State.mapChain_pkg (s : State) (q : Nat) (f : Chain → Chain) : (s.mapChain q f).pkg = s.pkg := by
  unfold State.mapChain; split <;> rfl
@[simp] theorem State.mapChain_agenda (s : State) (q : Nat) (f : Chain → Chain) : (s.mapChain q f).agenda = s.agenda := by
  unfold State.mapChain; split <;> rfl
@[simp] theorem State.mapChain_stalled (s : State) (q : Nat) (f : Chain → Chain) : (s.mapChain q f).stalled = s.stalled := by
  unfold State.mapChain; split <;> rfl
@[simp] theorem State.mapChain_cycle (s : State) (q : Nat) (f : Chain → Chain) : (s.mapChain q f).cycle = s.cycle := by
  unfold State.mapChain; split <;> rfl
@[simp] theorem State.mapChain_timeUs (s : State) (q : Nat) (f : Chain → Chain) : (s.mapChain q f).timeUs = s.timeUs := by
  unfold State.mapChain; split <;> rfl
@[simp] theorem State.mapChain_tick (s : State) (q : Nat) (f : Chain → Chain) : (s.mapChain q f).tick = s.tick := by
  unfold State.mapChain; split <;> rfl

/-! ### State.mapTask -/

@[simp] theorem State.mapTask_core (s : State) (r : Word) (f : Task → Task) : (s.mapTask r f).core = s.core := rfl
@[simp] theorem State.mapTask_peers (s : State) (r : Word) (f : Task → Task) : (s.mapTask r f).peers = s.peers := rfl
@[simp] theorem State.mapTask_dies (s : State) (r : Word) (f : Task → Task) : (s.mapTask r f).dies = s.dies := rfl
@[simp] theorem State.mapTask_cdies (s : State) (r : Word) (f : Task → Task) : (s.mapTask r f).cdies = s.cdies := rfl
@[simp] theorem State.mapTask_unc (s : State) (r : Word) (f : Task → Task) : (s.mapTask r f).unc = s.unc := rfl
@[simp] theorem State.mapTask_pkg (s : State) (r : Word) (f : Task → Task) : (s.mapTask r f).pkg = s.pkg := rfl
@[simp] theorem State.mapTask_agenda (s : State) (r : Word) (f : Task → Task) : (s.mapTask r f).agenda = s.agenda := rfl
@[simp] theorem State.mapTask_stalled (s : State) (r : Word) (f : Task → Task) : (s.mapTask r f).stalled = s.stalled := rfl
@[simp] theorem State.mapTask_cycle (s : State) (r : Word) (f : Task → Task) : (s.mapTask r f).cycle = s.cycle := rfl
@[simp] theorem State.mapTask_timeUs (s : State) (r : Word) (f : Task → Task) : (s.mapTask r f).timeUs = s.timeUs := rfl
@[simp] theorem State.mapTask_tick (s : State) (r : Word) (f : Task → Task) : (s.mapTask r f).tick = s.tick := rfl

/-! ### State.mapBind -/

@[simp] theorem State.mapBind_core (s : State) (id : CoreId) (f : Bind → Bind) : (s.mapBind id f).core = s.core := rfl
@[simp] theorem State.mapBind_peers (s : State) (id : CoreId) (f : Bind → Bind) : (s.mapBind id f).peers = s.peers := rfl
@[simp] theorem State.mapBind_dies (s : State) (id : CoreId) (f : Bind → Bind) : (s.mapBind id f).dies = s.dies := rfl
@[simp] theorem State.mapBind_cdies (s : State) (id : CoreId) (f : Bind → Bind) : (s.mapBind id f).cdies = s.cdies := rfl
@[simp] theorem State.mapBind_unc (s : State) (id : CoreId) (f : Bind → Bind) : (s.mapBind id f).unc = s.unc := rfl
@[simp] theorem State.mapBind_pkg (s : State) (id : CoreId) (f : Bind → Bind) : (s.mapBind id f).pkg = s.pkg := rfl
@[simp] theorem State.mapBind_agenda (s : State) (id : CoreId) (f : Bind → Bind) : (s.mapBind id f).agenda = s.agenda := rfl
@[simp] theorem State.mapBind_stalled (s : State) (id : CoreId) (f : Bind → Bind) : (s.mapBind id f).stalled = s.stalled := rfl
@[simp] theorem State.mapBind_cycle (s : State) (id : CoreId) (f : Bind → Bind) : (s.mapBind id f).cycle = s.cycle := rfl
@[simp] theorem State.mapBind_timeUs (s : State) (id : CoreId) (f : Bind → Bind) : (s.mapBind id f).timeUs = s.timeUs := rfl
@[simp] theorem State.mapBind_tick (s : State) (id : CoreId) (f : Bind → Bind) : (s.mapBind id f).tick = s.tick := rfl

/-! ### State.mapCore -/

@[simp] theorem State.mapCore_disp (s : State) (id : CoreId) (f : LCore → LCore) : (s.mapCore id f).disp = s.disp := by
  unfold State.mapCore; split <;> rfl
@[simp] theorem State.mapCore_dies (s : State) (id : CoreId) (f : LCore → LCore) : (s.mapCore id f).dies = s.dies := by
  unfold State.mapCore; split <;> rfl
@[simp] theorem State.mapCore_cdies (s : State) (id : CoreId) (f : LCore → LCore) : (s.mapCore id f).cdies = s.cdies := by
  unfold State.mapCore; split <;> rfl
@[simp] theorem State.mapCore_unc (s : State) (id : CoreId) (f : LCore → LCore) : (s.mapCore id f).unc = s.unc := by
  unfold State.mapCore; split <;> rfl
@[simp] theorem State.mapCore_pkg (s : State) (id : CoreId) (f : LCore → LCore) : (s.mapCore id f).pkg = s.pkg := by
  unfold State.mapCore; split <;> rfl
@[simp] theorem State.mapCore_agenda (s : State) (id : CoreId) (f : LCore → LCore) : (s.mapCore id f).agenda = s.agenda := by
  unfold State.mapCore; split <;> rfl
@[simp] theorem State.mapCore_stalled (s : State) (id : CoreId) (f : LCore → LCore) : (s.mapCore id f).stalled = s.stalled := by
  unfold State.mapCore; split <;> rfl
@[simp] theorem State.mapCore_cycle (s : State) (id : CoreId) (f : LCore → LCore) : (s.mapCore id f).cycle = s.cycle := by
  unfold State.mapCore; split <;> rfl
@[simp] theorem State.mapCore_timeUs (s : State) (id : CoreId) (f : LCore → LCore) : (s.mapCore id f).timeUs = s.timeUs := by
  unfold State.mapCore; split <;> rfl
@[simp] theorem State.mapCore_tick (s : State) (id : CoreId) (f : LCore → LCore) : (s.mapCore id f).tick = s.tick := by
  unfold State.mapCore; split <;> rfl

/-! ### State.mapCores -/

@[simp] theorem State.mapCores_disp (s : State) (f : LCore → LCore) : (s.mapCores f).disp = s.disp := rfl
@[simp] theorem State.mapCores_dies (s : State) (f : LCore → LCore) : (s.mapCores f).dies = s.dies := rfl
@[simp] theorem State.mapCores_cdies (s : State) (f : LCore → LCore) : (s.mapCores f).cdies = s.cdies := rfl
@[simp] theorem State.mapCores_unc (s : State) (f : LCore → LCore) : (s.mapCores f).unc = s.unc := rfl
@[simp] theorem State.mapCores_pkg (s : State) (f : LCore → LCore) : (s.mapCores f).pkg = s.pkg := rfl
@[simp] theorem State.mapCores_agenda (s : State) (f : LCore → LCore) : (s.mapCores f).agenda = s.agenda := rfl
@[simp] theorem State.mapCores_stalled (s : State) (f : LCore → LCore) : (s.mapCores f).stalled = s.stalled := rfl
@[simp] theorem State.mapCores_cycle (s : State) (f : LCore → LCore) : (s.mapCores f).cycle = s.cycle := rfl
@[simp] theorem State.mapCores_timeUs (s : State) (f : LCore → LCore) : (s.mapCores f).timeUs = s.timeUs := rfl
@[simp] theorem State.mapCores_tick (s : State) (f : LCore → LCore) : (s.mapCores f).tick = s.tick := rfl

/-! ### State.mapCtx -/

@[simp] theorem State.mapCtx_disp (s : State) (id : CoreId) (n : Nat) (f : Ctx → Ctx) : (s.mapCtx id n f).disp = s.disp := by
  unfold State.mapCtx State.mapCore; split <;> rfl
@[simp] theorem State.mapCtx_dies (s : State) (id : CoreId) (n : Nat) (f : Ctx → Ctx) : (s.mapCtx id n f).dies = s.dies := by
  unfold State.mapCtx State.mapCore; split <;> rfl
@[simp] theorem State.mapCtx_cdies (s : State) (id : CoreId) (n : Nat) (f : Ctx → Ctx) : (s.mapCtx id n f).cdies = s.cdies := by
  unfold State.mapCtx State.mapCore; split <;> rfl
@[simp] theorem State.mapCtx_unc (s : State) (id : CoreId) (n : Nat) (f : Ctx → Ctx) : (s.mapCtx id n f).unc = s.unc := by
  unfold State.mapCtx State.mapCore; split <;> rfl
@[simp] theorem State.mapCtx_pkg (s : State) (id : CoreId) (n : Nat) (f : Ctx → Ctx) : (s.mapCtx id n f).pkg = s.pkg := by
  unfold State.mapCtx State.mapCore; split <;> rfl
@[simp] theorem State.mapCtx_agenda (s : State) (id : CoreId) (n : Nat) (f : Ctx → Ctx) : (s.mapCtx id n f).agenda = s.agenda := by
  unfold State.mapCtx State.mapCore; split <;> rfl
@[simp] theorem State.mapCtx_stalled (s : State) (id : CoreId) (n : Nat) (f : Ctx → Ctx) : (s.mapCtx id n f).stalled = s.stalled := by
  unfold State.mapCtx State.mapCore; split <;> rfl
@[simp] theorem State.mapCtx_cycle (s : State) (id : CoreId) (n : Nat) (f : Ctx → Ctx) : (s.mapCtx id n f).cycle = s.cycle := by
  unfold State.mapCtx State.mapCore; split <;> rfl
@[simp] theorem State.mapCtx_timeUs (s : State) (id : CoreId) (n : Nat) (f : Ctx → Ctx) : (s.mapCtx id n f).timeUs = s.timeUs := by
  unfold State.mapCtx State.mapCore; split <;> rfl
@[simp] theorem State.mapCtx_tick (s : State) (id : CoreId) (n : Nat) (f : Ctx → Ctx) : (s.mapCtx id n f).tick = s.tick := by
  unfold State.mapCtx State.mapCore; split <;> rfl

/-! ### State.standStill -/

/-- Behind a prefix the context goes back to it, so that the group issues anew (R153). -/
theorem State.standStill_prefixed (s : State) (h : s.ctx.pfx.isSome = true) (g : s.inGang = false) : s.standStill = s.retreat := by
  simp [State.standStill, h, g]

/-! ### Registers read after a write -/

theorem Ctx.gval_setG_same (c : Ctx) (n : Nat) (v : Word) (h : n < 64) (h0 : n ≠ 0) : (c.setG n v).gval n = v := by
  simp [Ctx.setG, Ctx.gval, h, h0]

theorem Ctx.gval_setG_zero (c : Ctx) (v : Word) : (c.setG 0 v).gval 0 = 0 := rfl

theorem Ctx.gval_setG_other (c : Ctx) (n m : Nat) (v : Word) (h : m ≠ n) : (c.setG n v).gval m = c.gval m := by
  unfold Ctx.setG
  split
  · split
    · rfl
    · simp only [Ctx.gval, Vector.toList_set, List.getD_eq_getElem?_getD, List.getElem?_set_ne (Ne.symm h)]
  · rfl

theorem Ctx.vval_setV_same (c : Ctx) (n : Nat) (v : VWord) (h : n < 32) : (c.setV n v).vval n = v := by
  simp [Ctx.setV, Ctx.vval, h]

theorem Ctx.vval_setV_other (c : Ctx) (n m : Nat) (v : VWord) (h : m ≠ n) : (c.setV n v).vval m = c.vval m := by
  unfold Ctx.setV
  split
  · simp only [Ctx.vval, Vector.toList_set, List.getD_eq_getElem?_getD, List.getElem?_set_ne (Ne.symm h)]
  · rfl

theorem Ctx.kval_setK_same (c : Ctx) (n : Nat) (v : BitVec 32) (h : n < 8) (h0 : n ≠ 0) : (c.setK n v).kval n = v := by
  simp [Ctx.setK, Ctx.kval, h, h0]

theorem Ctx.kval_setK_other (c : Ctx) (n m : Nat) (v : BitVec 32) (h : m ≠ n) : (c.setK n v).kval m = c.kval m := by
  unfold Ctx.setK
  split
  · split
    · rfl
    · simp only [Ctx.kval, Vector.toList_set, List.getD_eq_getElem?_getD, List.getElem?_set_ne (Ne.symm h)]
  · rfl

end Sys2Proof.Machine
end

