-- ==== Sys2Proof/Laws/Ops.lean ====
section
/-! SUPPORT. One lemma per shared operation: what a word, a prefix or an event answers once its body is known, and what
each register operation answers when its register is ready. -/

namespace Sys2Proof.Machine

/-! ### Running an operation -/

variable {α β : Type}

/-- What an operation hands on: its answer and the state it leaves, or how it halts. -/
@[simp] theorem Op.bind_run (first : Op α) (rest : α → Op β) (s : State) :
    (first >>= rest) s = (first s).bind fun out => rest out.1 out.2 := rfl

@[simp] theorem Op.answered (out : α × State) (rest : α × State → Except Halt (β × State)) :
    Except.bind (Except.ok out) rest = rest out := rfl

@[simp] theorem Op.halted (e : Halt) (rest : α × State → Except Halt (β × State)) :
    Except.bind (Except.error e) rest = Except.error e := rfl

/-- A choice between two operations runs the one chosen. -/
@[simp] theorem Op.ite_run (c : Prop) [Decidable c] (yes no : Op α) (s : State) :
    (if c then yes else no) s = if c then yes s else no s := apply_ite (fun chosen : Op α => chosen s) c yes no

@[simp] theorem Op.pure_run (a : α) (s : State) : (pure a : Op α) s = .ok (a, s) := rfl

@[simp] theorem Op.get_run (s : State) : (get : Op State) s = .ok (s, s) := rfl

@[simp] theorem Op.set_run (t s : State) : (set t : Op PUnit) s = .ok (⟨⟩, t) := rfl

@[simp] theorem Op.modify_run (f : State → State) (s : State) : (modify f : Op PUnit) s = .ok (⟨⟩, f s) := rfl

@[simp] theorem Op.stall_run (s : State) : (Op.stall : Op α) s = .error .stall := rfl

@[simp] theorem Op.throw_run (e : Halt) (s : State) : (throw e : Op α) s = .error e := rfl

@[simp] theorem Op.block_run (s : State) : (Op.block : Op α) s = .error (.block s) := rfl

theorem Op.trap_run (c : Nat) (a e : Word) (s : State) :
    (Op.trap c a e : Op α) s = .error (.trap ⟨BitVec.ofNat 8 c, a, e, none, none, none⟩) := rfl

@[simp] theorem Op.need_run (b : Bool) (s : State) : Op.need b s = if b then .ok ((), s) else .error .stall := by
  cases b <;> rfl

@[simp] theorem Op.ctx_run (s : State) : Op.ctx s = .ok (s.ctx, s) := rfl

@[simp] theorem Op.core_run (s : State) : Op.core s = .ok (s.core, s) := rfl

@[simp] theorem Op.modCtx_run (f : Ctx → Ctx) (s : State) : Op.modCtx f s = .ok ((), s.setCtx (f s.ctx)) := rfl

@[simp] theorem Op.modCore_run (f : LCore → LCore) (s : State) :
    Op.modCore f s = .ok ((), { s with core := f s.core }) := rfl

/-! ### Registers -/

theorem Op.readG_run (s : State) (n : BitVec 6) (h : s.CanRead n) : Op.readG n s = .ok (s.G n, s) := by
  simp [Op.readG, h.1, h.2, State.G]

theorem Op.writeG_run (s : State) (n : BitVec 6) (v : Word) (h : s.CanWrite n) :
    Op.writeG n v s = .ok ((), s.setCtx (s.ctx.setG n.toNat v)) := by
  unfold State.CanWrite at h
  simp [Op.writeG, h]

theorem Op.freeG_run (s : State) (n : BitVec 6) (h : s.CanWrite n) : Op.freeG n s = .ok ((), s) := by
  unfold State.CanWrite at h
  simp [Op.freeG, h]

theorem Op.claimG_run (s : State) (n : BitVec 6) (h : s.CanWrite n) :
    Op.claimG n s = .ok ((), s.setCtx (s.ctx.setPendG n.toNat true)) := by
  unfold State.CanWrite at h
  simp [Op.claimG, h]

theorem Op.readV_run (s : State) (n : BitVec 5) (h : s.VReady n) : Op.readV n s = .ok (s.V n, s) := by
  unfold State.VReady at h
  simp [Op.readV, h, State.V]

theorem Op.writeV_run (s : State) (n : BitVec 5) (v : VWord) (h : s.VReady n) :
    Op.writeV n v s = .ok ((), s.setCtx (s.ctx.setV n.toNat v)) := by
  unfold State.VReady at h
  simp [Op.writeV, h]

@[simp] theorem Op.readK_run (s : State) (n : BitVec 3) : Op.readK n s = .ok (s.K n, s) := rfl

@[simp] theorem Op.writeK_run (s : State) (n : BitVec 3) (v : BitVec 32) :
    Op.writeK n v s = .ok ((), s.setCtx (s.ctx.setK n.toNat v)) := rfl

theorem Op.imm_run {w : Nat} (f : BitVec w) (s : State) : Op.imm f s = .ok (immExt s.payloads f, s) := rfl

/-- A source is never ready when a write to it is pending. -/
theorem State.CanRead.canWrite {s : State} {n : BitVec 6} (h : s.CanRead n) : s.CanWrite n := h.1

/-! ### Words -/

/-- A context alone waits where it waits itself. -/
theorem State.waits_alone (s : State) (h : s.inGang = false) : s.waits = s.ctx.wait.isSome := by
  simp [State.waits, h]

/-- A word that issues is its body: it completes, traps, stalls or waits. -/
theorem perform_issues (i : Instr) (body : Op Exit) (s : State) (h : s.Issues i) :
    perform i body s = .next (match body s with
      | .ok (f, t) => t.finish f
      | .error (.trap t) => s.takeTrap t
      | .error .stall => s.standStill
      | .error (.block t) => t.retreat) := by
  obtain ⟨hl, hw, hg, ht⟩ := h
  simp only [perform, hl, s.waits_alone hg, hw, hg, performSolo, checked, ht]
  rfl

theorem perform_ok {i : Instr} {body : Op Exit} {s t : State} {f : Exit} (h : s.Issues i) (hb : body s = .ok (f, t)) :
    perform i body s = .next (t.finish f) := by
  rw [perform_issues i body s h, hb]

theorem perform_trap {i : Instr} {body : Op Exit} {s : State} {t : Trap} (h : s.Issues i)
    (hb : body s = .error (.trap t)) : perform i body s = .next (s.takeTrap t) := by
  rw [perform_issues i body s h, hb]

theorem performNext_ok {i : Instr} {body : Op Unit} {s t : State} (h : s.Issues i) (hb : body s = .ok ((), t)) :
    performNext i body s = .next t.done := by
  apply perform_ok h
  simp [hb]

theorem performNext_trap {i : Instr} {body : Op Unit} {s : State} {t : Trap} (h : s.Issues i)
    (hb : body s = .error (.trap t)) : performNext i body s = .next (s.takeTrap t) := by
  apply perform_trap h
  simp [hb]

/-- A word that is not ready stands still: in the middle of a group, the group begins again (R152, R153). -/
theorem performNext_stall {i : Instr} {body : Op Unit} {s : State} (h : s.Issues i)
    (hb : body s = .error .stall) : performNext i body s = .next s.standStill := by
  rw [performNext, perform_issues _ _ _ h]
  simp [hb]

/-- Standing still outside a group changes nothing. -/
theorem State.standStill_alone (s : State) (h : s.ctx.pfx = none) : s.standStill = { s with stalled := true } := by
  simp [State.standStill, h]

/-- A word is never refused, and faults only where no context is live. -/
theorem perform_outcome (i : Instr) (body : Op Exit) (s : State) :
    (∃ t, perform i body s = .next t) ∨ (s.ctx.live = false ∧ perform i body s = .fault .noContext) := by
  cases hl : s.ctx.live with
  | false => exact .inr ⟨rfl, by simp [perform, hl]⟩
  | true =>
    refine .inl ?_
    by_cases hw : s.waits = true
    · exact ⟨_, by simp only [perform, hl, hw]; rfl⟩
    · cases hg : s.inGang <;> exact ⟨_, by simp only [perform, hl, hw, hg]; rfl⟩

theorem performNext_outcome (i : Instr) (body : Op Unit) (s : State) :
    (∃ t, performNext i body s = .next t) ∨ (s.ctx.live = false ∧ performNext i body s = .fault .noContext) :=
  perform_outcome i _ s

theorem performPrefix_outcome (f : Pfx → Pfx) (s : State) :
    (∃ t, performPrefix f s = .next t) ∨ (s.ctx.live = false ∧ performPrefix f s = .fault .noContext) := by
  cases hl : s.ctx.live with
  | false => exact .inr ⟨rfl, by simp [performPrefix, hl]⟩
  | true => by_cases hw : s.waits = true <;> exact .inl ⟨_, by simp only [performPrefix, hl, hw]; rfl⟩

/-! ### Events -/

theorem runEvent_ok {op : Op Unit} {s t : State} (h : op s = .ok ((), t)) :
    runEvent op s = .next { t with stalled := false } := by
  simp [runEvent, h]

/-- An event always answers a next state. -/
theorem runEvent_next (op : Op Unit) (s : State) : ∃ t, runEvent op s = .next t := by
  unfold runEvent
  split <;> exact ⟨_, rfl⟩

end Sys2Proof.Machine
end

