-- ==== Sys2Proof/Laws/PerInstr.lean ====
section
/-! SUPPORT. Families of statements about every instruction as syntax, one lemma per constructor of `Instr`. FitsWord: the
encoder's word has 32 bits (R129), and an event has none. -/

namespace Sys2Proof.Laws

/-- The word that the encoder gives an instruction has 32 bits. -/
def FitsWord.Statement (i : Instr) : Prop := ∀ w, encode i = some w → w < 2 ^ 32

theorem FitsWord.of {i : Instr} {v : Nat} (h : encode i = some v) (hv : v < 2 ^ 32) : FitsWord.Statement i :=
  fun w hw => by rw [h] at hw; cases hw; exact hv

theorem FitsWord.ofNone {i : Instr} (h : encode i = none) : FitsWord.Statement i :=
  fun w hw => by rw [h] at hw; cases hw

theorem FitsWord.code_width (x : Width) : x.code < 4 := by cases x <;> decide
theorem FitsWord.code_order (x : Order) : x.code < 4 := by cases x <;> decide
theorem FitsWord.code_scope (x : Scope) : x.code < 6 := by cases x <;> decide
theorem FitsWord.code_intty (x : IntTy) : x.code < 6 := by cases x <;> decide
theorem FitsWord.code_fltty (x : FltTy) : x.code < 3 := by cases x <;> decide
theorem FitsWord.code_cond (x : Cond) : x.code < 7 := by cases x <;> decide
theorem FitsWord.code_rmode (x : RMode) : x.code < 3 := by cases x <;> decide
theorem FitsWord.code_packfmt (x : PackFmt) : x.code < 7 := by cases x <;> decide
theorem FitsWord.code_tier (x : Tier) : x.code < 5 := by cases x <;> decide
theorem FitsWord.code_numty (x : NumTy) : x.code < 11 := by cases x with
  | int t => have := FitsWord.code_intty t; simp only [NumTy.code]; omega
  | flt t => have := FitsWord.code_fltty t; simp only [NumTy.code]; omega

theorem FitsWord.add (d : BitVec 6) (a : BitVec 6) (b : BitVec 6) : FitsWord.Statement (.add d a b) :=
  FitsWord.of rfl (by have := d.isLt; have := a.isLt; have := b.isLt; simp only [wordOf]; omega)
theorem FitsWord.sub (d : BitVec 6) (a : BitVec 6) (b : BitVec 6) : FitsWord.Statement (.sub d a b) :=
  FitsWord.of rfl (by have := d.isLt; have := a.isLt; have := b.isLt; simp only [wordOf]; omega)
theorem FitsWord.and (d : BitVec 6) (a : BitVec 6) (b : BitVec 6) : FitsWord.Statement (.and d a b) :=
  FitsWord.of rfl (by have := d.isLt; have := a.isLt; have := b.isLt; simp only [wordOf]; omega)
theorem FitsWord.or (d : BitVec 6) (a : BitVec 6) (b : BitVec 6) : FitsWord.Statement (.or d a b) :=
  FitsWord.of rfl (by have := d.isLt; have := a.isLt; have := b.isLt; simp only [wordOf]; omega)
theorem FitsWord.xor (d : BitVec 6) (a : BitVec 6) (b : BitVec 6) : FitsWord.Statement (.xor d a b) :=
  FitsWord.of rfl (by have := d.isLt; have := a.isLt; have := b.isLt; simp only [wordOf]; omega)
theorem FitsWord.andn (d : BitVec 6) (a : BitVec 6) (b : BitVec 6) : FitsWord.Statement (.andn d a b) :=
  FitsWord.of rfl (by have := d.isLt; have := a.isLt; have := b.isLt; simp only [wordOf]; omega)
theorem FitsWord.orn (d : BitVec 6) (a : BitVec 6) (b : BitVec 6) : FitsWord.Statement (.orn d a b) :=
  FitsWord.of rfl (by have := d.isLt; have := a.isLt; have := b.isLt; simp only [wordOf]; omega)
theorem FitsWord.xnor (d : BitVec 6) (a : BitVec 6) (b : BitVec 6) : FitsWord.Statement (.xnor d a b) :=
  FitsWord.of rfl (by have := d.isLt; have := a.isLt; have := b.isLt; simp only [wordOf]; omega)
theorem FitsWord.shl (d : BitVec 6) (a : BitVec 6) (b : BitVec 6) : FitsWord.Statement (.shl d a b) :=
  FitsWord.of rfl (by have := d.isLt; have := a.isLt; have := b.isLt; simp only [wordOf]; omega)
theorem FitsWord.shr (d : BitVec 6) (a : BitVec 6) (b : BitVec 6) : FitsWord.Statement (.shr d a b) :=
  FitsWord.of rfl (by have := d.isLt; have := a.isLt; have := b.isLt; simp only [wordOf]; omega)
theorem FitsWord.sar (d : BitVec 6) (a : BitVec 6) (b : BitVec 6) : FitsWord.Statement (.sar d a b) :=
  FitsWord.of rfl (by have := d.isLt; have := a.isLt; have := b.isLt; simp only [wordOf]; omega)
theorem FitsWord.rol (d : BitVec 6) (a : BitVec 6) (b : BitVec 6) : FitsWord.Statement (.rol d a b) :=
  FitsWord.of rfl (by have := d.isLt; have := a.isLt; have := b.isLt; simp only [wordOf]; omega)
theorem FitsWord.ror (d : BitVec 6) (a : BitVec 6) (b : BitVec 6) : FitsWord.Statement (.ror d a b) :=
  FitsWord.of rfl (by have := d.isLt; have := a.isLt; have := b.isLt; simp only [wordOf]; omega)
theorem FitsWord.slt (d : BitVec 6) (a : BitVec 6) (b : BitVec 6) : FitsWord.Statement (.slt d a b) :=
  FitsWord.of rfl (by have := d.isLt; have := a.isLt; have := b.isLt; simp only [wordOf]; omega)
theorem FitsWord.sltu (d : BitVec 6) (a : BitVec 6) (b : BitVec 6) : FitsWord.Statement (.sltu d a b) :=
  FitsWord.of rfl (by have := d.isLt; have := a.isLt; have := b.isLt; simp only [wordOf]; omega)
theorem FitsWord.seq (d : BitVec 6) (a : BitVec 6) (b : BitVec 6) : FitsWord.Statement (.seq d a b) :=
  FitsWord.of rfl (by have := d.isLt; have := a.isLt; have := b.isLt; simp only [wordOf]; omega)
theorem FitsWord.sne (d : BitVec 6) (a : BitVec 6) (b : BitVec 6) : FitsWord.Statement (.sne d a b) :=
  FitsWord.of rfl (by have := d.isLt; have := a.isLt; have := b.isLt; simp only [wordOf]; omega)
theorem FitsWord.minS (d : BitVec 6) (a : BitVec 6) (b : BitVec 6) : FitsWord.Statement (.minS d a b) :=
  FitsWord.of rfl (by have := d.isLt; have := a.isLt; have := b.isLt; simp only [wordOf]; omega)
theorem FitsWord.maxS (d : BitVec 6) (a : BitVec 6) (b : BitVec 6) : FitsWord.Statement (.maxS d a b) :=
  FitsWord.of rfl (by have := d.isLt; have := a.isLt; have := b.isLt; simp only [wordOf]; omega)
theorem FitsWord.minU (d : BitVec 6) (a : BitVec 6) (b : BitVec 6) : FitsWord.Statement (.minU d a b) :=
  FitsWord.of rfl (by have := d.isLt; have := a.isLt; have := b.isLt; simp only [wordOf]; omega)
theorem FitsWord.maxU (d : BitVec 6) (a : BitVec 6) (b : BitVec 6) : FitsWord.Statement (.maxU d a b) :=
  FitsWord.of rfl (by have := d.isLt; have := a.isLt; have := b.isLt; simp only [wordOf]; omega)
theorem FitsWord.mul (d : BitVec 6) (a : BitVec 6) (b : BitVec 6) : FitsWord.Statement (.mul d a b) :=
  FitsWord.of rfl (by have := d.isLt; have := a.isLt; have := b.isLt; simp only [wordOf]; omega)
theorem FitsWord.mulh (d : BitVec 6) (a : BitVec 6) (b : BitVec 6) : FitsWord.Statement (.mulh d a b) :=
  FitsWord.of rfl (by have := d.isLt; have := a.isLt; have := b.isLt; simp only [wordOf]; omega)
theorem FitsWord.mulhu (d : BitVec 6) (a : BitVec 6) (b : BitVec 6) : FitsWord.Statement (.mulhu d a b) :=
  FitsWord.of rfl (by have := d.isLt; have := a.isLt; have := b.isLt; simp only [wordOf]; omega)
theorem FitsWord.div (d : BitVec 6) (a : BitVec 6) (b : BitVec 6) : FitsWord.Statement (.div d a b) :=
  FitsWord.of rfl (by have := d.isLt; have := a.isLt; have := b.isLt; simp only [wordOf]; omega)
theorem FitsWord.divu (d : BitVec 6) (a : BitVec 6) (b : BitVec 6) : FitsWord.Statement (.divu d a b) :=
  FitsWord.of rfl (by have := d.isLt; have := a.isLt; have := b.isLt; simp only [wordOf]; omega)
theorem FitsWord.rem (d : BitVec 6) (a : BitVec 6) (b : BitVec 6) : FitsWord.Statement (.rem d a b) :=
  FitsWord.of rfl (by have := d.isLt; have := a.isLt; have := b.isLt; simp only [wordOf]; omega)
theorem FitsWord.remu (d : BitVec 6) (a : BitVec 6) (b : BitVec 6) : FitsWord.Statement (.remu d a b) :=
  FitsWord.of rfl (by have := d.isLt; have := a.isLt; have := b.isLt; simp only [wordOf]; omega)
theorem FitsWord.addw (d : BitVec 6) (a : BitVec 6) (b : BitVec 6) : FitsWord.Statement (.addw d a b) :=
  FitsWord.of rfl (by have := d.isLt; have := a.isLt; have := b.isLt; simp only [wordOf]; omega)
theorem FitsWord.subw (d : BitVec 6) (a : BitVec 6) (b : BitVec 6) : FitsWord.Statement (.subw d a b) :=
  FitsWord.of rfl (by have := d.isLt; have := a.isLt; have := b.isLt; simp only [wordOf]; omega)
theorem FitsWord.shlw (d : BitVec 6) (a : BitVec 6) (b : BitVec 6) : FitsWord.Statement (.shlw d a b) :=
  FitsWord.of rfl (by have := d.isLt; have := a.isLt; have := b.isLt; simp only [wordOf]; omega)
theorem FitsWord.shrw (d : BitVec 6) (a : BitVec 6) (b : BitVec 6) : FitsWord.Statement (.shrw d a b) :=
  FitsWord.of rfl (by have := d.isLt; have := a.isLt; have := b.isLt; simp only [wordOf]; omega)
theorem FitsWord.sarw (d : BitVec 6) (a : BitVec 6) (b : BitVec 6) : FitsWord.Statement (.sarw d a b) :=
  FitsWord.of rfl (by have := d.isLt; have := a.isLt; have := b.isLt; simp only [wordOf]; omega)
theorem FitsWord.mulw (d : BitVec 6) (a : BitVec 6) (b : BitVec 6) : FitsWord.Statement (.mulw d a b) :=
  FitsWord.of rfl (by have := d.isLt; have := a.isLt; have := b.isLt; simp only [wordOf]; omega)
theorem FitsWord.lop3 (d : BitVec 6) (a : BitVec 6) (b : BitVec 5) (t : BitVec 8) : FitsWord.Statement (.lop3 d a b t) :=
  FitsWord.of rfl (by have := d.isLt; have := a.isLt; have := b.isLt; have := t.isLt; simp only [wordOf]; omega)
theorem FitsWord.fshl (d : BitVec 6) (a : BitVec 6) (b : BitVec 5) (w : Width) (s : BitVec 6) : FitsWord.Statement (.fshl d a b w s) :=
  FitsWord.of rfl (by have := d.isLt; have := a.isLt; have := b.isLt; have := FitsWord.code_width w; have := s.isLt; simp only [wordOf]; omega)
theorem FitsWord.clz (d : BitVec 6) (a : BitVec 6) (w : Width) : FitsWord.Statement (.clz d a w) :=
  FitsWord.of rfl (by have := d.isLt; have := a.isLt; have := FitsWord.code_width w; simp only [wordOf]; omega)
theorem FitsWord.ctz (d : BitVec 6) (a : BitVec 6) (w : Width) : FitsWord.Statement (.ctz d a w) :=
  FitsWord.of rfl (by have := d.isLt; have := a.isLt; have := FitsWord.code_width w; simp only [wordOf]; omega)
theorem FitsWord.popc (d : BitVec 6) (a : BitVec 6) (w : Width) : FitsWord.Statement (.popc d a w) :=
  FitsWord.of rfl (by have := d.isLt; have := a.isLt; have := FitsWord.code_width w; simp only [wordOf]; omega)
theorem FitsWord.ffs (d : BitVec 6) (a : BitVec 6) (w : Width) : FitsWord.Statement (.ffs d a w) :=
  FitsWord.of rfl (by have := d.isLt; have := a.isLt; have := FitsWord.code_width w; simp only [wordOf]; omega)
theorem FitsWord.brev (d : BitVec 6) (a : BitVec 6) (w : Width) : FitsWord.Statement (.brev d a w) :=
  FitsWord.of rfl (by have := d.isLt; have := a.isLt; have := FitsWord.code_width w; simp only [wordOf]; omega)
theorem FitsWord.bswap (d : BitVec 6) (a : BitVec 6) (w : Width) : FitsWord.Statement (.bswap d a w) :=
  FitsWord.of rfl (by have := d.isLt; have := a.isLt; have := FitsWord.code_width w; simp only [wordOf]; omega)
theorem FitsWord.addi (d : BitVec 6) (a : BitVec 6) (imm : BitVec 14) : FitsWord.Statement (.addi d a imm) :=
  FitsWord.of rfl (by have := d.isLt; have := a.isLt; have := imm.isLt; simp only [wordOf]; omega)
theorem FitsWord.andi (d : BitVec 6) (a : BitVec 6) (imm : BitVec 14) : FitsWord.Statement (.andi d a imm) :=
  FitsWord.of rfl (by have := d.isLt; have := a.isLt; have := imm.isLt; simp only [wordOf]; omega)
theorem FitsWord.ori (d : BitVec 6) (a : BitVec 6) (imm : BitVec 14) : FitsWord.Statement (.ori d a imm) :=
  FitsWord.of rfl (by have := d.isLt; have := a.isLt; have := imm.isLt; simp only [wordOf]; omega)
theorem FitsWord.xori (d : BitVec 6) (a : BitVec 6) (imm : BitVec 14) : FitsWord.Statement (.xori d a imm) :=
  FitsWord.of rfl (by have := d.isLt; have := a.isLt; have := imm.isLt; simp only [wordOf]; omega)
theorem FitsWord.slti (d : BitVec 6) (a : BitVec 6) (imm : BitVec 14) : FitsWord.Statement (.slti d a imm) :=
  FitsWord.of rfl (by have := d.isLt; have := a.isLt; have := imm.isLt; simp only [wordOf]; omega)
theorem FitsWord.sltiu (d : BitVec 6) (a : BitVec 6) (imm : BitVec 14) : FitsWord.Statement (.sltiu d a imm) :=
  FitsWord.of rfl (by have := d.isLt; have := a.isLt; have := imm.isLt; simp only [wordOf]; omega)
theorem FitsWord.shli (d : BitVec 6) (a : BitVec 6) (n : BitVec 6) : FitsWord.Statement (.shli d a n) :=
  FitsWord.of rfl (by have := d.isLt; have := a.isLt; have := n.isLt; simp only [wordOf]; omega)
theorem FitsWord.shri (d : BitVec 6) (a : BitVec 6) (n : BitVec 6) : FitsWord.Statement (.shri d a n) :=
  FitsWord.of rfl (by have := d.isLt; have := a.isLt; have := n.isLt; simp only [wordOf]; omega)
theorem FitsWord.sari (d : BitVec 6) (a : BitVec 6) (n : BitVec 6) : FitsWord.Statement (.sari d a n) :=
  FitsWord.of rfl (by have := d.isLt; have := a.isLt; have := n.isLt; simp only [wordOf]; omega)
theorem FitsWord.rori (d : BitVec 6) (a : BitVec 6) (n : BitVec 6) : FitsWord.Statement (.rori d a n) :=
  FitsWord.of rfl (by have := d.isLt; have := a.isLt; have := n.isLt; simp only [wordOf]; omega)
theorem FitsWord.extz (d : BitVec 6) (a : BitVec 6) (p : BitVec 6) (l : BitVec 6) : FitsWord.Statement (.extz d a p l) :=
  FitsWord.of rfl (by have := d.isLt; have := a.isLt; have := p.isLt; have := l.isLt; simp only [wordOf]; omega)
theorem FitsWord.exts (d : BitVec 6) (a : BitVec 6) (p : BitVec 6) (l : BitVec 6) : FitsWord.Statement (.exts d a p l) :=
  FitsWord.of rfl (by have := d.isLt; have := a.isLt; have := p.isLt; have := l.isLt; simp only [wordOf]; omega)
theorem FitsWord.dep (d : BitVec 6) (a : BitVec 6) (p : BitVec 6) (l : BitVec 6) : FitsWord.Statement (.dep d a p l) :=
  FitsWord.of rfl (by have := d.isLt; have := a.isLt; have := p.isLt; have := l.isLt; simp only [wordOf]; omega)
theorem FitsWord.lds (d : BitVec 6) (a : BitVec 6) (imm : BitVec 12) (w : Width) : FitsWord.Statement (.lds d a imm w) :=
  FitsWord.of rfl (by have := d.isLt; have := a.isLt; have := imm.isLt; have := FitsWord.code_width w; simp only [wordOf]; omega)
theorem FitsWord.ldz (d : BitVec 6) (a : BitVec 6) (imm : BitVec 12) (w : Width) : FitsWord.Statement (.ldz d a imm w) :=
  FitsWord.of rfl (by have := d.isLt; have := a.isLt; have := imm.isLt; have := FitsWord.code_width w; simp only [wordOf]; omega)
theorem FitsWord.st (c : BitVec 6) (a : BitVec 6) (imm : BitVec 12) (w : Width) : FitsWord.Statement (.st c a imm w) :=
  FitsWord.of rfl (by have := c.isLt; have := a.isLt; have := imm.isLt; have := FitsWord.code_width w; simp only [wordOf]; omega)
theorem FitsWord.amoaddW (d : BitVec 6) (a : BitVec 6) (b : BitVec 6) (ord : Order) (sc : Scope) : FitsWord.Statement (.amoaddW d a b ord sc) :=
  FitsWord.of rfl (by have := d.isLt; have := a.isLt; have := b.isLt; have := FitsWord.code_order ord; have := FitsWord.code_scope sc; simp only [wordOf]; omega)
theorem FitsWord.amoandW (d : BitVec 6) (a : BitVec 6) (b : BitVec 6) (ord : Order) (sc : Scope) : FitsWord.Statement (.amoandW d a b ord sc) :=
  FitsWord.of rfl (by have := d.isLt; have := a.isLt; have := b.isLt; have := FitsWord.code_order ord; have := FitsWord.code_scope sc; simp only [wordOf]; omega)
theorem FitsWord.amoorW (d : BitVec 6) (a : BitVec 6) (b : BitVec 6) (ord : Order) (sc : Scope) : FitsWord.Statement (.amoorW d a b ord sc) :=
  FitsWord.of rfl (by have := d.isLt; have := a.isLt; have := b.isLt; have := FitsWord.code_order ord; have := FitsWord.code_scope sc; simp only [wordOf]; omega)
theorem FitsWord.amoxorW (d : BitVec 6) (a : BitVec 6) (b : BitVec 6) (ord : Order) (sc : Scope) : FitsWord.Statement (.amoxorW d a b ord sc) :=
  FitsWord.of rfl (by have := d.isLt; have := a.isLt; have := b.isLt; have := FitsWord.code_order ord; have := FitsWord.code_scope sc; simp only [wordOf]; omega)
theorem FitsWord.amominW (d : BitVec 6) (a : BitVec 6) (b : BitVec 6) (ord : Order) (sc : Scope) : FitsWord.Statement (.amominW d a b ord sc) :=
  FitsWord.of rfl (by have := d.isLt; have := a.isLt; have := b.isLt; have := FitsWord.code_order ord; have := FitsWord.code_scope sc; simp only [wordOf]; omega)
theorem FitsWord.amomaxW (d : BitVec 6) (a : BitVec 6) (b : BitVec 6) (ord : Order) (sc : Scope) : FitsWord.Statement (.amomaxW d a b ord sc) :=
  FitsWord.of rfl (by have := d.isLt; have := a.isLt; have := b.isLt; have := FitsWord.code_order ord; have := FitsWord.code_scope sc; simp only [wordOf]; omega)
theorem FitsWord.amominuW (d : BitVec 6) (a : BitVec 6) (b : BitVec 6) (ord : Order) (sc : Scope) : FitsWord.Statement (.amominuW d a b ord sc) :=
  FitsWord.of rfl (by have := d.isLt; have := a.isLt; have := b.isLt; have := FitsWord.code_order ord; have := FitsWord.code_scope sc; simp only [wordOf]; omega)
theorem FitsWord.amomaxuW (d : BitVec 6) (a : BitVec 6) (b : BitVec 6) (ord : Order) (sc : Scope) : FitsWord.Statement (.amomaxuW d a b ord sc) :=
  FitsWord.of rfl (by have := d.isLt; have := a.isLt; have := b.isLt; have := FitsWord.code_order ord; have := FitsWord.code_scope sc; simp only [wordOf]; omega)
theorem FitsWord.amoaddD (d : BitVec 6) (a : BitVec 6) (b : BitVec 6) (ord : Order) (sc : Scope) : FitsWord.Statement (.amoaddD d a b ord sc) :=
  FitsWord.of rfl (by have := d.isLt; have := a.isLt; have := b.isLt; have := FitsWord.code_order ord; have := FitsWord.code_scope sc; simp only [wordOf]; omega)
theorem FitsWord.amoandD (d : BitVec 6) (a : BitVec 6) (b : BitVec 6) (ord : Order) (sc : Scope) : FitsWord.Statement (.amoandD d a b ord sc) :=
  FitsWord.of rfl (by have := d.isLt; have := a.isLt; have := b.isLt; have := FitsWord.code_order ord; have := FitsWord.code_scope sc; simp only [wordOf]; omega)
theorem FitsWord.amoorD (d : BitVec 6) (a : BitVec 6) (b : BitVec 6) (ord : Order) (sc : Scope) : FitsWord.Statement (.amoorD d a b ord sc) :=
  FitsWord.of rfl (by have := d.isLt; have := a.isLt; have := b.isLt; have := FitsWord.code_order ord; have := FitsWord.code_scope sc; simp only [wordOf]; omega)
theorem FitsWord.amoxorD (d : BitVec 6) (a : BitVec 6) (b : BitVec 6) (ord : Order) (sc : Scope) : FitsWord.Statement (.amoxorD d a b ord sc) :=
  FitsWord.of rfl (by have := d.isLt; have := a.isLt; have := b.isLt; have := FitsWord.code_order ord; have := FitsWord.code_scope sc; simp only [wordOf]; omega)
theorem FitsWord.amominD (d : BitVec 6) (a : BitVec 6) (b : BitVec 6) (ord : Order) (sc : Scope) : FitsWord.Statement (.amominD d a b ord sc) :=
  FitsWord.of rfl (by have := d.isLt; have := a.isLt; have := b.isLt; have := FitsWord.code_order ord; have := FitsWord.code_scope sc; simp only [wordOf]; omega)
theorem FitsWord.amomaxD (d : BitVec 6) (a : BitVec 6) (b : BitVec 6) (ord : Order) (sc : Scope) : FitsWord.Statement (.amomaxD d a b ord sc) :=
  FitsWord.of rfl (by have := d.isLt; have := a.isLt; have := b.isLt; have := FitsWord.code_order ord; have := FitsWord.code_scope sc; simp only [wordOf]; omega)
theorem FitsWord.amominuD (d : BitVec 6) (a : BitVec 6) (b : BitVec 6) (ord : Order) (sc : Scope) : FitsWord.Statement (.amominuD d a b ord sc) :=
  FitsWord.of rfl (by have := d.isLt; have := a.isLt; have := b.isLt; have := FitsWord.code_order ord; have := FitsWord.code_scope sc; simp only [wordOf]; omega)
theorem FitsWord.amomaxuD (d : BitVec 6) (a : BitVec 6) (b : BitVec 6) (ord : Order) (sc : Scope) : FitsWord.Statement (.amomaxuD d a b ord sc) :=
  FitsWord.of rfl (by have := d.isLt; have := a.isLt; have := b.isLt; have := FitsWord.code_order ord; have := FitsWord.code_scope sc; simp only [wordOf]; omega)
theorem FitsWord.swp (d : BitVec 6) (a : BitVec 6) (b : BitVec 6) (ord : Order) (sc : Scope) (dw : Bool) : FitsWord.Statement (.swp d a b ord sc dw) :=
  FitsWord.of rfl (by have := d.isLt; have := a.isLt; have := b.isLt; have := FitsWord.code_order ord; have := FitsWord.code_scope sc; have := Bool.toNat_le dw; simp only [wordOf]; omega)
theorem FitsWord.cas (d : BitVec 6) (a : BitVec 6) (b : BitVec 6) (ord : Order) (sc : Scope) (dw : Bool) : FitsWord.Statement (.cas d a b ord sc dw) :=
  FitsWord.of rfl (by have := d.isLt; have := a.isLt; have := b.isLt; have := FitsWord.code_order ord; have := FitsWord.code_scope sc; have := Bool.toNat_le dw; simp only [wordOf]; omega)
theorem FitsWord.ldo (d : BitVec 6) (a : BitVec 6) (ord : Order) (sc : Scope) (dw : Bool) : FitsWord.Statement (.ldo d a ord sc dw) :=
  FitsWord.of rfl (by have := d.isLt; have := a.isLt; have := FitsWord.code_order ord; have := FitsWord.code_scope sc; have := Bool.toNat_le dw; simp only [wordOf]; omega)
theorem FitsWord.sto (a : BitVec 6) (b : BitVec 6) (ord : Order) (sc : Scope) (dw : Bool) : FitsWord.Statement (.sto a b ord sc dw) :=
  FitsWord.of rfl (by have := a.isLt; have := b.isLt; have := FitsWord.code_order ord; have := FitsWord.code_scope sc; have := Bool.toNat_le dw; simp only [wordOf]; omega)
theorem FitsWord.redadd (dw : Bool) (a : BitVec 6) (b : BitVec 6) (rel : Bool) (sc : Scope) : FitsWord.Statement (.redadd dw a b rel sc) :=
  FitsWord.of rfl (by have := Bool.toNat_le dw; have := a.isLt; have := b.isLt; have := Bool.toNat_le rel; have := FitsWord.code_scope sc; simp only [wordOf]; omega)
theorem FitsWord.redand (dw : Bool) (a : BitVec 6) (b : BitVec 6) (rel : Bool) (sc : Scope) : FitsWord.Statement (.redand dw a b rel sc) :=
  FitsWord.of rfl (by have := Bool.toNat_le dw; have := a.isLt; have := b.isLt; have := Bool.toNat_le rel; have := FitsWord.code_scope sc; simp only [wordOf]; omega)
theorem FitsWord.redor (dw : Bool) (a : BitVec 6) (b : BitVec 6) (rel : Bool) (sc : Scope) : FitsWord.Statement (.redor dw a b rel sc) :=
  FitsWord.of rfl (by have := Bool.toNat_le dw; have := a.isLt; have := b.isLt; have := Bool.toNat_le rel; have := FitsWord.code_scope sc; simp only [wordOf]; omega)
theorem FitsWord.redxor (dw : Bool) (a : BitVec 6) (b : BitVec 6) (rel : Bool) (sc : Scope) : FitsWord.Statement (.redxor dw a b rel sc) :=
  FitsWord.of rfl (by have := Bool.toNat_le dw; have := a.isLt; have := b.isLt; have := Bool.toNat_le rel; have := FitsWord.code_scope sc; simp only [wordOf]; omega)
theorem FitsWord.redmin (dw : Bool) (a : BitVec 6) (b : BitVec 6) (rel : Bool) (sc : Scope) : FitsWord.Statement (.redmin dw a b rel sc) :=
  FitsWord.of rfl (by have := Bool.toNat_le dw; have := a.isLt; have := b.isLt; have := Bool.toNat_le rel; have := FitsWord.code_scope sc; simp only [wordOf]; omega)
theorem FitsWord.redmax (dw : Bool) (a : BitVec 6) (b : BitVec 6) (rel : Bool) (sc : Scope) : FitsWord.Statement (.redmax dw a b rel sc) :=
  FitsWord.of rfl (by have := Bool.toNat_le dw; have := a.isLt; have := b.isLt; have := Bool.toNat_le rel; have := FitsWord.code_scope sc; simp only [wordOf]; omega)
theorem FitsWord.redminu (dw : Bool) (a : BitVec 6) (b : BitVec 6) (rel : Bool) (sc : Scope) : FitsWord.Statement (.redminu dw a b rel sc) :=
  FitsWord.of rfl (by have := Bool.toNat_le dw; have := a.isLt; have := b.isLt; have := Bool.toNat_le rel; have := FitsWord.code_scope sc; simp only [wordOf]; omega)
theorem FitsWord.redmaxu (dw : Bool) (a : BitVec 6) (b : BitVec 6) (rel : Bool) (sc : Scope) : FitsWord.Statement (.redmaxu dw a b rel sc) :=
  FitsWord.of rfl (by have := Bool.toNat_le dw; have := a.isLt; have := b.isLt; have := Bool.toNat_le rel; have := FitsWord.code_scope sc; simp only [wordOf]; omega)
theorem FitsWord.redacc (d : BitVec 6) (a : BitVec 6) (b : BitVec 6) (rel : Bool) (sc : Scope) : FitsWord.Statement (.redacc d a b rel sc) :=
  FitsWord.of rfl (by have := d.isLt; have := a.isLt; have := b.isLt; have := Bool.toNat_le rel; have := FitsWord.code_scope sc; simp only [wordOf]; omega)
theorem FitsWord.fence (e : BitVec 4) (sc : Scope) : FitsWord.Statement (.fence e sc) :=
  FitsWord.of rfl (by have := e.isLt; have := FitsWord.code_scope sc; simp only [wordOf]; omega)
theorem FitsWord.fenceE (sc : Scope) : FitsWord.Statement (.fenceE sc) :=
  FitsWord.of rfl (by have := FitsWord.code_scope sc; simp only [wordOf]; omega)
theorem FitsWord.wbr (a : BitVec 6) (b : BitVec 6) (sc : Scope) : FitsWord.Statement (.wbr a b sc) :=
  FitsWord.of rfl (by have := a.isLt; have := b.isLt; have := FitsWord.code_scope sc; simp only [wordOf]; omega)
theorem FitsWord.invr (a : BitVec 6) (b : BitVec 6) (sc : Scope) : FitsWord.Statement (.invr a b sc) :=
  FitsWord.of rfl (by have := a.isLt; have := b.isLt; have := FitsWord.code_scope sc; simp only [wordOf]; omega)
theorem FitsWord.arrive (n : BitVec 2) : FitsWord.Statement (.arrive n) :=
  FitsWord.of rfl (by have := n.isLt; simp only [wordOf]; omega)
theorem FitsWord.arriveSnap (n : BitVec 2) : FitsWord.Statement (.arriveSnap n) :=
  FitsWord.of rfl (by have := n.isLt; simp only [wordOf]; omega)
theorem FitsWord.wait (d : BitVec 6) (n : BitVec 2) : FitsWord.Statement (.wait d n) :=
  FitsWord.of rfl (by have := d.isLt; have := n.isLt; simp only [wordOf]; omega)
theorem FitsWord.bstat (d : BitVec 6) (n : BitVec 2) : FitsWord.Statement (.bstat d n) :=
  FitsWord.of rfl (by have := d.isLt; have := n.isLt; simp only [wordOf]; omega)
theorem FitsWord.bset (a : BitVec 6) (n : BitVec 2) : FitsWord.Statement (.bset a n) :=
  FitsWord.of rfl (by have := a.isLt; have := n.isLt; simp only [wordOf]; omega)
theorem FitsWord.brst (n : BitVec 2) : FitsWord.Statement (.brst n) :=
  FitsWord.of rfl (by have := n.isLt; simp only [wordOf]; omega)
theorem FitsWord.start (n : BitVec 6) (a : BitVec 6) (b : BitVec 6) : FitsWord.Statement (.start n a b) :=
  FitsWord.of rfl (by have := n.isLt; have := a.isLt; have := b.isLt; simp only [wordOf]; omega)
theorem FitsWord.stop (n : BitVec 6) : FitsWord.Statement (.stop n) :=
  FitsWord.of rfl (by have := n.isLt; simp only [wordOf]; omega)
theorem FitsWord.join (d : BitVec 6) (n : BitVec 6) : FitsWord.Statement (.join d n) :=
  FitsWord.of rfl (by have := d.isLt; have := n.isLt; simp only [wordOf]; omega)
theorem FitsWord.gets (d : BitVec 6) (r : BitVec 12) : FitsWord.Statement (.gets d r) :=
  FitsWord.of rfl (by have := d.isLt; have := r.isLt; simp only [wordOf]; omega)
theorem FitsWord.sets (a : BitVec 6) (r : BitVec 12) : FitsWord.Statement (.sets a r) :=
  FitsWord.of rfl (by have := a.isLt; have := r.isLt; simp only [wordOf]; omega)
theorem FitsWord.trap (c : BitVec 8) : FitsWord.Statement (.trap c) :=
  FitsWord.of rfl (by have := c.isLt; simp only [wordOf]; omega)
theorem FitsWord.touch (d : BitVec 6) (a : BitVec 6) : FitsWord.Statement (.touch d a) :=
  FitsWord.of rfl (by have := d.isLt; have := a.isLt; simp only [wordOf]; omega)
theorem FitsWord.objinv (a : BitVec 6) (sc : Scope) : FitsWord.Statement (.objinv a sc) :=
  FitsWord.of rfl (by have := a.isLt; have := FitsWord.code_scope sc; simp only [wordOf]; omega)
theorem FitsWord.einj (c : BitVec 6) (a : BitVec 6) (tier : Tier) : FitsWord.Statement (.einj c a tier) :=
  FitsWord.of rfl (by have := c.isLt; have := a.isLt; have := FitsWord.code_tier tier; simp only [wordOf]; omega)
theorem FitsWord.digest (d : BitVec 5) (a : BitVec 6) : FitsWord.Statement (.digest d a) :=
  FitsWord.of rfl (by have := d.isLt; have := a.isLt; simp only [wordOf]; omega)
theorem FitsWord.digestN (d : BitVec 6) (a : BitVec 6) : FitsWord.Statement (.digestN d a) :=
  FitsWord.of rfl (by have := d.isLt; have := a.isLt; simp only [wordOf]; omega)
theorem FitsWord.beq (c : BitVec 6) (a : BitVec 6) (imm : BitVec 14) : FitsWord.Statement (.beq c a imm) :=
  FitsWord.of rfl (by have := c.isLt; have := a.isLt; have := imm.isLt; simp only [wordOf]; omega)
theorem FitsWord.bne (c : BitVec 6) (a : BitVec 6) (imm : BitVec 14) : FitsWord.Statement (.bne c a imm) :=
  FitsWord.of rfl (by have := c.isLt; have := a.isLt; have := imm.isLt; simp only [wordOf]; omega)
theorem FitsWord.blt (c : BitVec 6) (a : BitVec 6) (imm : BitVec 14) : FitsWord.Statement (.blt c a imm) :=
  FitsWord.of rfl (by have := c.isLt; have := a.isLt; have := imm.isLt; simp only [wordOf]; omega)
theorem FitsWord.bge (c : BitVec 6) (a : BitVec 6) (imm : BitVec 14) : FitsWord.Statement (.bge c a imm) :=
  FitsWord.of rfl (by have := c.isLt; have := a.isLt; have := imm.isLt; simp only [wordOf]; omega)
theorem FitsWord.bltu (c : BitVec 6) (a : BitVec 6) (imm : BitVec 14) : FitsWord.Statement (.bltu c a imm) :=
  FitsWord.of rfl (by have := c.isLt; have := a.isLt; have := imm.isLt; simp only [wordOf]; omega)
theorem FitsWord.bgeu (c : BitVec 6) (a : BitVec 6) (imm : BitVec 14) : FitsWord.Statement (.bgeu c a imm) :=
  FitsWord.of rfl (by have := c.isLt; have := a.isLt; have := imm.isLt; simp only [wordOf]; omega)
theorem FitsWord.jal (imm : BitVec 26) : FitsWord.Statement (.jal imm) :=
  FitsWord.of rfl (by have := imm.isLt; simp only [wordOf]; omega)
theorem FitsWord.jalr (d : BitVec 6) (a : BitVec 6) (imm : BitVec 14) : FitsWord.Statement (.jalr d a imm) :=
  FitsWord.of rfl (by have := d.isLt; have := a.isLt; have := imm.isLt; simp only [wordOf]; omega)
theorem FitsWord.rset (h : BitVec 3) (a : BitVec 6) : FitsWord.Statement (.rset h a) :=
  FitsWord.of rfl (by have := h.isLt; have := a.isLt; simp only [wordOf]; omega)
theorem FitsWord.waitf (h : BitVec 3) (m : BitVec 4) : FitsWord.Statement (.waitf h m) :=
  FitsWord.of rfl (by have := h.isLt; have := m.isLt; simp only [wordOf]; omega)
theorem FitsWord.waite (h : BitVec 3) (m : BitVec 4) : FitsWord.Statement (.waite h m) :=
  FitsWord.of rfl (by have := h.isLt; have := m.isLt; simp only [wordOf]; omega)
theorem FitsWord.advp (h : BitVec 3) (m : BitVec 4) : FitsWord.Statement (.advp h m) :=
  FitsWord.of rfl (by have := h.isLt; have := m.isLt; simp only [wordOf]; omega)
theorem FitsWord.advc (h : BitVec 3) (m : BitVec 4) : FitsWord.Statement (.advc h m) :=
  FitsWord.of rfl (by have := h.isLt; have := m.isLt; simp only [wordOf]; omega)
theorem FitsWord.rstat (d : BitVec 6) (h : BitVec 3) (w : BitVec 1) : FitsWord.Statement (.rstat d h w) :=
  FitsWord.of rfl (by have := d.isLt; have := h.isLt; have := w.isLt; simp only [wordOf]; omega)
theorem FitsWord.cpy (a : BitVec 6) (b : BitVec 6) (t : BitVec 6) : FitsWord.Statement (.cpy a b t) :=
  FitsWord.of rfl (by have := a.isLt; have := b.isLt; have := t.isLt; simp only [wordOf]; omega)
theorem FitsWord.cpyr (a : BitVec 6) (b : BitVec 6) (t : BitVec 6) (sc : Scope) (z : BitVec 3) : FitsWord.Statement (.cpyr a b t sc z) :=
  FitsWord.of rfl (by have := a.isLt; have := b.isLt; have := t.isLt; have := FitsWord.code_scope sc; have := z.isLt; simp only [wordOf]; omega)
theorem FitsWord.cpyc (r : BitVec 6) : FitsWord.Statement (.cpyc r) :=
  FitsWord.of rfl (by have := r.isLt; simp only [wordOf]; omega)
theorem FitsWord.cpyq (a : BitVec 6) (t : BitVec 6) : FitsWord.Statement (.cpyq a t) :=
  FitsWord.of rfl (by have := a.isLt; have := t.isLt; simp only [wordOf]; omega)
theorem FitsWord.mma (a : BitVec 6) (b : BitVec 6) (t : BitVec 6) (tile : BitVec 3) : FitsWord.Statement (.mma a b t tile) :=
  FitsWord.of rfl (by have := a.isLt; have := b.isLt; have := t.isLt; have := tile.isLt; simp only [wordOf]; omega)
theorem FitsWord.mmar (a : BitVec 6) (b : BitVec 6) (t : BitVec 6) (tile : BitVec 3) : FitsWord.Statement (.mmar a b t tile) :=
  FitsWord.of rfl (by have := a.isLt; have := b.isLt; have := t.isLt; have := tile.isLt; simp only [wordOf]; omega)
theorem FitsWord.mmaz (a : BitVec 6) (b : BitVec 6) (t : BitVec 6) (tile : BitVec 3) : FitsWord.Statement (.mmaz a b t tile) :=
  FitsWord.of rfl (by have := a.isLt; have := b.isLt; have := t.isLt; have := tile.isLt; simp only [wordOf]; omega)
theorem FitsWord.mcfg (a : BitVec 6) (b : BitVec 6) (t : BitVec 6) : FitsWord.Statement (.mcfg a b t) :=
  FitsWord.of rfl (by have := a.isLt; have := b.isLt; have := t.isLt; simp only [wordOf]; omega)
theorem FitsWord.mcfgRd (a : BitVec 6) (b : BitVec 6) (t : BitVec 6) : FitsWord.Statement (.mcfgRd a b t) :=
  FitsWord.of rfl (by have := a.isLt; have := b.isLt; have := t.isLt; simp only [wordOf]; omega)
theorem FitsWord.minit (a : BitVec 6) (t : BitVec 6) (tile : BitVec 3) : FitsWord.Statement (.minit a t tile) :=
  FitsWord.of rfl (by have := a.isLt; have := t.isLt; have := tile.isLt; simp only [wordOf]; omega)
theorem FitsWord.mrd (a : BitVec 6) (b : BitVec 6) (t : BitVec 6) (tile : BitVec 3) : FitsWord.Statement (.mrd a b t tile) :=
  FitsWord.of rfl (by have := a.isLt; have := b.isLt; have := t.isLt; have := tile.isLt; simp only [wordOf]; omega)
theorem FitsWord.mrdv (a : BitVec 6) (v : BitVec 5) (t : BitVec 6) (tile : BitVec 3) : FitsWord.Statement (.mrdv a v t tile) :=
  FitsWord.of rfl (by have := a.isLt; have := v.isLt; have := t.isLt; have := tile.isLt; simp only [wordOf]; omega)
theorem FitsWord.mlda (a : BitVec 6) (b : BitVec 6) (t : BitVec 6) (tile : BitVec 3) : FitsWord.Statement (.mlda a b t tile) :=
  FitsWord.of rfl (by have := a.isLt; have := b.isLt; have := t.isLt; have := tile.isLt; simp only [wordOf]; omega)
theorem FitsWord.mldaAdd (a : BitVec 6) (b : BitVec 6) (t : BitVec 6) (tile : BitVec 3) : FitsWord.Statement (.mldaAdd a b t tile) :=
  FitsWord.of rfl (by have := a.isLt; have := b.isLt; have := t.isLt; have := tile.isLt; simp only [wordOf]; omega)
theorem FitsWord.msta (a : BitVec 6) (t : BitVec 6) (tile : BitVec 3) : FitsWord.Statement (.msta a t tile) :=
  FitsWord.of rfl (by have := a.isLt; have := t.isLt; have := tile.isLt; simp only [wordOf]; omega)
theorem FitsWord.mstat (a : BitVec 6) (t : BitVec 6) (tile : BitVec 3) : FitsWord.Statement (.mstat a t tile) :=
  FitsWord.of rfl (by have := a.isLt; have := t.isLt; have := tile.isLt; simp only [wordOf]; omega)
theorem FitsWord.mshad (a : BitVec 6) (t : BitVec 6) (tile : BitVec 3) : FitsWord.Statement (.mshad a t tile) :=
  FitsWord.of rfl (by have := a.isLt; have := t.isLt; have := tile.isLt; simp only [wordOf]; omega)
theorem FitsWord.cgrp (a : BitVec 6) (t : BitVec 6) (n : BitVec 2) : FitsWord.Statement (.cgrp a t n) :=
  FitsWord.of rfl (by have := a.isLt; have := t.isLt; have := n.isLt; simp only [wordOf]; omega)
theorem FitsWord.ctab (a : BitVec 6) (t : BitVec 6) (n : BitVec 2) : FitsWord.Statement (.ctab a t n) :=
  FitsWord.of rfl (by have := a.isLt; have := t.isLt; have := n.isLt; simp only [wordOf]; omega)
theorem FitsWord.cstart (a : BitVec 6) (t : BitVec 6) (n : BitVec 2) : FitsWord.Statement (.cstart a t n) :=
  FitsWord.of rfl (by have := a.isLt; have := t.isLt; have := n.isLt; simp only [wordOf]; omega)
theorem FitsWord.tready (a : BitVec 6) (n : BitVec 2) : FitsWord.Statement (.tready a n) :=
  FitsWord.of rfl (by have := a.isLt; have := n.isLt; simp only [wordOf]; omega)
theorem FitsWord.cwait (a : BitVec 6) (t : BitVec 6) (n : BitVec 2) : FitsWord.Statement (.cwait a t n) :=
  FitsWord.of rfl (by have := a.isLt; have := t.isLt; have := n.isLt; simp only [wordOf]; omega)
theorem FitsWord.rdraw (d : BitVec 5) (b : BitVec 5) : FitsWord.Statement (.rdraw d b) :=
  FitsWord.of rfl (by have := d.isLt; have := b.isLt; simp only [wordOf]; omega)
theorem FitsWord.rvec (d : BitVec 5) (b : BitVec 5) (k : BitVec 3) : FitsWord.Statement (.rvec d b k) :=
  FitsWord.of rfl (by have := d.isLt; have := b.isLt; have := k.isLt; simp only [wordOf]; omega)
theorem FitsWord.rmask (k : BitVec 3) (b : BitVec 5) : FitsWord.Statement (.rmask k b) :=
  FitsWord.of rfl (by have := k.isLt; have := b.isLt; simp only [wordOf]; omega)
theorem FitsWord.rkey (d : BitVec 5) (b : BitVec 5) : FitsWord.Statement (.rkey d b) :=
  FitsWord.of rfl (by have := d.isLt; have := b.isLt; simp only [wordOf]; omega)
theorem FitsWord.launch (d : BitVec 6) (a : BitVec 6) : FitsWord.Statement (.launch d a) :=
  FitsWord.of rfl (by have := d.isLt; have := a.isLt; simp only [wordOf]; omega)
theorem FitsWord.depdec (d : BitVec 6) (a : BitVec 6) : FitsWord.Statement (.depdec d a) :=
  FitsWord.of rfl (by have := d.isLt; have := a.isLt; simp only [wordOf]; omega)
theorem FitsWord.tcbq (d : BitVec 6) (a : BitVec 6) : FitsWord.Statement (.tcbq d a) :=
  FitsWord.of rfl (by have := d.isLt; have := a.isLt; simp only [wordOf]; omega)
theorem FitsWord.sendm (a : BitVec 6) (b : BitVec 6) (t : BitVec 6) (nb : Bool) : FitsWord.Statement (.sendm a b t nb) :=
  FitsWord.of rfl (by have := a.isLt; have := b.isLt; have := t.isLt; have := Bool.toNat_le nb; simp only [wordOf]; omega)
theorem FitsWord.recvm (a : BitVec 6) (b : BitVec 6) (t : BitVec 6) (nb : Bool) : FitsWord.Statement (.recvm a b t nb) :=
  FitsWord.of rfl (by have := a.isLt; have := b.isLt; have := t.isLt; have := Bool.toNat_le nb; simp only [wordOf]; omega)
theorem FitsWord.recvmCfg (a : BitVec 6) : FitsWord.Statement (.recvmCfg a) :=
  FitsWord.of rfl (by have := a.isLt; simp only [wordOf]; omega)
theorem FitsWord.vld (v : BitVec 5) (a : BitVec 6) (k : BitVec 3) (imm : BitVec 12) : FitsWord.Statement (.vld v a k imm) :=
  FitsWord.of rfl (by have := v.isLt; have := a.isLt; have := k.isLt; have := imm.isLt; simp only [wordOf]; omega)
theorem FitsWord.vst (v : BitVec 5) (a : BitVec 6) (k : BitVec 3) (imm : BitVec 12) : FitsWord.Statement (.vst v a k imm) :=
  FitsWord.of rfl (by have := v.isLt; have := a.isLt; have := k.isLt; have := imm.isLt; simp only [wordOf]; omega)
theorem FitsWord.vadd (d : BitVec 5) (a : BitVec 5) (b : BitVec 5) (k : BitVec 3) (ty : IntTy) : FitsWord.Statement (.vadd d a b k ty) :=
  FitsWord.of rfl (by have := d.isLt; have := a.isLt; have := b.isLt; have := k.isLt; have := FitsWord.code_intty ty; simp only [wordOf]; omega)
theorem FitsWord.vsub (d : BitVec 5) (a : BitVec 5) (b : BitVec 5) (k : BitVec 3) (ty : IntTy) : FitsWord.Statement (.vsub d a b k ty) :=
  FitsWord.of rfl (by have := d.isLt; have := a.isLt; have := b.isLt; have := k.isLt; have := FitsWord.code_intty ty; simp only [wordOf]; omega)
theorem FitsWord.vmul (d : BitVec 5) (a : BitVec 5) (b : BitVec 5) (k : BitVec 3) (ty : IntTy) : FitsWord.Statement (.vmul d a b k ty) :=
  FitsWord.of rfl (by have := d.isLt; have := a.isLt; have := b.isLt; have := k.isLt; have := FitsWord.code_intty ty; simp only [wordOf]; omega)
theorem FitsWord.vmin (d : BitVec 5) (a : BitVec 5) (b : BitVec 5) (k : BitVec 3) (ty : IntTy) : FitsWord.Statement (.vmin d a b k ty) :=
  FitsWord.of rfl (by have := d.isLt; have := a.isLt; have := b.isLt; have := k.isLt; have := FitsWord.code_intty ty; simp only [wordOf]; omega)
theorem FitsWord.vmax (d : BitVec 5) (a : BitVec 5) (b : BitVec 5) (k : BitVec 3) (ty : IntTy) : FitsWord.Statement (.vmax d a b k ty) :=
  FitsWord.of rfl (by have := d.isLt; have := a.isLt; have := b.isLt; have := k.isLt; have := FitsWord.code_intty ty; simp only [wordOf]; omega)
theorem FitsWord.vand (d : BitVec 5) (a : BitVec 5) (b : BitVec 5) (k : BitVec 3) (ty : IntTy) : FitsWord.Statement (.vand d a b k ty) :=
  FitsWord.of rfl (by have := d.isLt; have := a.isLt; have := b.isLt; have := k.isLt; have := FitsWord.code_intty ty; simp only [wordOf]; omega)
theorem FitsWord.vor (d : BitVec 5) (a : BitVec 5) (b : BitVec 5) (k : BitVec 3) (ty : IntTy) : FitsWord.Statement (.vor d a b k ty) :=
  FitsWord.of rfl (by have := d.isLt; have := a.isLt; have := b.isLt; have := k.isLt; have := FitsWord.code_intty ty; simp only [wordOf]; omega)
theorem FitsWord.vxor (d : BitVec 5) (a : BitVec 5) (b : BitVec 5) (k : BitVec 3) (ty : IntTy) : FitsWord.Statement (.vxor d a b k ty) :=
  FitsWord.of rfl (by have := d.isLt; have := a.isLt; have := b.isLt; have := k.isLt; have := FitsWord.code_intty ty; simp only [wordOf]; omega)
theorem FitsWord.vandn (d : BitVec 5) (a : BitVec 5) (b : BitVec 5) (k : BitVec 3) (ty : IntTy) : FitsWord.Statement (.vandn d a b k ty) :=
  FitsWord.of rfl (by have := d.isLt; have := a.isLt; have := b.isLt; have := k.isLt; have := FitsWord.code_intty ty; simp only [wordOf]; omega)
theorem FitsWord.vshl (d : BitVec 5) (a : BitVec 5) (b : BitVec 5) (k : BitVec 3) (ty : IntTy) : FitsWord.Statement (.vshl d a b k ty) :=
  FitsWord.of rfl (by have := d.isLt; have := a.isLt; have := b.isLt; have := k.isLt; have := FitsWord.code_intty ty; simp only [wordOf]; omega)
theorem FitsWord.vshr (d : BitVec 5) (a : BitVec 5) (b : BitVec 5) (k : BitVec 3) (ty : IntTy) : FitsWord.Statement (.vshr d a b k ty) :=
  FitsWord.of rfl (by have := d.isLt; have := a.isLt; have := b.isLt; have := k.isLt; have := FitsWord.code_intty ty; simp only [wordOf]; omega)
theorem FitsWord.vsar (d : BitVec 5) (a : BitVec 5) (b : BitVec 5) (k : BitVec 3) (ty : IntTy) : FitsWord.Statement (.vsar d a b k ty) :=
  FitsWord.of rfl (by have := d.isLt; have := a.isLt; have := b.isLt; have := k.isLt; have := FitsWord.code_intty ty; simp only [wordOf]; omega)
theorem FitsWord.vadds (d : BitVec 5) (a : BitVec 5) (b : BitVec 5) (k : BitVec 3) (ty : IntTy) : FitsWord.Statement (.vadds d a b k ty) :=
  FitsWord.of rfl (by have := d.isLt; have := a.isLt; have := b.isLt; have := k.isLt; have := FitsWord.code_intty ty; simp only [wordOf]; omega)
theorem FitsWord.vsubs (d : BitVec 5) (a : BitVec 5) (b : BitVec 5) (k : BitVec 3) (ty : IntTy) : FitsWord.Statement (.vsubs d a b k ty) :=
  FitsWord.of rfl (by have := d.isLt; have := a.isLt; have := b.isLt; have := k.isLt; have := FitsWord.code_intty ty; simp only [wordOf]; omega)
theorem FitsWord.vavg (d : BitVec 5) (a : BitVec 5) (b : BitVec 5) (k : BitVec 3) (ty : IntTy) : FitsWord.Statement (.vavg d a b k ty) :=
  FitsWord.of rfl (by have := d.isLt; have := a.isLt; have := b.isLt; have := k.isLt; have := FitsWord.code_intty ty; simp only [wordOf]; omega)
theorem FitsWord.vabs (d : BitVec 5) (a : BitVec 5) (k : BitVec 3) (ty : IntTy) : FitsWord.Statement (.vabs d a k ty) :=
  FitsWord.of rfl (by have := d.isLt; have := a.isLt; have := k.isLt; have := FitsWord.code_intty ty; simp only [wordOf]; omega)
theorem FitsWord.vfadd (d : BitVec 5) (a : BitVec 5) (b : BitVec 5) (k : BitVec 3) (ty : FltTy) : FitsWord.Statement (.vfadd d a b k ty) :=
  FitsWord.of rfl (by have := d.isLt; have := a.isLt; have := b.isLt; have := k.isLt; have := FitsWord.code_fltty ty; simp only [wordOf]; omega)
theorem FitsWord.vfsub (d : BitVec 5) (a : BitVec 5) (b : BitVec 5) (k : BitVec 3) (ty : FltTy) : FitsWord.Statement (.vfsub d a b k ty) :=
  FitsWord.of rfl (by have := d.isLt; have := a.isLt; have := b.isLt; have := k.isLt; have := FitsWord.code_fltty ty; simp only [wordOf]; omega)
theorem FitsWord.vfmul (d : BitVec 5) (a : BitVec 5) (b : BitVec 5) (k : BitVec 3) (ty : FltTy) : FitsWord.Statement (.vfmul d a b k ty) :=
  FitsWord.of rfl (by have := d.isLt; have := a.isLt; have := b.isLt; have := k.isLt; have := FitsWord.code_fltty ty; simp only [wordOf]; omega)
theorem FitsWord.vfmin (d : BitVec 5) (a : BitVec 5) (b : BitVec 5) (k : BitVec 3) (ty : FltTy) : FitsWord.Statement (.vfmin d a b k ty) :=
  FitsWord.of rfl (by have := d.isLt; have := a.isLt; have := b.isLt; have := k.isLt; have := FitsWord.code_fltty ty; simp only [wordOf]; omega)
theorem FitsWord.vfmax (d : BitVec 5) (a : BitVec 5) (b : BitVec 5) (k : BitVec 3) (ty : FltTy) : FitsWord.Statement (.vfmax d a b k ty) :=
  FitsWord.of rfl (by have := d.isLt; have := a.isLt; have := b.isLt; have := k.isLt; have := FitsWord.code_fltty ty; simp only [wordOf]; omega)
theorem FitsWord.vfabs (d : BitVec 5) (a : BitVec 5) (k : BitVec 3) (ty : FltTy) : FitsWord.Statement (.vfabs d a k ty) :=
  FitsWord.of rfl (by have := d.isLt; have := a.isLt; have := k.isLt; have := FitsWord.code_fltty ty; simp only [wordOf]; omega)
theorem FitsWord.vfneg (d : BitVec 5) (a : BitVec 5) (k : BitVec 3) (ty : FltTy) : FitsWord.Statement (.vfneg d a k ty) :=
  FitsWord.of rfl (by have := d.isLt; have := a.isLt; have := k.isLt; have := FitsWord.code_fltty ty; simp only [wordOf]; omega)
theorem FitsWord.vfmaF32 (d : BitVec 5) (a : BitVec 5) (b : BitVec 5) (c : BitVec 5) (k : BitVec 3) : FitsWord.Statement (.vfmaF32 d a b c k) :=
  FitsWord.of rfl (by have := d.isLt; have := a.isLt; have := b.isLt; have := c.isLt; have := k.isLt; simp only [wordOf]; omega)
theorem FitsWord.vfmsF32 (d : BitVec 5) (a : BitVec 5) (b : BitVec 5) (c : BitVec 5) (k : BitVec 3) : FitsWord.Statement (.vfmsF32 d a b c k) :=
  FitsWord.of rfl (by have := d.isLt; have := a.isLt; have := b.isLt; have := c.isLt; have := k.isLt; simp only [wordOf]; omega)
theorem FitsWord.vfnmaF32 (d : BitVec 5) (a : BitVec 5) (b : BitVec 5) (c : BitVec 5) (k : BitVec 3) : FitsWord.Statement (.vfnmaF32 d a b c k) :=
  FitsWord.of rfl (by have := d.isLt; have := a.isLt; have := b.isLt; have := c.isLt; have := k.isLt; simp only [wordOf]; omega)
theorem FitsWord.vfnmsF32 (d : BitVec 5) (a : BitVec 5) (b : BitVec 5) (c : BitVec 5) (k : BitVec 3) : FitsWord.Statement (.vfnmsF32 d a b c k) :=
  FitsWord.of rfl (by have := d.isLt; have := a.isLt; have := b.isLt; have := c.isLt; have := k.isLt; simp only [wordOf]; omega)
theorem FitsWord.vfmaBf16 (d : BitVec 5) (a : BitVec 5) (b : BitVec 5) (c : BitVec 5) (k : BitVec 3) : FitsWord.Statement (.vfmaBf16 d a b c k) :=
  FitsWord.of rfl (by have := d.isLt; have := a.isLt; have := b.isLt; have := c.isLt; have := k.isLt; simp only [wordOf]; omega)
theorem FitsWord.vfmsBf16 (d : BitVec 5) (a : BitVec 5) (b : BitVec 5) (c : BitVec 5) (k : BitVec 3) : FitsWord.Statement (.vfmsBf16 d a b c k) :=
  FitsWord.of rfl (by have := d.isLt; have := a.isLt; have := b.isLt; have := c.isLt; have := k.isLt; simp only [wordOf]; omega)
theorem FitsWord.vfmaF16 (d : BitVec 5) (a : BitVec 5) (b : BitVec 5) (c : BitVec 5) (k : BitVec 3) : FitsWord.Statement (.vfmaF16 d a b c k) :=
  FitsWord.of rfl (by have := d.isLt; have := a.isLt; have := b.isLt; have := c.isLt; have := k.isLt; simp only [wordOf]; omega)
theorem FitsWord.vfmsF16 (d : BitVec 5) (a : BitVec 5) (b : BitVec 5) (c : BitVec 5) (k : BitVec 3) : FitsWord.Statement (.vfmsF16 d a b c k) :=
  FitsWord.of rfl (by have := d.isLt; have := a.isLt; have := b.isLt; have := c.isLt; have := k.isLt; simp only [wordOf]; omega)
theorem FitsWord.vcvt (d : BitVec 5) (a : BitVec 5) (b : BitVec 5) (k : BitVec 3) (rm : RMode) (c : BitVec 3) : FitsWord.Statement (.vcvt d a b k rm c) :=
  FitsWord.of rfl (by have := d.isLt; have := a.isLt; have := b.isLt; have := k.isLt; have := FitsWord.code_rmode rm; have := c.isLt; simp only [wordOf]; omega)
theorem FitsWord.vcvti (d : BitVec 5) (a : BitVec 5) (b : BitVec 5) (k : BitVec 3) (rm : RMode) (c : BitVec 3) : FitsWord.Statement (.vcvti d a b k rm c) :=
  FitsWord.of rfl (by have := d.isLt; have := a.isLt; have := b.isLt; have := k.isLt; have := FitsWord.code_rmode rm; have := c.isLt; simp only [wordOf]; omega)
theorem FitsWord.vcvtf (d : BitVec 5) (a : BitVec 5) (b : BitVec 5) (k : BitVec 3) (rm : RMode) (c : BitVec 3) : FitsWord.Statement (.vcvtf d a b k rm c) :=
  FitsWord.of rfl (by have := d.isLt; have := a.isLt; have := b.isLt; have := k.isLt; have := FitsWord.code_rmode rm; have := c.isLt; simp only [wordOf]; omega)
theorem FitsWord.vpack (d : BitVec 5) (a : BitVec 5) (b : BitVec 5) (k : BitVec 3) (rm : RMode) (fmt : PackFmt) : FitsWord.Statement (.vpack d a b k rm fmt) :=
  FitsWord.of rfl (by have := d.isLt; have := a.isLt; have := b.isLt; have := k.isLt; have := FitsWord.code_rmode rm; have := FitsWord.code_packfmt fmt; simp only [wordOf]; omega)
theorem FitsWord.vunpk (d : BitVec 5) (a : BitVec 5) (b : BitVec 5) (k : BitVec 3) (rm : RMode) (fmt : PackFmt) : FitsWord.Statement (.vunpk d a b k rm fmt) :=
  FitsWord.of rfl (by have := d.isLt; have := a.isLt; have := b.isLt; have := k.isLt; have := FitsWord.code_rmode rm; have := FitsWord.code_packfmt fmt; simp only [wordOf]; omega)
theorem FitsWord.vscale (d : BitVec 5) (a : BitVec 5) (b : BitVec 5) (k : BitVec 3) (rm : RMode) (ty : FltTy) : FitsWord.Statement (.vscale d a b k rm ty) :=
  FitsWord.of rfl (by have := d.isLt; have := a.isLt; have := b.isLt; have := k.isLt; have := FitsWord.code_rmode rm; have := FitsWord.code_fltty ty; simp only [wordOf]; omega)
theorem FitsWord.vshuf (d : BitVec 5) (a : BitVec 5) (b : BitVec 5) (k : BitVec 3) (w : Width) : FitsWord.Statement (.vshuf d a b k w) :=
  FitsWord.of rfl (by have := d.isLt; have := a.isLt; have := b.isLt; have := k.isLt; have := FitsWord.code_width w; simp only [wordOf]; omega)
theorem FitsWord.vbcst (d : BitVec 5) (b : BitVec 5) (k : BitVec 3) (w : Width) : FitsWord.Statement (.vbcst d b k w) :=
  FitsWord.of rfl (by have := d.isLt; have := b.isLt; have := k.isLt; have := FitsWord.code_width w; simp only [wordOf]; omega)
theorem FitsWord.vins (d : BitVec 5) (imm : BitVec 5) (b : BitVec 5) (k : BitVec 3) (w : Width) : FitsWord.Statement (.vins d imm b k w) :=
  FitsWord.of rfl (by have := d.isLt; have := imm.isLt; have := b.isLt; have := k.isLt; have := FitsWord.code_width w; simp only [wordOf]; omega)
theorem FitsWord.vext (d : BitVec 5) (a : BitVec 5) (imm : BitVec 5) (w : Width) : FitsWord.Statement (.vext d a imm w) :=
  FitsWord.of rfl (by have := d.isLt; have := a.isLt; have := imm.isLt; have := FitsWord.code_width w; simp only [wordOf]; omega)
theorem FitsWord.vrot (d : BitVec 5) (a : BitVec 5) (b : BitVec 5) (k : BitVec 3) (w : Width) : FitsWord.Statement (.vrot d a b k w) :=
  FitsWord.of rfl (by have := d.isLt; have := a.isLt; have := b.isLt; have := k.isLt; have := FitsWord.code_width w; simp only [wordOf]; omega)
theorem FitsWord.vzip (d : BitVec 5) (a : BitVec 5) (b : BitVec 5) (k : BitVec 3) (hi : Bool) (w : Width) : FitsWord.Statement (.vzip d a b k hi w) :=
  FitsWord.of rfl (by have := d.isLt; have := a.isLt; have := b.isLt; have := k.isLt; have := Bool.toNat_le hi; have := FitsWord.code_width w; simp only [wordOf]; omega)
theorem FitsWord.vuzp (d : BitVec 5) (a : BitVec 5) (b : BitVec 5) (k : BitVec 3) (hi : Bool) (w : Width) : FitsWord.Statement (.vuzp d a b k hi w) :=
  FitsWord.of rfl (by have := d.isLt; have := a.isLt; have := b.isLt; have := k.isLt; have := Bool.toNat_le hi; have := FitsWord.code_width w; simp only [wordOf]; omega)
theorem FitsWord.vredadd (d : BitVec 5) (a : BitVec 5) (k : BitVec 3) (ty : NumTy) : FitsWord.Statement (.vredadd d a k ty) :=
  FitsWord.of rfl (by have := d.isLt; have := a.isLt; have := k.isLt; have := FitsWord.code_numty ty; simp only [wordOf]; omega)
theorem FitsWord.vredmax (d : BitVec 5) (a : BitVec 5) (k : BitVec 3) (ty : NumTy) : FitsWord.Statement (.vredmax d a k ty) :=
  FitsWord.of rfl (by have := d.isLt; have := a.isLt; have := k.isLt; have := FitsWord.code_numty ty; simp only [wordOf]; omega)
theorem FitsWord.vredmin (d : BitVec 5) (a : BitVec 5) (k : BitVec 3) (ty : NumTy) : FitsWord.Statement (.vredmin d a k ty) :=
  FitsWord.of rfl (by have := d.isLt; have := a.isLt; have := k.isLt; have := FitsWord.code_numty ty; simp only [wordOf]; omega)
theorem FitsWord.vredand (d : BitVec 5) (a : BitVec 5) (k : BitVec 3) (ty : IntTy) : FitsWord.Statement (.vredand d a k ty) :=
  FitsWord.of rfl (by have := d.isLt; have := a.isLt; have := k.isLt; have := FitsWord.code_intty ty; simp only [wordOf]; omega)
theorem FitsWord.vredor (d : BitVec 5) (a : BitVec 5) (k : BitVec 3) (ty : IntTy) : FitsWord.Statement (.vredor d a k ty) :=
  FitsWord.of rfl (by have := d.isLt; have := a.isLt; have := k.isLt; have := FitsWord.code_intty ty; simp only [wordOf]; omega)
theorem FitsWord.vredxor (d : BitVec 5) (a : BitVec 5) (k : BitVec 3) (ty : IntTy) : FitsWord.Statement (.vredxor d a k ty) :=
  FitsWord.of rfl (by have := d.isLt; have := a.isLt; have := k.isLt; have := FitsWord.code_intty ty; simp only [wordOf]; omega)
theorem FitsWord.vcmpInt (d : BitVec 3) (a : BitVec 5) (b : BitVec 5) (k : BitVec 3) (cond : Cond) (ty : IntTy) : FitsWord.Statement (.vcmpInt d a b k cond ty) :=
  FitsWord.of rfl (by have := d.isLt; have := a.isLt; have := b.isLt; have := k.isLt; have := FitsWord.code_cond cond; have := FitsWord.code_intty ty; simp only [wordOf]; omega)
theorem FitsWord.vcmpFlt (d : BitVec 3) (a : BitVec 5) (b : BitVec 5) (k : BitVec 3) (cond : Cond) (ty : FltTy) : FitsWord.Statement (.vcmpFlt d a b k cond ty) :=
  FitsWord.of rfl (by have := d.isLt; have := a.isLt; have := b.isLt; have := k.isLt; have := FitsWord.code_cond cond; have := FitsWord.code_fltty ty; simp only [wordOf]; omega)
theorem FitsWord.vsel (d : BitVec 5) (a : BitVec 5) (b : BitVec 5) (k : BitVec 3) (w : Width) : FitsWord.Statement (.vsel d a b k w) :=
  FitsWord.of rfl (by have := d.isLt; have := a.isLt; have := b.isLt; have := k.isLt; have := FitsWord.code_width w; simp only [wordOf]; omega)
theorem FitsWord.kand (d : BitVec 3) (a : BitVec 3) (b : BitVec 3) : FitsWord.Statement (.kand d a b) :=
  FitsWord.of rfl (by have := d.isLt; have := a.isLt; have := b.isLt; simp only [wordOf]; omega)
theorem FitsWord.kor (d : BitVec 3) (a : BitVec 3) (b : BitVec 3) : FitsWord.Statement (.kor d a b) :=
  FitsWord.of rfl (by have := d.isLt; have := a.isLt; have := b.isLt; simp only [wordOf]; omega)
theorem FitsWord.kxor (d : BitVec 3) (a : BitVec 3) (b : BitVec 3) : FitsWord.Statement (.kxor d a b) :=
  FitsWord.of rfl (by have := d.isLt; have := a.isLt; have := b.isLt; simp only [wordOf]; omega)
theorem FitsWord.knot (d : BitVec 3) (a : BitVec 3) : FitsWord.Statement (.knot d a) :=
  FitsWord.of rfl (by have := d.isLt; have := a.isLt; simp only [wordOf]; omega)
theorem FitsWord.kpop (d : BitVec 5) (a : BitVec 3) : FitsWord.Statement (.kpop d a) :=
  FitsWord.of rfl (by have := d.isLt; have := a.isLt; simp only [wordOf]; omega)
theorem FitsWord.kffs (d : BitVec 5) (a : BitVec 3) : FitsWord.Statement (.kffs d a) :=
  FitsWord.of rfl (by have := d.isLt; have := a.isLt; simp only [wordOf]; omega)
theorem FitsWord.kmov (d : BitVec 3) (a : BitVec 3) : FitsWord.Statement (.kmov d a) :=
  FitsWord.of rfl (by have := d.isLt; have := a.isLt; simp only [wordOf]; omega)
theorem FitsWord.kmovExpand (d : BitVec 3) (a : BitVec 3) (f : BitVec 2) : FitsWord.Statement (.kmovExpand d a f) :=
  FitsWord.of rfl (by have := d.isLt; have := a.isLt; have := f.isLt; simp only [wordOf]; omega)
theorem FitsWord.kmovFromG (d : BitVec 3) (b : BitVec 5) : FitsWord.Statement (.kmovFromG d b) :=
  FitsWord.of rfl (by have := d.isLt; have := b.isLt; simp only [wordOf]; omega)
theorem FitsWord.kmovToG (d : BitVec 5) (a : BitVec 3) : FitsWord.Statement (.kmovToG d a) :=
  FitsWord.of rfl (by have := d.isLt; have := a.isLt; simp only [wordOf]; omega)
theorem FitsWord.vlop3 (d : BitVec 5) (a : BitVec 5) (b : BitVec 4) (k : BitVec 3) (t : BitVec 8) : FitsWord.Statement (.vlop3 d a b k t) :=
  FitsWord.of rfl (by have := d.isLt; have := a.isLt; have := b.isLt; have := k.isLt; have := t.isLt; simp only [wordOf]; omega)
theorem FitsWord.vfshl (d : BitVec 5) (a : BitVec 5) (b : BitVec 4) (k : BitVec 3) (w : Width) (s : BitVec 6) : FitsWord.Statement (.vfshl d a b k w s) :=
  FitsWord.of rfl (by have := d.isLt; have := a.isLt; have := b.isLt; have := k.isLt; have := FitsWord.code_width w; have := s.isLt; simp only [wordOf]; omega)
theorem FitsWord.vclz (d : BitVec 5) (a : BitVec 5) (k : BitVec 3) (w : Width) : FitsWord.Statement (.vclz d a k w) :=
  FitsWord.of rfl (by have := d.isLt; have := a.isLt; have := k.isLt; have := FitsWord.code_width w; simp only [wordOf]; omega)
theorem FitsWord.vctz (d : BitVec 5) (a : BitVec 5) (k : BitVec 3) (w : Width) : FitsWord.Statement (.vctz d a k w) :=
  FitsWord.of rfl (by have := d.isLt; have := a.isLt; have := k.isLt; have := FitsWord.code_width w; simp only [wordOf]; omega)
theorem FitsWord.vpopc (d : BitVec 5) (a : BitVec 5) (k : BitVec 3) (w : Width) : FitsWord.Statement (.vpopc d a k w) :=
  FitsWord.of rfl (by have := d.isLt; have := a.isLt; have := k.isLt; have := FitsWord.code_width w; simp only [wordOf]; omega)
theorem FitsWord.vrcp (d : BitVec 5) (a : BitVec 5) (k : BitVec 3) : FitsWord.Statement (.vrcp d a k) :=
  FitsWord.of rfl (by have := d.isLt; have := a.isLt; have := k.isLt; simp only [wordOf]; omega)
theorem FitsWord.vrsq (d : BitVec 5) (a : BitVec 5) (k : BitVec 3) : FitsWord.Statement (.vrsq d a k) :=
  FitsWord.of rfl (by have := d.isLt; have := a.isLt; have := k.isLt; simp only [wordOf]; omega)
theorem FitsWord.vsqrt (d : BitVec 5) (a : BitVec 5) (k : BitVec 3) : FitsWord.Statement (.vsqrt d a k) :=
  FitsWord.of rfl (by have := d.isLt; have := a.isLt; have := k.isLt; simp only [wordOf]; omega)
theorem FitsWord.vexp2 (d : BitVec 5) (a : BitVec 5) (k : BitVec 3) : FitsWord.Statement (.vexp2 d a k) :=
  FitsWord.of rfl (by have := d.isLt; have := a.isLt; have := k.isLt; simp only [wordOf]; omega)
theorem FitsWord.vlog2 (d : BitVec 5) (a : BitVec 5) (k : BitVec 3) : FitsWord.Statement (.vlog2 d a k) :=
  FitsWord.of rfl (by have := d.isLt; have := a.isLt; have := k.isLt; simp only [wordOf]; omega)
theorem FitsWord.vldb (d : BitVec 5) (b : BitVec 5) (k : BitVec 3) (w : Width) : FitsWord.Statement (.vldb d b k w) :=
  FitsWord.of rfl (by have := d.isLt; have := b.isLt; have := k.isLt; have := FitsWord.code_width w; simp only [wordOf]; omega)
theorem FitsWord.vgath (d : BitVec 5) (a : BitVec 5) (b : BitVec 5) (k : BitVec 3) (w : Width) : FitsWord.Statement (.vgath d a b k w) :=
  FitsWord.of rfl (by have := d.isLt; have := a.isLt; have := b.isLt; have := k.isLt; have := FitsWord.code_width w; simp only [wordOf]; omega)
theorem FitsWord.vscat (d : BitVec 5) (a : BitVec 5) (b : BitVec 5) (k : BitVec 3) (w : Width) : FitsWord.Statement (.vscat d a b k w) :=
  FitsWord.of rfl (by have := d.isLt; have := a.isLt; have := b.isLt; have := k.isLt; have := FitsWord.code_width w; simp only [wordOf]; omega)
theorem FitsWord.immx (p : BitVec 22) : FitsWord.Statement (.immx p) :=
  FitsWord.of rfl (by have := p.isLt; simp only [wordOf]; omega)
theorem FitsWord.prio (n : BitVec 3) : FitsWord.Statement (.prio n) :=
  FitsWord.of rfl (by have := n.isLt; simp only [wordOf]; omega)
theorem FitsWord.rev (n : BitVec 8) : FitsWord.Statement (.rev n) :=
  FitsWord.of rfl (by have := n.isLt; simp only [wordOf]; omega)
theorem FitsWord.likely (taken : Bool) : FitsWord.Statement (.likely taken) :=
  FitsWord.of rfl (by have := Bool.toNat_le taken; simp only [wordOf]; omega)
theorem FitsWord.spin (a : BitVec 6) : FitsWord.Statement (.spin a) :=
  FitsWord.of rfl (by have := a.isLt; simp only [wordOf]; omega)
theorem FitsWord.hnop (k : BitVec 4) (p : BitVec 22) : FitsWord.Statement (.hnop k p) :=
  FitsWord.of rfl (by have := k.isLt; have := p.isLt; simp only [wordOf]; omega)
theorem FitsWord.endCtx : FitsWord.Statement .endCtx :=
  FitsWord.of rfl (by simp only [wordOf]; omega)
theorem FitsWord.yield : FitsWord.Statement .yield :=
  FitsWord.of rfl (by simp only [wordOf]; omega)
theorem FitsWord.fuse : FitsWord.Statement .fuse :=
  FitsWord.of rfl (by simp only [wordOf]; omega)
theorem FitsWord.split : FitsWord.Statement .split :=
  FitsWord.of rfl (by simp only [wordOf]; omega)
theorem FitsWord.eret : FitsWord.Statement .eret :=
  FitsWord.of rfl (by simp only [wordOf]; omega)
theorem FitsWord.halt : FitsWord.Statement .halt :=
  FitsWord.of rfl (by simp only [wordOf]; omega)
theorem FitsWord.efence : FitsWord.Statement .efence :=
  FitsWord.of rfl (by simp only [wordOf]; omega)
theorem FitsWord.nofold : FitsWord.Statement .nofold :=
  FitsWord.of rfl (by simp only [wordOf]; omega)
theorem FitsWord.hostAppend (off : BitVec 12) (size : Nat) (t : Word) : FitsWord.Statement (.hostAppend off size t) :=
  FitsWord.ofNone rfl
theorem FitsWord.queueEnable (q : BitVec 6) : FitsWord.Statement (.queueEnable q) :=
  FitsWord.ofNone rfl
theorem FitsWord.queueDisable (q : BitVec 6) : FitsWord.Statement (.queueDisable q) :=
  FitsWord.ofNone rfl
theorem FitsWord.dispatcherWakeup (q : BitVec 6) : FitsWord.Statement (.dispatcherWakeup q) :=
  FitsWord.ofNone rfl
theorem FitsWord.dispatcherLinkChange (q : BitVec 6) : FitsWord.Statement (.dispatcherLinkChange q) :=
  FitsWord.ofNone rfl
theorem FitsWord.dispatcherSelect (binding : List Nat) : FitsWord.Statement (.dispatcherSelect binding) :=
  FitsWord.ofNone rfl
theorem FitsWord.bindingRequest (task : Word) (group : Nat) (package : BitVec 13) (msg : BindMsg) : FitsWord.Statement (.bindingRequest task group package msg) :=
  FitsWord.ofNone rfl
theorem FitsWord.bindingWithdraw (task : HeldTask) : FitsWord.Statement (.bindingWithdraw task) :=
  FitsWord.ofNone rfl
theorem FitsWord.firstPlacement (core : CoreId) : FitsWord.Statement (.firstPlacement core) :=
  FitsWord.ofNone rfl
theorem FitsWord.replaceLogicalCore (core : CoreId) (slot : Nat) : FitsWord.Statement (.replaceLogicalCore core slot) :=
  FitsWord.ofNone rfl
theorem FitsWord.quantumExpiry (slot : Nat) : FitsWord.Statement (.quantumExpiry slot) :=
  FitsWord.ofNone rfl
theorem FitsWord.timeSliceSwitch (slot : Nat) : FitsWord.Statement (.timeSliceSwitch slot) :=
  FitsWord.ofNone rfl
theorem FitsWord.contextSave (core : CoreId) : FitsWord.Statement (.contextSave core) :=
  FitsWord.ofNone rfl
theorem FitsWord.contextRestore (core : CoreId) : FitsWord.Statement (.contextRestore core) :=
  FitsWord.ofNone rfl
theorem FitsWord.watchdogExpiry (task : Word) : FitsWord.Statement (.watchdogExpiry task) :=
  FitsWord.ofNone rfl
theorem FitsWord.cancelTask (t : Word) : FitsWord.Statement (.cancelTask t) :=
  FitsWord.ofNone rfl
theorem FitsWord.fenceCore (slot : Nat) (out : Bool) : FitsWord.Statement (.fenceCore slot out) :=
  FitsWord.ofNone rfl
theorem FitsWord.xboundRaiseComplete (core : CoreId) : FitsWord.Statement (.xboundRaiseComplete core) :=
  FitsWord.ofNone rfl
theorem FitsWord.takeEvent (c : CtxId) : FitsWord.Statement (.takeEvent c) :=
  FitsWord.ofNone rfl
theorem FitsWord.loadDataReturn (c : CtxId) (reply : HostReply) : FitsWord.Statement (.loadDataReturn c reply) :=
  FitsWord.ofNone rfl
theorem FitsWord.helperStopEnd (c : CtxId) : FitsWord.Statement (.helperStopEnd c) :=
  FitsWord.ofNone rfl
theorem FitsWord.spinWaitEnd (c : CtxId) (why : SpinEnd) : FitsWord.Statement (.spinWaitEnd c why) :=
  FitsWord.ofNone rfl
theorem FitsWord.sfuRequestStart (cluster : Nat) : FitsWord.Statement (.sfuRequestStart cluster) :=
  FitsWord.ofNone rfl
theorem FitsWord.sfuResultWrite (cluster : Nat) : FitsWord.Statement (.sfuResultWrite cluster) :=
  FitsWord.ofNone rfl
theorem FitsWord.matrixCommandTake (core : CoreId) : FitsWord.Statement (.matrixCommandTake core) :=
  FitsWord.ofNone rfl
theorem FitsWord.matrixCommandEnd (core : CoreId) : FitsWord.Statement (.matrixCommandEnd core) :=
  FitsWord.ofNone rfl
theorem FitsWord.mmarSlotReady (core : CoreId) : FitsWord.Statement (.mmarSlotReady core) :=
  FitsWord.ofNone rfl
theorem FitsWord.objectCacheFill (core : CoreId) (handle : Nat) : FitsWord.Statement (.objectCacheFill core handle) :=
  FitsWord.ofNone rfl
theorem FitsWord.translationWalk (die : Nat) (extents : Nat) (f : Nat) : FitsWord.Statement (.translationWalk die extents f) :=
  FitsWord.ofNone rfl
theorem FitsWord.frameNotResidentFault (c : CtxId) (batch : List Word) : FitsWord.Statement (.frameNotResidentFault c batch) :=
  FitsWord.ofNone rfl
theorem FitsWord.residencyServiceEnd (die : Nat) (entry : Option Word) : FitsWord.Statement (.residencyServiceEnd die entry) :=
  FitsWord.ofNone rfl
theorem FitsWord.frameMovingWrite (entry : Nat) : FitsWord.Statement (.frameMovingWrite entry) :=
  FitsWord.ofNone rfl
theorem FitsWord.portShootdown (die : Nat) (entry : Nat) : FitsWord.Statement (.portShootdown die entry) :=
  FitsWord.ofNone rfl
theorem FitsWord.shootdownFinish (entry : Nat) (word : Word) : FitsWord.Statement (.shootdownFinish entry word) :=
  FitsWord.ofNone rfl
theorem FitsWord.migrationEvaluate (die : Nat) (core : CoreId) (ref : Word) (q free stack frame : Nat) : FitsWord.Statement (.migrationEvaluate die core ref q free stack frame) :=
  FitsWord.ofNone rfl
theorem FitsWord.accessCountHalving : FitsWord.Statement .accessCountHalving :=
  FitsWord.ofNone rfl
theorem FitsWord.remoteRouteTimeout (package : BitVec 13) : FitsWord.Statement (.remoteRouteTimeout package) :=
  FitsWord.ofNone rfl
theorem FitsWord.farAtomic : FitsWord.Statement .farAtomic :=
  FitsWord.ofNone rfl
theorem FitsWord.redApply : FitsWord.Statement .redApply :=
  FitsWord.ofNone rfl
theorem FitsWord.redaccApply : FitsWord.Statement .redaccApply :=
  FitsWord.ofNone rfl
theorem FitsWord.copyTake (core : CoreId) : FitsWord.Statement (.copyTake core) :=
  FitsWord.ofNone rfl
theorem FitsWord.copyComplete (core : CoreId) (place : Nat) : FitsWord.Statement (.copyComplete core place) :=
  FitsWord.ofNone rfl
theorem FitsWord.copyRingSlotReady (core : CoreId) (place : Nat) : FitsWord.Statement (.copyRingSlotReady core place) :=
  FitsWord.ofNone rfl
theorem FitsWord.copyFrameFault (core : CoreId) (place : Nat) : FitsWord.Statement (.copyFrameFault core place) :=
  FitsWord.ofNone rfl
theorem FitsWord.dirGets (cluster : Nat) (line : Nat) : FitsWord.Statement (.dirGets cluster line) :=
  FitsWord.ofNone rfl
theorem FitsWord.dirGetx (cluster : Nat) (line : Nat) : FitsWord.Statement (.dirGetx cluster line) :=
  FitsWord.ofNone rfl
theorem FitsWord.dirPut (cluster : Nat) (line : Nat) : FitsWord.Statement (.dirPut cluster line) :=
  FitsWord.ofNone rfl
theorem FitsWord.dirForward (line : Nat) : FitsWord.Statement (.dirForward line) :=
  FitsWord.ofNone rfl
theorem FitsWord.dirInvalidate (cluster : Nat) (line : Nat) : FitsWord.Statement (.dirInvalidate cluster line) :=
  FitsWord.ofNone rfl
theorem FitsWord.dirGrant (line : Nat) : FitsWord.Statement (.dirGrant line) :=
  FitsWord.ofNone rfl
theorem FitsWord.dirTransactionComplete (line : Nat) : FitsWord.Statement (.dirTransactionComplete line) :=
  FitsWord.ofNone rfl
theorem FitsWord.proxyRequest (package : BitVec 13) (line : Nat) (msg : ProxyMsg) : FitsWord.Statement (.proxyRequest package line msg) :=
  FitsWord.ofNone rfl
theorem FitsWord.conjunctionDieLoss (cdie : BitVec 1) : FitsWord.Statement (.conjunctionDieLoss cdie) :=
  FitsWord.ofNone rfl
theorem FitsWord.conjunctionTakeoverComplete : FitsWord.Statement .conjunctionTakeoverComplete :=
  FitsWord.ofNone rfl
theorem FitsWord.bothConjunctionLoss : FitsWord.Statement .bothConjunctionLoss :=
  FitsWord.ofNone rfl
theorem FitsWord.linkStateMessage (package : BitVec 13) (reachable : Bool) : FitsWord.Statement (.linkStateMessage package reachable) :=
  FitsWord.ofNone rfl
theorem FitsWord.remoteEpochChange (package : BitVec 13) (epoch : BitVec 32) : FitsWord.Statement (.remoteEpochChange package epoch) :=
  FitsWord.ofNone rfl
theorem FitsWord.remotePowerDown (package : BitVec 13) : FitsWord.Statement (.remotePowerDown package) :=
  FitsWord.ofNone rfl
theorem FitsWord.dcmdRead (cdie : BitVec 1) : FitsWord.Statement (.dcmdRead cdie) :=
  FitsWord.ofNone rfl
theorem FitsWord.dcmdClearLost (cdie : BitVec 1) : FitsWord.Statement (.dcmdClearLost cdie) :=
  FitsWord.ofNone rfl
theorem FitsWord.dcmdRecall (cdie : BitVec 1) : FitsWord.Statement (.dcmdRecall cdie) :=
  FitsWord.ofNone rfl
theorem FitsWord.arrivalSignal (core : CoreId) (chan : BitVec 2) : FitsWord.Statement (.arrivalSignal core chan) :=
  FitsWord.ofNone rfl
theorem FitsWord.collTake (core : CoreId) : FitsWord.Statement (.collTake core) :=
  FitsWord.ofNone rfl
theorem FitsWord.collPacketArrival (core : CoreId) : FitsWord.Statement (.collPacketArrival core) :=
  FitsWord.ofNone rfl
theorem FitsWord.collAbort (core : CoreId) (slot : BitVec 2) : FitsWord.Statement (.collAbort core slot) :=
  FitsWord.ofNone rfl
theorem FitsWord.sendmTake (core : CoreId) : FitsWord.Statement (.sendmTake core) :=
  FitsWord.ofNone rfl
theorem FitsWord.sendmRetry (core : CoreId) : FitsWord.Statement (.sendmRetry core) :=
  FitsWord.ofNone rfl
theorem FitsWord.rollback (core : CoreId) (trigger : RbTrigger) : FitsWord.Statement (.rollback core trigger) :=
  FitsWord.ofNone rfl
theorem FitsWord.twinMessageCompare (task : Word) (lcore : Nat) (ctx : Nat) : FitsWord.Statement (.twinMessageCompare task lcore ctx) :=
  FitsWord.ofNone rfl
theorem FitsWord.fenceRegisterWrite (value : Word) : FitsWord.Statement (.fenceRegisterWrite value) :=
  FitsWord.ofNone rfl
theorem FitsWord.dieFence (die : BitVec 3) (level : BitVec 2) (trigger : FenceTrigger) : FitsWord.Statement (.dieFence die level trigger) :=
  FitsWord.ofNone rfl
theorem FitsWord.supplyThermalFault (die : BitVec 3) : FitsWord.Statement (.supplyThermalFault die) :=
  FitsWord.ofNone rfl
theorem FitsWord.retireTask (task : Word) : FitsWord.Statement (.retireTask task) :=
  FitsWord.ofNone rfl
theorem FitsWord.chainAdvance (q : BitVec 6) : FitsWord.Statement (.chainAdvance q) :=
  FitsWord.ofNone rfl
theorem FitsWord.digestFoldTimer : FitsWord.Statement .digestFoldTimer :=
  FitsWord.ofNone rfl
theorem FitsWord.meteringFoldTimer : FitsWord.Statement .meteringFoldTimer :=
  FitsWord.ofNone rfl
theorem FitsWord.meteringReadMessage (n : BitVec 32) : FitsWord.Statement (.meteringReadMessage n) :=
  FitsWord.ofNone rfl
theorem FitsWord.hostCompletionTimeout (c : CtxId) : FitsWord.Statement (.hostCompletionTimeout c) :=
  FitsWord.ofNone rfl
theorem FitsWord.hostLinkDown : FitsWord.Statement .hostLinkDown :=
  FitsWord.ofNone rfl
theorem FitsWord.flitArrival (port : BitVec 7) (flit : Flit) : FitsWord.Statement (.flitArrival port flit) :=
  FitsWord.ofNone rfl
theorem FitsWord.flowStop (port : BitVec 7) (cls : BitVec 2) : FitsWord.Statement (.flowStop port cls) :=
  FitsWord.ofNone rfl
theorem FitsWord.flowGo (port : BitVec 7) (cls : BitVec 2) : FitsWord.Statement (.flowGo port cls) :=
  FitsWord.ofNone rfl
theorem FitsWord.linkReplay (port : BitVec 7) : FitsWord.Statement (.linkReplay port) :=
  FitsWord.ofNone rfl
theorem FitsWord.linkRetrainTimeout (port : BitVec 7) : FitsWord.Statement (.linkRetrainTimeout port) :=
  FitsWord.ofNone rfl
theorem FitsWord.coldStart (verified : Bool) : FitsWord.Statement (.coldStart verified) :=
  FitsWord.ofNone rfl
theorem FitsWord.warmStart (verified : Bool) : FitsWord.Statement (.warmStart verified) :=
  FitsWord.ofNone rfl
theorem FitsWord.dieEnterService (die : BitVec 3) (found : DieStart) : FitsWord.Statement (.dieEnterService die found) :=
  FitsWord.ofNone rfl
theorem FitsWord.powerEstimate (watts : Nat) : FitsWord.Statement (.powerEstimate watts) :=
  FitsWord.ofNone rfl
theorem FitsWord.getVersion : FitsWord.Statement .getVersion :=
  FitsWord.ofNone rfl
theorem FitsWord.getCapabilities : FitsWord.Statement .getCapabilities :=
  FitsWord.ofNone rfl
theorem FitsWord.negotiateAlgorithms (rsa3072 : Bool) (sha256 : Bool) : FitsWord.Statement (.negotiateAlgorithms rsa3072 sha256) :=
  FitsWord.ofNone rfl
theorem FitsWord.getDigests : FitsWord.Statement .getDigests :=
  FitsWord.ofNone rfl
theorem FitsWord.getCertificate (slot : BitVec 3) : FitsWord.Statement (.getCertificate slot) :=
  FitsWord.ofNone rfl
theorem FitsWord.challenge (slot : BitVec 3) (nonce : List Byte) : FitsWord.Statement (.challenge slot nonce) :=
  FitsWord.ofNone rfl
theorem FitsWord.getMeasurements (index : BitVec 8) : FitsWord.Statement (.getMeasurements index) :=
  FitsWord.ofNone rfl
theorem FitsWord.spdmUnsupportedRequest (code : Byte) : FitsWord.Statement (.spdmUnsupportedRequest code) :=
  FitsWord.ofNone rfl
theorem FitsWord.registerWrite (r : DevReg) (value : Word) : FitsWord.Statement (.registerWrite r value) :=
  FitsWord.ofNone rfl
theorem FitsWord.ill (w : BitVec 32) : FitsWord.Statement (.ill w) :=
  FitsWord.ofNone rfl
theorem FitsWord.xfetch (off : BitVec 21) : FitsWord.Statement (.xfetch off) :=
  FitsWord.ofNone rfl
theorem FitsWord.ageingSample (die : BitVec 3) (reading : AgeReading) : FitsWord.Statement (.ageingSample die reading) :=
  FitsWord.ofNone rfl
theorem FitsWord.chainRecordWrite (q : BitVec 6) (value : List Byte) (folded : Word) : FitsWord.Statement (.chainRecordWrite q value folded) :=
  FitsWord.ofNone rfl
theorem FitsWord.ownerChainProvisioning (chain : List Byte) : FitsWord.Statement (.ownerChainProvisioning chain) :=
  FitsWord.ofNone rfl

end Sys2Proof.Laws
end

