-- ==== Sys2Proof/Machine/Reads.lean ====
section
/-! DEFINITION. What a read of a device register, or of a record that the hardware keeps in device-private control memory,
returns to the host or to supervisor firmware. A read changes nothing, so it is a function of the state and no event. -/

namespace Sys2Proof.Machine

/-- A place that the host or supervisor firmware reads as one 64-bit word. -/
inductive DevRead
  /-- word `w` of a queue's header line (R76). -/
  | header (q : BitVec 6) (w : Nat)
  /-- word `w` of a queue's configuration record (R77). -/
  | queueCfg (q : BitVec 6) (w : Nat)
  /-- word `w` of the cancel register (R95). -/
  | cancel (w : Nat)
  /-- the placement control register (R104). -/
  | placeCtl
  /-- word `w` of a Conjunction die's dispatcher status window (R108). -/
  | status (w : Nat)
  /-- the queue masks (R186, R395, R438). -/
  | supervisorMask
  | injectionMask
  | testMask
  /-- a queue's severity policy entry (R422). -/
  | sevpolEntry (q : BitVec 6)
  /-- word `w` of entry `r` of a die's residency queue (R263). -/
  | residency (die : BitVec 3) (r w : Nat)
  /-- a memory port's coefficients (R268). -/
  | migc0 (die : BitVec 3)
  | migc1 (die : BitVec 3)
  /-- a die's mixed-size check mask (R330). -/
  | mixedMask (die : BitVec 3)
  /-- word `w` of a Conjunction die's control window (R348). -/
  | control (cdie : BitVec 1) (w : Nat)
  /-- word `w` of a die's overflow list configuration (R381). -/
  | overflow (die : BitVec 3) (w : Nat)
  /-- word `w` of a die's telemetry ring configuration (R424). -/
  | telemetry (die : BitVec 3) (w : Nat)
  /-- the fence register (R435). -/
  | fence
  /-- word `w` of a queue's chain record (R444). -/
  | chain (q : BitVec 6) (w : Nat)
  /-- entry `i` of a die's energy coefficient table (R448). -/
  | energy (die : BitVec 3) (i : BitVec 5)
  /-- word `w` of a metering context record (R449). -/
  | meter (n : BitVec 32) (w : Nat)
  /-- the start state register (R459). -/
  | start
  /-- 8 bytes of BAR0, which the host reads (R453). -/
  | bar0 (off : Nat)
  /-- the power limit and status registers (R462). -/
  | plim
  | pstat
  /-- a word of a device-private table: object tables, extent lists, frame entries, replica sets, telemetry records (R28, R255,
  R256, R270, R424). -/
  | table (addr : Nat)
  deriving DecidableEq, Repr

/-- The code of a queue's status (R77). -/
def QStatus.code : QStatus → Nat
  | .stopped => 0
  | .active => 1
  | .draining => 2
  | .resetting => 3

/-- A word of a queue's header line; its reserved words are zero (R76). -/
def Queue.headerWord (x : Queue) : Nat → Word
  | 0 => x.head
  | 1 => x.tail
  | 2 => x.appends
  | _ => 0

/-- A word of a queue's configuration record; its reserved bits are zero (R77). -/
def Queue.configWord (x : Queue) : Nat → Word
  | 0 => Word.ofN (x.en.toNat * 2 ^ 63 + x.pe.toNat * 2 ^ 62 + x.priority.toNat * 2 ^ 56 + x.weight.toNat * 2 ^ 32 + x.meter.toNat)
  | 1 => x.table
  | 2 => x.entries.setWidth 64
  | 3 => x.watchdog.setWidth 64
  | 4 => BitVec.ofInt 64 x.deficit
  | 5 => Word.ofN (x.resets.toNat * 2 ^ 48 + x.status.code)
  | 6 => x.launchers
  | _ => 0

/-- 8 bytes of a queue's slot in the host append window: offset 0x00 is write-only and reads as zero, as do the reserved
offsets (R6, R82). -/
def Queue.appendWord (x : Queue) : Nat → Word
  | 0x08 => x.hostResult.setWidth 64
  | 0x10 => x.appends
  | _ => 0

/-- A word of the cancel register; its task word is write-only and reads as zero (R6, R95). -/
def Dispatcher.cancelWord (d : Dispatcher) : Nat → Word
  | 1 => Word.ofN (d.cancelBusy.toNat * 8 + d.cancelResult.toNat)
  | _ => 0

/-- A word of the dispatcher status window, the same from both Conjunction dies (R108). -/
def State.statusWord (s : State) : Nat → Word
  | 0 => s.disp.statusTask
  | 1 => s.disp.statusIndex.setWidth 64
  | 2 => s.statusEntry
  | 3 => s.statusPlacements
  | _ => 0

/-- A word of a control window; DCMD is write-only and reads as zero (R6, R348). -/
def ConjunctionDie.controlWord (c : ConjunctionDie) : Nat → Word
  | 0 => c.select
  | 1 => 0
  | 6 => Word.ofN (c.recalls.toNat * 2 ^ 32 + c.lostEntries.toNat * 2 ^ 16 + c.mirrorLost.toNat * 2 + c.primaryAll.toNat)
  | w => if w < 6 then c.dent.getD (w - 2) 0 else 0

/-- A word of an overflow list configuration (R381). -/
def DieState.overflowWord (d : DieState) : Nat → Word
  | 0 => d.ovBase
  | 1 => Word.ofN (d.ovHeld.toNat * 2 ^ 32 + d.ovCapacity.toNat)
  | 2 => d.ovSpilled
  | _ => 0

/-- A word of a telemetry ring configuration (R424). -/
def Telemetry.word (t : Telemetry) : Nat → Word
  | 0 => t.base
  | 1 => t.entries.setWidth 64
  | 2 => Word.ofN (t.consumer.toNat * 2 ^ 32 + t.producer.toNat)
  | 3 => Word.ofN (t.dropped.toNat * 2 ^ 32 + t.lc.toNat)
  | _ => 0

/-- 8 bytes of a record at word `w`, zero beyond its end. -/
def bytesWord (l : List Byte) (w : Nat) : Word := Word.ofN (valueOf ((l.drop (8 * w)).take 8))

/-- A word of a chain record (R444). -/
def Chain.word (c : Chain) (w : Nat) : Word :=
  if w < 4 then bytesWord c.value w else if w = 4 then c.folded else if w = 5 then c.linked else 0

/-- The power status register (R462). -/
def Package.pstat (p : Package) : Word := Word.ofN (p.powerDelayed.toNat * 2 ^ 32 + p.power.toNat)

/-- 8 bytes of BAR0 (R453): the append window, the start state, the power status, the MSI-X table, and its pending bits, none of
which is ever set, since a message leaves as soon as it arises; reserved offsets read as zero. -/
def State.bar0Word (s : State) (off : Nat) : Word :=
  if off < 0x1000 then (s.queue (off / 64)).appendWord (off % 64)
  else if off = 0x1000 then s.startReg
  else if off = 0x1008 then s.pkg.pstat
  else if 0x2000 ≤ off ∧ off < 0x2080 then s.pkg.msixTable.toList.getD ((off - 0x2000) / 8) 0
  else 0

/-- WHAT A READ RETURNS (R6): an RW or RO field its value, a WO field and a reserved one zero. -/
def State.devRead (s : State) : DevRead → Word
  | .header q w => (s.queue q.toNat).headerWord w
  | .queueCfg q w => (s.queue q.toNat).configWord w
  | .cancel w => s.disp.cancelWord w
  | .placeCtl => s.disp.placeCtl
  | .status w => s.statusWord w
  | .supervisorMask => s.disp.supervisorMask
  | .injectionMask => s.disp.injectionMask
  | .testMask => s.disp.testMask
  | .sevpolEntry q => (s.queue q.toNat).sevpol
  | .residency die r w => ((s.sentRequests die.toNat)[r]?).elim 0 fun x => x.words.getD w 0
  | .migc0 die => (s.die die.toNat).migc0
  | .migc1 die => (s.die die.toNat).migc1
  | .mixedMask die => (s.die die.toNat).mixedMask
  | .control c w => (s.cdie c).controlWord w
  | .overflow die w => (s.die die.toNat).overflowWord w
  | .telemetry die w => (s.die die.toNat).telemetry.word w
  | .fence => s.pkg.fence
  | .chain q w => (s.chain q.toNat).word w
  | .energy die i => ((s.die die.toNat).energy.toList.getD i.toNat 0).setWidth 64
  | .meter n w => (s.findMeter n).elim 0 fun m => bytesWord m.bytes w
  | .start => s.startReg
  | .bar0 off => s.bar0Word off
  | .plim => s.pkg.plim
  | .pstat => s.pkg.pstat
  | .table addr => s.unc.priv.word addr

end Sys2Proof.Machine
end

