-- ==== Sys2Proof/Tests/Slice0.lean ====
section
/-! SUPPORT. Tests of this slice: words written out from the encodings of the manual decode to their instructions, an
ill-formed term of every check of `Instr.wf` is refused, single steps on a small state, and for every statement with
hypotheses a state and operands that meet them. -/

namespace Sys2Proof.Tests
open Sys2Proof.Machine
set_option Elab.async false

/-! ### Ill-formed terms (the limits of the entries, chapters 7 to 16) -/

theorem test_wf_fshl : (Instr.fshl 1 2 3 .w8 8).wf = false ∧ (Instr.fshl 1 2 3 .w8 7).wf = true := by decide
theorem test_wf_extz : (Instr.extz 1 2 1 63).wf = false ∧ (Instr.extz 1 2 0 63).wf = true := by decide
theorem test_wf_exts : (Instr.exts 1 2 63 1).wf = false ∧ (Instr.exts 1 2 63 0).wf = true := by decide
theorem test_wf_dep : (Instr.dep 1 2 32 32).wf = false ∧ (Instr.dep 1 2 32 31).wf = true := by decide
theorem test_wf_ldo : (Instr.ldo 1 2 .rel .sys true).wf = false ∧ (Instr.ldo 1 2 .acq .sys true).wf = true := by decide
theorem test_wf_sto : (Instr.sto 1 2 .acq .sys true).wf = false ∧ (Instr.sto 1 2 .rel .sys true).wf = true := by decide
theorem test_wf_fence : (Instr.fence 0 .sys).wf = false ∧ (Instr.fence 1 .sys).wf = true := by decide
theorem test_wf_wbr : (Instr.wbr 1 2 .cl).wf = false ∧ (Instr.wbr 1 2 .die).wf = true := by decide
theorem test_wf_invr : (Instr.invr 1 2 .core).wf = false ∧ (Instr.invr 1 2 .sys).wf = true := by decide
theorem test_wf_start : (Instr.start 0 1 2).wf = false ∧ (Instr.start 11 1 2).wf = false ∧ (Instr.start 10 1 2).wf = true := by
  decide
theorem test_wf_stop : (Instr.stop 0).wf = false ∧ (Instr.stop 11).wf = false ∧ (Instr.stop 1).wf = true := by decide
theorem test_wf_join : (Instr.join 1 0).wf = false ∧ (Instr.join 1 11).wf = false ∧ (Instr.join 1 10).wf = true := by decide
theorem test_wf_gets : (Instr.gets 1 0x023).wf = false ∧ (Instr.gets 1 0x022).wf = true := by decide
theorem test_wf_sets : (Instr.sets 1 0x081).wf = false ∧ (Instr.sets 1 0x080).wf = true := by decide
theorem test_wf_objinv : (Instr.objinv 1 .ctx).wf = false ∧ (Instr.objinv 1 .pkg).wf = true := by decide
theorem test_wf_cpyc : (Instr.cpyc 0).wf = false ∧ (Instr.cpyc 1).wf = true := by decide
theorem test_wf_mrdv : (Instr.mrdv 63 1 2 3).wf = false ∧ (Instr.mrdv 62 1 2 3).wf = true := by decide
theorem test_wf_rmask : (Instr.rmask 1 31).wf = false ∧ (Instr.rmask 1 30).wf = true := by decide
theorem test_wf_vabs : (Instr.vabs 1 2 3 .n8).wf = false ∧ (Instr.vabs 1 2 3 .s8).wf = true := by decide
theorem test_wf_vcvt : (Instr.vcvt 1 2 3 0 .sr 6).wf = false ∧ (Instr.vcvt 1 2 3 0 .rne 0).wf = false ∧
    (Instr.vcvt 1 2 3 0 .sr 5).wf = true := by decide
theorem test_wf_vcvti : (Instr.vcvti 1 2 0 0 .rz 7).wf = false ∧ (Instr.vcvti 1 2 0 0 .rz 5).wf = true := by decide
theorem test_wf_vcvtf : (Instr.vcvtf 1 2 1 0 .rz 0).wf = false ∧ (Instr.vcvtf 1 2 0 0 .rz 0).wf = true := by decide
theorem test_wf_vpack : (Instr.vpack 1 2 31 0 .sr .i4).wf = false ∧ (Instr.vpack 1 2 31 0 .rne .i4).wf = true := by decide
theorem test_wf_vunpk : (Instr.vunpk 1 2 31 0 .sr .i4).wf = false ∧ (Instr.vunpk 1 2 30 0 .sr .i4).wf = true := by decide
theorem test_wf_vscale : (Instr.vscale 1 2 31 0 .sr .f32).wf = false ∧ (Instr.vscale 1 2 30 0 .sr .f32).wf = true := by decide
theorem test_wf_vins : (Instr.vins 1 16 3 0 .w16).wf = false ∧ (Instr.vins 1 15 3 0 .w16).wf = true := by decide
theorem test_wf_vext : (Instr.vext 1 2 4 .w64).wf = false ∧ (Instr.vext 1 2 3 .w64).wf = true := by decide
theorem test_wf_vcmp : (Instr.vcmpInt 1 2 3 0 .un .s8).wf = false ∧ (Instr.vcmpInt 1 2 3 0 .ge .s8).wf = true := by decide
theorem test_wf_kmov_expand : (Instr.kmovExpand 1 2 0).wf = false ∧ (Instr.kmovExpand 1 2 3).wf = true := by decide
theorem test_wf_vfshl : (Instr.vfshl 1 2 3 0 .w32 32).wf = false ∧ (Instr.vfshl 1 2 3 0 .w32 31).wf = true := by decide
theorem test_wf_hnop : (Instr.hnop 5 0).wf = false ∧ (Instr.hnop 15 0).wf = false ∧ (Instr.hnop 14 0).wf = true := by decide

/-! ### Words written out bit by bit from the encodings of the manual -/

theorem test_decode_alu : decodeWord 0x0481C003 = .ok (.or 8 7 0) := by decide
theorem test_decode_addi : decodeWord 0x10501678 = .ok (.addi 5 0 0x1678) := by decide
theorem test_decode_lop3 : decodeWord 0x0C816617 = .ok (.lop3 8 5 6 0x17) := by decide
theorem test_decode_fshl : decodeWord 0x0C914644 = .ok (.fshl 9 5 6 .w16 4) := by decide
theorem test_decode_clz : decodeWord 0x0CA00030 = .ok (.clz 10 0 .w32) := by decide
theorem test_decode_amo : decodeWord 0x44518768 = .ok (.amoaddD 5 6 7 .acq .sys) := by decide
theorem test_decode_cas : decodeWord 0x485187ED = .ok (.cas 5 6 7 .ar .sys true) := by decide
theorem test_decode_red : decodeWord 0x4C11870B = .ok (.redadd true 6 7 true .die) := by decide
theorem test_decode_fence : decodeWord 0x50000F28 = .ok (.fence 15 .sys) := by decide
theorem test_decode_wbr : decodeWord 0x50018798 = .ok (.wbr 6 7 .die) := by decide
theorem test_decode_arrive : decodeWord 0x54000000 = .ok (.arrive 0) := by decide
theorem test_decode_wait : decodeWord 0x54500021 = .ok (.wait 5 1) := by decide
theorem test_decode_sets : decodeWord 0x5C01100B = .ok (.sets 4 0x00B) := by decide
theorem test_decode_digest : decodeWord 0x5C41A600 = .ok (.digest 4 6) := by decide
theorem test_decode_cpy : decodeWord 0x84518700 = .ok (.cpy 5 6 7) := by decide
theorem test_decode_mma : decodeWord 0x8861C800 = .ok (.mma 6 7 8 0) := by decide
theorem test_decode_mcfg : decodeWord 0x8C310000 = .ok (.mcfg 3 4 0) := by decide
theorem test_decode_mrd : decodeWord 0x8C900A20 = .ok (.mrd 9 0 10 0) := by decide
theorem test_decode_cgrp : decodeWord 0x90300700 = .ok (.cgrp 3 7 0) := by decide
theorem test_decode_cstart : decodeWord 0x90500841 = .ok (.cstart 5 8 1) := by decide
theorem test_decode_tready : decodeWord 0x90600061 = .ok (.tready 6 1) := by decide
theorem test_decode_cwait : decodeWord 0x90600981 = .ok (.cwait 6 9 1) := by decide
theorem test_decode_sendm : decodeWord 0x9C518700 = .ok (.sendm 5 6 7 false) := by decide
theorem test_decode_recvm : decodeWord 0x9CA2CC40 = .ok (.recvm 10 11 12 false) := by decide
theorem test_decode_recvm_cfg : decodeWord 0x9C400080 = .ok (.recvmCfg 4) := by decide
theorem test_decode_vcvt : decodeWord 0xB4202810 = .ok (.vcvt 1 0 5 0 .sr 0) := by decide
theorem test_decode_reserved : decodeWord 0x04000020 = .error (.ill 0x04000020) := by decide

/-! ### A small state: context 0 live at 0x10, nothing pending, XBOUND 0x1000 -/

def ready : State := { State.reset.withFetchWord 32 0x10501678 with agenda := [] }

def withCtx (s : State) (f : Ctx → Ctx) : State := s.setCtx (f s.ctx)
def withCore (s : State) (f : LCore → LCore) : State := { s with core := f s.core }
def withUnc (s : State) (f : Uncore → Uncore) : State := { s with unc := f s.unc }
def withG (s : State) (n : Nat) (v : Word) : State := withCtx s fun c => c.setG n v
def withSys (s : State) (f : SysRegs → SysRegs) : State := withCtx s fun c => { c with sys := f c.sys }

/-- The same state with a trap handler at 0x100. -/
def handled : State := withSys ready fun y => { y with trapv := 0x100 }

/-- The same state in supervisor mode. -/
def supervised : State := withSys ready fun y => { y with svclvl := 1 }

theorem issues_of (s : State) (i : Instr) (h1 : s.ctx.live = true) (h2 : s.ctx.wait = none) (h3 : s.inGang = false)
    (h4 : s.ctx.pfx = none) (h5 : s.core.archmap = 0) : s.Issues i := by
  refine ⟨h1, h2, h3, ?_⟩
  simp [State.wordTrap, Ctx.groupIll, State.archListed, h4, h5]

theorem canWrite_of (s : State) (n : BitVec 6) (h : s.ctx.pendG = 0) : s.CanWrite n := by simp [State.CanWrite, h]

theorem canRead_of (s : State) (n : BitVec 6) (h : s.ctx.pendG = 0) (h2 : s.ctx.reports = []) : s.CanRead n := by
  simp [State.CanRead, h, Ctx.reportAt, h2]

theorem vready_of (s : State) (n : BitVec 5) (h : s.ctx.pendV = 0) : s.VReady n := by simp [State.VReady, h]

/-- What an instruction needs of the state before its own conditions. -/
def Fit (s : State) : Prop :=
  (∀ i, s.Issues i) ∧ (∀ n, s.CanRead n) ∧ (∀ n, s.CanWrite n) ∧ ∀ n, s.VReady n

theorem fit_of (s : State) (h1 : s.ctx.live = true) (h2 : s.ctx.wait = none) (h3 : s.inGang = false)
    (h4 : s.ctx.pfx = none) (h5 : s.core.archmap = 0) (h6 : s.ctx.pendG = 0) (h7 : s.ctx.reports = [])
    (h8 : s.ctx.pendV = 0) : Fit s :=
  ⟨fun i => issues_of s i h1 h2 h3 h4 h5, fun n => canRead_of s n h6 h7, fun n => canWrite_of s n h6, fun n => vready_of s n h8⟩

/-! ### Hypotheses met: encodings, the step, memory -/

theorem test_hyps_decode_of_encode : (Instr.dep 63 63 0 63).wf = true ∧ encode (.dep 63 63 0 63) = some 0x2FFFE03F ∧
    (Instr.rmask 7 30).wf = true ∧ encode (.rmask 7 30) ≠ none := by decide

theorem test_hyps_encode_of_decode : decodeWord 0xFFFFFFFF = .error (.ill 0xFFFFFFFF) ∧
    decodeWord 0x0C816617 = .ok (.lop3 8 5 6 0x17) := by decide

def aboutToStep : State := State.reset.withFetchWord 32 0x10501678

theorem test_hyps_step_runs : aboutToStep.agenda = [.issue aboutToStep.core.id] ∧
    aboutToStep.issues aboutToStep.core = true ∧
    aboutToStep.core.ctxs.find? (fun x => x.live && x.pfx.isSome) = none ∧ aboutToStep.peers = [] ∧ aboutToStep.waits = false ∧
    State.boundaryTurn { aboutToStep with agenda := [], stalled := false } = none ∧
    aboutToStep.core.choose (State.readyCtxs { aboutToStep with agenda := [], stalled := false }) = some aboutToStep.ctx.num ∧
    aboutToStep.ctx.wait = none ∧ aboutToStep.ctx.ar = false ∧ aboutToStep.ctx.pc < aboutToStep.core.xbound ∧
    aboutToStep.core.lmFlips = [] ∧ decodeWord aboutToStep.wordHere = .ok (.addi 5 0 0x1678) ∧ aboutToStep.ctx.pfx = none ∧
    State.groupFetch groupBound { aboutToStep with agenda := [], stalled := false } = none ∧
    (withCtx aboutToStep fun c => { c with pfx := some ⟨[5], none, false, false, 0x10⟩ }).ctx.pfx.isSome = true :=
  ⟨rfl, by decide, by decide, rfl, by decide, by decide, by decide, rfl, rfl, by decide, rfl, by decide, rfl, by decide, rfl⟩

theorem test_hyps_step_next : ∃ t, exec (.addi 5 0 0x1678) { aboutToStep with agenda := [], stalled := false } = .next t ∧
    t.stalled = false ∧ t.G 5 = 0x1678 := ⟨_, rfl, rfl, by decide⟩

theorem test_hyps_memories : State.reset.MemoriesWf ∧ ∃ t, step aboutToStep = .next t := by
  refine ⟨⟨rfl, rfl, rfl, rfl, ?_⟩, ⟨_, rfl⟩⟩
  intro c hc
  simp only [State.cores, State.reset, List.mem_singleton] at hc
  subst hc
  exact rfl

theorem test_hyps_memory : Memory.wf [(0, 1), (7, 255)] = true ∧ Memory.wf [] = true ∧ Memory.wf [(0, 0)] = false ∧
    Memory.wf [(7, 1), (0, 1)] = false := by decide

/-! ### Hypotheses met: scalar words -/

theorem test_hyps_ready : Fit ready := fit_of _ rfl rfl rfl rfl rfl rfl rfl rfl

def wide : State := withG (withG ready 1 0x8000000000000000) 2 0xFFFFFFFFFFFFFFFF

theorem test_hyps_alu : Fit wide ∧ (wide.G 1).toInt = -2 ^ 63 ∧ (wide.G 2).toInt = -1 ∧ wide.G 0 = 0 :=
  ⟨fit_of _ rfl rfl rfl rfl rfl rfl rfl rfl, by decide, by decide, by decide⟩

theorem test_hyps_elements : (7 : BitVec 6).toNat < Width.w8.bits ∧ (63 : BitVec 6).toNat < Width.w64.bits ∧
    (0 : BitVec 6).toNat + (63 : BitVec 6).toNat + 1 ≤ 64 ∧ (63 : BitVec 6).toNat + (0 : BitVec 6).toNat + 1 ≤ 64 := by decide

theorem test_hyps_jalr : (withG ready 1 0xFFFFC).G 1 + (0 : BitVec 14).signExtend 64 = 0xFFFFC ∧
    ((withG ready 1 0xFFFFC).G 1 + (1 : BitVec 14).signExtend 64).toNat % 4 = 1 ∧
    ((withG ready 1 0xFFFFC).G 1 + (4 : BitVec 14).signExtend 64).toNat = 0x100000 ∧ Fit (withG ready 1 0xFFFFC) :=
  ⟨by decide, by decide, by decide, fit_of _ rfl rfl rfl rfl rfl rfl rfl rfl⟩

def inGroup (p : Pfx) : State := withCtx ready fun c => { c with pfx := some p, pc := 0x14 }

theorem test_hyps_prefixes : ready.ctx.live = true ∧ ready.ctx.wait = none ∧ ready.inGang = false ∧ ready.ctx.pfx = none ∧
    ready.payloads.length < 2 ∧ 2 ≤ (inGroup ⟨[1, 2], some true, true, false, 0x10⟩).payloads.length ∧
    (inGroup ⟨[1, 2], some true, true, false, 0x10⟩).inGang = false :=
  ⟨rfl, rfl, rfl, rfl, by decide, by decide, rfl⟩

/-- What the completion clauses of the prefixes and the hints ask for: contexts alone that may issue, with and without a prefix. -/
theorem test_hyps_hints : Fit ready ∧ (ready.ctx.live = true ∧ ready.ctx.wait = none ∧ ready.inGang = false ∧ ready.ctx.pfx = none) ∧
    (∃ t, exec (.immx 5) ready = .next t ∧ t.payloads = [5]) ∧ (∃ t, exec (.likely true) ready = .next t ∧ t.ctx.pc = 0x14) ∧
    (∃ t, exec .nofold ready = .next t ∧ t.ctx.pc = 0x14) ∧ (∃ t, exec (.prio 5) ready = .next t ∧ t.ctx.level = 5) ∧
    (∃ t, exec (.rev 1) ready = .next t ∧ t.ctx.revn = 1) ∧ (∃ t, exec (.hnop 6 0) ready = .next t ∧ t.ctx.pc = 0x14) ∧
    ∃ t, exec (.spin 1) ready = .next t ∧ t.ctx.pc = 0x14 :=
  ⟨fit_of _ rfl rfl rfl rfl rfl rfl rfl rfl, ⟨rfl, rfl, rfl, rfl⟩, ⟨_, rfl, by decide⟩, ⟨_, rfl, by decide⟩, ⟨_, rfl, by decide⟩,
    ⟨_, rfl, by decide⟩, ⟨_, rfl, by decide⟩, ⟨_, rfl, by decide⟩, ⟨_, rfl, by decide⟩⟩

theorem test_hyps_fetch_checks : (inGroup ⟨[], none, false, true, 0x10⟩).ctx.groupIll (.add 1 2 3) = true ∧
    (inGroup ⟨[5], none, false, false, 0x10⟩).ctx.groupIll (.add 1 2 3) = true ∧
    (inGroup ⟨[5], none, false, false, 0x10⟩).ctx.groupIll (.addi 1 2 3) = false ∧ encode (.add 1 2 3) = some 0x04108300 ∧
    (withCore ready fun c => { c with archmap := 2 }).core.archmap.getLsbD (Instr.add 1 2 3).major = true ∧
    (withCore ready fun c => { c with archmap := 2 }).ctx.ar = false ∧ ready.ctx.byp = false := by decide

/-! ### Hypotheses met: traps -/

theorem test_hyps_trap_entry : cMISAL < 0x100 ∧ cMISAL ≠ cSTRUCT ∧ cMISAL ≠ cLOST ∧ cMISAL ≠ cXFETCH ∧ cMISAL ≠ cARCH ∧
    handled.ctx.ti = false ∧ handled.ctx.sys.trapv.bits 19 2 ≠ 0 := by decide

def overlaid : State := withSys ready fun y => { y with ovlh := 0xFFC, trapv := 0x100 }

theorem test_hyps_overlay : overlaid.ctx.sys.ovlh ≠ 0 ∧ overlaid.ctx.sys.ovlh.toNat < overlaid.core.xbound.toNat ∧
    overlaid.ctx.ovlActive = false ∧ overlaid.ctx.ti = false ∧
    (withCtx overlaid fun c => { c with ovlActive := true }).ctx.ovlActive = true ∧
    (withCtx overlaid fun c => { c with ovlActive := true }).ctx.sys.trapv.bits 19 2 ≠ 0 := by decide

def archaic : State := ready.mapDie 0 fun d => { d with archStore := [(1, 0x80010040)] }

theorem test_hyps_routine : archaic.routine (dieOf archaic.core.slot) ((0x0000000104000000 : Word).bits 31 26) = some 0x100 ∧
    (0x0000000104000000 : Word).bits 39 32 = 1 ∧ archaic.ctx.ti = false := by decide

/-- A running task with these fields in its word 0x10, of one logical core in a slot of die 0. -/
def taskOf (flags : Word) : Task where
  ref := 0
  queue := 0
  phase := .running
  words := [0, 0, flags] ++ List.replicate 29 0
  prio := 7
  meter := 0
  order := 0
  firstOrder := 0
  position := 0
  binds := [⟨0, 0, 0, 0, 0, true, true, false⟩]
  placements := 1
  remote := []
  pending := []
  charged := 0
  watch := 0

def withTask (s : State) (t : Task) : State := { s with disp := { s.disp with tasks := t :: s.disp.tasks } }

def snapping : State := withTask ready (taskOf 0x0002000000000000)

theorem test_hyps_terminal : snapping.snapTask = true ∧ ready.snapTask = false ∧
    ready.terminal (Trap.plain cMISAL 0 0) = true ∧ ∃ u, Op.failTask ready.core.id.task
      (State.trapWords { ready with stalled := false } (Trap.plain cMISAL 0 0))
      (State.setCtx { ready with stalled := false } (ready.ctx.record (Trap.plain cMISAL 0 0))) = .ok ((), u) :=
  ⟨by decide, by decide, by decide, ⟨_, rfl⟩⟩

/-! ### Hypotheses met: contexts -/

def helped : State := withCore (withG ready 1 0xFFFFC) fun c =>
  { c with others := [Ctx.zero 1, { Ctx.zero 2 with live := true }], regs := { c.regs with helpers := 2 } }

theorem test_hyps_helpers : Fit helped ∧ helped.ctx.num = 0 ∧ helped.core.findCtx 1 = some (Ctx.zero 1) ∧
    helped.core.findCtx 2 = some { Ctx.zero 2 with live := true } ∧ (2 : BitVec 6).toNat ≤ helped.core.regs.helpers ∧
    helped.core.regs.helpers < (3 : BitVec 6).toNat ∧ (helped.G 1).toNat % 4 = 0 ∧ (helped.G 1).toNat < 0x100000 :=
  ⟨fit_of _ rfl rfl rfl rfl rfl rfl rfl rfl, rfl, rfl, rfl, by decide⟩

def asHelper : State := withCtx ready fun c => { c with num := 1 }

theorem test_hyps_contexts : ready.core.enginePending 0 = false ∧ ready.unc.bankOps = [] ∧ ready.ctx.reports = [] ∧
    (∀ x ∈ ready.core.others, x.live = false) ∧ (∀ n < 4, ready.core.chanOn n = false) ∧ ready.core.regs.gangsz ≤ 1 ∧
    Fit asHelper ∧ asHelper.ctx.num ≠ 0 ∧ (∃ x ∈ helped.core.others, x.live = true ∧ x.wait = none) ∧
    ready.ctx.supervisor = false :=
  ⟨by decide, rfl, rfl, by decide, by decide, by decide, fit_of _ rfl rfl rfl rfl rfl rfl rfl rfl, by decide,
    ⟨{ Ctx.zero 2 with live := true }, by simp [helped, withCore], rfl, rfl⟩, rfl⟩

def halting : State := withSys ready fun y => { y with svclvl := 5, events := 4, evmask := 7 }

theorem test_hyps_halt : Fit halting ∧ halting.ctx.supervisor = true ∧ halting.ctx.ti = true ∧ halting.ctx.enabledEvents ≠ 0 ∧
    supervised.ctx.supervisor = true ∧ supervised.ctx.enabledEvents = 0 :=
  ⟨fit_of _ rfl rfl rfl rfl rfl rfl rfl rfl, by decide⟩

theorem test_hyps_gets_sets : Fit supervised ∧ supervised.ctx.supervisor = true ∧ ready.ctx.supervisor = false ∧
    ready.core.raise = none ∧ 4096 * min 256 (((withG ready 1 0x1000).G 1).bits 20 12) ≤ (withG ready 1 0x1000).core.xbound.toNat :=
  ⟨fit_of _ rfl rfl rfl rfl rfl rfl rfl rfl, by decide, by decide, rfl, by decide⟩

/-! ### Hypotheses met: loads, stores, atomics -/

theorem test_hyps_local : Fit (withG ready 1 0xFFFF8) ∧ (withG ready 1 0xFFFF8).LocalOk 0xFFFF8 8 ∧
    (withG ready 1 0xFFFF8).LocalOk 0x1000 8 ∧ (withG ready 1 0xFFFF8).LocalOk 0xFFFE0 32 ∧
    (withG ready 1 0xFFFF8).LocalOk 0xFFFFF 1 ∧ (withG ready 1 0xFFFF8).LocalOk 0xFFF80 128 ∧
    (withG ready 1 0xFFFF8).Settled ∧ (withG ready 1 0xFFFF8).core.lm.wf = true ∧ (withG ready 1 0xFFFF8).twinned = false := by
  refine ⟨fit_of _ rfl rfl rfl rfl rfl rfl rfl rfl, ?_, ?_, ?_, ?_, ?_, ⟨rfl, rfl, rfl⟩, by decide, by decide⟩ <;>
    exact ⟨by decide, by decide, by decide, by decide, rfl, rfl, rfl⟩

theorem storeHere_of (s : State) (h : s.core.resident = true) (h2 : ∀ c ∈ s.cores, ∀ x ∈ c.ctxs, x.wait = none) :
    s.StoreHere := ⟨h, fun c hc x hx r id b w n e => by simp [h2 c hc x hx] at e⟩

theorem test_hyps_store : (withG ready 1 0xFFFF8).StoreHere := storeHere_of _ rfl (by decide)

/-- The same state with a 64 KiB object of class 0 at handle 16, resident in frame 2 of the bank memory. -/
def objects (layout : Word) : State :=
  let s := ready.mapQueue 0 fun q => { q with entries := 32 }
  let s := s.mapDie 0 fun d => { d with tb := [⟨0x1000, 0, 0x2000, 0x4000000000000002, 0, 0, 0⟩] }
  withUnc s fun u => { u with objectCache := [⟨0, 0, 16, 0x200, (0x0000000000010000 : Word) ||| (0x00001B0000000000 : Word) ||| (layout <<< 50), 7, 0x1000, 0, 0, 0⟩] }

/-- An operation that completes, with a test of its answer. -/
def done? {α : Type} (op : Op α) (s : State) (p : α → State → Bool) : Bool :=
  match op s with
  | .ok (a, t) => p a t
  | .error _ => false

theorem of_done {α : Type} {op : Op α} {s : State} {p : α → State → Bool} (h : done? op s p = true) :
    ∃ a t, op s = .ok (a, t) ∧ p a t = true := by
  cases e : op s with
  | ok r => exact ⟨r.1, r.2, rfl, by simpa only [done?, e] using h⟩
  | error _ => simp [done?, e] at h

theorem test_hyps_load_object : Fit (objects 4) ∧ (objects 4).twinned = false ∧
    ∃ m t, Op.load ((objects 4).self 0) (coreAcc 0x10000000FFF8 8 0) (objects 4) = .ok (m, t) ∧
      decide (t.ctx.pendG = 0) = true :=
  ⟨fit_of _ rfl rfl rfl rfl rfl rfl rfl rfl, by decide, of_done (by decide +kernel)⟩

/-- A reference into the object of `objects`. -/
def objRef (o : Nat) : Word := Word.ofN (16 * 2 ^ 40 + o)

theorem test_hyps_access_checks :
    (objRef 1).toNat % 2 ≠ 0 ∧ (ready.ctx.ar = false ∧ ready.twinned = false) ∧
    ((0x100000 : Word).toNat % 8 = 0 ∧ refHandle 0x100000 = 0 ∧ 0x100000 < refOffset 0x100000 + 8) ∧
    ((0xFF8 : Word).toNat % 8 = 0 ∧ refOffset 0xFF8 + 8 ≤ 0x100000 ∧ refOffset 0xFF8 < ready.core.xbound.toNat) ∧
    (2 ≤ refHandle 0xF0000000000 ∧ refHandle 0xF0000000000 < 16) ∧
    ((objects 4).queue 0).entries.toNat ≤ refHandle 0x200000000000 ∧
    (16 ≤ refHandle 0x1F0000000000 ∧ refHandle 0x1F0000000000 < ((objects 4).queue 0).entries.toNat ∧
      (objects 4).ocFind 0 0 (refHandle 0x1F0000000000) = none ∧
      ((objects 4).tableDesc 0 (refHandle 0x1F0000000000)).2.2.2.2.rights = 0) := by
  decide +kernel

/-- The three steps of an access at a bank, in order, and where they end. -/
def reachesBank (s : State) (ag : Agent) (a : Acc) (need : Nat) : Bool :=
  done? (Op.descriptor ag a) s fun d s₁ => done? (Op.descCheck ag a need d) s₁ fun _ s₂ =>
    decide (s₂ = s₁) && done? (Op.locate ag a d false) s₂ fun w s₃ => match w with
      | .bank _ => !s₃.twinned
      | _ => false

theorem reached {s : State} {ag : Agent} {a : Acc} {need : Nat} (h : reachesBank s ag a need = true) :
    ∃ d s₁ s₂ addr, Op.descriptor ag a s = .ok (d, s₁) ∧ Op.descCheck ag a need d s₁ = .ok ((), s₁) ∧
      Op.locate ag a d false s₁ = .ok (.bank addr, s₂) ∧ s₂.twinned = false := by
  obtain ⟨d, s₁, h1, k1⟩ := of_done h
  obtain ⟨u, s₂, h2, k2⟩ := of_done k1
  rw [Bool.and_eq_true] at k2
  obtain ⟨w, s₃, h3, k3⟩ := of_done k2.2
  cases of_decide_eq_true k2.1
  split at k3
  · rename_i addr
    exact ⟨d, _, s₃, addr, h1, h2, h3, by simpa using k3⟩
  · cases k3

theorem test_hyps_red_object : 16 ≤ refHandle (objRef 0xFFF8) ∧ (objRef 0xFFF8).toNat % 8 = 0 ∧
    ∃ d s₁ s₂ addr, Op.descriptor ((objects 0).self 5) (coreAcc (objRef 0xFFF8) 8 3) (objects 0) = .ok (d, s₁) ∧
      Op.descCheck ((objects 0).self 5) (coreAcc (objRef 0xFFF8) 8 3) (rightR + rightW + rightA) d s₁ = .ok ((), s₁) ∧
      Op.locate ((objects 0).self 5) (coreAcc (objRef 0xFFF8) 8 3) d false s₁ = .ok (.bank addr, s₂) ∧ s₂.twinned = false :=
  ⟨by decide, by decide, reached (by decide +kernel)⟩

theorem test_hyps_redacc : (objRef 0xFF80).toNat % 128 = 0 ∧ 16 ≤ refHandle (objRef 0xFF80) ∧
    (done? (Op.descriptor ((objects 16).self 5) ⟨objRef 0xFF80, 128, 7, 3, 0⟩) (objects 16) fun d s₁ =>
      decide (d.layout = 16) && done? (Op.descCheck ((objects 16).self 5) ⟨objRef 0xFF80, 128, 7, 3, 0⟩ rightA d) s₁ fun _ s₂ =>
        decide (s₂ = s₁) && done? (Op.load ((objects 16).self 5) ⟨0x1000, 128, 7, 3, 0⟩) s₁ fun _ s₂ =>
          done? (Op.locate ((objects 16).self 5) ⟨objRef 0xFF80, 128, 7, 3, 0⟩ d false) s₂ fun w s₃ =>
            !s₃.twinned && decide (w = .bank 0x2FF80)) = true := by
  decide +kernel

theorem test_hyps_redacc_handles : refHandle (objRef 0) ≠ 0 ∧ (objRef 0).toNat % 128 = 0 ∧ refHandle 0xFFF80 = 0 ∧
    refHandle 0xFFF80 < 16 ∧ (0xFFF80 : Word).toNat % 128 = 0 := by decide

/-- One operation of the bank list. -/
def opAt (i : Instr) (far : Bool) (site : Site) : BankOp :=
  ⟨⟨0, 0, 0⟩, 0, far, false, i, site, 8, 0, 0, 0, 0, 0, 1, 0, 2 ^ 127, 0⟩

theorem test_hyps_bank_far : (opAt (.amoaddD 1 2 3 .ar .sys) true (.bank 0x20008)).far = true ∧
    atomicOf (opAt (.amoaddD 1 2 3 .ar .sys) true (.bank 0x20008)).instr = some (.amo 0, 8) ∧
    (AtomicOp.amo 0).new 8 (ready.unc.hbm.value 0x20008 8) 1 0 = some 1 ∧ ready.unc.mixed = [] ∧ ready.unc.bankFlips = [] ∧
    ready.unc.lines = [] ∧ ready.unc.hbm.wf = true ∧ 0x20008 % 8 = 0 := by decide +kernel

theorem test_hyps_bank_red : atomicOf (Instr.redadd true 1 2 false .sys) = some (.amo 0, 8) ∧
    atomicOf (Instr.redmaxu false 1 2 false .sys) = some (.amo 7, 4) ∧ ready.core.lmFlips = [] ∧
    (AtomicOp.amo 0).new 8 (ready.core.lm.value 0x1000 8) 1 0 = some 1 ∧ ready.unc.directory = [] ∧
    atomicOf (Instr.redacc 1 2 3 false .sys) = none ∧ Elem.ofImages (lineImages (2 ^ 127)) = none := by decide +kernel

/-! ### Hypotheses met: fences, cache words, injection -/

def busyCopy : State := withCore ready fun c => { c with copies := ⟨[⟨.cpy 1 2 3, 0, 0, 0, 0, false⟩], []⟩ }

def dirtyLine : CacheLine := ⟨0, 0, .scoped, 0, BitVec.allOnes 128, 1, [], []⟩

theorem test_hyps_fences : ready.core.enginePending ready.ctx.num = false ∧ busyCopy.core.enginePending busyCopy.ctx.num = true ∧
    ready.G 0 = 0 ∧ 2 ^ 40 ≤ ((withG ready 1 0x10000000000).G 1).toNat ∧
    refOffset 0xFFFF8 + (8 : Word).toNat ≤ 0x100000 ∧
    ([dirtyLine, { dirtyLine with tag := 1 }].map fun l => (l.cluster, l.tag)).Nodup := by decide +kernel

def injecting : State := withSys (withG ready 1 0x1007) fun y => { y with injen := 1 }

theorem test_hyps_system_memory : Fit supervised ∧ (ready.LocalOk 0xFFFFF 1) ∧ ready.ctx.ar = false ∧ refHandle 0xFFF = 0 ∧
    refOffset 0xFFF < ready.core.xbound.toNat ∧ injecting.ctx.sys.injen.getLsbD 0 = true ∧
    injecting.LocalOk ((injecting.G 1) &&& ~~~7) 8 ∧ ready.ctx.sys.injen.getLsbD 0 = false ∧
    (ready.G 0).toNat ≤ (ready.chain 0).folded.toNat ∧ (ready.chain 0).folded.toNat < ((withG ready 1 1).G 1).toNat :=
  ⟨fit_of _ rfl rfl rfl rfl rfl rfl rfl rfl, ⟨by decide, by decide, by decide, by decide, rfl, rfl, rfl⟩, rfl, by decide, by decide,
    by decide, ⟨by decide, by decide, by decide, by decide, rfl, rfl, rfl⟩, by decide, by decide +kernel, by decide +kernel⟩

/-! ### Hypotheses met: rings and barriers -/

/-- Ring 1 with two slots of 32 bytes at 0x2000, `filled` of them filled. -/
def ringed (broken : Bool) (filled : BitVec 32) : State :=
  withCore ready fun c => c.setRing 1 ⟨broken, 1, 0, 0x2000, 0xFFFFFFFF, 0xFFFFFFFF + filled⟩

theorem test_hyps_rings : Fit (ringed false 1) ∧ (ready.core.ring 1).count = 0 ∧ ((ringed false 1).core.ring 1).count ≠ 0 ∧
    ((ringed false 1).core.ring 1).slots = (1 : BitVec 4).toNat + 1 ∧ ((ringed false 1).core.ring 1).slots < (2 : BitVec 4).toNat + 1 ∧
    ((ringed true 1).core.ring 1).broken = true ∧ ((ringed false 1).core.ring 1).filled = (0 : BitVec 4).toNat + 1 ∧
    ((ringed false 2).core.ring 1).filled = 2 ∧ ((ringed false 0).core.ring 1).filled = 0 ∧
    (ringed false 1).core.namesRing 1 = false ∧ busyCopy.core.namesRing 1 = true :=
  ⟨fit_of _ rfl rfl rfl rfl rfl rfl rfl rfl, by decide +kernel⟩

theorem test_hyps_ring_record : ready.LocalOk 0xFFFF0 16 := ⟨by decide, by decide, by decide, by decide, rfl, rfl, rfl⟩

theorem test_hyps_rset_valid : (0x0C000000 : Word).bits 63 28 = 0 ∧ 1 ≤ (0x0C000000 : Word).bits 27 24 ∧
    (0x0C000000 : Word).bits 27 24 ≤ 12 ∧ (0x0C000000 : Word).bits 23 20 ≤ 11 ∧ (0x0C000000 : Word).bits 19 0 % 32 = 0 ∧
    (0x0C000000 : Word).bits 19 0 + 2 ^ (0x0C000000 : Word).bits 27 24 * (32 * 2 ^ (0x0C000000 : Word).bits 23 20) ≤ 2 ^ 20 := by
  decide

/-- The member of logical core 0 of a channel-0 record. -/
def member (lp signalled : BitVec 32) : Member := ⟨0, lp, 1, signalled, false, false, none, false, false⟩

/-- A state whose channel 0 is in use, with one record. -/
def channeled (s : State) (lp gp : BitVec 32) (broken : Bool) : State :=
  withUnc (withCore s fun c => { c with regs := { c.regs with dmem := c.regs.dmem.set 0 0x8000000000000000 } })
    fun u => { u with barriers := [⟨0, 0, 0, 0, [member lp gp], gp, broken, 0, false, false, false, 0, none, 0⟩] }

theorem test_hyps_barriers : Fit (channeled ready 0 0 false) ∧ ready.core.chanOn 3 = false ∧
    (channeled ready 0 0 false).core.chanOn 0 = true ∧
    ((channeled ready 0 0 false).findBarrier (channeled ready 0 0 false).core 0).map (fun b => b.member 0) =
      some (some (member 0 0)) ∧
    ((channeled ready 1 0 true).findBarrier (channeled ready 1 0 true).core 0).map (fun b => (b.broken, decide (b.gp = 0))) =
      some (true, true) ∧ (channeled ready 0 0 false).twinned = false ∧ (channeled ready 0 0 false).snapTask = false ∧
    ((channeled ready 0 0 false).findBarrier (channeled ready 0 0 false).core 0).map (fun b => b.resets) = some 0 ∧
    (withCtx (channeled ready 0 0 false) fun c => { c with progress := some 0 }).ctx.progress = some 0 :=
  ⟨fit_of _ rfl rfl rfl rfl rfl rfl rfl rfl, by decide +kernel⟩

/-- The small state with an object of `frames` frames at handle 16 of queue 0, whose descriptor in the object table is
`w0`, resident from frame 1 of the bank memory on. -/
def mapped (w0 : Word) (frames : Nat) : State :=
  let p : Memory := (List.range frames).foldl (init := []) fun (p : Memory) i =>
    p.setWord (0x2000 + 16 * i) (0x4000000000000001 + Word.ofN i)
  let p := ((p.setWord 0x200 w0).setWord 0x210 0x1000).setWord 0x1000 1
  let p := (p.setWord 0x1010 (Word.ofN (65536 * frames))).setWord 0x1018 0x2000
  withUnc (ready.mapQueue 0 fun q => { q with entries := 32 }) fun u => { u with priv := p }

/-- A running task with SNAP whose snapshot area is the object of `mapped`. -/
def snapTask : Task :=
  { taskOf 0x0002000000000000 with
    words := [0, 0, 0x0002000000000000] ++ List.replicate 12 0 ++ [0x100000000000] ++ List.replicate 16 0 }

def capturing : State :=
  withCore (channeled (withTask (mapped 0x00001B0000300000 48) snapTask) 0 0 false) fun c => { c with snapChan := some 0 }

theorem test_hyps_arrive_snap : capturing.snapTask = true ∧ capturing.core.quiet = true ∧ capturing.ctx.num = 0 ∧
    capturing.core.others = [] ∧ ∃ u s₁, Op.capture capturing = .ok (u, s₁) ∧ true = true :=
  ⟨by decide +kernel, by decide +kernel, rfl, rfl, of_done (p := fun _ _ => true) (by decide +kernel)⟩

theorem test_hyps_arrival : (member 1 0).lp ≠ (member 1 0).signalled ∧
    ((channeled ready 1 0 false).findCore ⟨0, 0, 0⟩).map (fun c => ((channeled ready 1 0 false).findBarrier c 0).isSome) = some true ∧
    Barrier.full ⟨0, 0, 0, 0, [member 1 1], 0, false, 0, false, false, false, 0, none, 0⟩ = true ∧
    Barrier.full ⟨0, 0, 0, 0, [member 1 1, { member 0 0 with lcore := 1 }], 0, false, 0, false, false, false, 0, none, 0⟩ = false := by
  decide +kernel

/-! ### Hypotheses met: events of a context, retirement, the directory -/

def evented (e : Word) : State := withSys handled fun y => { y with events := e, evmask := 7 }

theorem test_hyps_take_event : (evented 7).core.resident = true ∧ (evented 7).inGang = false ∧ (evented 7).ctx.live = true ∧
    (evented 7).ctx.ti = false ∧ (evented 7).ctx.atBoundary = true ∧ (evented 7).ctx.sys.trapv.bits 19 2 ≠ 0 ∧
    ((evented 7).ctx.sys.events &&& (evented 7).ctx.sys.evmask).getLsbD 0 = true ∧
    ((evented 6).ctx.sys.events &&& (evented 6).ctx.sys.evmask).getLsbD 0 = false ∧
    ((evented 6).ctx.sys.events &&& (evented 6).ctx.sys.evmask).getLsbD 1 = true ∧
    ((evented 4).ctx.sys.events &&& (evented 4).ctx.sys.evmask).getLsbD 1 = false ∧
    ((evented 4).ctx.sys.events &&& (evented 4).ctx.sys.evmask).getLsbD 2 = true := by decide +kernel

theorem test_hyps_helper_stop : ∃ h, helped.findCore ⟨0, 0, 0⟩ = some helped.core ∧
    ({ helped.core with others := [{ Ctx.zero 2 with live := true, stopReq := true }] } : LCore).findCtx 2 = some h ∧
    h.live = true ∧ h.stopReq = true ∧ h.atBoundary = true := ⟨_, rfl, rfl, rfl, rfl, rfl⟩

def waiting (w : Wait) : State := withCtx (objects 4) fun c => { c with wait := some w }

/-- A SPIN on the block of its own local memory at 0x1000, which has been written. -/
def spinning (woken : Bool) : State :=
  waiting (.spin 0x1000 (.block ⟨0, 0, 0⟩ 32) woken 0)

theorem test_hyps_spin_wait : (spinning true).findCore ⟨0, 0, 0⟩ = some (spinning true).core ∧
    (spinning true).core.findCtx 0 = some (spinning true).ctx ∧
    (spinning true).spinOver (spinning true).core (spinning true).ctx .changed = true ∧
    (spinning true).ctx.wait = some (.spin 0x1000 (.block ⟨0, 0, 0⟩ 32) true 0) ∧
    (withG ready 1 0x1000).spinWatch ((withG ready 1 0x1000).G 1) = some (.block ⟨0, 0, 0⟩ 32) ∧
    ready.ctx.sys.events &&& ready.ctx.sys.evmask = 0 ∧ (ready.spinWatch 0x100000000000) = none ∧
    (evented 1).ctx.sys.events &&& (evented 1).ctx.sys.evmask ≠ 0 := by decide +kernel

/-- An object of class 3 at handle 16, resident in frame 2 of the host's memory. -/
def hostObject : State :=
  let s := (objects 4).mapDie 0 fun d => { d with tb := [⟨0x1000, 0, 0x2000, 0x6000000000000002, 0, 0, 0⟩] }
  withCtx s fun c => { c with wait := some (.host (objRef 8) 8 0x20008) }

theorem test_hyps_host_data : hostObject.pkg.hostUp = true ∧ hostObject.findCore ⟨0, 0, 0⟩ = some hostObject.core ∧
    hostObject.core.findCtx 0 = some hostObject.ctx ∧ hostObject.ctx.wait = some (.host (objRef 8) 8 0x20008) ∧
    hostObject.ctx.arriving = [] ∧ (withCtx ready fun c => { c with arriving := [(3, 7)] }).ctx.arriving = [(3, 7)] ∧
    (3 : BitVec 6) ≠ 0 := by
  decide +kernel

theorem test_hyps_xbound_raise : (0x1000 : BitVec 21).toNat < 2 * 4096 ∧ ready.drains ready.core 0 0x1000 (2 * 4096) = false := by
  decide +kernel

def digested : State := withCtx snapping fun c => { c with digest := 5 }

theorem test_hyps_digest_fold : digested.peers = [] ∧ (digested.findTask 0).map (fun t => (t.phase, t.snap)) = some (.running, true) ∧
    digested.core.digestSum ≠ 0 ∧ digested.core.others = [] ∧ digested.ctx.live = true ∧ (digested.findMeter 0).isSome = true := by
  decide +kernel

theorem test_hyps_chain : (Chain.mk [] 0 0 [] [(1, true, [])]).recorded.find? (fun x => x.1 = (0 : Word).toNat + 1) ≠ none ∧
    (ready.queue 0).en = false ∧ (List.replicate 32 (0 : Byte)).length = 32 := by decide +kernel

def ended : State := withCtx (withTask ready (taskOf 0)) fun c => { c with live := false }

theorem test_hyps_retire : (∀ o ∈ ended.unc.bankOps, o.core.task ≠ 0) ∧ ended.findTask 0 = some (taskOf 0) ∧ ended.taskEnded (taskOf 0) = true ∧
    done? (Op.settleTask (taskOf 0) tRETIRED) (((ended.cores.filter fun c => c.id.task = 0).map fun c => clusterOf c.slot).foldl
      State.releaseCluster ended) (fun _ s₁ => done? (Op.tcbWord 0 0 0x20) s₁ fun w s₂ =>
        done? (Op.putState 0 0 tRETIRED (w.bits 31 0)) s₂ fun _ s₃ =>
          done? (Op.successors 0 ((taskOf 0).word 0x28) (((taskOf 0).word 0x30).bits 31 0) 0) s₃ fun _ _ => true) = true := by
  decide +kernel

theorem test_hyps_retire_failed : done? (Op.settleTask { taskOf 0 with phase := .failed } tFAILED) ended (fun _ _ => true) = true ∧
    done? (Op.settleTask { taskOf 0 with phase := .cancelled } tCANCELLED) ended (fun _ _ => true) = true := by decide +kernel

/-- A coherent object at handle 16, resident in frame 2 of the bank memory: its first line has tag 0x400. -/
def coherent : State :=
  withUnc ((objects 0)) fun u => { u with objectCache := [⟨0, 0, 16, 0x200, 0x00011B0000010000, 7, 0x1000, 0, 0, 0⟩] }

def busyEntry : DirEntry := { DirEntry.empty 0x400 with state := .busy }
def txOf (own : Bool) (forward : Option Nat) (inv : List Nat) (granted : Bool) : DirTx :=
  ⟨0x400, .cluster 0, own, DirEntry.empty 0x400, forward, inv, none, [], granted, 0⟩
def lineOf (cl : Nat) (st : LineState) : CacheLine := ⟨cl, 0x400, st, 5, BitVec.allOnes 128, 1, [], []⟩

def inTx (tx : DirTx) (ls : List CacheLine) : State :=
  withUnc coherent fun u => { u with directory := [busyEntry], dirTxs := [tx], lines := ls }

theorem test_hyps_dir_request : coherent.dirHeld 0x400 = false ∧ coherent.unc.directory = [] ∧ coherent.translated 0 0x400 = true ∧
    coherent.findLine 0 0x400 = none ∧ (1 : BitVec 13) ≠ coherent.pkg.address ∧
    ({ coherent with pkg := { coherent.pkg with ports := [⟨0, true, 0, 0, [], []⟩] } } : State).reach 1 = 0 ∧
    coherent.fenceLevel (tagStack 0x400 / 2) ≠ 2 ∧
    tagHome 0x400 = coherent.pkg.address.toNat ∧ ((inTx (txOf true none [] false) []).dirEntry 0x400).state = .busy := by
  decide +kernel

theorem test_hyps_dir_steps :
    (inTx (txOf true (some 3) [] false) [lineOf 3 .modified]).findTx 0x400 = some (txOf true (some 3) [] false) ∧
    (inTx (txOf true (some 3) [] false) [lineOf 3 .modified]).findLine 3 0x400 = some (lineOf 3 .modified) ∧
    (127 : Nat) ∈ (txOf true none [127] false).invalidate ∧ (txOf true none [] false).invalidate = [] ∧
    (txOf true none [] false).forward = none ∧ (txOf true none [] false).granted = false ∧
    (txOf false none [] true).before.tag = 0x400 ∧ (txOf false none [] true).before.state = .invalid ∧
    (∀ w ∈ (inTx (txOf false none [] true) []).unc.dirWaiting, w.tag ≠ 0x400) := by
  decide +kernel

theorem test_hyps_dir_put : (withUnc coherent fun u => { u with lines := [lineOf 3 .scoped] }).findLine 3 0x400 = some (lineOf 3 .scoped) ∧
    (lineOf 3 .owned).state ≠ .scoped ∧ (coherent.dirEntry 0x400).state ≠ .busy ∧
    (withUnc coherent fun u => { u with directory := [{ DirEntry.empty 0x400 with state := .modified, owner := 3 }] }).dirEntry 0x400 =
      { DirEntry.empty 0x400 with state := .modified, owner := 3 } := by
  decide +kernel

theorem test_hyps_conjunction : (ready.cdie 0).lost = false ∧ (ready.cdie (1 - 0)).lost = false ∧
    ({ ready with pkg := { ready.pkg with takeover := true } } : State).pkg.takeover = true ∧ (∃ c, (ready.cdie c).lost = false) :=
  ⟨by decide, by decide, rfl, ⟨0, by decide⟩⟩

def remoteIs (r : Reach) : State := { ready with pkg := { ready.pkg with remotes := [RemotePkg.mk 1 r 0 [] false [] []] } }

theorem test_hyps_remote : (1 : BitVec 13) ≠ ready.pkg.address ∧ ((remoteIs .reset).remotePkg 1).state = .reset ∧
    ((remoteIs .down).remotePkg 1).state = .down ∧ ((remoteIs .up).remotePkg 1).state = .up ∧
    ((remoteIs .unreachable).remotePkg 1).state = .unreachable ∧ (7 : BitVec 32) ≠ ((remoteIs .up).remotePkg 1).epoch ∧
    ready.unc.dirTxs = [] ∧ (ready.unc.directory.map (·.tag)).Nodup := by
  decide +kernel

theorem test_hyps_dcmd : (∀ e ∈ ready.unc.directory, e.tag ≠ (ready.cdie 0).select.bits 45 0) ∧
    ([{ DirEntry.empty 0 with state := .shared }].find? fun x => x.tag = (ready.cdie 0).select.bits 45 0).isSome = true ∧
    ({ DirEntry.empty 0 with state := .lost } : DirEntry).state = .lost ∧ ({ DirEntry.empty 0 with state := .lost } : DirEntry).tag = 0 ∧
    (ready.dirEntry 0).state ≠ .lost := by
  decide +kernel

/-! ### Hypotheses met: engine words and events -/

def mcmd (i : Instr) (ga gb : Word) : MCmd := ⟨i, 0, ga, gb, 0, 0, 0, false⟩

def matrixed (queue : List MCmd) (running : Option MRun) : State :=
  withCore ready fun c => { c with mx := { c.mx with queue := queue, running := running } }

theorem test_hyps_matrix_words : Fit (matrixed [mcmd (.minit 1 2 0) 0 0] none) ∧
    (matrixed [mcmd (.minit 1 2 0) 0 0] none).core.mx.queue.length = 1 ∧
    2 ≤ (matrixed [mcmd (.minit 1 2 0) 0 0, mcmd (.minit 1 2 0) 0 0] none).core.mx.queue.length ∧
    (matrixed [mcmd (.minit 1 2 0) 0 0] none).unc.bankOps = [] ∧ (matrixed [mcmd (.minit 1 2 0) 0 0] none).ctx.reports = [] :=
  ⟨fit_of _ rfl rfl rfl rfl rfl rfl rfl rfl, by decide, by decide, rfl, rfl⟩

theorem test_hyps_efence : ready.ctx.progress = none ∧ ready.core.mx.queue = [] ∧ ready.core.mx.running = none ∧
    ready.ctx.matrixReport = none ∧ (withCtx ready fun c => { c with progress := some 0 }).ctx.progress = some 0 ∧
    ((withCtx ready fun c => { c with reports := [⟨8, 0, 0, .engine 5 true⟩] }).ctx.matrixReport).isSome = true ∧
    (matrixed [mcmd (.minit 1 2 0) 0 0] none).core.mx.queue ≠ [] := by decide +kernel

def shapeOf (src dst : Word) (n : Nat) : Shape := ⟨0, 4, 1, false, false, false, 0, src, dst, n, 0, 0, 0, 0, 0, 0, 0, 0, 0, 0⟩
def copyCmd : CopyCmd := ⟨.cpy 1 2 3, 0, 0x1000, 0, 0, false⟩
def runOf (sh : Shape) : CopyRun := ⟨copyCmd, sh, 0, 0, none, false, none, [], false⟩
def copying (s : State) (queue : List CopyCmd) (flight : List CopyRun) : State :=
  withCore s fun c => { c with copies := ⟨queue, flight⟩ }

def ringRun : CopyRun := runOf { shapeOf 0 0 32 with ring := 1, srcRing := true }

theorem test_hyps_copy_words : Fit (copying ready [copyCmd] [runOf (shapeOf 0x1000 0x1020 32)]) ∧
    ((copying ready [copyCmd] []).core.copies.queue.filter fun x => x.ctx = 0).length = 1 ∧ copyCmd.tok = 3 ∧
    (∀ c ∈ (copying ready [] []).core.copies.queue, ¬(c.ctx = 0 ∧ c.tok = 3)) ∧
    done? (Op.copyCancel ⟨0, 0, 0⟩ 0 ringRun) (copying (ringed true 0) [] [ringRun]) (fun r _ => r.2.isNone) = true :=
  ⟨fit_of _ rfl rfl rfl rfl rfl rfl rfl rfl, by decide +kernel, rfl, by decide, by decide +kernel⟩

def collective (f : CollSlot → CollSlot) (queue : List CollCmd) : State :=
  withCore ready fun c => { c.setCollSlot 1 (f CollSlot.zero) with coll := queue }

theorem test_hyps_collective_words : Fit (collective id []) ∧ (collective id []).Settled ∧ ((collective id []).core.collSlot 1).isOpen = false ∧
    (collective id []).core.startQueued 1 = false ∧ ((collective id []).core.collSlot 1).issued = false ∧
    ((collective (fun x => { x with issued := true, ended := true }) []).core.collSlot 1).ended = true ∧
    ((collective (fun x => { x with issued := true, taken := true, isOpen := true }) []).core.collSlot 1).isOpen = true ∧
    ((collective (fun x => { x with taken := true, done := 6 }) []).core.collSlot 1).taken = true ∧
    (6 : Word) &&& ~~~((collective (fun x => { x with taken := true, done := 6 }) []).core.collSlot 1).done = 0 ∧
    (collective id [⟨.cstart 1 2 1, 0, 0, 0, 0, none⟩]).core.startQueued 1 = true :=
  ⟨fit_of _ rfl rfl rfl rfl rfl rfl rfl rfl, ⟨rfl, rfl, rfl⟩, by decide +kernel⟩

theorem test_hyps_tready_open : done? (Op.fireReady ⟨0, 0, 0⟩ 1)
    (collective (fun x => { x with issued := true, taken := true, isOpen := true }) []) (fun _ _ => true) = true := by
  decide +kernel

def mailed (f : MailRing → MailRing) : State :=
  withCore ready fun c => { c with mail := f ⟨true, false, 0, 0x2000, 0xFFFFFFE0, 0xFFFFFFE0⟩ }

theorem test_hyps_mail_words : Fit (mailed id) ∧ ready.core.mail.configured = false ∧ (mailed id).core.mail.configured = true ∧
    refOffset 0xFFFF8 + min (8 : Word).toNat 4088 ≤ 0x100000 ∧ (mailed id).core.mail.producer = (mailed id).core.mail.consumer ∧
    (mailed fun r => { r with broken := true }).core.mail.broken = true ∧
    (mailed fun r => { r with producer := 0 }).core.mail.producer ≠ (mailed fun r => { r with producer := 0 }).core.mail.consumer ∧
    (mailed fun r => { r with producer := 0 }).core.mailTurn = true ∧ (0 : Word).bits 43 42 ≠ 1 ∧
    (0x2000 : Word).bits 63 23 = 0 ∧ (0x2000 : Word).bits 19 0 % 4096 = 0 ∧ ready.core.xbTake.toNat ≤ (0x2000 : Word).bits 19 0 :=
  ⟨fit_of _ rfl rfl rfl rfl rfl rfl rfl rfl, rfl, rfl, by decide, rfl, rfl, by decide +kernel, by decide +kernel, by decide,
    by decide, by decide, by decide +kernel⟩

theorem test_hyps_accumulator : (0x400000 : Nat) ≤ 0x400000 ∧ (AccClass.nan ≠ .nan → (5 : Nat) = 0) ∧ Elem.zero.cls = .finite ∧
    ([Contrib.num 1, .special .posInf 0] : List Contrib).Perm [.special .posInf 0, .num 1] :=
  ⟨by decide, by decide, rfl, List.Perm.swap _ _ _⟩

theorem test_hyps_matrix_take : (matrixed [mcmd (.minit 1 2 0) 511 0] none).findCore ⟨0, 0, 0⟩ ≠ none ∧ ready.pkg.start ≠ .limited ∧
    ready.matrixRefusal ready.core (mcmd (.minit 1 2 0) 511 0) = none ∧
    ready.matrixRefusal ready.core (mcmd (.minit 1 2 0) 512 0) = some (cILL, 6) ∧ 511 < (512 : Word).toInt ∧
    (withCore ready fun c => { c with mx := { c.mx with skipFor := some 0 } }).core.mx.skipFor.isSome = true ∧
    engineValid 0x14401 0 = true ∧ (0x14401 : Word).bits 1 0 ≠ 0 := by decide +kernel

theorem test_hyps_matrix_end : (matrixed [] (some ⟨mcmd (.mshad 1 2 0) 2 0, 0, false⟩)).core.mx.running =
      some ⟨mcmd (.mshad 1 2 0) 2 0, 0, false⟩ ∧ 1 ≤ (rdConfig 0x100 0).fmt ∧ (rdConfig 0x100 0).fmt ≤ 3 := by decide +kernel

def multiplying : State :=
  withCore ready fun c => { c with mx := { c.mx with mxc0 := 0x14400, running := some ⟨mcmd (.mma 1 2 3 0) 0x1000 0x4000, 0, false⟩ } }

theorem test_hyps_matrix_steps : (mcmd (.mma 1 2 3 0) 0x1000 0x4000).steps multiplying.core.mx = 1 ∧
    done? (Op.matBegin (multiplying.engineAgent multiplying.core 0 0 2) (mcmd (.mma 1 2 3 0) 0x1000 0x4000) 0 1) multiplying
      (fun r s₁ => (match r with | .ok true => true | _ => false) &&
        done? (Op.matSteps (multiplying.engineAgent multiplying.core 0 0 2) (mcmd (.mma 1 2 3 0) 0x1000 0x4000) 0 1 0) s₁
          fun r _ => decide (r.1 = 1) && r.2.isNone) = true := by
  decide +kernel

def ringedMmar (broken : Bool) (filled : BitVec 32) : State :=
  withCore (ringed broken filled) fun c => { c with mx := { c.mx with running := some ⟨mcmd (.mmar 1 2 3 0) 0 1, 0, true⟩ } }

theorem test_hyps_mmar : ((ringedMmar true 0).core.ring ((1 : Word).toNat % 8)).broken = true ∧
    1 ≤ ((ringedMmar false 1).core.ring 1).filled ∧ ((ringedMmar false 0).core.ring 1).filled = 0 := by decide +kernel

def takes (s : State) (m : CopyCmd) (p : TakeResult → Bool) : Bool :=
  done? (Op.takeChecks (s.engineAgent s.core m.ctx m.sevpol m.scope) s.core m) s fun r t => decide (t = s) && p r

theorem test_hyps_copy_take : takes ready ⟨.cpyr 1 2 3 .core 7, 0, 0x1000, 0x4000, 0, false⟩ (fun r => match r with
      | .go sh => decide (sh.total ≠ 0)
      | _ => false) = true ∧
    takes ready ⟨.cpyr 1 2 3 .core 7, 0, 0xFE000, 0xFF000, 0, false⟩ (fun r => match r with
      | .refuse cause operand => decide (cause = cBOUND ∧ operand = 1)
      | _ => false) = true ∧
    (0x8 : Word).getLsbD 3 = true ∧ (0x8 : Word).bits 19 6 * 64 < 0x1000 ∧ (0x6 : Word).bits 2 0 = 6 := by
  decide +kernel

def moving : State := copying ready [] [runOf (shapeOf 0x1000 0x1020 32)]

theorem test_hyps_copy_complete : (∀ k, moving.findTask moving.core.id.task = some k → k.twin = false) ∧
    moving.core.resident = true ∧ moving.core.lm.wf = true ∧ refOffset 0x1000 % 32 + 32 ≤ 32 ∧
    done? (Op.copyFinish ⟨0, 0, 0⟩ 0) moving (fun _ _ => true) = true :=
  ⟨fun k h => by simp [moving, copying, withCore, ready, State.withFetchWord, State.reset, State.findTask, Dispatcher.reset] at h,
    rfl, by decide +kernel, by decide, by decide +kernel⟩

def ringCopy (broken : Bool) (filled : BitVec 32) (src : Bool) : State :=
  copying (ringed broken filled) [] [runOf { shapeOf 0 0 32 with ring := 1, srcRing := src, dstRing := !src }]

theorem test_hyps_copy_ring : ((ringCopy true 0 true).core.ring 1).broken = true ∧ ((ringCopy false 0 true).core.ring 1).filled = 0 ∧
    ((ringCopy false 2 false).core.ring 1).slots ≤ ((ringCopy false 2 false).core.ring 1).filled ∧
    done? (Op.copySlot ⟨0, 0, 0⟩ 0) (ringCopy true 0 true) (fun _ _ => true) = true := by
  decide +kernel

/-- The object of `objects` with its frame not resident. -/
def absent : State := (objects 4).mapDie 0 fun d => { d with tb := [⟨0x1000, 0, 0x2000, 0, 0, 0, 0⟩] }

theorem test_hyps_copy_frame :
    let r := runOf (shapeOf (objRef 0) 0x1000 32)
    let s := copying absent [] [r]
    let j := s.copyJob ⟨0, 0, 0⟩ s.core r r.shape r.shape.src r.shape.dst 0 r.shape.rows
    done? (Op.moveRows j.1 r.shape r.shape.src r.shape.dst r.shape.rows 0 j.2) s (fun x _ => x.1.run.isNone && match x.2 with
      | some (_, .notres _ _) => true
      | _ => false) = true := by
  decide +kernel

/-! ### Hypotheses met: collectives and mail -/

/-- Local memory with a group of one member at 0x1000 and a table of one FP32 tile at 0x2000. -/
def calls (f : CollSlot → CollSlot) (m : CollCmd) : State :=
  withCore (collective f [m]) fun c => { c with lm := [(0x1000, 1), (0x1004, 7), (0x2002, 1), (0x2003, 1), (0x2004, 1),
    (0x2021, 0x30), (0x2029, 0x40), (0x2030, 1)] }

def groupOf : List Byte := [1, 0, 0, 0, 7, 0, 0, 0, 0, 0]
def tableOf : List Byte := [0, 0, 1, 1, 1] ++ List.replicate 28 0 ++ [0x30] ++ List.replicate 7 0 ++ [0x40] ++
  List.replicate 6 0 ++ [1] ++ List.replicate 15 0

def reads (s : State) (op : Agent → LCore → Op CollRead) (r : CollRead) : Bool :=
  done? (op { s.engineAgent s.core 0 0 0 with el := true } s.core) s fun x t => decide (x = r) && decide (t = s)

theorem test_hyps_coll_take :
    reads (calls id ⟨.cgrp 1 2 1, 0, 0x1000, 0, 0, none⟩) (fun ag c => Op.readGroup ag c 0x1000) (.bytes groupOf) = true ∧
    reads (calls id ⟨.cgrp 1 2 1, 0, 0x3000, 0, 0, none⟩) (fun ag c => Op.readGroup ag c 0x3000) (.refuse cILL) = true ∧
    reads (calls id ⟨.ctab 1 2 1, 0, 0x2000, 0, 0, none⟩) (fun ag c => Op.readTable ag c 1 0x2000) (.bytes tableOf) = true ∧
    (0x1004 : Word).toNat % 8 ≠ 0 ∧ (0x1010 : Word).toNat % 32 ≠ 0 ∧ groupSize groupOf = 1 ∧
    ({ CollSlot.zero with group := some groupOf, table := some tableOf } : CollSlot).canStart 0 = true ∧
    ({ CollSlot.zero with group := some groupOf, table := some tableOf } : CollSlot).spanCause 0x1000 = none ∧
    ({ CollSlot.zero with group := some groupOf, table := some tableOf } : CollSlot).spanCause 0x4000 = some (cXDATA, 0) ∧
    (0 : Word).getLsbD 0 = false ∧ ready.unc.collAborts = [] ∧ (∀ d ∈ ready.cores, d.stopped = false) ∧
    (ready.die (dieOf ready.core.slot)).overflow = [] := by
  decide +kernel

def packet : Packet := ⟨⟨0, 0, 0⟩, ⟨0, 1, 0⟩, 7, 1, 1, 0, 0, 0, 1, 0, 1, 0, ⟨0, 0, [0, 0, 0, 0]⟩⟩

def arriving (n : BitVec 32) (open_ : Bool) : State :=
  let s := collective (fun x => { x with group := some groupOf, table := some tableOf, count := n, isOpen := open_ }) []
  withUnc (s.mapDie 0 fun d => { d with ovCapacity := 4 }) fun u => { u with packets := [packet] }

theorem test_hyps_coll_arrival :
    (arriving 1 false).nextPacket ⟨0, 0, 0⟩ = some packet ∧ (arriving 1 false).core.callAt 7 1 = .past ∧
    (arriving 0 false).nextPacket ⟨0, 0, 0⟩ = some packet ∧ (arriving 0 false).core.callAt 7 1 = .future ∧
    (arriving 1 true).nextPacket ⟨0, 0, 0⟩ = some packet ∧ (arriving 1 true).core.callAt 7 1 = .slot 1 ∧
    packet.head0 ≠ ((arriving 1 true).core.collSlot 1).tab.head0 ∧
    (∀ k ∈ (arriving 1 true).disp.tasks, k.twin = false) := by
  decide +kernel

def cutting (f : CollSlot → CollSlot) : State :=
  withUnc (collective (fun x => f { x with isOpen := true, group := some groupOf, count := 1 }) [])
    fun u => { u with collAborts := [⟨⟨0, 0, 0⟩, 7, 2, 0x17, 0, 0⟩] }

theorem test_hyps_coll_abort :
    ((cutting id).core.collSlot 1).isOpen = true ∧ (cutting id).abortOf ⟨0, 0, 0⟩ 7 1 = none ∧
    (cutting fun x => { x with count := 2 }).abortOf ⟨0, 0, 0⟩ 7 2 = some ⟨⟨0, 0, 0⟩, 7, 2, 0x17, 0, 0⟩ ∧
    (cutting id).groupStopped ⟨0, 0, 0⟩ ((cutting id).core.collSlot 1) = false ∧
    ((cutting fun x => { x with cut := true }).core.collSlot 1).cut = true ∧
    ({ cutting id with peers := [{ LCore.empty with id := ⟨0, 3, 0⟩, stopped := true }] } : State).groupStopped ⟨0, 0, 0⟩
      { (cutting id).core.collSlot 1 with group := some [2, 0, 0, 0, 7, 0, 0, 0, 0, 0, 3, 0] } = true ∧
    (cutting id).unc.lines = [] ∧ (collective id []).core.collSlot 1 = CollSlot.zero := by
  decide +kernel

/-- A state whose collective queue holds a SENDM of 8 bytes at 0x1000 to logical core 0. -/
def sending (r : MailRing) (p : Option (List Byte)) (nb : Bool) : State :=
  withCore ready fun c => { c with mail := r, coll := [⟨.sendm 1 2 3 nb, 0, 0x1000, 8, 0, p⟩], lm := [(0x1000, 5)] }

def ringAt (p c : BitVec 32) : MailRing := ⟨true, false, 0, 0x2000, c, p⟩

theorem test_hyps_mail_take : (∀ k ∈ (sending MailRing.zero none false).disp.tasks, k.twin = false) ∧
    (sending MailRing.zero none false).core.regs.lx * (sending MailRing.zero none false).core.regs.ly ≤ (0x100000000 : Word).bits 47 32 ∧
    4088 < (4089 : Word).bits 15 0 ∧
    done? (Op.sendChecks ((sending (ringAt 0 0) none false).engineAgent (sending (ringAt 0 0) none false).core 0 0 5)
      (sending (ringAt 0 0) none false).core ⟨.sendm 1 2 3 false, 0, 0x1000, 8, 0, none⟩) (sending (ringAt 0 0) none false)
      (fun r t => decide (r = .payload [5, 0, 0, 0, 0, 0, 0, 0]) && decide (t = sending (ringAt 0 0) none false)) = true := by
  decide +kernel

theorem test_hyps_mail_ring : (sending MailRing.zero none false).sendRing ⟨0, 0, 0⟩ 0 = some MailRing.zero ∧
    MailRing.zero.configured = false ∧ { ringAt 0 0 with broken := true }.configured = true ∧ (ringAt 0 0).bytes = 4096 ∧
    (ringAt 0 0).bytes < 4128 ∧ (ringAt 0x1000 0).send 32 true = .wait ∧ (ringAt 0x1000 0).send 32 false = .wait ∧
    (ringAt 0xFE0 0xFE0).send 64 true = .full (ringAt 0x1000 0x1000) ∧
    (ringAt 0xFFFFFFE0 0xFFFFFFE0).send 32 false = .write none (ringAt 0xFFFFFFE0 0xFFFFFFE0) ∧
    (sending (ringAt 0 0) (some [5]) false).findCore ⟨0, 0, 0⟩ ≠ none ∧ (sending (ringAt 0 0) (some [5]) false).core.lm.wf = true := by
  decide +kernel

/-! ### Hypotheses met: launching and queues -/

/-- The object of `mapped`, of class 1, with a TCB at its start: word 0x20 is `w20`, and its queue is `q`. -/
def tcb (w20 q : Word) : State :=
  let m : Memory := []
  withUnc (mapped 0x0001030000010000 1) fun u => { u with hbm := (m.setWord 0x10020 w20).setWord 0x10030 (q <<< 32) }

theorem test_hyps_launch_wrong : (withG ready 1 0x100000000040).Settled ∧ Fit (withG ready 1 0x100000000040) ∧
    ready.twinned = false ∧ ((withG ready 1 0x100000000040).G 1).toNat % 128 ≠ 0 :=
  ⟨⟨rfl, rfl, rfl⟩, fit_of _ rfl rfl rfl rfl rfl rfl rfl rfl, by decide, by decide⟩

theorem test_hyps_launch : (tcb 0 0).Settled ∧ Fit (tcb 0 0) ∧ (tcb 0 0).twinned = false ∧
    done? (Op.launch (.cluster 0) 0 (objRef 0)) ((tcb 0 0).mapQueue 0 fun q => { q with launchers := 1 })
      (fun r t => decide (r = 0) && decide (t.ctx.pendG = 0) && decide ((t.queue 0).head = objRef 0)) = true ∧
    done? (Op.depdec (.cluster 0) 0 (objRef 0)) ((tcb 2 0).mapQueue 0 fun q => { q with launchers := 1 })
      (fun r t => decide (r = 1) && decide (t.ctx.pendG = 0)) = true ∧
    done? (Op.validTcb 0 (objRef 0)) (tcb 0x300000000 0) (fun r t => r && decide (t = tcb 0x300000000 0)) = true ∧
    done? (Op.tcbWord 0 (objRef 0) 0x20) (tcb 0x300000000 0)
      (fun r t => decide (r = 0x300000000) && decide (t = tcb 0x300000000 0)) = true :=
  ⟨⟨rfl, rfl, rfl⟩, fit_of _ rfl rfl rfl rfl rfl rfl rfl rfl, by decide +kernel⟩

theorem test_hyps_append : done? (Op.validTcb 0 (objRef 0x40)) (tcb 0 0) (fun r t => !r && decide (t = tcb 0 0)) = true ∧
    ((tcb 0 0).queue 63).launchers.getLsbD 5 = false ∧ (0x300000000 : Word).bits 63 32 ≠ 0 ∧ (2 : Word).bits 31 0 ≠ 0 ∧
    done? (Op.tcbState 0 (objRef 0)) (tcb 2 0) (fun r t => decide (r = (tIDLE, 2)) && decide (t = tcb 2 0) &&
      done? (Op.putState 0 (objRef 0) tWAITING 2) t fun _ _ => true) = true ∧
    done? (Op.tcbState 0 (objRef 0)) (tcb 0 0) (fun r t => decide (r = (tIDLE, 0)) && decide (t = tcb 0 0) &&
      done? (Op.putState 0 (objRef 0) tREADY 0) t fun _ u =>
        done? (Op.link (.cluster 0) 0 (objRef 0) 63) u fun _ _ => true) = true ∧
    done? (Op.tcbState 0 (objRef 0)) (tcb 0x300000001 0) (fun r t => decide (r = (3, 1)) && decide (t = tcb 0x300000001 0)) = true ∧
    done? (Op.tcbWord 0 (objRef 0) 0x30) (tcb 1 0) (fun r t => decide (r = 0) &&
      done? (Op.putState 0 (objRef 0) tREADY 0) t fun _ u => done? (Op.link (.cluster 0) 0 (objRef 0) 0) u fun _ _ => true) = true ∧
    done? (Op.putState 0 (objRef 0) tFAILED 0) (tcb 0 0) (fun _ t =>
      done? (Op.tcbWord 0 (objRef 0) 0x70) t fun r _ => decide (r = 0)) = true := by
  decide +kernel

/-- The header line of queue 0 in a transaction of the directory. -/
def inFlight (s : State) : State :=
  withUnc s fun u => { u with directory := [{ DirEntry.empty (s.headerTag 0) with state := .busy }] }

theorem test_hyps_queue_words : ready.pkg.hostUp = true ∧
    ready.headless = false ∧ done? (Op.append .bank 0 none (objRef 0) 0) (tcb 0 0) (fun r _ => decide (r = 0)) = true ∧
    (ready.queue 0).hostAppend = none ∧ (match Op.append .bank 0 none (objRef 0) 0 (inFlight (tcb 0 0)) with
      | .error _ => true
      | .ok _ => false) = true ∧ (match Op.shareHeader 0 (inFlight (tcb 0 0)) with
      | .error _ => true
      | .ok _ => false) = true ∧ done? (Op.shareHeader 3) ready (fun _ _ => true) = true ∧
    done? (Op.ownHeader 0) (tcb 0 0) (fun _ _ => true) = true ∧
    ((ready.mapQueue 3 fun q => { q with en := true }).queue 3).en = true ∧ ready.sharesHeader 3 = false ∧
    (((tcb 0 0).mapQueue 0 fun q => { q with waitLink := true, head := objRef 0 }).queue 0).waitLink = true ∧
    done? (Op.tcbWord 0 (objRef 0) 0) (tcb 0 0) (fun r t => decide (r = 0) && decide (t = tcb 0 0)) = true ∧
    done? (Op.tcbWord 0 (objRef 0x20) 0) (tcb 5 0) (fun r t => decide (r = 5) && decide (t = tcb 5 0)) = true := by
  decide +kernel

/-- A running task at the TCB of `tcb`, and its queue with a watchdog of 10 µs. -/
def watched (watch : Nat) (phase : TaskPhase) : State :=
  withTask ((tcb 0x300000000 0).mapQueue 0 fun q => { q with watchdog := 10 }) { taskOf 0 with ref := objRef 0, watch := watch, phase := phase }

theorem test_hyps_watchdog : ((watched 9 .running).findTask (objRef 0)).map (fun k => decide (k.watch < (watched 9 .running).budget k)) =
      some true ∧
    ((watched 10 .running).findTask (objRef 0)).map (fun k => decide ((watched 10 .running).budget k ≤ k.watch)) = some true ∧
    done? (Op.forEach (fun r => Op.cancelRunning r 1) [objRef 0]) (watched 10 .running) (fun _ _ => true) = true := by
  decide +kernel

theorem test_hyps_cancel : done? (Op.queueOf (objRef 0)) (watched 0 .running)
      (fun q t => decide (q = some 0) && decide (t = watched 0 .running)) = true ∧
    done? (Op.tcbWord 0 (objRef 0) 0x20) (watched 0 .running)
      (fun w t => decide (w = 0x300000000) && decide (t = watched 0 .running)) = true ∧
    done? (Op.tcbWord 0 (objRef 0) 0x70) (watched 0 .running) (fun _ t => decide (t = watched 0 .running)) = true ∧
    done? (Op.cancelRunning (objRef 0) 2) (watched 0 .running) (fun _ _ => true) = true ∧
    ((watched 0 .failed).findTask (objRef 0)).map (·.phase) = some .failed ∧
    done? (Op.queueOf (objRef 0)) (watched 0 .failed) (fun q t => decide (q = some 0) && decide (t = watched 0 .failed)) = true ∧
    (5 : Word).toNat % 128 ≠ 0 := by
  decide +kernel

/-! ### Hypotheses met: the dispatcher -/

/-- A package with die 0 in service; a TCB at handle 16, READY in `phase` and linked at the head of queue 0, of one logical
core; its code object at handle 17, of 4096 bytes of code. -/
def linked (state : Word) (entry : Word) (grid : Word) : State :=
  let m : Memory := []
  let m := (m.setWord 0x10008 entry).setWord 0x10010 grid
  let m := ((m.setWord 0x10020 state).setWord 0x10030 0x0100000000000000).setWord 0x20000 0x1000
  let s := (mapped 0x0001030000010000 1).mapQueue 0 fun q => { q with
    en := true, status := .active, head := objRef 0, tail := objRef 0, seenHead := objRef 0, seenTail := objRef 0 }
  let s := s.mapDie 0 fun d => { d with ready := true }
  withUnc s fun u => { u with
    directory := [{ DirEntry.empty (s.headerTag 0) with state := .shared, pinned := true, dispatcher := true }]
    hbm := m
    priv := (((((u.priv.setWord 0x220 0x0034040000010000).setWord 0x230 0x1100).setWord 0x1100 1).setWord 0x1110 65536).setWord
      0x1118 0x3000).setWord 0x3000 0x4000000000000002 }

def launchable : State := linked 0x200000000 0x110000000010 0x0000000100010001

theorem test_hyps_clear_heads :
    done? (Op.clearHeads (List.range 64)) (linked 0x500000000 0 0) (fun b _ => b) = true := by decide +kernel

/-- A pre-empted task of a test queue, held for slot 0 of die 0; where another package holds that slot, it does not fit. -/
def holding (fits : Bool) : State :=
  let s := (tcb 0x200000000 0).mapQueue 0 fun q => { q with en := true, status := .active }
  let s := withTask (s.mapDie 0 fun d => { d with ready := true }) { taskOf 0x0000000100010001 with
    ref := objRef 0, phase := .held, binds := [⟨0, 0, 0, 0, 0, false, false, false⟩] }
  { s with disp := { s.disp with testMask := 1, foreign := if fits then [] else [⟨1, 0, 0, [0]⟩] } }

/-- What selection finds where nothing but a held task is a candidate, and whether it is settled. -/
def retries (s : State) (settled : Bool) : Bool :=
  done? (Op.clearHeads (List.range 64)) s fun b s₁ => !b && done? Op.heldCands s₁.dropDeficits fun held s₂ => match held with
    | [(c, k)] => done? (Op.collect Op.candidate (List.range 64)) s₂ fun cs s₃ => decide (cs.filterMap (fun c => c) = []) &&
        done? (Op.retryHeld [] c k) s₃ fun b _ => b = settled
    | _ => false

theorem test_hyps_retry_held : retries (holding true) true = true ∧ retries (holding false) false = true ∧
    retries ((holding true).mapDie 0 fun d => { d with ready := false }) true = true ∧
    (List.range 64).any (holding false).idleDeficit = false := by
  decide +kernel

theorem test_hyps_retry_idle : retries ((holding false).mapQueue 3 fun q => { q with deficit := 5 }) false = true ∧
    (List.range 64).any ((holding false).mapQueue 3 fun q => { q with deficit := 5 }).idleDeficit = true := by
  decide +kernel

/-- Nothing linked and nothing held: whether some queue has a positive deficit to lose. -/
def idles (s : State) (idle : Bool) : Bool :=
  done? (Op.clearHeads (List.range 64)) s fun b s₁ => !b && ((List.range 64).any s₁.idleDeficit == idle) &&
    done? Op.heldCands s₁.dropDeficits fun held s₂ => decide (held = []) &&
      done? (Op.collect Op.candidate (List.range 64)) s₂ fun cs _ => decide (cs.filterMap (fun c => c) = [])

theorem test_hyps_select_idle : ready.headless = false ∧ idles ready false = true ∧
    idles (ready.mapQueue 3 fun q => { q with deficit := 5 }) true = true := by
  decide +kernel

/-- What selection finds: no head to clear, nothing held, one candidate of priority 7; then a test of that candidate in the
state in which it has been marked. -/
def selects (s : State) (f : Cand → State → Bool) : Bool :=
  done? (Op.clearHeads (List.range 64)) s fun b s₁ => !b && done? Op.heldCands s₁.dropDeficits fun held s₂ => decide (held = []) &&
    done? (Op.collect Op.candidate (List.range 64)) s₂ fun cs s₃ => match cs.filterMap fun c => c with
      | [c] =>
        let s₄ := s₃.replenish [c.queue]
        decide (c.prio = 7) && decide (c.resume = none) && decide (s₄.pickQueue 7 [c.queue] = some 0) &&
          f c (s₄.markSelected 7 0)
      | _ => false

theorem test_hyps_select_rejected :
    selects (linked 0x200000000 0 0x0000000100010001) (fun c s => done? (Op.refused c) s fun b _ => b) = true := by
  decide +kernel

theorem test_hyps_select_admitted : selects launchable (fun c s => done? (Op.refused c) s fun b s₅ => !b &&
    done? (Op.settleCand c [] [] []) s₅ fun _ t => t.disp.tasks.any fun k => k.phase = .running) = true := by
  decide +kernel

def deficits (a b : Int) : State :=
  (ready.mapQueue 3 fun q => { q with deficit := a }).mapQueue 5 fun q => { q with deficit := b, weight := 3 }

theorem test_hyps_deficits : (deficits (-70000) 0).pickQueue 7 [3, 5] = none ∧ (deficits 1 1).pickQueue 7 [3, 5] = some 3 ∧
    ((deficits 1 1).markSelected 7 3).pickQueue 7 [3, 5] = some 5 ∧ ((deficits 1 1).disp.lastSel.toList.getD 7 none) = none ∧
    (∀ q ∈ [3, 5], ((deficits (-70000) 0).queue q).deficit ≤ 0) ∧ 0 < ((deficits 1 1).queue 3).deficit ∧
    ((deficits (-70000) 0).replenish [3, 5]).queue 5 = { (deficits (-70000) 0).queue 5 with deficit := 196608 } := by
  decide +kernel

def withRemote (r : List Grant) : State :=
  withTask ready { taskOf 0x0000000100010001 with phase := .held, remote := r }

/-- A running task of one logical core, bound to another package where `valid`. -/
def boundAway (valid : Bool) : State :=
  withTask ready { taskOf 0x0000000100010001 with binds := [⟨0, 0, 7, 0, 1, valid, false, false⟩] }

theorem test_hyps_bindings : ((withRemote []).findTask 0).map (fun k => (k.phase, (gridOf k.words).groups.length)) = some (.held, 1) ∧
    (1 : BitVec 13) ≠ (withRemote []).pkg.address ∧ (gridOf [0, 0, 0x0000000100010001]).unitMembers 0 = [(0, 0)] ∧
    ((withRemote [⟨1, 1, []⟩]).findTask 0).map (fun k => k.remote.all fun r => r.unit ≠ 0 && r.package.toNat ≤ 1) = some true ∧
    ((boundAway false).findTask 0).map (fun k => (k.phase, k.binds.map (·.valid))) = some (.running, [false]) ∧
    ((boundAway true).findTask 0).map (fun k => k.binds.map fun b => (b.package, b.valid, b.placed)) = some [(1, true, false)] ∧
    (∀ c ∈ ({ boundAway false with core := { ready.core with resident := false } } : State).cores, c.resident = false) := by
  decide +kernel

/-! ### Hypotheses met: placement and saving -/

/-- Logical core 0 of the task of `launchable`, admitted and bound to slot 0. -/
def bound (phase : TaskPhase) (grid : Word) (b : Bind) (f : LCore → LCore) : State :=
  let words : List Word := [0, 0x110000000010, grid, 0, 0x300000000, 0, 0x0100000000000000] ++ List.replicate 25 0
  let s := withTask launchable { taskOf 0 with ref := objRef 0, phase := phase, words := words, binds := [b] }
  withCore s fun c => f { c with id := ⟨objRef 0, 0, 0⟩ }

def fresh : State := bound .running 0x0000000100010001 ⟨0, 0, 0, 0, 0, true, false, false⟩ id

theorem test_hyps_first_placement : (fresh.findTask (objRef 0)).map (fun k => (k.phase, k.binds)) =
      some (.running, [⟨0, 0, 0, 0, 0, true, false, false⟩]) ∧
    fresh.findCore ⟨objRef 0, 0, 0⟩ = some fresh.core ∧ fresh.core.imageArea = none ∧ fresh.takesCore fresh.core = true ∧
    done? (Op.codeBytes { taskOf 0 with ref := objRef 0, words := [0, 0x110000000010] }) fresh
      (fun r t => decide (t = fresh) && match r with
        | .ok (_, l) => decide (l = 0x1000)
        | _ => false) = true := by
  decide +kernel

def lost : State := bound .running 0x0000000100010001 ⟨0, 0, 0, 0, 0, false, true, false⟩ fun c => { c with rollbackDue := some .struct, regs := { c.regs with gangsz := 1, lx := 1 } }

theorem test_hyps_replace : (lost.findTask (objRef 0)).map (fun k => (k.phase, k.binds.map (·.valid))) = some (.running, [false]) ∧
    lost.core.rollbackDue.isSome = true ∧ lost.usable 5 = true ∧ (gridOf [0, 0, 0x0000000100010001]).gang = 1 ∧
    (gridOf [0, 0, 0x0000000100010001]).lx ≠ 0 ∧ lost.core.regs.gangix = 0 ∧ loadAt lost.boundSlots 5 < lost.depth ∧
    lost.findCore ⟨objRef 0, 0, 0⟩ = some lost.core := by
  decide +kernel

/-- Two single cores on slot 0: the resident one at position 0, and one of another task, of image area 1, at position 1. -/
def sliced (cycle : Word) (due : Bool) : State :=
  let s := bound .running 0x0000000100010001 ⟨0, 0, 0, 0, 0, true, true, false⟩ fun c => { c with switchDue := due }
  let s := withTask s { taskOf 0x0000000100010001 with binds := [⟨0, 0, 0, 1, 0, true, true, false⟩] }
  { s with cycle := cycle, peers := [{ LCore.empty with position := 1, imageArea := some 1, ctx := { Ctx.zero 0 with live := true } }] }

theorem test_hyps_slicing : (sliced 0x10000 false).cores.find? (fun c => c.slot = 0 && c.resident) = some (sliced 0x10000 false).core ∧
    (sliced 0x10000 false).core.switchDue = false ∧
    (sliced 0x10000 false).quantum ≤ ((sliced 0x10000 false).cycle - (sliced 0x10000 false).core.since).toNat ∧
    ((sliced 0x10000 false).nextGangs (sliced 0x10000 false).core).any (sliced 0x10000 false).gangReady = true ∧
    ((sliced 5 false).cycle - (sliced 5 false).core.since).toNat < (sliced 5 false).quantum ∧
    (ready.nextGangs ready.core).find? ready.gangReady = none := by
  decide +kernel

theorem test_hyps_switch : ((sliced 0 true).nextGangs (sliced 0 true).core).find? (sliced 0 true).gangReady = some [⟨0, 0, 0⟩] ∧
    (sliced 0 true).core.switchDue = true ∧
    done? (Op.forEach Op.saveCore ((sliced 0 true).gangIds (sliced 0 true).core)) (sliced 0 true)
      (fun _ s₁ => done? (Op.forEach Op.restoreCore [⟨0, 0, 0⟩]) s₁ fun _ _ => true) = true := by
  decide +kernel

/-- A preempted task of two bound logical cores. -/
def leaving (resident : Bool) : State :=
  let s := bound .preempted 0x0000000100010002 ⟨0, 0, 0, 0, 0, true, true, false⟩ fun c => { c with resident := resident }
  s.mapTask (objRef 0) fun t => { t with binds := t.binds ++ [⟨1, 0, 1, 0, 0, true, true, false⟩] }

theorem test_hyps_save : ((leaving true).findTask (objRef 0)).map (fun t => (t.phase, t.binds.map (·.valid))) =
      some (.preempted, [true, true]) ∧ (leaving true).core.resident = true ∧ (leaving false).core.resident = false ∧
    done? (Op.saveCore ⟨objRef 0, 0, 0⟩) (leaving true)
      (fun _ s₁ => decide (((s₁.findTask (objRef 0)).map fun t => t.binds.any fun b => b.lcore = 1 && b.valid) = some true)) = true := by
  decide +kernel

def returning : State := bound .running 0x0000000100010001 ⟨0, 0, 0, 0, 0, true, false, false⟩ fun c => { c with
  resident := false, imageArea := some 1 }

theorem test_hyps_restore : (returning.findTask (objRef 0)).map (fun t => (t.phase, t.binds.map (·.valid))) = some (.running, [true]) ∧
    returning.core.imageArea.isSome = true ∧ returning.core.rollbackDue = none ∧ returning.core.resident = false ∧
    (∀ d ∈ returning.cores, d.id = ⟨objRef 0, 0, 0⟩ ∨ d.resident = false ∨ d.slot ≠ returning.core.slot) ∧
    (∀ n < 4, (returning.core.collSlot n).isOpen = false) := by
  decide +kernel

/-! ### Hypotheses met: rollback and fences -/

/-- A core due for a rollback, whose task has SNAP, with a retry limit of `rmax`. -/
def due (rmax : Word) : State :=
  withSys (bound .running 0x0002000100010001 ⟨0, 0, 0, 0, 0, true, true, false⟩ fun c => { c with rollbackDue := some .struct })
    fun y => { y with sevpol := rmax <<< 16 }

theorem test_hyps_rollback_fails : ((due 0).findTask (objRef 0)).map (fun t => (t.phase, t.snap, t.copyList)) =
      some (.running, true, [0]) ∧ (due 0).core.rollbackDue = some .struct ∧ (due 0).rollbackBlock (due 0).core = none ∧
    (due 0).retryCount (due 0).core none [⟨objRef 0, 0, 0⟩] = (due 0).ctx.sys.sevpol.bits 23 16 ∧
    ((due 0).findTask (objRef 0)).any (fun t => done? (Op.rollbackFails (due 0).core t .struct)
      ([⟨objRef 0, 0, 0⟩].foldl State.foldMeter (due 0)) fun _ _ => true) = true := by
  decide +kernel

theorem test_hyps_rollback : (due 1).retryCount (due 1).core none [⟨objRef 0, 0, 0⟩] ≠ (due 1).ctx.sys.sevpol.bits 23 16 ∧
    ((due 1).findTask (objRef 0)).any (fun t => done? (Op.rollbackCopies t none [0] 1 t.copyList)
      ([⟨objRef 0, 0, 0⟩].foldl State.foldMeter (due 1)) fun b _ => b) = true := by
  decide +kernel

/-- Two copies that hold their messages. -/
def twins (a b : Word) : State :=
  let x (h : Word) : Ctx := { Ctx.zero 0 with live := true, wait := some .twin, twinMsg := some ⟨4, h, false, []⟩ }
  { withCore (withTask ready (taskOf 0x0004000000000000)) fun c => { c with ctx := x a } with
    peers := [{ LCore.empty with id := ⟨0, 0, 1⟩, ctx := x b }] }

theorem test_hyps_twins : ((twins 5 6).findCore ⟨0, 0, 0⟩).map (fun c => (c.findCtx 0).map (·.wait)) = some (some (some .twin)) ∧
    ((twins 5 6).findCore ⟨0, 0, 1⟩).map (fun c => (c.findCtx 0).map (fun x => x.twinMsg)) = some (some (some ⟨4, 6, false, []⟩)) ∧
    done? (Op.twinMismatch ⟨0, 0, 0⟩ 0 4 5 6) (twins 5 6) (fun _ _ => true) = true := by
  decide +kernel

theorem test_hyps_fence_die : (1 : BitVec 2).toNat ≤ ({ ready with pkg := { ready.pkg with fence := 4 } } : State).fenceLevel 1 ∧
    ready.fenceLevel 7 < (2 : BitVec 2).toNat ∧ (2 : BitVec 2) ≠ 3 ∧ (FenceTrigger.supply = .supply ∧ (1 : BitVec 2) ≠ 2) ∧ ready.disp.tasks = [] ∧
    (0x8000 : Word).bits 15 14 = 2 ∧ (∀ e < 8, e ≠ 7 → (0x8000 : Word).bits (2 * e + 1) (2 * e) = 0) ∧
    (∀ d < 8, (0xFFFF : Word).bits (2 * d + 1) (2 * d) = 3) ∧
    done? (Op.fenceDie 7 2 .firmware) ready (fun _ _ => true) = true := by
  decide +kernel

/-! ### Hypotheses met: frames -/

theorem test_hyps_object_fill : ready.core.resident = true ∧ (mapped 0x0000030000010000 1).core.regs.queue.toNat = 0 ∧
    16 < ((mapped 0x0000030000010000 1).queue 0).entries.toNat ∧ (mapped 0x0000030000010000 1).ocFind 0 0 16 = none ∧
    ((mapped 0x0000030000010000 1).tableDesc 0 16).2.2.2.2.rights ≠ 0 ∧
    (mapped 0x0000030000010000 1).descValid 0 0x0000030000010000 0 ((mapped 0x0000030000010000 1).tableDesc 0 16).2.2.2.2 = true := by
  decide +kernel

/-- The state of `objects` with another word in the translation buffer's entry, and an object of class `cls`. -/
def framed (cls w : Word) : State :=
  withUnc ((objects 4).mapDie 0 fun d => { d with tb := [⟨0x1000, 0, 0x2000, w, 0, 0, 0⟩] }) fun u => { u with
    objectCache := u.objectCache.map fun e => { e with w0 := e.w0 ||| (cls <<< 48) } }

theorem test_hyps_walk : (framed 0 0).descOfExtents 0 0x1000 ≠ none ∧
    ((framed 0 0x4000000000000002).descOfExtents 0 0x1000).any (fun d => done? (Op.translate 0 d 0 false)
      (framed 0 0x4000000000000002) fun w _ => decide (w = .bank 0x20000)) = true ∧
    ((framed 3 0x6000000000000002).descOfExtents 0 0x1000).any (fun d => done? (Op.translate 0 d 0 false)
      (framed 3 0x6000000000000002) fun w _ => decide (w = .host 0x20000)) = true ∧
    ((framed 0 0).descOfExtents 0 0x1000).any (fun d => done? (Op.translate 0 d 0 false) (framed 0 0)
      fun w _ => decide (w = .notres (some 0x2000))) = true ∧
    ((framed 0 0x8000000000000002).descOfExtents 0 0x1000).any (fun d => done? (Op.translate 0 d 0 false)
      (framed 0 0x8000000000000002) fun w _ => decide (w = .moving)) = true := by
  decide +kernel

/-- The object of `mapped` with its second frame not resident, and a context that waits for that frame. -/
def faulted : State :=
  let s := withUnc (mapped 0x0000030000020000 2) fun u => { u with priv := u.priv.setWord 0x2010 0 }
  let s := s.mapDie 0 fun d => { d with residency := [⟨objRef 0x10000, 0x200, 0, 0, 0, 0, ⟨0, 0, 0⟩⟩] }
  withCtx s fun c => { c with wait := some (.residency (objRef 0x20000) .begun) }

theorem test_hyps_fault_batch : faulted.ctx.wait = some (.residency (objRef 0x20000) .begun) ∧ (objRef 0x20000).toNat % 65536 = 0 ∧
    objRef 0x10000 ≠ objRef 0x20000 ∧ (objRef 0x10000).toNat % 65536 = 0 ∧ faulted.notResident 0 (objRef 0x10000) = some 0x200 ∧
    faulted.findCore ⟨0, 0, 0⟩ = some faulted.core := by
  decide +kernel

theorem test_hyps_service : (faulted.die 0).residency = [⟨objRef 0x10000, 0x200, 0, 0, 0, 0, ⟨0, 0, 0⟩⟩] ∧
    (let p := faulted.unc.priv
     let d := descOf 0x200 (p.word 0x200) (p.word 0x208) (p.word 0x210) (p.word 0x218)
     p.walk d.extents (refOffset (objRef 0x10000) / 65536) = .entry 0x2010 ∧ (p.word 0x2010).bits 63 62 = 0 ∧
     entryValid d 0x4000000000000005 (p.word 0x2018) = true) ∧ (0x4000000000000005 : Word).bits 63 62 = 1 ∧
    (0x4000000000000005 : Word).getLsbD 60 = false := by
  decide +kernel

def shooting (x : Shoot) : State :=
  withUnc (mapped 0x0000430000010000 1) fun u => { u with shoots := [x], priv := u.priv.setWord 0x2000 0x8000000000000001 }

theorem test_hyps_shootdown : ((mapped 0x0000030000010000 1).unc.priv.word 0x2000).bits 63 62 = 1 ∧ 0x2000 % 16 = 0 ∧
    (mapped 0x0000030000010000 1).findShoot 0x2000 = none ∧ ((shooting ⟨0x2000, 0, [], none⟩).unc.priv.word 0x2000).bits 63 62 = 2 ∧
    ((shooting ⟨0x2000, 0, [], none⟩).unc.priv.word 0x9000).bits 63 62 = 0 ∧
    (shooting ⟨0x2000, 0x4000000000000001, [], none⟩).findShoot 0x2000 = some ⟨0x2000, 0x4000000000000001, [], none⟩ ∧
    (shooting ⟨0x2000, 0, [], none⟩).unc.bankOps = [] ∧ (∀ d < 8, d ∈ List.range 8) ∧
    done? (Op.finishFirmware ⟨0x2000, 0x4000000000000001, List.range 8, none⟩ 0)
      (shooting ⟨0x2000, 0x4000000000000001, List.range 8, none⟩) (fun r _ => decide (r.1 = 0)) = true ∧
    (0x6000000000000001 : Word).getLsbD 61 = true ∧ (0 : Word).bits 59 37 = 0 := by
  decide +kernel

/-- A frame on die 1 that a core of die 0 has read 256 times. -/
def remoteFrame (priv : Word) : State :=
  let s := (objects 4).mapDie 0 fun d => { d with
    tb := [⟨0x1000, 0, 0x2000, 0x4000000000200002, 0, 256, 0⟩]
    migc0 := 1, migc1 := 0 }
  withUnc s fun u => { u with
    objectCache := [⟨0, 0, 16, 0x200, 0x0010430000010000, 7, 0x1000, 0, 0, 0⟩]
    priv := u.priv.setWord 0x2000 priv }

theorem test_hyps_migration : (remoteFrame 0).ocFind 0 0 16 ≠ none ∧ (remoteFrame 0).tbFind 0 0x1000 0 =
      some ⟨0x1000, 0, 0x2000, 0x4000000000200002, 0, 256, 0⟩ ∧
    entryPlace 0x4000000000200002 0 = .bank 0x2000020000 ∧ 0x2000020000 / 2 ^ 36 % 16 / 2 = 1 ∧ 0x2000020000 / 2 ^ 40 = 0 ∧
    (remoteFrame 0).tbFind 1 0x1000 0 = none ∧ (0x4000000000200002 : Word).bits 63 62 = 1 ∧ 256 % 256 = 0 ∧
    NatMap.get (remoteFrame 0).unc.movedAt 0x2000 = none ∧
    (descOf 0 0x0010430000010000 7 0x1000 0).has rightM = true ∧ (descOf 0 0x0010430000010000 7 0x1000 0).has rightP = false ∧
    (descOf 0 0x0010430000010000 7 0x1000 0).replicas = 0 ∧ ((remoteFrame 0).die 0).coeffs.off = false ∧
    ((remoteFrame 0).die 0).coeffs.threshold < ((remoteFrame 0).die 0).coeffs.cm * 256 ∧
    ((ready.die 0).coeffs.off = true ∨ (ready.die 0).coeffs.cm * 256 - 300 ≤ (ready.die 0).coeffs.threshold + 100000) ∧
    ((remoteFrame 0x4000000000200002).unc.priv.word 0x2000).bits 63 62 = 1 ∧ (remoteFrame 0).findShoot 0x2000 = none := by
  decide +kernel

/-! ### Hypotheses met: the module in its system -/

theorem test_hyps_registers : (∀ t ∈ ready.disp.tasks, t.isRunning = false) ∧ (∃ t ∈ snapping.disp.tasks, t.isRunning = true) ∧
    ((ready.mapQueue 3 fun q => { q with en := true }).queue 3).en = true ∧ (ready.queue 3).en = false ∧
    ({ ready with pkg := { ready.pkg with start := .starting } } : State).pkg.start = .starting ∧ (ready.die 7).ready = false ∧
    ready.fenceLevel 7 = 0 ∧ ((ready.mapDie 7 fun d => { d with ready := true }).die 7).ready = true := by
  decide +kernel

def flit (seq : BitVec 16) : Flit := ⟨0, 0, 1, 2, seq, [], 0⟩

def ported (up : Bool) (buffer replay : List Flit) : State :=
  { ready with pkg := { ready.pkg with ports := [⟨3, up, 0, 0, buffer, replay⟩], remotes := [RemotePkg.mk 1 .up 0 [] false [] []] } }

theorem test_hyps_fabric : ((ported true [] []).port 3).map (fun p => decide (p.held 2 < 64)) = some true ∧
    ((ported true (List.replicate 64 (flit 0)) []).port 3).map (fun p => decide (64 ≤ p.held 2)) = some true ∧
    ((ported false [] []).port 3).map (·.up) = some false ∧ ((ported true [] [flit 0]).port 3).map (fun p => decide (p.replay ≠ [])) = some true ∧
    (∀ q ∈ (ported true [] []).pkg.ports, q.buffer = []) ∧ (∀ q ∈ (ported true [] []).pkg.ports, q.num ≠ 3 → q.up = false) ∧
    (∃ q ∈ (ported true [] []).pkg.ports, q.num ≠ 4 ∧ q.up = true) := by
  decide +kernel

theorem test_hyps_flits : (flit 0).seq = (0 : BitVec 16) ∧ 32768 ≤ ((flit 0xFFFF).seq - 0).toNat ∧ (flit 5).seq ≠ 0 ∧
    ((flit 5).seq - 0).toNat < 32768 ∧ (∀ y ∈ [flit 6], y.seq ≠ (flit 5).seq) ∧ [flit 6].length < 256 ∧
    256 ≤ (List.replicate 256 (flit 6)).length := by
  decide +kernel

theorem test_hyps_attestation : (∃ c : BitVec 1, (ready.cdie c).lost = false) ∧
    (∀ c : BitVec 1, ((⟨ready.core, [], ready.disp, ready.dies, Vector.replicate 2 ⟨true, true, false, 0, [], 0, 0⟩, ready.unc, ready.pkg,
      [], false, 0, 0, 0⟩ : State).cdie c).lost = true) ∧ (2 : BitVec 3).toNat = 2 ∧ (6 : BitVec 8).toNat ≤ 6 ∧
    ready.pkg.identity.ownerChain = none ∧
    ({ ready.pkg.identity with ownerChain := some [] } : Identity).ownerChain.isSome = true := by
  decide +kernel

/-- A fused gang of two, whose members hold `a` and `b` in g1 and 1 in g2. -/
def ganged (a b : Word) : State :=
  let r (i : Nat) : PlaceRegs := { PlaceRegs.zero with lcore := i, gangix := i, gangsz := 2, lx := 2 }
  let s := withG (withG (withCore ready fun c => { c with regs := r 0, fused := true }) 1 a) 2 1
  { s with peers := [{ s.core with id := ⟨0, 1, 0⟩, slot := 1, regs := r 1, ctx := s.ctx.setG 1 b }] }

theorem test_hyps_gang : (ganged 1 2).ctx.live = true ∧ (ganged 1 2).waits = false ∧ (ganged 1 2).inGang = true ∧
    (ganged 1 2).members = [⟨0, 0, 0⟩, ⟨0, 1, 0⟩] ∧
    (∀ id ∈ (ganged 1 2).members, ((ganged 1 2).member id).wordTrap (.beq 1 2 4) = none ∧
      ((ganged 1 2).member id).wordTrap (.add 3 1 2) = none ∧ ((ganged 4 8).member id).wordTrap (.jalr 3 1 0) = none ∧
      ((ganged 1 2).member id).ctx.pendG = 0 ∧ ((ganged 1 2).member id).ctx.reports = [] ∧
      (((ganged 4 8).member id).G 1).toNat % 4 = 0 ∧ (((ganged 4 8).member id).G 1).toNat < 0x100000) ∧
    ((ganged 1 2).member ⟨0, 0, 0⟩).G 1 = 1 ∧ ((ganged 1 2).member ⟨0, 1, 0⟩).G 1 = 2 ∧ ((ganged 1 2).member ⟨0, 1, 0⟩).G 2 = 1 ∧
    (ganged 1 2).peers.map (·.id) = [⟨0, 1, 0⟩] := by
  decide +kernel

/-- The gang with a group prefix in its second member, whose words are then ILL, or with g1 pending there. -/
def gangOdd (f : Ctx → Ctx) : State :=
  let s := ganged 1 2
  { s with peers := s.peers.map fun c => { c with ctx := f c.ctx } }

theorem test_hyps_gang_trap :
    (((gangOdd fun c => { c with pfx := some ⟨[5], none, false, false, 0x10⟩ }).member ⟨0, 1, 0⟩).wordTrap (.add 3 1 2)).isSome = true ∧
    ((gangOdd fun c => { c with pfx := some ⟨[5], none, false, false, 0x10⟩ }).member ⟨0, 0, 0⟩).wordTrap (.add 3 1 2) = none ∧
    ((gangOdd fun c => { c with pendG := 2 }).member ⟨0, 1, 0⟩).ctx.pendG.getLsbD 1 = true ∧
    ((gangOdd fun c => { c with pendG := 2 }).member ⟨0, 1, 0⟩).ctx.reportAt 1 = none ∧
    ((gangOdd fun c => { c with pendG := 2 }).member ⟨0, 0, 0⟩).wordTrap (.add 3 1 2) = none := by
  decide +kernel

/-! ### Hypotheses met: vector words -/

def vectored : State := withG (withCtx ready fun c => (c.setV 4 (BitVec.ofNat 256 (2 ^ 255 + 1))).setK 3 0) 5 0x1000

theorem test_hyps_vectors : Fit vectored ∧ vectored.K 3 = 0 ∧ vectored.K 0 ≠ 0 ∧ vectored.LocalOk (vectored.G 5) 32 ∧
    vectored.LocalOk (vectored.G 5) 8 ∧ vectored.core.lm.wf = true ∧ (0x1010 : Word).toNat % 32 ≠ 0 ∧
    activeLanes 64 (vectored.K 3) = [] ∧ activeLanes 64 (vectored.K 0) ≠ [] :=
  ⟨fit_of _ rfl rfl rfl rfl rfl rfl rfl rfl, by decide +kernel, by decide +kernel,
    ⟨by decide, by decide, by decide, by decide, rfl, rfl, rfl⟩, ⟨by decide, by decide, by decide, by decide, rfl, rfl, rfl⟩, by decide,
    by decide, by decide +kernel, by decide +kernel⟩

/-- A gather of 8-byte lanes of a zero index vector, all at 0x1000. -/
theorem test_hyps_gather : ∀ i < 256 / Width.w64.bits,
    vectored.LocalOk (vectored.G 5 + Word.ofN (elemAt Width.w64.bits (vectored.V 9).toNat i * Width.w64.bytes)) Width.w64.bytes := by
  have h : ∀ i < 256 / Width.w64.bits, vectored.G 5 + Word.ofN (elemAt Width.w64.bits (vectored.V 9).toNat i * Width.w64.bytes) =
      0x1000 := by decide +kernel
  intro i hi
  rw [h i hi]
  exact ⟨by decide, by decide, by decide, by decide, rfl, rfl, rfl⟩

theorem test_hyps_float_codes : decodeF fmtF32 0x7F800001 = .nan false 1 ∧ decodeF fmtF32 0x7F800000 = .inf false ∧
    decodeF fmtF32 0xFF800000 = .inf true ∧ (decodeF fmtF32 0 = .num false 0 (-149)) ∧ (5 : BitVec 3).toNat < 6 := by
  decide +kernel

def sfuWith (q st : List SfuReq) : State := withUnc ready fun u => { u with sfus := [⟨0, q, st, 15, 15⟩] }
def sfuReq : SfuReq := ⟨⟨0, 0, 0⟩, 0, 0, 0, .vrcp 1 2 0, 0xFF, 0⟩

theorem test_hyps_sfu : (vectored.K 0).toNat % 256 ≠ 0 ∧ (vectored.K 3).toNat % 256 = 0 ∧
    (sfuWith [] []).sfu 0 = ⟨0, [], [], 15, 15⟩ ∧ (sfuWith [sfuReq] []).sfu 0 = ⟨0, [sfuReq], [], 15, 15⟩ ∧
    ((sfuWith [] [sfuReq]).sfu 0).started = [sfuReq] ∧ clusterOf ready.core.slot = 0 ∧
    Config.sfuEntries ≤ ((sfuWith (List.replicate 32 sfuReq) []).sfu 0).queue.length := by
  decide +kernel

/-! ### Hypotheses met: clauses of several statements at their limits -/

theorem test_hyps_helpers_more : ((withG helped 1 0x1001).G 1).toNat % 4 ≠ 0 ∧ helped.core.findCtx 11 = none ∧
    asHelper.ctx.num = (1 : BitVec 6).toNat ∧ (helped.core.findCtx 2).map (·.live) = some true := by decide

/-- The gang of two, split. -/
def splitGang (at_ : Option (BitVec 21)) : State :=
  let s := ganged 1 2
  { s with core := { s.core with fused := false }, peers := s.peers.map fun c => { c with fused := false, fuseAt := at_ } }

theorem test_hyps_fuse : Fit (splitGang none) ∧ 1 < (splitGang none).core.regs.gangsz ∧ (splitGang none).core.fuseAt = none ∧
    (splitGang none).members = [⟨0, 0, 0⟩, ⟨0, 1, 0⟩] ∧
    ((splitGang none).findCore ⟨0, 1, 0⟩).map (fun c => decide (c.fuseAt = none)) = some true ∧
    (∀ x ∈ (splitGang none).core.others, x.live = false) ∧ (splitGang (some 0x10)).ctx.pc = 0x10 ∧
    (splitGang (some 0x10)).peers.map (fun p => (p.ctx.num, p.fuseAt)) = [(0, some 0x10)] ∧
    (splitGang (some 0x20)).ctx.pc ≠ 0x20 :=
  ⟨fit_of _ rfl rfl rfl rfl rfl rfl rfl rfl, by decide⟩

/-- A reduction to its own local memory above XBOUND is under way: a raise waits for it. -/
def raising : State := withUnc (withG ready 1 0x2000) fun u =>
  { u with bankOps := [opAt (.redadd true 1 2 false .core) false (.local ⟨0, 0, 0⟩ 0x1800)] }

theorem test_hyps_raise : Fit raising ∧ raising.core.raise = none ∧
    raising.core.xbound.toNat < 4096 * min 256 ((raising.G 1).bits 20 12) ∧
    raising.drains raising.core 0 raising.core.xbound.toNat 0x2000 = true :=
  ⟨fit_of _ rfl rfl rfl rfl rfl rfl rfl rfl, rfl, by decide, by decide +kernel⟩

/-- The first line of a coherent object, LOST. -/
def lostLine : State := withUnc coherent fun u => { u with directory := [{ DirEntry.empty 0x400 with state := .lost, reason := 2 }] }

theorem test_hyps_red_lost : done? (Op.descriptor (lostLine.self 5) (coreAcc (objRef 8) 8 3)) lostLine (fun d s₁ =>
      decide (d.cls ≠ 0) && done? (Op.locate (lostLine.self 5) (coreAcc (objRef 8) 8 3) d false) s₁ fun w s₂ =>
        decide (w = .bank 0x20008) && decide ((s₂.dirEntry (0x20008 / 128)).state = .lost)) = true := by
  decide +kernel

def sent (l : List BankOp) : State := withUnc ready fun u => { u with bankOps := l }

theorem test_hyps_oldest :
    let o := opAt (.amoaddD 1 2 3 .ar .sys) true (.bank 0x20008)
    let k := opAt (.amoaddD 1 2 3 .ar .sys) true (.bank 0x30088)
    (sent [o]).nextOp (sent [o]).farReady = some o ∧ (sent [o]).farGroup o = [o] ∧ (sent [o, k]).unitHeads = [o, k] ∧ (sent [o, o]).unitHeads = [o] ∧
    ((sent [o, k]).nextOp (·.far)).isSome = true ∧ (sent [o]).nextOp BankOp.isRed = none ∧
    (sent [o]).fenceLevel (0x20008 / 2 ^ 36 % 16 / 2) ≠ 2 ∧ 0x20008 / 2 ^ 40 = (sent [o]).pkg.address.toNat ∧
    (sent [o]).redsIn 5 = false ∧ (sent [opAt (.redadd true 1 2 false .sys) false (.bank 0x20008)]).redsIn 5 = true ∧
    (sent [o]).ownReds = false ∧ (sent [opAt (.redadd true 1 2 false .sys) false (.bank 0x20008)]).ownReds = true := by
  decide +kernel

theorem test_hyps_objinv : ((shooting ⟨0x2000, 0, [], none⟩).shooting 0x200) = true ∧ supervised.shooting 0x200 = false := by
  decide +kernel

theorem test_hyps_rset_record : busyCopy.core.namesRing 1 = true ∧ busyCopy.ctx.ringRec = none ∧
    (withCtx busyCopy fun c => { c with ringRec := some (0x2000, 7) }).ctx.ringRec = some (0x2000, 7) ∧
    ready.core.namesRing 1 = false := by decide +kernel

theorem test_hyps_barriers_more :
    let rec1 (m : Member) : Barrier := ⟨0, 0, 0, 0, [m], 0, false, 0, false, false, false, 0, none, 3⟩
    (rec1 { member 0 0 with reset := true }).member 0 = some { member 0 0 with reset := true } ∧ (rec1 (member 0 0)).resets ≠ 2 ∧
    (member 0 0).reset = false ∧ (member 0 0).lp = 0 ∧ (member 1 0).lp ≠ (0 : BitVec 32) ∧
    ({ ready with pkg := { ready.pkg with takeover := true } } : State).pkg.takeover = true ∧ ready.pkg.takeover = false := by
  decide +kernel

theorem test_hyps_headless : ready.headless = false ∧
    ({ ready with cdies := ready.cdies.map fun c => { c with lost := true } } : State).headless = true := by decide +kernel

theorem test_hyps_dir_room : (coherent.unc.lines.filter fun l => l.cluster = 0).length < Config.ccLines ∧
    (DirEntry.empty 0x400).granted ≠ .shared ∧ (DirEntry.empty 0x400).granted ≠ .owned ∧
    (DirEntry.empty 0x400).packages = [] ∧ (DirEntry.empty 0x400).coarse = false ∧
    ({ ready with pkg := { ready.pkg with takeover := true } } : State).unc.barriers = [] := by decide +kernel

theorem test_hyps_sfu_alone : (∀ x ∈ ((sfuWith [] []).sfu 0).queue, x.came ≠ (sfuWith [] []).tick) ∧
    (∀ x ∈ ((sfuWith (List.replicate 32 { sfuReq with came := 7 }) []).sfu 0).queue, x.came ≠ 0) := by decide +kernel

theorem test_hyps_vector_store : vectored.StoreHere := storeHere_of _ rfl (by decide)

/-- A running command of steps, of which `p` are done, over tile 0 in the mode of `multiplying`. -/
def stepping (i : Instr) (p : Nat) (f : LCore → LCore) : State :=
  withCore multiplying fun c => f { c with mx := { c.mx with
    mxo0 := 0x100, mxo1 := 0, running := some ⟨mcmd i 0x1000 0x4000, p, false⟩ } }

/-- How the command of `stepping` begins, and how far its steps go. -/
def stepsTo (i : Instr) (p : Nat) (f : LCore → LCore) (t : Except Trap Bool → Bool) (r : Nat × Option Trap → Bool) : Bool :=
  let s := stepping i p f
  let m := mcmd i 0x1000 0x4000
  let n := m.steps s.core.mx
  decide (1 ≤ n ∧ p ≤ n) && !s.saveDue s.core &&
    done? (Op.matBegin (s.engineAgent s.core 0 0 2) m p n) s fun b s₁ => t b && match b with
      | .ok true => done? (Op.matSteps (s.engineAgent s.core 0 0 2) m (s.core.mmarSlot m) (n - p) p) s₁ fun x _ => r x
      | _ => true

/-- The state of `sending` with an error in the payload's word. -/
def sendingBad : State := withCore (sending (ringAt 0 0) none false) fun c => c.flip (0x1000 / 8) 3

theorem test_hyps_steps_ended :
    let goes (b : Except Trap Bool) : Bool := match b with | .ok true => true | _ => false
    stepsTo (.mrd 1 2 3 0) 32 id goes (fun x => decide (x.1 = 32) && x.2.isNone) = true ∧
    stepsTo (.mmar 1 2 3 0) 1 id goes (fun x => decide (x.1 = 1) && x.2.isNone) = true ∧
    stepsTo (.mma 1 2 3 0) 0 (fun c => c.flip (0x1000 / 8) 3) goes (fun x => x.2.isSome) = true := by
  decide +kernel

theorem test_hyps_steps_begin :
    stepsTo (.mlda 1 2 3 0) 0 (fun c => c.flip (0x1000 / 8) 3) (fun b => match b with | .error _ => true | _ => false)
      (fun _ => false) = true ∧
    stepsTo (.mlda 1 2 3 0) 0 (fun c => { c with lm := [(0x100F, 255)] }) (fun b => match b with | .ok false => true | _ => false)
      (fun _ => false) = true ∧
    (withCore multiplying fun c => { c with switchDue := true }).saveDue
      (withCore multiplying fun c => { c with switchDue := true }).core = true ∧
    ({ ready with pkg := { ready.pkg with start := .limited } } : State).pkg.start = .limited := by
  decide +kernel

theorem test_hyps_stops :
    (match Op.sendChecks (sendingBad.engineAgent sendingBad.core 0 0 5) sendingBad.core ⟨.sendm 1 2 3 false, 0, 0x1000, 8, 0, none⟩
        sendingBad with
      | .ok (.stop _ _ _ precise, _) => precise
      | _ => false) = true ∧
    (match Op.takeChecks (sendingBad.engineAgent sendingBad.core 0 0 0) sendingBad.core ⟨.cpy 1 2 3, 0, 0x1000, 0, 0, false⟩
        sendingBad with
      | .ok (.stop _ _ _ precise, _) => precise
      | _ => false) = true ∧
    takes (withCore ready fun c => { c with lm := [(0x1002, 1), (0x1009, 0x40), (0x1011, 0x50)] })
      ⟨.cpy 1 2 3, 0, 0x1000, 0, 0, false⟩ (fun r => match r with
        | .go sh => decide (sh.total = 0)
        | _ => false) = true := by
  decide +kernel

theorem test_hyps_coll_keep :
    let x := (arriving 1 true).core.collSlot 1
    let p : Packet := { packet with
      members := groupSize x.desc
      head0 := x.tab.head0
      head8 := x.tab.head8
      count := (x.tile 0).count
      stride := (x.tile 0).stride }
    let s := withUnc (arriving 1 true) fun u => { u with packets := [p] }
    s.nextPacket ⟨0, 0, 0⟩ = some p ∧ s.core.callAt p.groupId p.seq = .slot 1 ∧ p.tile < x.tab.tiles ∧
    x.fired.getLsbD p.tile = false ∧ (s.findCore p.source).isNone = true ∧ s.unc.collAborts = [] := by
  decide +kernel

theorem test_hyps_copy_ring_frame :
    let r := runOf { shapeOf (objRef 0) 0 32 with ring := 1, dstRing := true }
    let s := copying (withCore absent fun c => c.setRing 1 ⟨false, 1, 0, 0x2000, 0xFFFFFFFF, 0xFFFFFFFF⟩) [] [r]
    let ring := s.core.ring 1
    let dst := r.shape.dst + Word.ofN (ring.slotAt ring.producer)
    let j := s.copyJob ⟨0, 0, 0⟩ s.core r r.shape r.shape.src dst (r.slots * r.shape.slotRows) r.shape.slotRows
    ring.filled < ring.slots ∧ done? (Op.moveRows j.1 r.shape r.shape.src dst r.shape.slotRows (r.slots * r.shape.slotRows) j.2) s
      (fun x _ => match x.2 with
        | some (_, .notres _ _) => true
        | _ => false) = true := by
  decide +kernel

/-- What CANCEL_TASK finds for the TCB of `s`: its queue and state code, and that reading them changes nothing. -/
def cancels (s : State) (st : Nat) (f : Op Unit) : Bool :=
  let s₀ : State := { s with disp := { s.disp with cancelTask := objRef 0, cancelBusy := true } }
  done? (Op.queueOf (objRef 0)) s₀ fun q t => decide (q = some 0) && decide (t = s₀) &&
    done? (Op.tcbState 0 (objRef 0)) s₀ fun r t => decide (r.1 = st) && decide (t = s₀) &&
      done? (Op.tcbWord 0 (objRef 0) 0x70) s₀ fun _ t => decide (t = s₀) && done? f s₀ fun _ _ => true

theorem test_hyps_cancel_states :
    cancels (watched 0 .running) 3 (Op.cancelRunning (objRef 0) 2) = true ∧
    ((watched 0 .running).findTask (objRef 0)).map (·.isRunning) = some true ∧
    cancels (watched 0 .failed) 3 (pure ()) = true ∧ cancels (tcb 0 0) 0 (Op.cancelIdle 0 (objRef 0) 0 0 0) = true ∧
    cancels (tcb 0x400000000 0) 4 (pure ()) = true ∧ ((tcb 0 0).findTask (objRef 0)).isNone = true ∧
    done? (Op.queueOf (objRef 0x8000)) (withUnc (tcb 0 0) fun u => { u with priv := [] }) (fun q _ => decide (q = none)) = true ∧
    (tcb 0 0).disp.cancelBusy = false := by
  decide +kernel

theorem test_hyps_decrement_admitted : ((tcb 0 0).tcbPlace 0 (objRef 0)).any (tcb 0 0).admittedAt = false ∧
    ((watched 0 .running).tcbPlace 0 (objRef 0)).any (watched 0 .running).admittedAt = true ∧
    ready.windowWaits ready.core 0x1000 = false := by
  decide +kernel

theorem test_hyps_watchdog_steps :
    (List.range 64).find? (fun q => ((watched 10 .running).queue q).expired = some (objRef 0)) = none ∧
    ((watched 10 .running).findTask (objRef 0)).map (fun k => decide ((watched 10 .running).budget k ≠ 0)) = some true ∧
    (let s := (watched 10 .running).mapQueue 0 fun q => { q with status := .draining, expired := some (objRef 0) }
     (List.range 64).find? (fun q => (s.queue q).expired = some (objRef 0)) = some 0 ∧ (s.queue 0).status = .draining ∧
     done? (Op.forEach (fun r => Op.cancelRunning r (if r = objRef 0 then 1 else 0))
       ((s.disp.tasks.filter fun x => x.queue.toNat = 0 && x.isRunning).map (·.ref))) s (fun _ _ => true) = true) := by
  decide +kernel

theorem test_hyps_append_header : (inFlight (tcb 0 0)).headless = false ∧ (0 : BitVec 12).toNat % 64 = 0 ∧
    ((ready.mapQueue 3 fun q => { q with hostAppend := some 5 }).queue 3).hostAppend = some 5 ∧
    (launchable.queue 0).en = true ∧ launchable.sharesHeader 0 = true := by
  decide +kernel

theorem test_hyps_depdec : done? (Op.validTcb 0 (objRef 0)) (tcb 0 0) (fun r t => r && decide (t = tcb 0 0) &&
      done? (Op.tcbWord 0 (objRef 0) 0x30) t fun w _ => decide (w.bits 47 32 = 0)) = true ∧
    ((tcb 0 0).queue 0).launchers.getLsbD 0 = false ∧
    (((tcb 0 0).mapQueue 0 fun q => { q with launchers := 1 }).queue 0).launchers.getLsbD 0 = true := by
  decide +kernel

theorem test_hyps_bindings_asked : (gridOf (taskOf 0x0000000100010001).words).groups.length = 1 ∧
    (withRemote []).disp.foreign = [] ∧ (1 : Nat) ∈ [1, 2, 4, 8, 16] ∧
    (∃ r ∈ (ported true [] []).pkg.remotes, r.package = 1) ∧ (withRemote []).headless = false := by
  refine ⟨by decide +kernel, rfl, by decide, ?_, by decide +kernel⟩
  exact ⟨_, List.mem_singleton_self _, rfl⟩

/-- A placement whose code object cannot be read: handle 17 has no entry. -/
def codeless : State := withUnc fresh fun u => { u with priv := [] }

theorem test_hyps_placement_fails : done? (Op.codeBytes { taskOf 0 with ref := objRef 0, words := [0, 0x110000000010] }) codeless
    (fun r s₁ => match r with
      | .error (cause, reason) => done? (Op.failFor (objRef 0) cause reason) s₁ fun _ _ => true
      | .ok _ => false) = true := by
  decide +kernel

theorem test_hyps_replace_free : lost.fencedCores (objRef 0) = [] ∧ lost.core.regs.gangsz = 1 ∧
    runLoad lost.boundSlots 5 1 = 0 ∧ runLoad lost.boundSlots 5 1 < lost.depth ∧
    (∀ x ∈ [(⟨0, 0, 0, 0, 0, false, true, false⟩ : Bind)], x.valid = false) ∧
    done? (Op.replaceGang ⟨objRef 0, 0, 0⟩ 5) lost (fun _ s₁ => s₁.canReplace (objRef 0)) = true := by
  decide +kernel

/-- The resident gangs that the next one's run takes, as the switch finds them. -/
def leavers (s : State) (lead : LCore) : List LCore := s.cores.filter fun d => d.resident && !lead.gangmate d && lead.runMeets d

theorem test_hyps_switch_out : ((sliced 0 true).findCore ⟨0, 0, 0⟩).any (fun lead =>
      (leavers (sliced 0 true) lead).length = 1 && ((leavers (sliced 0 true) lead).all fun d => d.switchDue) &&
      done? (Op.forEach Op.saveCore (((leavers (sliced 0 true) lead).flatMap (sliced 0 true).gangIds).dedup.filter fun i =>
        ((sliced 0 true).findCore i).any fun d => d.resident)) (sliced 0 true) fun _ s₁ =>
          done? (Op.forEach Op.restoreCore ([⟨0, 0, 0⟩].filter fun i => !((sliced 0 true).findCore i).any fun d => d.resident)) s₁
            fun _ _ => true) = true ∧
    ((sliced 0 false).findCore ⟨0, 0, 0⟩).any (fun lead => (leavers (sliced 0 false) lead).any fun d =>
      !d.switchDue && (((sliced 0 false).gangIds d).any fun i => !(sliced 0 false).coreWaits i)) = true := by
  decide +kernel

/-- The last bound core of a pre-empted task. -/
def lastLeaving : State := bound .preempted 0x0000000100010001 ⟨0, 0, 0, 0, 0, true, true, false⟩ fun c => { c with resident := false }

theorem test_hyps_save_last : (lastLeaving.findTask (objRef 0)).any (fun t =>
      let u := (lastLeaving.chargeTask (objRef 0)).mapBind ⟨objRef 0, 0, 0⟩ fun b => { b with valid := false }
      let s₂ := (u.suspendCalls (objRef 0)).mapTask (objRef 0) fun t => { t with binds := t.binds.map fun b => { b with valid := false } }
      t.phase = .preempted && done? (Op.tcbState 0 (objRef 0)) s₂ fun r s₂ =>
        done? (Op.putState 0 (objRef 0) tREADY r.2) s₂ fun _ _ => true) = true := by
  decide +kernel

theorem test_hyps_restore_next : returning.isNext returning.core = true ∧ returning.lmStands returning.core = false ∧
    (withCore returning fun c => { c with lmAt := some 0 }).lmStands { returning.core with lmAt := some 0 } = true ∧
    (∀ d ∈ returning.cores, d.resident = false) ∧
    (returning.findTask (objRef 0)).map (fun t => t.binds.map fun b => (b.valid, b.placed)) = some [(true, false)] := by
  decide +kernel

/-- A core saved in an image area, of the task that `fresh` holds. -/
def saved : State := bound .running 0x0000000100010001 ⟨0, 0, 0, 0, 0, true, true, false⟩ fun c => { c with resident := false, imageArea := some 1 }

/-- That two states agree, field by field. -/
def same (s t : State) : Bool :=
  decide (s.core = t.core) && decide (s.peers = t.peers) && decide (s.disp = t.disp) && decide (s.dies = t.dies) &&
  decide (s.cdies = t.cdies) && decide (s.unc = t.unc) && decide (s.pkg = t.pkg) && decide (s.agenda = t.agenda) &&
  decide (s.stalled = t.stalled) && decide (s.cycle = t.cycle) && decide (s.timeUs = t.timeUs) && decide (s.tick = t.tick)

theorem test_hyps_restore_moved :
    saved.lmStands saved.core = false ∧ saved.core.resident = false ∧
    done? (Op.codeBytes { taskOf 0 with ref := objRef 0, words := [0, 0x110000000010] }) saved
      (fun r t => same t saved && match r with
        | .ok (_, l) => decide (l = 0x1000)
        | _ => false) = true := by
  decide +kernel

/-- The code object of a core due for a rollback cannot be read: its task fails instead. -/
theorem test_hyps_rollback_ends :
    done? (Op.rollbackCopies { taskOf 0 with ref := objRef 0, words := [0, 0x110000000010, 0x0002000100010001] } none [0] 1 [0])
      ([⟨objRef 0, 0, 0⟩].foldl State.foldMeter (withUnc (due 1) fun u => { u with priv := [] })) (fun b _ => !b) = true := by
  decide +kernel

theorem test_hyps_batch : [objRef 0x20000, objRef 0x10000].length ≤ 16 ∧ [objRef 0x20000, objRef 0x10000].Nodup ∧
    [objRef 0x20000, objRef 0x10000].all (fun r => r.toNat % 65536 = 0) = true ∧
    (faulted.notResident 0 (objRef 0x10000)).isSome = true ∧ (faulted.core.findCtx 0).map (·.wait) = some faulted.ctx.wait ∧
    RunAhead.stopped [objRef 0x10000] ≠ .stopped [objRef 0x20000] := by
  decide +kernel

/-- A shoot-down of the entry at 0x2000, while an operation of a core of die 0 to the old frame is under way, or a read of the
host's memory. -/
theorem test_hyps_port_busy :
    let x : Shoot := ⟨0x2000, 0x4000000000000002, [], none⟩
    let s := withUnc (shooting x) fun u => { u with bankOps := [opAt (.amoaddD 1 2 3 .ar .sys) true (.bank 0x20008)] }
    s.findShoot 0x2000 = some x ∧ entryPlace x.before 0 = .bank 0x20000 ∧
    s.findCore ⟨0, 0, 0⟩ = some s.core ∧ dieOf s.core.slot = 0 ∧ 0x20008 / 65536 * 65536 = 0x20000 ∧
    entryPlace 0x6000000000000002 0 = .host 0x20000 ∧ hostObject.ctx.wait = some (.host (objRef 8) 8 0x20008) ∧
    (shooting x).unc.bankOps = [] ∧ (∀ y ∈ (shooting x).core.ctxs, y.wait = none) ∧ (shooting x).peers = [] := by
  decide +kernel

theorem test_hyps_finish_port :
    let f : FrameCopy := ⟨0, 0, 0x50000, false, 0x200⟩
    let x : Shoot := ⟨0x2000, 0x4000000000000001, List.range 8, some f⟩
    done? (Op.finishPort x f 0x10000) (shooting x) (fun r _ => decide (r = (0x4000000000000005, 0))) = true ∧
    entryPlace x.before 0 = .bank 0x10000 := by
  decide +kernel

theorem test_hyps_migrates :
    let s := (remoteFrame 0x4000000000200002).mapDie 0 fun d => { d with freeFrames := [7] }
    7 ∈ (s.die 0).freeFrames ∧ ((s.die 0).coeffs.reserve - 1 : Nat) < (s.die 0).coeffs.cm * 256 ∧
    (s.die 0).coeffs.threshold < (s.die 0).coeffs.cm * 256 - ((s.die 0).coeffs.reserve - 1 : Nat) ∧ (s.die 0).coeffs.off = false ∧
    ({ s with pkg := { s.pkg with replicaTable := 0x8000 }, unc := { s.unc with priv := s.unc.priv.setWord 0x8040 9 } } :
      State).replicaTarget 1 0 0 = some 0x90000 ∧
    (descOf 0 0x0010410000010000 7 0x1000 1).has rightM = true ∧ (descOf 0 0x0010410000010000 7 0x1000 1).has rightW = false ∧
    (descOf 0 0x0010410000010000 7 0x1000 1).has rightA = false ∧ (descOf 0 0x0010410000010000 7 0x1000 1).replicas = 1 := by
  decide +kernel

theorem test_hyps_tables : ready.inFrameEntry 0x9000 = false ∧ (ready.unc.priv.word 0x9000).bits 63 62 = 0 ∧
    ((remoteFrame 0x4000000000200002).unc.priv.word 0x2000).bits 63 62 = 1 ∧ (0x4000000000000005 : Word).bits 63 62 ≠ 2 ∧
    (∃ n < 256, n ∉ ([3] : List Nat)) ∧ (∀ n < 256, n ∈ List.range 256) := by
  refine ⟨by decide +kernel, by decide +kernel, by decide +kernel, by decide, ⟨0, by decide, by decide⟩, ?_⟩
  exact fun n h => List.mem_range.mpr h

/-- Registers of a die, of a control window and of the metering records, at the limits of what R424, R381 and R438 allow. -/
theorem test_hyps_die_registers : (0x1000 : Word).toNat % 4096 = 0 ∧ (0x1001 : Word).toNat % 4096 ≠ 0 ∧
    (0 : Word).bits 31 0 = 0 ∧ (128 : Word).bits 31 0 = 2 ^ 7 ∧ (0x100000 : Word).bits 31 0 = 2 ^ 20 ∧
    ready.runningOn 0 = false ∧ (due 1).runningOn 0 = true ∧ (0x300007 : Word).bits 23 20 / 2 = 1 ∧
    (0x300007 : Word).bits 23 20 / 2 ≠ 0 ∧
    (let s : State := lostLine.mapCdie 0 fun (x : ConjunctionDie) => { x with select := 0x400 }
     (s.dirEntry (s.cdie 0).tag).state = .lost) ∧ (ready.dirEntry (ready.cdie 0).tag).state ≠ .lost ∧
    (∀ m ∈ ready.disp.meters, m.number ≠ 1) ∧ (2047 : BitVec 16).toNat < 2048 ∧ 2048 ≤ (2048 : BitVec 16).toNat := by
  decide +kernel

theorem test_hyps_die_registers_refused : (129 : Word).bits 31 0 ≠ 0 ∧
    (∀ k, 7 ≤ k → k ≤ 20 → (129 : Word).bits 31 0 ≠ 2 ^ k) ∧
    (∃ m ∈ ([⟨1, false, 0, 0, 0, 0, Vector.replicate 8 0⟩] : List MeterRec), m.number = 1) := by
  refine ⟨by decide, fun k h h' => ?_, ⟨_, List.mem_singleton.mpr rfl, rfl⟩⟩
  interval_cases k <;> decide

/-! ### Single steps (expected values computed by hand from the rules named) -/

/-- The answer of exec, with a test of the next state. -/
def next? (r : Host.Outcome State Fault Refusal) (p : State → Bool) : Bool :=
  match r with
  | .next t => p t
  | _ => false

/-- R10: addition is mod 2^64, and the PC moves by 4. -/
theorem test_add_wraps : next? (exec (.add 3 1 2) wide) (fun t => t.G 3 = 0x7FFFFFFFFFFFFFFF && t.ctx.pc = 0x14) = true := by
  decide +kernel

/-- R10: a write to g0 is discarded. -/
theorem test_g0_reads_zero : next? (exec (.addi 0 1 1) wide) (fun t => t.G 0 = 0 && t.ctx.pc = 0x14) = true := by decide +kernel

/-- R396: MISAL (cause 0x03) at the offset 0x1004 saves the PC and goes to TRAPV. -/
theorem test_load_misaligned : next? (exec (.ldz 3 1 0 .w64) (withG handled 1 0x1004)) (fun t =>
    t.ctx.pc = 0x100 && t.ctx.sys.epc = 0x10 && t.ctx.sys.eaddr = 0x1004 && t.ctx.sys.ecause.toNat % 256 = 3) = true := by
  decide +kernel

/-- R3: bytes are little-endian. -/
theorem test_store_little_endian : next? (exec (.st 2 1 0 .w64) (withG (withG ready 1 0x1000) 2 0x1122334455667788)) (fun t =>
    t.localByte 0x1000 = 0x88 && t.localByte 0x1007 = 0x11) = true := by
  decide +kernel

/-- R196: the inactive elements keep their value, and mask bit e belongs to element e. -/
theorem test_vadd_masked : next? (exec (.vadd 1 2 2 3 .n32)
    (withCtx ready fun c => ((c.setV 2 (BitVec.ofNat 256 (2 ^ 32 + 5))).setV 1 (BitVec.ofNat 256 (2 ^ 32 + 9))).setK 3 1)) (fun t =>
    decide (elemAt 32 (t.V 1).toNat 0 = 10) && decide (elemAt 32 (t.V 1).toNat 1 = 1)) = true := by
  decide +kernel

end Sys2Proof.Tests
end

section
/-! Operations that answer without changing the state, and operations followed step by step. -/

namespace Sys2Proof.Machine

variable {α β : Type}

/-- An operation that leaves the state as it found it wherever it answers. -/
structure Op.ReadsOnly (op : Op α) : Prop where
  same : ∀ s a t, op s = .ok (a, t) → t = s

theorem Op.ReadsOnly.pure (a : α) : (Pure.pure a : Op α).ReadsOnly where
  same _ _ _ h := by cases h; rfl

theorem Op.ReadsOnly.get : (MonadStateOf.get : Op State).ReadsOnly where
  same _ _ _ h := by cases h; rfl

theorem Op.ReadsOnly.stall : (Op.stall : Op α).ReadsOnly where
  same _ _ _ h := by cases h

theorem Op.ReadsOnly.need (b : Bool) : (Op.need b).ReadsOnly := by
  cases b
  · exact Op.ReadsOnly.stall
  · exact Op.ReadsOnly.pure ()

theorem Op.ReadsOnly.bind {op : Op α} {rest : α → Op β} (h : op.ReadsOnly) (hr : ∀ a, (rest a).ReadsOnly) :
    (op >>= rest).ReadsOnly where
  same s b t hb := by
    rw [Op.bind_run] at hb
    cases ho : op s with
    | error e => simp [ho] at hb
    | ok out =>
      rw [ho] at hb
      rw [(hr _).same _ _ _ hb, h.same _ _ _ ho]

theorem Op.ReadsOnly.ite {c : Prop} [Decidable c] {yes no : Op α} (hy : yes.ReadsOnly) (hn : no.ReadsOnly) :
    (if c then yes else no).ReadsOnly := by
  split
  · exact hy
  · exact hn

theorem Op.ReadsOnly.collect {f : α → Op β} (hf : ∀ a, (f a).ReadsOnly) (l : List α) :
    (Op.collect f l).ReadsOnly := by
  induction l with
  | nil => exact .pure []
  | cons a l ih => exact (hf a).bind fun b => ih.bind fun bs => .pure (b :: bs)

/-- The answer of an operation that reads only says all of what it does. -/
theorem Op.ReadsOnly.run {op : Op α} {s : State} {a : α} (h : op.ReadsOnly) (ha : (op s).map Prod.fst = .ok a) :
    op s = .ok (a, s) := by
  cases ho : op s with
  | error e => simp [ho, Except.map] at ha
  | ok out =>
    obtain ⟨b, t⟩ := out
    rw [ho] at ha
    cases ha
    rw [h.same s b t ho]

theorem Op.askFrame_readsOnly (q : Nat) (ref : Word) (d : Desc) : (Op.askFrame q ref d : Op α).ReadsOnly where
  same s a t h := by simp [Op.askFrame] at h

/-- A place found by the hardware's own access is found without a trace (R263). -/
theorem Op.hwPlace_readsOnly (q : Nat) (ref : Word) (n need : Nat) : (Op.hwPlace q ref n need).ReadsOnly := by
  refine Op.ReadsOnly.get.bind fun s => .ite (.pure _) (.ite (.pure _) ?_)
  split
  · refine .ite (.pure _) (.ite ?_ (.ite (.pure _) (.ite .stall (Op.askFrame_readsOnly q ref _))))
    split
    · exact (Op.ReadsOnly.need _).bind fun _ => .pure _
    · exact .pure _
    · exact .pure _
  · exact .ite (.pure _) (Op.askFrame_readsOnly q ref _)
  · exact .pure _

theorem Op.areaPlaces_readsOnly (q : Nat) (ref : Word) (n need : Nat) : (Op.areaPlaces q ref n need).ReadsOnly := by
  refine .bind (.collect (fun p => .bind (Op.hwPlace_readsOnly ..) fun r => ?_) _) fun _ => .pure _
  split <;> exact .pure _

/-- An operation that answers hands its answer and its state on. -/
theorem Op.bind_ok {op : Op α} {rest : α → Op β} {s t : State} {a : α} (h : op s = .ok (a, t)) :
    (op >>= rest) s = rest a t := by
  rw [Op.bind_run, h, Op.answered]

/-- The operation answers, in a state with a property. -/
def Op.Reaches (op : Op α) (s : State) (P : State → Prop) : Prop := ∃ a t, op s = .ok (a, t) ∧ P t

theorem Op.Reaches.bind {op : Op α} {rest : α → Op β} {s t : State} {a : α} {P : State → Prop}
    (h : op s = .ok (a, t)) (hr : (rest a).Reaches t P) : (op >>= rest).Reaches s P := by
  rwa [Op.Reaches, Op.bind_ok h]

/-! ### What is left of an issued word's state -/

theorem State.afterIssue_unc (s t : State) (ids : List CoreId) (n : Nat) : (State.afterIssue s t ids n).unc = t.unc := by
  simp only [State.afterIssue]
  split <;> rfl

theorem State.afterIssue_stalled (s t : State) (ids : List CoreId) (n : Nat) :
    (State.afterIssue s t ids n).stalled = t.stalled := by
  simp only [State.afterIssue]
  split <;> rfl

/-- Run-ahead leaves what the waits of contexts leave (R264). -/
theorem State.runAhead_keeps {γ : Type} (f : State → γ) (hf : ∀ (u : State) id n g, f (u.mapCtx id n g) = f u) (s : State)
    (ids : List CoreId) (n : Nat) : f (s.runAhead ids n) = f s := by
  simp only [State.runAhead]
  split
  · rfl
  · refine List.foldlRecOn (motive := fun u : State => f u = f s) _ _ rfl fun u hu p _ => ?_
    split
    · rw [hf, hu]
    · exact hu

/-! ### Several bytes read after a write -/

theorem Memory.get_write_inside (m : Memory) (a i : Nat) (bs : List Byte) (hm : m.wf = true) (h : i < bs.length) :
    (m.write a bs).get (a + i) = bs[i] := by
  induction bs generalizing m a i with
  | nil => exact absurd h (Nat.not_lt_zero i)
  | cons b bs ih =>
    have hw := Memory.wf_set m a b hm
    cases i with
    | zero =>
      simpa [Memory.write, Memory.get_set_same m a b hm] using
        Memory.get_write_outside (m.set a b) (a + 1) a bs hw (.inl (Nat.lt_succ_self a))
    | succ i =>
      have := ih (m.set a b) (a + 1) i hw (Nat.lt_of_succ_lt_succ h)
      rwa [Nat.add_right_comm a 1 i] at this

/-- A byte that is not zero is listed. -/
theorem Memory.mem_of_get_ne_zero (m : Memory) (a : Nat) (h : m.get a ≠ 0) : (a, m.get a) ∈ m := by
  induction m with
  | nil => exact absurd rfl h
  | cons c m ih => grind [Memory.get]

theorem Memory.wf_patch (m : Memory) (base : Nat) (ps : List Patch) (hm : m.wf = true) : (m.patch base ps).wf = true :=
  List.foldlRecOn (motive := fun m : Memory => m.wf = true) _ _ hm fun m hm _ _ => Memory.wf_write m _ _ hm

theorem Memory.patch_concat (m : Memory) (base : Nat) (ps : List Patch) (p : Patch) :
    m.patch base (ps ++ [p]) = (m.patch base ps).write (base + p.1) p.2 := by
  simp [Memory.patch]

/-- A capture whose slots' last write is `p` lists that write's bytes last before those of local memory. -/
theorem LCore.capture_slots (c : LCore) (spills : Memory) {before : List Patch} {p : Patch}
    (h : (c.slots.toList.zipIdx.flatMap fun e => e.1.patches e.2) = before ++ [p]) :
    ∃ m : Memory, m.wf = true ∧ c.capture spills = m.write p.1 p.2 ++ c.lm.map fun e => (e.1 + 0x60000, e.2) := by
  simp only [LCore.capture, h]
  rw [← List.append_assoc, Memory.patch_concat, Nat.zero_add]
  exact ⟨_, Memory.wf_patch [] 0 _ rfl, rfl⟩

/-- Bytes moved into a memory bring their order with them: out of order, they spoil its canonical form. -/
theorem Memory.pairwise_slice_of_wf_blit {m src : Memory} {da sa n : Nat} (h : (m.blit da src sa n).wf = true) :
    (src.slice sa n).Pairwise fun c d => c.1 < d.1 := by
  have hp := ((Memory.wf_iff _).mp h).1
  rw [Memory.blit, List.append_assoc, List.pairwise_append] at hp
  have hm := (List.pairwise_append.mp hp.2.1).1
  rw [List.pairwise_map] at hm
  refine hm.imp_of_mem fun hc hd hcd => ?_
  have := Memory.mem_slice hc
  have := Memory.mem_slice hd
  omega

/-- Places of class 0 are written one after the other, and no line is gathered. -/
theorem Op.areaWrite_class0 (places : List (HwPlace × Nat × Nat)) (image : Memory) (s : State)
    (h : ∀ p ∈ places, p.1.desc.cls = 0) :
    Op.areaWrite places image s = .ok ((), places.foldl (fun t p => t.areaStore p.1.bank p.2.1 p.2.2 image) s) := by
  induction places generalizing s with
  | nil => rfl
  | cons p places ih =>
    have hp := h p (List.mem_cons_self ..)
    have ih := fun t => ih t fun q hq => h q (List.mem_cons_of_mem _ hq)
    rw [Op.areaWrite, Op.forEach, if_neg (not_not.mpr hp)]
    exact ih _

end Sys2Proof.Machine
end

section
/-! O7. The canonical form of the memories is not kept by itself. `State.MemoriesWf` says nothing of the other fields of the
state, and a snapshot capture (R428) lays what a collective slot holds of its group (R369) into the image, at 0x55900 for slot 3.
A slot that holds more than the 0xA700 bytes left before 0x60000 runs into the image's local memory, whose bytes the capture lists
behind: the image is out of order, and so is the HBM that it is written to. -/

namespace Sys2Proof.Overlong
open Sys2Proof.Machine

/-- A task with SNAP, whose buffers lie in object 16 from 0xC000 on. -/
def task : Task where
  ref := 0
  queue := 0
  phase := .running
  words := [0, 0, 0x2000000000000, 0, 0, 0, 0, 0, 0, 0, 0, 0, 0, 0, 0, 0x10000000C000]
  prio := 0
  meter := 0
  order := 0
  firstOrder := 0
  position := 0
  binds := []
  placements := 0
  remote := []
  pending := []
  charged := 0
  watch := 0

/-- Object 16 in the table at 0: pinned, class 0, readable and writable. Its extent list at 0x300 covers frames 0x17 to 0x2C, with
frame entries from 0x400 on, all resident in frame 0 of stack 0. -/
def tables : Memory :=
  [(0x202, 0x2D), (0x205, 0x83), (0x211, 0x03), (0x300, 1), (0x312, 22), (0x315, 0x17), (0x319, 0x04)] ++
    (List.range 22).map fun i => (0x407 + 16 * i, 0x40)

/-- The descriptor of object 16, as the object cache holds it. -/
def entry : OcEntry := ⟨0, 0, 16, 0x200, 0x8300002D0000, 0, 0x300, 0, 0, 0⟩

/-- The member of logical core 0, with nothing arrived. -/
def member : Member := ⟨0, 0, 0, 0, false, false, none, false, false⟩

/-- The record of channel 0: logical core 0 alone. -/
def barrier : Barrier := ⟨0, 0, 0, 0, [member], 0, false, 0, false, false, false, 0, none, 0⟩

/-- What slot 3 holds of its group. -/
def group : List Byte := List.replicate 0x10A700 1

/-- Context 0, which holds the prefixes of a group (so its core has the turn), is about to issue the ARRIVE.snap 0 at 0x10. -/
def state : State :=
  { State.reset with
    core := { LCore.empty with
      resident := true
      regs := { PlaceRegs.zero with dmem := #v[0x8000000000000000, 0, 0, 0] }
      ctx := { Ctx.zero 0 with live := true, pc := 0x10, pfx := some ⟨[], none, false, false, 0x10⟩ }
      xbound := 0x20
      snapChan := some 0
      lm := [(0x10, 0x10), (0x13, 0x54), (0xFFFFE, 1)]
      slots := #v[CollSlot.zero, CollSlot.zero, CollSlot.zero, { CollSlot.zero with group := some group }] }
    disp := { Dispatcher.reset with
      queues := Dispatcher.reset.queues.set 0 { Queue.reset with entries := 17 }
      tasks := [task] }
    unc := { Uncore.reset with
      priv := tables
      objectCache := [entry]
      barriers := [barrier] } }

theorem state_memoriesWf : state.MemoriesWf := by
  refine ⟨rfl, by decide +kernel, rfl, rfl, fun c hc => ?_⟩
  rw [List.mem_singleton.mp hc]
  exact rfl

/-! ### The capture -/

/-- Where the 22 pieces of the buffer stand: each in the same 64 KiB of the HBM. -/
def places : List (HwPlace × Nat × Nat) :=
  (List.range 22).map fun i =>
    (⟨0, 16, descOf 0x200 0x8300002D0000 0 0x300 0, 0x170000 + 0x10000 * i, 0, false⟩, 0x10000 * i, 0x10000)

/-- The capture's access to its buffer. -/
def access : Acc := ⟨task.buffer ⟨0, 0, 0⟩ 1, Config.imageBytes, 0xF, 1, 0⟩

/-- The image that the capture writes. -/
def image : Memory := { state.core with ctx := state.core.ctx.advance .next }.capture []

theorem selector_run : Op.selector task ⟨0, 0, 0⟩ state = .ok (0, state) := by
  have hp : Op.hwPlace 0 (task.word 0x78) 8 rightR state = .ok (none, state) :=
    Op.ReadsOnly.run (Op.hwPlace_readsOnly ..) (by decide +kernel)
  have hr : Op.hwRead 0 (task.word 0x78) rightR state = .ok (none, state) := Op.bind_ok hp
  exact (Op.bind_ok hr).trans rfl

theorem checkAccess_run : Op.checkAccess (state.self 5) access (rightR + rightW) state = .ok ((), state) := by
  have hh : refHandle access.ref = 16 := by decide +kernel
  have hs : (state.self 5).slot = 0 := rfl
  have hq : (state.self 5).queue = 0 := rfl
  have hu : (state.self 5).under = [] := rfl
  have hd : Op.descCheck (state.self 5) access (rightR + rightW) (descOf 0x200 0x8300002D0000 0 0x300 0) = pure () := rfl
  simp only [Op.checkAccess, Op.descriptor, hh, hs, hq, hu, Op.bind_run, Op.get_run, Op.answered]
  exact congrFun hd state

theorem areaPlaces_run :
    Op.areaPlaces 0 (task.buffer ⟨0, 0, 0⟩ 1) Config.imageBytes (rightR + rightW) state = .ok (some places, state) :=
  Op.ReadsOnly.run (Op.areaPlaces_readsOnly ..) (by decide +kernel)

theorem capture_run :
    Op.capture state = .ok ((), places.foldl (fun t p => t.areaStore p.1.bank p.2.1 p.2.2 image) state) := by
  have hc : ∀ p ∈ places, p.1.desc.cls = 0 := by decide +kernel
  have hg : state.areaGone places = none := by decide +kernel
  refine (Op.bind_ok (Op.get_run _)).trans ?_
  refine (Op.bind_ok selector_run).trans ?_
  refine (Op.bind_ok checkAccess_run).trans ?_
  refine (Op.bind_ok areaPlaces_run).trans ?_
  refine (Op.bind_ok (Op.get_run _)).trans ?_
  simp only [hg]
  refine (Op.bind_ok (Op.modify_run _ _)).trans ?_
  refine (Op.bind_ok (Op.get_run _)).trans ?_
  exact Op.areaWrite_class0 _ _ _ hc

/-! ### The image is out of order -/

theorem slots_last : (state.core.slots.toList.zipIdx.flatMap fun e => e.1.patches e.2).getLast? = some (0x55900, group) := rfl

/-- The group's bytes are the last that are written, and local memory's are listed behind. -/
theorem image_eq : ∃ m : Memory, m.wf = true ∧
    image = m.write 0x55900 group ++ [(0x60010, 0x10), (0x60013, 0x54), (0x15FFFE, 1)] := by
  obtain ⟨before, h⟩ := List.getLast?_eq_some_iff.mp slots_last
  obtain ⟨m, hm, hi⟩ := LCore.capture_slots { state.core with ctx := state.core.ctx.advance .next } [] h
  have hl : (state.core.lm.map fun e => (e.1 + 0x60000, e.2)) = [(0x60010, 0x10), (0x60013, 0x54), (0x15FFFE, 1)] := rfl
  rw [← hl]
  exact ⟨m, hm, hi⟩

theorem image_disordered : ¬ (image.slice 0x150000 0x10000).Pairwise fun c d => c.1 < d.1 := by
  intro hp
  obtain ⟨m, hm, hi⟩ := image_eq
  have hg : (m.write 0x55900 group).get 0x15FFFF = 1 :=
    (Memory.get_write_inside m 0x55900 0x10A6FF group hm (by rw [group, List.length_replicate]; decide)).trans
      (List.getElem_replicate _)
  have hl : (0x15FFFF, 1) ∈ (m.write 0x55900 group).slice 0x150000 0x10000 := by
    refine List.mem_filter.mpr ⟨?_, by decide⟩
    exact hg ▸ Memory.mem_of_get_ne_zero _ _ (by simp [hg])
  rw [hi, Memory.slice, List.filter_append, List.pairwise_append] at hp
  exact absurd (hp.2.2 _ hl (0x15FFFE, 1) (by decide)) (by decide)

/-- The last piece of the buffer takes the end of the image, which is out of order. -/
theorem captured_not_wf :
    ¬ (places.foldl (fun t p => t.areaStore p.1.bank p.2.1 p.2.2 image) state).unc.hbm.wf = true := by
  have hp : places = places.dropLast ++ [(⟨0, 16, descOf 0x200 0x8300002D0000 0 0x300 0, 0x2C0000, 0, false⟩, 0x150000, 0x10000)] := by
    decide +kernel
  rw [hp, List.foldl_concat]
  exact fun h => image_disordered (Memory.pairwise_slice_of_wf_blit h)

/-! ### The step -/

theorem arrive_run : (Op.arrive 0 true).Reaches state fun t => ¬ t.unc.hbm.wf = true := by
  have hs : state.snapTask = true := rfl
  have hn : state.core.snapChan = some 0 := rfl
  have hr : state.bankReport (state.blockScope barrier) = none := rfl
  have ht : state.twinned = false := rfl
  have hc : Op.channel 0 state = .ok ((barrier, member), state) := rfl
  obtain ⟨u, hu, hbm⟩ : ∃ u, Op.capture state = .ok ((), u) ∧ ¬ u.unc.hbm.wf = true := ⟨_, capture_run, captured_not_wf⟩
  refine .bind hc ?_
  refine .bind (a := ()) (t := state) rfl ?_
  refine .bind (Op.get_run _) ?_
  simp only [hs, hn]
  refine .bind (a := ()) (t := state) rfl ?_
  simp only [hr]
  refine .bind (Op.get_run _) ?_
  simp only [ht]
  refine .bind (a := ()) (t := state) rfl ?_
  exact .bind hu ⟨_, _, rfl, hbm⟩

theorem issueWord_run : ∃ t, state.issueWord = .next t ∧ t.stalled = false ∧ ¬ t.unc.hbm.wf = true := by
  obtain ⟨_, t, ht, hbm⟩ := arrive_run
  have hf : state.fetchCheck = .ok state := rfl
  have ha : state.ctx.ar = false := rfl
  have hx : ¬ state.core.xbound ≤ state.ctx.pc := by decide +kernel
  have hw : state.waits = false := rfl
  refine ⟨t.done, ?_, rfl, hbm⟩
  simp only [State.issueWord, ha, hw, hf, hx]
  exact performNext_ok (i := .arriveSnap 0) ⟨rfl, rfl, rfl, rfl⟩ ht

theorem coreTurn_run : ∃ t, state.coreTurn = .next t ∧ t.stalled = false ∧ ¬ t.unc.hbm.wf = true := by
  obtain ⟨t, ht, hst, hbm⟩ := issueWord_run
  have hi : state.issues state.core = true := rfl
  have hf : state.core.ctxs.find? (fun x => x.live && x.pfx.isSome) = some state.ctx := rfl
  have hp : state.ctx.pfx.isSome = true := rfl
  have hc : state.focus state.core.id state.ctx.num = state := rfl
  refine ⟨(state.afterIssue t state.together state.ctx.num).runAhead state.together state.ctx.num, ?_, ?_, ?_⟩
  · simp only [State.coreTurn, hi, hf, State.issueCtx, hc, hp, ht, hst, Bool.not_true, Bool.false_eq_true, ↓reduceIte]
  · rw [State.runAhead_keeps State.stalled State.mapCtx_stalled, State.afterIssue_stalled, hst]
  · rwa [State.runAhead_keeps State.unc State.mapCtx_unc, State.afterIssue_unc]

theorem step_run : ∃ t, step state = .next t ∧ ¬ t.unc.hbm.wf = true := by
  obtain ⟨t, ht, hst, hbm⟩ := coreTurn_run
  have hf : state.cores.find? (fun c => state.issues c && c.inGroup) = some state.core := rfl
  have hc : State.turnOf { state with agenda := state.groupAgenda state.core.id, stalled := false } state.core.id = .next t := ht
  refine ⟨t.tickOn, ?_, hbm⟩
  simp only [step, State.turn, hf, hc, hst]
  rfl

end Sys2Proof.Overlong

/-- Refutes O7: in `Sys2Proof.Overlong.state`, whose collective slot 3 holds a group of 0x10A700 bytes, every memory is canonical, and
the step, an ARRIVE.snap, captures an image that leaves the HBM's addresses out of order. -/
theorem not_stepKeepsMemoriesWf : ¬ Obligations.StepKeepsMemoriesWf := by
  unfold Obligations.StepKeepsMemoriesWf
  intro h
  obtain ⟨t, ht, hbm⟩ := Sys2Proof.Overlong.step_run
  exact hbm (h _ t Sys2Proof.Overlong.state_memoriesWf ht).1
end

section
/-! O8. Bytes written are the bytes read, and the value of a number's lowest bytes is the number modulo their range. -/

namespace Sys2Proof.Machine

theorem bytesOf_length (n v : Nat) : (bytesOf n v).length = n := by
  fun_induction bytesOf n v <;> simp_all

theorem valueOf_bytesOf (n v : Nat) : valueOf (bytesOf n v) = v % 256 ^ n := by
  induction n generalizing v with
  | zero => simp [bytesOf, valueOf, Nat.mod_one]
  | succ n ih => rw [bytesOf, valueOf, ih, BitVec.toNat_ofNat, Nat.pow_succ' (m := 256), Nat.mod_mul (a := 256)]

theorem Memory.read_write (m : Memory) (a : Nat) (bs : List Byte) (hm : m.wf = true) :
    (m.write a bs).read a bs.length = bs := by
  induction bs generalizing m a with
  | nil => rfl
  | cons b bs ih =>
    have hb : (m.write a (b :: bs)).get a = b := Memory.get_write_inside m a 0 (b :: bs) hm (Nat.succ_pos _)
    rw [List.length_cons, Memory.read, hb, Memory.write, ih _ _ (Memory.wf_set m a b hm)]

theorem Memory.value_store (m : Memory) (a n v : Nat) (hm : m.wf = true) :
    (m.store a n v).value a n = v % 2 ^ (8 * n) := by
  have h := Memory.read_write m a (bytesOf n v) hm
  rw [bytesOf_length] at h
  rw [Memory.store, Memory.value, h, valueOf_bytesOf, Nat.pow_mul]

theorem Memory.get_store_outside (m : Memory) (a n v b : Nat) (hm : m.wf = true) (h : b < a ∨ a + n ≤ b) :
    (m.store a n v).get b = m.get b :=
  Memory.get_write_outside m a b _ hm (by rwa [bytesOf_length])

end Sys2Proof.Machine

open Sys2Proof.Machine in
/-- Settles O8: each half is the memory's laws of one byte and of several. -/
theorem memoryReadsWhatWasWritten : Obligations.MemoryReadsWhatWasWritten := by
  unfold Obligations.MemoryReadsWhatWasWritten
  exact ⟨fun m a b v hm => ⟨m.wf_set a v hm, m.get_set_same a v hm, m.get_set_other a b v hm⟩,
    fun m a n v hm => ⟨m.wf_store a n v hm, m.value_store a n v hm, fun b h => m.get_store_outside a n v b hm h⟩⟩
end

section
/-! O37. What a completed word leaves: the context it wrote, at the next word, and all else as it was. -/

namespace Sys2Proof.Machine

/-! ### The word completes on a context -/

theorem State.sameCoreRest_setCtx_done (s : State) (c : Ctx) : s.SameCoreRest (s.setCtx c).done := by
  simp [State.SameCoreRest, State.done]

theorem State.sameOutside_setCtx_done (s : State) (c : Ctx) : s.SameOutside (s.setCtx c).done := by
  simp [State.SameOutside, State.done]

theorem State.done_ctx (s : State) : s.done.ctx = s.ctx.advance .next := rfl

theorem State.G_setCtx_done (s : State) (c : Ctx) (n : BitVec 6) : (s.setCtx c).done.G n = c.gval n.toNat := by
  simp [State.G, State.done, Ctx.gval]

theorem State.V_setCtx_done (s : State) (c : Ctx) (n : BitVec 5) : (s.setCtx c).done.V n = c.vval n.toNat := by
  simp [State.V, State.done, Ctx.vval]

theorem State.K_setCtx_done (s : State) (c : Ctx) (n : BitVec 3) : (s.setCtx c).done.K n = c.kval n.toNat := by
  simp [State.K, State.done, Ctx.kval]

/-! ### Registers of a context that has written one -/

theorem Ctx.gval_setG_bitVec (c : Ctx) (d : BitVec 6) (v : Word) :
    (c.setG d.toNat v).gval d.toNat = if d = 0 then 0 else v := by
  split
  · next h => rw [h]; rfl
  · next h => exact c.gval_setG_same _ v d.isLt (BitVec.toNat_ne.mp h)

theorem Ctx.kval_setK_bitVec (c : Ctx) (d : BitVec 3) (v : BitVec 32) :
    (c.setK d.toNat v).kval d.toNat = if d = 0 then BitVec.allOnes 32 else v := by
  split
  · next h => rw [h]; rfl
  · next h => exact c.kval_setK_same _ v d.isLt (BitVec.toNat_ne.mp h)

/-! ### One event counted -/

/-- Counting an event changes the counts of the context in focus alone: METR1 by one, and METR7. -/
theorem State.counted_eq (s : State) (entry : Nat) :
    ∃ u : Meter, s.counted entry = s.setCtx { s.ctx with unit := u } ∧
      u.counts[1] = s.ctx.unit.counts[1] + 1 ∧ ∀ i : Fin 8, i ≠ 1 → i ≠ 7 → u.counts[i] = s.ctx.unit.counts[i] := by
  refine ⟨_, rfl, ?_, fun i h1 h7 => ?_⟩
  · simp [State.ctx]
  · have h1 : 1 ≠ i.val := fun e => h1 (Fin.ext e.symm)
    have h7 : 7 ≠ i.val := fun e => h7 (Fin.ext e.symm)
    simp [State.ctx, Vector.getElem_set_ne, h1, h7]

/-! ### The words that write one register, or none -/

/-- The word has completed on context `c`, with the counts `u`. -/
def State.doneOn (s : State) (c : Ctx) (u : Meter) : State := (s.setCtx { c with unit := u }).done

/-- Only what a word may write of its context differs: its registers, its counts and its PC. -/
def State.Frame (s t : State) : Prop :=
  s.SameSys t ∧ s.SameCoreRest t ∧ s.SameOutside t ∧ t.ctx.pc = s.ctx.pc + 4

theorem State.frame_doneOn_setG (s : State) (n : Nat) (v : Word) (u : Meter) : s.Frame (s.doneOn (s.ctx.setG n v) u) := by
  refine ⟨?_, s.sameCoreRest_setCtx_done _, s.sameOutside_setCtx_done _, ?_⟩
  · simp [State.SameSys, State.doneOn, State.done]
  · simp [State.doneOn, State.done]

theorem State.frame_doneOn_setV (s : State) (n : Nat) (v : VWord) (u : Meter) : s.Frame (s.doneOn (s.ctx.setV n v) u) := by
  refine ⟨?_, s.sameCoreRest_setCtx_done _, s.sameOutside_setCtx_done _, ?_⟩
  · simp [State.SameSys, State.doneOn, State.done]
  · simp [State.doneOn, State.done]

theorem State.frame_doneOn_setK (s : State) (n : Nat) (v : BitVec 32) (u : Meter) : s.Frame (s.doneOn (s.ctx.setK n v) u) := by
  refine ⟨?_, s.sameCoreRest_setCtx_done _, s.sameOutside_setCtx_done _, ?_⟩
  · simp [State.SameSys, State.doneOn, State.done]
  · simp [State.doneOn, State.done]

theorem State.doneOn_setG (s : State) (d : BitVec 6) (v : Word) (u : Meter) :
    (s.doneOn (s.ctx.setG d.toNat v) u).G d = (if d = 0 then 0 else v) ∧ s.SameG (s.doneOn (s.ctx.setG d.toNat v) u) d ∧
      s.SameVK (s.doneOn (s.ctx.setG d.toNat v) u) := by
  refine ⟨?_, fun n hn => ?_, ?_⟩
  · exact (s.G_setCtx_done _ d).trans (s.ctx.gval_setG_bitVec d v)
  · exact (s.G_setCtx_done _ n).trans (s.ctx.gval_setG_other _ _ v (BitVec.toNat_ne.mp hn))
  · simp [State.SameVK, State.doneOn, State.done]

theorem State.doneOn_setV (s : State) (d : BitVec 5) (v : VWord) (u : Meter) :
    (s.doneOn (s.ctx.setV d.toNat v) u).V d = v ∧ (∀ n, n ≠ d → (s.doneOn (s.ctx.setV d.toNat v) u).V n = s.V n) ∧
      (s.doneOn (s.ctx.setV d.toNat v) u).ctx.g = s.ctx.g ∧ (s.doneOn (s.ctx.setV d.toNat v) u).ctx.k = s.ctx.k := by
  refine ⟨?_, fun n hn => ?_, ?_⟩
  · exact (s.V_setCtx_done _ d).trans (s.ctx.vval_setV_same _ v d.isLt)
  · exact (s.V_setCtx_done _ n).trans (s.ctx.vval_setV_other _ _ v (BitVec.toNat_ne.mp hn))
  · simp [State.doneOn, State.done]

theorem State.doneOn_setK (s : State) (d : BitVec 3) (v : BitVec 32) (u : Meter) :
    (s.doneOn (s.ctx.setK d.toNat v) u).K d = (if d = 0 then BitVec.allOnes 32 else v) ∧
      (∀ n, n ≠ d → (s.doneOn (s.ctx.setK d.toNat v) u).K n = s.K n) ∧
      (s.doneOn (s.ctx.setK d.toNat v) u).ctx.g = s.ctx.g ∧ (s.doneOn (s.ctx.setK d.toNat v) u).ctx.v = s.ctx.v := by
  refine ⟨?_, fun n hn => ?_, ?_⟩
  · exact (s.K_setCtx_done _ d).trans (s.ctx.kval_setK_bitVec d v)
  · exact (s.K_setCtx_done _ n).trans (s.ctx.kval_setK_other _ _ v (BitVec.toNat_ne.mp hn))
  · simp [State.doneOn, State.done]

/-- A vector word that leaves context `c` completes on it with one more vector instruction counted. -/
theorem State.counted_done_eq (s : State) (c : Ctx) : ∃ u : Meter, ((s.setCtx c).counted 4).done = s.doneOn c u := by
  obtain ⟨u, hu, -⟩ := (s.setCtx c).counted_eq 4
  exact ⟨u, congrArg State.done hu⟩

end Sys2Proof.Machine

open Sys2Proof.Machine in
/-- Settles O37: every such word completes on the context with one register written, its counts raised or not. -/
theorem completedWordFrame : Obligations.CompletedWordFrame := by
  unfold Obligations.CompletedWordFrame
  refine ⟨⟨fun s d v => ?_, fun s d v => ?_, fun s d v => ?_, fun s => ?_⟩, fun s => ?_⟩
  · obtain ⟨hsys, hcore, hout, hpc⟩ := s.frame_doneOn_setG d.toNat v (s.ctx.setG d.toNat v).unit
    obtain ⟨hd, hg, hvk⟩ := s.doneOn_setG d v (s.ctx.setG d.toNat v).unit
    exact ⟨hd, hg, hvk, hsys, hcore, hout, fun _ => rfl, hpc⟩
  · obtain ⟨hsys, hcore, hout, -⟩ := s.frame_doneOn_setV d.toNat v (s.ctx.setV d.toNat v).unit
    obtain ⟨hd, hv, hg, hk⟩ := s.doneOn_setV d v (s.ctx.setV d.toNat v).unit
    exact ⟨hd, hv, hg, hk, hsys, hcore, hout⟩
  · obtain ⟨hsys, hcore, hout, -⟩ := s.frame_doneOn_setK d.toNat v (s.ctx.setK d.toNat v).unit
    obtain ⟨hd, hk, hg, hv⟩ := s.doneOn_setK d v (s.ctx.setK d.toNat v).unit
    exact ⟨hd, hk, hg, hv, hsys, hcore, hout⟩
  · simp [State.SameVK, State.SameSys, State.SameCoreRest, State.SameOutside, State.done]
  · obtain ⟨u, hu, hmetr1, hcounts⟩ := s.counted_eq 4
    refine ⟨by rw [hu]; exact hmetr1, fun i h1 h7 => by rw [hu]; exact hcounts i h1 h7, fun d v => ?_, fun d v => ?_,
      fun d v => ?_, ?_⟩
    · obtain ⟨u, hu⟩ := s.counted_done_eq (s.ctx.setV d.toNat v)
      obtain ⟨hd, hv, hg, hk⟩ := s.doneOn_setV d v u
      rw [State.doneVec, hu]
      exact ⟨hd, hv, hg, hk, s.frame_doneOn_setV d.toNat v u⟩
    · obtain ⟨u, hu⟩ := s.counted_done_eq (s.ctx.setG d.toNat v)
      have hn : (d.setWidth 6).toNat = d.toNat := by simp; omega
      have hz : d.setWidth 6 = 0 ↔ d = 0 := by bv_omega
      obtain ⟨hd, hg, hvk⟩ := s.doneOn_setG (d.setWidth 6) v u
      rw [hn] at hd hg hvk
      simp only [hz] at hd
      rw [State.doneVecG, hu]
      exact ⟨hd, hg, hvk, s.frame_doneOn_setG d.toNat v u⟩
    · obtain ⟨u, hu⟩ := s.counted_done_eq (s.ctx.setK d.toNat v)
      obtain ⟨hd, hk, hg, hv⟩ := s.doneOn_setK d v u
      rw [State.doneVecK, hu]
      exact ⟨hd, hk, hg, hv, s.frame_doneOn_setK d.toNat v u⟩
    · rw [State.doneVecNone, hu]
      simp [State.SameVK, State.SameSys, State.SameCoreRest, State.SameOutside, State.done]
end

section
/-! The codes of the operand types (chapter 6) and the types of codes. -/

namespace Sys2Proof

/-! ### A code fits its field -/

@[simp] theorem Width.code_mod (x : Width) : x.code % 4 = x.code :=
  Nat.mod_eq_of_lt (Laws.FitsWord.code_width x)
@[simp] theorem Order.code_mod (x : Order) : x.code % 4 = x.code :=
  Nat.mod_eq_of_lt (Laws.FitsWord.code_order x)
@[simp] theorem Scope.code_mod_8 (x : Scope) : x.code % 8 = x.code :=
  Nat.mod_eq_of_lt ((Laws.FitsWord.code_scope x).trans (by decide))
@[simp] theorem Scope.code_mod_256 (x : Scope) : x.code % 256 = x.code :=
  Nat.mod_eq_of_lt ((Laws.FitsWord.code_scope x).trans (by decide))
@[simp] theorem IntTy.code_mod (x : IntTy) : x.code % 8 = x.code :=
  Nat.mod_eq_of_lt ((Laws.FitsWord.code_intty x).trans (by decide))
@[simp] theorem FltTy.code_mod (x : FltTy) : x.code % 8 = x.code :=
  Nat.mod_eq_of_lt ((Laws.FitsWord.code_fltty x).trans (by decide))
@[simp] theorem NumTy.code_mod (x : NumTy) : x.code % 16 = x.code :=
  Nat.mod_eq_of_lt ((Laws.FitsWord.code_numty x).trans (by decide))
@[simp] theorem Cond.code_mod (x : Cond) : x.code % 8 = x.code :=
  Nat.mod_eq_of_lt ((Laws.FitsWord.code_cond x).trans (by decide))
@[simp] theorem RMode.code_mod (x : RMode) : x.code % 4 = x.code :=
  Nat.mod_eq_of_lt ((Laws.FitsWord.code_rmode x).trans (by decide))
@[simp] theorem PackFmt.code_mod (x : PackFmt) : x.code % 8 = x.code :=
  Nat.mod_eq_of_lt ((Laws.FitsWord.code_packfmt x).trans (by decide))
@[simp] theorem Tier.code_mod (x : Tier) : x.code % 256 = x.code :=
  Nat.mod_eq_of_lt ((Laws.FitsWord.code_tier x).trans (by decide))

/-! ### The type of a code -/

@[simp] theorem Width.ofCode_code (x : Width) : Width.ofCode x.code = x := by cases x <;> rfl
@[simp] theorem Order.ofCode_code (x : Order) : Order.ofCode x.code = x := by cases x <;> rfl
@[simp] theorem Scope.ofCode_code (x : Scope) : Scope.ofCode x.code = some x := by cases x <;> rfl
@[simp] theorem IntTy.ofCode_code (x : IntTy) : IntTy.ofCode x.code = some x := by cases x <;> rfl
@[simp] theorem FltTy.ofCode_code (x : FltTy) : FltTy.ofCode x.code = some x := by cases x <;> rfl
@[simp] theorem NumTy.ofCode_code (x : NumTy) : NumTy.ofCode x.code = some x := by
  cases x with
  | int ty => simp [NumTy.ofCode, NumTy.code, (Laws.FitsWord.code_intty ty).trans (by decide : 6 < 8)]
  | flt ty => simp [NumTy.ofCode, NumTy.code]
@[simp] theorem Cond.ofCode_code (x : Cond) : Cond.ofCode x.code = some x := by cases x <;> rfl
@[simp] theorem RMode.ofCode_code (x : RMode) : RMode.ofCode x.code = some x := by cases x <;> rfl
@[simp] theorem PackFmt.ofCode_code (x : PackFmt) : PackFmt.ofCode x.code = some x := by cases x <;> rfl
@[simp] theorem Tier.ofCode_code (x : Tier) : Tier.ofCode x.code = some x := by cases x <;> rfl

/-! ### The code of a type -/

@[simp] theorem Width.code_ofCode_fld (w lo : Nat) : (Width.ofCode (fld w lo 2)).code = fld w lo 2 := by
  have h : fld w lo 2 < 4 := Nat.mod_lt _ (by decide)
  interval_cases fld w lo 2 <;> rfl
@[simp] theorem Order.code_ofCode_fld (w lo : Nat) : (Order.ofCode (fld w lo 2)).code = fld w lo 2 := by
  have h : fld w lo 2 < 4 := Nat.mod_lt _ (by decide)
  interval_cases fld w lo 2 <;> rfl
theorem Scope.code_of_ofCode {n : Nat} {x : Scope} (h : Scope.ofCode n = some x) : x.code = n := by
  unfold Scope.ofCode at h
  split at h <;> cases h <;> rfl
theorem IntTy.code_of_ofCode {n : Nat} {x : IntTy} (h : IntTy.ofCode n = some x) : x.code = n := by
  unfold IntTy.ofCode at h
  split at h <;> cases h <;> rfl
theorem FltTy.code_of_ofCode {n : Nat} {x : FltTy} (h : FltTy.ofCode n = some x) : x.code = n := by
  unfold FltTy.ofCode at h
  split at h <;> cases h <;> rfl
theorem NumTy.code_of_ofCode {n : Nat} {x : NumTy} (h : NumTy.ofCode n = some x) : x.code = n := by
  unfold NumTy.ofCode at h
  split at h
  · obtain ⟨ty, hty, rfl⟩ := Option.map_eq_some_iff.mp h
    exact IntTy.code_of_ofCode hty
  · obtain ⟨ty, hty, rfl⟩ := Option.map_eq_some_iff.mp h
    rw [NumTy.code, FltTy.code_of_ofCode hty]
    omega
theorem Cond.code_of_ofCode {n : Nat} {x : Cond} (h : Cond.ofCode n = some x) : x.code = n := by
  unfold Cond.ofCode at h
  split at h <;> cases h <;> rfl
theorem RMode.code_of_ofCode {n : Nat} {x : RMode} (h : RMode.ofCode n = some x) : x.code = n := by
  unfold RMode.ofCode at h
  split at h <;> cases h <;> rfl
theorem PackFmt.code_of_ofCode {n : Nat} {x : PackFmt} (h : PackFmt.ofCode n = some x) : x.code = n := by
  unfold PackFmt.ofCode at h
  split at h <;> cases h <;> rfl
theorem Tier.code_of_ofCode {n : Nat} {x : Tier} (h : Tier.ofCode n = some x) : x.code = n := by
  unfold Tier.ofCode at h
  split at h <;> cases h <;> rfl

@[simp] theorem toNat_fld_beq (w lo : Nat) : (fld w lo 1 == 1).toNat = fld w lo 1 := by
  have h : fld w lo 1 < 2 := Nat.mod_lt _ (by decide)
  interval_cases fld w lo 1 <;> rfl

@[simp] theorem toNat_beq_one (b : Bool) : (b.toNat == 1) = b := by cases b <;> rfl

end Sys2Proof
end

section
/-! The fields of a word (R127, R128): a word is its fields one above the other, and each field is read back from it. -/

namespace Sys2Proof

/-- A field of a word: its width and its bits. -/
structure WordField where
  width : Nat
  bits : BitVec width

/-- The word of the fields, the first one lowest. -/
def packed : List WordField → Nat
  | [] => 0
  | ⟨n, x⟩ :: fs => x.toNat + 2 ^ n * packed fs

/-- The fields stand in the word one above the other, from bit `lo` on. -/
def HasFields (w : Nat) : Nat → List WordField → Prop
  | _, [] => True
  | lo, ⟨n, x⟩ :: fs => fld w lo n = x.toNat ∧ HasFields w (lo + n) fs

@[simp] theorem toNat_bf (w lo n : Nat) : (bf w lo n).toNat = fld w lo n := BitVec.toNat_ofNat ..

theorem bf_eq_ofNat (w lo n : Nat) : bf w lo n = BitVec.ofNat n (fld w lo n) :=
  BitVec.eq_of_toNat_eq (by simp [bf, fld])

/-! ### A field fits its width -/

@[simp] theorem fld_two_mod (w lo : Nat) : fld w lo 2 % 4 = fld w lo 2 := Nat.mod_mod ..
@[simp] theorem fld_three_mod (w lo : Nat) : fld w lo 3 % 8 = fld w lo 3 := Nat.mod_mod ..
@[simp] theorem fld_four_mod (w lo : Nat) : fld w lo 4 % 16 = fld w lo 4 := Nat.mod_mod ..
@[simp] theorem fld_eight_mod (w lo : Nat) : fld w lo 8 % 256 = fld w lo 8 := Nat.mod_mod ..

/-! ### HasFields one above the other -/

theorem fld_above (p lo k : Nat) (f : WordField) :
    fld (f.bits.toNat + 2 ^ f.width * p) (f.width + lo) k = fld p lo k := by
  rw [fld, fld, Nat.pow_add, ← Nat.div_div_eq_div_mul, Nat.add_mul_div_left _ _ (Nat.two_pow_pos _),
    Nat.div_eq_of_lt f.bits.isLt, Nat.zero_add]

theorem HasFields.above {p : Nat} (f : WordField) (fs : List WordField) (lo : Nat) (h : HasFields p lo fs) :
    HasFields (f.bits.toNat + 2 ^ f.width * p) (f.width + lo) fs := by
  induction fs generalizing lo with
  | nil => exact trivial
  | cons g fs ih =>
    obtain ⟨hg, hfs⟩ := h
    exact ⟨(fld_above p lo _ f).trans hg, Nat.add_assoc .. ▸ ih _ hfs⟩

/-- Each field is read back from the word. -/
theorem fields_packed (fs : List WordField) : HasFields (packed fs) 0 fs := by
  induction fs with
  | nil => exact trivial
  | cons f fs ih =>
    refine ⟨?_, by rw [Nat.zero_add]; exact ih.above f⟩
    rw [fld, Nat.pow_zero, Nat.div_one, packed, Nat.add_mul_mod_self_left, Nat.mod_eq_of_lt f.bits.isLt]

theorem packed_lt (fs : List WordField) : packed fs < 2 ^ (fs.map WordField.width).sum := by
  induction fs with
  | nil => exact Nat.one_pos
  | cons f fs ih =>
    have hf := f.bits.isLt
    have hm := Nat.mul_le_mul_left (2 ^ f.width) (Nat.succ_le_of_lt ih)
    rw [Nat.mul_succ] at hm
    rw [packed, List.map_cons, List.sum_cons, Nat.pow_add]
    omega

/-- A word's fields make the word. -/
theorem HasFields.packed_eq {w lo : Nat} {fs : List WordField} (h : HasFields w lo fs) :
    packed fs = fld w lo (fs.map WordField.width).sum := by
  induction fs generalizing lo with
  | nil => simp [packed, fld, Nat.mod_one]
  | cons f fs ih =>
    obtain ⟨hf, hfs⟩ := h
    rw [packed, ih hfs, ← hf, List.map_cons, List.sum_cons, fld, fld, fld, Nat.pow_add 2 f.width, Nat.mod_mul,
      Nat.pow_add, Nat.div_div_eq_div_mul]

/-- A part of a field is a field. -/
theorem fld_part {w lo n k m : Nat} (h : k + m ≤ n) : fld w lo n / 2 ^ k % 2 ^ m = fld w (lo + k) m := by
  obtain ⟨r, rfl⟩ := Nat.exists_eq_add_of_le h
  rw [fld, fld, Nat.add_assoc, Nat.pow_add 2 k, Nat.mod_mul_right_div_self, Nat.div_div_eq_div_mul, ← Nat.pow_add,
    Nat.mod_mod_of_dvd _ (Nat.pow_dvd_pow 2 (Nat.le_add_right m r))]

/-- Two fields that overlap hold the same bits where they do. -/
theorem fld_ne {w lo n v lo' n' c : Nat} (h : fld w lo n = v)
    (hne : v / 2 ^ (max lo lo' - lo) % 2 ^ (min (lo + n) (lo' + n') - max lo lo') ≠
      c / 2 ^ (max lo lo' - lo') % 2 ^ (min (lo + n) (lo' + n') - max lo lo')) : fld w lo' n' ≠ c := by
  intro hc
  obtain hlt | hle := Nat.lt_or_ge (max lo lo') (min (lo + n) (lo' + n'))
  · rw [← h, ← hc, fld_part (by omega), fld_part (by omega), show lo + (max lo lo' - lo) = max lo lo' by omega,
      show lo' + (max lo lo' - lo') = max lo lo' by omega] at hne
    exact hne rfl
  · rw [Nat.sub_eq_zero_of_le hle, Nat.pow_zero, Nat.mod_one, Nat.mod_one] at hne
    exact hne rfl

end Sys2Proof
end

section
/-! The fields of each instruction's word, from its lowest bit up: fixed bits and operands (R128 and the encodings of each entry). -/

namespace Sys2Proof
set_option Elab.async false

@[simp] theorem encode_add (d a b : BitVec 6) :
    encode (.add d a b) = some (packed [⟨8, 0x00⟩, ⟨6, b⟩, ⟨6, a⟩, ⟨6, d⟩, ⟨6, 0x01⟩]) :=
  congrArg some (by simp [wordOf, packed]; ring)
@[simp] theorem encode_sub (d a b : BitVec 6) :
    encode (.sub d a b) = some (packed [⟨8, 0x01⟩, ⟨6, b⟩, ⟨6, a⟩, ⟨6, d⟩, ⟨6, 0x01⟩]) :=
  congrArg some (by simp [wordOf, packed]; ring)
@[simp] theorem encode_and (d a b : BitVec 6) :
    encode (.and d a b) = some (packed [⟨8, 0x02⟩, ⟨6, b⟩, ⟨6, a⟩, ⟨6, d⟩, ⟨6, 0x01⟩]) :=
  congrArg some (by simp [wordOf, packed]; ring)
@[simp] theorem encode_or (d a b : BitVec 6) :
    encode (.or d a b) = some (packed [⟨8, 0x03⟩, ⟨6, b⟩, ⟨6, a⟩, ⟨6, d⟩, ⟨6, 0x01⟩]) :=
  congrArg some (by simp [wordOf, packed]; ring)
@[simp] theorem encode_xor (d a b : BitVec 6) :
    encode (.xor d a b) = some (packed [⟨8, 0x04⟩, ⟨6, b⟩, ⟨6, a⟩, ⟨6, d⟩, ⟨6, 0x01⟩]) :=
  congrArg some (by simp [wordOf, packed]; ring)
@[simp] theorem encode_andn (d a b : BitVec 6) :
    encode (.andn d a b) = some (packed [⟨8, 0x05⟩, ⟨6, b⟩, ⟨6, a⟩, ⟨6, d⟩, ⟨6, 0x01⟩]) :=
  congrArg some (by simp [wordOf, packed]; ring)
@[simp] theorem encode_orn (d a b : BitVec 6) :
    encode (.orn d a b) = some (packed [⟨8, 0x06⟩, ⟨6, b⟩, ⟨6, a⟩, ⟨6, d⟩, ⟨6, 0x01⟩]) :=
  congrArg some (by simp [wordOf, packed]; ring)
@[simp] theorem encode_xnor (d a b : BitVec 6) :
    encode (.xnor d a b) = some (packed [⟨8, 0x07⟩, ⟨6, b⟩, ⟨6, a⟩, ⟨6, d⟩, ⟨6, 0x01⟩]) :=
  congrArg some (by simp [wordOf, packed]; ring)
@[simp] theorem encode_shl (d a b : BitVec 6) :
    encode (.shl d a b) = some (packed [⟨8, 0x08⟩, ⟨6, b⟩, ⟨6, a⟩, ⟨6, d⟩, ⟨6, 0x01⟩]) :=
  congrArg some (by simp [wordOf, packed]; ring)
@[simp] theorem encode_shr (d a b : BitVec 6) :
    encode (.shr d a b) = some (packed [⟨8, 0x09⟩, ⟨6, b⟩, ⟨6, a⟩, ⟨6, d⟩, ⟨6, 0x01⟩]) :=
  congrArg some (by simp [wordOf, packed]; ring)
@[simp] theorem encode_sar (d a b : BitVec 6) :
    encode (.sar d a b) = some (packed [⟨8, 0x0A⟩, ⟨6, b⟩, ⟨6, a⟩, ⟨6, d⟩, ⟨6, 0x01⟩]) :=
  congrArg some (by simp [wordOf, packed]; ring)
@[simp] theorem encode_rol (d a b : BitVec 6) :
    encode (.rol d a b) = some (packed [⟨8, 0x0B⟩, ⟨6, b⟩, ⟨6, a⟩, ⟨6, d⟩, ⟨6, 0x01⟩]) :=
  congrArg some (by simp [wordOf, packed]; ring)
@[simp] theorem encode_ror (d a b : BitVec 6) :
    encode (.ror d a b) = some (packed [⟨8, 0x0C⟩, ⟨6, b⟩, ⟨6, a⟩, ⟨6, d⟩, ⟨6, 0x01⟩]) :=
  congrArg some (by simp [wordOf, packed]; ring)
@[simp] theorem encode_slt (d a b : BitVec 6) :
    encode (.slt d a b) = some (packed [⟨8, 0x0D⟩, ⟨6, b⟩, ⟨6, a⟩, ⟨6, d⟩, ⟨6, 0x01⟩]) :=
  congrArg some (by simp [wordOf, packed]; ring)
@[simp] theorem encode_sltu (d a b : BitVec 6) :
    encode (.sltu d a b) = some (packed [⟨8, 0x0E⟩, ⟨6, b⟩, ⟨6, a⟩, ⟨6, d⟩, ⟨6, 0x01⟩]) :=
  congrArg some (by simp [wordOf, packed]; ring)
@[simp] theorem encode_seq (d a b : BitVec 6) :
    encode (.seq d a b) = some (packed [⟨8, 0x0F⟩, ⟨6, b⟩, ⟨6, a⟩, ⟨6, d⟩, ⟨6, 0x01⟩]) :=
  congrArg some (by simp [wordOf, packed]; ring)
@[simp] theorem encode_sne (d a b : BitVec 6) :
    encode (.sne d a b) = some (packed [⟨8, 0x10⟩, ⟨6, b⟩, ⟨6, a⟩, ⟨6, d⟩, ⟨6, 0x01⟩]) :=
  congrArg some (by simp [wordOf, packed]; ring)
@[simp] theorem encode_minS (d a b : BitVec 6) :
    encode (.minS d a b) = some (packed [⟨8, 0x11⟩, ⟨6, b⟩, ⟨6, a⟩, ⟨6, d⟩, ⟨6, 0x01⟩]) :=
  congrArg some (by simp [wordOf, packed]; ring)
@[simp] theorem encode_maxS (d a b : BitVec 6) :
    encode (.maxS d a b) = some (packed [⟨8, 0x12⟩, ⟨6, b⟩, ⟨6, a⟩, ⟨6, d⟩, ⟨6, 0x01⟩]) :=
  congrArg some (by simp [wordOf, packed]; ring)
@[simp] theorem encode_minU (d a b : BitVec 6) :
    encode (.minU d a b) = some (packed [⟨8, 0x13⟩, ⟨6, b⟩, ⟨6, a⟩, ⟨6, d⟩, ⟨6, 0x01⟩]) :=
  congrArg some (by simp [wordOf, packed]; ring)
@[simp] theorem encode_maxU (d a b : BitVec 6) :
    encode (.maxU d a b) = some (packed [⟨8, 0x14⟩, ⟨6, b⟩, ⟨6, a⟩, ⟨6, d⟩, ⟨6, 0x01⟩]) :=
  congrArg some (by simp [wordOf, packed]; ring)
@[simp] theorem encode_mul (d a b : BitVec 6) :
    encode (.mul d a b) = some (packed [⟨8, 0x15⟩, ⟨6, b⟩, ⟨6, a⟩, ⟨6, d⟩, ⟨6, 0x01⟩]) :=
  congrArg some (by simp [wordOf, packed]; ring)
@[simp] theorem encode_mulh (d a b : BitVec 6) :
    encode (.mulh d a b) = some (packed [⟨8, 0x16⟩, ⟨6, b⟩, ⟨6, a⟩, ⟨6, d⟩, ⟨6, 0x01⟩]) :=
  congrArg some (by simp [wordOf, packed]; ring)
@[simp] theorem encode_mulhu (d a b : BitVec 6) :
    encode (.mulhu d a b) = some (packed [⟨8, 0x17⟩, ⟨6, b⟩, ⟨6, a⟩, ⟨6, d⟩, ⟨6, 0x01⟩]) :=
  congrArg some (by simp [wordOf, packed]; ring)
@[simp] theorem encode_div (d a b : BitVec 6) :
    encode (.div d a b) = some (packed [⟨8, 0x18⟩, ⟨6, b⟩, ⟨6, a⟩, ⟨6, d⟩, ⟨6, 0x01⟩]) :=
  congrArg some (by simp [wordOf, packed]; ring)
@[simp] theorem encode_divu (d a b : BitVec 6) :
    encode (.divu d a b) = some (packed [⟨8, 0x19⟩, ⟨6, b⟩, ⟨6, a⟩, ⟨6, d⟩, ⟨6, 0x01⟩]) :=
  congrArg some (by simp [wordOf, packed]; ring)
@[simp] theorem encode_rem (d a b : BitVec 6) :
    encode (.rem d a b) = some (packed [⟨8, 0x1A⟩, ⟨6, b⟩, ⟨6, a⟩, ⟨6, d⟩, ⟨6, 0x01⟩]) :=
  congrArg some (by simp [wordOf, packed]; ring)
@[simp] theorem encode_remu (d a b : BitVec 6) :
    encode (.remu d a b) = some (packed [⟨8, 0x1B⟩, ⟨6, b⟩, ⟨6, a⟩, ⟨6, d⟩, ⟨6, 0x01⟩]) :=
  congrArg some (by simp [wordOf, packed]; ring)
@[simp] theorem encode_addw (d a b : BitVec 6) :
    encode (.addw d a b) = some (packed [⟨8, 0x00⟩, ⟨6, b⟩, ⟨6, a⟩, ⟨6, d⟩, ⟨6, 0x02⟩]) :=
  congrArg some (by simp [wordOf, packed]; ring)
@[simp] theorem encode_subw (d a b : BitVec 6) :
    encode (.subw d a b) = some (packed [⟨8, 0x01⟩, ⟨6, b⟩, ⟨6, a⟩, ⟨6, d⟩, ⟨6, 0x02⟩]) :=
  congrArg some (by simp [wordOf, packed]; ring)
@[simp] theorem encode_shlw (d a b : BitVec 6) :
    encode (.shlw d a b) = some (packed [⟨8, 0x08⟩, ⟨6, b⟩, ⟨6, a⟩, ⟨6, d⟩, ⟨6, 0x02⟩]) :=
  congrArg some (by simp [wordOf, packed]; ring)
@[simp] theorem encode_shrw (d a b : BitVec 6) :
    encode (.shrw d a b) = some (packed [⟨8, 0x09⟩, ⟨6, b⟩, ⟨6, a⟩, ⟨6, d⟩, ⟨6, 0x02⟩]) :=
  congrArg some (by simp [wordOf, packed]; ring)
@[simp] theorem encode_sarw (d a b : BitVec 6) :
    encode (.sarw d a b) = some (packed [⟨8, 0x0A⟩, ⟨6, b⟩, ⟨6, a⟩, ⟨6, d⟩, ⟨6, 0x02⟩]) :=
  congrArg some (by simp [wordOf, packed]; ring)
@[simp] theorem encode_mulw (d a b : BitVec 6) :
    encode (.mulw d a b) = some (packed [⟨8, 0x15⟩, ⟨6, b⟩, ⟨6, a⟩, ⟨6, d⟩, ⟨6, 0x02⟩]) :=
  congrArg some (by simp [wordOf, packed]; ring)
@[simp] theorem encode_lop3 (d a : BitVec 6) (b : BitVec 5) (t : BitVec 8) :
    encode (.lop3 d a b t) = some (packed [⟨8, t⟩, ⟨5, b⟩, ⟨1, 0x01⟩, ⟨6, a⟩, ⟨6, d⟩, ⟨6, 0x03⟩]) :=
  congrArg some (by simp [wordOf, packed]; ring)
@[simp] theorem encode_fshl (d a : BitVec 6) (b : BitVec 5) (w : Width) (s : BitVec 6) :
    encode (.fshl d a b w s) = some (packed [⟨6, s⟩, ⟨2, .ofNat 2 w.code⟩, ⟨5, b⟩, ⟨1, 0x00⟩, ⟨6, a⟩, ⟨6, d⟩, ⟨6, 0x03⟩]) :=
  congrArg some (by simp [wordOf, packed]; ring)
@[simp] theorem encode_clz (d a : BitVec 6) (w : Width) :
    encode (.clz d a w) = some (packed [⟨3, 0x00⟩, ⟨2, .ofNat 2 w.code⟩, ⟨9, 0x01⟩, ⟨6, a⟩, ⟨6, d⟩, ⟨6, 0x03⟩]) :=
  congrArg some (by simp [wordOf, packed]; ring)
@[simp] theorem encode_ctz (d a : BitVec 6) (w : Width) :
    encode (.ctz d a w) = some (packed [⟨3, 0x01⟩, ⟨2, .ofNat 2 w.code⟩, ⟨9, 0x01⟩, ⟨6, a⟩, ⟨6, d⟩, ⟨6, 0x03⟩]) :=
  congrArg some (by simp [wordOf, packed]; ring)
@[simp] theorem encode_popc (d a : BitVec 6) (w : Width) :
    encode (.popc d a w) = some (packed [⟨3, 0x02⟩, ⟨2, .ofNat 2 w.code⟩, ⟨9, 0x01⟩, ⟨6, a⟩, ⟨6, d⟩, ⟨6, 0x03⟩]) :=
  congrArg some (by simp [wordOf, packed]; ring)
@[simp] theorem encode_ffs (d a : BitVec 6) (w : Width) :
    encode (.ffs d a w) = some (packed [⟨3, 0x03⟩, ⟨2, .ofNat 2 w.code⟩, ⟨9, 0x01⟩, ⟨6, a⟩, ⟨6, d⟩, ⟨6, 0x03⟩]) :=
  congrArg some (by simp [wordOf, packed]; ring)
@[simp] theorem encode_brev (d a : BitVec 6) (w : Width) :
    encode (.brev d a w) = some (packed [⟨3, 0x04⟩, ⟨2, .ofNat 2 w.code⟩, ⟨9, 0x01⟩, ⟨6, a⟩, ⟨6, d⟩, ⟨6, 0x03⟩]) :=
  congrArg some (by simp [wordOf, packed]; ring)
@[simp] theorem encode_bswap (d a : BitVec 6) (w : Width) :
    encode (.bswap d a w) = some (packed [⟨3, 0x05⟩, ⟨2, .ofNat 2 w.code⟩, ⟨9, 0x01⟩, ⟨6, a⟩, ⟨6, d⟩, ⟨6, 0x03⟩]) :=
  congrArg some (by simp [wordOf, packed]; ring)
@[simp] theorem encode_addi (d a : BitVec 6) (imm : BitVec 14) :
    encode (.addi d a imm) = some (packed [⟨14, imm⟩, ⟨6, a⟩, ⟨6, d⟩, ⟨6, 0x04⟩]) :=
  congrArg some (by simp [wordOf, packed]; ring)
@[simp] theorem encode_andi (d a : BitVec 6) (imm : BitVec 14) :
    encode (.andi d a imm) = some (packed [⟨14, imm⟩, ⟨6, a⟩, ⟨6, d⟩, ⟨6, 0x05⟩]) :=
  congrArg some (by simp [wordOf, packed]; ring)
@[simp] theorem encode_ori (d a : BitVec 6) (imm : BitVec 14) :
    encode (.ori d a imm) = some (packed [⟨14, imm⟩, ⟨6, a⟩, ⟨6, d⟩, ⟨6, 0x06⟩]) :=
  congrArg some (by simp [wordOf, packed]; ring)
@[simp] theorem encode_xori (d a : BitVec 6) (imm : BitVec 14) :
    encode (.xori d a imm) = some (packed [⟨14, imm⟩, ⟨6, a⟩, ⟨6, d⟩, ⟨6, 0x07⟩]) :=
  congrArg some (by simp [wordOf, packed]; ring)
@[simp] theorem encode_slti (d a : BitVec 6) (imm : BitVec 14) :
    encode (.slti d a imm) = some (packed [⟨14, imm⟩, ⟨6, a⟩, ⟨6, d⟩, ⟨6, 0x08⟩]) :=
  congrArg some (by simp [wordOf, packed]; ring)
@[simp] theorem encode_sltiu (d a : BitVec 6) (imm : BitVec 14) :
    encode (.sltiu d a imm) = some (packed [⟨14, imm⟩, ⟨6, a⟩, ⟨6, d⟩, ⟨6, 0x09⟩]) :=
  congrArg some (by simp [wordOf, packed]; ring)
@[simp] theorem encode_shli (d a n : BitVec 6) :
    encode (.shli d a n) = some (packed [⟨6, n⟩, ⟨8, 0x00⟩, ⟨6, a⟩, ⟨6, d⟩, ⟨6, 0x0A⟩]) :=
  congrArg some (by simp [wordOf, packed]; ring)
@[simp] theorem encode_shri (d a n : BitVec 6) :
    encode (.shri d a n) = some (packed [⟨6, n⟩, ⟨8, 0x01⟩, ⟨6, a⟩, ⟨6, d⟩, ⟨6, 0x0A⟩]) :=
  congrArg some (by simp [wordOf, packed]; ring)
@[simp] theorem encode_sari (d a n : BitVec 6) :
    encode (.sari d a n) = some (packed [⟨6, n⟩, ⟨8, 0x02⟩, ⟨6, a⟩, ⟨6, d⟩, ⟨6, 0x0A⟩]) :=
  congrArg some (by simp [wordOf, packed]; ring)
@[simp] theorem encode_rori (d a n : BitVec 6) :
    encode (.rori d a n) = some (packed [⟨6, n⟩, ⟨8, 0x03⟩, ⟨6, a⟩, ⟨6, d⟩, ⟨6, 0x0A⟩]) :=
  congrArg some (by simp [wordOf, packed]; ring)
@[simp] theorem encode_extz (d a p l : BitVec 6) :
    encode (.extz d a p l) = some (packed [⟨6, l⟩, ⟨6, p⟩, ⟨2, 0x00⟩, ⟨6, a⟩, ⟨6, d⟩, ⟨6, 0x0B⟩]) :=
  congrArg some (by simp [wordOf, packed]; ring)
@[simp] theorem encode_exts (d a p l : BitVec 6) :
    encode (.exts d a p l) = some (packed [⟨6, l⟩, ⟨6, p⟩, ⟨2, 0x01⟩, ⟨6, a⟩, ⟨6, d⟩, ⟨6, 0x0B⟩]) :=
  congrArg some (by simp [wordOf, packed]; ring)
@[simp] theorem encode_dep (d a p l : BitVec 6) :
    encode (.dep d a p l) = some (packed [⟨6, l⟩, ⟨6, p⟩, ⟨2, 0x02⟩, ⟨6, a⟩, ⟨6, d⟩, ⟨6, 0x0B⟩]) :=
  congrArg some (by simp [wordOf, packed]; ring)
@[simp] theorem encode_lds (d a : BitVec 6) (imm : BitVec 12) (w : Width) :
    encode (.lds d a imm w) = some (packed [⟨2, .ofNat 2 w.code⟩, ⟨12, imm⟩, ⟨6, a⟩, ⟨6, d⟩, ⟨6, 0x0C⟩]) :=
  congrArg some (by simp [wordOf, packed]; ring)
@[simp] theorem encode_ldz (d a : BitVec 6) (imm : BitVec 12) (w : Width) :
    encode (.ldz d a imm w) = some (packed [⟨2, .ofNat 2 w.code⟩, ⟨12, imm⟩, ⟨6, a⟩, ⟨6, d⟩, ⟨6, 0x0D⟩]) :=
  congrArg some (by simp [wordOf, packed]; ring)
@[simp] theorem encode_st (c a : BitVec 6) (imm : BitVec 12) (w : Width) :
    encode (.st c a imm w) = some (packed [⟨2, .ofNat 2 w.code⟩, ⟨12, imm⟩, ⟨6, a⟩, ⟨6, c⟩, ⟨6, 0x0E⟩]) :=
  congrArg some (by simp [wordOf, packed]; ring)
@[simp] theorem encode_amoaddW (d a b : BitVec 6) (ord : Order) (sc : Scope) :
    encode (.amoaddW d a b ord sc) = some (packed [⟨3, 0x00⟩, ⟨3, .ofNat 3 sc.code⟩, ⟨2, .ofNat 2 ord.code⟩, ⟨6, b⟩, ⟨6, a⟩, ⟨6, d⟩, ⟨6, 0x10⟩]) :=
  congrArg some (by simp [wordOf, packed]; ring)
@[simp] theorem encode_amoandW (d a b : BitVec 6) (ord : Order) (sc : Scope) :
    encode (.amoandW d a b ord sc) = some (packed [⟨3, 0x01⟩, ⟨3, .ofNat 3 sc.code⟩, ⟨2, .ofNat 2 ord.code⟩, ⟨6, b⟩, ⟨6, a⟩, ⟨6, d⟩, ⟨6, 0x10⟩]) :=
  congrArg some (by simp [wordOf, packed]; ring)
@[simp] theorem encode_amoorW (d a b : BitVec 6) (ord : Order) (sc : Scope) :
    encode (.amoorW d a b ord sc) = some (packed [⟨3, 0x02⟩, ⟨3, .ofNat 3 sc.code⟩, ⟨2, .ofNat 2 ord.code⟩, ⟨6, b⟩, ⟨6, a⟩, ⟨6, d⟩, ⟨6, 0x10⟩]) :=
  congrArg some (by simp [wordOf, packed]; ring)
@[simp] theorem encode_amoxorW (d a b : BitVec 6) (ord : Order) (sc : Scope) :
    encode (.amoxorW d a b ord sc) = some (packed [⟨3, 0x03⟩, ⟨3, .ofNat 3 sc.code⟩, ⟨2, .ofNat 2 ord.code⟩, ⟨6, b⟩, ⟨6, a⟩, ⟨6, d⟩, ⟨6, 0x10⟩]) :=
  congrArg some (by simp [wordOf, packed]; ring)
@[simp] theorem encode_amominW (d a b : BitVec 6) (ord : Order) (sc : Scope) :
    encode (.amominW d a b ord sc) = some (packed [⟨3, 0x04⟩, ⟨3, .ofNat 3 sc.code⟩, ⟨2, .ofNat 2 ord.code⟩, ⟨6, b⟩, ⟨6, a⟩, ⟨6, d⟩, ⟨6, 0x10⟩]) :=
  congrArg some (by simp [wordOf, packed]; ring)
@[simp] theorem encode_amomaxW (d a b : BitVec 6) (ord : Order) (sc : Scope) :
    encode (.amomaxW d a b ord sc) = some (packed [⟨3, 0x05⟩, ⟨3, .ofNat 3 sc.code⟩, ⟨2, .ofNat 2 ord.code⟩, ⟨6, b⟩, ⟨6, a⟩, ⟨6, d⟩, ⟨6, 0x10⟩]) :=
  congrArg some (by simp [wordOf, packed]; ring)
@[simp] theorem encode_amominuW (d a b : BitVec 6) (ord : Order) (sc : Scope) :
    encode (.amominuW d a b ord sc) = some (packed [⟨3, 0x06⟩, ⟨3, .ofNat 3 sc.code⟩, ⟨2, .ofNat 2 ord.code⟩, ⟨6, b⟩, ⟨6, a⟩, ⟨6, d⟩, ⟨6, 0x10⟩]) :=
  congrArg some (by simp [wordOf, packed]; ring)
@[simp] theorem encode_amomaxuW (d a b : BitVec 6) (ord : Order) (sc : Scope) :
    encode (.amomaxuW d a b ord sc) = some (packed [⟨3, 0x07⟩, ⟨3, .ofNat 3 sc.code⟩, ⟨2, .ofNat 2 ord.code⟩, ⟨6, b⟩, ⟨6, a⟩, ⟨6, d⟩, ⟨6, 0x10⟩]) :=
  congrArg some (by simp [wordOf, packed]; ring)
@[simp] theorem encode_amoaddD (d a b : BitVec 6) (ord : Order) (sc : Scope) :
    encode (.amoaddD d a b ord sc) = some (packed [⟨3, 0x00⟩, ⟨3, .ofNat 3 sc.code⟩, ⟨2, .ofNat 2 ord.code⟩, ⟨6, b⟩, ⟨6, a⟩, ⟨6, d⟩, ⟨6, 0x11⟩]) :=
  congrArg some (by simp [wordOf, packed]; ring)
@[simp] theorem encode_amoandD (d a b : BitVec 6) (ord : Order) (sc : Scope) :
    encode (.amoandD d a b ord sc) = some (packed [⟨3, 0x01⟩, ⟨3, .ofNat 3 sc.code⟩, ⟨2, .ofNat 2 ord.code⟩, ⟨6, b⟩, ⟨6, a⟩, ⟨6, d⟩, ⟨6, 0x11⟩]) :=
  congrArg some (by simp [wordOf, packed]; ring)
@[simp] theorem encode_amoorD (d a b : BitVec 6) (ord : Order) (sc : Scope) :
    encode (.amoorD d a b ord sc) = some (packed [⟨3, 0x02⟩, ⟨3, .ofNat 3 sc.code⟩, ⟨2, .ofNat 2 ord.code⟩, ⟨6, b⟩, ⟨6, a⟩, ⟨6, d⟩, ⟨6, 0x11⟩]) :=
  congrArg some (by simp [wordOf, packed]; ring)
@[simp] theorem encode_amoxorD (d a b : BitVec 6) (ord : Order) (sc : Scope) :
    encode (.amoxorD d a b ord sc) = some (packed [⟨3, 0x03⟩, ⟨3, .ofNat 3 sc.code⟩, ⟨2, .ofNat 2 ord.code⟩, ⟨6, b⟩, ⟨6, a⟩, ⟨6, d⟩, ⟨6, 0x11⟩]) :=
  congrArg some (by simp [wordOf, packed]; ring)
@[simp] theorem encode_amominD (d a b : BitVec 6) (ord : Order) (sc : Scope) :
    encode (.amominD d a b ord sc) = some (packed [⟨3, 0x04⟩, ⟨3, .ofNat 3 sc.code⟩, ⟨2, .ofNat 2 ord.code⟩, ⟨6, b⟩, ⟨6, a⟩, ⟨6, d⟩, ⟨6, 0x11⟩]) :=
  congrArg some (by simp [wordOf, packed]; ring)
@[simp] theorem encode_amomaxD (d a b : BitVec 6) (ord : Order) (sc : Scope) :
    encode (.amomaxD d a b ord sc) = some (packed [⟨3, 0x05⟩, ⟨3, .ofNat 3 sc.code⟩, ⟨2, .ofNat 2 ord.code⟩, ⟨6, b⟩, ⟨6, a⟩, ⟨6, d⟩, ⟨6, 0x11⟩]) :=
  congrArg some (by simp [wordOf, packed]; ring)
@[simp] theorem encode_amominuD (d a b : BitVec 6) (ord : Order) (sc : Scope) :
    encode (.amominuD d a b ord sc) = some (packed [⟨3, 0x06⟩, ⟨3, .ofNat 3 sc.code⟩, ⟨2, .ofNat 2 ord.code⟩, ⟨6, b⟩, ⟨6, a⟩, ⟨6, d⟩, ⟨6, 0x11⟩]) :=
  congrArg some (by simp [wordOf, packed]; ring)
@[simp] theorem encode_amomaxuD (d a b : BitVec 6) (ord : Order) (sc : Scope) :
    encode (.amomaxuD d a b ord sc) = some (packed [⟨3, 0x07⟩, ⟨3, .ofNat 3 sc.code⟩, ⟨2, .ofNat 2 ord.code⟩, ⟨6, b⟩, ⟨6, a⟩, ⟨6, d⟩, ⟨6, 0x11⟩]) :=
  congrArg some (by simp [wordOf, packed]; ring)
@[simp] theorem encode_swp (d a b : BitVec 6) (ord : Order) (sc : Scope) (dw : Bool) :
    encode (.swp d a b ord sc dw) = some (packed [⟨2, 0x00⟩, ⟨1, .ofBool dw⟩, ⟨3, .ofNat 3 sc.code⟩, ⟨2, .ofNat 2 ord.code⟩, ⟨6, b⟩, ⟨6, a⟩, ⟨6, d⟩, ⟨6, 0x12⟩]) :=
  congrArg some (by simp [wordOf, packed]; ring)
@[simp] theorem encode_cas (d a b : BitVec 6) (ord : Order) (sc : Scope) (dw : Bool) :
    encode (.cas d a b ord sc dw) = some (packed [⟨2, 0x01⟩, ⟨1, .ofBool dw⟩, ⟨3, .ofNat 3 sc.code⟩, ⟨2, .ofNat 2 ord.code⟩, ⟨6, b⟩, ⟨6, a⟩, ⟨6, d⟩, ⟨6, 0x12⟩]) :=
  congrArg some (by simp [wordOf, packed]; ring)
@[simp] theorem encode_ldo (d a : BitVec 6) (ord : Order) (sc : Scope) (dw : Bool) :
    encode (.ldo d a ord sc dw) = some (packed [⟨2, 0x02⟩, ⟨1, .ofBool dw⟩, ⟨3, .ofNat 3 sc.code⟩, ⟨2, .ofNat 2 ord.code⟩, ⟨6, 0x00⟩, ⟨6, a⟩, ⟨6, d⟩, ⟨6, 0x12⟩]) :=
  congrArg some (by simp [wordOf, packed]; ring)
@[simp] theorem encode_sto (a b : BitVec 6) (ord : Order) (sc : Scope) (dw : Bool) :
    encode (.sto a b ord sc dw) = some (packed [⟨2, 0x03⟩, ⟨1, .ofBool dw⟩, ⟨3, .ofNat 3 sc.code⟩, ⟨2, .ofNat 2 ord.code⟩, ⟨6, b⟩, ⟨6, a⟩, ⟨6, 0x00⟩, ⟨6, 0x12⟩]) :=
  congrArg some (by simp [wordOf, packed]; ring)
@[simp] theorem encode_redadd (dw : Bool) (a b : BitVec 6) (rel : Bool) (sc : Scope) :
    encode (.redadd dw a b rel sc) = some (packed [⟨3, .ofNat 3 sc.code⟩, ⟨1, .ofBool rel⟩, ⟨4, 0x00⟩, ⟨6, b⟩, ⟨6, a⟩, ⟨1, .ofBool dw⟩, ⟨5, 0x00⟩, ⟨6, 0x13⟩]) :=
  congrArg some (by simp [wordOf, packed]; ring)
@[simp] theorem encode_redand (dw : Bool) (a b : BitVec 6) (rel : Bool) (sc : Scope) :
    encode (.redand dw a b rel sc) = some (packed [⟨3, .ofNat 3 sc.code⟩, ⟨1, .ofBool rel⟩, ⟨4, 0x01⟩, ⟨6, b⟩, ⟨6, a⟩, ⟨1, .ofBool dw⟩, ⟨5, 0x00⟩, ⟨6, 0x13⟩]) :=
  congrArg some (by simp [wordOf, packed]; ring)
@[simp] theorem encode_redor (dw : Bool) (a b : BitVec 6) (rel : Bool) (sc : Scope) :
    encode (.redor dw a b rel sc) = some (packed [⟨3, .ofNat 3 sc.code⟩, ⟨1, .ofBool rel⟩, ⟨4, 0x02⟩, ⟨6, b⟩, ⟨6, a⟩, ⟨1, .ofBool dw⟩, ⟨5, 0x00⟩, ⟨6, 0x13⟩]) :=
  congrArg some (by simp [wordOf, packed]; ring)
@[simp] theorem encode_redxor (dw : Bool) (a b : BitVec 6) (rel : Bool) (sc : Scope) :
    encode (.redxor dw a b rel sc) = some (packed [⟨3, .ofNat 3 sc.code⟩, ⟨1, .ofBool rel⟩, ⟨4, 0x03⟩, ⟨6, b⟩, ⟨6, a⟩, ⟨1, .ofBool dw⟩, ⟨5, 0x00⟩, ⟨6, 0x13⟩]) :=
  congrArg some (by simp [wordOf, packed]; ring)
@[simp] theorem encode_redmin (dw : Bool) (a b : BitVec 6) (rel : Bool) (sc : Scope) :
    encode (.redmin dw a b rel sc) = some (packed [⟨3, .ofNat 3 sc.code⟩, ⟨1, .ofBool rel⟩, ⟨4, 0x04⟩, ⟨6, b⟩, ⟨6, a⟩, ⟨1, .ofBool dw⟩, ⟨5, 0x00⟩, ⟨6, 0x13⟩]) :=
  congrArg some (by simp [wordOf, packed]; ring)
@[simp] theorem encode_redmax (dw : Bool) (a b : BitVec 6) (rel : Bool) (sc : Scope) :
    encode (.redmax dw a b rel sc) = some (packed [⟨3, .ofNat 3 sc.code⟩, ⟨1, .ofBool rel⟩, ⟨4, 0x05⟩, ⟨6, b⟩, ⟨6, a⟩, ⟨1, .ofBool dw⟩, ⟨5, 0x00⟩, ⟨6, 0x13⟩]) :=
  congrArg some (by simp [wordOf, packed]; ring)
@[simp] theorem encode_redminu (dw : Bool) (a b : BitVec 6) (rel : Bool) (sc : Scope) :
    encode (.redminu dw a b rel sc) = some (packed [⟨3, .ofNat 3 sc.code⟩, ⟨1, .ofBool rel⟩, ⟨4, 0x06⟩, ⟨6, b⟩, ⟨6, a⟩, ⟨1, .ofBool dw⟩, ⟨5, 0x00⟩, ⟨6, 0x13⟩]) :=
  congrArg some (by simp [wordOf, packed]; ring)
@[simp] theorem encode_redmaxu (dw : Bool) (a b : BitVec 6) (rel : Bool) (sc : Scope) :
    encode (.redmaxu dw a b rel sc) = some (packed [⟨3, .ofNat 3 sc.code⟩, ⟨1, .ofBool rel⟩, ⟨4, 0x07⟩, ⟨6, b⟩, ⟨6, a⟩, ⟨1, .ofBool dw⟩, ⟨5, 0x00⟩, ⟨6, 0x13⟩]) :=
  congrArg some (by simp [wordOf, packed]; ring)
@[simp] theorem encode_redacc (d a b : BitVec 6) (rel : Bool) (sc : Scope) :
    encode (.redacc d a b rel sc) = some (packed [⟨3, .ofNat 3 sc.code⟩, ⟨1, .ofBool rel⟩, ⟨4, 0x08⟩, ⟨6, b⟩, ⟨6, a⟩, ⟨6, d⟩, ⟨6, 0x13⟩]) :=
  congrArg some (by simp [wordOf, packed]; ring)
@[simp] theorem encode_fence (e : BitVec 4) (sc : Scope) :
    encode (.fence e sc) = some (packed [⟨3, 0x00⟩, ⟨3, .ofNat 3 sc.code⟩, ⟨2, 0x00⟩, ⟨4, e⟩, ⟨14, 0x00⟩, ⟨6, 0x14⟩]) :=
  congrArg some (by simp [wordOf, packed]; ring)
@[simp] theorem encode_fenceE (sc : Scope) :
    encode (.fenceE sc) = some (packed [⟨3, 0x00⟩, ⟨3, .ofNat 3 sc.code⟩, ⟨20, 0x01⟩, ⟨6, 0x14⟩]) :=
  congrArg some (by simp [wordOf, packed]; ring)
@[simp] theorem encode_wbr (a b : BitVec 6) (sc : Scope) :
    encode (.wbr a b sc) = some (packed [⟨3, 0x00⟩, ⟨3, .ofNat 3 sc.code⟩, ⟨2, 0x02⟩, ⟨6, b⟩, ⟨6, a⟩, ⟨6, 0x00⟩, ⟨6, 0x14⟩]) :=
  congrArg some (by simp [wordOf, packed]; ring)
@[simp] theorem encode_invr (a b : BitVec 6) (sc : Scope) :
    encode (.invr a b sc) = some (packed [⟨3, 0x00⟩, ⟨3, .ofNat 3 sc.code⟩, ⟨2, 0x03⟩, ⟨6, b⟩, ⟨6, a⟩, ⟨6, 0x00⟩, ⟨6, 0x14⟩]) :=
  congrArg some (by simp [wordOf, packed]; ring)
@[simp] theorem encode_arrive (n : BitVec 2) :
    encode (.arrive n) = some (packed [⟨2, n⟩, ⟨24, 0x00⟩, ⟨6, 0x15⟩]) :=
  congrArg some (by simp [wordOf, packed])
@[simp] theorem encode_arriveSnap (n : BitVec 2) :
    encode (.arriveSnap n) = some (packed [⟨2, n⟩, ⟨24, 0x04⟩, ⟨6, 0x15⟩]) :=
  congrArg some (by simp [wordOf, packed])
@[simp] theorem encode_wait (d : BitVec 6) (n : BitVec 2) :
    encode (.wait d n) = some (packed [⟨2, n⟩, ⟨18, 0x08⟩, ⟨6, d⟩, ⟨6, 0x15⟩]) :=
  congrArg some (by simp [wordOf, packed]; ring)
@[simp] theorem encode_bstat (d : BitVec 6) (n : BitVec 2) :
    encode (.bstat d n) = some (packed [⟨2, n⟩, ⟨18, 0x10⟩, ⟨6, d⟩, ⟨6, 0x15⟩]) :=
  congrArg some (by simp [wordOf, packed]; ring)
@[simp] theorem encode_bset (a : BitVec 6) (n : BitVec 2) :
    encode (.bset a n) = some (packed [⟨2, n⟩, ⟨12, 0x18⟩, ⟨6, a⟩, ⟨6, 0x00⟩, ⟨6, 0x15⟩]) :=
  congrArg some (by simp [wordOf, packed]; ring)
@[simp] theorem encode_brst (n : BitVec 2) :
    encode (.brst n) = some (packed [⟨2, n⟩, ⟨24, 0x20⟩, ⟨6, 0x15⟩]) :=
  congrArg some (by simp [wordOf, packed])
@[simp] theorem encode_start (n a b : BitVec 6) :
    encode (.start n a b) = some (packed [⟨8, 0x00⟩, ⟨6, b⟩, ⟨6, a⟩, ⟨6, n⟩, ⟨6, 0x16⟩]) :=
  congrArg some (by simp [wordOf, packed]; ring)
@[simp] theorem encode_stop (n : BitVec 6) :
    encode (.stop n) = some (packed [⟨20, 0x01⟩, ⟨6, n⟩, ⟨6, 0x16⟩]) :=
  congrArg some (by simp [wordOf, packed]; ring)
@[simp] theorem encode_join (d n : BitVec 6) :
    encode (.join d n) = some (packed [⟨14, 0x02⟩, ⟨6, n⟩, ⟨6, d⟩, ⟨6, 0x16⟩]) :=
  congrArg some (by simp [wordOf, packed]; ring)
@[simp] theorem encode_gets (d : BitVec 6) (r : BitVec 12) :
    encode (.gets d r) = some (packed [⟨12, r⟩, ⟨8, 0x00⟩, ⟨6, d⟩, ⟨6, 0x17⟩]) :=
  congrArg some (by simp [wordOf, packed]; ring)
@[simp] theorem encode_sets (a : BitVec 6) (r : BitVec 12) :
    encode (.sets a r) = some (packed [⟨12, r⟩, ⟨2, 0x01⟩, ⟨6, a⟩, ⟨6, 0x00⟩, ⟨6, 0x17⟩]) :=
  congrArg some (by simp [wordOf, packed]; ring)
@[simp] theorem encode_trap (c : BitVec 8) :
    encode (.trap c) = some (packed [⟨8, c⟩, ⟨18, 0x20⟩, ⟨6, 0x17⟩]) :=
  congrArg some (by simp [wordOf, packed])
@[simp] theorem encode_touch (d a : BitVec 6) :
    encode (.touch d a) = some (packed [⟨14, 0x2200⟩, ⟨6, a⟩, ⟨6, d⟩, ⟨6, 0x17⟩]) :=
  congrArg some (by simp [wordOf, packed]; ring)
@[simp] theorem encode_objinv (a : BitVec 6) (sc : Scope) :
    encode (.objinv a sc) = some (packed [⟨8, .ofNat 8 sc.code⟩, ⟨6, 0x24⟩, ⟨6, a⟩, ⟨6, 0x00⟩, ⟨6, 0x17⟩]) :=
  congrArg some (by simp [wordOf, packed]; ring)
@[simp] theorem encode_einj (c a : BitVec 6) (tier : Tier) :
    encode (.einj c a tier) = some (packed [⟨8, .ofNat 8 tier.code⟩, ⟨6, 0x25⟩, ⟨6, a⟩, ⟨6, c⟩, ⟨6, 0x17⟩]) :=
  congrArg some (by simp [wordOf, packed]; ring)
@[simp] theorem encode_digest (d : BitVec 5) (a : BitVec 6) :
    encode (.digest d a) = some (packed [⟨14, 0x2600⟩, ⟨6, a⟩, ⟨5, d⟩, ⟨1, 0x00⟩, ⟨6, 0x17⟩]) :=
  congrArg some (by simp [wordOf, packed]; ring)
@[simp] theorem encode_digestN (d a : BitVec 6) :
    encode (.digestN d a) = some (packed [⟨14, 0x2601⟩, ⟨6, a⟩, ⟨6, d⟩, ⟨6, 0x17⟩]) :=
  congrArg some (by simp [wordOf, packed]; ring)
@[simp] theorem encode_beq (c a : BitVec 6) (imm : BitVec 14) :
    encode (.beq c a imm) = some (packed [⟨14, imm⟩, ⟨6, a⟩, ⟨6, c⟩, ⟨6, 0x18⟩]) :=
  congrArg some (by simp [wordOf, packed]; ring)
@[simp] theorem encode_bne (c a : BitVec 6) (imm : BitVec 14) :
    encode (.bne c a imm) = some (packed [⟨14, imm⟩, ⟨6, a⟩, ⟨6, c⟩, ⟨6, 0x19⟩]) :=
  congrArg some (by simp [wordOf, packed]; ring)
@[simp] theorem encode_blt (c a : BitVec 6) (imm : BitVec 14) :
    encode (.blt c a imm) = some (packed [⟨14, imm⟩, ⟨6, a⟩, ⟨6, c⟩, ⟨6, 0x1A⟩]) :=
  congrArg some (by simp [wordOf, packed]; ring)
@[simp] theorem encode_bge (c a : BitVec 6) (imm : BitVec 14) :
    encode (.bge c a imm) = some (packed [⟨14, imm⟩, ⟨6, a⟩, ⟨6, c⟩, ⟨6, 0x1B⟩]) :=
  congrArg some (by simp [wordOf, packed]; ring)
@[simp] theorem encode_bltu (c a : BitVec 6) (imm : BitVec 14) :
    encode (.bltu c a imm) = some (packed [⟨14, imm⟩, ⟨6, a⟩, ⟨6, c⟩, ⟨6, 0x1C⟩]) :=
  congrArg some (by simp [wordOf, packed]; ring)
@[simp] theorem encode_bgeu (c a : BitVec 6) (imm : BitVec 14) :
    encode (.bgeu c a imm) = some (packed [⟨14, imm⟩, ⟨6, a⟩, ⟨6, c⟩, ⟨6, 0x1D⟩]) :=
  congrArg some (by simp [wordOf, packed]; ring)
@[simp] theorem encode_jal (imm : BitVec 26) :
    encode (.jal imm) = some (packed [⟨26, imm⟩, ⟨6, 0x1E⟩]) :=
  congrArg some (by simp [wordOf, packed])
@[simp] theorem encode_jalr (d a : BitVec 6) (imm : BitVec 14) :
    encode (.jalr d a imm) = some (packed [⟨14, imm⟩, ⟨6, a⟩, ⟨6, d⟩, ⟨6, 0x1F⟩]) :=
  congrArg some (by simp [wordOf, packed]; ring)
@[simp] theorem encode_rset (h : BitVec 3) (a : BitVec 6) :
    encode (.rset h a) = some (packed [⟨14, 0x00⟩, ⟨6, a⟩, ⟨3, h⟩, ⟨3, 0x00⟩, ⟨6, 0x20⟩]) :=
  congrArg some (by simp [wordOf, packed]; ring)
@[simp] theorem encode_waitf (h : BitVec 3) (m : BitVec 4) :
    encode (.waitf h m) = some (packed [⟨4, m⟩, ⟨16, 0x01⟩, ⟨3, h⟩, ⟨3, 0x00⟩, ⟨6, 0x20⟩]) :=
  congrArg some (by simp [wordOf, packed]; ring)
@[simp] theorem encode_waite (h : BitVec 3) (m : BitVec 4) :
    encode (.waite h m) = some (packed [⟨4, m⟩, ⟨16, 0x02⟩, ⟨3, h⟩, ⟨3, 0x00⟩, ⟨6, 0x20⟩]) :=
  congrArg some (by simp [wordOf, packed]; ring)
@[simp] theorem encode_advp (h : BitVec 3) (m : BitVec 4) :
    encode (.advp h m) = some (packed [⟨4, m⟩, ⟨16, 0x03⟩, ⟨3, h⟩, ⟨3, 0x00⟩, ⟨6, 0x20⟩]) :=
  congrArg some (by simp [wordOf, packed]; ring)
@[simp] theorem encode_advc (h : BitVec 3) (m : BitVec 4) :
    encode (.advc h m) = some (packed [⟨4, m⟩, ⟨16, 0x04⟩, ⟨3, h⟩, ⟨3, 0x00⟩, ⟨6, 0x20⟩]) :=
  congrArg some (by simp [wordOf, packed]; ring)
@[simp] theorem encode_rstat (d : BitVec 6) (h : BitVec 3) (w : BitVec 1) :
    encode (.rstat d h w) = some (packed [⟨1, w⟩, ⟨13, 0x28⟩, ⟨3, h⟩, ⟨3, 0x00⟩, ⟨6, d⟩, ⟨6, 0x20⟩]) :=
  congrArg some (by simp [wordOf, packed]; ring)
@[simp] theorem encode_cpy (a b t : BitVec 6) :
    encode (.cpy a b t) = some (packed [⟨8, 0x00⟩, ⟨6, t⟩, ⟨6, b⟩, ⟨6, a⟩, ⟨6, 0x21⟩]) :=
  congrArg some (by simp [wordOf, packed]; ring)
@[simp] theorem encode_cpyr (a b t : BitVec 6) (sc : Scope) (z : BitVec 3) :
    encode (.cpyr a b t sc z) = some (packed [⟨3, z⟩, ⟨3, .ofNat 3 sc.code⟩, ⟨2, 0x01⟩, ⟨6, t⟩, ⟨6, b⟩, ⟨6, a⟩, ⟨6, 0x21⟩]) :=
  congrArg some (by simp [wordOf, packed]; ring)
@[simp] theorem encode_cpyc (r : BitVec 6) :
    encode (.cpyc r) = some (packed [⟨20, 0x80⟩, ⟨6, r⟩, ⟨6, 0x21⟩]) :=
  congrArg some (by simp [wordOf, packed]; ring)
@[simp] theorem encode_cpyq (a t : BitVec 6) :
    encode (.cpyq a t) = some (packed [⟨8, 0xC0⟩, ⟨6, t⟩, ⟨6, 0x00⟩, ⟨6, a⟩, ⟨6, 0x21⟩]) :=
  congrArg some (by simp [wordOf, packed]; ring)
@[simp] theorem encode_mma (a b t : BitVec 6) (tile : BitVec 3) :
    encode (.mma a b t tile) = some (packed [⟨3, 0x00⟩, ⟨3, tile⟩, ⟨2, 0x00⟩, ⟨6, t⟩, ⟨6, b⟩, ⟨6, a⟩, ⟨6, 0x22⟩]) :=
  congrArg some (by simp [wordOf, packed]; ring)
@[simp] theorem encode_mmar (a b t : BitVec 6) (tile : BitVec 3) :
    encode (.mmar a b t tile) = some (packed [⟨3, 0x00⟩, ⟨3, tile⟩, ⟨2, 0x01⟩, ⟨6, t⟩, ⟨6, b⟩, ⟨6, a⟩, ⟨6, 0x22⟩]) :=
  congrArg some (by simp [wordOf, packed]; ring)
@[simp] theorem encode_mmaz (a b t : BitVec 6) (tile : BitVec 3) :
    encode (.mmaz a b t tile) = some (packed [⟨3, 0x00⟩, ⟨3, tile⟩, ⟨2, 0x02⟩, ⟨6, t⟩, ⟨6, b⟩, ⟨6, a⟩, ⟨6, 0x22⟩]) :=
  congrArg some (by simp [wordOf, packed]; ring)
@[simp] theorem encode_mcfg (a b t : BitVec 6) :
    encode (.mcfg a b t) = some (packed [⟨8, 0x00⟩, ⟨6, t⟩, ⟨6, b⟩, ⟨6, a⟩, ⟨6, 0x23⟩]) :=
  congrArg some (by simp [wordOf, packed]; ring)
@[simp] theorem encode_mcfgRd (a b t : BitVec 6) :
    encode (.mcfgRd a b t) = some (packed [⟨8, 0x01⟩, ⟨6, t⟩, ⟨6, b⟩, ⟨6, a⟩, ⟨6, 0x23⟩]) :=
  congrArg some (by simp [wordOf, packed]; ring)
@[simp] theorem encode_minit (a t : BitVec 6) (tile : BitVec 3) :
    encode (.minit a t tile) = some (packed [⟨3, tile⟩, ⟨5, 0x02⟩, ⟨6, t⟩, ⟨6, 0x00⟩, ⟨6, a⟩, ⟨6, 0x23⟩]) :=
  congrArg some (by simp [wordOf, packed]; ring)
@[simp] theorem encode_mrd (a b t : BitVec 6) (tile : BitVec 3) :
    encode (.mrd a b t tile) = some (packed [⟨3, tile⟩, ⟨5, 0x04⟩, ⟨6, t⟩, ⟨6, b⟩, ⟨6, a⟩, ⟨6, 0x23⟩]) :=
  congrArg some (by simp [wordOf, packed]; ring)
@[simp] theorem encode_mrdv (a : BitVec 6) (v : BitVec 5) (t : BitVec 6) (tile : BitVec 3) :
    encode (.mrdv a v t tile) = some (packed [⟨3, tile⟩, ⟨5, 0x06⟩, ⟨6, t⟩, ⟨5, v⟩, ⟨1, 0x00⟩, ⟨6, a⟩, ⟨6, 0x23⟩]) :=
  congrArg some (by simp [wordOf, packed]; ring)
@[simp] theorem encode_mlda (a b t : BitVec 6) (tile : BitVec 3) :
    encode (.mlda a b t tile) = some (packed [⟨3, tile⟩, ⟨5, 0x08⟩, ⟨6, t⟩, ⟨6, b⟩, ⟨6, a⟩, ⟨6, 0x23⟩]) :=
  congrArg some (by simp [wordOf, packed]; ring)
@[simp] theorem encode_mldaAdd (a b t : BitVec 6) (tile : BitVec 3) :
    encode (.mldaAdd a b t tile) = some (packed [⟨3, tile⟩, ⟨5, 0x09⟩, ⟨6, t⟩, ⟨6, b⟩, ⟨6, a⟩, ⟨6, 0x23⟩]) :=
  congrArg some (by simp [wordOf, packed]; ring)
@[simp] theorem encode_msta (a t : BitVec 6) (tile : BitVec 3) :
    encode (.msta a t tile) = some (packed [⟨3, tile⟩, ⟨5, 0x0A⟩, ⟨6, t⟩, ⟨6, 0x00⟩, ⟨6, a⟩, ⟨6, 0x23⟩]) :=
  congrArg some (by simp [wordOf, packed]; ring)
@[simp] theorem encode_mstat (a t : BitVec 6) (tile : BitVec 3) :
    encode (.mstat a t tile) = some (packed [⟨3, tile⟩, ⟨5, 0x0C⟩, ⟨6, t⟩, ⟨6, 0x00⟩, ⟨6, a⟩, ⟨6, 0x23⟩]) :=
  congrArg some (by simp [wordOf, packed]; ring)
@[simp] theorem encode_mshad (a t : BitVec 6) (tile : BitVec 3) :
    encode (.mshad a t tile) = some (packed [⟨3, tile⟩, ⟨5, 0x0E⟩, ⟨6, t⟩, ⟨6, 0x00⟩, ⟨6, a⟩, ⟨6, 0x23⟩]) :=
  congrArg some (by simp [wordOf, packed]; ring)
@[simp] theorem encode_cgrp (a t : BitVec 6) (n : BitVec 2) :
    encode (.cgrp a t n) = some (packed [⟨2, n⟩, ⟨6, 0x00⟩, ⟨6, t⟩, ⟨6, 0x00⟩, ⟨6, a⟩, ⟨6, 0x24⟩]) :=
  congrArg some (by simp [wordOf, packed]; ring)
@[simp] theorem encode_ctab (a t : BitVec 6) (n : BitVec 2) :
    encode (.ctab a t n) = some (packed [⟨2, n⟩, ⟨6, 0x08⟩, ⟨6, t⟩, ⟨6, 0x00⟩, ⟨6, a⟩, ⟨6, 0x24⟩]) :=
  congrArg some (by simp [wordOf, packed]; ring)
@[simp] theorem encode_cstart (a t : BitVec 6) (n : BitVec 2) :
    encode (.cstart a t n) = some (packed [⟨2, n⟩, ⟨6, 0x10⟩, ⟨6, t⟩, ⟨6, 0x00⟩, ⟨6, a⟩, ⟨6, 0x24⟩]) :=
  congrArg some (by simp [wordOf, packed]; ring)
@[simp] theorem encode_tready (a : BitVec 6) (n : BitVec 2) :
    encode (.tready a n) = some (packed [⟨2, n⟩, ⟨18, 0x18⟩, ⟨6, a⟩, ⟨6, 0x24⟩]) :=
  congrArg some (by simp [wordOf, packed]; ring)
@[simp] theorem encode_cwait (a t : BitVec 6) (n : BitVec 2) :
    encode (.cwait a t n) = some (packed [⟨2, n⟩, ⟨6, 0x20⟩, ⟨6, t⟩, ⟨6, 0x00⟩, ⟨6, a⟩, ⟨6, 0x24⟩]) :=
  congrArg some (by simp [wordOf, packed]; ring)
@[simp] theorem encode_rdraw (d b : BitVec 5) :
    encode (.rdraw d b) = some (packed [⟨11, 0x00⟩, ⟨5, b⟩, ⟨5, 0x00⟩, ⟨5, d⟩, ⟨6, 0x25⟩]) :=
  congrArg some (by simp [wordOf, packed]; ring)
@[simp] theorem encode_rvec (d b : BitVec 5) (k : BitVec 3) :
    encode (.rvec d b k) = some (packed [⟨8, 0x40⟩, ⟨3, k⟩, ⟨5, b⟩, ⟨5, 0x00⟩, ⟨5, d⟩, ⟨6, 0x25⟩]) :=
  congrArg some (by simp [wordOf, packed]; ring)
@[simp] theorem encode_rmask (k : BitVec 3) (b : BitVec 5) :
    encode (.rmask k b) = some (packed [⟨11, 0x80⟩, ⟨5, b⟩, ⟨5, 0x00⟩, ⟨3, k⟩, ⟨2, 0x00⟩, ⟨6, 0x25⟩]) :=
  congrArg some (by simp [wordOf, packed]; ring)
@[simp] theorem encode_rkey (d b : BitVec 5) :
    encode (.rkey d b) = some (packed [⟨11, 0xC0⟩, ⟨5, b⟩, ⟨5, 0x00⟩, ⟨5, d⟩, ⟨6, 0x25⟩]) :=
  congrArg some (by simp [wordOf, packed]; ring)
@[simp] theorem encode_launch (d a : BitVec 6) :
    encode (.launch d a) = some (packed [⟨14, 0x00⟩, ⟨6, a⟩, ⟨6, d⟩, ⟨6, 0x26⟩]) :=
  congrArg some (by simp [wordOf, packed]; ring)
@[simp] theorem encode_depdec (d a : BitVec 6) :
    encode (.depdec d a) = some (packed [⟨14, 0x01⟩, ⟨6, a⟩, ⟨6, d⟩, ⟨6, 0x26⟩]) :=
  congrArg some (by simp [wordOf, packed]; ring)
@[simp] theorem encode_tcbq (d a : BitVec 6) :
    encode (.tcbq d a) = some (packed [⟨14, 0x02⟩, ⟨6, a⟩, ⟨6, d⟩, ⟨6, 0x26⟩]) :=
  congrArg some (by simp [wordOf, packed]; ring)
@[simp] theorem encode_sendm (a b t : BitVec 6) (nb : Bool) :
    encode (.sendm a b t nb) = some (packed [⟨5, 0x00⟩, ⟨1, .ofBool nb⟩, ⟨2, 0x00⟩, ⟨6, t⟩, ⟨6, b⟩, ⟨6, a⟩, ⟨6, 0x27⟩]) :=
  congrArg some (by simp [wordOf, packed]; ring)
@[simp] theorem encode_recvm (a b t : BitVec 6) (nb : Bool) :
    encode (.recvm a b t nb) = some (packed [⟨5, 0x00⟩, ⟨1, .ofBool nb⟩, ⟨2, 0x01⟩, ⟨6, t⟩, ⟨6, b⟩, ⟨6, a⟩, ⟨6, 0x27⟩]) :=
  congrArg some (by simp [wordOf, packed]; ring)
@[simp] theorem encode_recvmCfg (a : BitVec 6) :
    encode (.recvmCfg a) = some (packed [⟨20, 0x80⟩, ⟨6, a⟩, ⟨6, 0x27⟩]) :=
  congrArg some (by simp [wordOf, packed]; ring)
@[simp] theorem encode_vld (v : BitVec 5) (a : BitVec 6) (k : BitVec 3) (imm : BitVec 12) :
    encode (.vld v a k imm) = some (packed [⟨12, imm⟩, ⟨3, k⟩, ⟨6, a⟩, ⟨5, v⟩, ⟨6, 0x28⟩]) :=
  congrArg some (by simp [wordOf, packed]; ring)
@[simp] theorem encode_vst (v : BitVec 5) (a : BitVec 6) (k : BitVec 3) (imm : BitVec 12) :
    encode (.vst v a k imm) = some (packed [⟨12, imm⟩, ⟨3, k⟩, ⟨6, a⟩, ⟨5, v⟩, ⟨6, 0x29⟩]) :=
  congrArg some (by simp [wordOf, packed]; ring)
@[simp] theorem encode_vadd (d a b : BitVec 5) (k : BitVec 3) (ty : IntTy) :
    encode (.vadd d a b k ty) = some (packed [⟨3, .ofNat 3 ty.code⟩, ⟨5, 0x00⟩, ⟨3, k⟩, ⟨5, b⟩, ⟨5, a⟩, ⟨5, d⟩, ⟨6, 0x2A⟩]) :=
  congrArg some (by simp [wordOf, packed]; ring)
@[simp] theorem encode_vsub (d a b : BitVec 5) (k : BitVec 3) (ty : IntTy) :
    encode (.vsub d a b k ty) = some (packed [⟨3, .ofNat 3 ty.code⟩, ⟨5, 0x01⟩, ⟨3, k⟩, ⟨5, b⟩, ⟨5, a⟩, ⟨5, d⟩, ⟨6, 0x2A⟩]) :=
  congrArg some (by simp [wordOf, packed]; ring)
@[simp] theorem encode_vmul (d a b : BitVec 5) (k : BitVec 3) (ty : IntTy) :
    encode (.vmul d a b k ty) = some (packed [⟨3, .ofNat 3 ty.code⟩, ⟨5, 0x02⟩, ⟨3, k⟩, ⟨5, b⟩, ⟨5, a⟩, ⟨5, d⟩, ⟨6, 0x2A⟩]) :=
  congrArg some (by simp [wordOf, packed]; ring)
@[simp] theorem encode_vmin (d a b : BitVec 5) (k : BitVec 3) (ty : IntTy) :
    encode (.vmin d a b k ty) = some (packed [⟨3, .ofNat 3 ty.code⟩, ⟨5, 0x03⟩, ⟨3, k⟩, ⟨5, b⟩, ⟨5, a⟩, ⟨5, d⟩, ⟨6, 0x2A⟩]) :=
  congrArg some (by simp [wordOf, packed]; ring)
@[simp] theorem encode_vmax (d a b : BitVec 5) (k : BitVec 3) (ty : IntTy) :
    encode (.vmax d a b k ty) = some (packed [⟨3, .ofNat 3 ty.code⟩, ⟨5, 0x04⟩, ⟨3, k⟩, ⟨5, b⟩, ⟨5, a⟩, ⟨5, d⟩, ⟨6, 0x2A⟩]) :=
  congrArg some (by simp [wordOf, packed]; ring)
@[simp] theorem encode_vand (d a b : BitVec 5) (k : BitVec 3) (ty : IntTy) :
    encode (.vand d a b k ty) = some (packed [⟨3, .ofNat 3 ty.code⟩, ⟨5, 0x05⟩, ⟨3, k⟩, ⟨5, b⟩, ⟨5, a⟩, ⟨5, d⟩, ⟨6, 0x2A⟩]) :=
  congrArg some (by simp [wordOf, packed]; ring)
@[simp] theorem encode_vor (d a b : BitVec 5) (k : BitVec 3) (ty : IntTy) :
    encode (.vor d a b k ty) = some (packed [⟨3, .ofNat 3 ty.code⟩, ⟨5, 0x06⟩, ⟨3, k⟩, ⟨5, b⟩, ⟨5, a⟩, ⟨5, d⟩, ⟨6, 0x2A⟩]) :=
  congrArg some (by simp [wordOf, packed]; ring)
@[simp] theorem encode_vxor (d a b : BitVec 5) (k : BitVec 3) (ty : IntTy) :
    encode (.vxor d a b k ty) = some (packed [⟨3, .ofNat 3 ty.code⟩, ⟨5, 0x07⟩, ⟨3, k⟩, ⟨5, b⟩, ⟨5, a⟩, ⟨5, d⟩, ⟨6, 0x2A⟩]) :=
  congrArg some (by simp [wordOf, packed]; ring)
@[simp] theorem encode_vandn (d a b : BitVec 5) (k : BitVec 3) (ty : IntTy) :
    encode (.vandn d a b k ty) = some (packed [⟨3, .ofNat 3 ty.code⟩, ⟨5, 0x08⟩, ⟨3, k⟩, ⟨5, b⟩, ⟨5, a⟩, ⟨5, d⟩, ⟨6, 0x2A⟩]) :=
  congrArg some (by simp [wordOf, packed]; ring)
@[simp] theorem encode_vshl (d a b : BitVec 5) (k : BitVec 3) (ty : IntTy) :
    encode (.vshl d a b k ty) = some (packed [⟨3, .ofNat 3 ty.code⟩, ⟨5, 0x09⟩, ⟨3, k⟩, ⟨5, b⟩, ⟨5, a⟩, ⟨5, d⟩, ⟨6, 0x2A⟩]) :=
  congrArg some (by simp [wordOf, packed]; ring)
@[simp] theorem encode_vshr (d a b : BitVec 5) (k : BitVec 3) (ty : IntTy) :
    encode (.vshr d a b k ty) = some (packed [⟨3, .ofNat 3 ty.code⟩, ⟨5, 0x0A⟩, ⟨3, k⟩, ⟨5, b⟩, ⟨5, a⟩, ⟨5, d⟩, ⟨6, 0x2A⟩]) :=
  congrArg some (by simp [wordOf, packed]; ring)
@[simp] theorem encode_vsar (d a b : BitVec 5) (k : BitVec 3) (ty : IntTy) :
    encode (.vsar d a b k ty) = some (packed [⟨3, .ofNat 3 ty.code⟩, ⟨5, 0x0B⟩, ⟨3, k⟩, ⟨5, b⟩, ⟨5, a⟩, ⟨5, d⟩, ⟨6, 0x2A⟩]) :=
  congrArg some (by simp [wordOf, packed]; ring)
@[simp] theorem encode_vadds (d a b : BitVec 5) (k : BitVec 3) (ty : IntTy) :
    encode (.vadds d a b k ty) = some (packed [⟨3, .ofNat 3 ty.code⟩, ⟨5, 0x0C⟩, ⟨3, k⟩, ⟨5, b⟩, ⟨5, a⟩, ⟨5, d⟩, ⟨6, 0x2A⟩]) :=
  congrArg some (by simp [wordOf, packed]; ring)
@[simp] theorem encode_vsubs (d a b : BitVec 5) (k : BitVec 3) (ty : IntTy) :
    encode (.vsubs d a b k ty) = some (packed [⟨3, .ofNat 3 ty.code⟩, ⟨5, 0x0D⟩, ⟨3, k⟩, ⟨5, b⟩, ⟨5, a⟩, ⟨5, d⟩, ⟨6, 0x2A⟩]) :=
  congrArg some (by simp [wordOf, packed]; ring)
@[simp] theorem encode_vavg (d a b : BitVec 5) (k : BitVec 3) (ty : IntTy) :
    encode (.vavg d a b k ty) = some (packed [⟨3, .ofNat 3 ty.code⟩, ⟨5, 0x0E⟩, ⟨3, k⟩, ⟨5, b⟩, ⟨5, a⟩, ⟨5, d⟩, ⟨6, 0x2A⟩]) :=
  congrArg some (by simp [wordOf, packed]; ring)
@[simp] theorem encode_vabs (d a : BitVec 5) (k : BitVec 3) (ty : IntTy) :
    encode (.vabs d a k ty) = some (packed [⟨3, .ofNat 3 ty.code⟩, ⟨5, 0x0F⟩, ⟨3, k⟩, ⟨5, 0x00⟩, ⟨5, a⟩, ⟨5, d⟩, ⟨6, 0x2A⟩]) :=
  congrArg some (by simp [wordOf, packed]; ring)
@[simp] theorem encode_vfadd (d a b : BitVec 5) (k : BitVec 3) (ty : FltTy) :
    encode (.vfadd d a b k ty) = some (packed [⟨3, .ofNat 3 ty.code⟩, ⟨5, 0x00⟩, ⟨3, k⟩, ⟨5, b⟩, ⟨5, a⟩, ⟨5, d⟩, ⟨6, 0x2B⟩]) :=
  congrArg some (by simp [wordOf, packed]; ring)
@[simp] theorem encode_vfsub (d a b : BitVec 5) (k : BitVec 3) (ty : FltTy) :
    encode (.vfsub d a b k ty) = some (packed [⟨3, .ofNat 3 ty.code⟩, ⟨5, 0x01⟩, ⟨3, k⟩, ⟨5, b⟩, ⟨5, a⟩, ⟨5, d⟩, ⟨6, 0x2B⟩]) :=
  congrArg some (by simp [wordOf, packed]; ring)
@[simp] theorem encode_vfmul (d a b : BitVec 5) (k : BitVec 3) (ty : FltTy) :
    encode (.vfmul d a b k ty) = some (packed [⟨3, .ofNat 3 ty.code⟩, ⟨5, 0x02⟩, ⟨3, k⟩, ⟨5, b⟩, ⟨5, a⟩, ⟨5, d⟩, ⟨6, 0x2B⟩]) :=
  congrArg some (by simp [wordOf, packed]; ring)
@[simp] theorem encode_vfmin (d a b : BitVec 5) (k : BitVec 3) (ty : FltTy) :
    encode (.vfmin d a b k ty) = some (packed [⟨3, .ofNat 3 ty.code⟩, ⟨5, 0x03⟩, ⟨3, k⟩, ⟨5, b⟩, ⟨5, a⟩, ⟨5, d⟩, ⟨6, 0x2B⟩]) :=
  congrArg some (by simp [wordOf, packed]; ring)
@[simp] theorem encode_vfmax (d a b : BitVec 5) (k : BitVec 3) (ty : FltTy) :
    encode (.vfmax d a b k ty) = some (packed [⟨3, .ofNat 3 ty.code⟩, ⟨5, 0x04⟩, ⟨3, k⟩, ⟨5, b⟩, ⟨5, a⟩, ⟨5, d⟩, ⟨6, 0x2B⟩]) :=
  congrArg some (by simp [wordOf, packed]; ring)
@[simp] theorem encode_vfabs (d a : BitVec 5) (k : BitVec 3) (ty : FltTy) :
    encode (.vfabs d a k ty) = some (packed [⟨3, .ofNat 3 ty.code⟩, ⟨5, 0x05⟩, ⟨3, k⟩, ⟨5, 0x00⟩, ⟨5, a⟩, ⟨5, d⟩, ⟨6, 0x2B⟩]) :=
  congrArg some (by simp [wordOf, packed]; ring)
@[simp] theorem encode_vfneg (d a : BitVec 5) (k : BitVec 3) (ty : FltTy) :
    encode (.vfneg d a k ty) = some (packed [⟨3, .ofNat 3 ty.code⟩, ⟨5, 0x06⟩, ⟨3, k⟩, ⟨5, 0x00⟩, ⟨5, a⟩, ⟨5, d⟩, ⟨6, 0x2B⟩]) :=
  congrArg some (by simp [wordOf, packed]; ring)
@[simp] theorem encode_vfmaF32 (d a b c : BitVec 5) (k : BitVec 3) :
    encode (.vfmaF32 d a b c k) = some (packed [⟨3, 0x00⟩, ⟨3, k⟩, ⟨5, c⟩, ⟨5, b⟩, ⟨5, a⟩, ⟨5, d⟩, ⟨6, 0x2C⟩]) :=
  congrArg some (by simp [wordOf, packed]; ring)
@[simp] theorem encode_vfmsF32 (d a b c : BitVec 5) (k : BitVec 3) :
    encode (.vfmsF32 d a b c k) = some (packed [⟨3, 0x01⟩, ⟨3, k⟩, ⟨5, c⟩, ⟨5, b⟩, ⟨5, a⟩, ⟨5, d⟩, ⟨6, 0x2C⟩]) :=
  congrArg some (by simp [wordOf, packed]; ring)
@[simp] theorem encode_vfnmaF32 (d a b c : BitVec 5) (k : BitVec 3) :
    encode (.vfnmaF32 d a b c k) = some (packed [⟨3, 0x02⟩, ⟨3, k⟩, ⟨5, c⟩, ⟨5, b⟩, ⟨5, a⟩, ⟨5, d⟩, ⟨6, 0x2C⟩]) :=
  congrArg some (by simp [wordOf, packed]; ring)
@[simp] theorem encode_vfnmsF32 (d a b c : BitVec 5) (k : BitVec 3) :
    encode (.vfnmsF32 d a b c k) = some (packed [⟨3, 0x03⟩, ⟨3, k⟩, ⟨5, c⟩, ⟨5, b⟩, ⟨5, a⟩, ⟨5, d⟩, ⟨6, 0x2C⟩]) :=
  congrArg some (by simp [wordOf, packed]; ring)
@[simp] theorem encode_vfmaBf16 (d a b c : BitVec 5) (k : BitVec 3) :
    encode (.vfmaBf16 d a b c k) = some (packed [⟨3, 0x04⟩, ⟨3, k⟩, ⟨5, c⟩, ⟨5, b⟩, ⟨5, a⟩, ⟨5, d⟩, ⟨6, 0x2C⟩]) :=
  congrArg some (by simp [wordOf, packed]; ring)
@[simp] theorem encode_vfmsBf16 (d a b c : BitVec 5) (k : BitVec 3) :
    encode (.vfmsBf16 d a b c k) = some (packed [⟨3, 0x05⟩, ⟨3, k⟩, ⟨5, c⟩, ⟨5, b⟩, ⟨5, a⟩, ⟨5, d⟩, ⟨6, 0x2C⟩]) :=
  congrArg some (by simp [wordOf, packed]; ring)
@[simp] theorem encode_vfmaF16 (d a b c : BitVec 5) (k : BitVec 3) :
    encode (.vfmaF16 d a b c k) = some (packed [⟨3, 0x06⟩, ⟨3, k⟩, ⟨5, c⟩, ⟨5, b⟩, ⟨5, a⟩, ⟨5, d⟩, ⟨6, 0x2C⟩]) :=
  congrArg some (by simp [wordOf, packed]; ring)
@[simp] theorem encode_vfmsF16 (d a b c : BitVec 5) (k : BitVec 3) :
    encode (.vfmsF16 d a b c k) = some (packed [⟨3, 0x07⟩, ⟨3, k⟩, ⟨5, c⟩, ⟨5, b⟩, ⟨5, a⟩, ⟨5, d⟩, ⟨6, 0x2C⟩]) :=
  congrArg some (by simp [wordOf, packed]; ring)
@[simp] theorem encode_vcvt (d a b : BitVec 5) (k : BitVec 3) (rm : RMode) (c : BitVec 3) :
    encode (.vcvt d a b k rm c) = some (packed [⟨3, c⟩, ⟨2, .ofNat 2 rm.code⟩, ⟨3, 0x00⟩, ⟨3, k⟩, ⟨5, b⟩, ⟨5, a⟩, ⟨5, d⟩, ⟨6, 0x2D⟩]) :=
  congrArg some (by simp [wordOf, packed]; ring)
@[simp] theorem encode_vcvti (d a b : BitVec 5) (k : BitVec 3) (rm : RMode) (c : BitVec 3) :
    encode (.vcvti d a b k rm c) = some (packed [⟨3, c⟩, ⟨2, .ofNat 2 rm.code⟩, ⟨3, 0x01⟩, ⟨3, k⟩, ⟨5, b⟩, ⟨5, a⟩, ⟨5, d⟩, ⟨6, 0x2D⟩]) :=
  congrArg some (by simp [wordOf, packed]; ring)
@[simp] theorem encode_vcvtf (d a b : BitVec 5) (k : BitVec 3) (rm : RMode) (c : BitVec 3) :
    encode (.vcvtf d a b k rm c) = some (packed [⟨3, c⟩, ⟨2, .ofNat 2 rm.code⟩, ⟨3, 0x02⟩, ⟨3, k⟩, ⟨5, b⟩, ⟨5, a⟩, ⟨5, d⟩, ⟨6, 0x2D⟩]) :=
  congrArg some (by simp [wordOf, packed]; ring)
@[simp] theorem encode_vpack (d a b : BitVec 5) (k : BitVec 3) (rm : RMode) (fmt : PackFmt) :
    encode (.vpack d a b k rm fmt) = some (packed [⟨3, .ofNat 3 fmt.code⟩, ⟨2, .ofNat 2 rm.code⟩, ⟨3, 0x03⟩, ⟨3, k⟩, ⟨5, b⟩, ⟨5, a⟩, ⟨5, d⟩, ⟨6, 0x2D⟩]) :=
  congrArg some (by simp [wordOf, packed]; ring)
@[simp] theorem encode_vunpk (d a b : BitVec 5) (k : BitVec 3) (rm : RMode) (fmt : PackFmt) :
    encode (.vunpk d a b k rm fmt) = some (packed [⟨3, .ofNat 3 fmt.code⟩, ⟨2, .ofNat 2 rm.code⟩, ⟨3, 0x04⟩, ⟨3, k⟩, ⟨5, b⟩, ⟨5, a⟩, ⟨5, d⟩, ⟨6, 0x2D⟩]) :=
  congrArg some (by simp [wordOf, packed]; ring)
@[simp] theorem encode_vscale (d a b : BitVec 5) (k : BitVec 3) (rm : RMode) (ty : FltTy) :
    encode (.vscale d a b k rm ty) = some (packed [⟨3, .ofNat 3 ty.code⟩, ⟨2, .ofNat 2 rm.code⟩, ⟨3, 0x05⟩, ⟨3, k⟩, ⟨5, b⟩, ⟨5, a⟩, ⟨5, d⟩, ⟨6, 0x2D⟩]) :=
  congrArg some (by simp [wordOf, packed]; ring)
@[simp] theorem encode_vshuf (d a b : BitVec 5) (k : BitVec 3) (w : Width) :
    encode (.vshuf d a b k w) = some (packed [⟨2, .ofNat 2 w.code⟩, ⟨6, 0x00⟩, ⟨3, k⟩, ⟨5, b⟩, ⟨5, a⟩, ⟨5, d⟩, ⟨6, 0x2E⟩]) :=
  congrArg some (by simp [wordOf, packed]; ring)
@[simp] theorem encode_vbcst (d b : BitVec 5) (k : BitVec 3) (w : Width) :
    encode (.vbcst d b k w) = some (packed [⟨2, .ofNat 2 w.code⟩, ⟨6, 0x02⟩, ⟨3, k⟩, ⟨5, b⟩, ⟨5, 0x00⟩, ⟨5, d⟩, ⟨6, 0x2E⟩]) :=
  congrArg some (by simp [wordOf, packed]; ring)
@[simp] theorem encode_vins (d imm b : BitVec 5) (k : BitVec 3) (w : Width) :
    encode (.vins d imm b k w) = some (packed [⟨2, .ofNat 2 w.code⟩, ⟨6, 0x04⟩, ⟨3, k⟩, ⟨5, b⟩, ⟨5, imm⟩, ⟨5, d⟩, ⟨6, 0x2E⟩]) :=
  congrArg some (by simp [wordOf, packed]; ring)
@[simp] theorem encode_vext (d a imm : BitVec 5) (w : Width) :
    encode (.vext d a imm w) = some (packed [⟨2, .ofNat 2 w.code⟩, ⟨9, 0x06⟩, ⟨5, imm⟩, ⟨5, a⟩, ⟨5, d⟩, ⟨6, 0x2E⟩]) :=
  congrArg some (by simp [wordOf, packed]; ring)
@[simp] theorem encode_vrot (d a b : BitVec 5) (k : BitVec 3) (w : Width) :
    encode (.vrot d a b k w) = some (packed [⟨2, .ofNat 2 w.code⟩, ⟨6, 0x08⟩, ⟨3, k⟩, ⟨5, b⟩, ⟨5, a⟩, ⟨5, d⟩, ⟨6, 0x2E⟩]) :=
  congrArg some (by simp [wordOf, packed]; ring)
@[simp] theorem encode_vzip (d a b : BitVec 5) (k : BitVec 3) (hi : Bool) (w : Width) :
    encode (.vzip d a b k hi w) = some (packed [⟨2, .ofNat 2 w.code⟩, ⟨1, .ofBool hi⟩, ⟨5, 0x05⟩, ⟨3, k⟩, ⟨5, b⟩, ⟨5, a⟩, ⟨5, d⟩, ⟨6, 0x2E⟩]) :=
  congrArg some (by simp [wordOf, packed]; ring)
@[simp] theorem encode_vuzp (d a b : BitVec 5) (k : BitVec 3) (hi : Bool) (w : Width) :
    encode (.vuzp d a b k hi w) = some (packed [⟨2, .ofNat 2 w.code⟩, ⟨1, .ofBool hi⟩, ⟨5, 0x06⟩, ⟨3, k⟩, ⟨5, b⟩, ⟨5, a⟩, ⟨5, d⟩, ⟨6, 0x2E⟩]) :=
  congrArg some (by simp [wordOf, packed]; ring)
@[simp] theorem encode_vredadd (d a : BitVec 5) (k : BitVec 3) (ty : NumTy) :
    encode (.vredadd d a k ty) = some (packed [⟨4, .ofNat 4 ty.code⟩, ⟨4, 0x00⟩, ⟨3, k⟩, ⟨5, 0x00⟩, ⟨5, a⟩, ⟨5, d⟩, ⟨6, 0x2F⟩]) :=
  congrArg some (by simp [wordOf, packed]; ring)
@[simp] theorem encode_vredmax (d a : BitVec 5) (k : BitVec 3) (ty : NumTy) :
    encode (.vredmax d a k ty) = some (packed [⟨4, .ofNat 4 ty.code⟩, ⟨4, 0x01⟩, ⟨3, k⟩, ⟨5, 0x00⟩, ⟨5, a⟩, ⟨5, d⟩, ⟨6, 0x2F⟩]) :=
  congrArg some (by simp [wordOf, packed]; ring)
@[simp] theorem encode_vredmin (d a : BitVec 5) (k : BitVec 3) (ty : NumTy) :
    encode (.vredmin d a k ty) = some (packed [⟨4, .ofNat 4 ty.code⟩, ⟨4, 0x02⟩, ⟨3, k⟩, ⟨5, 0x00⟩, ⟨5, a⟩, ⟨5, d⟩, ⟨6, 0x2F⟩]) :=
  congrArg some (by simp [wordOf, packed]; ring)
@[simp] theorem encode_vredand (d a : BitVec 5) (k : BitVec 3) (ty : IntTy) :
    encode (.vredand d a k ty) = some (packed [⟨3, .ofNat 3 ty.code⟩, ⟨5, 0x06⟩, ⟨3, k⟩, ⟨5, 0x00⟩, ⟨5, a⟩, ⟨5, d⟩, ⟨6, 0x2F⟩]) :=
  congrArg some (by simp [wordOf, packed]; ring)
@[simp] theorem encode_vredor (d a : BitVec 5) (k : BitVec 3) (ty : IntTy) :
    encode (.vredor d a k ty) = some (packed [⟨3, .ofNat 3 ty.code⟩, ⟨5, 0x08⟩, ⟨3, k⟩, ⟨5, 0x00⟩, ⟨5, a⟩, ⟨5, d⟩, ⟨6, 0x2F⟩]) :=
  congrArg some (by simp [wordOf, packed]; ring)
@[simp] theorem encode_vredxor (d a : BitVec 5) (k : BitVec 3) (ty : IntTy) :
    encode (.vredxor d a k ty) = some (packed [⟨3, .ofNat 3 ty.code⟩, ⟨5, 0x0A⟩, ⟨3, k⟩, ⟨5, 0x00⟩, ⟨5, a⟩, ⟨5, d⟩, ⟨6, 0x2F⟩]) :=
  congrArg some (by simp [wordOf, packed]; ring)
@[simp] theorem encode_vcmpInt (d : BitVec 3) (a b : BitVec 5) (k : BitVec 3) (cond : Cond) (ty : IntTy) :
    encode (.vcmpInt d a b k cond ty) = some (packed [⟨3, .ofNat 3 ty.code⟩, ⟨3, .ofNat 3 cond.code⟩, ⟨2, 0x00⟩, ⟨3, k⟩, ⟨5, b⟩, ⟨5, a⟩, ⟨3, d⟩, ⟨2, 0x00⟩, ⟨6, 0x30⟩]) :=
  congrArg some (by simp [wordOf, packed]; ring)
@[simp] theorem encode_vcmpFlt (d : BitVec 3) (a b : BitVec 5) (k : BitVec 3) (cond : Cond) (ty : FltTy) :
    encode (.vcmpFlt d a b k cond ty) = some (packed [⟨3, .ofNat 3 ty.code⟩, ⟨3, .ofNat 3 cond.code⟩, ⟨2, 0x01⟩, ⟨3, k⟩, ⟨5, b⟩, ⟨5, a⟩, ⟨3, d⟩, ⟨2, 0x00⟩, ⟨6, 0x30⟩]) :=
  congrArg some (by simp [wordOf, packed]; ring)
@[simp] theorem encode_vsel (d a b : BitVec 5) (k : BitVec 3) (w : Width) :
    encode (.vsel d a b k w) = some (packed [⟨2, .ofNat 2 w.code⟩, ⟨6, 0x20⟩, ⟨3, k⟩, ⟨5, b⟩, ⟨5, a⟩, ⟨5, d⟩, ⟨6, 0x30⟩]) :=
  congrArg some (by simp [wordOf, packed]; ring)
@[simp] theorem encode_kand (d a b : BitVec 3) :
    encode (.kand d a b) = some (packed [⟨11, 0xC0⟩, ⟨3, b⟩, ⟨2, 0x00⟩, ⟨3, a⟩, ⟨2, 0x00⟩, ⟨3, d⟩, ⟨2, 0x00⟩, ⟨6, 0x30⟩]) :=
  congrArg some (by simp [wordOf, packed]; ring)
@[simp] theorem encode_kor (d a b : BitVec 3) :
    encode (.kor d a b) = some (packed [⟨11, 0xC8⟩, ⟨3, b⟩, ⟨2, 0x00⟩, ⟨3, a⟩, ⟨2, 0x00⟩, ⟨3, d⟩, ⟨2, 0x00⟩, ⟨6, 0x30⟩]) :=
  congrArg some (by simp [wordOf, packed]; ring)
@[simp] theorem encode_kxor (d a b : BitVec 3) :
    encode (.kxor d a b) = some (packed [⟨11, 0xD0⟩, ⟨3, b⟩, ⟨2, 0x00⟩, ⟨3, a⟩, ⟨2, 0x00⟩, ⟨3, d⟩, ⟨2, 0x00⟩, ⟨6, 0x30⟩]) :=
  congrArg some (by simp [wordOf, packed]; ring)
@[simp] theorem encode_knot (d a : BitVec 3) :
    encode (.knot d a) = some (packed [⟨16, 0xD8⟩, ⟨3, a⟩, ⟨2, 0x00⟩, ⟨3, d⟩, ⟨2, 0x00⟩, ⟨6, 0x30⟩]) :=
  congrArg some (by simp [wordOf, packed]; ring)
@[simp] theorem encode_kpop (d : BitVec 5) (a : BitVec 3) :
    encode (.kpop d a) = some (packed [⟨16, 0xE0⟩, ⟨3, a⟩, ⟨2, 0x00⟩, ⟨5, d⟩, ⟨6, 0x30⟩]) :=
  congrArg some (by simp [wordOf, packed]; ring)
@[simp] theorem encode_kffs (d : BitVec 5) (a : BitVec 3) :
    encode (.kffs d a) = some (packed [⟨16, 0xE8⟩, ⟨3, a⟩, ⟨2, 0x00⟩, ⟨5, d⟩, ⟨6, 0x30⟩]) :=
  congrArg some (by simp [wordOf, packed]; ring)
@[simp] theorem encode_kmov (d a : BitVec 3) :
    encode (.kmov d a) = some (packed [⟨16, 0xF0⟩, ⟨3, a⟩, ⟨2, 0x00⟩, ⟨3, d⟩, ⟨2, 0x00⟩, ⟨6, 0x30⟩]) :=
  congrArg some (by simp [wordOf, packed]; ring)
@[simp] theorem encode_kmovExpand (d a : BitVec 3) (f : BitVec 2) :
    encode (.kmovExpand d a f) = some (packed [⟨2, f⟩, ⟨14, 0x3C⟩, ⟨3, a⟩, ⟨2, 0x00⟩, ⟨3, d⟩, ⟨2, 0x00⟩, ⟨6, 0x30⟩]) :=
  congrArg some (by simp [wordOf, packed]; ring)
@[simp] theorem encode_kmovFromG (d : BitVec 3) (b : BitVec 5) :
    encode (.kmovFromG d b) = some (packed [⟨11, 0xF4⟩, ⟨5, b⟩, ⟨5, 0x00⟩, ⟨3, d⟩, ⟨2, 0x00⟩, ⟨6, 0x30⟩]) :=
  congrArg some (by simp [wordOf, packed]; ring)
@[simp] theorem encode_kmovToG (d : BitVec 5) (a : BitVec 3) :
    encode (.kmovToG d a) = some (packed [⟨16, 0xF5⟩, ⟨3, a⟩, ⟨2, 0x00⟩, ⟨5, d⟩, ⟨6, 0x30⟩]) :=
  congrArg some (by simp [wordOf, packed]; ring)
@[simp] theorem encode_vlop3 (d a : BitVec 5) (b : BitVec 4) (k : BitVec 3) (t : BitVec 8) :
    encode (.vlop3 d a b k t) = some (packed [⟨8, t⟩, ⟨3, k⟩, ⟨4, b⟩, ⟨1, 0x01⟩, ⟨5, a⟩, ⟨5, d⟩, ⟨6, 0x31⟩]) :=
  congrArg some (by simp [wordOf, packed]; ring)
@[simp] theorem encode_vfshl (d a : BitVec 5) (b : BitVec 4) (k : BitVec 3) (w : Width) (s : BitVec 6) :
    encode (.vfshl d a b k w s) = some (packed [⟨6, s⟩, ⟨2, .ofNat 2 w.code⟩, ⟨3, k⟩, ⟨4, b⟩, ⟨1, 0x00⟩, ⟨5, a⟩, ⟨5, d⟩, ⟨6, 0x31⟩]) :=
  congrArg some (by simp [wordOf, packed]; ring)
@[simp] theorem encode_vclz (d a : BitVec 5) (k : BitVec 3) (w : Width) :
    encode (.vclz d a k w) = some (packed [⟨3, 0x00⟩, ⟨2, .ofNat 2 w.code⟩, ⟨3, 0x01⟩, ⟨3, k⟩, ⟨5, 0x00⟩, ⟨5, a⟩, ⟨5, d⟩, ⟨6, 0x31⟩]) :=
  congrArg some (by simp [wordOf, packed]; ring)
@[simp] theorem encode_vctz (d a : BitVec 5) (k : BitVec 3) (w : Width) :
    encode (.vctz d a k w) = some (packed [⟨3, 0x01⟩, ⟨2, .ofNat 2 w.code⟩, ⟨3, 0x01⟩, ⟨3, k⟩, ⟨5, 0x00⟩, ⟨5, a⟩, ⟨5, d⟩, ⟨6, 0x31⟩]) :=
  congrArg some (by simp [wordOf, packed]; ring)
@[simp] theorem encode_vpopc (d a : BitVec 5) (k : BitVec 3) (w : Width) :
    encode (.vpopc d a k w) = some (packed [⟨3, 0x02⟩, ⟨2, .ofNat 2 w.code⟩, ⟨3, 0x01⟩, ⟨3, k⟩, ⟨5, 0x00⟩, ⟨5, a⟩, ⟨5, d⟩, ⟨6, 0x31⟩]) :=
  congrArg some (by simp [wordOf, packed]; ring)
@[simp] theorem encode_vrcp (d a : BitVec 5) (k : BitVec 3) :
    encode (.vrcp d a k) = some (packed [⟨8, 0x00⟩, ⟨3, k⟩, ⟨5, 0x00⟩, ⟨5, a⟩, ⟨5, d⟩, ⟨6, 0x32⟩]) :=
  congrArg some (by simp [wordOf, packed]; ring)
@[simp] theorem encode_vrsq (d a : BitVec 5) (k : BitVec 3) :
    encode (.vrsq d a k) = some (packed [⟨8, 0x08⟩, ⟨3, k⟩, ⟨5, 0x00⟩, ⟨5, a⟩, ⟨5, d⟩, ⟨6, 0x32⟩]) :=
  congrArg some (by simp [wordOf, packed]; ring)
@[simp] theorem encode_vsqrt (d a : BitVec 5) (k : BitVec 3) :
    encode (.vsqrt d a k) = some (packed [⟨8, 0x10⟩, ⟨3, k⟩, ⟨5, 0x00⟩, ⟨5, a⟩, ⟨5, d⟩, ⟨6, 0x32⟩]) :=
  congrArg some (by simp [wordOf, packed]; ring)
@[simp] theorem encode_vexp2 (d a : BitVec 5) (k : BitVec 3) :
    encode (.vexp2 d a k) = some (packed [⟨8, 0x18⟩, ⟨3, k⟩, ⟨5, 0x00⟩, ⟨5, a⟩, ⟨5, d⟩, ⟨6, 0x32⟩]) :=
  congrArg some (by simp [wordOf, packed]; ring)
@[simp] theorem encode_vlog2 (d a : BitVec 5) (k : BitVec 3) :
    encode (.vlog2 d a k) = some (packed [⟨8, 0x20⟩, ⟨3, k⟩, ⟨5, 0x00⟩, ⟨5, a⟩, ⟨5, d⟩, ⟨6, 0x32⟩]) :=
  congrArg some (by simp [wordOf, packed]; ring)
@[simp] theorem encode_vldb (d b : BitVec 5) (k : BitVec 3) (w : Width) :
    encode (.vldb d b k w) = some (packed [⟨4, 0x00⟩, ⟨2, .ofNat 2 w.code⟩, ⟨2, 0x00⟩, ⟨3, k⟩, ⟨5, b⟩, ⟨5, 0x00⟩, ⟨5, d⟩, ⟨6, 0x33⟩]) :=
  congrArg some (by simp [wordOf, packed]; ring)
@[simp] theorem encode_vgath (d a b : BitVec 5) (k : BitVec 3) (w : Width) :
    encode (.vgath d a b k w) = some (packed [⟨4, 0x00⟩, ⟨2, .ofNat 2 w.code⟩, ⟨2, 0x01⟩, ⟨3, k⟩, ⟨5, b⟩, ⟨5, a⟩, ⟨5, d⟩, ⟨6, 0x33⟩]) :=
  congrArg some (by simp [wordOf, packed]; ring)
@[simp] theorem encode_vscat (d a b : BitVec 5) (k : BitVec 3) (w : Width) :
    encode (.vscat d a b k w) = some (packed [⟨4, 0x00⟩, ⟨2, .ofNat 2 w.code⟩, ⟨2, 0x02⟩, ⟨3, k⟩, ⟨5, b⟩, ⟨5, a⟩, ⟨5, d⟩, ⟨6, 0x33⟩]) :=
  congrArg some (by simp [wordOf, packed]; ring)
@[simp] theorem encode_immx (p : BitVec 22) :
    encode (.immx p) = some (packed [⟨22, p⟩, ⟨4, 0x00⟩, ⟨6, 0x3F⟩]) :=
  congrArg some (by simp [wordOf, packed])
@[simp] theorem encode_prio (n : BitVec 3) :
    encode (.prio n) = some (packed [⟨3, n⟩, ⟨23, 0x80000⟩, ⟨6, 0x3F⟩]) :=
  congrArg some (by simp [wordOf, packed])
@[simp] theorem encode_rev (n : BitVec 8) :
    encode (.rev n) = some (packed [⟨8, n⟩, ⟨18, 0x8000⟩, ⟨6, 0x3F⟩]) :=
  congrArg some (by simp [wordOf, packed])
@[simp] theorem encode_likely (taken : Bool) :
    encode (.likely taken) = some (packed [⟨1, .ofBool taken⟩, ⟨25, 0x600000⟩, ⟨6, 0x3F⟩]) :=
  congrArg some (by simp [wordOf, packed])
@[simp] theorem encode_spin (a : BitVec 6) :
    encode (.spin a) = some (packed [⟨6, a⟩, ⟨20, 0x40000⟩, ⟨6, 0x3F⟩]) :=
  congrArg some (by simp [wordOf, packed])
@[simp] theorem encode_hnop (k : BitVec 4) (p : BitVec 22) :
    encode (.hnop k p) = some (packed [⟨22, p⟩, ⟨4, k⟩, ⟨6, 0x3F⟩]) :=
  congrArg some (by simp [wordOf, packed]; ring)
@[simp] theorem encode_endCtx :
    encode .endCtx = some (packed [⟨26, 0x03⟩, ⟨6, 0x16⟩]) :=
  congrArg some (by simp [wordOf, packed])
@[simp] theorem encode_yield :
    encode .yield = some (packed [⟨26, 0x04⟩, ⟨6, 0x16⟩]) :=
  congrArg some (by simp [wordOf, packed])
@[simp] theorem encode_fuse :
    encode .fuse = some (packed [⟨26, 0x05⟩, ⟨6, 0x16⟩]) :=
  congrArg some (by simp [wordOf, packed])
@[simp] theorem encode_split :
    encode .split = some (packed [⟨26, 0x06⟩, ⟨6, 0x16⟩]) :=
  congrArg some (by simp [wordOf, packed])
@[simp] theorem encode_eret :
    encode .eret = some (packed [⟨26, 0x2100⟩, ⟨6, 0x17⟩]) :=
  congrArg some (by simp [wordOf, packed])
@[simp] theorem encode_halt :
    encode .halt = some (packed [⟨26, 0x2300⟩, ⟨6, 0x17⟩]) :=
  congrArg some (by simp [wordOf, packed])
@[simp] theorem encode_efence :
    encode .efence = some (packed [⟨26, 0x80⟩, ⟨6, 0x23⟩]) :=
  congrArg some (by simp [wordOf, packed])
@[simp] theorem encode_nofold :
    encode .nofold = some (packed [⟨26, 0x1400000⟩, ⟨6, 0x3F⟩]) :=
  congrArg some (by simp [wordOf, packed])

end Sys2Proof
end

section
/-! O3. Row by row, a decoder answers the instruction whose word it was given: the row's guard is on the fixed bits of the
instruction's word, all of them, and its operands are the others. -/

namespace Sys2Proof
set_option Elab.async false

/-- Every instruction that a decoder answers is one whose word is `w`. -/
def Encodes (w : Nat) (o : Option Instr) : Prop := ∀ i, o = some i → encode i = some w

section
variable {w : Nat}

theorem Encodes.none : Encodes w none := fun _ h => nomatch h

theorem Encodes.ite {c : Prop} [Decidable c] {x y : Option Instr} (hx : c → Encodes w x) (hy : Encodes w y) :
    Encodes w (if c then x else y) := by
  split
  · next h => exact hx h
  · exact hy

theorem Encodes.bind {α : Type} {o : Option α} {f : α → Option Instr} (h : ∀ x, o = some x → Encodes w (f x)) :
    Encodes w (o.bind f) := by
  cases o with
  | none => exact .none
  | some x => exact h x rfl

/-- A row answers the instruction whose fields, fixed ones and operands, are those of the word. -/
theorem Encodes.row {i : Instr} {fs : List WordField} (hw : w < 2 ^ 32) (he : encode i = some (packed fs))
    (hf : HasFields w 0 fs) (hs : (fs.map WordField.width).sum = 32 := by rfl) : Encodes w (some i) := by
  intro j hj
  cases hj
  rw [he, hf.packed_eq, hs, fld, Nat.pow_zero, Nat.div_one, Nat.mod_eq_of_lt hw]

theorem decode01_encodes (hw : w < 2 ^ 32) (hm : fld w 26 6 = 0x01) : Encodes w (decode01 w) :=
  .ite (fun h => .row hw (encode_add ..) (by simp [HasFields, h, hm])) <|
  .ite (fun h => .row hw (encode_sub ..) (by simp [HasFields, h, hm])) <|
  .ite (fun h => .row hw (encode_and ..) (by simp [HasFields, h, hm])) <|
  .ite (fun h => .row hw (encode_or ..) (by simp [HasFields, h, hm])) <|
  .ite (fun h => .row hw (encode_xor ..) (by simp [HasFields, h, hm])) <|
  .ite (fun h => .row hw (encode_andn ..) (by simp [HasFields, h, hm])) <|
  .ite (fun h => .row hw (encode_orn ..) (by simp [HasFields, h, hm])) <|
  .ite (fun h => .row hw (encode_xnor ..) (by simp [HasFields, h, hm])) <|
  .ite (fun h => .row hw (encode_shl ..) (by simp [HasFields, h, hm])) <|
  .ite (fun h => .row hw (encode_shr ..) (by simp [HasFields, h, hm])) <|
  .ite (fun h => .row hw (encode_sar ..) (by simp [HasFields, h, hm])) <|
  .ite (fun h => .row hw (encode_rol ..) (by simp [HasFields, h, hm])) <|
  .ite (fun h => .row hw (encode_ror ..) (by simp [HasFields, h, hm])) <|
  .ite (fun h => .row hw (encode_slt ..) (by simp [HasFields, h, hm])) <|
  .ite (fun h => .row hw (encode_sltu ..) (by simp [HasFields, h, hm])) <|
  .ite (fun h => .row hw (encode_seq ..) (by simp [HasFields, h, hm])) <|
  .ite (fun h => .row hw (encode_sne ..) (by simp [HasFields, h, hm])) <|
  .ite (fun h => .row hw (encode_minS ..) (by simp [HasFields, h, hm])) <|
  .ite (fun h => .row hw (encode_maxS ..) (by simp [HasFields, h, hm])) <|
  .ite (fun h => .row hw (encode_minU ..) (by simp [HasFields, h, hm])) <|
  .ite (fun h => .row hw (encode_maxU ..) (by simp [HasFields, h, hm])) <|
  .ite (fun h => .row hw (encode_mul ..) (by simp [HasFields, h, hm])) <|
  .ite (fun h => .row hw (encode_mulh ..) (by simp [HasFields, h, hm])) <|
  .ite (fun h => .row hw (encode_mulhu ..) (by simp [HasFields, h, hm])) <|
  .ite (fun h => .row hw (encode_div ..) (by simp [HasFields, h, hm])) <|
  .ite (fun h => .row hw (encode_divu ..) (by simp [HasFields, h, hm])) <|
  .ite (fun h => .row hw (encode_rem ..) (by simp [HasFields, h, hm])) <|
  .ite (fun h => .row hw (encode_remu ..) (by simp [HasFields, h, hm])) <|
  .none

theorem decode02_encodes (hw : w < 2 ^ 32) (hm : fld w 26 6 = 0x02) : Encodes w (decode02 w) :=
  .ite (fun h => .row hw (encode_addw ..) (by simp [HasFields, h, hm])) <|
  .ite (fun h => .row hw (encode_subw ..) (by simp [HasFields, h, hm])) <|
  .ite (fun h => .row hw (encode_shlw ..) (by simp [HasFields, h, hm])) <|
  .ite (fun h => .row hw (encode_shrw ..) (by simp [HasFields, h, hm])) <|
  .ite (fun h => .row hw (encode_sarw ..) (by simp [HasFields, h, hm])) <|
  .ite (fun h => .row hw (encode_mulw ..) (by simp [HasFields, h, hm])) <|
  .none

theorem decode03_encodes (hw : w < 2 ^ 32) (hm : fld w 26 6 = 0x03) : Encodes w (decode03 w) :=
  .ite (fun h => .row hw (encode_clz ..) (by simp [HasFields, h, hm])) <|
  .ite (fun h => .row hw (encode_ctz ..) (by simp [HasFields, h, hm])) <|
  .ite (fun h => .row hw (encode_popc ..) (by simp [HasFields, h, hm])) <|
  .ite (fun h => .row hw (encode_ffs ..) (by simp [HasFields, h, hm])) <|
  .ite (fun h => .row hw (encode_brev ..) (by simp [HasFields, h, hm])) <|
  .ite (fun h => .row hw (encode_bswap ..) (by simp [HasFields, h, hm])) <|
  .ite (fun h => .row hw (encode_lop3 ..) (by simp [HasFields, h, hm])) <|
  .ite (fun h => .row hw (encode_fshl ..) (by simp [HasFields, h, hm])) <|
  .none

theorem decode04_encodes (hw : w < 2 ^ 32) (hm : fld w 26 6 = 0x04) : Encodes w (decode04 w) :=
  .row hw (encode_addi ..) (by simp [HasFields, hm])

theorem decode05_encodes (hw : w < 2 ^ 32) (hm : fld w 26 6 = 0x05) : Encodes w (decode05 w) :=
  .row hw (encode_andi ..) (by simp [HasFields, hm])

theorem decode06_encodes (hw : w < 2 ^ 32) (hm : fld w 26 6 = 0x06) : Encodes w (decode06 w) :=
  .row hw (encode_ori ..) (by simp [HasFields, hm])

theorem decode07_encodes (hw : w < 2 ^ 32) (hm : fld w 26 6 = 0x07) : Encodes w (decode07 w) :=
  .row hw (encode_xori ..) (by simp [HasFields, hm])

theorem decode08_encodes (hw : w < 2 ^ 32) (hm : fld w 26 6 = 0x08) : Encodes w (decode08 w) :=
  .row hw (encode_slti ..) (by simp [HasFields, hm])

theorem decode09_encodes (hw : w < 2 ^ 32) (hm : fld w 26 6 = 0x09) : Encodes w (decode09 w) :=
  .row hw (encode_sltiu ..) (by simp [HasFields, hm])

theorem decode0A_encodes (hw : w < 2 ^ 32) (hm : fld w 26 6 = 0x0A) : Encodes w (decode0A w) :=
  .ite (fun h => .row hw (encode_shli ..) (by simp [HasFields, h, hm])) <|
  .ite (fun h => .row hw (encode_shri ..) (by simp [HasFields, h, hm])) <|
  .ite (fun h => .row hw (encode_sari ..) (by simp [HasFields, h, hm])) <|
  .ite (fun h => .row hw (encode_rori ..) (by simp [HasFields, h, hm])) <|
  .none

theorem decode0B_encodes (hw : w < 2 ^ 32) (hm : fld w 26 6 = 0x0B) : Encodes w (decode0B w) :=
  .ite (fun h => .row hw (encode_extz ..) (by simp [HasFields, h, hm])) <|
  .ite (fun h => .row hw (encode_exts ..) (by simp [HasFields, h, hm])) <|
  .ite (fun h => .row hw (encode_dep ..) (by simp [HasFields, h, hm])) <|
  .none

theorem decode0C_encodes (hw : w < 2 ^ 32) (hm : fld w 26 6 = 0x0C) : Encodes w (decode0C w) :=
  .row hw (encode_lds ..) (by simp [HasFields, hm])

theorem decode0D_encodes (hw : w < 2 ^ 32) (hm : fld w 26 6 = 0x0D) : Encodes w (decode0D w) :=
  .row hw (encode_ldz ..) (by simp [HasFields, hm])

theorem decode0E_encodes (hw : w < 2 ^ 32) (hm : fld w 26 6 = 0x0E) : Encodes w (decode0E w) :=
  .row hw (encode_st ..) (by simp [HasFields, hm])

theorem decode10_encodes (hw : w < 2 ^ 32) (hm : fld w 26 6 = 0x10) : Encodes w (decode10 w) :=
  .ite (fun h => .bind fun _ h0 => .row hw (encode_amoaddW ..) (by simp [HasFields, h, hm, Scope.code_of_ofCode h0])) <|
  .ite (fun h => .bind fun _ h0 => .row hw (encode_amoandW ..) (by simp [HasFields, h, hm, Scope.code_of_ofCode h0])) <|
  .ite (fun h => .bind fun _ h0 => .row hw (encode_amoorW ..) (by simp [HasFields, h, hm, Scope.code_of_ofCode h0])) <|
  .ite (fun h => .bind fun _ h0 => .row hw (encode_amoxorW ..) (by simp [HasFields, h, hm, Scope.code_of_ofCode h0])) <|
  .ite (fun h => .bind fun _ h0 => .row hw (encode_amominW ..) (by simp [HasFields, h, hm, Scope.code_of_ofCode h0])) <|
  .ite (fun h => .bind fun _ h0 => .row hw (encode_amomaxW ..) (by simp [HasFields, h, hm, Scope.code_of_ofCode h0])) <|
  .ite (fun h => .bind fun _ h0 => .row hw (encode_amominuW ..) (by simp [HasFields, h, hm, Scope.code_of_ofCode h0])) <|
  .ite (fun h => .bind fun _ h0 => .row hw (encode_amomaxuW ..) (by simp [HasFields, h, hm, Scope.code_of_ofCode h0])) <|
  .none

theorem decode11_encodes (hw : w < 2 ^ 32) (hm : fld w 26 6 = 0x11) : Encodes w (decode11 w) :=
  .ite (fun h => .bind fun _ h0 => .row hw (encode_amoaddD ..) (by simp [HasFields, h, hm, Scope.code_of_ofCode h0])) <|
  .ite (fun h => .bind fun _ h0 => .row hw (encode_amoandD ..) (by simp [HasFields, h, hm, Scope.code_of_ofCode h0])) <|
  .ite (fun h => .bind fun _ h0 => .row hw (encode_amoorD ..) (by simp [HasFields, h, hm, Scope.code_of_ofCode h0])) <|
  .ite (fun h => .bind fun _ h0 => .row hw (encode_amoxorD ..) (by simp [HasFields, h, hm, Scope.code_of_ofCode h0])) <|
  .ite (fun h => .bind fun _ h0 => .row hw (encode_amominD ..) (by simp [HasFields, h, hm, Scope.code_of_ofCode h0])) <|
  .ite (fun h => .bind fun _ h0 => .row hw (encode_amomaxD ..) (by simp [HasFields, h, hm, Scope.code_of_ofCode h0])) <|
  .ite (fun h => .bind fun _ h0 => .row hw (encode_amominuD ..) (by simp [HasFields, h, hm, Scope.code_of_ofCode h0])) <|
  .ite (fun h => .bind fun _ h0 => .row hw (encode_amomaxuD ..) (by simp [HasFields, h, hm, Scope.code_of_ofCode h0])) <|
  .none

theorem decode12_encodes (hw : w < 2 ^ 32) (hm : fld w 26 6 = 0x12) : Encodes w (decode12 w) :=
  .ite (fun h => .bind fun _ h0 => .row hw (encode_ldo ..) (by simp [HasFields, h, hm, Scope.code_of_ofCode h0])) <|
  .ite (fun h => .bind fun _ h0 => .row hw (encode_sto ..) (by simp [HasFields, h, hm, Scope.code_of_ofCode h0])) <|
  .ite (fun h => .bind fun _ h0 => .row hw (encode_swp ..) (by simp [HasFields, h, hm, Scope.code_of_ofCode h0])) <|
  .ite (fun h => .bind fun _ h0 => .row hw (encode_cas ..) (by simp [HasFields, h, hm, Scope.code_of_ofCode h0])) <|
  .none

theorem decode13_encodes (hw : w < 2 ^ 32) (hm : fld w 26 6 = 0x13) : Encodes w (decode13 w) :=
  .ite (fun h => .bind fun _ h0 => .row hw (encode_redadd ..) (by simp [HasFields, h, hm, Scope.code_of_ofCode h0])) <|
  .ite (fun h => .bind fun _ h0 => .row hw (encode_redand ..) (by simp [HasFields, h, hm, Scope.code_of_ofCode h0])) <|
  .ite (fun h => .bind fun _ h0 => .row hw (encode_redor ..) (by simp [HasFields, h, hm, Scope.code_of_ofCode h0])) <|
  .ite (fun h => .bind fun _ h0 => .row hw (encode_redxor ..) (by simp [HasFields, h, hm, Scope.code_of_ofCode h0])) <|
  .ite (fun h => .bind fun _ h0 => .row hw (encode_redmin ..) (by simp [HasFields, h, hm, Scope.code_of_ofCode h0])) <|
  .ite (fun h => .bind fun _ h0 => .row hw (encode_redmax ..) (by simp [HasFields, h, hm, Scope.code_of_ofCode h0])) <|
  .ite (fun h => .bind fun _ h0 => .row hw (encode_redminu ..) (by simp [HasFields, h, hm, Scope.code_of_ofCode h0])) <|
  .ite (fun h => .bind fun _ h0 => .row hw (encode_redmaxu ..) (by simp [HasFields, h, hm, Scope.code_of_ofCode h0])) <|
  .ite (fun h => .bind fun _ h0 => .row hw (encode_redacc ..) (by simp [HasFields, h, hm, Scope.code_of_ofCode h0])) <|
  .none

theorem decode14_encodes (hw : w < 2 ^ 32) (hm : fld w 26 6 = 0x14) : Encodes w (decode14 w) :=
  .ite (fun h => .bind fun _ h0 => .row hw (encode_fenceE ..) (by simp [HasFields, h, hm, Scope.code_of_ofCode h0])) <|
  .ite (fun h => .bind fun _ h0 => .row hw (encode_fence ..) (by simp [HasFields, h, hm, Scope.code_of_ofCode h0])) <|
  .ite (fun h => .bind fun _ h0 => .row hw (encode_wbr ..) (by simp [HasFields, h, hm, Scope.code_of_ofCode h0])) <|
  .ite (fun h => .bind fun _ h0 => .row hw (encode_invr ..) (by simp [HasFields, h, hm, Scope.code_of_ofCode h0])) <|
  .none

theorem decode15_encodes (hw : w < 2 ^ 32) (hm : fld w 26 6 = 0x15) : Encodes w (decode15 w) :=
  .ite (fun h => .row hw (encode_arrive ..) (by simp [HasFields, h, hm])) <|
  .ite (fun h => .row hw (encode_arriveSnap ..) (by simp [HasFields, h, hm])) <|
  .ite (fun h => .row hw (encode_brst ..) (by simp [HasFields, h, hm])) <|
  .ite (fun h => .row hw (encode_wait ..) (by simp [HasFields, h, hm])) <|
  .ite (fun h => .row hw (encode_bstat ..) (by simp [HasFields, h, hm])) <|
  .ite (fun h => .row hw (encode_bset ..) (by simp [HasFields, h, hm])) <|
  .none

theorem decode16_encodes (hw : w < 2 ^ 32) (hm : fld w 26 6 = 0x16) : Encodes w (decode16 w) :=
  .ite (fun h => .row hw encode_endCtx (by simp [HasFields, h, hm])) <|
  .ite (fun h => .row hw encode_yield (by simp [HasFields, h, hm])) <|
  .ite (fun h => .row hw encode_fuse (by simp [HasFields, h, hm])) <|
  .ite (fun h => .row hw encode_split (by simp [HasFields, h, hm])) <|
  .ite (fun h => .row hw (encode_stop ..) (by simp [HasFields, h, hm])) <|
  .ite (fun h => .row hw (encode_join ..) (by simp [HasFields, h, hm])) <|
  .ite (fun h => .row hw (encode_start ..) (by simp [HasFields, h, hm])) <|
  .none

theorem decode17_encodes (hw : w < 2 ^ 32) (hm : fld w 26 6 = 0x17) : Encodes w (decode17 w) :=
  .ite (fun h => .row hw encode_eret (by simp [HasFields, h, hm])) <|
  .ite (fun h => .row hw encode_halt (by simp [HasFields, h, hm])) <|
  .ite (fun h => .row hw (encode_trap ..) (by simp [HasFields, h, hm])) <|
  .ite (fun h => .row hw (encode_digest ..) (by simp [HasFields, h, hm])) <|
  .ite (fun h => .row hw (encode_touch ..) (by simp [HasFields, h, hm])) <|
  .ite (fun h => .row hw (encode_digestN ..) (by simp [HasFields, h, hm])) <|
  .ite (fun h => .bind fun _ h0 => .row hw (encode_objinv ..) (by simp [HasFields, h, hm, Scope.code_of_ofCode h0])) <|
  .ite (fun h => .row hw (encode_gets ..) (by simp [HasFields, h, hm])) <|
  .ite (fun h => .row hw (encode_sets ..) (by simp [HasFields, h, hm])) <|
  .ite (fun h => .bind fun _ h0 => .row hw (encode_einj ..) (by simp [HasFields, h, hm, Tier.code_of_ofCode h0])) <|
  .none

theorem decode18_encodes (hw : w < 2 ^ 32) (hm : fld w 26 6 = 0x18) : Encodes w (decode18 w) :=
  .row hw (encode_beq ..) (by simp [HasFields, hm])

theorem decode19_encodes (hw : w < 2 ^ 32) (hm : fld w 26 6 = 0x19) : Encodes w (decode19 w) :=
  .row hw (encode_bne ..) (by simp [HasFields, hm])

theorem decode1A_encodes (hw : w < 2 ^ 32) (hm : fld w 26 6 = 0x1A) : Encodes w (decode1A w) :=
  .row hw (encode_blt ..) (by simp [HasFields, hm])

theorem decode1B_encodes (hw : w < 2 ^ 32) (hm : fld w 26 6 = 0x1B) : Encodes w (decode1B w) :=
  .row hw (encode_bge ..) (by simp [HasFields, hm])

theorem decode1C_encodes (hw : w < 2 ^ 32) (hm : fld w 26 6 = 0x1C) : Encodes w (decode1C w) :=
  .row hw (encode_bltu ..) (by simp [HasFields, hm])

theorem decode1D_encodes (hw : w < 2 ^ 32) (hm : fld w 26 6 = 0x1D) : Encodes w (decode1D w) :=
  .row hw (encode_bgeu ..) (by simp [HasFields, hm])

theorem decode1E_encodes (hw : w < 2 ^ 32) (hm : fld w 26 6 = 0x1E) : Encodes w (decode1E w) :=
  .row hw (encode_jal ..) (by simp [HasFields, hm])

theorem decode1F_encodes (hw : w < 2 ^ 32) (hm : fld w 26 6 = 0x1F) : Encodes w (decode1F w) :=
  .row hw (encode_jalr ..) (by simp [HasFields, hm])

theorem decode20_encodes (hw : w < 2 ^ 32) (hm : fld w 26 6 = 0x20) : Encodes w (decode20 w) :=
  .ite (fun h => .row hw (encode_waitf ..) (by simp [HasFields, h, hm])) <|
  .ite (fun h => .row hw (encode_waite ..) (by simp [HasFields, h, hm])) <|
  .ite (fun h => .row hw (encode_advp ..) (by simp [HasFields, h, hm])) <|
  .ite (fun h => .row hw (encode_advc ..) (by simp [HasFields, h, hm])) <|
  .ite (fun h => .row hw (encode_rset ..) (by simp [HasFields, h, hm])) <|
  .ite (fun h => .row hw (encode_rstat ..) (by simp [HasFields, h, hm])) <|
  .none

theorem decode21_encodes (hw : w < 2 ^ 32) (hm : fld w 26 6 = 0x21) : Encodes w (decode21 w) :=
  .ite (fun h => .row hw (encode_cpyc ..) (by simp [HasFields, h, hm])) <|
  .ite (fun h => .row hw (encode_cpyq ..) (by simp [HasFields, h, hm])) <|
  .ite (fun h => .row hw (encode_cpy ..) (by simp [HasFields, h, hm])) <|
  .ite (fun h => .bind fun _ h0 => .row hw (encode_cpyr ..) (by simp [HasFields, h, hm, Scope.code_of_ofCode h0])) <|
  .none

theorem decode22_encodes (hw : w < 2 ^ 32) (hm : fld w 26 6 = 0x22) : Encodes w (decode22 w) :=
  .ite (fun h => .row hw (encode_mma ..) (by simp [HasFields, h, hm])) <|
  .ite (fun h => .row hw (encode_mmar ..) (by simp [HasFields, h, hm])) <|
  .ite (fun h => .row hw (encode_mmaz ..) (by simp [HasFields, h, hm])) <|
  .none

theorem decode23_encodes (hw : w < 2 ^ 32) (hm : fld w 26 6 = 0x23) : Encodes w (decode23 w) :=
  .ite (fun h => .row hw encode_efence (by simp [HasFields, h, hm])) <|
  .ite (fun h => .row hw (encode_minit ..) (by simp [HasFields, h, hm])) <|
  .ite (fun h => .row hw (encode_msta ..) (by simp [HasFields, h, hm])) <|
  .ite (fun h => .row hw (encode_mstat ..) (by simp [HasFields, h, hm])) <|
  .ite (fun h => .row hw (encode_mshad ..) (by simp [HasFields, h, hm])) <|
  .ite (fun h => .row hw (encode_mcfg ..) (by simp [HasFields, h, hm])) <|
  .ite (fun h => .row hw (encode_mcfgRd ..) (by simp [HasFields, h, hm])) <|
  .ite (fun h => .row hw (encode_mrdv ..) (by simp [HasFields, h, hm])) <|
  .ite (fun h => .row hw (encode_mrd ..) (by simp [HasFields, h, hm])) <|
  .ite (fun h => .row hw (encode_mlda ..) (by simp [HasFields, h, hm])) <|
  .ite (fun h => .row hw (encode_mldaAdd ..) (by simp [HasFields, h, hm])) <|
  .none

theorem decode24_encodes (hw : w < 2 ^ 32) (hm : fld w 26 6 = 0x24) : Encodes w (decode24 w) :=
  .ite (fun h => .row hw (encode_tready ..) (by simp [HasFields, h, hm])) <|
  .ite (fun h => .row hw (encode_cgrp ..) (by simp [HasFields, h, hm])) <|
  .ite (fun h => .row hw (encode_ctab ..) (by simp [HasFields, h, hm])) <|
  .ite (fun h => .row hw (encode_cstart ..) (by simp [HasFields, h, hm])) <|
  .ite (fun h => .row hw (encode_cwait ..) (by simp [HasFields, h, hm])) <|
  .none

theorem decode25_encodes (hw : w < 2 ^ 32) (hm : fld w 26 6 = 0x25) : Encodes w (decode25 w) :=
  .ite (fun h => .row hw (encode_rmask ..) (by simp [HasFields, h, hm])) <|
  .ite (fun h => .row hw (encode_rdraw ..) (by simp [HasFields, h, hm])) <|
  .ite (fun h => .row hw (encode_rkey ..) (by simp [HasFields, h, hm])) <|
  .ite (fun h => .row hw (encode_rvec ..) (by simp [HasFields, h, hm])) <|
  .none

theorem decode26_encodes (hw : w < 2 ^ 32) (hm : fld w 26 6 = 0x26) : Encodes w (decode26 w) :=
  .ite (fun h => .row hw (encode_launch ..) (by simp [HasFields, h, hm])) <|
  .ite (fun h => .row hw (encode_depdec ..) (by simp [HasFields, h, hm])) <|
  .ite (fun h => .row hw (encode_tcbq ..) (by simp [HasFields, h, hm])) <|
  .none

theorem decode27_encodes (hw : w < 2 ^ 32) (hm : fld w 26 6 = 0x27) : Encodes w (decode27 w) :=
  .ite (fun h => .row hw (encode_recvmCfg ..) (by simp [HasFields, h, hm])) <|
  .ite (fun h => .row hw (encode_sendm ..) (by simp [HasFields, h, hm])) <|
  .ite (fun h => .row hw (encode_recvm ..) (by simp [HasFields, h, hm])) <|
  .none

theorem decode28_encodes (hw : w < 2 ^ 32) (hm : fld w 26 6 = 0x28) : Encodes w (decode28 w) :=
  .row hw (encode_vld ..) (by simp [HasFields, hm])

theorem decode29_encodes (hw : w < 2 ^ 32) (hm : fld w 26 6 = 0x29) : Encodes w (decode29 w) :=
  .row hw (encode_vst ..) (by simp [HasFields, hm])

theorem decode2A_encodes (hw : w < 2 ^ 32) (hm : fld w 26 6 = 0x2A) : Encodes w (decode2A w) :=
  .ite (fun h => .bind fun _ h0 => .row hw (encode_vabs ..) (by simp [HasFields, h, hm, IntTy.code_of_ofCode h0])) <|
  .ite (fun h => .bind fun _ h0 => .row hw (encode_vadd ..) (by simp [HasFields, h, hm, IntTy.code_of_ofCode h0])) <|
  .ite (fun h => .bind fun _ h0 => .row hw (encode_vsub ..) (by simp [HasFields, h, hm, IntTy.code_of_ofCode h0])) <|
  .ite (fun h => .bind fun _ h0 => .row hw (encode_vmul ..) (by simp [HasFields, h, hm, IntTy.code_of_ofCode h0])) <|
  .ite (fun h => .bind fun _ h0 => .row hw (encode_vmin ..) (by simp [HasFields, h, hm, IntTy.code_of_ofCode h0])) <|
  .ite (fun h => .bind fun _ h0 => .row hw (encode_vmax ..) (by simp [HasFields, h, hm, IntTy.code_of_ofCode h0])) <|
  .ite (fun h => .bind fun _ h0 => .row hw (encode_vand ..) (by simp [HasFields, h, hm, IntTy.code_of_ofCode h0])) <|
  .ite (fun h => .bind fun _ h0 => .row hw (encode_vor ..) (by simp [HasFields, h, hm, IntTy.code_of_ofCode h0])) <|
  .ite (fun h => .bind fun _ h0 => .row hw (encode_vxor ..) (by simp [HasFields, h, hm, IntTy.code_of_ofCode h0])) <|
  .ite (fun h => .bind fun _ h0 => .row hw (encode_vandn ..) (by simp [HasFields, h, hm, IntTy.code_of_ofCode h0])) <|
  .ite (fun h => .bind fun _ h0 => .row hw (encode_vshl ..) (by simp [HasFields, h, hm, IntTy.code_of_ofCode h0])) <|
  .ite (fun h => .bind fun _ h0 => .row hw (encode_vshr ..) (by simp [HasFields, h, hm, IntTy.code_of_ofCode h0])) <|
  .ite (fun h => .bind fun _ h0 => .row hw (encode_vsar ..) (by simp [HasFields, h, hm, IntTy.code_of_ofCode h0])) <|
  .ite (fun h => .bind fun _ h0 => .row hw (encode_vadds ..) (by simp [HasFields, h, hm, IntTy.code_of_ofCode h0])) <|
  .ite (fun h => .bind fun _ h0 => .row hw (encode_vsubs ..) (by simp [HasFields, h, hm, IntTy.code_of_ofCode h0])) <|
  .ite (fun h => .bind fun _ h0 => .row hw (encode_vavg ..) (by simp [HasFields, h, hm, IntTy.code_of_ofCode h0])) <|
  .none

theorem decode2B_encodes (hw : w < 2 ^ 32) (hm : fld w 26 6 = 0x2B) : Encodes w (decode2B w) :=
  .ite (fun h => .bind fun _ h0 => .row hw (encode_vfabs ..) (by simp [HasFields, h, hm, FltTy.code_of_ofCode h0])) <|
  .ite (fun h => .bind fun _ h0 => .row hw (encode_vfneg ..) (by simp [HasFields, h, hm, FltTy.code_of_ofCode h0])) <|
  .ite (fun h => .bind fun _ h0 => .row hw (encode_vfadd ..) (by simp [HasFields, h, hm, FltTy.code_of_ofCode h0])) <|
  .ite (fun h => .bind fun _ h0 => .row hw (encode_vfsub ..) (by simp [HasFields, h, hm, FltTy.code_of_ofCode h0])) <|
  .ite (fun h => .bind fun _ h0 => .row hw (encode_vfmul ..) (by simp [HasFields, h, hm, FltTy.code_of_ofCode h0])) <|
  .ite (fun h => .bind fun _ h0 => .row hw (encode_vfmin ..) (by simp [HasFields, h, hm, FltTy.code_of_ofCode h0])) <|
  .ite (fun h => .bind fun _ h0 => .row hw (encode_vfmax ..) (by simp [HasFields, h, hm, FltTy.code_of_ofCode h0])) <|
  .none

theorem decode2C_encodes (hw : w < 2 ^ 32) (hm : fld w 26 6 = 0x2C) : Encodes w (decode2C w) :=
  .ite (fun h => .row hw (encode_vfmaF32 ..) (by simp [HasFields, h, hm])) <|
  .ite (fun h => .row hw (encode_vfmsF32 ..) (by simp [HasFields, h, hm])) <|
  .ite (fun h => .row hw (encode_vfnmaF32 ..) (by simp [HasFields, h, hm])) <|
  .ite (fun h => .row hw (encode_vfnmsF32 ..) (by simp [HasFields, h, hm])) <|
  .ite (fun h => .row hw (encode_vfmaBf16 ..) (by simp [HasFields, h, hm])) <|
  .ite (fun h => .row hw (encode_vfmsBf16 ..) (by simp [HasFields, h, hm])) <|
  .ite (fun h => .row hw (encode_vfmaF16 ..) (by simp [HasFields, h, hm])) <|
  .ite (fun h => .row hw (encode_vfmsF16 ..) (by simp [HasFields, h, hm])) <|
  .none

theorem decode2D_encodes (hw : w < 2 ^ 32) (hm : fld w 26 6 = 0x2D) : Encodes w (decode2D w) :=
  .ite (fun h => .bind fun _ h0 => .row hw (encode_vcvt ..) (by simp [HasFields, h, hm, RMode.code_of_ofCode h0])) <|
  .ite (fun h => .bind fun _ h0 => .row hw (encode_vcvti ..) (by simp [HasFields, h, hm, RMode.code_of_ofCode h0])) <|
  .ite (fun h => .bind fun _ h0 => .row hw (encode_vcvtf ..) (by simp [HasFields, h, hm, RMode.code_of_ofCode h0])) <|
  .ite (fun h => .bind fun _ h0 => .bind fun _ h1 => .row hw (encode_vpack ..) (by simp [HasFields, h, hm, RMode.code_of_ofCode h0, PackFmt.code_of_ofCode h1])) <|
  .ite (fun h => .bind fun _ h0 => .bind fun _ h1 => .row hw (encode_vunpk ..) (by simp [HasFields, h, hm, RMode.code_of_ofCode h0, PackFmt.code_of_ofCode h1])) <|
  .ite (fun h => .bind fun _ h0 => .bind fun _ h1 => .row hw (encode_vscale ..) (by simp [HasFields, h, hm, RMode.code_of_ofCode h0, FltTy.code_of_ofCode h1])) <|
  .none

theorem decode2E_encodes (hw : w < 2 ^ 32) (hm : fld w 26 6 = 0x2E) : Encodes w (decode2E w) :=
  .ite (fun h => .row hw (encode_vbcst ..) (by simp [HasFields, h, hm])) <|
  .ite (fun h => .row hw (encode_vext ..) (by simp [HasFields, h, hm])) <|
  .ite (fun h => .row hw (encode_vshuf ..) (by simp [HasFields, h, hm])) <|
  .ite (fun h => .row hw (encode_vins ..) (by simp [HasFields, h, hm])) <|
  .ite (fun h => .row hw (encode_vrot ..) (by simp [HasFields, h, hm])) <|
  .ite (fun h => .row hw (encode_vzip ..) (by simp [HasFields, h, hm])) <|
  .ite (fun h => .row hw (encode_vuzp ..) (by simp [HasFields, h, hm])) <|
  .none

theorem decode2F_encodes (hw : w < 2 ^ 32) (hm : fld w 26 6 = 0x2F) : Encodes w (decode2F w) :=
  .ite (fun h => .bind fun _ h0 => .row hw (encode_vredand ..) (by simp [HasFields, h, hm, IntTy.code_of_ofCode h0])) <|
  .ite (fun h => .bind fun _ h0 => .row hw (encode_vredor ..) (by simp [HasFields, h, hm, IntTy.code_of_ofCode h0])) <|
  .ite (fun h => .bind fun _ h0 => .row hw (encode_vredxor ..) (by simp [HasFields, h, hm, IntTy.code_of_ofCode h0])) <|
  .ite (fun h => .bind fun _ h0 => .row hw (encode_vredadd ..) (by simp [HasFields, h, hm, NumTy.code_of_ofCode h0])) <|
  .ite (fun h => .bind fun _ h0 => .row hw (encode_vredmax ..) (by simp [HasFields, h, hm, NumTy.code_of_ofCode h0])) <|
  .ite (fun h => .bind fun _ h0 => .row hw (encode_vredmin ..) (by simp [HasFields, h, hm, NumTy.code_of_ofCode h0])) <|
  .none

theorem decode30_encodes (hw : w < 2 ^ 32) (hm : fld w 26 6 = 0x30) : Encodes w (decode30 w) :=
  .ite (fun h => .row hw (encode_knot ..) (by simp [HasFields, h, hm])) <|
  .ite (fun h => .row hw (encode_kmov ..) (by simp [HasFields, h, hm])) <|
  .ite (fun h => .row hw (encode_kpop ..) (by simp [HasFields, h, hm])) <|
  .ite (fun h => .row hw (encode_kffs ..) (by simp [HasFields, h, hm])) <|
  .ite (fun h => .row hw (encode_kmovExpand ..) (by simp [HasFields, h, hm])) <|
  .ite (fun h => .row hw (encode_kmovFromG ..) (by simp [HasFields, h, hm])) <|
  .ite (fun h => .row hw (encode_kmovToG ..) (by simp [HasFields, h, hm])) <|
  .ite (fun h => .row hw (encode_kand ..) (by simp [HasFields, h, hm])) <|
  .ite (fun h => .row hw (encode_kor ..) (by simp [HasFields, h, hm])) <|
  .ite (fun h => .row hw (encode_kxor ..) (by simp [HasFields, h, hm])) <|
  .ite (fun h => .row hw (encode_vsel ..) (by simp [HasFields, h, hm])) <|
  .ite (fun h => .bind fun _ h0 => .bind fun _ h1 => .row hw (encode_vcmpInt ..) (by simp [HasFields, h, hm, Cond.code_of_ofCode h0, IntTy.code_of_ofCode h1])) <|
  .ite (fun h => .bind fun _ h0 => .bind fun _ h1 => .row hw (encode_vcmpFlt ..) (by simp [HasFields, h, hm, Cond.code_of_ofCode h0, FltTy.code_of_ofCode h1])) <|
  .none

theorem decode31_encodes (hw : w < 2 ^ 32) (hm : fld w 26 6 = 0x31) : Encodes w (decode31 w) :=
  .ite (fun h => .row hw (encode_vclz ..) (by simp [HasFields, h, hm])) <|
  .ite (fun h => .row hw (encode_vctz ..) (by simp [HasFields, h, hm])) <|
  .ite (fun h => .row hw (encode_vpopc ..) (by simp [HasFields, h, hm])) <|
  .ite (fun h => .row hw (encode_vlop3 ..) (by simp [HasFields, h, hm])) <|
  .ite (fun h => .row hw (encode_vfshl ..) (by simp [HasFields, h, hm])) <|
  .none

theorem decode32_encodes (hw : w < 2 ^ 32) (hm : fld w 26 6 = 0x32) : Encodes w (decode32 w) :=
  .ite (fun h => .row hw (encode_vrcp ..) (by simp [HasFields, h, hm])) <|
  .ite (fun h => .row hw (encode_vrsq ..) (by simp [HasFields, h, hm])) <|
  .ite (fun h => .row hw (encode_vsqrt ..) (by simp [HasFields, h, hm])) <|
  .ite (fun h => .row hw (encode_vexp2 ..) (by simp [HasFields, h, hm])) <|
  .ite (fun h => .row hw (encode_vlog2 ..) (by simp [HasFields, h, hm])) <|
  .none

theorem decode33_encodes (hw : w < 2 ^ 32) (hm : fld w 26 6 = 0x33) : Encodes w (decode33 w) :=
  .ite (fun h => .row hw (encode_vldb ..) (by simp [HasFields, h, hm])) <|
  .ite (fun h => .row hw (encode_vgath ..) (by simp [HasFields, h, hm])) <|
  .ite (fun h => .row hw (encode_vscat ..) (by simp [HasFields, h, hm])) <|
  .none

theorem decode3F_encodes (hw : w < 2 ^ 32) (hm : fld w 26 6 = 0x3F) : Encodes w (decode3F w) :=
  .ite (fun h => .row hw encode_nofold (by simp [HasFields, h, hm])) <|
  .ite (fun h => .row hw (encode_likely ..) (by simp [HasFields, h, hm])) <|
  .ite (fun h => .row hw (encode_prio ..) (by simp [HasFields, h, hm])) <|
  .ite (fun h => .row hw (encode_spin ..) (by simp [HasFields, h, hm])) <|
  .ite (fun h => .row hw (encode_rev ..) (by simp [HasFields, h, hm])) <|
  .ite (fun h => .row hw (encode_immx ..) (by simp [HasFields, h, hm])) <|
  .row hw (encode_hnop ..) (by simp [HasFields, hm])

theorem decodeMajor_encodes (hw : w < 2 ^ 32) : Encodes w (decodeMajor w) := by
  unfold decodeMajor
  split
  · exact decode01_encodes hw ‹_›
  · exact decode02_encodes hw ‹_›
  · exact decode03_encodes hw ‹_›
  · exact decode04_encodes hw ‹_›
  · exact decode05_encodes hw ‹_›
  · exact decode06_encodes hw ‹_›
  · exact decode07_encodes hw ‹_›
  · exact decode08_encodes hw ‹_›
  · exact decode09_encodes hw ‹_›
  · exact decode0A_encodes hw ‹_›
  · exact decode0B_encodes hw ‹_›
  · exact decode0C_encodes hw ‹_›
  · exact decode0D_encodes hw ‹_›
  · exact decode0E_encodes hw ‹_›
  · exact decode10_encodes hw ‹_›
  · exact decode11_encodes hw ‹_›
  · exact decode12_encodes hw ‹_›
  · exact decode13_encodes hw ‹_›
  · exact decode14_encodes hw ‹_›
  · exact decode15_encodes hw ‹_›
  · exact decode16_encodes hw ‹_›
  · exact decode17_encodes hw ‹_›
  · exact decode18_encodes hw ‹_›
  · exact decode19_encodes hw ‹_›
  · exact decode1A_encodes hw ‹_›
  · exact decode1B_encodes hw ‹_›
  · exact decode1C_encodes hw ‹_›
  · exact decode1D_encodes hw ‹_›
  · exact decode1E_encodes hw ‹_›
  · exact decode1F_encodes hw ‹_›
  · exact decode20_encodes hw ‹_›
  · exact decode21_encodes hw ‹_›
  · exact decode22_encodes hw ‹_›
  · exact decode23_encodes hw ‹_›
  · exact decode24_encodes hw ‹_›
  · exact decode25_encodes hw ‹_›
  · exact decode26_encodes hw ‹_›
  · exact decode27_encodes hw ‹_›
  · exact decode28_encodes hw ‹_›
  · exact decode29_encodes hw ‹_›
  · exact decode2A_encodes hw ‹_›
  · exact decode2B_encodes hw ‹_›
  · exact decode2C_encodes hw ‹_›
  · exact decode2D_encodes hw ‹_›
  · exact decode2E_encodes hw ‹_›
  · exact decode2F_encodes hw ‹_›
  · exact decode30_encodes hw ‹_›
  · exact decode31_encodes hw ‹_›
  · exact decode32_encodes hw ‹_›
  · exact decode33_encodes hw ‹_›
  · exact decode3F_encodes hw ‹_›
  · exact .none

end

theorem decodeWord_eq_ok_iff {w : Nat} {i : Instr} : decodeWord w = .ok i ↔ decodeMajor w = some i ∧ i.wf = true := by
  unfold decodeWord
  split
  · next j hj =>
    by_cases hi : j.wf = true
    · rw [if_pos hi, hj]
      constructor
      · intro h; cases h; exact ⟨rfl, hi⟩
      · rintro ⟨h, -⟩; cases h; rfl
    · rw [if_neg hi, hj]
      constructor
      · intro h; cases h
      · rintro ⟨h, hw⟩; cases h; exact absurd hw hi
  · next hn => simp [hn]

end Sys2Proof

open Sys2Proof in
/-- Settles O3, by the rows of the decoders. -/
theorem encodeOfDecode : Obligations.EncodeOfDecode := by
  unfold Obligations.EncodeOfDecode
  intro w i hw h
  obtain ⟨hi, hwf⟩ := decodeWord_eq_ok_iff.mp h
  exact ⟨decodeMajor_encodes hw i hi, hwf⟩
end

section
/-! O2. The word of an instruction decodes to it: the fixed bits of its word meet the guard of its own row, and one field of
them tells it from every row before. -/

namespace Sys2Proof
set_option Elab.async false

theorem decodeMajor_01 {w : Nat} (h : fld w 26 6 = 0x01) : decodeMajor w = decode01 w := by simp [decodeMajor, h]
theorem decodeMajor_02 {w : Nat} (h : fld w 26 6 = 0x02) : decodeMajor w = decode02 w := by simp [decodeMajor, h]
theorem decodeMajor_03 {w : Nat} (h : fld w 26 6 = 0x03) : decodeMajor w = decode03 w := by simp [decodeMajor, h]
theorem decodeMajor_04 {w : Nat} (h : fld w 26 6 = 0x04) : decodeMajor w = decode04 w := by simp [decodeMajor, h]
theorem decodeMajor_05 {w : Nat} (h : fld w 26 6 = 0x05) : decodeMajor w = decode05 w := by simp [decodeMajor, h]
theorem decodeMajor_06 {w : Nat} (h : fld w 26 6 = 0x06) : decodeMajor w = decode06 w := by simp [decodeMajor, h]
theorem decodeMajor_07 {w : Nat} (h : fld w 26 6 = 0x07) : decodeMajor w = decode07 w := by simp [decodeMajor, h]
theorem decodeMajor_08 {w : Nat} (h : fld w 26 6 = 0x08) : decodeMajor w = decode08 w := by simp [decodeMajor, h]
theorem decodeMajor_09 {w : Nat} (h : fld w 26 6 = 0x09) : decodeMajor w = decode09 w := by simp [decodeMajor, h]
theorem decodeMajor_0A {w : Nat} (h : fld w 26 6 = 0x0A) : decodeMajor w = decode0A w := by simp [decodeMajor, h]
theorem decodeMajor_0B {w : Nat} (h : fld w 26 6 = 0x0B) : decodeMajor w = decode0B w := by simp [decodeMajor, h]
theorem decodeMajor_0C {w : Nat} (h : fld w 26 6 = 0x0C) : decodeMajor w = decode0C w := by simp [decodeMajor, h]
theorem decodeMajor_0D {w : Nat} (h : fld w 26 6 = 0x0D) : decodeMajor w = decode0D w := by simp [decodeMajor, h]
theorem decodeMajor_0E {w : Nat} (h : fld w 26 6 = 0x0E) : decodeMajor w = decode0E w := by simp [decodeMajor, h]
theorem decodeMajor_10 {w : Nat} (h : fld w 26 6 = 0x10) : decodeMajor w = decode10 w := by simp [decodeMajor, h]
theorem decodeMajor_11 {w : Nat} (h : fld w 26 6 = 0x11) : decodeMajor w = decode11 w := by simp [decodeMajor, h]
theorem decodeMajor_12 {w : Nat} (h : fld w 26 6 = 0x12) : decodeMajor w = decode12 w := by simp [decodeMajor, h]
theorem decodeMajor_13 {w : Nat} (h : fld w 26 6 = 0x13) : decodeMajor w = decode13 w := by simp [decodeMajor, h]
theorem decodeMajor_14 {w : Nat} (h : fld w 26 6 = 0x14) : decodeMajor w = decode14 w := by simp [decodeMajor, h]
theorem decodeMajor_15 {w : Nat} (h : fld w 26 6 = 0x15) : decodeMajor w = decode15 w := by simp [decodeMajor, h]
theorem decodeMajor_16 {w : Nat} (h : fld w 26 6 = 0x16) : decodeMajor w = decode16 w := by simp [decodeMajor, h]
theorem decodeMajor_17 {w : Nat} (h : fld w 26 6 = 0x17) : decodeMajor w = decode17 w := by simp [decodeMajor, h]
theorem decodeMajor_18 {w : Nat} (h : fld w 26 6 = 0x18) : decodeMajor w = decode18 w := by simp [decodeMajor, h]
theorem decodeMajor_19 {w : Nat} (h : fld w 26 6 = 0x19) : decodeMajor w = decode19 w := by simp [decodeMajor, h]
theorem decodeMajor_1A {w : Nat} (h : fld w 26 6 = 0x1A) : decodeMajor w = decode1A w := by simp [decodeMajor, h]
theorem decodeMajor_1B {w : Nat} (h : fld w 26 6 = 0x1B) : decodeMajor w = decode1B w := by simp [decodeMajor, h]
theorem decodeMajor_1C {w : Nat} (h : fld w 26 6 = 0x1C) : decodeMajor w = decode1C w := by simp [decodeMajor, h]
theorem decodeMajor_1D {w : Nat} (h : fld w 26 6 = 0x1D) : decodeMajor w = decode1D w := by simp [decodeMajor, h]
theorem decodeMajor_1E {w : Nat} (h : fld w 26 6 = 0x1E) : decodeMajor w = decode1E w := by simp [decodeMajor, h]
theorem decodeMajor_1F {w : Nat} (h : fld w 26 6 = 0x1F) : decodeMajor w = decode1F w := by simp [decodeMajor, h]
theorem decodeMajor_20 {w : Nat} (h : fld w 26 6 = 0x20) : decodeMajor w = decode20 w := by simp [decodeMajor, h]
theorem decodeMajor_21 {w : Nat} (h : fld w 26 6 = 0x21) : decodeMajor w = decode21 w := by simp [decodeMajor, h]
theorem decodeMajor_22 {w : Nat} (h : fld w 26 6 = 0x22) : decodeMajor w = decode22 w := by simp [decodeMajor, h]
theorem decodeMajor_23 {w : Nat} (h : fld w 26 6 = 0x23) : decodeMajor w = decode23 w := by simp [decodeMajor, h]
theorem decodeMajor_24 {w : Nat} (h : fld w 26 6 = 0x24) : decodeMajor w = decode24 w := by simp [decodeMajor, h]
theorem decodeMajor_25 {w : Nat} (h : fld w 26 6 = 0x25) : decodeMajor w = decode25 w := by simp [decodeMajor, h]
theorem decodeMajor_26 {w : Nat} (h : fld w 26 6 = 0x26) : decodeMajor w = decode26 w := by simp [decodeMajor, h]
theorem decodeMajor_27 {w : Nat} (h : fld w 26 6 = 0x27) : decodeMajor w = decode27 w := by simp [decodeMajor, h]
theorem decodeMajor_28 {w : Nat} (h : fld w 26 6 = 0x28) : decodeMajor w = decode28 w := by simp [decodeMajor, h]
theorem decodeMajor_29 {w : Nat} (h : fld w 26 6 = 0x29) : decodeMajor w = decode29 w := by simp [decodeMajor, h]
theorem decodeMajor_2A {w : Nat} (h : fld w 26 6 = 0x2A) : decodeMajor w = decode2A w := by simp [decodeMajor, h]
theorem decodeMajor_2B {w : Nat} (h : fld w 26 6 = 0x2B) : decodeMajor w = decode2B w := by simp [decodeMajor, h]
theorem decodeMajor_2C {w : Nat} (h : fld w 26 6 = 0x2C) : decodeMajor w = decode2C w := by simp [decodeMajor, h]
theorem decodeMajor_2D {w : Nat} (h : fld w 26 6 = 0x2D) : decodeMajor w = decode2D w := by simp [decodeMajor, h]
theorem decodeMajor_2E {w : Nat} (h : fld w 26 6 = 0x2E) : decodeMajor w = decode2E w := by simp [decodeMajor, h]
theorem decodeMajor_2F {w : Nat} (h : fld w 26 6 = 0x2F) : decodeMajor w = decode2F w := by simp [decodeMajor, h]
theorem decodeMajor_30 {w : Nat} (h : fld w 26 6 = 0x30) : decodeMajor w = decode30 w := by simp [decodeMajor, h]
theorem decodeMajor_31 {w : Nat} (h : fld w 26 6 = 0x31) : decodeMajor w = decode31 w := by simp [decodeMajor, h]
theorem decodeMajor_32 {w : Nat} (h : fld w 26 6 = 0x32) : decodeMajor w = decode32 w := by simp [decodeMajor, h]
theorem decodeMajor_33 {w : Nat} (h : fld w 26 6 = 0x33) : decodeMajor w = decode33 w := by simp [decodeMajor, h]
theorem decodeMajor_3F {w : Nat} (h : fld w 26 6 = 0x3F) : decodeMajor w = decode3F w := by simp [decodeMajor, h]

/-- The word of a well-formed instruction has 32 bits, and its major opcode and function code give the instruction back. -/
def DecodesBack (i : Instr) : Prop := i.wf = true → ∀ w, encode i = some w → w < 2 ^ 32 ∧ decodeMajor w = some i

theorem DecodesBack.ofWf {i : Instr} {fs : List WordField} (he : encode i = some (packed fs))
    (hd : i.wf = true → ∀ w, HasFields w 0 fs → decodeMajor w = some i) (hs : (fs.map WordField.width).sum = 32 := by rfl) :
    DecodesBack i := by
  intro hi w hw
  rw [he] at hw
  cases hw
  exact ⟨hs ▸ packed_lt fs, hd hi _ (fields_packed fs)⟩

theorem DecodesBack.of {i : Instr} {fs : List WordField} (he : encode i = some (packed fs))
    (hd : ∀ w, HasFields w 0 fs → decodeMajor w = some i) (hs : (fs.map WordField.width).sum = 32 := by rfl) : DecodesBack i :=
  .ofWf he (fun _ => hd) hs

theorem DecodesBack.ofNone {i : Instr} (he : encode i = none) : DecodesBack i := fun _ w hw => by rw [he] at hw; cases hw

theorem DecodesBack.add (d a b : BitVec 6) : DecodesBack (.add d a b) :=
  .of (encode_add ..) fun w h => by simp [HasFields] at h; simp [decodeMajor_01, decode01, bf_eq_ofNat, h]
theorem DecodesBack.sub (d a b : BitVec 6) : DecodesBack (.sub d a b) :=
  .of (encode_sub ..) fun w h => by simp [HasFields] at h; simp [decodeMajor_01, decode01, bf_eq_ofNat, h]
theorem DecodesBack.and (d a b : BitVec 6) : DecodesBack (.and d a b) :=
  .of (encode_and ..) fun w h => by simp [HasFields] at h; simp [decodeMajor_01, decode01, bf_eq_ofNat, h]
theorem DecodesBack.or (d a b : BitVec 6) : DecodesBack (.or d a b) :=
  .of (encode_or ..) fun w h => by simp [HasFields] at h; simp [decodeMajor_01, decode01, bf_eq_ofNat, h]
theorem DecodesBack.xor (d a b : BitVec 6) : DecodesBack (.xor d a b) :=
  .of (encode_xor ..) fun w h => by simp [HasFields] at h; simp [decodeMajor_01, decode01, bf_eq_ofNat, h]
theorem DecodesBack.andn (d a b : BitVec 6) : DecodesBack (.andn d a b) :=
  .of (encode_andn ..) fun w h => by simp [HasFields] at h; simp [decodeMajor_01, decode01, bf_eq_ofNat, h]
theorem DecodesBack.orn (d a b : BitVec 6) : DecodesBack (.orn d a b) :=
  .of (encode_orn ..) fun w h => by simp [HasFields] at h; simp [decodeMajor_01, decode01, bf_eq_ofNat, h]
theorem DecodesBack.xnor (d a b : BitVec 6) : DecodesBack (.xnor d a b) :=
  .of (encode_xnor ..) fun w h => by simp [HasFields] at h; simp [decodeMajor_01, decode01, bf_eq_ofNat, h]
theorem DecodesBack.shl (d a b : BitVec 6) : DecodesBack (.shl d a b) :=
  .of (encode_shl ..) fun w h => by simp [HasFields] at h; simp [decodeMajor_01, decode01, bf_eq_ofNat, h]
theorem DecodesBack.shr (d a b : BitVec 6) : DecodesBack (.shr d a b) :=
  .of (encode_shr ..) fun w h => by simp [HasFields] at h; simp [decodeMajor_01, decode01, bf_eq_ofNat, h]
theorem DecodesBack.sar (d a b : BitVec 6) : DecodesBack (.sar d a b) :=
  .of (encode_sar ..) fun w h => by simp [HasFields] at h; simp [decodeMajor_01, decode01, bf_eq_ofNat, h]
theorem DecodesBack.rol (d a b : BitVec 6) : DecodesBack (.rol d a b) :=
  .of (encode_rol ..) fun w h => by simp [HasFields] at h; simp [decodeMajor_01, decode01, bf_eq_ofNat, h]
theorem DecodesBack.ror (d a b : BitVec 6) : DecodesBack (.ror d a b) :=
  .of (encode_ror ..) fun w h => by simp [HasFields] at h; simp [decodeMajor_01, decode01, bf_eq_ofNat, h]
theorem DecodesBack.slt (d a b : BitVec 6) : DecodesBack (.slt d a b) :=
  .of (encode_slt ..) fun w h => by simp [HasFields] at h; simp [decodeMajor_01, decode01, bf_eq_ofNat, h]
theorem DecodesBack.sltu (d a b : BitVec 6) : DecodesBack (.sltu d a b) :=
  .of (encode_sltu ..) fun w h => by simp [HasFields] at h; simp [decodeMajor_01, decode01, bf_eq_ofNat, h]
theorem DecodesBack.seq (d a b : BitVec 6) : DecodesBack (.seq d a b) :=
  .of (encode_seq ..) fun w h => by simp [HasFields] at h; simp [decodeMajor_01, decode01, bf_eq_ofNat, h]
theorem DecodesBack.sne (d a b : BitVec 6) : DecodesBack (.sne d a b) :=
  .of (encode_sne ..) fun w h => by simp [HasFields] at h; simp [decodeMajor_01, decode01, bf_eq_ofNat, h]
theorem DecodesBack.minS (d a b : BitVec 6) : DecodesBack (.minS d a b) :=
  .of (encode_minS ..) fun w h => by simp [HasFields] at h; simp [decodeMajor_01, decode01, bf_eq_ofNat, h]
theorem DecodesBack.maxS (d a b : BitVec 6) : DecodesBack (.maxS d a b) :=
  .of (encode_maxS ..) fun w h => by simp [HasFields] at h; simp [decodeMajor_01, decode01, bf_eq_ofNat, h]
theorem DecodesBack.minU (d a b : BitVec 6) : DecodesBack (.minU d a b) :=
  .of (encode_minU ..) fun w h => by simp [HasFields] at h; simp [decodeMajor_01, decode01, bf_eq_ofNat, h]
theorem DecodesBack.maxU (d a b : BitVec 6) : DecodesBack (.maxU d a b) :=
  .of (encode_maxU ..) fun w h => by simp [HasFields] at h; simp [decodeMajor_01, decode01, bf_eq_ofNat, h]
theorem DecodesBack.mul (d a b : BitVec 6) : DecodesBack (.mul d a b) :=
  .of (encode_mul ..) fun w h => by simp [HasFields] at h; simp [decodeMajor_01, decode01, bf_eq_ofNat, h]
theorem DecodesBack.mulh (d a b : BitVec 6) : DecodesBack (.mulh d a b) :=
  .of (encode_mulh ..) fun w h => by simp [HasFields] at h; simp [decodeMajor_01, decode01, bf_eq_ofNat, h]
theorem DecodesBack.mulhu (d a b : BitVec 6) : DecodesBack (.mulhu d a b) :=
  .of (encode_mulhu ..) fun w h => by simp [HasFields] at h; simp [decodeMajor_01, decode01, bf_eq_ofNat, h]
theorem DecodesBack.div (d a b : BitVec 6) : DecodesBack (.div d a b) :=
  .of (encode_div ..) fun w h => by simp [HasFields] at h; simp [decodeMajor_01, decode01, bf_eq_ofNat, h]
theorem DecodesBack.divu (d a b : BitVec 6) : DecodesBack (.divu d a b) :=
  .of (encode_divu ..) fun w h => by simp [HasFields] at h; simp [decodeMajor_01, decode01, bf_eq_ofNat, h]
theorem DecodesBack.rem (d a b : BitVec 6) : DecodesBack (.rem d a b) :=
  .of (encode_rem ..) fun w h => by simp [HasFields] at h; simp [decodeMajor_01, decode01, bf_eq_ofNat, h]
theorem DecodesBack.remu (d a b : BitVec 6) : DecodesBack (.remu d a b) :=
  .of (encode_remu ..) fun w h => by simp [HasFields] at h; simp [decodeMajor_01, decode01, bf_eq_ofNat, h]
theorem DecodesBack.addw (d a b : BitVec 6) : DecodesBack (.addw d a b) :=
  .of (encode_addw ..) fun w h => by simp [HasFields] at h; simp [decodeMajor_02, decode02, bf_eq_ofNat, h]
theorem DecodesBack.subw (d a b : BitVec 6) : DecodesBack (.subw d a b) :=
  .of (encode_subw ..) fun w h => by simp [HasFields] at h; simp [decodeMajor_02, decode02, bf_eq_ofNat, h]
theorem DecodesBack.shlw (d a b : BitVec 6) : DecodesBack (.shlw d a b) :=
  .of (encode_shlw ..) fun w h => by simp [HasFields] at h; simp [decodeMajor_02, decode02, bf_eq_ofNat, h]
theorem DecodesBack.shrw (d a b : BitVec 6) : DecodesBack (.shrw d a b) :=
  .of (encode_shrw ..) fun w h => by simp [HasFields] at h; simp [decodeMajor_02, decode02, bf_eq_ofNat, h]
theorem DecodesBack.sarw (d a b : BitVec 6) : DecodesBack (.sarw d a b) :=
  .of (encode_sarw ..) fun w h => by simp [HasFields] at h; simp [decodeMajor_02, decode02, bf_eq_ofNat, h]
theorem DecodesBack.mulw (d a b : BitVec 6) : DecodesBack (.mulw d a b) :=
  .of (encode_mulw ..) fun w h => by simp [HasFields] at h; simp [decodeMajor_02, decode02, bf_eq_ofNat, h]
theorem DecodesBack.clz (d a : BitVec 6) (w : Width) : DecodesBack (.clz d a w) :=
  .of (encode_clz ..) fun w h => by simp [HasFields] at h; simp [decodeMajor_03, decode03, bf_eq_ofNat, h]
theorem DecodesBack.ctz (d a : BitVec 6) (w : Width) : DecodesBack (.ctz d a w) :=
  .of (encode_ctz ..) fun w h => by simp [HasFields] at h; simp [decodeMajor_03, decode03, bf_eq_ofNat, h]
theorem DecodesBack.popc (d a : BitVec 6) (w : Width) : DecodesBack (.popc d a w) :=
  .of (encode_popc ..) fun w h => by simp [HasFields] at h; simp [decodeMajor_03, decode03, bf_eq_ofNat, h]
theorem DecodesBack.ffs (d a : BitVec 6) (w : Width) : DecodesBack (.ffs d a w) :=
  .of (encode_ffs ..) fun w h => by simp [HasFields] at h; simp [decodeMajor_03, decode03, bf_eq_ofNat, h]
theorem DecodesBack.brev (d a : BitVec 6) (w : Width) : DecodesBack (.brev d a w) :=
  .of (encode_brev ..) fun w h => by simp [HasFields] at h; simp [decodeMajor_03, decode03, bf_eq_ofNat, h]
theorem DecodesBack.bswap (d a : BitVec 6) (w : Width) : DecodesBack (.bswap d a w) :=
  .of (encode_bswap ..) fun w h => by simp [HasFields] at h; simp [decodeMajor_03, decode03, bf_eq_ofNat, h]
theorem DecodesBack.lop3 (d a : BitVec 6) (b : BitVec 5) (t : BitVec 8) : DecodesBack (.lop3 d a b t) :=
  .of (encode_lop3 ..) fun w h => by
    simp [HasFields] at h
    obtain ⟨h0, h8, h13, h14, h20, h26⟩ := h
    simp [decodeMajor_03, decode03, bf_eq_ofNat, fld_ne h13, h0, h8, h13, h14, h20, h26]
theorem DecodesBack.addi (d a : BitVec 6) (imm : BitVec 14) : DecodesBack (.addi d a imm) :=
  .of (encode_addi ..) fun w h => by simp [HasFields] at h; simp [decodeMajor_04, decode04, bf_eq_ofNat, h]
theorem DecodesBack.andi (d a : BitVec 6) (imm : BitVec 14) : DecodesBack (.andi d a imm) :=
  .of (encode_andi ..) fun w h => by simp [HasFields] at h; simp [decodeMajor_05, decode05, bf_eq_ofNat, h]
theorem DecodesBack.ori (d a : BitVec 6) (imm : BitVec 14) : DecodesBack (.ori d a imm) :=
  .of (encode_ori ..) fun w h => by simp [HasFields] at h; simp [decodeMajor_06, decode06, bf_eq_ofNat, h]
theorem DecodesBack.xori (d a : BitVec 6) (imm : BitVec 14) : DecodesBack (.xori d a imm) :=
  .of (encode_xori ..) fun w h => by simp [HasFields] at h; simp [decodeMajor_07, decode07, bf_eq_ofNat, h]
theorem DecodesBack.slti (d a : BitVec 6) (imm : BitVec 14) : DecodesBack (.slti d a imm) :=
  .of (encode_slti ..) fun w h => by simp [HasFields] at h; simp [decodeMajor_08, decode08, bf_eq_ofNat, h]
theorem DecodesBack.sltiu (d a : BitVec 6) (imm : BitVec 14) : DecodesBack (.sltiu d a imm) :=
  .of (encode_sltiu ..) fun w h => by simp [HasFields] at h; simp [decodeMajor_09, decode09, bf_eq_ofNat, h]
theorem DecodesBack.shli (d a n : BitVec 6) : DecodesBack (.shli d a n) :=
  .of (encode_shli ..) fun w h => by simp [HasFields] at h; simp [decodeMajor_0A, decode0A, bf_eq_ofNat, h]
theorem DecodesBack.shri (d a n : BitVec 6) : DecodesBack (.shri d a n) :=
  .of (encode_shri ..) fun w h => by simp [HasFields] at h; simp [decodeMajor_0A, decode0A, bf_eq_ofNat, h]
theorem DecodesBack.sari (d a n : BitVec 6) : DecodesBack (.sari d a n) :=
  .of (encode_sari ..) fun w h => by simp [HasFields] at h; simp [decodeMajor_0A, decode0A, bf_eq_ofNat, h]
theorem DecodesBack.rori (d a n : BitVec 6) : DecodesBack (.rori d a n) :=
  .of (encode_rori ..) fun w h => by simp [HasFields] at h; simp [decodeMajor_0A, decode0A, bf_eq_ofNat, h]
theorem DecodesBack.extz (d a p l : BitVec 6) : DecodesBack (.extz d a p l) :=
  .of (encode_extz ..) fun w h => by simp [HasFields] at h; simp [decodeMajor_0B, decode0B, bf_eq_ofNat, h]
theorem DecodesBack.exts (d a p l : BitVec 6) : DecodesBack (.exts d a p l) :=
  .of (encode_exts ..) fun w h => by simp [HasFields] at h; simp [decodeMajor_0B, decode0B, bf_eq_ofNat, h]
theorem DecodesBack.dep (d a p l : BitVec 6) : DecodesBack (.dep d a p l) :=
  .of (encode_dep ..) fun w h => by simp [HasFields] at h; simp [decodeMajor_0B, decode0B, bf_eq_ofNat, h]
theorem DecodesBack.lds (d a : BitVec 6) (imm : BitVec 12) (w : Width) : DecodesBack (.lds d a imm w) :=
  .of (encode_lds ..) fun w h => by simp [HasFields] at h; simp [decodeMajor_0C, decode0C, bf_eq_ofNat, h]
theorem DecodesBack.ldz (d a : BitVec 6) (imm : BitVec 12) (w : Width) : DecodesBack (.ldz d a imm w) :=
  .of (encode_ldz ..) fun w h => by simp [HasFields] at h; simp [decodeMajor_0D, decode0D, bf_eq_ofNat, h]
theorem DecodesBack.st (c a : BitVec 6) (imm : BitVec 12) (w : Width) : DecodesBack (.st c a imm w) :=
  .of (encode_st ..) fun w h => by simp [HasFields] at h; simp [decodeMajor_0E, decode0E, bf_eq_ofNat, h]
theorem DecodesBack.amoaddW (d a b : BitVec 6) (ord : Order) (sc : Scope) : DecodesBack (.amoaddW d a b ord sc) :=
  .of (encode_amoaddW ..) fun w h => by simp [HasFields] at h; simp [decodeMajor_10, decode10, bf_eq_ofNat, h]
theorem DecodesBack.amoandW (d a b : BitVec 6) (ord : Order) (sc : Scope) : DecodesBack (.amoandW d a b ord sc) :=
  .of (encode_amoandW ..) fun w h => by simp [HasFields] at h; simp [decodeMajor_10, decode10, bf_eq_ofNat, h]
theorem DecodesBack.amoorW (d a b : BitVec 6) (ord : Order) (sc : Scope) : DecodesBack (.amoorW d a b ord sc) :=
  .of (encode_amoorW ..) fun w h => by simp [HasFields] at h; simp [decodeMajor_10, decode10, bf_eq_ofNat, h]
theorem DecodesBack.amoxorW (d a b : BitVec 6) (ord : Order) (sc : Scope) : DecodesBack (.amoxorW d a b ord sc) :=
  .of (encode_amoxorW ..) fun w h => by simp [HasFields] at h; simp [decodeMajor_10, decode10, bf_eq_ofNat, h]
theorem DecodesBack.amominW (d a b : BitVec 6) (ord : Order) (sc : Scope) : DecodesBack (.amominW d a b ord sc) :=
  .of (encode_amominW ..) fun w h => by simp [HasFields] at h; simp [decodeMajor_10, decode10, bf_eq_ofNat, h]
theorem DecodesBack.amomaxW (d a b : BitVec 6) (ord : Order) (sc : Scope) : DecodesBack (.amomaxW d a b ord sc) :=
  .of (encode_amomaxW ..) fun w h => by simp [HasFields] at h; simp [decodeMajor_10, decode10, bf_eq_ofNat, h]
theorem DecodesBack.amominuW (d a b : BitVec 6) (ord : Order) (sc : Scope) : DecodesBack (.amominuW d a b ord sc) :=
  .of (encode_amominuW ..) fun w h => by simp [HasFields] at h; simp [decodeMajor_10, decode10, bf_eq_ofNat, h]
theorem DecodesBack.amomaxuW (d a b : BitVec 6) (ord : Order) (sc : Scope) : DecodesBack (.amomaxuW d a b ord sc) :=
  .of (encode_amomaxuW ..) fun w h => by simp [HasFields] at h; simp [decodeMajor_10, decode10, bf_eq_ofNat, h]
theorem DecodesBack.amoaddD (d a b : BitVec 6) (ord : Order) (sc : Scope) : DecodesBack (.amoaddD d a b ord sc) :=
  .of (encode_amoaddD ..) fun w h => by simp [HasFields] at h; simp [decodeMajor_11, decode11, bf_eq_ofNat, h]
theorem DecodesBack.amoandD (d a b : BitVec 6) (ord : Order) (sc : Scope) : DecodesBack (.amoandD d a b ord sc) :=
  .of (encode_amoandD ..) fun w h => by simp [HasFields] at h; simp [decodeMajor_11, decode11, bf_eq_ofNat, h]
theorem DecodesBack.amoorD (d a b : BitVec 6) (ord : Order) (sc : Scope) : DecodesBack (.amoorD d a b ord sc) :=
  .of (encode_amoorD ..) fun w h => by simp [HasFields] at h; simp [decodeMajor_11, decode11, bf_eq_ofNat, h]
theorem DecodesBack.amoxorD (d a b : BitVec 6) (ord : Order) (sc : Scope) : DecodesBack (.amoxorD d a b ord sc) :=
  .of (encode_amoxorD ..) fun w h => by simp [HasFields] at h; simp [decodeMajor_11, decode11, bf_eq_ofNat, h]
theorem DecodesBack.amominD (d a b : BitVec 6) (ord : Order) (sc : Scope) : DecodesBack (.amominD d a b ord sc) :=
  .of (encode_amominD ..) fun w h => by simp [HasFields] at h; simp [decodeMajor_11, decode11, bf_eq_ofNat, h]
theorem DecodesBack.amomaxD (d a b : BitVec 6) (ord : Order) (sc : Scope) : DecodesBack (.amomaxD d a b ord sc) :=
  .of (encode_amomaxD ..) fun w h => by simp [HasFields] at h; simp [decodeMajor_11, decode11, bf_eq_ofNat, h]
theorem DecodesBack.amominuD (d a b : BitVec 6) (ord : Order) (sc : Scope) : DecodesBack (.amominuD d a b ord sc) :=
  .of (encode_amominuD ..) fun w h => by simp [HasFields] at h; simp [decodeMajor_11, decode11, bf_eq_ofNat, h]
theorem DecodesBack.amomaxuD (d a b : BitVec 6) (ord : Order) (sc : Scope) : DecodesBack (.amomaxuD d a b ord sc) :=
  .of (encode_amomaxuD ..) fun w h => by simp [HasFields] at h; simp [decodeMajor_11, decode11, bf_eq_ofNat, h]
theorem DecodesBack.ldo (d a : BitVec 6) (ord : Order) (sc : Scope) (dw : Bool) : DecodesBack (.ldo d a ord sc dw) :=
  .of (encode_ldo ..) fun w h => by simp [HasFields] at h; simp [decodeMajor_12, decode12, bf_eq_ofNat, h]
theorem DecodesBack.sto (a b : BitVec 6) (ord : Order) (sc : Scope) (dw : Bool) : DecodesBack (.sto a b ord sc dw) :=
  .of (encode_sto ..) fun w h => by simp [HasFields] at h; simp [decodeMajor_12, decode12, bf_eq_ofNat, h]
theorem DecodesBack.swp (d a b : BitVec 6) (ord : Order) (sc : Scope) (dw : Bool) : DecodesBack (.swp d a b ord sc dw) :=
  .of (encode_swp ..) fun w h => by simp [HasFields] at h; simp [decodeMajor_12, decode12, bf_eq_ofNat, h]
theorem DecodesBack.cas (d a b : BitVec 6) (ord : Order) (sc : Scope) (dw : Bool) : DecodesBack (.cas d a b ord sc dw) :=
  .of (encode_cas ..) fun w h => by simp [HasFields] at h; simp [decodeMajor_12, decode12, bf_eq_ofNat, h]
theorem DecodesBack.redadd (dw : Bool) (a b : BitVec 6) (rel : Bool) (sc : Scope) : DecodesBack (.redadd dw a b rel sc) :=
  .of (encode_redadd ..) fun w h => by simp [HasFields] at h; simp [decodeMajor_13, decode13, bf_eq_ofNat, h]
theorem DecodesBack.redand (dw : Bool) (a b : BitVec 6) (rel : Bool) (sc : Scope) : DecodesBack (.redand dw a b rel sc) :=
  .of (encode_redand ..) fun w h => by simp [HasFields] at h; simp [decodeMajor_13, decode13, bf_eq_ofNat, h]
theorem DecodesBack.redor (dw : Bool) (a b : BitVec 6) (rel : Bool) (sc : Scope) : DecodesBack (.redor dw a b rel sc) :=
  .of (encode_redor ..) fun w h => by simp [HasFields] at h; simp [decodeMajor_13, decode13, bf_eq_ofNat, h]
theorem DecodesBack.redxor (dw : Bool) (a b : BitVec 6) (rel : Bool) (sc : Scope) : DecodesBack (.redxor dw a b rel sc) :=
  .of (encode_redxor ..) fun w h => by simp [HasFields] at h; simp [decodeMajor_13, decode13, bf_eq_ofNat, h]
theorem DecodesBack.redmin (dw : Bool) (a b : BitVec 6) (rel : Bool) (sc : Scope) : DecodesBack (.redmin dw a b rel sc) :=
  .of (encode_redmin ..) fun w h => by simp [HasFields] at h; simp [decodeMajor_13, decode13, bf_eq_ofNat, h]
theorem DecodesBack.redmax (dw : Bool) (a b : BitVec 6) (rel : Bool) (sc : Scope) : DecodesBack (.redmax dw a b rel sc) :=
  .of (encode_redmax ..) fun w h => by simp [HasFields] at h; simp [decodeMajor_13, decode13, bf_eq_ofNat, h]
theorem DecodesBack.redminu (dw : Bool) (a b : BitVec 6) (rel : Bool) (sc : Scope) : DecodesBack (.redminu dw a b rel sc) :=
  .of (encode_redminu ..) fun w h => by simp [HasFields] at h; simp [decodeMajor_13, decode13, bf_eq_ofNat, h]
theorem DecodesBack.redmaxu (dw : Bool) (a b : BitVec 6) (rel : Bool) (sc : Scope) : DecodesBack (.redmaxu dw a b rel sc) :=
  .of (encode_redmaxu ..) fun w h => by simp [HasFields] at h; simp [decodeMajor_13, decode13, bf_eq_ofNat, h]
theorem DecodesBack.redacc (d a b : BitVec 6) (rel : Bool) (sc : Scope) : DecodesBack (.redacc d a b rel sc) :=
  .of (encode_redacc ..) fun w h => by simp [HasFields] at h; simp [decodeMajor_13, decode13, bf_eq_ofNat, h]
theorem DecodesBack.fenceE (sc : Scope) : DecodesBack (.fenceE sc) :=
  .of (encode_fenceE ..) fun w h => by simp [HasFields] at h; simp [decodeMajor_14, decode14, h]
theorem DecodesBack.fence (e : BitVec 4) (sc : Scope) : DecodesBack (.fence e sc) :=
  .of (encode_fence ..) fun w h => by
    simp [HasFields] at h
    obtain ⟨h0, h3, h6, h8, h12, h26⟩ := h
    simp [decodeMajor_14, decode14, bf_eq_ofNat, fld_ne h6, h0, h3, h6, h8, h12, h26]
theorem DecodesBack.wbr (a b : BitVec 6) (sc : Scope) : DecodesBack (.wbr a b sc) :=
  .of (encode_wbr ..) fun w h => by
    simp [HasFields] at h
    obtain ⟨h0, h3, h6, h8, h14, h20, h26⟩ := h
    simp [decodeMajor_14, decode14, bf_eq_ofNat, fld_ne h6, h0, h3, h6, h8, h14, h20, h26]
theorem DecodesBack.invr (a b : BitVec 6) (sc : Scope) : DecodesBack (.invr a b sc) :=
  .of (encode_invr ..) fun w h => by
    simp [HasFields] at h
    obtain ⟨h0, h3, h6, h8, h14, h20, h26⟩ := h
    simp [decodeMajor_14, decode14, bf_eq_ofNat, fld_ne h6, h0, h3, h6, h8, h14, h20, h26]
theorem DecodesBack.arrive (n : BitVec 2) : DecodesBack (.arrive n) :=
  .of (encode_arrive ..) fun w h => by simp [HasFields] at h; simp [decodeMajor_15, decode15, bf_eq_ofNat, h]
theorem DecodesBack.arriveSnap (n : BitVec 2) : DecodesBack (.arriveSnap n) :=
  .of (encode_arriveSnap ..) fun w h => by simp [HasFields] at h; simp [decodeMajor_15, decode15, bf_eq_ofNat, h]
theorem DecodesBack.brst (n : BitVec 2) : DecodesBack (.brst n) :=
  .of (encode_brst ..) fun w h => by simp [HasFields] at h; simp [decodeMajor_15, decode15, bf_eq_ofNat, h]
theorem DecodesBack.wait (d : BitVec 6) (n : BitVec 2) : DecodesBack (.wait d n) :=
  .of (encode_wait ..) fun w h => by
    simp [HasFields] at h
    obtain ⟨h0, h2, h20, h26⟩ := h
    simp [decodeMajor_15, decode15, bf_eq_ofNat, fld_ne h2, h0, h2, h20, h26]
theorem DecodesBack.bstat (d : BitVec 6) (n : BitVec 2) : DecodesBack (.bstat d n) :=
  .of (encode_bstat ..) fun w h => by
    simp [HasFields] at h
    obtain ⟨h0, h2, h20, h26⟩ := h
    simp [decodeMajor_15, decode15, bf_eq_ofNat, fld_ne h2, h0, h2, h20, h26]
theorem DecodesBack.bset (a : BitVec 6) (n : BitVec 2) : DecodesBack (.bset a n) :=
  .of (encode_bset ..) fun w h => by
    simp [HasFields] at h
    obtain ⟨h0, h2, h14, h20, h26⟩ := h
    simp [decodeMajor_15, decode15, bf_eq_ofNat, fld_ne h2, h0, h2, h14, h20, h26]
theorem DecodesBack.endCtx : DecodesBack .endCtx :=
  .of encode_endCtx fun w h => by simp [HasFields] at h; simp [decodeMajor_16, decode16, h]
theorem DecodesBack.yield : DecodesBack .yield :=
  .of encode_yield fun w h => by simp [HasFields] at h; simp [decodeMajor_16, decode16, h]
theorem DecodesBack.fuse : DecodesBack .fuse :=
  .of encode_fuse fun w h => by simp [HasFields] at h; simp [decodeMajor_16, decode16, h]
theorem DecodesBack.split : DecodesBack .split :=
  .of encode_split fun w h => by simp [HasFields] at h; simp [decodeMajor_16, decode16, h]
theorem DecodesBack.stop (n : BitVec 6) : DecodesBack (.stop n) :=
  .of (encode_stop ..) fun w h => by
    simp [HasFields] at h
    obtain ⟨h0, h20, h26⟩ := h
    simp [decodeMajor_16, decode16, bf_eq_ofNat, fld_ne h0, h0, h20, h26]
theorem DecodesBack.join (d n : BitVec 6) : DecodesBack (.join d n) :=
  .of (encode_join ..) fun w h => by
    simp [HasFields] at h
    obtain ⟨h0, h14, h20, h26⟩ := h
    simp [decodeMajor_16, decode16, bf_eq_ofNat, fld_ne h0, h0, h14, h20, h26]
theorem DecodesBack.start (n a b : BitVec 6) : DecodesBack (.start n a b) :=
  .of (encode_start ..) fun w h => by
    simp [HasFields] at h
    obtain ⟨h0, h8, h14, h20, h26⟩ := h
    simp [decodeMajor_16, decode16, bf_eq_ofNat, fld_ne h0, h0, h8, h14, h20, h26]
theorem DecodesBack.eret : DecodesBack .eret :=
  .of encode_eret fun w h => by simp [HasFields] at h; simp [decodeMajor_17, decode17, h]
theorem DecodesBack.halt : DecodesBack .halt :=
  .of encode_halt fun w h => by simp [HasFields] at h; simp [decodeMajor_17, decode17, h]
theorem DecodesBack.trap (c : BitVec 8) : DecodesBack (.trap c) :=
  .of (encode_trap ..) fun w h => by
    simp [HasFields] at h
    obtain ⟨h0, h8, h26⟩ := h
    simp [decodeMajor_17, decode17, bf_eq_ofNat, fld_ne h8, h0, h8, h26]
theorem DecodesBack.digest (d : BitVec 5) (a : BitVec 6) : DecodesBack (.digest d a) :=
  .of (encode_digest ..) fun w h => by
    simp [HasFields] at h
    obtain ⟨h0, h14, h20, h25, h26⟩ := h
    simp [decodeMajor_17, decode17, bf_eq_ofNat, fld_ne h0, h0, h14, h20, h25, h26]
theorem DecodesBack.touch (d a : BitVec 6) : DecodesBack (.touch d a) :=
  .of (encode_touch ..) fun w h => by
    simp [HasFields] at h
    obtain ⟨h0, h14, h20, h26⟩ := h
    simp [decodeMajor_17, decode17, bf_eq_ofNat, fld_ne h0, h0, h14, h20, h26]
theorem DecodesBack.digestN (d a : BitVec 6) : DecodesBack (.digestN d a) :=
  .of (encode_digestN ..) fun w h => by
    simp [HasFields] at h
    obtain ⟨h0, h14, h20, h26⟩ := h
    simp [decodeMajor_17, decode17, bf_eq_ofNat, fld_ne h0, h0, h14, h20, h26]
theorem DecodesBack.objinv (a : BitVec 6) (sc : Scope) : DecodesBack (.objinv a sc) :=
  .of (encode_objinv ..) fun w h => by
    simp [HasFields] at h
    obtain ⟨h0, h8, h14, h20, h26⟩ := h
    simp [decodeMajor_17, decode17, bf_eq_ofNat, fld_ne h8, h0, h8, h14, h20, h26]
theorem DecodesBack.gets (d : BitVec 6) (r : BitVec 12) : DecodesBack (.gets d r) :=
  .of (encode_gets ..) fun w h => by
    simp [HasFields] at h
    obtain ⟨h0, h12, h20, h26⟩ := h
    simp [decodeMajor_17, decode17, bf_eq_ofNat, fld_ne h12, h0, h12, h20, h26]
theorem DecodesBack.sets (a : BitVec 6) (r : BitVec 12) : DecodesBack (.sets a r) :=
  .of (encode_sets ..) fun w h => by
    simp [HasFields] at h
    obtain ⟨h0, h12, h14, h20, h26⟩ := h
    simp [decodeMajor_17, decode17, bf_eq_ofNat, fld_ne h12, h0, h12, h14, h20, h26]
theorem DecodesBack.einj (c a : BitVec 6) (tier : Tier) : DecodesBack (.einj c a tier) :=
  .of (encode_einj ..) fun w h => by
    simp [HasFields] at h
    obtain ⟨h0, h8, h14, h20, h26⟩ := h
    simp [decodeMajor_17, decode17, bf_eq_ofNat, fld_ne h8, h0, h8, h14, h20, h26]
theorem DecodesBack.beq (c a : BitVec 6) (imm : BitVec 14) : DecodesBack (.beq c a imm) :=
  .of (encode_beq ..) fun w h => by simp [HasFields] at h; simp [decodeMajor_18, decode18, bf_eq_ofNat, h]
theorem DecodesBack.bne (c a : BitVec 6) (imm : BitVec 14) : DecodesBack (.bne c a imm) :=
  .of (encode_bne ..) fun w h => by simp [HasFields] at h; simp [decodeMajor_19, decode19, bf_eq_ofNat, h]
theorem DecodesBack.blt (c a : BitVec 6) (imm : BitVec 14) : DecodesBack (.blt c a imm) :=
  .of (encode_blt ..) fun w h => by simp [HasFields] at h; simp [decodeMajor_1A, decode1A, bf_eq_ofNat, h]
theorem DecodesBack.bge (c a : BitVec 6) (imm : BitVec 14) : DecodesBack (.bge c a imm) :=
  .of (encode_bge ..) fun w h => by simp [HasFields] at h; simp [decodeMajor_1B, decode1B, bf_eq_ofNat, h]
theorem DecodesBack.bltu (c a : BitVec 6) (imm : BitVec 14) : DecodesBack (.bltu c a imm) :=
  .of (encode_bltu ..) fun w h => by simp [HasFields] at h; simp [decodeMajor_1C, decode1C, bf_eq_ofNat, h]
theorem DecodesBack.bgeu (c a : BitVec 6) (imm : BitVec 14) : DecodesBack (.bgeu c a imm) :=
  .of (encode_bgeu ..) fun w h => by simp [HasFields] at h; simp [decodeMajor_1D, decode1D, bf_eq_ofNat, h]
theorem DecodesBack.jal (imm : BitVec 26) : DecodesBack (.jal imm) :=
  .of (encode_jal ..) fun w h => by simp [HasFields] at h; simp [decodeMajor_1E, decode1E, bf_eq_ofNat, h]
theorem DecodesBack.jalr (d a : BitVec 6) (imm : BitVec 14) : DecodesBack (.jalr d a imm) :=
  .of (encode_jalr ..) fun w h => by simp [HasFields] at h; simp [decodeMajor_1F, decode1F, bf_eq_ofNat, h]
theorem DecodesBack.waitf (h : BitVec 3) (m : BitVec 4) : DecodesBack (.waitf h m) :=
  .of (encode_waitf ..) fun w h => by simp [HasFields] at h; simp [decodeMajor_20, decode20, bf_eq_ofNat, h]
theorem DecodesBack.waite (h : BitVec 3) (m : BitVec 4) : DecodesBack (.waite h m) :=
  .of (encode_waite ..) fun w h => by simp [HasFields] at h; simp [decodeMajor_20, decode20, bf_eq_ofNat, h]
theorem DecodesBack.advp (h : BitVec 3) (m : BitVec 4) : DecodesBack (.advp h m) :=
  .of (encode_advp ..) fun w h => by simp [HasFields] at h; simp [decodeMajor_20, decode20, bf_eq_ofNat, h]
theorem DecodesBack.advc (h : BitVec 3) (m : BitVec 4) : DecodesBack (.advc h m) :=
  .of (encode_advc ..) fun w h => by simp [HasFields] at h; simp [decodeMajor_20, decode20, bf_eq_ofNat, h]
theorem DecodesBack.rset (h : BitVec 3) (a : BitVec 6) : DecodesBack (.rset h a) :=
  .of (encode_rset ..) fun w h => by
    simp [HasFields] at h
    obtain ⟨h0, h14, h20, h23, h26⟩ := h
    simp [decodeMajor_20, decode20, bf_eq_ofNat, fld_ne h0, h0, h14, h20, h23, h26]
theorem DecodesBack.rstat (d : BitVec 6) (h : BitVec 3) (w : BitVec 1) : DecodesBack (.rstat d h w) :=
  .of (encode_rstat ..) fun w h => by
    simp [HasFields] at h
    obtain ⟨h0, h1, h14, h17, h20, h26⟩ := h
    simp [decodeMajor_20, decode20, bf_eq_ofNat, fld_ne h1, h0, h1, h14, h17, h20, h26]
theorem DecodesBack.cpyc (r : BitVec 6) : DecodesBack (.cpyc r) :=
  .of (encode_cpyc ..) fun w h => by simp [HasFields] at h; simp [decodeMajor_21, decode21, bf_eq_ofNat, h]
theorem DecodesBack.cpyq (a t : BitVec 6) : DecodesBack (.cpyq a t) :=
  .of (encode_cpyq ..) fun w h => by
    simp [HasFields] at h
    obtain ⟨h0, h8, h14, h20, h26⟩ := h
    simp [decodeMajor_21, decode21, bf_eq_ofNat, fld_ne h0, h0, h8, h14, h20, h26]
theorem DecodesBack.cpy (a b t : BitVec 6) : DecodesBack (.cpy a b t) :=
  .of (encode_cpy ..) fun w h => by
    simp [HasFields] at h
    obtain ⟨h0, h8, h14, h20, h26⟩ := h
    simp [decodeMajor_21, decode21, bf_eq_ofNat, fld_ne h0, h0, h8, h14, h20, h26]
theorem DecodesBack.cpyr (a b t : BitVec 6) (sc : Scope) (z : BitVec 3) : DecodesBack (.cpyr a b t sc z) :=
  .of (encode_cpyr ..) fun w h => by
    simp [HasFields] at h
    obtain ⟨h0, h3, h6, h8, h14, h20, h26⟩ := h
    simp [decodeMajor_21, decode21, bf_eq_ofNat, fld_ne h6, h0, h3, h6, h8, h14, h20, h26]
theorem DecodesBack.mma (a b t : BitVec 6) (tile : BitVec 3) : DecodesBack (.mma a b t tile) :=
  .of (encode_mma ..) fun w h => by simp [HasFields] at h; simp [decodeMajor_22, decode22, bf_eq_ofNat, h]
theorem DecodesBack.mmar (a b t : BitVec 6) (tile : BitVec 3) : DecodesBack (.mmar a b t tile) :=
  .of (encode_mmar ..) fun w h => by simp [HasFields] at h; simp [decodeMajor_22, decode22, bf_eq_ofNat, h]
theorem DecodesBack.mmaz (a b t : BitVec 6) (tile : BitVec 3) : DecodesBack (.mmaz a b t tile) :=
  .of (encode_mmaz ..) fun w h => by simp [HasFields] at h; simp [decodeMajor_22, decode22, bf_eq_ofNat, h]
theorem DecodesBack.efence : DecodesBack .efence :=
  .of encode_efence fun w h => by simp [HasFields] at h; simp [decodeMajor_23, decode23, h]
theorem DecodesBack.minit (a t : BitVec 6) (tile : BitVec 3) : DecodesBack (.minit a t tile) :=
  .of (encode_minit ..) fun w h => by
    simp [HasFields] at h
    obtain ⟨h0, h3, h8, h14, h20, h26⟩ := h
    simp [decodeMajor_23, decode23, bf_eq_ofNat, fld_ne h3, h0, h3, h8, h14, h20, h26]
theorem DecodesBack.msta (a t : BitVec 6) (tile : BitVec 3) : DecodesBack (.msta a t tile) :=
  .of (encode_msta ..) fun w h => by
    simp [HasFields] at h
    obtain ⟨h0, h3, h8, h14, h20, h26⟩ := h
    simp [decodeMajor_23, decode23, bf_eq_ofNat, fld_ne h3, h0, h3, h8, h14, h20, h26]
theorem DecodesBack.mstat (a t : BitVec 6) (tile : BitVec 3) : DecodesBack (.mstat a t tile) :=
  .of (encode_mstat ..) fun w h => by
    simp [HasFields] at h
    obtain ⟨h0, h3, h8, h14, h20, h26⟩ := h
    simp [decodeMajor_23, decode23, bf_eq_ofNat, fld_ne h3, h0, h3, h8, h14, h20, h26]
theorem DecodesBack.mshad (a t : BitVec 6) (tile : BitVec 3) : DecodesBack (.mshad a t tile) :=
  .of (encode_mshad ..) fun w h => by
    simp [HasFields] at h
    obtain ⟨h0, h3, h8, h14, h20, h26⟩ := h
    simp [decodeMajor_23, decode23, bf_eq_ofNat, fld_ne h3, h0, h3, h8, h14, h20, h26]
theorem DecodesBack.mcfg (a b t : BitVec 6) : DecodesBack (.mcfg a b t) :=
  .of (encode_mcfg ..) fun w h => by
    simp [HasFields] at h
    obtain ⟨h0, h8, h14, h20, h26⟩ := h
    simp [decodeMajor_23, decode23, bf_eq_ofNat, fld_ne h0, h0, h8, h14, h20, h26]
theorem DecodesBack.mcfgRd (a b t : BitVec 6) : DecodesBack (.mcfgRd a b t) :=
  .of (encode_mcfgRd ..) fun w h => by
    simp [HasFields] at h
    obtain ⟨h0, h8, h14, h20, h26⟩ := h
    simp [decodeMajor_23, decode23, bf_eq_ofNat, fld_ne h0, h0, h8, h14, h20, h26]
theorem DecodesBack.mrdv (a : BitVec 6) (v : BitVec 5) (t : BitVec 6) (tile : BitVec 3) : DecodesBack (.mrdv a v t tile) :=
  .of (encode_mrdv ..) fun w h => by
    simp [HasFields] at h
    obtain ⟨h0, h3, h8, h14, h19, h20, h26⟩ := h
    simp [decodeMajor_23, decode23, bf_eq_ofNat, fld_ne h3, h0, h3, h8, h14, h19, h20, h26]
theorem DecodesBack.mrd (a b t : BitVec 6) (tile : BitVec 3) : DecodesBack (.mrd a b t tile) :=
  .of (encode_mrd ..) fun w h => by
    simp [HasFields] at h
    obtain ⟨h0, h3, h8, h14, h20, h26⟩ := h
    simp [decodeMajor_23, decode23, bf_eq_ofNat, fld_ne h3, h0, h3, h8, h14, h20, h26]
theorem DecodesBack.mlda (a b t : BitVec 6) (tile : BitVec 3) : DecodesBack (.mlda a b t tile) :=
  .of (encode_mlda ..) fun w h => by
    simp [HasFields] at h
    obtain ⟨h0, h3, h8, h14, h20, h26⟩ := h
    simp [decodeMajor_23, decode23, bf_eq_ofNat, fld_ne h3, h0, h3, h8, h14, h20, h26]
theorem DecodesBack.mldaAdd (a b t : BitVec 6) (tile : BitVec 3) : DecodesBack (.mldaAdd a b t tile) :=
  .of (encode_mldaAdd ..) fun w h => by
    simp [HasFields] at h
    obtain ⟨h0, h3, h8, h14, h20, h26⟩ := h
    simp [decodeMajor_23, decode23, bf_eq_ofNat, fld_ne h3, h0, h3, h8, h14, h20, h26]
theorem DecodesBack.tready (a : BitVec 6) (n : BitVec 2) : DecodesBack (.tready a n) :=
  .of (encode_tready ..) fun w h => by simp [HasFields] at h; simp [decodeMajor_24, decode24, bf_eq_ofNat, h]
theorem DecodesBack.cgrp (a t : BitVec 6) (n : BitVec 2) : DecodesBack (.cgrp a t n) :=
  .of (encode_cgrp ..) fun w h => by
    simp [HasFields] at h
    obtain ⟨h0, h2, h8, h14, h20, h26⟩ := h
    simp [decodeMajor_24, decode24, bf_eq_ofNat, fld_ne h2, h0, h2, h8, h14, h20, h26]
theorem DecodesBack.ctab (a t : BitVec 6) (n : BitVec 2) : DecodesBack (.ctab a t n) :=
  .of (encode_ctab ..) fun w h => by
    simp [HasFields] at h
    obtain ⟨h0, h2, h8, h14, h20, h26⟩ := h
    simp [decodeMajor_24, decode24, bf_eq_ofNat, fld_ne h2, h0, h2, h8, h14, h20, h26]
theorem DecodesBack.cstart (a t : BitVec 6) (n : BitVec 2) : DecodesBack (.cstart a t n) :=
  .of (encode_cstart ..) fun w h => by
    simp [HasFields] at h
    obtain ⟨h0, h2, h8, h14, h20, h26⟩ := h
    simp [decodeMajor_24, decode24, bf_eq_ofNat, fld_ne h2, h0, h2, h8, h14, h20, h26]
theorem DecodesBack.cwait (a t : BitVec 6) (n : BitVec 2) : DecodesBack (.cwait a t n) :=
  .of (encode_cwait ..) fun w h => by
    simp [HasFields] at h
    obtain ⟨h0, h2, h8, h14, h20, h26⟩ := h
    simp [decodeMajor_24, decode24, bf_eq_ofNat, fld_ne h2, h0, h2, h8, h14, h20, h26]
theorem DecodesBack.rmask (k : BitVec 3) (b : BitVec 5) : DecodesBack (.rmask k b) :=
  .of (encode_rmask ..) fun w h => by simp [HasFields] at h; simp [decodeMajor_25, decode25, bf_eq_ofNat, h]
theorem DecodesBack.rdraw (d b : BitVec 5) : DecodesBack (.rdraw d b) :=
  .of (encode_rdraw ..) fun w h => by simp [HasFields] at h; simp [decodeMajor_25, decode25, bf_eq_ofNat, h]
theorem DecodesBack.rkey (d b : BitVec 5) : DecodesBack (.rkey d b) :=
  .of (encode_rkey ..) fun w h => by simp [HasFields] at h; simp [decodeMajor_25, decode25, bf_eq_ofNat, h]
theorem DecodesBack.rvec (d b : BitVec 5) (k : BitVec 3) : DecodesBack (.rvec d b k) :=
  .of (encode_rvec ..) fun w h => by
    simp [HasFields] at h
    obtain ⟨h0, h8, h11, h16, h21, h26⟩ := h
    simp [decodeMajor_25, decode25, bf_eq_ofNat, fld_ne h0, h0, h8, h11, h16, h21, h26]
theorem DecodesBack.launch (d a : BitVec 6) : DecodesBack (.launch d a) :=
  .of (encode_launch ..) fun w h => by simp [HasFields] at h; simp [decodeMajor_26, decode26, bf_eq_ofNat, h]
theorem DecodesBack.depdec (d a : BitVec 6) : DecodesBack (.depdec d a) :=
  .of (encode_depdec ..) fun w h => by simp [HasFields] at h; simp [decodeMajor_26, decode26, bf_eq_ofNat, h]
theorem DecodesBack.tcbq (d a : BitVec 6) : DecodesBack (.tcbq d a) :=
  .of (encode_tcbq ..) fun w h => by simp [HasFields] at h; simp [decodeMajor_26, decode26, bf_eq_ofNat, h]
theorem DecodesBack.recvmCfg (a : BitVec 6) : DecodesBack (.recvmCfg a) :=
  .of (encode_recvmCfg ..) fun w h => by simp [HasFields] at h; simp [decodeMajor_27, decode27, bf_eq_ofNat, h]
theorem DecodesBack.sendm (a b t : BitVec 6) (nb : Bool) : DecodesBack (.sendm a b t nb) :=
  .of (encode_sendm ..) fun w h => by
    simp [HasFields] at h
    obtain ⟨h0, h5, h6, h8, h14, h20, h26⟩ := h
    simp [decodeMajor_27, decode27, bf_eq_ofNat, fld_ne h6, h0, h5, h6, h8, h14, h20, h26]
theorem DecodesBack.recvm (a b t : BitVec 6) (nb : Bool) : DecodesBack (.recvm a b t nb) :=
  .of (encode_recvm ..) fun w h => by
    simp [HasFields] at h
    obtain ⟨h0, h5, h6, h8, h14, h20, h26⟩ := h
    simp [decodeMajor_27, decode27, bf_eq_ofNat, fld_ne h6, h0, h5, h6, h8, h14, h20, h26]
theorem DecodesBack.vld (v : BitVec 5) (a : BitVec 6) (k : BitVec 3) (imm : BitVec 12) : DecodesBack (.vld v a k imm) :=
  .of (encode_vld ..) fun w h => by simp [HasFields] at h; simp [decodeMajor_28, decode28, bf_eq_ofNat, h]
theorem DecodesBack.vst (v : BitVec 5) (a : BitVec 6) (k : BitVec 3) (imm : BitVec 12) : DecodesBack (.vst v a k imm) :=
  .of (encode_vst ..) fun w h => by simp [HasFields] at h; simp [decodeMajor_29, decode29, bf_eq_ofNat, h]
theorem DecodesBack.vabs (d a : BitVec 5) (k : BitVec 3) (ty : IntTy) : DecodesBack (.vabs d a k ty) :=
  .of (encode_vabs ..) fun w h => by simp [HasFields] at h; simp [decodeMajor_2A, decode2A, bf_eq_ofNat, h]
theorem DecodesBack.vadd (d a b : BitVec 5) (k : BitVec 3) (ty : IntTy) : DecodesBack (.vadd d a b k ty) :=
  .of (encode_vadd ..) fun w h => by simp [HasFields] at h; simp [decodeMajor_2A, decode2A, bf_eq_ofNat, h]
theorem DecodesBack.vsub (d a b : BitVec 5) (k : BitVec 3) (ty : IntTy) : DecodesBack (.vsub d a b k ty) :=
  .of (encode_vsub ..) fun w h => by simp [HasFields] at h; simp [decodeMajor_2A, decode2A, bf_eq_ofNat, h]
theorem DecodesBack.vmul (d a b : BitVec 5) (k : BitVec 3) (ty : IntTy) : DecodesBack (.vmul d a b k ty) :=
  .of (encode_vmul ..) fun w h => by simp [HasFields] at h; simp [decodeMajor_2A, decode2A, bf_eq_ofNat, h]
theorem DecodesBack.vmin (d a b : BitVec 5) (k : BitVec 3) (ty : IntTy) : DecodesBack (.vmin d a b k ty) :=
  .of (encode_vmin ..) fun w h => by simp [HasFields] at h; simp [decodeMajor_2A, decode2A, bf_eq_ofNat, h]
theorem DecodesBack.vmax (d a b : BitVec 5) (k : BitVec 3) (ty : IntTy) : DecodesBack (.vmax d a b k ty) :=
  .of (encode_vmax ..) fun w h => by simp [HasFields] at h; simp [decodeMajor_2A, decode2A, bf_eq_ofNat, h]
theorem DecodesBack.vand (d a b : BitVec 5) (k : BitVec 3) (ty : IntTy) : DecodesBack (.vand d a b k ty) :=
  .of (encode_vand ..) fun w h => by simp [HasFields] at h; simp [decodeMajor_2A, decode2A, bf_eq_ofNat, h]
theorem DecodesBack.vor (d a b : BitVec 5) (k : BitVec 3) (ty : IntTy) : DecodesBack (.vor d a b k ty) :=
  .of (encode_vor ..) fun w h => by simp [HasFields] at h; simp [decodeMajor_2A, decode2A, bf_eq_ofNat, h]
theorem DecodesBack.vxor (d a b : BitVec 5) (k : BitVec 3) (ty : IntTy) : DecodesBack (.vxor d a b k ty) :=
  .of (encode_vxor ..) fun w h => by simp [HasFields] at h; simp [decodeMajor_2A, decode2A, bf_eq_ofNat, h]
theorem DecodesBack.vandn (d a b : BitVec 5) (k : BitVec 3) (ty : IntTy) : DecodesBack (.vandn d a b k ty) :=
  .of (encode_vandn ..) fun w h => by simp [HasFields] at h; simp [decodeMajor_2A, decode2A, bf_eq_ofNat, h]
theorem DecodesBack.vshl (d a b : BitVec 5) (k : BitVec 3) (ty : IntTy) : DecodesBack (.vshl d a b k ty) :=
  .of (encode_vshl ..) fun w h => by simp [HasFields] at h; simp [decodeMajor_2A, decode2A, bf_eq_ofNat, h]
theorem DecodesBack.vshr (d a b : BitVec 5) (k : BitVec 3) (ty : IntTy) : DecodesBack (.vshr d a b k ty) :=
  .of (encode_vshr ..) fun w h => by simp [HasFields] at h; simp [decodeMajor_2A, decode2A, bf_eq_ofNat, h]
theorem DecodesBack.vsar (d a b : BitVec 5) (k : BitVec 3) (ty : IntTy) : DecodesBack (.vsar d a b k ty) :=
  .of (encode_vsar ..) fun w h => by simp [HasFields] at h; simp [decodeMajor_2A, decode2A, bf_eq_ofNat, h]
theorem DecodesBack.vadds (d a b : BitVec 5) (k : BitVec 3) (ty : IntTy) : DecodesBack (.vadds d a b k ty) :=
  .of (encode_vadds ..) fun w h => by simp [HasFields] at h; simp [decodeMajor_2A, decode2A, bf_eq_ofNat, h]
theorem DecodesBack.vsubs (d a b : BitVec 5) (k : BitVec 3) (ty : IntTy) : DecodesBack (.vsubs d a b k ty) :=
  .of (encode_vsubs ..) fun w h => by simp [HasFields] at h; simp [decodeMajor_2A, decode2A, bf_eq_ofNat, h]
theorem DecodesBack.vavg (d a b : BitVec 5) (k : BitVec 3) (ty : IntTy) : DecodesBack (.vavg d a b k ty) :=
  .of (encode_vavg ..) fun w h => by simp [HasFields] at h; simp [decodeMajor_2A, decode2A, bf_eq_ofNat, h]
theorem DecodesBack.vfabs (d a : BitVec 5) (k : BitVec 3) (ty : FltTy) : DecodesBack (.vfabs d a k ty) :=
  .of (encode_vfabs ..) fun w h => by simp [HasFields] at h; simp [decodeMajor_2B, decode2B, bf_eq_ofNat, h]
theorem DecodesBack.vfneg (d a : BitVec 5) (k : BitVec 3) (ty : FltTy) : DecodesBack (.vfneg d a k ty) :=
  .of (encode_vfneg ..) fun w h => by simp [HasFields] at h; simp [decodeMajor_2B, decode2B, bf_eq_ofNat, h]
theorem DecodesBack.vfadd (d a b : BitVec 5) (k : BitVec 3) (ty : FltTy) : DecodesBack (.vfadd d a b k ty) :=
  .of (encode_vfadd ..) fun w h => by simp [HasFields] at h; simp [decodeMajor_2B, decode2B, bf_eq_ofNat, h]
theorem DecodesBack.vfsub (d a b : BitVec 5) (k : BitVec 3) (ty : FltTy) : DecodesBack (.vfsub d a b k ty) :=
  .of (encode_vfsub ..) fun w h => by simp [HasFields] at h; simp [decodeMajor_2B, decode2B, bf_eq_ofNat, h]
theorem DecodesBack.vfmul (d a b : BitVec 5) (k : BitVec 3) (ty : FltTy) : DecodesBack (.vfmul d a b k ty) :=
  .of (encode_vfmul ..) fun w h => by simp [HasFields] at h; simp [decodeMajor_2B, decode2B, bf_eq_ofNat, h]
theorem DecodesBack.vfmin (d a b : BitVec 5) (k : BitVec 3) (ty : FltTy) : DecodesBack (.vfmin d a b k ty) :=
  .of (encode_vfmin ..) fun w h => by simp [HasFields] at h; simp [decodeMajor_2B, decode2B, bf_eq_ofNat, h]
theorem DecodesBack.vfmax (d a b : BitVec 5) (k : BitVec 3) (ty : FltTy) : DecodesBack (.vfmax d a b k ty) :=
  .of (encode_vfmax ..) fun w h => by simp [HasFields] at h; simp [decodeMajor_2B, decode2B, bf_eq_ofNat, h]
theorem DecodesBack.vfmaF32 (d a b c : BitVec 5) (k : BitVec 3) : DecodesBack (.vfmaF32 d a b c k) :=
  .of (encode_vfmaF32 ..) fun w h => by simp [HasFields] at h; simp [decodeMajor_2C, decode2C, bf_eq_ofNat, h]
theorem DecodesBack.vfmsF32 (d a b c : BitVec 5) (k : BitVec 3) : DecodesBack (.vfmsF32 d a b c k) :=
  .of (encode_vfmsF32 ..) fun w h => by simp [HasFields] at h; simp [decodeMajor_2C, decode2C, bf_eq_ofNat, h]
theorem DecodesBack.vfnmaF32 (d a b c : BitVec 5) (k : BitVec 3) : DecodesBack (.vfnmaF32 d a b c k) :=
  .of (encode_vfnmaF32 ..) fun w h => by simp [HasFields] at h; simp [decodeMajor_2C, decode2C, bf_eq_ofNat, h]
theorem DecodesBack.vfnmsF32 (d a b c : BitVec 5) (k : BitVec 3) : DecodesBack (.vfnmsF32 d a b c k) :=
  .of (encode_vfnmsF32 ..) fun w h => by simp [HasFields] at h; simp [decodeMajor_2C, decode2C, bf_eq_ofNat, h]
theorem DecodesBack.vfmaBf16 (d a b c : BitVec 5) (k : BitVec 3) : DecodesBack (.vfmaBf16 d a b c k) :=
  .of (encode_vfmaBf16 ..) fun w h => by simp [HasFields] at h; simp [decodeMajor_2C, decode2C, bf_eq_ofNat, h]
theorem DecodesBack.vfmsBf16 (d a b c : BitVec 5) (k : BitVec 3) : DecodesBack (.vfmsBf16 d a b c k) :=
  .of (encode_vfmsBf16 ..) fun w h => by simp [HasFields] at h; simp [decodeMajor_2C, decode2C, bf_eq_ofNat, h]
theorem DecodesBack.vfmaF16 (d a b c : BitVec 5) (k : BitVec 3) : DecodesBack (.vfmaF16 d a b c k) :=
  .of (encode_vfmaF16 ..) fun w h => by simp [HasFields] at h; simp [decodeMajor_2C, decode2C, bf_eq_ofNat, h]
theorem DecodesBack.vfmsF16 (d a b c : BitVec 5) (k : BitVec 3) : DecodesBack (.vfmsF16 d a b c k) :=
  .of (encode_vfmsF16 ..) fun w h => by simp [HasFields] at h; simp [decodeMajor_2C, decode2C, bf_eq_ofNat, h]
theorem DecodesBack.vcvt (d a b : BitVec 5) (k : BitVec 3) (rm : RMode) (c : BitVec 3) : DecodesBack (.vcvt d a b k rm c) :=
  .of (encode_vcvt ..) fun w h => by simp [HasFields] at h; simp [decodeMajor_2D, decode2D, bf_eq_ofNat, h]
theorem DecodesBack.vcvti (d a b : BitVec 5) (k : BitVec 3) (rm : RMode) (c : BitVec 3) : DecodesBack (.vcvti d a b k rm c) :=
  .of (encode_vcvti ..) fun w h => by simp [HasFields] at h; simp [decodeMajor_2D, decode2D, bf_eq_ofNat, h]
theorem DecodesBack.vcvtf (d a b : BitVec 5) (k : BitVec 3) (rm : RMode) (c : BitVec 3) : DecodesBack (.vcvtf d a b k rm c) :=
  .of (encode_vcvtf ..) fun w h => by simp [HasFields] at h; simp [decodeMajor_2D, decode2D, bf_eq_ofNat, h]
theorem DecodesBack.vpack (d a b : BitVec 5) (k : BitVec 3) (rm : RMode) (fmt : PackFmt) : DecodesBack (.vpack d a b k rm fmt) :=
  .of (encode_vpack ..) fun w h => by simp [HasFields] at h; simp [decodeMajor_2D, decode2D, bf_eq_ofNat, h]
theorem DecodesBack.vunpk (d a b : BitVec 5) (k : BitVec 3) (rm : RMode) (fmt : PackFmt) : DecodesBack (.vunpk d a b k rm fmt) :=
  .of (encode_vunpk ..) fun w h => by simp [HasFields] at h; simp [decodeMajor_2D, decode2D, bf_eq_ofNat, h]
theorem DecodesBack.vscale (d a b : BitVec 5) (k : BitVec 3) (rm : RMode) (ty : FltTy) : DecodesBack (.vscale d a b k rm ty) :=
  .of (encode_vscale ..) fun w h => by simp [HasFields] at h; simp [decodeMajor_2D, decode2D, bf_eq_ofNat, h]
theorem DecodesBack.vbcst (d b : BitVec 5) (k : BitVec 3) (w : Width) : DecodesBack (.vbcst d b k w) :=
  .of (encode_vbcst ..) fun w h => by simp [HasFields] at h; simp [decodeMajor_2E, decode2E, bf_eq_ofNat, h]
theorem DecodesBack.vext (d a imm : BitVec 5) (w : Width) : DecodesBack (.vext d a imm w) :=
  .of (encode_vext ..) fun w h => by
    simp [HasFields] at h
    obtain ⟨h0, h2, h11, h16, h21, h26⟩ := h
    simp [decodeMajor_2E, decode2E, bf_eq_ofNat, fld_ne h2, h0, h2, h11, h16, h21, h26]
theorem DecodesBack.vshuf (d a b : BitVec 5) (k : BitVec 3) (w : Width) : DecodesBack (.vshuf d a b k w) :=
  .of (encode_vshuf ..) fun w h => by
    simp [HasFields] at h
    obtain ⟨h0, h2, h8, h11, h16, h21, h26⟩ := h
    simp [decodeMajor_2E, decode2E, bf_eq_ofNat, fld_ne h2, h0, h2, h8, h11, h16, h21, h26]
theorem DecodesBack.vins (d imm b : BitVec 5) (k : BitVec 3) (w : Width) : DecodesBack (.vins d imm b k w) :=
  .of (encode_vins ..) fun w h => by
    simp [HasFields] at h
    obtain ⟨h0, h2, h8, h11, h16, h21, h26⟩ := h
    simp [decodeMajor_2E, decode2E, bf_eq_ofNat, fld_ne h2, h0, h2, h8, h11, h16, h21, h26]
theorem DecodesBack.vrot (d a b : BitVec 5) (k : BitVec 3) (w : Width) : DecodesBack (.vrot d a b k w) :=
  .of (encode_vrot ..) fun w h => by
    simp [HasFields] at h
    obtain ⟨h0, h2, h8, h11, h16, h21, h26⟩ := h
    simp [decodeMajor_2E, decode2E, bf_eq_ofNat, fld_ne h2, h0, h2, h8, h11, h16, h21, h26]
theorem DecodesBack.vzip (d a b : BitVec 5) (k : BitVec 3) (hi : Bool) (w : Width) : DecodesBack (.vzip d a b k hi w) :=
  .of (encode_vzip ..) fun w h => by
    simp [HasFields] at h
    obtain ⟨h0, h2, h3, h8, h11, h16, h21, h26⟩ := h
    simp [decodeMajor_2E, decode2E, bf_eq_ofNat, fld_ne h3, h0, h2, h3, h8, h11, h16, h21, h26]
theorem DecodesBack.vuzp (d a b : BitVec 5) (k : BitVec 3) (hi : Bool) (w : Width) : DecodesBack (.vuzp d a b k hi w) :=
  .of (encode_vuzp ..) fun w h => by
    simp [HasFields] at h
    obtain ⟨h0, h2, h3, h8, h11, h16, h21, h26⟩ := h
    simp [decodeMajor_2E, decode2E, bf_eq_ofNat, fld_ne h3, h0, h2, h3, h8, h11, h16, h21, h26]
theorem DecodesBack.vredand (d a : BitVec 5) (k : BitVec 3) (ty : IntTy) : DecodesBack (.vredand d a k ty) :=
  .of (encode_vredand ..) fun w h => by simp [HasFields] at h; simp [decodeMajor_2F, decode2F, bf_eq_ofNat, h]
theorem DecodesBack.vredor (d a : BitVec 5) (k : BitVec 3) (ty : IntTy) : DecodesBack (.vredor d a k ty) :=
  .of (encode_vredor ..) fun w h => by simp [HasFields] at h; simp [decodeMajor_2F, decode2F, bf_eq_ofNat, h]
theorem DecodesBack.vredxor (d a : BitVec 5) (k : BitVec 3) (ty : IntTy) : DecodesBack (.vredxor d a k ty) :=
  .of (encode_vredxor ..) fun w h => by simp [HasFields] at h; simp [decodeMajor_2F, decode2F, bf_eq_ofNat, h]
theorem DecodesBack.vredadd (d a : BitVec 5) (k : BitVec 3) (ty : NumTy) : DecodesBack (.vredadd d a k ty) :=
  .of (encode_vredadd ..) fun w h => by
    simp [HasFields] at h
    obtain ⟨h0, h4, h8, h11, h16, h21, h26⟩ := h
    simp [decodeMajor_2F, decode2F, bf_eq_ofNat, fld_ne h4, h0, h4, h8, h11, h16, h21, h26]
theorem DecodesBack.vredmax (d a : BitVec 5) (k : BitVec 3) (ty : NumTy) : DecodesBack (.vredmax d a k ty) :=
  .of (encode_vredmax ..) fun w h => by
    simp [HasFields] at h
    obtain ⟨h0, h4, h8, h11, h16, h21, h26⟩ := h
    simp [decodeMajor_2F, decode2F, bf_eq_ofNat, fld_ne h4, h0, h4, h8, h11, h16, h21, h26]
theorem DecodesBack.vredmin (d a : BitVec 5) (k : BitVec 3) (ty : NumTy) : DecodesBack (.vredmin d a k ty) :=
  .of (encode_vredmin ..) fun w h => by
    simp [HasFields] at h
    obtain ⟨h0, h4, h8, h11, h16, h21, h26⟩ := h
    simp [decodeMajor_2F, decode2F, bf_eq_ofNat, fld_ne h4, h0, h4, h8, h11, h16, h21, h26]
theorem DecodesBack.knot (d a : BitVec 3) : DecodesBack (.knot d a) :=
  .of (encode_knot ..) fun w h => by simp [HasFields] at h; simp [decodeMajor_30, decode30, bf_eq_ofNat, h]
theorem DecodesBack.kmov (d a : BitVec 3) : DecodesBack (.kmov d a) :=
  .of (encode_kmov ..) fun w h => by simp [HasFields] at h; simp [decodeMajor_30, decode30, bf_eq_ofNat, h]
theorem DecodesBack.kpop (d : BitVec 5) (a : BitVec 3) : DecodesBack (.kpop d a) :=
  .of (encode_kpop ..) fun w h => by simp [HasFields] at h; simp [decodeMajor_30, decode30, bf_eq_ofNat, h]
theorem DecodesBack.kffs (d : BitVec 5) (a : BitVec 3) : DecodesBack (.kffs d a) :=
  .of (encode_kffs ..) fun w h => by simp [HasFields] at h; simp [decodeMajor_30, decode30, bf_eq_ofNat, h]
theorem DecodesBack.kmovFromG (d : BitVec 3) (b : BitVec 5) : DecodesBack (.kmovFromG d b) :=
  .of (encode_kmovFromG ..) fun w h => by
    simp [HasFields] at h
    obtain ⟨h0, h11, h16, h21, h24, h26⟩ := h
    simp [decodeMajor_30, decode30, bf_eq_ofNat, fld_ne h0, h0, h11, h16, h21, h24, h26]
theorem DecodesBack.kmovToG (d : BitVec 5) (a : BitVec 3) : DecodesBack (.kmovToG d a) :=
  .of (encode_kmovToG ..) fun w h => by
    simp [HasFields] at h
    obtain ⟨h0, h16, h19, h21, h26⟩ := h
    simp [decodeMajor_30, decode30, bf_eq_ofNat, fld_ne h0, h0, h16, h19, h21, h26]
theorem DecodesBack.kand (d a b : BitVec 3) : DecodesBack (.kand d a b) :=
  .of (encode_kand ..) fun w h => by
    simp [HasFields] at h
    obtain ⟨h0, h11, h14, h16, h19, h21, h24, h26⟩ := h
    simp [decodeMajor_30, decode30, bf_eq_ofNat, fld_ne h0, h0, h11, h14, h16, h19, h21, h24, h26]
theorem DecodesBack.kor (d a b : BitVec 3) : DecodesBack (.kor d a b) :=
  .of (encode_kor ..) fun w h => by
    simp [HasFields] at h
    obtain ⟨h0, h11, h14, h16, h19, h21, h24, h26⟩ := h
    simp [decodeMajor_30, decode30, bf_eq_ofNat, fld_ne h0, h0, h11, h14, h16, h19, h21, h24, h26]
theorem DecodesBack.kxor (d a b : BitVec 3) : DecodesBack (.kxor d a b) :=
  .of (encode_kxor ..) fun w h => by
    simp [HasFields] at h
    obtain ⟨h0, h11, h14, h16, h19, h21, h24, h26⟩ := h
    simp [decodeMajor_30, decode30, bf_eq_ofNat, fld_ne h0, h0, h11, h14, h16, h19, h21, h24, h26]
theorem DecodesBack.vsel (d a b : BitVec 5) (k : BitVec 3) (w : Width) : DecodesBack (.vsel d a b k w) :=
  .of (encode_vsel ..) fun w h => by
    simp [HasFields] at h
    obtain ⟨h0, h2, h8, h11, h16, h21, h26⟩ := h
    simp [decodeMajor_30, decode30, bf_eq_ofNat, fld_ne h2, h0, h2, h8, h11, h16, h21, h26]
theorem DecodesBack.vcmpInt (d : BitVec 3) (a b : BitVec 5) (k : BitVec 3) (cond : Cond) (ty : IntTy) : DecodesBack (.vcmpInt d a b k cond ty) :=
  .of (encode_vcmpInt ..) fun w h => by
    simp [HasFields] at h
    obtain ⟨h0, h3, h6, h8, h11, h16, h21, h24, h26⟩ := h
    simp [decodeMajor_30, decode30, bf_eq_ofNat, fld_ne h6, h0, h3, h6, h8, h11, h16, h21, h24, h26]
theorem DecodesBack.vcmpFlt (d : BitVec 3) (a b : BitVec 5) (k : BitVec 3) (cond : Cond) (ty : FltTy) : DecodesBack (.vcmpFlt d a b k cond ty) :=
  .of (encode_vcmpFlt ..) fun w h => by
    simp [HasFields] at h
    obtain ⟨h0, h3, h6, h8, h11, h16, h21, h24, h26⟩ := h
    simp [decodeMajor_30, decode30, bf_eq_ofNat, fld_ne h6, h0, h3, h6, h8, h11, h16, h21, h24, h26]
theorem DecodesBack.vclz (d a : BitVec 5) (k : BitVec 3) (w : Width) : DecodesBack (.vclz d a k w) :=
  .of (encode_vclz ..) fun w h => by simp [HasFields] at h; simp [decodeMajor_31, decode31, bf_eq_ofNat, h]
theorem DecodesBack.vctz (d a : BitVec 5) (k : BitVec 3) (w : Width) : DecodesBack (.vctz d a k w) :=
  .of (encode_vctz ..) fun w h => by simp [HasFields] at h; simp [decodeMajor_31, decode31, bf_eq_ofNat, h]
theorem DecodesBack.vpopc (d a : BitVec 5) (k : BitVec 3) (w : Width) : DecodesBack (.vpopc d a k w) :=
  .of (encode_vpopc ..) fun w h => by simp [HasFields] at h; simp [decodeMajor_31, decode31, bf_eq_ofNat, h]
theorem DecodesBack.vlop3 (d a : BitVec 5) (b : BitVec 4) (k : BitVec 3) (t : BitVec 8) : DecodesBack (.vlop3 d a b k t) :=
  .of (encode_vlop3 ..) fun w h => by
    simp [HasFields] at h
    obtain ⟨h0, h8, h11, h15, h16, h21, h26⟩ := h
    simp [decodeMajor_31, decode31, bf_eq_ofNat, fld_ne h15, h0, h8, h11, h15, h16, h21, h26]
theorem DecodesBack.vrcp (d a : BitVec 5) (k : BitVec 3) : DecodesBack (.vrcp d a k) :=
  .of (encode_vrcp ..) fun w h => by simp [HasFields] at h; simp [decodeMajor_32, decode32, bf_eq_ofNat, h]
theorem DecodesBack.vrsq (d a : BitVec 5) (k : BitVec 3) : DecodesBack (.vrsq d a k) :=
  .of (encode_vrsq ..) fun w h => by simp [HasFields] at h; simp [decodeMajor_32, decode32, bf_eq_ofNat, h]
theorem DecodesBack.vsqrt (d a : BitVec 5) (k : BitVec 3) : DecodesBack (.vsqrt d a k) :=
  .of (encode_vsqrt ..) fun w h => by simp [HasFields] at h; simp [decodeMajor_32, decode32, bf_eq_ofNat, h]
theorem DecodesBack.vexp2 (d a : BitVec 5) (k : BitVec 3) : DecodesBack (.vexp2 d a k) :=
  .of (encode_vexp2 ..) fun w h => by simp [HasFields] at h; simp [decodeMajor_32, decode32, bf_eq_ofNat, h]
theorem DecodesBack.vlog2 (d a : BitVec 5) (k : BitVec 3) : DecodesBack (.vlog2 d a k) :=
  .of (encode_vlog2 ..) fun w h => by simp [HasFields] at h; simp [decodeMajor_32, decode32, bf_eq_ofNat, h]
theorem DecodesBack.vldb (d b : BitVec 5) (k : BitVec 3) (w : Width) : DecodesBack (.vldb d b k w) :=
  .of (encode_vldb ..) fun w h => by simp [HasFields] at h; simp [decodeMajor_33, decode33, bf_eq_ofNat, h]
theorem DecodesBack.vgath (d a b : BitVec 5) (k : BitVec 3) (w : Width) : DecodesBack (.vgath d a b k w) :=
  .of (encode_vgath ..) fun w h => by simp [HasFields] at h; simp [decodeMajor_33, decode33, bf_eq_ofNat, h]
theorem DecodesBack.vscat (d a b : BitVec 5) (k : BitVec 3) (w : Width) : DecodesBack (.vscat d a b k w) :=
  .of (encode_vscat ..) fun w h => by simp [HasFields] at h; simp [decodeMajor_33, decode33, bf_eq_ofNat, h]
theorem DecodesBack.nofold : DecodesBack .nofold :=
  .of encode_nofold fun w h => by simp [HasFields] at h; simp [decodeMajor_3F, decode3F, h]
theorem DecodesBack.likely (taken : Bool) : DecodesBack (.likely taken) :=
  .of (encode_likely ..) fun w h => by
    simp [HasFields] at h
    obtain ⟨h0, h1, h26⟩ := h
    simp [decodeMajor_3F, decode3F, fld_ne h1, h0, h1, h26]
theorem DecodesBack.prio (n : BitVec 3) : DecodesBack (.prio n) :=
  .of (encode_prio ..) fun w h => by
    simp [HasFields] at h
    obtain ⟨h0, h3, h26⟩ := h
    simp [decodeMajor_3F, decode3F, bf_eq_ofNat, fld_ne h3, h0, h3, h26]
theorem DecodesBack.spin (a : BitVec 6) : DecodesBack (.spin a) :=
  .of (encode_spin ..) fun w h => by
    simp [HasFields] at h
    obtain ⟨h0, h6, h26⟩ := h
    simp [decodeMajor_3F, decode3F, bf_eq_ofNat, fld_ne h6, h0, h6, h26]
theorem DecodesBack.rev (n : BitVec 8) : DecodesBack (.rev n) :=
  .of (encode_rev ..) fun w h => by
    simp [HasFields] at h
    obtain ⟨h0, h8, h26⟩ := h
    simp [decodeMajor_3F, decode3F, bf_eq_ofNat, fld_ne h8, h0, h8, h26]
theorem DecodesBack.immx (p : BitVec 22) : DecodesBack (.immx p) :=
  .of (encode_immx ..) fun w h => by
    simp [HasFields] at h
    obtain ⟨h0, h22, h26⟩ := h
    simp [decodeMajor_3F, decode3F, bf_eq_ofNat, fld_ne h22, h0, h22, h26]

/-! ### Words whose operands share bits with another's function code: the limits of their entries keep them apart -/

/-- A funnel shift by less than its width sets none of the bits that a count's function code sets in its place. -/
theorem fld_ne_one_of_shift {w n : Nat} {x : Width} {s : BitVec 6} (hn : 3 ≤ n) (hs : s.toNat < x.bits)
    (h0 : fld w 0 6 = s.toNat) (h6 : fld w 6 2 = x.code) : fld w 5 n ≠ 1 := by
  intro h
  have h5 : fld w 0 6 / 2 ^ 5 % 2 ^ 1 = fld w 5 n / 2 ^ 0 % 2 ^ 1 :=
    (fld_part (lo := 0) (k := 5) (by decide)).trans (fld_part (lo := 5) (k := 0) (by omega)).symm
  have h6' : fld w 5 n / 2 ^ 1 % 2 ^ 2 = fld w 6 2 := fld_part (lo := 5) (k := 1) (by omega)
  rw [h, h0] at h5
  rw [h, h6] at h6'
  cases x with
  | w8 => simp only [Width.bits] at hs; omega
  | w16 => exact absurd h6' (by decide)
  | w32 => exact absurd h6' (by decide)
  | w64 => exact absurd h6' (by decide)

theorem DecodesBack.fshl (d a : BitVec 6) (b : BitVec 5) (x : Width) (s : BitVec 6) : DecodesBack (.fshl d a b x s) :=
  .ofWf (encode_fshl ..) fun hi w h => by
    simp [HasFields] at h
    obtain ⟨h0, h6, h8, h13, h14, h20, h26⟩ := h
    have hne : fld w 5 9 ≠ 1 := fld_ne_one_of_shift (by decide) (by simpa [Instr.wf] using hi) h0 h6
    simp [decodeMajor_03, decode03, bf_eq_ofNat, hne, h0, h6, h8, h13, h14, h20, h26]

theorem DecodesBack.vfshl (d a : BitVec 5) (b : BitVec 4) (k : BitVec 3) (x : Width) (s : BitVec 6) :
    DecodesBack (.vfshl d a b k x s) :=
  .ofWf (encode_vfshl ..) fun hi w h => by
    simp [HasFields] at h
    obtain ⟨h0, h6, h8, h11, h15, h16, h21, h26⟩ := h
    have hne : fld w 5 3 ≠ 1 := fld_ne_one_of_shift (by decide) (by simpa [Instr.wf] using hi) h0 h6
    simp [decodeMajor_31, decode31, bf_eq_ofNat, hne, h0, h6, h8, h11, h15, h16, h21, h26]

/-- KMOV with an expansion is no plain KMOV: its expansion is not 0. -/
theorem DecodesBack.kmovExpand (d a : BitVec 3) (f : BitVec 2) : DecodesBack (.kmovExpand d a f) :=
  .ofWf (encode_kmovExpand ..) fun hi w h => by
    simp [HasFields] at h
    obtain ⟨h0, h2, h16, h19, h21, h24, h26⟩ := h
    have hf : f ≠ 0 := by simpa [Instr.wf] using hi
    have hne : fld w 0 16 ≠ 240 := fld_ne h0 (by simp; bv_omega)
    simp [decodeMajor_30, decode30, bf_eq_ofNat, hne, fld_ne h2, h0, h2, h16, h19, h21, h24, h26]

/-- A hint without a meaning has a kind from 6 to 14, and those with one have kinds below. -/
theorem DecodesBack.hnop (k : BitVec 4) (p : BitVec 22) : DecodesBack (.hnop k p) :=
  .ofWf (encode_hnop ..) fun hi w h => by
    simp [HasFields] at h
    obtain ⟨h0, h22, h26⟩ := h
    have hk : 6 ≤ k.toNat ∧ k.toNat ≤ 14 := by simpa [Instr.wf] using hi
    have hnofold : fld w 0 26 ≠ 20971520 := fld_ne h22 (by simp; omega)
    have hlikely : fld w 1 25 ≠ 6291456 := fld_ne h22 (by simp; omega)
    have hprio : fld w 3 23 ≠ 524288 := fld_ne h22 (by simp; omega)
    have hspin : fld w 6 20 ≠ 262144 := fld_ne h22 (by simp; omega)
    have hrev : fld w 8 18 ≠ 32768 := fld_ne h22 (by simp; omega)
    have himmx : k.toNat ≠ 0 := by omega
    simp [decodeMajor_3F, decode3F, bf_eq_ofNat, hnofold, hlikely, hprio, hspin, hrev, himmx, h0, h22, h26]

/-- The instruction's constructors are the words, each with a lemma of its own, and the events, which have no word. -/
theorem decodesBack (i : Instr) : DecodesBack i := by
  cases i with
  | add d a b => exact .add d a b
  | sub d a b => exact .sub d a b
  | and d a b => exact .and d a b
  | or d a b => exact .or d a b
  | xor d a b => exact .xor d a b
  | andn d a b => exact .andn d a b
  | orn d a b => exact .orn d a b
  | xnor d a b => exact .xnor d a b
  | shl d a b => exact .shl d a b
  | shr d a b => exact .shr d a b
  | sar d a b => exact .sar d a b
  | rol d a b => exact .rol d a b
  | ror d a b => exact .ror d a b
  | slt d a b => exact .slt d a b
  | sltu d a b => exact .sltu d a b
  | seq d a b => exact .seq d a b
  | sne d a b => exact .sne d a b
  | minS d a b => exact .minS d a b
  | maxS d a b => exact .maxS d a b
  | minU d a b => exact .minU d a b
  | maxU d a b => exact .maxU d a b
  | mul d a b => exact .mul d a b
  | mulh d a b => exact .mulh d a b
  | mulhu d a b => exact .mulhu d a b
  | div d a b => exact .div d a b
  | divu d a b => exact .divu d a b
  | rem d a b => exact .rem d a b
  | remu d a b => exact .remu d a b
  | addw d a b => exact .addw d a b
  | subw d a b => exact .subw d a b
  | shlw d a b => exact .shlw d a b
  | shrw d a b => exact .shrw d a b
  | sarw d a b => exact .sarw d a b
  | mulw d a b => exact .mulw d a b
  | lop3 d a b t => exact .lop3 d a b t
  | fshl d a b w s => exact .fshl d a b w s
  | clz d a w => exact .clz d a w
  | ctz d a w => exact .ctz d a w
  | popc d a w => exact .popc d a w
  | ffs d a w => exact .ffs d a w
  | brev d a w => exact .brev d a w
  | bswap d a w => exact .bswap d a w
  | addi d a imm => exact .addi d a imm
  | andi d a imm => exact .andi d a imm
  | ori d a imm => exact .ori d a imm
  | xori d a imm => exact .xori d a imm
  | slti d a imm => exact .slti d a imm
  | sltiu d a imm => exact .sltiu d a imm
  | shli d a n => exact .shli d a n
  | shri d a n => exact .shri d a n
  | sari d a n => exact .sari d a n
  | rori d a n => exact .rori d a n
  | extz d a p l => exact .extz d a p l
  | exts d a p l => exact .exts d a p l
  | dep d a p l => exact .dep d a p l
  | lds d a imm w => exact .lds d a imm w
  | ldz d a imm w => exact .ldz d a imm w
  | st c a imm w => exact .st c a imm w
  | amoaddW d a b ord sc => exact .amoaddW d a b ord sc
  | amoandW d a b ord sc => exact .amoandW d a b ord sc
  | amoorW d a b ord sc => exact .amoorW d a b ord sc
  | amoxorW d a b ord sc => exact .amoxorW d a b ord sc
  | amominW d a b ord sc => exact .amominW d a b ord sc
  | amomaxW d a b ord sc => exact .amomaxW d a b ord sc
  | amominuW d a b ord sc => exact .amominuW d a b ord sc
  | amomaxuW d a b ord sc => exact .amomaxuW d a b ord sc
  | amoaddD d a b ord sc => exact .amoaddD d a b ord sc
  | amoandD d a b ord sc => exact .amoandD d a b ord sc
  | amoorD d a b ord sc => exact .amoorD d a b ord sc
  | amoxorD d a b ord sc => exact .amoxorD d a b ord sc
  | amominD d a b ord sc => exact .amominD d a b ord sc
  | amomaxD d a b ord sc => exact .amomaxD d a b ord sc
  | amominuD d a b ord sc => exact .amominuD d a b ord sc
  | amomaxuD d a b ord sc => exact .amomaxuD d a b ord sc
  | swp d a b ord sc dw => exact .swp d a b ord sc dw
  | cas d a b ord sc dw => exact .cas d a b ord sc dw
  | ldo d a ord sc dw => exact .ldo d a ord sc dw
  | sto a b ord sc dw => exact .sto a b ord sc dw
  | redadd dw a b rel sc => exact .redadd dw a b rel sc
  | redand dw a b rel sc => exact .redand dw a b rel sc
  | redor dw a b rel sc => exact .redor dw a b rel sc
  | redxor dw a b rel sc => exact .redxor dw a b rel sc
  | redmin dw a b rel sc => exact .redmin dw a b rel sc
  | redmax dw a b rel sc => exact .redmax dw a b rel sc
  | redminu dw a b rel sc => exact .redminu dw a b rel sc
  | redmaxu dw a b rel sc => exact .redmaxu dw a b rel sc
  | redacc d a b rel sc => exact .redacc d a b rel sc
  | fence e sc => exact .fence e sc
  | fenceE sc => exact .fenceE sc
  | wbr a b sc => exact .wbr a b sc
  | invr a b sc => exact .invr a b sc
  | arrive n => exact .arrive n
  | arriveSnap n => exact .arriveSnap n
  | wait d n => exact .wait d n
  | bstat d n => exact .bstat d n
  | bset a n => exact .bset a n
  | brst n => exact .brst n
  | start n a b => exact .start n a b
  | stop n => exact .stop n
  | join d n => exact .join d n
  | gets d r => exact .gets d r
  | sets a r => exact .sets a r
  | trap c => exact .trap c
  | touch d a => exact .touch d a
  | objinv a sc => exact .objinv a sc
  | einj c a tier => exact .einj c a tier
  | digest d a => exact .digest d a
  | digestN d a => exact .digestN d a
  | beq c a imm => exact .beq c a imm
  | bne c a imm => exact .bne c a imm
  | blt c a imm => exact .blt c a imm
  | bge c a imm => exact .bge c a imm
  | bltu c a imm => exact .bltu c a imm
  | bgeu c a imm => exact .bgeu c a imm
  | jal imm => exact .jal imm
  | jalr d a imm => exact .jalr d a imm
  | rset h a => exact .rset h a
  | waitf h m => exact .waitf h m
  | waite h m => exact .waite h m
  | advp h m => exact .advp h m
  | advc h m => exact .advc h m
  | rstat d h w => exact .rstat d h w
  | cpy a b t => exact .cpy a b t
  | cpyr a b t sc z => exact .cpyr a b t sc z
  | cpyc r => exact .cpyc r
  | cpyq a t => exact .cpyq a t
  | mma a b t tile => exact .mma a b t tile
  | mmar a b t tile => exact .mmar a b t tile
  | mmaz a b t tile => exact .mmaz a b t tile
  | mcfg a b t => exact .mcfg a b t
  | mcfgRd a b t => exact .mcfgRd a b t
  | minit a t tile => exact .minit a t tile
  | mrd a b t tile => exact .mrd a b t tile
  | mrdv a v t tile => exact .mrdv a v t tile
  | mlda a b t tile => exact .mlda a b t tile
  | mldaAdd a b t tile => exact .mldaAdd a b t tile
  | msta a t tile => exact .msta a t tile
  | mstat a t tile => exact .mstat a t tile
  | mshad a t tile => exact .mshad a t tile
  | cgrp a t n => exact .cgrp a t n
  | ctab a t n => exact .ctab a t n
  | cstart a t n => exact .cstart a t n
  | tready a n => exact .tready a n
  | cwait a t n => exact .cwait a t n
  | rdraw d b => exact .rdraw d b
  | rvec d b k => exact .rvec d b k
  | rmask k b => exact .rmask k b
  | rkey d b => exact .rkey d b
  | launch d a => exact .launch d a
  | depdec d a => exact .depdec d a
  | tcbq d a => exact .tcbq d a
  | sendm a b t nb => exact .sendm a b t nb
  | recvm a b t nb => exact .recvm a b t nb
  | recvmCfg a => exact .recvmCfg a
  | vld v a k imm => exact .vld v a k imm
  | vst v a k imm => exact .vst v a k imm
  | vadd d a b k ty => exact .vadd d a b k ty
  | vsub d a b k ty => exact .vsub d a b k ty
  | vmul d a b k ty => exact .vmul d a b k ty
  | vmin d a b k ty => exact .vmin d a b k ty
  | vmax d a b k ty => exact .vmax d a b k ty
  | vand d a b k ty => exact .vand d a b k ty
  | vor d a b k ty => exact .vor d a b k ty
  | vxor d a b k ty => exact .vxor d a b k ty
  | vandn d a b k ty => exact .vandn d a b k ty
  | vshl d a b k ty => exact .vshl d a b k ty
  | vshr d a b k ty => exact .vshr d a b k ty
  | vsar d a b k ty => exact .vsar d a b k ty
  | vadds d a b k ty => exact .vadds d a b k ty
  | vsubs d a b k ty => exact .vsubs d a b k ty
  | vavg d a b k ty => exact .vavg d a b k ty
  | vabs d a k ty => exact .vabs d a k ty
  | vfadd d a b k ty => exact .vfadd d a b k ty
  | vfsub d a b k ty => exact .vfsub d a b k ty
  | vfmul d a b k ty => exact .vfmul d a b k ty
  | vfmin d a b k ty => exact .vfmin d a b k ty
  | vfmax d a b k ty => exact .vfmax d a b k ty
  | vfabs d a k ty => exact .vfabs d a k ty
  | vfneg d a k ty => exact .vfneg d a k ty
  | vfmaF32 d a b c k => exact .vfmaF32 d a b c k
  | vfmsF32 d a b c k => exact .vfmsF32 d a b c k
  | vfnmaF32 d a b c k => exact .vfnmaF32 d a b c k
  | vfnmsF32 d a b c k => exact .vfnmsF32 d a b c k
  | vfmaBf16 d a b c k => exact .vfmaBf16 d a b c k
  | vfmsBf16 d a b c k => exact .vfmsBf16 d a b c k
  | vfmaF16 d a b c k => exact .vfmaF16 d a b c k
  | vfmsF16 d a b c k => exact .vfmsF16 d a b c k
  | vcvt d a b k rm c => exact .vcvt d a b k rm c
  | vcvti d a b k rm c => exact .vcvti d a b k rm c
  | vcvtf d a b k rm c => exact .vcvtf d a b k rm c
  | vpack d a b k rm fmt => exact .vpack d a b k rm fmt
  | vunpk d a b k rm fmt => exact .vunpk d a b k rm fmt
  | vscale d a b k rm ty => exact .vscale d a b k rm ty
  | vshuf d a b k w => exact .vshuf d a b k w
  | vbcst d b k w => exact .vbcst d b k w
  | vins d imm b k w => exact .vins d imm b k w
  | vext d a imm w => exact .vext d a imm w
  | vrot d a b k w => exact .vrot d a b k w
  | vzip d a b k hi w => exact .vzip d a b k hi w
  | vuzp d a b k hi w => exact .vuzp d a b k hi w
  | vredadd d a k ty => exact .vredadd d a k ty
  | vredmax d a k ty => exact .vredmax d a k ty
  | vredmin d a k ty => exact .vredmin d a k ty
  | vredand d a k ty => exact .vredand d a k ty
  | vredor d a k ty => exact .vredor d a k ty
  | vredxor d a k ty => exact .vredxor d a k ty
  | vcmpInt d a b k cond ty => exact .vcmpInt d a b k cond ty
  | vcmpFlt d a b k cond ty => exact .vcmpFlt d a b k cond ty
  | vsel d a b k w => exact .vsel d a b k w
  | kand d a b => exact .kand d a b
  | kor d a b => exact .kor d a b
  | kxor d a b => exact .kxor d a b
  | knot d a => exact .knot d a
  | kpop d a => exact .kpop d a
  | kffs d a => exact .kffs d a
  | kmov d a => exact .kmov d a
  | kmovExpand d a f => exact .kmovExpand d a f
  | kmovFromG d b => exact .kmovFromG d b
  | kmovToG d a => exact .kmovToG d a
  | vlop3 d a b k t => exact .vlop3 d a b k t
  | vfshl d a b k w s => exact .vfshl d a b k w s
  | vclz d a k w => exact .vclz d a k w
  | vctz d a k w => exact .vctz d a k w
  | vpopc d a k w => exact .vpopc d a k w
  | vrcp d a k => exact .vrcp d a k
  | vrsq d a k => exact .vrsq d a k
  | vsqrt d a k => exact .vsqrt d a k
  | vexp2 d a k => exact .vexp2 d a k
  | vlog2 d a k => exact .vlog2 d a k
  | vldb d b k w => exact .vldb d b k w
  | vgath d a b k w => exact .vgath d a b k w
  | vscat d a b k w => exact .vscat d a b k w
  | immx p => exact .immx p
  | prio n => exact .prio n
  | rev n => exact .rev n
  | likely taken => exact .likely taken
  | spin a => exact .spin a
  | hnop k p => exact .hnop k p
  | endCtx => exact .endCtx
  | yield => exact .yield
  | fuse => exact .fuse
  | split => exact .split
  | eret => exact .eret
  | halt => exact .halt
  | efence => exact .efence
  | nofold => exact .nofold
  | _ => exact .ofNone rfl

/-! ### Bytes

In these proofs a decoder is set aside under a name of its own before the match on its answer is reduced: kernel and elaborator then
have no decoder to unfold. -/

/-- The bytes of a word make it again (R3). -/
theorem wordOfBytes_bytesOfWord {w : Nat} (hw : w < 2 ^ 32) :
    wordOfBytes (.ofNat 8 w) (.ofNat 8 (w / 2 ^ 8)) (.ofNat 8 (w / 2 ^ 16)) (.ofNat 8 (w / 2 ^ 24)) = w := by
  simp only [wordOfBytes, BitVec.toNat_ofNat]
  omega

theorem decodeBytes_of_decodeWord {b0 b1 b2 b3 : Byte} {rest : List Byte} {i : Instr}
    (h : decodeWord (wordOfBytes b0 b1 b2 b3) = .ok i) : decodeBytes (b0 :: b1 :: b2 :: b3 :: rest) = .ok (i, rest) := by
  obtain ⟨decode, hd⟩ : ∃ decode, decode = decodeWord := ⟨_, rfl⟩
  have e := Eq.refl decodeBytes
  conv at e => rhs; delta decodeBytes
  rw [← hd] at e h
  rw [e]
  simp only [h]

theorem decodeTableWord_of_decodeBytes {n w : Nat} {i : Instr} {rest : List Byte}
    (h : decodeBytes (bytesOfWord (w % 2 ^ n)) = .ok (i, rest)) : decodeTableWord n w = some i := by
  obtain ⟨decode, hd⟩ : ∃ decode, decode = decodeBytes := ⟨_, rfl⟩
  have e := Eq.refl decodeTableWord
  conv at e => rhs; delta decodeTableWord
  rw [← hd] at e h
  rw [e]
  simp only [h]

theorem decodeTableWord_of_decodeWord {w : Nat} {i : Instr} (hw : w < 2 ^ 32) (h : decodeWord w = .ok i) :
    decodeTableWord 32 w = some i := by
  refine decodeTableWord_of_decodeBytes (rest := []) ?_
  rw [Nat.mod_eq_of_lt hw]
  exact decodeBytes_of_decodeWord ((congrArg decodeWord (wordOfBytes_bytesOfWord hw)).trans h)
end Sys2Proof

open Sys2Proof in
/-- Settles O2, one constructor of `Instr` at a time. -/
theorem decodeOfEncode : Obligations.DecodeOfEncode := by
  unfold Obligations.DecodeOfEncode
  intro i w hwf he
  obtain ⟨hw, hd⟩ := decodesBack i hwf w he
  have h : decodeWord w = .ok i := decodeWord_eq_ok_iff.mpr ⟨hd, hwf⟩
  exact ⟨hw, h, decodeTableWord_of_decodeWord hw h⟩
end

section
/-! O23. What a SETS does once its register is known: the plain registers, SHADOWN, ARCHMAP and XBOUND. -/

namespace Sys2Proof.Machine

/-- A word that waits with what it has done so far goes back to the start of its group. -/
theorem performNext_block {i : Instr} {body : Op Unit} {s t : State} (h : s.Issues i) (hb : body s = .error (.block t)) :
    performNext i body s = .next t.retreat := by
  rw [performNext, perform_issues _ _ _ h]
  simp [hb]

theorem Op.privTrap_run {α : Type} (i : Instr) (s : State) :
    (Op.privTrap i : Op α) s =
      .error (.trap (Trap.plain cPRIV (Word.ofN s.ctx.pc.toNat) (wordInfo s.ctx.revn ((encode i).getD 0)))) := by
  simp [Op.privTrap, Op.trap_run, Trap.plain]

/-! ### XBOUND (R122, R123) -/

theorem State.xbCores_alone {s : State} (h : s.inGang = false) : s.xbCores = [s.core] := by
  simp [State.xbCores, h]

theorem State.xbValue_alone {s : State} (h : s.inGang = false) (a : BitVec 6) (v : Word) : s.xbValue a v = v := by
  simp [State.xbValue, h]

/-- A bound that is lowered, or that nothing under way names, is written at once. -/
theorem Op.setXbound_at_once {s : State} {v : Word} (hg : s.inGang = false) (hr : s.core.raise = none)
    (hw : s.raiseWaits s.ctx.num (boundOf v) s.core = false) :
    Op.setXbound v s = .ok ((), { s with core := { s.core with
      xbound := BitVec.ofNat 21 (boundOf v), xbTake := BitVec.ofNat 21 (boundOf v), raise := none } }) := by
  simp [Op.setXbound, s.xbCores_alone hg, hr, hw]

/-- A raise that must wait is in force for takes, and the word goes back to wait. -/
theorem Op.setXbound_waits {s : State} {v : Word} (hg : s.inGang = false) (hr : s.core.raise = none)
    (hw : s.raiseWaits s.ctx.num (boundOf v) s.core = true) :
    Op.setXbound v s = .error (.block { s with core := { s.core with
      xbTake := BitVec.ofNat 21 (boundOf v), raise := some ⟨s.ctx.num, boundOf v / 4096⟩ } }) := by
  have hlt : s.core.xbound.toNat < boundOf v := by
    simp only [State.raiseWaits, Bool.and_eq_true, decide_eq_true_eq] at hw
    exact hw.1
  simp [Op.setXbound, s.xbCores_alone hg, hr, hw, hlt]

theorem boundOf_div_mul (v : Word) : boundOf v / 4096 * 4096 = boundOf v := by
  unfold boundOf
  omega

/-- The raise of the word itself: it stalls until XBOUND has been raised, and is then over. -/
theorem Op.setXbound_raising {s : State} {v : Word} (hr : s.core.raise = some ⟨s.ctx.num, boundOf v / 4096⟩) :
    Op.setXbound v s = if s.core.xbound.toNat = boundOf v
      then .ok ((), { s with core := { s.core with raise := none } }) else .error .stall := by
  simp [Op.setXbound, hr, boundOf_div_mul]

/-! ### The word -/

theorem execSets_ok {s t : State} {a : BitVec 6} {r : BitVec 12} (h : s.Issues (.sets a r)) (hr : s.CanRead a)
    (ha : (decide (r = 0x080) && !s.ctx.supervisor) = false)
    (hb : (if r = 0x00C then Op.setXbound (s.xbValue a (s.G a))
      else if r = 0x080 then Op.modCore fun c => { c with archmap := s.G a }
      else if r = 0x061 then
        (if s.ctx.supervisor then Op.modCore fun c => { c with shadown := s.G a &&& 0xFFFF } else pure ())
      else Op.modCtx fun c => { c with sys := c.sys.write r.toNat (s.G a) s.ctx.supervisor }) s = .ok ((), t)) :
    exec (.sets a r) s = .next t.done := by
  refine performNext_ok h ?_
  simp only [Op.bind_run, Op.get_run, Op.answered, ha, Bool.false_eq_true, if_false, Op.readG_run s a hr, hb]

/-- A SETS of XBOUND does what the write of XBOUND does. -/
theorem execSets_xbound {s : State} {a : BitVec 6} (h : s.Issues (.sets a 0x00C)) (hr : s.CanRead a) :
    exec (.sets a 0x00C) s = performNext (.sets a 0x00C) (Op.setXbound (s.G a)) s := by
  obtain ⟨-, -, hg, -⟩ := id h
  change performNext _ _ _ = _
  rw [performNext, performNext, perform_issues _ _ _ h, perform_issues _ _ _ h]
  have ha : (decide ((0x00C : BitVec 12) = 0x080) && !s.ctx.supervisor) = false := by simp
  simp only [Op.bind_run, Op.get_run, Op.answered, ha, Bool.false_eq_true, if_false, Op.readG_run s a hr, if_true,
    State.xbValue_alone hg]

theorem exec_sets_plain {s : State} {a : BitVec 6} {r : BitVec 12} (h : s.Issues (.sets a r)) (hr : s.CanRead a)
    (hx : r ≠ 0x00C) (hs : r ≠ 0x061) (ha : r ≠ 0x080) :
    exec (.sets a r) s = .next (s.setCtx { s.ctx with sys := s.ctx.sys.write r.toNat (s.G a) s.ctx.supervisor }).done := by
  refine execSets_ok h hr (by rw [decide_eq_false ha, Bool.false_and]) ?_
  rw [if_neg hx, if_neg ha, if_neg hs, Op.modCtx_run]

theorem exec_sets_shadown {s : State} {a : BitVec 6} (h : s.Issues (.sets a 0x061)) (hr : s.CanRead a) :
    exec (.sets a 0x061) s = .next (if s.ctx.supervisor then
      State.done { s with core := { s.core with shadown := s.G a &&& 0xFFFF } } else s.done) := by
  rw [← apply_ite State.done]
  refine execSets_ok h hr rfl ?_
  rw [if_neg (by decide), if_neg (by decide), if_pos rfl]
  split
  · rw [Op.modCore_run]
  · rw [Op.pure_run]

theorem exec_sets_archmap {s : State} {a : BitVec 6} (h : s.Issues (.sets a 0x080)) (hs : s.ctx.supervisor = true)
    (hr : s.CanRead a) :
    exec (.sets a 0x080) s = .next (State.done { s with core := { s.core with archmap := s.G a } }) := by
  refine execSets_ok h hr (by rw [hs]; rfl) ?_
  rw [if_neg (by decide), if_pos rfl, Op.modCore_run]

theorem exec_sets_archmap_task {s : State} {a : BitVec 6} (h : s.Issues (.sets a 0x080)) (hs : s.ctx.supervisor = false) :
    ∃ info : Word, exec (.sets a 0x080) s = .next (s.takeTrap (Trap.plain cPRIV (Word.ofN s.ctx.pc.toNat) info)) := by
  refine ⟨wordInfo s.ctx.revn ((encode (.sets a 0x080)).getD 0), performNext_trap h ?_⟩
  rw [Op.bind_run, Op.get_run, Op.answered, hs]
  exact Op.privTrap_run _ s

/-! ### The fields of the registers (R187, R188) -/

theorem Word.getLsbD_ofNat_of_lt {n k b : Nat} (h : n < 2 ^ k) (hb : k ≤ b) : (BitVec.ofNat 64 n).getLsbD b = false := by
  rw [BitVec.getLsbD_ofNat, Nat.testBit_lt_two_pow (h.trans_le (Nat.pow_le_pow_right (by decide) hb)), Bool.and_false]

/-- SVCLVL keeps SU and TI and takes PS. -/
theorem SysRegs.write_svclvl_bit (y : SysRegs) (v : Word) (b : Nat) :
    (y.write 0x055 v true).svclvl.getLsbD b =
      if b = 1 then v.getLsbD 1 else (y.svclvl.getLsbD b && (b = 0 || b = 2)) := by
  have hw : (y.write 0x055 v true).svclvl = (y.svclvl &&& 5) ||| (v &&& 2) := rfl
  rw [hw, BitVec.getLsbD_or, BitVec.getLsbD_and, BitVec.getLsbD_and]
  match b with
  | 0 | 1 | 2 => simp
  | b + 3 =>
    have h5 : (5 : Word).getLsbD (b + 3) = false := Word.getLsbD_ofNat_of_lt (k := 3) (by decide) (by omega)
    have h2 : (2 : Word).getLsbD (b + 3) = false := Word.getLsbD_ofNat_of_lt (k := 3) (by decide) (by omega)
    rw [h5, h2]
    simp

/-- The registers of other owners, and the numbers that name none, keep their values. -/
theorem SysRegs.write_readOnly (y : SysRegs) (v : Word) (sup : Bool) {r : Nat}
    (h : r ≤ 0x009 ∨ 0x00E ≤ r ∧ r ≤ 0x033 ∨ 0x070 ≤ r) : y.write r v sup = y := by
  unfold SysRegs.write
  simp (disch := omega) only [if_neg, ite_self]

/-- In task mode SVCLVL, SEVPOL and INJEN keep their values. -/
theorem SysRegs.write_taskMode (y : SysRegs) (v : Word) {r : Nat} (h : 0x055 ≤ r) : y.write r v false = y := by
  unfold SysRegs.write
  simp (disch := omega) only [if_neg, Bool.not_false, if_true]

end Sys2Proof.Machine

open Sys2Proof.Machine in
/-- Settles O23: a clause per register or group of registers; XBOUND goes by whether a raise is under way and whether the
raise of this word must wait. -/
theorem setsWrites : Obligations.SetsWrites := by
  unfold Obligations.SetsWrites
  refine ⟨fun _ _ _ h hr hx hs ha => exec_sets_plain h hr hx hs ha, fun y v sup => ?_,
    fun _ _ h hr => exec_sets_shadown h hr, fun _ _ h hs hr => exec_sets_archmap h hs hr,
    fun _ _ h hs => exec_sets_archmap_task h hs, fun s a b h hr hb => ?_⟩
  · exact ⟨rfl, rfl, rfl, rfl, rfl, rfl, rfl, rfl, rfl, rfl, y.write_taskMode v (by decide), y.write_taskMode v (by decide),
      y.write_taskMode v (by decide), rfl, rfl, rfl, y.write_svclvl_bit v, fun _ => y.write_readOnly v sup⟩
  · obtain rfl : b = boundOf (s.G a) := hb
    obtain ⟨-, -, hg, -⟩ := id h
    rw [execSets_xbound h hr]
    refine ⟨fun hn hw => ?_, fun hn hlt hd => ?_, fun hn hlt => ?_, fun hn he => ?_⟩
    · refine performNext_ok h (Op.setXbound_at_once hg hn ?_)
      rcases hw with hle | hd
      · simp [State.raiseWaits, Nat.not_lt.mpr hle]
      · simp [State.raiseWaits, hd]
    · exact performNext_block h (Op.setXbound_waits hg hn (by simp [State.raiseWaits, hlt, hd]))
    · exact performNext_stall h (by rw [Op.setXbound_raising hn, if_neg hlt.ne])
    · exact performNext_ok h (by rw [Op.setXbound_raising hn, if_pos he])
end

section
/-! O24. The last clause but one, LDS at any place, takes the value of the shared load operation below 2 to the width. A load of the
host's memory delivers whatever bytes have been brought for its reference (R454), and the statement does not ask that they be as many as the
load asks for: with two bytes brought for a byte's load, the operation gives 512, LDS extends it to 256, and the clause to 0. -/

namespace Sys2Proof.Overfull
open Sys2Proof.Machine

/-- Object 16 in the table at 0. Its extent list at 0x300 covers frame 0, whose entry at 0x400 is resident in frame 0 of the host's
memory. -/
def tables : Memory :=
  [(0x202, 0x01), (0x205, 0x01), (0x206, 0x03), (0x211, 0x03), (0x300, 1), (0x312, 1), (0x319, 0x04), (0x407, 0x60)]

/-- The descriptor of object 16, as the object cache holds it: class 3, readable, 0x10000 bytes. -/
def entry : OcEntry := ⟨0, 0, 16, 0x200, 0x3010000010000, 0, 0x300, 0, 0, 0⟩

/-- Byte 0 of object 16. -/
def ref : Word := 0x100000000000

/-- Context 0 holds the reference in g2, and the bytes 0 and 2 have been brought for it. -/
def state : State :=
  { State.reset with
    core := { LCore.empty with
      resident := true
      ctx := { Ctx.zero 0 with live := true, pc := 0x10, g := (Ctx.zero 0).g.set 2 ref, hostGot := [(ref, [0, 2])] } }
    disp := { Dispatcher.reset with queues := Dispatcher.reset.queues.set 0 { Queue.reset with entries := 17 } }
    pkg := { State.reset.pkg with hostUp := true }
    unc := { Uncore.reset with priv := tables, objectCache := [entry] } }

/-- The byte's load of `LDS.b g1, g2, 0`. -/
def access : Acc := coreAcc (state.G 2 + immExt state.payloads (0 : BitVec 12)) 1 0

theorem load_run : ∃ t, Op.load (state.self 0) access state = .ok (512, t) ∧ t.CanWrite 1 := by
  have h : (Op.load (state.self 0) access state).map (fun p => (p.1, p.2.ctx.pendG)) = .ok (512, 0) := by decide +kernel
  cases ho : Op.load (state.self 0) access state with
  | error e => simp [ho, Except.map] at h
  | ok out =>
    obtain ⟨m, t⟩ := out
    simp only [ho, Except.map, Except.ok.injEq, Prod.mk.injEq] at h
    obtain ⟨rfl, hp⟩ := h
    exact ⟨t, rfl, by rw [State.CanWrite, hp]; decide⟩

theorem scalarLoad_run {t : State} (h : Op.load (state.self 0) access state = .ok (512, t)) :
    Op.scalarLoad 1 2 0 .w8 state = .ok (512, t) :=
  h

/-- LDS writes 512 less 256. -/
theorem exec_lds_run {t : State} (h : Op.load (state.self 0) access state = .ok (512, t)) (ht : t.CanWrite 1) :
    exec (.lds 1 2 0 .w8) state = .next (t.doneG 1 256) :=
  performNext_ok ⟨rfl, rfl, rfl, rfl⟩ ((Op.bind_ok (scalarLoad_run h)).trans (Op.writeG_run t 1 256 ht))

end Sys2Proof.Overfull

open Sys2Proof.Machine Sys2Proof.Overfull in
/-- Refutes O24: in `Sys2Proof.Overfull.state`, where two bytes have been brought for the reference in g2, `LDS.b g1, g2, 0` writes
256 to g1, and the clause for LDS at any place says 0. -/
theorem not_loadsDeliverBytes : ¬ Obligations.LoadsDeliverBytes := by
  unfold Obligations.LoadsDeliverBytes
  rintro ⟨-, -, -, -, hlds, -⟩
  obtain ⟨t, hl, ht⟩ := load_run
  have h := hlds state t 1 2 0 .w8 512 ⟨rfl, rfl, rfl, rfl⟩ ⟨rfl, rfl⟩ rfl ht rfl rfl hl
  rw [exec_lds_run hl ht, Host.Outcome.next.injEq] at h
  have hg := congrArg (State.G · 1) h
  simp only [State.doneG, State.G_setCtx_done, Ctx.gval_setG_bitVec] at hg
  exact absurd hg (by decide)
end

section
/-! O25. A store to the local memory of a core that is resident and watched by no SPIN: the memory with the value stored, and the
blocks that become dirty, are all that changes. -/

namespace Sys2Proof

theorem Width.bytes_pos (w : Width) : 0 < w.bytes := by cases w <;> decide

theorem Width.bytes_dvd (w : Width) : w.bytes ∣ 8 := by cases w <;> decide

theorem Width.bits_eq (w : Width) : w.bits = 8 * w.bytes := by cases w <;> rfl

end Sys2Proof

namespace Sys2Proof.Machine

/-- The core in focus with another local memory, and other blocks marked dirty. -/
def State.withLm (s : State) (m : Memory) (dirty : List Nat) : State :=
  { s with core := { s.core with lm := m, blockDirty := dirty } }

/-- The core in focus is resident, no SPIN watches it and no bit of its local memory is flipped: a write changes its bytes and its
dirty blocks alone (R111, R139, R405). -/
def State.Quiet (s : State) : Prop := s.StoreHere ∧ s.core.lmFlips = []

theorem State.Quiet.withLm {s : State} (h : s.Quiet) (m : Memory) (dirty : List Nat) : (s.withLm m dirty).Quiet := by
  obtain ⟨⟨hr, hs⟩, hf⟩ := h
  refine ⟨⟨hr, fun c hc => ?_⟩, hf⟩
  rcases List.mem_cons.mp hc with rfl | hc
  · exact hs s.core (List.mem_cons_self ..)
  · exact hs c (List.mem_cons_of_mem _ hc)

theorem State.findCore_self (s : State) : s.findCore s.core.id = some s.core := by
  simp [State.findCore, State.cores]

/-- With no SPIN on a block, a write wakes nothing. -/
theorem State.StoreHere.wakeBlocks {s : State} (h : s.StoreHere) (id : CoreId) (off n : Nat) : s.wakeBlocks id off n = s := by
  obtain ⟨-, hs⟩ := h
  refine if_neg ?_
  simp only [List.any_eq_true, not_exists, not_and, Bool.not_eq_true]
  intro c hc x hx
  split
  · next r i b w n hw => exact absurd hw (hs c hc x hx r i b w n)
  · rfl

theorem State.Quiet.lmWrite {s : State} (h : s.Quiet) (off : Nat) (bs : List Byte) :
    ∃ dirty, s.lmWrite s.core.id off bs = s.withLm (s.core.lm.write off bs) dirty := by
  obtain ⟨hh, hf⟩ := h
  have hr : s.core.resident = true := hh.1
  have hc : s.core.lmWrite off bs =
      { s.core with lm := s.core.lm.write off bs, blockDirty := (s.core.lmWrite off bs).blockDirty } := by
    rw [LCore.lmWrite, hf, List.filter_nil, ← hf]
  refine ⟨(s.core.lmWrite off bs).blockDirty, ?_⟩
  rw [State.withLm, ← hc]
  simp [State.lmWrite, hh.wakeBlocks, State.mapCore, State.findCore, State.cores, LCore.lmWrite, hr]

/-! ### One word's bytes -/

/-- The places of a word that an access within it covers. -/
theorem places_eq : ∀ j n : Nat, j + n ≤ 8 → (List.range 8).filter (fun i => j ≤ i && i < j + n) = List.range' j n := by
  have h : ∀ j < 9, ∀ n < 9, j + n ≤ 8 → (List.range 8).filter (fun i => j ≤ i && i < j + n) = List.range' j n := by decide
  exact fun j n hn => h j (by omega) n (by omega) hn

/-- Bytes written one after the other make the value. -/
theorem State.Quiet.put_places {s : State} (h : s.Quiet) (off v w j n : Nat) (hj : off ≤ 8 * w + j) :
    ∃ dirty', (List.range' j n).foldl (fun (t : State) i => t.lmWrite s.core.id (8 * w + i)
        [BitVec.ofNat 8 (v / 2 ^ (8 * (8 * w + i - off)))]) s =
      s.withLm (s.core.lm.store (8 * w + j) n (v / 2 ^ (8 * (8 * w + j - off)))) dirty' := by
  induction n generalizing s j with
  | zero => exact ⟨s.core.blockDirty, rfl⟩
  | succ n ih =>
    obtain ⟨d, hd⟩ := h.lmWrite (8 * w + j) [BitVec.ofNat 8 (v / 2 ^ (8 * (8 * w + j - off)))]
    obtain ⟨d', hd'⟩ := ih (h.withLm (s.core.lm.write (8 * w + j) [BitVec.ofNat 8 (v / 2 ^ (8 * (8 * w + j - off)))]) d)
      (j + 1) (by omega)
    have he : v / 2 ^ (8 * (8 * w + j - off)) / 256 = v / 2 ^ (8 * (8 * w + (j + 1) - off)) := by
      rw [show 8 * (8 * w + (j + 1) - off) = 8 * (8 * w + j - off) + 8 by omega, Nat.pow_add, ← Nat.div_div_eq_div_mul]
    refine ⟨d', ?_⟩
    rw [List.range'_succ, List.foldl_cons, hd, Memory.store, bytesOf, Memory.write, he]
    exact hd'

theorem Op.lmCheckWord_run {s : State} (h : s.Quiet) (ag : Agent) (a : Acc) (off w : Nat) :
    Op.lmCheckWord ag a s.core.id off w s = .ok ((), s) := by
  obtain ⟨-, hf⟩ := h
  simp [Op.lmCheckWord, State.findCore_self, hf, NatMap.get]

/-- A store within a word. -/
theorem Op.localStoreWord_run {s : State} (h : s.Quiet) (ag : Agent) (a : Acc) (v w j : Nat) (hn : 0 < a.n) (hj : j + a.n ≤ 8) :
    ∃ dirty, Op.localStoreWord ag a s.core.id (8 * w + j) v (2 ^ a.n - 1) w s =
      .ok ((), s.withLm (s.core.lm.store (8 * w + j) a.n v) dirty) := by
  have hp : ((List.range 8).filter fun i => 8 * w + j ≤ 8 * w + i && 8 * w + i < 8 * w + j + a.n &&
      (2 ^ a.n - 1).testBit (8 * w + i - (8 * w + j))) = List.range' j a.n := by
    rw [← places_eq j a.n hj]
    refine List.filter_congr fun i _ => ?_
    rw [Nat.testBit_two_pow_sub_one]
    grind
  have hne : List.range' j a.n ≠ [] := by simpa using hn.ne'
  simp only [Op.localStoreWord, hp, List.length_range', hne, if_false]
  by_cases h8 : a.n = 8
  · obtain rfl : j = 0 := by omega
    obtain ⟨d, hd⟩ := h.lmWrite (8 * w) (bytesOf 8 v)
    exact ⟨d, by simp [h8, hd, Memory.store]⟩
  · obtain ⟨d, hd⟩ := h.put_places (8 * w + j) v w j a.n le_rfl
    refine ⟨d, ?_⟩
    have hlt : a.n < 8 := by omega
    simp only [hlt, h8, if_true, if_false, Op.bind_run, Op.lmCheckWord_run h, Op.answered, Op.modify_run, hd]
    simp

/-- A store that stays within a word of local memory. -/
theorem Op.localStore_run {s : State} (h : s.Quiet) (ag : Agent) (a : Acc) (off v : Nat) (hn : 0 < a.n)
    (hoff : off % 8 + a.n ≤ 8) :
    ∃ dirty, Op.localStore ag a s.core.id off v (2 ^ a.n - 1) s =
      .ok ((), s.withLm (s.core.lm.store off a.n v) dirty) := by
  obtain ⟨d, hd⟩ := Op.localStoreWord_run h ag a v (off / 8) (off % 8) hn hoff
  rw [Nat.div_add_mod] at hd
  have hw : (off + a.n + 7) / 8 - off / 8 = 1 := by omega
  refine ⟨d, ?_⟩
  rw [Op.localStore, hw]
  exact Op.bind_ok hd

/-! ### A store to the core's own local memory -/

/-- The access that a store's checks pass (R26, R119, R273). -/
theorem Op.localTarget_run {s : State} {ref : Word} {n : Nat} (h : s.LocalOk ref n) (scope kind : Nat) :
    Op.localTarget (s.self scope) (coreAcc ref n kind) true s = .ok ((s.core.id, refOffset ref), s) := by
  obtain ⟨hh, -, hb, hx, -, -, -⟩ := h
  have hf : s.findCore (s.self scope).core = some s.core := s.findCore_self
  simp only [Op.localTarget, Op.bind_run, Op.get_run, Op.answered, hf, coreAcc, hh, if_true]
  simp [State.self, Nat.not_lt.mpr hb, Nat.not_lt.mpr hx]

theorem State.LocalOk.inSpill {s : State} {ref : Word} {n : Nat} (h : s.LocalOk ref n) (ag : Agent) :
    s.inSpill ag ref = false := by
  obtain ⟨-, -, -, -, -, ha, -⟩ := h
  simp [State.inSpill, ha]

theorem Op.checkAccess_local {s : State} {ref : Word} {n : Nat} (h : s.LocalOk ref n) (scope kind need : Nat) :
    Op.checkAccess (s.self scope) (coreAcc ref n kind) need s = .ok ((), s) := by
  have hh : refHandle (coreAcc ref n kind).ref ≤ 1 := h.1.trans_le (Nat.zero_le 1)
  have hs : s.inSpill (s.self scope) (coreAcc ref n kind).ref = false := h.inSpill _
  refine (Op.bind_ok (Op.get_run s)).trans ?_
  rw [if_pos hh, hs]
  exact Op.bind_ok (rest := fun _ => pure ()) (Op.localTarget_run h scope kind)

/-- A store at a reference that passes every check. -/
theorem Op.store_local {s : State} {ref : Word} {n : Nat} (h : s.LocalOk ref n) (hs : s.StoreHere) (scope v : Nat)
    (hn : 0 < n) (hoff : refOffset ref % 8 + n ≤ 8) :
    ∃ dirty, Op.store (s.self scope) (coreAcc ref n 1) v s =
      .ok ((), s.withLm (s.core.lm.store (refOffset ref) n v) dirty) := by
  obtain ⟨hh, -, -, -, hf, -, ho⟩ := id h
  have hle : refHandle (coreAcc ref n 1).ref ≤ 1 := hh.trans_le (Nat.zero_le 1)
  have hsp : s.inSpill (s.self scope) (coreAcc ref n 1).ref = false := h.inSpill _
  have hr : s.ownRed (s.self scope) (.local s.core.id (refOffset ref)) (coreAcc ref n 1).n = false := ho
  obtain ⟨d, hd⟩ := Op.localStore_run ⟨hs, hf⟩ (s.self scope) (coreAcc ref n 1) (refOffset ref) v hn hoff
  refine ⟨d, ?_⟩
  rw [Op.store, Op.storeMasked]
  refine (Op.bind_ok (Op.get_run s)).trans ?_
  rw [hsp, if_neg Bool.false_ne_true, if_pos hle]
  refine (Op.bind_ok (Op.localTarget_run h scope 1)).trans ?_
  refine (Op.bind_ok (a := ()) (t := s) ?_).trans hd
  rw [hr]
  rfl

/-- A store to local memory is no message (R433). -/
theorem Op.storeMsg_local {s : State} {ref : Word} (h : refHandle ref = 0) (fields : List Nat) (op : Op Unit) :
    Op.storeMsg fields ref op s = op s := by
  simp [Op.storeMsg, State.storeMessage, State.classOf, h]

theorem Op.aligned_run {s : State} {ref : Word} {n : Nat} (h : s.LocalOk ref n) (kind : Nat) :
    Op.aligned (coreAcc ref n kind) s = .ok ((), s) := by
  obtain ⟨hh, ha, -⟩ := h
  have hr : ref.toNat = refOffset ref := by
    unfold refHandle refOffset at *
    omega
  simp [Op.aligned, coreAcc, hr, ha]

/-- Nothing is left for a release to wait for or write back. -/
theorem Op.release_settled {s : State} (h : s.Settled) (scope : Nat) : Op.release scope s = .ok ((), s) := by
  obtain ⟨ho, hr, hl⟩ := h
  simp [Op.release, Op.releaseWait, State.redsIn, State.bankReport, State.releaseCluster, ho, hr, hl]

/-! ### The state after the word -/

theorem State.stored_done {s : State} {o n v : Nat} (hm : s.core.lm.wf = true) (dirty : List Nat) :
    let t := (s.withLm (s.core.lm.store o n v) dirty).done
    t.localValue o n = v % 2 ^ (8 * n) ∧ s.SameLocalBut t o n ∧ t.ctx.g = s.ctx.g ∧ s.SameButG t 0 ∧ t.unc = s.unc := by
  refine ⟨Memory.value_store _ o n v hm, fun a ha => Memory.get_store_outside _ o n v a hm ha, rfl, ?_, rfl⟩
  exact ⟨fun _ _ => rfl, ⟨rfl, rfl⟩, ⟨rfl, rfl, rfl, rfl, rfl⟩, rfl, rfl, rfl, rfl, rfl, rfl, rfl, rfl, rfl, rfl, rfl, rfl, rfl⟩

/-- An aligned access of 1, 2, 4 or 8 bytes stays within a word. -/
theorem within_word {o n : Nat} (hn : n ∣ 8) (h : o % n = 0) : o % 8 + n ≤ 8 := by
  obtain ⟨k, hk⟩ := hn
  obtain ⟨m, rfl⟩ := Nat.dvd_of_mod_eq_zero h
  rw [hk, Nat.mul_mod_mul_left]
  have hk0 : 0 < k := by by_contra hc; simp [Nat.eq_zero_of_not_pos hc] at hk
  nlinarith [Nat.mod_lt m hk0]

theorem exec_st_local {s : State} {c a : BitVec 6} {imm : BitVec 12} {w : Width} (h : s.Issues (.st c a imm w))
    (hc : s.CanRead c) (ha : s.CanRead a) (hl : s.LocalOk (s.G a + immExt s.payloads imm) w.bytes) (hs : s.StoreHere) :
    ∃ dirty, exec (.st c a imm w) s = .next (s.withLm
      (s.core.lm.store (refOffset (s.G a + immExt s.payloads imm)) w.bytes ((s.G c).toNat % 2 ^ w.bits)) dirty).done := by
  obtain ⟨hh, hal, -⟩ := id hl
  obtain ⟨d, hd⟩ := Op.store_local hl hs 0 ((s.G c).toNat % 2 ^ w.bits) w.bytes_pos (within_word w.bytes_dvd hal)
  refine ⟨d, performNext_ok h ?_⟩
  refine (Op.bind_ok (Op.readG_run s a ha)).trans ?_
  refine (Op.bind_ok (Op.readG_run s c hc)).trans ?_
  refine (Op.bind_ok (Op.imm_run imm s)).trans ?_
  refine (Op.bind_ok (Op.aligned_run hl 1)).trans ?_
  exact (Op.storeMsg_local hh _ _).trans hd

theorem exec_sto_local {s : State} {a b : BitVec 6} {ord : Order} {sc : Scope} {dw : Bool} {n : Nat}
    (hn : n = if dw then 8 else 4) (h : s.Issues (.sto a b ord sc dw))
    (ha : s.CanRead a) (hb : s.CanRead b) (hl : s.LocalOk (s.G a) n) (hs : s.StoreHere) (hset : s.Settled) :
    ∃ dirty, exec (.sto a b ord sc dw) s = .next (s.withLm
      (s.core.lm.store (refOffset (s.G a)) n ((s.G b).toNat % 2 ^ (8 * n))) dirty).done := by
  obtain ⟨hh, hal, -⟩ := id hl
  have hd8 : n ∣ 8 := by subst hn; cases dw <;> decide
  have hn0 : 0 < n := by subst hn; cases dw <;> decide
  obtain ⟨d, hd⟩ := Op.store_local hl hs sc.num ((s.G b).toNat % 2 ^ (8 * n)) hn0 (within_word hd8 hal)
  subst hn
  refine ⟨d, performNext_ok h ?_⟩
  refine (Op.bind_ok (Op.readG_run s a ha)).trans ?_
  refine (Op.bind_ok (Op.readG_run s b hb)).trans ?_
  refine (Op.bind_ok (Op.aligned_run hl 1)).trans ?_
  refine (Op.bind_ok (Op.get_run s)).trans ?_
  cases hr : isRel ord
  · exact (Op.storeMsg_local hh _ _).trans hd
  · refine (Op.bind_ok (Op.checkAccess_local hl sc.num 1 rightW)).trans ?_
    refine (Op.bind_ok (Op.release_settled hset sc.num)).trans ?_
    exact (Op.storeMsg_local hh _ _).trans hd

end Sys2Proof.Machine

open Sys2Proof.Machine in
/-- Settles O25: each word leaves the local memory with its value stored, and `State.stored_done` says what that state shares with
the one before. -/
theorem storesWriteTheirBytes : Obligations.StoresWriteTheirBytes := by
  unfold Obligations.StoresWriteTheirBytes
  refine ⟨fun s c a imm w h hc ha hl hs hm => ?_, fun s a b ord sc dw h ha hb hl hs hset hm => ?_⟩
  · obtain ⟨d, hd⟩ := exec_st_local h hc ha hl hs
    obtain ⟨hv, hrest⟩ := State.stored_done (v := (s.G c).toNat % 2 ^ w.bits) hm d
    exact ⟨_, hd, by rw [hv, w.bits_eq, Nat.mod_mod], hrest⟩
  · obtain ⟨d, hd⟩ := exec_sto_local rfl h ha hb hl hs hset
    obtain ⟨hv, hrest⟩ := State.stored_done (v := (s.G b).toNat % 2 ^ (8 * if dw then 8 else 4)) hm d
    refine ⟨_, hd, ?_, hrest⟩
    rw [hv, Nat.mod_mod]
    cases dw <;> rfl
end

section
/-! O57. The registers of the device, the start, and a die's entry into service. -/

namespace Sys2Proof

/-- What a die must have to enter service. -/
def DieStart.good (found : DieStart) : Bool :=
  (found.usableCore && (List.range 256).any fun n => !found.harvested.contains n) && found.marginMet && found.imagesVerified

theorem DieStart.good_iff (found : DieStart) : found.good = true ↔ found.usableCore = true ∧
    (∃ n < 256, n ∉ found.harvested) ∧ found.marginMet = true ∧ found.imagesVerified = true := by
  simp [DieStart.good, and_assoc]

end Sys2Proof

namespace Sys2Proof.Machine

/-! ### Conditions of an event -/

theorem Op.need_bind {α : Type} {b : Bool} (hb : b = true) (rest : Unit → Op α) (s : State) :
    (Op.need b >>= rest) s = rest () s := by
  rw [hb]
  rfl

theorem Op.need_bind_stall {α : Type} {b : Bool} (hb : b = false) (rest : Unit → Op α) (s : State) :
    (Op.need b >>= rest) s = .error .stall := by
  rw [hb]
  rfl

theorem runEvent_stall {op : Op Unit} {s : State} (h : op s = .error .stall) : runEvent op s = .next { s with stalled := true } := by
  simp [runEvent, h]

/-- A register that is written only under a condition: the event acts, or it finds its condition wanting. -/
theorem registerWrite_guarded {s : State} {r : DevReg} {v : Word} (b : Bool) (t : State)
    (h : Op.registerWrite r v s = (Op.need b >>= fun _ => set t : Op Unit) s) :
    (b = true → s.ActsTo (.registerWrite r v) { t with stalled := false }) ∧
      (b = false → exec (.registerWrite r v) s = .next { s with stalled := true }) :=
  ⟨fun hb => ⟨runEvent_ok (h.trans (Op.need_bind hb _ s)), rfl⟩, fun hb => runEvent_stall (h.trans (Op.need_bind_stall hb _ s))⟩

/-! ### One die, one queue -/

theorem State.die_eq (s : State) {d : Nat} (h : d < 8) : s.die d = s.dies[d] := by
  simp [State.die, h]

theorem State.die_mapDie_same (s : State) {d : Nat} (h : d < 8) (f : DieState → DieState) :
    (s.mapDie d f).die d = f (s.die d) := by
  simp [State.die, State.mapDie, h]

theorem State.die_mapDie_ne (s : State) {d k : Nat} (h : k ≠ d) (f : DieState → DieState) :
    (s.mapDie d f).die k = s.die k := by
  unfold State.mapDie
  split
  · simp [State.die, Vector.getElem?_set_ne _ h.symm]
  · rfl

theorem State.queue_mapQueue_same (s : State) {q : Nat} (h : q < 64) (f : Queue → Queue) :
    (s.mapQueue q f).queue q = f (s.queue q) := by
  simp [State.queue, State.mapQueue, h]

theorem State.queue_mapQueue_ne (s : State) {q k : Nat} (h : k ≠ q) (f : Queue → Queue) :
    (s.mapQueue q f).queue k = s.queue k := by
  unfold State.mapQueue
  split
  · simp [State.queue, Vector.getElem?_set_ne _ h.symm]
  · rfl

/-- A register of die `d`: written, it is set on that die, and all else stands. -/
def State.SetsDie (s : State) (r : DevReg) (v : Word) (d : BitVec 3) (f : DieState → DieState) : Prop :=
  ∃ u, s.ActsTo (.registerWrite r v) u ∧ u.die d.toNat = f (s.die d.toNat) ∧ (∀ k, k ≠ d.toNat → u.die k = s.die k) ∧
    u.core = s.core ∧ u.peers = s.peers ∧ u.unc = s.unc ∧ u.disp = s.disp ∧ u.pkg = s.pkg

theorem State.setsDie_of_acts {s : State} {r : DevReg} {v : Word} {d : BitVec 3} {f : DieState → DieState}
    (h : s.ActsTo (.registerWrite r v) { s.mapDie d.toNat f with stalled := false }) : s.SetsDie r v d f :=
  ⟨_, h, s.die_mapDie_same d.isLt f, fun _ hk => s.die_mapDie_ne hk f, s.mapDie_core .., s.mapDie_peers ..,
    s.mapDie_unc .., s.mapDie_disp .., s.mapDie_pkg ..⟩

/-! ### The dispatcher's registers (R77, R102, R104, R108) -/

theorem write_queueCfg (s : State) (q : BitVec 6) (w : Nat) (v : Word) :
    ((s.queue q.toNat).en = false →
      ∃ u, s.ActsTo (.registerWrite (.queueCfg q w) v) u ∧ u.queue q.toNat = (s.queue q.toNat).writeWord w v) ∧
    ((s.queue q.toNat).en = true → exec (.registerWrite (.queueCfg q w) v) s = .next { s with stalled := true }) := by
  obtain ⟨hok, hno⟩ := registerWrite_guarded (r := .queueCfg q w) (!(s.queue q.toNat).en)
    (s.mapQueue q.toNat fun x => x.writeWord w v) rfl
  rw [Bool.not_eq_true'] at hok
  rw [Bool.not_eq_false'] at hno
  exact ⟨fun h => ⟨_, hok h, s.queue_mapQueue_same q.isLt _⟩, hno⟩

theorem write_sevpolEntry (s : State) (q : BitVec 6) (v : Word) :
    ∃ u, s.ActsTo (.registerWrite (.sevpolEntry q) v) u ∧
      u.queue q.toNat = { s.queue q.toNat with sevpol := v &&& 0x00FFFF06 } ∧ ∀ k, k ≠ q.toNat → u.queue k = s.queue k :=
  ⟨_, ⟨rfl, rfl⟩, s.queue_mapQueue_same q.isLt _, fun _ hk => s.queue_mapQueue_ne hk _⟩

theorem write_placeCtl (s : State) (v : Word) :
    ((∀ t ∈ s.disp.tasks, t.isRunning = false) → s.ActsTo (.registerWrite .placeCtl v)
      { s with disp := { s.disp with placeCtl := v &&& 0x3FFFFF }, stalled := false }) ∧
    ((∃ t ∈ s.disp.tasks, t.isRunning = true) → exec (.registerWrite .placeCtl v) s = .next { s with stalled := true }) := by
  obtain ⟨hok, hno⟩ := registerWrite_guarded (s := s) (r := .placeCtl) (v := v) (!s.anyRunning)
    { s with disp := { s.disp with placeCtl := v &&& 0x3FFFFF } } rfl
  refine ⟨fun h => hok ?_, fun h => hno ?_⟩
  · simpa [State.anyRunning] using h
  · simpa [State.anyRunning] using h

/-! ### Words of the tables, and of frame entries (R256, R257, R261) -/

theorem write_table {s : State} {addr : Nat} (h8 : addr % 8 = 0) (hlt : addr < 2 ^ 64) (hf : s.inFrameEntry addr = false)
    (v : Word) : ∃ u, s.ActsTo (.registerWrite (.table addr) v) u ∧
      u.unc.priv = s.unc.priv.setWord addr v ∧ u.unc.hbm = s.unc.hbm ∧ u.core = s.core ∧ u.peers = s.peers := by
  obtain ⟨hok, -⟩ := registerWrite_guarded (s := s) (r := .table addr) (v := v)
    (addr % 8 = 0 && addr < 2 ^ 64 && !s.inFrameEntry addr) ((s.writePriv addr v).newFrames s) rfl
  exact ⟨_, hok (by rw [decide_eq_true h8, decide_eq_true hlt, hf]; rfl), rfl, rfl, rfl, rfl⟩

/-- What a write of word 0x00 of a frame entry leaves: that word in its place, the HBM and the cores. -/
theorem State.writeEntry_word0 (s : State) {addr : Nat} (h : addr % 16 = 0) (v : Word) :
    (s.writeEntry addr v).unc.priv = s.unc.priv.setWord addr (v &&& 0xF000001FFFFFFFFF) ∧
      (s.writeEntry addr v).unc.hbm = s.unc.hbm ∧ (s.writeEntry addr v).core = s.core := by
  have hc : ∀ (t : State) w, (t.clearAnchors w).unc.priv = t.unc.priv ∧ (t.clearAnchors w).unc.hbm = t.unc.hbm ∧
      (t.clearAnchors w).core = t.core := fun t w => by
    unfold State.clearAnchors
    split <;> exact ⟨rfl, rfl, rfl⟩
  obtain ⟨hp, hh, hcore⟩ := hc (s.writePriv addr (v &&& 0xF000001FFFFFFFFF)) (v &&& 0xF000001FFFFFFFFF)
  simp only [State.writeEntry, h, ne_eq, not_true, if_false]
  split
  · simp only [State.setFree, State.mapDie_unc, State.mapDie_core]
    exact ⟨hp, hh, hcore⟩
  · exact ⟨hp, hh, hcore⟩

/-- A frame entry is written unless it is RES or MOVING, or would become MOVING. -/
theorem registerWrite_frameEntry (s : State) {addr : Nat} (h8 : addr % 8 = 0) (hlt : addr < 2 ^ 64) (v : Word) :
    Op.registerWrite (.frameEntry addr) v s = (Op.need (addr % 16 ≠ 0 ||
      ((s.unc.priv.word (addr / 16 * 16)).bits 63 62 ≠ 1 && (s.unc.priv.word (addr / 16 * 16)).bits 63 62 ≠ 2 &&
        v.bits 63 62 ≠ 2)) >>= fun _ => set (s.writeEntry addr v) : Op Unit) s := by
  have hb : (addr % 8 = 0 && addr < 2 ^ 64) = true := by rw [decide_eq_true h8, decide_eq_true hlt]; rfl
  exact Op.need_bind hb (fun _ => Op.need (addr % 16 ≠ 0 ||
      ((s.unc.priv.word (addr / 16 * 16)).bits 63 62 ≠ 1 && (s.unc.priv.word (addr / 16 * 16)).bits 63 62 ≠ 2 &&
        v.bits 63 62 ≠ 2)) >>= fun _ => set (s.writeEntry addr v)) s

theorem write_frameEntry_word0 {s : State} {addr : Nat} (h16 : addr % 16 = 0) (hlt : addr < 2 ^ 64) (v : Word) :
    ((s.unc.priv.word addr).bits 63 62 = 0 ∨ (s.unc.priv.word addr).bits 63 62 = 3 → v.bits 63 62 ≠ 2 →
      ∃ u, s.ActsTo (.registerWrite (.frameEntry addr) v) u ∧
        u.unc.priv = s.unc.priv.setWord addr (v &&& 0xF000001FFFFFFFFF) ∧ u.unc.hbm = s.unc.hbm ∧ u.core = s.core) ∧
    ((s.unc.priv.word addr).bits 63 62 = 1 ∨ (s.unc.priv.word addr).bits 63 62 = 2 →
      exec (.registerWrite (.frameEntry addr) v) s = .next { s with stalled := true }) := by
  have h8 : addr % 8 = 0 := by omega
  have ha : addr / 16 * 16 = addr := by omega
  have hr := registerWrite_frameEntry s h8 hlt v
  rw [ha] at hr
  obtain ⟨hok, hno⟩ := registerWrite_guarded _ _ hr
  refine ⟨fun hst hv => ⟨_, hok ?_, s.writeEntry_word0 h16 v⟩, fun hst => hno ?_⟩
  · rcases hst with hst | hst <;> simp [h16, hst, hv]
  · rcases hst with hst | hst <;> simp [h16, hst]

theorem write_frameEntry_word8 {s : State} {addr : Nat} (h16 : addr % 16 = 8) (hlt : addr < 2 ^ 64) (v : Word) :
    s.ActsTo (.registerWrite (.frameEntry addr) v) { s with stalled := false } := by
  have h8 : addr % 8 = 0 := by omega
  have hr := registerWrite_frameEntry s h8 hlt v
  have hs : s.writeEntry addr v = s := if_pos (by omega)
  rw [hs] at hr
  obtain ⟨hok, -⟩ := registerWrite_guarded _ _ hr
  exact hok (by simp [h16])

/-! ### The registers of a die (R268, R269, R381, R424) -/

theorem State.setsDie_guarded {s : State} {r : DevReg} {v : Word} {d : BitVec 3} {f : DieState → DieState} (b : Bool)
    (h : Op.registerWrite r v s = (Op.need b >>= fun _ => set (s.mapDie d.toNat f) : Op Unit) s) :
    (b = true → s.SetsDie r v d f) ∧ (b = false → exec (.registerWrite r v) s = .next { s with stalled := true }) := by
  obtain ⟨hok, hno⟩ := registerWrite_guarded b _ h
  exact ⟨fun hb => State.setsDie_of_acts (hok hb), hno⟩

theorem write_telemetryBase (s : State) (d : BitVec 3) (v : Word) :
    (v.toNat % 4096 = 0 → s.SetsDie (.telemetryBase d) v d fun x => { x with telemetry := { x.telemetry with base := v } }) ∧
    (v.toNat % 4096 ≠ 0 → exec (.registerWrite (.telemetryBase d) v) s = .next { s with stalled := true }) := by
  obtain ⟨hok, hno⟩ := State.setsDie_guarded (s := s) (r := .telemetryBase d) (d := d)
    (f := fun x => { x with telemetry := { x.telemetry with base := v } }) (decide (v.toNat % 4096 = 0)) rfl
  exact ⟨fun h => hok (decide_eq_true h), fun h => hno (decide_eq_false h)⟩

theorem write_overflowBase (s : State) (d : BitVec 3) (v : Word) :
    (s.runningOn d.toNat = false → v.toNat % 4096 = 0 → s.SetsDie (.overflowBase d) v d fun x => { x with ovBase := v }) ∧
    (s.runningOn d.toNat = true ∨ v.toNat % 4096 ≠ 0 →
      exec (.registerWrite (.overflowBase d) v) s = .next { s with stalled := true }) := by
  obtain ⟨hok, hno⟩ := State.setsDie_guarded (s := s) (r := .overflowBase d) (d := d)
    (f := fun x => { x with ovBase := v }) (!s.runningOn d.toNat && v.toNat % 4096 = 0) rfl
  refine ⟨fun hr hv => hok (by simp [hr, hv]), fun h => hno ?_⟩
  rcases h with h | h <;> simp [h]

theorem write_overflowCapacity (s : State) (d : BitVec 3) (v : Word) :
    (s.runningOn d.toNat = false → s.SetsDie (.overflowCapacity d) v d fun x =>
      { x with ovCapacity := BitVec.ofNat 32 (v.bits 31 0) }) ∧
    (s.runningOn d.toNat = true → exec (.registerWrite (.overflowCapacity d) v) s = .next { s with stalled := true }) := by
  obtain ⟨hok, hno⟩ := State.setsDie_guarded (s := s) (r := .overflowCapacity d) (d := d)
    (f := fun x => { x with ovCapacity := BitVec.ofNat 32 (v.bits 31 0) }) (!s.runningOn d.toNat) rfl
  exact ⟨fun h => hok (by simp [h]), fun h => hno (by simp [h])⟩

/-- The sizes that R424 allows a ring: none, or a power of two from 128 to 2^20. -/
theorem ringSize_iff (n : Nat) : (n = 0 || (128 ≤ n && n ≤ 2 ^ 20 && n = 2 ^ n.log2)) = true ↔
    n = 0 ∨ ∃ k, 7 ≤ k ∧ k ≤ 20 ∧ n = 2 ^ k := by
  simp only [Bool.or_eq_true, Bool.and_eq_true, decide_eq_true_eq]
  refine or_congr_right ⟨fun ⟨⟨hlo, hhi⟩, hn⟩ => ⟨n.log2, ?_, ?_, hn⟩, ?_⟩
  · exact (Nat.pow_le_pow_iff_right (by decide : 1 < 2)).mp (hn ▸ hlo : 2 ^ 7 ≤ 2 ^ n.log2)
  · exact (Nat.pow_le_pow_iff_right (by decide : 1 < 2)).mp (hn ▸ hhi : 2 ^ n.log2 ≤ 2 ^ 20)
  · rintro ⟨k, hlo, hhi, rfl⟩
    have hlo : 2 ^ 7 ≤ 2 ^ k := Nat.pow_le_pow_right (by decide) hlo
    have hhi : 2 ^ k ≤ 2 ^ 20 := Nat.pow_le_pow_right (by decide) hhi
    exact ⟨⟨hlo, hhi⟩, by rw [Nat.log2_two_pow]⟩

theorem write_telemetryEntries (s : State) (d : BitVec 3) (v : Word) :
    ((v.bits 31 0 = 0 ∨ ∃ k, 7 ≤ k ∧ k ≤ 20 ∧ v.bits 31 0 = 2 ^ k) → s.SetsDie (.telemetryEntries d) v d
      fun x => { x with telemetry := { x.telemetry with entries := BitVec.ofNat 32 (v.bits 31 0) } }) ∧
    (v.bits 31 0 ≠ 0 → (∀ k, 7 ≤ k → k ≤ 20 → v.bits 31 0 ≠ 2 ^ k) →
      exec (.registerWrite (.telemetryEntries d) v) s = .next { s with stalled := true }) := by
  obtain ⟨hok, hno⟩ := State.setsDie_guarded (s := s) (r := .telemetryEntries d) (v := v) (d := d)
    (f := fun x => { x with telemetry := { x.telemetry with entries := BitVec.ofNat 32 (v.bits 31 0) } }) _ rfl
  refine ⟨fun h => hok ((ringSize_iff _).mpr h), fun h0 hk => hno (Bool.eq_false_iff.mpr fun h => ?_)⟩
  rcases (ringSize_iff _).mp h with h | ⟨k, hlo, hhi, h⟩
  · exact h0 h
  · exact hk k hlo hhi h

theorem write_freeFrame (s : State) (d : BitVec 3) (v : Word) :
    (v.bits 23 20 / 2 = d.toNat → s.ActsTo (.registerWrite (.freeFrame d) v)
      { s.setFree (v.bits 23 0) (v.getLsbD 63) with stalled := false }) ∧
    (v.bits 23 20 / 2 ≠ d.toNat → exec (.registerWrite (.freeFrame d) v) s = .next { s with stalled := true }) := by
  obtain ⟨hok, hno⟩ := registerWrite_guarded (s := s) (r := .freeFrame d) (v := v) (decide (v.bits 23 20 / 2 = d.toNat))
    (s.setFree (v.bits 23 0) (v.getLsbD 63)) rfl
  exact ⟨fun h => hok (decide_eq_true h), fun h => hno (decide_eq_false h)⟩

/-! ### The package's registers (R330, R343, R448, R449, R453) -/

theorem write_bankWord (s : State) (c : BitVec 1) (off : BitVec 4) (v : Word) :
    ((s.dirEntry (s.cdie c).tag).state = .lost → s.ActsTo (.registerWrite (.bankWord c off) v)
      { s.bankWrite (s.cdie c).tag (byteMask (8 * off.toNat) 8) (lineSet 0 (8 * off.toNat) 8 v.toNat) with stalled := false }) ∧
    ((s.dirEntry (s.cdie c).tag).state ≠ .lost →
      exec (.registerWrite (.bankWord c off) v) s = .next { s with stalled := true }) := by
  obtain ⟨hok, hno⟩ := registerWrite_guarded (s := s) (r := .bankWord c off) (v := v)
    (decide ((s.dirEntry (s.cdie c).tag).state = .lost))
    (s.bankWrite (s.cdie c).tag (byteMask (8 * off.toNat) 8) (lineSet 0 (8 * off.toNat) 8 v.toNat)) rfl
  exact ⟨fun h => hok (decide_eq_true h), fun h => hno (decide_eq_false h)⟩

theorem write_meterCreate (s : State) (n : BitVec 32) (v : Word) :
    ((∃ m ∈ s.disp.meters, m.number = n) → s.ActsTo (.registerWrite (.meterCreate n) v) { s with stalled := false }) ∧
    ((∀ m ∈ s.disp.meters, m.number ≠ n) → s.ActsTo (.registerWrite (.meterCreate n) v) { s with
      disp := { s.disp with meters := s.disp.meters ++ [⟨n, false, 0, 0, 0, 0, Vector.replicate 8 0⟩] }, stalled := false }) := by
  have hr : Op.registerWrite (.meterCreate n) v s = (if s.disp.meters.any fun m => m.number = n then pure () else
      set { s with disp := { s.disp with
        meters := s.disp.meters ++ [(⟨n, false, 0, 0, 0, 0, Vector.replicate 8 0⟩ : MeterRec)] } } : Op Unit) s := rfl
  refine ⟨fun h => ?_, fun h => ?_⟩
  · rw [if_pos (by simpa using h), Op.pure_run] at hr
    exact ⟨runEvent_ok hr, rfl⟩
  · rw [if_neg (by simpa using h), Op.set_run] at hr
    exact ⟨runEvent_ok hr, rfl⟩

theorem write_testRecord (s : State) (slot : BitVec 16) (q : BitVec 6) (result : BitVec 8) (kernel : BitVec 32) (v : Word) :
    let u := s.telemetry (slot.toNat / 256)
      (Word.ofN (7 * 2 ^ 56 + result.toNat * 2 ^ 48 + slot.toNat * 2 ^ 32 + kernel.toNat)) v (Word.ofN q.toNat)
    (slot.toNat < 2048 → result = 0 → s.ActsTo (.registerWrite (.testRecord slot q result kernel) v)
      { u with stalled := false }) ∧
    (slot.toNat < 2048 → result ≠ 0 → s.ActsTo (.registerWrite (.testRecord slot q result kernel) v) { u with
      pkg := { u.pkg with firmware := u.pkg.firmware ++ [FwEvent.reported (BitVec.ofNat 3 (slot.toNat / 256))] },
      stalled := false }) ∧
    (2048 ≤ slot.toNat → exec (.registerWrite (.testRecord slot q result kernel) v) s = .next { s with stalled := true }) := by
  intro u
  obtain ⟨hok, hno⟩ := registerWrite_guarded (s := s) (r := .testRecord slot q result kernel) (v := v)
    (decide (slot.toNat < 2048)) _ rfl
  have hd : slot.toNat < 2048 → dieOf slot.toNat = slot.toNat / 256 := fun h => by
    unfold dieOf
    omega
  refine ⟨fun h hr => ?_, fun h hr => ?_, fun h => hno (decide_eq_false (Nat.not_lt.mpr h))⟩
  · have := hok (decide_eq_true h)
    rwa [if_pos hr, hd h] at this
  · have := hok (decide_eq_true h)
    rwa [if_neg hr, hd h] at this

/-! ### A start (R346, R460, R467) -/

/-- A new start state, and perhaps a message to the host. -/
theorem State.setStart_eq (s : State) (st : StartState) :
    ∃ more, s.setStart st = { s with pkg := { s.pkg with start := st, msix := s.pkg.msix ++ more } } := by
  unfold State.setStart
  split
  · next h => exact ⟨[], by rw [← h, List.append_nil]⟩
  · exact ⟨[0], rfl⟩

/-- The machine that a start makes: the reset state but for what outlives it. -/
def State.cleared (s : State) (warm ok : Bool) : State :=
  { State.reset with
    unc := { Uncore.reset with host := s.unc.host }
    pkg := { Package.reset with
      address := s.pkg.address
      start := s.pkg.start
      warm := warm
      epoch := s.pkg.epoch + 1
      msix := s.pkg.msix
      ports := if ok then trainedPorts s.pkg.address else []
      identity := { Package.reset.identity with ownerChain := s.pkg.identity.ownerChain } }
    agenda := s.agenda
    tick := s.tick }

/-- The measurements, of these images at the start (R466). -/
def State.measuredWith (s : State) (images : List (List Byte)) : State :=
  { s with pkg := { s.pkg with identity := { s.pkg.identity with measured := s.measurements images } } }

theorem State.restart_eq (s : State) (warm ok : Bool) : ∃ more images, s.restart warm ok =
    State.measuredWith { s.cleared warm ok with pkg := { (s.cleared warm ok).pkg with
      start := if ok then .starting else .failed
      msix := s.pkg.msix ++ more } } images := by
  obtain ⟨more, h⟩ := (s.cleared warm ok).setStart_eq (if ok then .starting else .failed)
  have hr : ∃ images, s.restart warm ok =
      ((s.cleared warm ok).setStart (if ok then .starting else .failed)).measuredWith images := ⟨_, rfl⟩
  obtain ⟨images, hr⟩ := hr
  exact ⟨more, images, by rw [hr, h]; rfl⟩

theorem trainedPorts_idle (a : BitVec 13) : ∀ p ∈ trainedPorts a, p.buffer = [] ∧ p.replay = [] ∧ p.stopped = 0 := by
  intro p hp
  obtain ⟨n, -, rfl⟩ := List.mem_map.mp hp
  exact ⟨rfl, rfl, rfl⟩

theorem start_acts (s : State) (ok warm : Bool) :
    s.ActsTo (if warm then .warmStart ok else .coldStart ok) { s.restart warm ok with stalled := false } := by
  cases warm <;> exact ⟨rfl, rfl⟩

theorem State.reset_die_ready {d : Nat} (h : d < 8) : (State.reset.die d).ready = false := by
  rw [State.die_eq _ h]
  simp [State.reset, DieState.reset]

theorem start_clears (s : State) (ok warm : Bool) : ∃ u, s.ActsTo (if warm then .warmStart ok else .coldStart ok) u ∧
    u.pkg.start = (if ok then .starting else .failed) ∧ u.pkg.warm = warm ∧ u.pkg.address = s.pkg.address ∧
    u.pkg.epoch = s.pkg.epoch + 1 ∧ u.pkg.fence = 0 ∧ u.pkg.identity.ownerChain = s.pkg.identity.ownerChain ∧
    u.unc.host = s.unc.host ∧ u.unc.hbm = [] ∧ u.unc.priv = [] ∧ u.unc.lines = [] ∧ u.disp.tasks = [] ∧ u.peers = [] ∧
    u.core = State.reset.core ∧ (∀ d < 8, (u.die d).ready = false) ∧
    (ok = true → ∀ p ∈ u.pkg.ports, p.buffer = [] ∧ p.replay = [] ∧ p.stopped = 0) ∧ (ok = false → u.pkg.ports = []) := by
  obtain ⟨more, images, h⟩ := s.restart_eq warm ok
  refine ⟨_, start_acts s ok warm, ?_⟩
  rw [h]
  refine ⟨rfl, rfl, rfl, rfl, rfl, rfl, rfl, rfl, rfl, rfl, rfl, rfl, rfl, fun d hd => State.reset_die_ready hd, ?_, ?_⟩
  · rintro rfl
    exact trainedPorts_idle _
  · rintro rfl
    rfl

/-! ### A die enters service (R425, R460, R463) -/

/-- What a die's telemetry leaves: the package, the dispatcher, the other dies, and whether the die is in service. -/
def State.TelemetryFrame (s t : State) (d : Nat) : Prop :=
  t.pkg = s.pkg ∧ t.disp = s.disp ∧ (∀ k, k ≠ d → t.die k = s.die k) ∧ (t.die d).ready = (s.die d).ready

theorem State.die_ready_mapDie (s : State) (d : Nat) {f : DieState → DieState} (hf : ∀ x, (f x).ready = x.ready) :
    ((s.mapDie d f).die d).ready = (s.die d).ready := by
  by_cases h : d < 8
  · rw [s.die_mapDie_same h, hf]
  · rw [State.mapDie, dif_neg h]

theorem State.TelemetryFrame.mapDie {s t : State} {d : Nat} (h : s.TelemetryFrame t d) {f : DieState → DieState}
    (hf : ∀ x, (f x).ready = x.ready) : s.TelemetryFrame (t.mapDie d f) d := by
  obtain ⟨hp, hd, hk, hr⟩ := h
  exact ⟨(t.mapDie_pkg d f).trans hp, (t.mapDie_disp d f).trans hd, fun k h => (t.die_mapDie_ne h f).trans (hk k h),
    (t.die_ready_mapDie d hf).trans hr⟩

theorem State.telemetry_frame (s : State) (d : Nat) (w0 w1 w2 : Word) : s.TelemetryFrame (s.telemetry d w0 w1 w2) d := by
  have h : ∀ unc, s.TelemetryFrame { s with unc := unc } d := fun _ => ⟨rfl, rfl, fun _ _ => rfl, rfl⟩
  simp only [State.telemetry]
  split
  · exact h s.unc
  · split
    · exact (h s.unc).mapDie fun _ => rfl
    · exact (h _).mapDie fun _ => rfl

/-- The ageing records of a die's readings, one after the other. -/
def State.aged (s : State) (d : Nat) (readings : List AgeReading) : State :=
  readings.foldl (fun (s : State) x => s.ageing d x) s

theorem State.aged_frame (s : State) (d : Nat) (readings : List AgeReading) : s.TelemetryFrame (s.aged d readings) d := by
  refine List.foldlRecOn (motive := fun t : State => s.TelemetryFrame t d) _ _ ⟨rfl, rfl, fun _ _ => rfl, rfl⟩
    fun t ⟨hp, hd, hk, hr⟩ x _ => ?_
  obtain ⟨hp', hd', hk', hr'⟩ := t.telemetry_frame d
    (Word.ofN (3 * 2 ^ 56 + x.monitor.toNat * 2 ^ 48 + x.site.toNat * 2 ^ 32 + x.count.toNat))
    (Word.ofN (x.margin.toNat * 2 ^ 32 + x.supply.toNat * 2 ^ 16 + x.temperature.toNat)) 0
  exact ⟨hp'.trans hp, hd'.trans hd, fun k h => (hk' k h).trans (hk k h), hr'.trans hr⟩

/-- A die's entry into service, before the start state is settled. -/
def State.enter (s : State) (die : BitVec 3) (found : DieStart) : State :=
  let d := die.toNat
  let s := (s.addService d).mapDie d fun x => { x with
    ready := true
    cycle := Word.ofN (Config.extraCycles s.tick % (s.cycle.toNat + 1))
    archStore := archWords found.archaism
    energy := Vector.ofFn fun (i : Fin 32) => found.energy.getD i.val 0 }
  let out := (found.harvested.filter fun n => n < 256).map fun n => 256 * d + n
  { s with disp := { s.disp with harvested := (out.filter fun n => !s.disp.harvested.contains n) ++ s.disp.harvested } }

/-- A die's fencing at its start. -/
def State.refuse (s : State) (die : BitVec 3) (found : DieStart) : State :=
  State.msix { s with pkg := { s.pkg with
    fence := s.pkg.fence ||| Word.ofN (2 ^ (2 * die.toNat))
    firmware := s.pkg.firmware ++ [FwEvent.fenced die] ++ (if found.marginMet then [] else [FwEvent.reported die]) } } 2

/-- A die enters service when the module starts and it is neither in service nor fenced. -/
def State.mayEnter (s : State) (d : Nat) : Bool :=
  (s.pkg.start = .starting || s.pkg.start = .limited) && !(s.die d).ready && s.fenceLevel d = 0

/-- The state with the start state settled, and the measurements taken anew (R460, R466). -/
def State.started (s : State) : State := s.settleStart.measuredWith s.settleStart.pkg.identity.measured

theorem exec_dieEnterService (s : State) (die : BitVec 3) (found : DieStart) :
    (s.mayEnter die.toNat = true → s.ActsTo (.dieEnterService die found)
      { State.started (if found.good then (s.aged die.toNat found.samples).enter die found
          else (s.aged die.toNat found.samples).refuse die found) with stalled := false }) ∧
    (s.mayEnter die.toNat = false → exec (.dieEnterService die found) s = .next { s with stalled := true }) := by
  have hr : exec (.dieEnterService die found) s = runEvent (fun s => (Op.need (s.mayEnter die.toNat) >>= fun _ =>
      set (State.started (if found.good then (s.aged die.toNat found.samples).enter die found
        else (s.aged die.toNat found.samples).refuse die found)) : Op Unit) s) s := rfl
  rw [State.ActsTo, hr]
  exact ⟨fun h => ⟨runEvent_ok (Op.need_bind h _ s), rfl⟩, fun h => runEvent_stall (Op.need_bind_stall h _ s)⟩

/-! ### The start state that the dies make (R460, R461) -/

theorem State.setStart_start (s : State) (st : StartState) : (s.setStart st).pkg.start = st := by
  obtain ⟨more, h⟩ := s.setStart_eq st
  rw [h]

theorem State.settleStart_eq (s : State) :
    ∃ st more, s.settleStart = { s with pkg := { s.pkg with start := st, msix := s.pkg.msix ++ more } } := by
  have hs : s = { s with pkg := { s.pkg with start := s.pkg.start, msix := s.pkg.msix ++ [] } } := by rw [List.append_nil]
  have hset : ∀ st, ∃ st' more, s.setStart st = { s with pkg := { s.pkg with start := st', msix := s.pkg.msix ++ more } } :=
    fun st => ⟨st, s.setStart_eq st⟩
  simp only [State.settleStart]
  split
  · split
    · exact hset .failed
    · split
      · exact hset .full
      · split
        · exact hset .limited
        · exact ⟨_, _, hs⟩
  · exact ⟨_, _, hs⟩

/-- With a die in service and not fenced, the module is in service. -/
theorem State.settleStart_inService {s : State} {d : Nat} (hs : s.pkg.start = .starting ∨ s.pkg.start = .limited) (hd : d < 8)
    (hr : (s.die d).ready = true) (hf : s.fenceLevel d = 0) :
    s.settleStart.pkg.start = .limited ∨ s.settleStart.pkg.start = .full := by
  have hmem : d ∈ List.range 8 := List.mem_range.mpr hd
  have hstart : (s.pkg.start = .starting || s.pkg.start = .limited) = true := by simpa using hs
  have hnot : ¬ ((List.range 8).all fun d => s.pkg.fence.toNat / 2 ^ (2 * d) % 4 ≠ 0) = true := fun h =>
    absurd hf (by simpa [State.fenceLevel] using List.all_eq_true.mp h d hmem)
  have hany : ((List.range 8).any fun d => (s.die d).ready) = true := List.any_eq_true.mpr ⟨d, hmem, hr⟩
  simp only [State.settleStart]
  rw [if_pos hstart, if_neg hnot, if_pos hany]
  split
  · exact .inr (s.setStart_start _)
  · exact .inl (s.setStart_start _)

/-- What settling the start state leaves. -/
theorem State.started_frame (s : State) : (∀ k, s.started.die k = s.die k) ∧ s.started.disp = s.disp ∧
    s.started.pkg.fence = s.pkg.fence ∧ s.started.pkg.firmware = s.pkg.firmware ∧ (∀ n ∈ s.pkg.msix, n ∈ s.started.pkg.msix) := by
  obtain ⟨st, more, h⟩ := s.settleStart_eq
  rw [State.started, h]
  exact ⟨fun _ => rfl, rfl, rfl, rfl, fun n hn => List.mem_append_left _ hn⟩

/-! ### What becomes of the die -/

/-- A die without level is given level 1. -/
theorem fence_level_one {x : Nat} (d : Nat) (h : x / 2 ^ (2 * d) % 4 = 0) : (x ||| 2 ^ (2 * d)) / 2 ^ (2 * d) % 4 = 1 := by
  have hx : (x >>> (2 * d)) % 2 ^ 2 = 0 := by rwa [Nat.shiftRight_eq_div_pow]
  have h1 : 2 ^ (2 * d) >>> (2 * d) = 1 := by rw [Nat.shiftRight_eq_div_pow, Nat.div_self (Nat.two_pow_pos _)]
  rw [← Nat.shiftRight_eq_div_pow, Nat.shiftRight_or_distrib, h1]
  change _ % 2 ^ 2 = 1
  rw [Nat.or_mod_two_pow, hx]
  rfl

theorem State.enter_frame (s : State) (d : BitVec 3) (f : DieStart) :
    ((s.enter d f).die d.toNat).ready = true ∧ ((s.enter d f).die d.toNat).archStore = archWords f.archaism ∧
      (s.enter d f).pkg = s.pkg ∧ (∀ n ∈ f.harvested, n < 256 → 256 * d.toNat + n ∈ (s.enter d f).disp.harvested) ∧
      ∀ k, k ≠ d.toNat → (s.enter d f).die k = s.die k := by
  have hd : (s.enter d f).die d.toNat = _ := (s.addService d.toNat).die_mapDie_same d.isLt _
  refine ⟨by rw [hd], by rw [hd], State.mapDie_pkg .., fun n hn hlt => ?_, fun k hk => State.die_mapDie_ne _ hk _⟩
  have hout : 256 * d.toNat + n ∈ (f.harvested.filter fun n => n < 256).map fun n => 256 * d.toNat + n :=
    List.mem_map.mpr ⟨n, List.mem_filter.mpr ⟨hn, decide_eq_true hlt⟩, rfl⟩
  simp only [State.enter, List.mem_append, List.mem_filter]
  refine or_iff_not_imp_right.mpr fun hold => ⟨hout, ?_⟩
  simpa using hold

/-- A die that may enter is in none of the ways refused. -/
theorem State.mayEnter_of {s : State} {d : Nat} (hs : s.pkg.start = .starting ∨ s.pkg.start = .limited)
    (hr : (s.die d).ready = false) (hf : s.fenceLevel d = 0) : s.mayEnter d = true := by
  simpa [State.mayEnter, hr, hf] using hs

theorem dieEnterService_good {s : State} {d : BitVec 3} {f : DieStart} (hs : s.pkg.start = .starting ∨ s.pkg.start = .limited)
    (hr : (s.die d.toNat).ready = false) (hf : s.fenceLevel d.toNat = 0) (hg : f.good = true) :
    ∃ u, s.ActsTo (.dieEnterService d f) u ∧
      (u.die d.toNat).ready = true ∧ (u.die d.toNat).archStore = archWords f.archaism ∧ u.pkg.fence = s.pkg.fence ∧
      (∀ n ∈ f.harvested, n < 256 → 256 * d.toNat + n ∈ u.disp.harvested) ∧
      (∀ k, k ≠ d.toNat → u.die k = s.die k) ∧ (u.pkg.start = .limited ∨ u.pkg.start = .full) := by
  have hacts := (exec_dieEnterService s d f).1 (State.mayEnter_of hs hr hf)
  rw [if_pos hg] at hacts
  obtain ⟨hpkg, -, hother, -⟩ := s.aged_frame d.toNat f.samples
  obtain ⟨hready, harch, hpkg', hout, hother'⟩ := (s.aged d.toNat f.samples).enter_frame d f
  rw [hpkg] at hpkg'
  obtain ⟨hdie, hdisp, hfence, -, -⟩ := ((s.aged d.toNat f.samples).enter d f).started_frame
  refine ⟨_, hacts, ?_, ?_, ?_, ?_, fun k hk => ?_, ?_⟩
  · exact (congrArg DieState.ready (hdie _)).trans hready
  · exact (congrArg DieState.archStore (hdie _)).trans harch
  · exact hfence.trans (congrArg Package.fence hpkg')
  · exact fun n hn hlt => (congrArg Dispatcher.harvested hdisp) ▸ hout n hn hlt
  · exact (hdie k).trans ((hother' k hk).trans (hother k hk))
  · exact State.settleStart_inService (by rwa [hpkg']) d.isLt hready (by rwa [State.fenceLevel, hpkg'])

theorem dieEnterService_bad {s : State} {d : BitVec 3} {f : DieStart} (hs : s.pkg.start = .starting ∨ s.pkg.start = .limited)
    (hr : (s.die d.toNat).ready = false) (hf : s.fenceLevel d.toNat = 0) (hg : f.good = false) :
    ∃ u, s.ActsTo (.dieEnterService d f) u ∧
      u.fenceLevel d.toNat = 1 ∧ (u.die d.toNat).ready = false ∧ FwEvent.fenced d ∈ u.pkg.firmware ∧ 2 ∈ u.pkg.msix := by
  have hacts := (exec_dieEnterService s d f).1 (State.mayEnter_of hs hr hf)
  rw [hg, if_neg Bool.false_ne_true] at hacts
  obtain ⟨hpkg, -, -, hready⟩ := s.aged_frame d.toNat f.samples
  obtain ⟨hdie, -, hfence, hfw, hmsix⟩ := ((s.aged d.toNat f.samples).refuse d f).started_frame
  have hd : 2 * d.toNat < 64 := by omega
  have hlevel : ((s.aged d.toNat f.samples).refuse d f).fenceLevel d.toNat = 1 := by
    have hx : ((s.aged d.toNat f.samples).refuse d f).pkg.fence = s.pkg.fence ||| Word.ofN (2 ^ (2 * d.toNat)) :=
      congrArg (· ||| Word.ofN (2 ^ (2 * d.toNat))) (congrArg Package.fence hpkg)
    rw [State.fenceLevel, hx, BitVec.toNat_or, Word.ofN, BitVec.toNat_ofNat,
      Nat.mod_eq_of_lt (Nat.pow_lt_pow_right (by decide) hd)]
    exact fence_level_one _ hf
  refine ⟨_, hacts, ?_, ?_, ?_, ?_⟩
  · exact (congrArg (fun x : Word => x.toNat / 2 ^ (2 * d.toNat) % 4) hfence).trans hlevel
  · exact (congrArg DieState.ready (hdie _)).trans (hready.trans hr)
  · refine hfw ▸ ?_
    simp [State.refuse, State.msix]
  · refine hmsix 2 ?_
    simp [State.refuse, State.msix]

theorem dieEnterService_ready {s : State} {d : BitVec 3} {f : DieStart} (hr : (s.die d.toNat).ready = true) :
    exec (.dieEnterService d f) s = .next { s with stalled := true } :=
  (exec_dieEnterService s d f).2 (by simp [State.mayEnter, hr])

end Sys2Proof.Machine

open Sys2Proof.Machine in
/-- Settles O57: each register by what its event does and when, the start by `State.restart_eq`, and a die by whether it has what it
needs. -/
theorem registersAndStart : Obligations.RegistersAndStart := by
  unfold Obligations.RegistersAndStart
  refine ⟨fun s v => ?_, fun s v d => ?_, fun s v => ?_, start_clears, fun s d f hs hr hf => ?_, fun _ _ _ => dieEnterService_ready⟩
  · obtain ⟨hplace, hnoplace⟩ := write_placeCtl s v
    exact ⟨⟨rfl, rfl⟩, ⟨rfl, rfl⟩, ⟨rfl, rfl⟩, ⟨rfl, rfl⟩, ⟨rfl, rfl⟩, ⟨rfl, rfl⟩, hplace, hnoplace,
      fun q w => (write_queueCfg s q w v).2,
      fun q h => ⟨(write_queueCfg s q 0 v).1 h, (write_queueCfg s q 1 v).1 h, (write_queueCfg s q 2 v).1 h,
        (write_queueCfg s q 3 v).1 h, (write_queueCfg s q 6 v).1 h⟩,
      fun q => write_sevpolEntry s q v,
      fun d => ⟨_, ⟨rfl, rfl⟩, s.die_mapDie_same d.isLt _, fun _ hk => s.die_mapDie_ne hk _⟩,
      fun d => ⟨_, ⟨rfl, rfl⟩, s.die_mapDie_same d.isLt _, fun _ hk => s.die_mapDie_ne hk _⟩,
      fun _ h8 hlt hf => write_table h8 hlt hf v, fun _ h16 hlt => write_frameEntry_word0 h16 hlt v,
      fun _ h16 hlt => write_frameEntry_word8 h16 hlt v⟩
  · intro sets refuses
    have hsets : ∀ r f, exec (.registerWrite r v) s = .next { s.mapDie d.toNat f with stalled := false } → sets r f :=
      fun _ _ h => State.setsDie_of_acts ⟨h, rfl⟩
    obtain ⟨hbase, hnobase⟩ := write_telemetryBase s d v
    obtain ⟨hsize, hnosize⟩ := write_telemetryEntries s d v
    obtain ⟨hov, hnoov⟩ := write_overflowBase s d v
    obtain ⟨hcap, hnocap⟩ := write_overflowCapacity s d v
    obtain ⟨hfree, hnofree⟩ := write_freeFrame s d v
    exact ⟨hsets (.mixedMask d) _ rfl, fun i => hsets (.energy d i) _ rfl, hsets (.telemetryConsumer d) _ rfl,
      hsets (.telemetryLc d) _ rfl, hbase, fun h => ⟨hnobase h, hnoov (.inr h)⟩, hsize, hnosize, hov, hcap,
      fun h => ⟨hnoov (.inl h), hnocap h⟩, hfree, hnofree⟩
  · exact ⟨fun _ => ⟨rfl, rfl⟩, fun c => ⟨⟨rfl, rfl⟩, fun off => write_bankWord s c off v⟩, fun n => write_meterCreate s n v,
      fun slot q result kernel => write_testRecord s slot q result kernel v⟩
  · refine ⟨fun hu hh hm hi => dieEnterService_good hs hr hf (f.good_iff.mpr ⟨hu, hh, hm, hi⟩),
      fun h => dieEnterService_bad hs hr hf (Bool.eq_false_iff.mpr fun hg => ?_)⟩
    obtain ⟨hu, ⟨n, hlt, hn⟩, hm, hi⟩ := f.good_iff.mp hg
    rcases h with h | h | h | h
    · exact Bool.false_ne_true (h.symm.trans hu)
    · exact hn (h n hlt)
    · exact Bool.false_ne_true (h.symm.trans hm)
    · exact Bool.false_ne_true (h.symm.trans hi)
end

section
/-! O26. The last clause, an object whose entry has no rights, traps HANDLE in every state. A class 3 read that has been sent checked its
descriptor before it was sent, and completes under it when the bytes come, whatever has become of the entry since (R185, R262, R454): the
statement does not ask that none have come. -/

namespace Sys2Proof.Machine

/-- A trap that enters a handler keeps the general registers (R396). -/
theorem State.G_takeTrap_plain {s : State} {cause : Nat} {eaddr einfo : Word}
    (h : s.terminal (Trap.plain cause eaddr einfo) = false) (n : BitVec 6) :
    (s.takeTrap (Trap.plain cause eaddr einfo)).G n = s.G n := by
  have hl : ({ s.logTrap (Trap.plain cause eaddr einfo) with stalled := false } : State).terminal
      (Trap.plain cause eaddr einfo) = false := h
  simp only [State.takeTrap, hl, Bool.false_eq_true, if_false]
  rfl

end Sys2Proof.Machine

namespace Sys2Proof.Withdrawn
open Sys2Proof.Machine

/-- The state of `Sys2Proof.Overfull` once firmware has withdrawn object 16: its entry has no rights, and no cache holds its
descriptor. The two bytes that context 0 had asked for have come, and its traps go to 0x40. -/
def state : State :=
  { Overfull.state with
    core := { Overfull.state.core with
      ctx := { Overfull.state.ctx with sys := { Overfull.state.ctx.sys with trapv := 0x40 } } }
    unc := Uncore.reset }

theorem scalarLoad_run : Op.scalarLoad 1 2 0 .w16 state = .ok (512, state) := rfl

/-- LDZ completes with the bytes that have come. -/
theorem exec_ldz_run : exec (.ldz 1 2 0 .w16) state = .next (state.doneG 1 512) :=
  performNext_ok ⟨rfl, rfl, rfl, rfl⟩ ((Op.bind_ok scalarLoad_run).trans (Op.writeG_run state 1 512 rfl))

/-- A trap would have left g1 as it was. -/
theorem takeTrap_G (eaddr einfo : Word) : (state.takeTrap (Trap.plain cHANDLE eaddr einfo)).G 1 = 0 :=
  State.G_takeTrap_plain (cause := cHANDLE) (eaddr := eaddr) (einfo := einfo) rfl 1

end Sys2Proof.Withdrawn

open Sys2Proof.Machine Sys2Proof.Withdrawn in
/-- Refutes O26: in `Sys2Proof.Withdrawn.state`, where the bytes have come for a reference to an object withdrawn since, `LDZ.h g1, g2, 0`
writes them to g1, and the clause for an entry with no rights says that it traps HANDLE. -/
theorem not_accessChecksTrap : ¬ Obligations.AccessChecksTrap := by
  unfold Obligations.AccessChecksTrap
  intro h
  obtain ⟨-, -, -, -, hnone⟩ := h state 1 2 0 .w16 ⟨rfl, rfl, rfl, rfl⟩ ⟨rfl, rfl⟩ rfl rfl rfl
  have ht := hnone (by decide +kernel) (by decide +kernel) (by decide +kernel) (by decide +kernel) (by decide +kernel)
  rw [exec_ldz_run, Host.Outcome.next.injEq] at ht
  have hg := congrArg (State.G · 1) ht
  simp only [State.doneG, State.G_setCtx_done, Ctx.gval_setG_bitVec, takeTrap_G] at hg
  exact absurd hg (by decide)
end

section
/-! O32. A ring word looks its ring up, checks it, and then waits, advances it or reads it; RSET makes the ring that its record gives. -/

namespace Sys2Proof

theorem Word.bits_lt (w : Word) (hi lo : Nat) : w.bits hi lo < 2 ^ (hi + 1 - lo) := Nat.mod_lt _ (Nat.two_pow_pos _)

theorem Word.toNat_ofNat_bits {n hi lo : Nat} (w : Word) (h : hi + 1 - lo = n) :
    (BitVec.ofNat n (w.bits hi lo)).toNat = w.bits hi lo := by
  subst h
  exact (BitVec.toNat_ofNat ..).trans (Nat.mod_eq_of_lt (Word.bits_lt w hi lo))

/-- The reserved bits and the broken bit are clear together. -/
theorem Word.bits_28_eq_zero_iff (w : Word) : w.bits 63 28 = 0 ↔ w.bits 63 29 = 0 ∧ w.getLsbD 28 = false := by
  rw [BitVec.getLsbD, Nat.testBit_eq_decide_div_mod_eq, decide_eq_false_iff_not, Word.bits, Word.bits]
  omega

end Sys2Proof

namespace Sys2Proof.Machine

/-! ### Looking a ring up (R48, R287) -/

/-- The trap of a ring word (R287). -/
def ringTrapOf (h : BitVec 3) (reason : Nat) : Trap := Trap.plain cRING 0 (Word.ofN (h.toNat * 2 ^ 8 + reason))

theorem Op.ringTrap_run {α : Type} (h : BitVec 3) (reason : Nat) (s : State) :
    (Op.ringTrap h reason : Op α) s = .error (.trap (ringTrapOf h reason)) :=
  rfl

theorem Op.ring_configured {s : State} {h : BitVec 3} (hc : (s.core.ring h.toNat).count ≠ 0) :
    Op.ring h s = .ok (s.core.ring h.toNat, s) := by
  have hk : (s.core.ring h.toNat).configured = true := decide_eq_true hc
  refine (Op.bind_ok (Op.core_run s)).trans ?_
  rw [if_pos hk]
  rfl

theorem Op.ring_unconfigured {s : State} {h : BitVec 3} (hc : (s.core.ring h.toNat).count = 0) :
    Op.ring h s = .error (.trap (ringTrapOf h 2)) := by
  have hk : ¬(s.core.ring h.toNat).configured = true := fun hk => of_decide_eq_true hk hc
  refine (Op.bind_ok (Op.core_run s)).trans ?_
  rw [if_neg hk]
  rfl

/-- A word that begins with a ring that is not configured traps with reason 2. -/
theorem performNext_unconfigured {i : Instr} {s : State} {h : BitVec 3} {rest : Ring → Op Unit} (hi : s.Issues i)
    (hc : (s.core.ring h.toNat).count = 0) :
    performNext i (Op.ring h >>= rest) s = .next (s.takeTrap (ringTrapOf h 2)) :=
  performNext_trap hi (by rw [Op.bind_run, Op.ring_unconfigured hc, Op.halted])

/-! ### Waits (R289) -/

section
variable {i : Instr} {s : State} {h : BitVec 3} {m : BitVec 4} {ready : Ring → Nat → Bool}

/-- What a wait on a configured ring does, by its checks in their order. -/
theorem Op.ringWait_run (hc : (s.core.ring h.toNat).count ≠ 0) :
    Op.ringWait h m ready s =
      if (s.core.ring h.toNat).slots < m.toNat + 1 then .error (.trap (ringTrapOf h 5))
      else if (s.core.ring h.toNat).broken then .error (.trap (ringTrapOf h 4))
      else if ready (s.core.ring h.toNat) (m.toNat + 1) then .ok ((), s) else .error .stall := by
  refine (Op.bind_ok (Op.ring_configured hc)).trans ?_
  simp only [Op.ite_run, Op.ringTrap_run, Op.need_run]

variable (hi : s.Issues i) (hc : (s.core.ring h.toNat).count ≠ 0)
include hi hc

theorem ringWait_tooMany (hn : (s.core.ring h.toNat).slots < m.toNat + 1) :
    performNext i (Op.ringWait h m ready) s = .next (s.takeTrap (ringTrapOf h 5)) :=
  performNext_trap hi (by rw [Op.ringWait_run hc, if_pos hn])

theorem ringWait_broken (hn : m.toNat + 1 ≤ (s.core.ring h.toNat).slots) (hb : (s.core.ring h.toNat).broken = true) :
    performNext i (Op.ringWait h m ready) s = .next (s.takeTrap (ringTrapOf h 4)) :=
  performNext_trap hi (by rw [Op.ringWait_run hc, if_neg hn.not_gt, if_pos hb])

variable (hn : m.toNat + 1 ≤ (s.core.ring h.toNat).slots) (hb : (s.core.ring h.toNat).broken = false)
include hn hb

theorem ringWait_ready (hr : ready (s.core.ring h.toNat) (m.toNat + 1) = true) :
    performNext i (Op.ringWait h m ready) s = .next s.done :=
  performNext_ok hi (by rw [Op.ringWait_run hc, if_neg hn.not_gt, hb, if_neg Bool.false_ne_true, if_pos hr])

theorem ringWait_waits (hr : ready (s.core.ring h.toNat) (m.toNat + 1) = false) :
    performNext i (Op.ringWait h m ready) s = .next s.standStill :=
  performNext_stall hi (by rw [Op.ringWait_run hc, if_neg hn.not_gt, hb, hr, if_neg Bool.false_ne_true, if_neg Bool.false_ne_true])

end

/-! ### Advances (R290) -/

/-- With no reduction under way and no report pending a release waits for nothing. -/
theorem Op.releaseWait_idle {s : State} (ho : s.unc.bankOps = []) (hr : s.ctx.reports = []) (scope : Nat) :
    Op.releaseWait scope s = .ok ((), s) := by
  simp [Op.releaseWait, State.redsIn, State.bankReport, ho, hr]

section
variable {i : Instr} {s : State} {h : BitVec 3} {m : BitVec 4} {f : Ring → Nat → Option Ring}
  (hi : s.Issues i) (hc : (s.core.ring h.toNat).count ≠ 0)
include hi hc

theorem ringAdvance_broken (hb : (s.core.ring h.toNat).broken = true) :
    performNext i (Op.ringAdvance h m f) s = .next (s.takeTrap (ringTrapOf h 4)) := by
  refine performNext_trap hi ((Op.bind_ok (Op.ring_configured hc)).trans ?_)
  rw [if_pos hb, Op.ringTrap_run]

variable (hb : (s.core.ring h.toNat).broken = false)
include hb

theorem ringAdvance_unfit (hf : f (s.core.ring h.toNat) (m.toNat + 1) = none) :
    performNext i (Op.ringAdvance h m f) s = .next (s.takeTrap (ringTrapOf h 3)) := by
  refine performNext_trap hi ((Op.bind_ok (Op.ring_configured hc)).trans ?_)
  rw [hb, if_neg Bool.false_ne_true, hf]
  exact Op.ringTrap_run h 3 s

theorem ringAdvance_fits {r : Ring} (hf : f (s.core.ring h.toNat) (m.toNat + 1) = some r) (ho : s.unc.bankOps = [])
    (hr : s.ctx.reports = []) :
    performNext i (Op.ringAdvance h m f) s = .next (State.done { s with core := s.core.setRing h.toNat r }) := by
  refine performNext_ok hi ((Op.bind_ok (Op.ring_configured hc)).trans ?_)
  rw [hb, if_neg Bool.false_ne_true, hf]
  exact Op.bind_ok (Op.releaseWait_idle ho hr 2)

end

/-! ### The configuration words (R47, R291) -/

theorem Ring.toNat_word0 (r : Ring) :
    r.word0.toNat = r.broken.toNat * 2 ^ 28 + r.count.toNat * 2 ^ 24 + r.size.toNat * 2 ^ 20 + r.base.toNat := by
  have := r.broken.toNat_le
  rw [Ring.word0, Word.ofN, BitVec.toNat_ofNat]
  omega

theorem Ring.toNat_word1 (r : Ring) : r.word1.toNat = r.consumer.toNat * 2 ^ 32 + r.producer.toNat := by
  rw [Ring.word1, Word.ofN, BitVec.toNat_ofNat]
  omega

theorem Ring.word0_fields (r : Ring) : r.word0.getLsbD 28 = r.broken ∧ r.word0.bits 63 29 = 0 ∧
    r.word0.bits 27 24 = r.count.toNat ∧ r.word0.bits 23 20 = r.size.toNat ∧ r.word0.bits 19 0 = r.base.toNat := by
  have hb := r.broken.toNat_le
  refine ⟨?_, ?_, ?_, ?_, ?_⟩
  · rw [BitVec.getLsbD, Nat.testBit_eq_decide_div_mod_eq, r.toNat_word0,
      show (r.broken.toNat * 2 ^ 28 + r.count.toNat * 2 ^ 24 + r.size.toNat * 2 ^ 20 + r.base.toNat) / 2 ^ 28 % 2 =
        r.broken.toNat by omega]
    cases r.broken <;> rfl
  all_goals
    rw [Word.bits, r.toNat_word0]
    omega

theorem Ring.word1_fields (r : Ring) : r.word1.bits 63 32 = r.consumer.toNat ∧ r.word1.bits 31 0 = r.producer.toNat := by
  constructor
  all_goals
    rw [Word.bits, r.toNat_word1]
    omega

/-! ### RSET (R48, R288) -/

/-- What the two words of a record must satisfy to make a ring (R48). -/
def Ring.WordsValid (w0 w1 : Word) : Prop :=
  w0.bits 63 28 = 0 ∧ 1 ≤ w0.bits 27 24 ∧ w0.bits 27 24 ≤ 12 ∧ w0.bits 23 20 ≤ 11 ∧ w0.bits 19 0 % 32 = 0 ∧
    w0.bits 19 0 + 2 ^ w0.bits 27 24 * (32 * 2 ^ w0.bits 23 20) ≤ 2 ^ 20 ∧ w1.bits 63 32 = w1.bits 31 0

/-- The ring that the two words of a valid record make. -/
def Ring.made (w0 w1 : Word) : Ring :=
  ⟨false, BitVec.ofNat 4 (w0.bits 27 24), BitVec.ofNat 4 (w0.bits 23 20), BitVec.ofNat 20 (w0.bits 19 0),
    BitVec.ofNat 32 (w1.bits 63 32), BitVec.ofNat 32 (w1.bits 31 0)⟩

theorem Ring.ofWords_valid {w0 w1 : Word} (h : Ring.WordsValid w0 w1) : Ring.ofWords w0 w1 = some (Ring.made w0 w1) := by
  obtain ⟨hres, hlo, hhi, hsize, hbase, hend, hsame⟩ := h
  obtain ⟨hz, hb⟩ := (Word.bits_28_eq_zero_iff w0).mp hres
  simp only [Ring.ofWords, Ring.slots, Ring.slotBytes, Word.toNat_ofNat_bits, hb, hz, hsame, Ring.made]
  rw [if_pos (by simpa [hlo, hhi, hsize, hbase] using hend)]

theorem Ring.ofWords_invalid {w0 w1 : Word} (h : ¬Ring.WordsValid w0 w1) : Ring.ofWords w0 w1 = none := by
  refine if_neg fun hv => h ?_
  simp only [Ring.slots, Ring.slotBytes, Word.toNat_ofNat_bits, Bool.and_eq_true, decide_eq_true_eq, Bool.not_eq_true'] at hv
  obtain ⟨⟨⟨⟨⟨⟨⟨hz, hb⟩, hlo⟩, hhi⟩, hsize⟩, hbase⟩, hend⟩, hsame⟩ := hv
  refine ⟨(Word.bits_28_eq_zero_iff w0).mpr ⟨hz, hb⟩, hlo, hhi, hsize, hbase, hend, ?_⟩
  have ht := congrArg BitVec.toNat hsame
  rwa [Word.toNat_ofNat_bits (n := 32) _ rfl, Word.toNat_ofNat_bits (n := 32) _ rfl] at ht

/-- A load at a reference that passes every check. -/
theorem Op.load_local {s : State} {ref : Word} {n : Nat} (h : s.LocalOk ref n) (kind : Nat) :
    Op.load (s.self 0) (coreAcc ref n kind) s = .ok (s.localValue (refOffset ref) n, s) := by
  obtain ⟨hh, -, -, -, hf, -, ho⟩ := id h
  have hle : refHandle (coreAcc ref n kind).ref ≤ 1 := hh.trans_le (Nat.zero_le 1)
  have hsp : s.inSpill (s.self 0) (coreAcc ref n kind).ref = false := h.inSpill _
  have hr : s.ownRed (s.self 0) (.local s.core.id (refOffset ref)) (coreAcc ref n kind).n = false := ho
  refine (Op.bind_ok (Op.get_run s)).trans ?_
  rw [hsp, if_neg Bool.false_ne_true, if_pos hle]
  refine (Op.bind_ok (Op.localTarget_run h 0 kind)).trans ?_
  refine (Op.bind_ok (a := ()) (t := s) ?_).trans ?_
  · rw [hr]
    rfl
  · simp [Op.localLoad, Op.lmCheck, State.findCore_self, hf]
    rfl

/-- A load of local memory is no message (R433). -/
theorem Op.loadMsg_local {s : State} {ref : Word} (h : refHandle ref = 0) (fields : List Nat) (op : Op Nat) :
    Op.loadMsg fields ref op s = op s := by
  simp [Op.loadMsg, State.loadMessage, State.classOf, h]

/-- The record that an RSET finds at `ref`: in local memory, or already read. -/
def State.HasRecord (s : State) (ref : Word) (v : Nat) : Prop :=
  s.ctx.ringRec = none ∧ s.LocalOk ref 16 ∧ v = s.localValue (refOffset ref) 16 ∨ s.ctx.ringRec = some (ref, v)

section
variable {s : State} {h : BitVec 3} {ref : Word} {v : Nat}

/-- A record in local memory, read for the first time. -/
theorem Op.ringRecord_first (hr : s.ctx.ringRec = none) (hl : s.LocalOk ref 16) :
    Op.ringRecord h ref s =
      if s.core.namesRing h.toNat then
        .error (.block (s.setCtx { s.ctx with ringRec := some (ref, s.localValue (refOffset ref) 16) }))
      else .ok (s.localValue (refOffset ref) 16, s) := by
  refine (Op.bind_ok (Op.get_run s)).trans ?_
  rw [hr]
  refine (Op.bind_ok (Op.aligned_run hl 0)).trans ?_
  refine (Op.bind_ok ((Op.loadMsg_local hl.1 _ _).trans (Op.load_local hl 0))).trans ?_
  refine (Op.bind_ok (Op.core_run s)).trans ?_
  cases s.core.namesRing h.toNat <;> rfl

/-- A record that has been read is not read again. -/
theorem Op.ringRecord_again (hr : s.ctx.ringRec = some (ref, v)) :
    Op.ringRecord h ref s = if s.core.namesRing h.toNat then .error .stall else .ok (v, s) := by
  refine (Op.bind_ok (Op.get_run s)).trans ?_
  rw [hr]
  simp only [Op.bind_run, Op.need_run, decide_true, Bool.true_and]
  cases s.core.namesRing h.toNat <;> rfl

theorem Op.ringRecord_unnamed (hrec : s.HasRecord ref v) (hn : s.core.namesRing h.toNat = false) :
    Op.ringRecord h ref s = .ok (v, s) := by
  rcases hrec with ⟨hr, hl, hv⟩ | hr
  · rw [hv, Op.ringRecord_first hr hl, hn, if_neg Bool.false_ne_true]
  · rw [Op.ringRecord_again hr, hn, if_neg Bool.false_ne_true]

end

section
variable {s : State} {h : BitVec 3} {a : BitVec 6} {v : Nat} (hi : s.Issues (.rset h a)) (ha : s.CanRead a)
include hi ha

/-- A command names the handle: RSET waits with the record that it has read. -/
theorem exec_rset_first (hr : s.ctx.ringRec = none) (hl : s.LocalOk (s.G a) 16) (hn : s.core.namesRing h.toNat = true) :
    exec (.rset h a) s =
      .next (s.setCtx { s.ctx with ringRec := some (s.G a, s.localValue (refOffset (s.G a)) 16) }).retreat := by
  refine performNext_block hi ((Op.bind_ok (Op.readG_run s a ha)).trans ?_)
  rw [Op.bind_run, Op.ringRecord_first hr hl, if_pos hn, Op.halted]

theorem exec_rset_again (hr : s.ctx.ringRec = some (s.G a, v)) (hn : s.core.namesRing h.toNat = true) :
    exec (.rset h a) s = .next s.standStill := by
  refine performNext_stall hi ((Op.bind_ok (Op.readG_run s a ha)).trans ?_)
  rw [Op.bind_run, Op.ringRecord_again hr, if_pos hn, Op.halted]

variable (hrec : s.HasRecord (s.G a) v) (hn : s.core.namesRing h.toNat = false)
include hrec hn

theorem exec_rset_valid (hv : Ring.WordsValid (Word.ofN v) (Word.ofN (v / 2 ^ 64))) :
    exec (.rset h a) s = .next (State.done { s with
      core := s.core.setRing h.toNat (Ring.made (Word.ofN v) (Word.ofN (v / 2 ^ 64))) }) := by
  refine performNext_ok hi ((Op.bind_ok (Op.readG_run s a ha)).trans ?_)
  rw [Op.bind_ok (Op.ringRecord_unnamed hrec hn), Ring.ofWords_valid hv]
  rfl

theorem exec_rset_invalid (hv : ¬Ring.WordsValid (Word.ofN v) (Word.ofN (v / 2 ^ 64))) :
    exec (.rset h a) s = .next (s.takeTrap (ringTrapOf h 1)) := by
  refine performNext_trap hi ((Op.bind_ok (Op.readG_run s a ha)).trans ?_)
  rw [Op.bind_ok (Op.ringRecord_unnamed hrec hn), Ring.ofWords_invalid hv]
  rfl

end

/-! ### RSTAT (R291) -/

theorem exec_rstat_unconfigured {s : State} {d : BitVec 6} {h : BitVec 3} {w : BitVec 1} (hi : s.Issues (.rstat d h w))
    (hd : s.CanWrite d) (hc : (s.core.ring h.toNat).count = 0) :
    exec (.rstat d h w) s = .next (s.takeTrap (ringTrapOf h 2)) := by
  refine performNext_trap hi ((Op.bind_ok (Op.freeG_run s d hd)).trans ?_)
  rw [Op.bind_run, Op.ring_unconfigured hc, Op.halted]

theorem exec_rstat {s : State} {d : BitVec 6} {h : BitVec 3} {w : BitVec 1} (hi : s.Issues (.rstat d h w))
    (hd : s.CanWrite d) (hc : (s.core.ring h.toNat).count ≠ 0) : exec (.rstat d h w) s =
      .next (s.doneG d (if w = 0 then (s.core.ring h.toNat).word0 else (s.core.ring h.toNat).word1)) := by
  refine performNext_ok hi ((Op.bind_ok (Op.freeG_run s d hd)).trans ?_)
  exact (Op.bind_ok (Op.ring_configured hc)).trans (Op.writeG_run s d _ hd)

end Sys2Proof.Machine

open Sys2Proof.Machine in
/-- Settles O32: each word by what it does on a ring that is configured, in the order of its checks, and RSET by whether a command
names the handle and whether its record is valid. -/
theorem ringWords : Obligations.RingWords := by
  unfold Obligations.RingWords
  refine ⟨fun s h m => ⟨fun hi => ?_, fun hi => ?_, fun hi => ?_, fun hi => ?_, fun d w hi hd => ?_⟩,
    fun s h a v hi ha hrec => ⟨fun hn hr => ?_, fun hn hr => ?_, exec_rset_valid hi ha hrec, exec_rset_invalid hi ha hrec⟩⟩
  · exact ⟨performNext_unconfigured hi, ringWait_tooMany hi, ringWait_broken hi,
      fun hc hn hb hr => ringWait_ready hi hc hn hb (decide_eq_true hr),
      fun hc hn hb hr => ringWait_waits hi hc hn hb (decide_eq_false hr.not_ge)⟩
  · exact ⟨performNext_unconfigured hi, ringWait_tooMany hi, ringWait_broken hi,
      fun hc hn hb hr => ringWait_ready hi hc hn hb (decide_eq_true (by omega)),
      fun hc hn hb hr => ringWait_waits hi hc hn hb (decide_eq_false (by omega))⟩
  · exact ⟨performNext_unconfigured hi, ringAdvance_broken hi, fun hc hb hr => ringAdvance_unfit hi hc hb (if_neg hr.not_ge),
      fun hc hb hr => ringAdvance_fits hi hc hb (if_pos hr)⟩
  · exact ⟨performNext_unconfigured hi, ringAdvance_broken hi, fun hc hb hr => ringAdvance_unfit hi hc hb (if_neg hr.not_ge),
      fun hc hb hr => ringAdvance_fits hi hc hb (if_pos hr)⟩
  · refine ⟨exec_rstat_unconfigured hi hd, fun hc => ⟨_, exec_rstat hi hd hc, fun hw => ?_, fun hw => ?_⟩⟩
    · rw [if_pos hw]
      exact Ring.word0_fields _
    · rw [hw]
      exact Ring.word1_fields _
  · rcases hrec with ⟨-, hl, hv⟩ | hs
    · rw [hv]
      exact exec_rset_first hi ha hr hl hn
    · exact absurd (hr.symm.trans hs) nofun
  · rcases hrec with ⟨hs, -⟩ | hs
    · rw [hs] at hr
      exact absurd hr Bool.false_ne_true
    · exact exec_rset_again hi ha hs hn
end

section
/-! PROOFS. The accumulator (R62 to R66, R75). R66 takes the special values that meet in an element as a set: whether +inf is in it,
whether -inf is, and the least payload of its NaNs. A special state stands for such a set, told here by what it leaves out
(`unmetOf`); the join is the union of the sets, so the meet of what each leaves out, and its laws are those of the meet. The payload
0x400000 of the inf clash is what makes this one table: it is the bound that no NaN's payload passes. An addition is the combination
with the element that holds the contribution alone (`Elem.add_eq_combine`), which carries the laws to elements and to lists of
contributions. -/

namespace Sys2Proof.Machine

/-! ### The join of special states (R63) -/

/-- The class and payload that an element may hold (R62): a payload no larger than the clash's, and 0 but for NaN. -/
def JoinState (x : AccClass × Nat) : Prop := x.2 ≤ 0x400000 ∧ (x.1 ≠ .nan → x.2 = 0)

/-- What the special values met leave out (R66): whether +inf is not among them, whether -inf is not, and the least payload of the
NaNs, where both infinities count as a NaN of payload 0x400000. The more is met, the lower. -/
def unmetOf : AccClass × Nat → Bool × Bool × Nat
  | (.finite, _) => (true, true, 0x400000)
  | (.posInf, _) => (false, true, 0x400000)
  | (.negInf, _) => (true, false, 0x400000)
  | (.nan, p) => (false, false, p)

/-- The class and payload that stand for what is left out. -/
def stateOf : Bool × Bool × Nat → AccClass × Nat
  | (true, true, _) => (.finite, 0)
  | (false, true, _) => (.posInf, 0)
  | (true, false, _) => (.negInf, 0)
  | (false, false, p) => (.nan, p)

theorem JoinState.cases {x : AccClass × Nat} (h : JoinState x) :
    x = (.finite, 0) ∨ x = (.posInf, 0) ∨ x = (.negInf, 0) ∨ ∃ p ≤ 0x400000, x = (.nan, p) := by
  obtain ⟨k, p⟩ := x
  obtain ⟨hp, hk⟩ := h
  cases k with
  | finite => exact .inl (congrArg _ (hk nofun))
  | posInf => exact .inr (.inl (congrArg _ (hk nofun)))
  | negInf => exact .inr (.inr (.inl (congrArg _ (hk nofun))))
  | nan => exact .inr (.inr (.inr ⟨p, hp, rfl⟩))

theorem stateOf_unmetOf {x : AccClass × Nat} (h : JoinState x) : stateOf (unmetOf x) = x := by
  obtain rfl | rfl | rfl | ⟨p, -, rfl⟩ := h.cases <;> rfl

theorem unmetOf_injective {x y : AccClass × Nat} (hx : JoinState x) (hy : JoinState y) (h : unmetOf x = unmetOf y) : x = y := by
  rw [← stateOf_unmetOf hx, h, stateOf_unmetOf hy]

theorem JoinState.join {x y : AccClass × Nat} (hx : JoinState x) (hy : JoinState y) : JoinState (joinClass x y) := by
  obtain rfl | rfl | rfl | ⟨p, hp, rfl⟩ := hx.cases <;> obtain rfl | rfl | rfl | ⟨q, hq, rfl⟩ := hy.cases <;>
    simp_all [JoinState, joinClass]

theorem unmetOf_joinClass {x y : AccClass × Nat} (hx : JoinState x) (hy : JoinState y) :
    unmetOf (joinClass x y) = unmetOf x ⊓ unmetOf y := by
  obtain rfl | rfl | rfl | ⟨p, hp, rfl⟩ := hx.cases <;> obtain rfl | rfl | rfl | ⟨q, hq, rfl⟩ := hy.cases <;>
    simp [unmetOf, joinClass, *]

theorem joinClass_comm {x y : AccClass × Nat} (hx : JoinState x) (hy : JoinState y) : joinClass x y = joinClass y x :=
  unmetOf_injective (hx.join hy) (hy.join hx) (by rw [unmetOf_joinClass hx hy, unmetOf_joinClass hy hx, inf_comm])

theorem joinClass_assoc {x y z : AccClass × Nat} (hx : JoinState x) (hy : JoinState y) (hz : JoinState z) :
    joinClass (joinClass x y) z = joinClass x (joinClass y z) :=
  unmetOf_injective ((hx.join hy).join hz) (hx.join (hy.join hz)) (by
    rw [unmetOf_joinClass (hx.join hy) hz, unmetOf_joinClass hx hy, unmetOf_joinClass hx (hy.join hz),
      unmetOf_joinClass hy hz, inf_assoc])

theorem joinClass_self {x : AccClass × Nat} (hx : JoinState x) : joinClass x x = x :=
  unmetOf_injective (hx.join hx) hx (by rw [unmetOf_joinClass hx hx, inf_idem])

theorem joinState_finite : JoinState (.finite, 0) := ⟨Nat.zero_le _, fun _ => rfl⟩

@[simp] theorem joinClass_finite_left (x : AccClass × Nat) : joinClass (.finite, 0) x = x := rfl

theorem joinClass_finite_right {x : AccClass × Nat} (hx : JoinState x) : joinClass x (.finite, 0) = x :=
  joinClass_comm hx joinState_finite

/-! ### Combining elements (R65) -/

/-- The special state of an element. -/
def Elem.state (e : Elem) : AccClass × Nat := (e.cls, e.payload.toNat)

/-- An element whose special state R62 allows. -/
def Elem.Ok (e : Elem) : Prop := JoinState e.state

theorem Elem.eq_of_state {x y : Elem} (ha : x.a = y.a) (hs : x.state = y.state) (hc : x.clamp = y.clamp) : x = y := by
  obtain ⟨hk, hp⟩ := Prod.mk.inj hs
  cases x
  cases y
  simp_all [BitVec.toNat_inj]

@[simp] theorem Elem.combine_a (x y : Elem) : (x.combine y).a = x.a + y.a := rfl

@[simp] theorem Elem.combine_clamp (x y : Elem) : (x.combine y).clamp = (x.clamp || y.clamp) := rfl

theorem JoinState.toNat_ofNat {x : AccClass × Nat} (h : JoinState x) : (BitVec.ofNat 23 x.2).toNat = x.2 :=
  (BitVec.toNat_ofNat ..).trans (Nat.mod_eq_of_lt (h.1.trans_lt (by decide)))

theorem Elem.combine_state {x y : Elem} (hx : x.Ok) (hy : y.Ok) : (x.combine y).state = joinClass x.state y.state :=
  Prod.ext rfl (JoinState.toNat_ofNat (hx.join hy))

theorem Elem.Ok.combine {x y : Elem} (hx : x.Ok) (hy : y.Ok) : (x.combine y).Ok := by
  rw [Elem.Ok, Elem.combine_state hx hy]
  exact hx.join hy

theorem Elem.combine_comm {x y : Elem} (hx : x.Ok) (hy : y.Ok) : x.combine y = y.combine x :=
  Elem.eq_of_state (BitVec.add_comm ..)
    (by rw [Elem.combine_state hx hy, Elem.combine_state hy hx, joinClass_comm hx hy]) (Bool.or_comm ..)

theorem Elem.combine_assoc {x y z : Elem} (hx : x.Ok) (hy : y.Ok) (hz : z.Ok) :
    (x.combine y).combine z = x.combine (y.combine z) :=
  Elem.eq_of_state (BitVec.add_assoc ..)
    (by rw [Elem.combine_state (hx.combine hy) hz, Elem.combine_state hx hy, Elem.combine_state hx (hy.combine hz),
      Elem.combine_state hy hz, joinClass_assoc hx hy hz]) (Bool.or_assoc ..)

theorem Elem.combine_right_comm {x y z : Elem} (hx : x.Ok) (hy : y.Ok) (hz : z.Ok) :
    (x.combine y).combine z = (x.combine z).combine y := by
  rw [Elem.combine_assoc hx hy hz, Elem.combine_comm hy hz, Elem.combine_assoc hx hz hy]

/-! ### Images (R62) -/

theorem AccClass.code_lt (k : AccClass) : k.code < 4 := by cases k <;> decide

@[simp] theorem AccClass.ofCode_code (k : AccClass) : AccClass.ofCode k.code = k := by cases k <;> rfl

theorem AccClass.code_eq_three_iff (k : AccClass) : k.code = 3 ↔ k = .nan := by cases k <;> decide

theorem Elem.image_fields (e : Elem) : e.image % 2 ^ 96 = e.a.toNat ∧ e.image / 2 ^ 96 % 4 = e.cls.code ∧
    e.image / 2 ^ 98 % 2 ^ 23 = e.payload.toNat ∧ e.image / 2 ^ 121 = e.clamp.toNat := by
  have ha := e.a.isLt
  have hk := e.cls.code_lt
  have hp := e.payload.isLt
  unfold Elem.image
  refine ⟨?_, ?_, ?_, ?_⟩ <;> omega

theorem Elem.ofImage_image {e : Elem} (h : e.Ok) : Elem.ofImage e.image = some e := by
  obtain ⟨ha, hk, hp, hc⟩ := e.image_fields
  have hlt : e.image / 2 ^ 122 = 0 := by
    have := e.clamp.toNat_lt
    omega
  have hbit : e.image.testBit 121 = e.clamp := by
    rw [Nat.testBit_eq_decide_div_mod_eq, hc]
    cases e.clamp <;> rfl
  have hvec : BitVec.ofNat 96 e.image = e.a := BitVec.eq_of_toNat_eq ((BitVec.toNat_ofNat ..).trans ha)
  have hok : e.payload.toNat ≤ 0x400000 ∧ (e.cls ≠ .nan → e.payload.toNat = 0) := h
  simp only [Elem.ofImage, hk, hp, hlt, hbit, hvec]
  simpa [AccClass.code_eq_three_iff] using hok

/-! ### Adding contributions (R64) -/

/-- A contribution whose special state, if it has one, R62 allows. -/
def Contrib.Ok (c : Contrib) : Prop := ∀ k p, c = .special k p → JoinState (k, p)

/-- The element that holds one contribution and nothing else. -/
def Contrib.elem : Contrib → Elem
  | .special k p => ⟨0, k, BitVec.ofNat 23 p, false⟩
  | .num c => ⟨BitVec.ofInt 96 (clampI (-(2 ^ 79)) (2 ^ 79 - 1) c), .finite, 0,
      decide (clampI (-(2 ^ 79)) (2 ^ 79 - 1) c ≠ c)⟩

theorem Contrib.elem_state_special {k : AccClass} {p : Nat} (h : (Contrib.special k p).Ok) :
    (Contrib.special k p).elem.state = (k, p) :=
  congrArg (Prod.mk k) (h k p rfl).toNat_ofNat

theorem Contrib.Ok.elem : ∀ {c : Contrib}, c.Ok → c.elem.Ok
  | .special k p, h => (Contrib.elem_state_special h ▸ h k p rfl :)
  | .num _, _ => joinState_finite

theorem Elem.add_eq_combine {e : Elem} {c : Contrib} (he : e.Ok) (hc : c.Ok) : e.add c = e.combine c.elem := by
  cases c with
  | special k p =>
    refine Elem.eq_of_state (BitVec.add_zero _).symm ?_ (Bool.or_false _).symm
    rw [Elem.combine_state he hc.elem, Contrib.elem_state_special hc]
    exact Prod.ext rfl (he.join (hc k p rfl)).toNat_ofNat
  | num c =>
    refine Elem.eq_of_state rfl ?_ rfl
    exact ((Elem.combine_state he hc.elem).trans (joinClass_finite_right he)).symm

theorem Elem.Ok.add {e : Elem} {c : Contrib} (he : e.Ok) (hc : c.Ok) : (e.add c).Ok := by
  rw [Elem.add_eq_combine he hc]
  exact he.combine hc.elem

theorem Elem.add_right_comm {e : Elem} {c d : Contrib} (he : e.Ok) (hc : c.Ok) (hd : d.Ok) :
    (e.add c).add d = (e.add d).add c := by
  rw [Elem.add_eq_combine (he.add hc) hd, Elem.add_eq_combine he hc, Elem.add_eq_combine (he.add hd) hc,
    Elem.add_eq_combine he hd, Elem.combine_right_comm he hc.elem hd.elem]

theorem Elem.add_combine {x y : Elem} {c : Contrib} (hx : x.Ok) (hy : y.Ok) (hc : c.Ok) :
    (x.add c).combine y = (x.combine y).add c := by
  rw [Elem.add_eq_combine hx hc, Elem.add_eq_combine (hx.combine hy) hc, Elem.combine_right_comm hx hc.elem hy]

theorem Elem.foldl_add_perm {l₁ l₂ : List Contrib} (h : l₁.Perm l₂) {e : Elem} (he : e.Ok) (hl : ∀ c ∈ l₁, c.Ok) :
    l₁.foldl Elem.add e = l₂.foldl Elem.add e := by
  induction h generalizing e with
  | nil => rfl
  | cons c _ ih =>
    obtain ⟨hc, hl⟩ := List.forall_mem_cons.mp hl
    exact ih (he.add hc) hl
  | swap c d l =>
    obtain ⟨hd, hc, -⟩ := List.forall_mem_cons.mp hl |>.imp_right List.forall_mem_cons.mp
    exact congrArg (l.foldl Elem.add) (Elem.add_right_comm he hd hc)
  | trans h₁ _ ih₁ ih₂ => exact (ih₁ he hl).trans (ih₂ he fun c hc => hl c (h₁.mem_iff.mpr hc))

theorem Elem.foldl_add_combine {x y : Elem} {l : List Contrib} (hx : x.Ok) (hy : y.Ok) (hl : ∀ c ∈ l, c.Ok) :
    (l.foldl Elem.add x).combine y = l.foldl Elem.add (x.combine y) := by
  induction l generalizing x with
  | nil => rfl
  | cons c l ih =>
    obtain ⟨hc, hl⟩ := List.forall_mem_cons.mp hl
    exact (ih (hx.add hc) hl).trans (congrArg (l.foldl Elem.add) (Elem.add_combine hx hy hc))

section
variable {c : Int}

theorem clampI_of_mem {lo hi : Int} (h : lo ≤ c ∧ c ≤ hi) : clampI lo hi c = c := by
  rw [clampI, if_neg h.1.not_gt, if_neg h.2.not_gt]

theorem clampI_of_gt {lo hi : Int} (hlo : lo ≤ hi) (h : hi < c) : clampI lo hi c = hi := by
  rw [clampI, if_neg (by omega), if_pos h]

theorem clampI_of_lt {lo hi : Int} (h : c < lo) : clampI lo hi c = lo := if_pos h

variable (e : Elem)

theorem Elem.add_num_inside (h : -(2 ^ 79) ≤ c ∧ c ≤ 2 ^ 79 - 1) :
    (e.add (.num c)).a = e.a + BitVec.ofInt 96 c ∧ (e.add (.num c)).clamp = e.clamp := by
  simp only [Elem.add, clampI_of_mem h, ne_eq, not_true, decide_false, Bool.or_false, and_self]

theorem Elem.add_num_clamped {d : Int} (hd : clampI (-(2 ^ 79)) (2 ^ 79 - 1) c = d) (hne : d ≠ c) :
    (e.add (.num c)).a = e.a + BitVec.ofInt 96 d ∧ (e.add (.num c)).clamp = true := by
  simp only [Elem.add, hd, hne, ne_eq, not_false_eq_true, decide_true, Bool.or_true, and_self]

end

end Sys2Proof.Machine

open Sys2Proof.Machine in
/-- Settles O46: the join's laws by the sets that its states stand for, those of elements by the join's, and those of lists of
contributions by an addition as a combination. -/
theorem accumulatorArithmetic : Obligations.AccumulatorArithmetic := by
  unfold Obligations.AccumulatorArithmetic
  refine ⟨fun x y z hx hy hz => ⟨joinClass_comm hx hy, joinClass_assoc hx hy hz, JoinState.join hx hy,
      joinClass_finite_left x, joinClass_self hx⟩,
    fun p q => ⟨rfl, rfl, rfl, rfl⟩, fun x y => ⟨rfl, rfl, rfl⟩,
    fun x y z hx hy hz => ⟨Elem.combine_comm hx hy, Elem.combine_assoc hx hy hz, Elem.ofImage_image hx⟩,
    fun e c he => ⟨he, rfl, e.add_num_inside, fun h => e.add_num_clamped (clampI_of_gt (by decide) h) h.ne,
      fun h => e.add_num_clamped (clampI_of_lt h) h.ne'⟩,
    fun e l₁ l₂ he hl h => Elem.foldl_add_perm h he hl, fun x y l hx hy hl => Elem.foldl_add_combine hx hy hl⟩
end

section
/-! O6. What reset leaves: each die and each queue is the one value that reset gives them all. -/

namespace Sys2Proof.Machine

theorem State.reset_die (d : Fin 8) : State.reset.dies[d] = DieState.reset := Vector.getElem_replicate ..

theorem State.reset_queue (q : Fin 64) : State.reset.disp.queues[q] = Queue.reset := Vector.getElem_replicate ..

theorem State.reset_memoriesWf : State.reset.MemoriesWf :=
  ⟨rfl, rfl, rfl, rfl, fun _ hc => by rw [List.mem_singleton.mp hc]; exact rfl⟩

end Sys2Proof.Machine

open Sys2Proof.Machine in
/-- Settles O6, by the values at reset of one die and of one queue. -/
theorem resetLeaves : Obligations.ResetLeaves := by
  unfold Obligations.ResetLeaves
  refine ⟨⟨rfl, rfl, fun d => ?_, rfl, rfl, rfl, rfl, fun q => ?_, rfl, rfl, fun d => ?_, rfl, fun d => ?_⟩,
    State.reset_memoriesWf⟩
  · rw [State.reset_die]
    rfl
  · rw [State.reset_queue]
    exact ⟨rfl, rfl, rfl, rfl, rfl, rfl, rfl⟩
  · rw [State.reset_die]
    rfl
  · rw [State.reset_die]
    exact ⟨rfl, rfl, rfl, rfl, rfl, rfl, rfl⟩
end

section
/-! O51. A launch word outside a twin is its operation between a release and the write of its code; what each operation answers is read
off its branches. -/

namespace Sys2Proof.Machine

variable {α : Type}

theorem Op.whole_ok {op : Op α} {s : State} {out : α × State} (h : op s = .ok out) : Op.whole op s = .ok out := by
  rw [Op.whole, h]

/-- Outside a twin a word's message waits for nobody (R433). -/
theorem Op.twinWord_alone {op : Op Word} {s t : State} {r : Word} (hs : s.twinned = false) (h : op s = .ok (r, t))
    (fields : List Nat) : Op.twinWord fields op s = .ok (r, t) := by
  have ho : Op.twinOnce fields (do return [← op]) s = .ok ([r], t) := by
    refine (Op.bind_ok (Op.get_run s)).trans ?_
    rw [hs]
    exact Op.bind_ok h
  exact Op.bind_ok ho

/-! ### The words (R191 to R194) -/

/-- What LAUNCH and DEPDEC are: a release at sys scope, an operation on the TCB that g[a] names, its code in g[d]. -/
def Op.launchWord (kind : Nat) (op : Requester → Nat → Word → Op Nat) (d a : BitVec 6) : Op Unit := do
  let t ← Op.readG a
  Op.freeG d
  Op.releaseWait 5
  let s ← get
  let r ← Op.twinWord [0x26, kind, t.toNat] (do
    Op.release 5
    return Word.ofN (← Op.whole (op (.cluster (clusterOf s.core.slot)) s.core.regs.queue.toNat t)))
  Op.writeG d r

theorem exec_launch_eq (d a : BitVec 6) : exec (.launch d a) = performNext (.launch d a) (Op.launchWord 0 Op.launch d a) := rfl

theorem exec_depdec_eq (d a : BitVec 6) : exec (.depdec d a) = performNext (.depdec d a) (Op.launchWord 1 Op.depdec d a) := rfl

theorem Op.launchWord_run {s t : State} {d a : BitVec 6} {n : Nat} {op : Requester → Nat → Word → Op Nat} (ha : s.CanRead a)
    (hd : s.CanWrite d) (hd' : t.CanWrite d) (hs : s.Settled) (ht : s.twinned = false)
    (h : op (.cluster (clusterOf s.core.slot)) s.core.regs.queue.toNat (s.G a) s = .ok (n, t)) (kind : Nat) :
    Op.launchWord kind op d a s = .ok ((), t.setCtx (t.ctx.setG d.toNat (Word.ofN n))) := by
  obtain ⟨ho, hr, -⟩ := id hs
  refine (Op.bind_ok (Op.readG_run s a ha)).trans ?_
  refine (Op.bind_ok (Op.freeG_run s d hd)).trans ?_
  refine (Op.bind_ok (Op.releaseWait_idle ho hr 5)).trans ?_
  refine (Op.bind_ok (Op.get_run s)).trans ?_
  refine (Op.bind_ok (Op.twinWord_alone ht ?_ _)).trans (Op.writeG_run t d (Word.ofN n) hd')
  exact (Op.bind_ok (Op.release_settled hs 5)).trans (Op.bind_ok (Op.whole_ok h))

theorem Ctx.wake_pendG (x : Ctx) (w : Watch) : (x.wake w).pendG = x.pendG := by
  unfold Ctx.wake
  split
  · split <;> rfl
  · rfl

theorem State.wakeLine_pendG (s : State) (cl tag : Nat) : (s.wakeLine cl tag).ctx.pendG = s.ctx.pendG := by
  refine (apply_ite (fun c : LCore => c.ctx.pendG) (clusterOf s.core.slot = cl) _ s.core).trans ?_
  split
  · exact Ctx.wake_pendG ..
  · rfl

/-- An acquire leaves the scoreboard as it was: it ends SPINs alone. -/
theorem State.CanWrite.acquireCluster {s : State} {d : BitVec 6} (h : s.CanWrite d) (cl : Nat) : (s.acquireCluster cl).CanWrite d := by
  suffices hp : (s.acquireCluster cl).ctx.pendG = s.ctx.pendG by rwa [State.CanWrite, hp]
  exact List.foldlRecOn (motive := fun u : State => u.ctx.pendG = s.ctx.pendG) _ _ rfl
    fun u hu tag _ => (u.wakeLine_pendG cl tag).trans hu

theorem State.acquireCluster_no_lines {s : State} (h : s.unc.lines = []) (cl : Nat) : s.acquireCluster cl = s := by
  have he : s.acquireCluster cl = { s with unc := { s.unc with lines := [] } } := by simp [State.acquireCluster, h]
  rw [he, ← h]

/-- The word 0x20 of a valid TCB location, and all ones of any other (R194). -/
def Op.queryTcb (q : Nat) (t : Word) : Op Word := do
  if (← Op.validTcb q t) then Op.tcbWord q t 0x20 else pure (BitVec.allOnes 64)

theorem exec_tcbq_run {s t : State} {d a : BitVec 6} {w : Word} (hi : s.Issues (.tcbq d a)) (ha : s.CanRead a)
    (hd : s.CanWrite d) (ht : s.twinned = false) (h : Op.queryTcb s.core.regs.queue.toNat (s.G a) s = .ok (w, t))
    (hd' : t.CanWrite d) : exec (.tcbq d a) s = .next ((t.acquireCluster (clusterOf t.core.slot)).doneG d w) := by
  refine performNext_ok hi ?_
  refine (Op.bind_ok (Op.readG_run s a ha)).trans ?_
  refine (Op.bind_ok (Op.freeG_run s d hd)).trans ?_
  refine (Op.bind_ok (Op.get_run s)).trans ?_
  refine (Op.bind_ok (Op.twinWord_alone ht (Op.whole_ok h) _)).trans ?_
  exact (Op.bind_ok (Op.modify_run _ t)).trans (Op.writeG_run _ d w (hd'.acquireCluster _))

theorem Op.queryTcb_invalid {s t : State} {q : Nat} {r : Word} (h : Op.validTcb q r s = .ok (false, t)) :
    Op.queryTcb q r s = .ok (BitVec.allOnes 64, t) := Op.bind_ok h

theorem Op.queryTcb_valid {s t u : State} {q : Nat} {r w : Word} (h : Op.validTcb q r s = .ok (true, t))
    (hw : Op.tcbWord q r 0x20 t = .ok (w, u)) : Op.queryTcb q r s = .ok (w, u) := (Op.bind_ok h).trans hw

/-! ### The operations on a TCB -/

theorem Op.validTcb_unaligned {t : Word} (h : t.toNat % 128 ≠ 0) (q : Nat) (s : State) : Op.validTcb q t s = .ok (false, s) := by
  rw [Op.validTcb, if_pos h, Op.pure_run]

section
variable {s s₁ s₂ : State} {q : Nat} {t w : Word} (who : Requester)

theorem Op.launch_invalid (h : Op.validTcb q t s = .ok (false, s₁)) : Op.launch who q t s = .ok (5, s₁) := Op.bind_ok h

theorem Op.depdec_invalid (h : Op.validTcb q t s = .ok (false, s₁)) : Op.depdec who q t s = .ok (5, s₁) := Op.bind_ok h

theorem Op.launch_valid (h : Op.validTcb q t s = .ok (true, s₁)) (hw : Op.tcbWord q t 0x30 s₁ = .ok (w, s₂)) :
    Op.launch who q t s = Op.append who q (some q) t (w.bits 47 32) s₂ := (Op.bind_ok h).trans (Op.bind_ok hw)

theorem Op.depdec_valid (h : Op.validTcb q t s = .ok (true, s₁)) (hw : Op.tcbWord q t 0x30 s₁ = .ok (w, s₂)) :
    Op.depdec who q t s = if w.bits 47 32 < 64 ∧ (s₂.queue (w.bits 47 32)).launchers.getLsbD q = false then .ok (4, s₂)
      else Op.decrement who errorChainBound q t s₂ := by
  refine (Op.bind_ok h).trans ((Op.bind_ok hw).trans ((Op.bind_ok (Op.get_run s₂)).trans ?_))
  simp only [Op.ite_run, Bool.and_eq_true, decide_eq_true_eq, Bool.not_eq_true', Op.pure_run]

end

/-! ### The codes of append (R78) -/

section
variable {s s₁ s₂ : State} {table q st c : Nat} {n : Option Nat} {t : Word} (who : Requester)

theorem Op.append_no_queue (h : 64 ≤ q) : Op.append who table n t q s = .ok (3, s) := by
  rw [Op.append, if_pos h, Op.pure_run]

theorem Op.append_invalid (hq : q < 64) (hv : Op.validTcb table t s = .ok (false, s)) :
    Op.append who table n t q s = .ok (5, s) := by
  rw [Op.append, if_neg hq.not_ge]
  exact Op.bind_ok hv

variable (hq : q < 64) (hv : Op.validTcb table t s = .ok (true, s))
include hq hv

theorem Op.append_refused {m : Nat} (hn : n = some m) (hl : (s.queue q).launchers.getLsbD m = false) :
    Op.append who table n t q s = .ok (4, s) := by
  subst hn
  rw [Op.append, if_neg hq.not_ge]
  refine (Op.bind_ok hv).trans ((Op.bind_ok (Op.get_run s)).trans ?_)
  simp only [hl]
  rfl

variable (hl : ∀ m, n = some m → (s.queue q).launchers.getLsbD m = true) (hs : Op.tcbState table t s = .ok ((st, c), s))
include hl hs

/-- What append does to a valid TCB once the launching queue is admitted. -/
theorem Op.append_admitted : Op.append who table n t q s =
    (if st ≠ tIDLE then pure 2
      else if c ≠ 0 then do
        Op.putState table t tWAITING c
        pure 1
      else do
        Op.putState table t tREADY 0
        Op.link who table t q
        pure 0 : Op Nat) s := by
  rw [Op.append, if_neg hq.not_ge]
  refine (Op.bind_ok hv).trans ((Op.bind_ok (Op.get_run s)).trans ?_)
  cases n with
  | none => exact Op.bind_ok hs
  | some m =>
    simp only [hl m rfl]
    exact Op.bind_ok hs

theorem Op.append_busy (h : st ≠ tIDLE) : Op.append who table n t q s = .ok (2, s) := by
  rw [Op.append_admitted who hq hv hl hs, if_pos h, Op.pure_run]

theorem Op.append_waiting (h : st = tIDLE) (hc : c ≠ 0) (hp : Op.putState table t tWAITING c s = .ok ((), s₁)) :
    Op.append who table n t q s = .ok (1, s₁) := by
  rw [Op.append_admitted who hq hv hl hs, if_neg (not_not.mpr h), if_pos hc]
  exact Op.bind_ok hp

theorem Op.append_ready (h : st = tIDLE) (hc : c = 0) (hp : Op.putState table t tREADY 0 s = .ok ((), s₁))
    (hk : Op.link who table t q s₁ = .ok ((), s₂)) : Op.append who table n t q s = .ok (0, s₂) := by
  rw [Op.append_admitted who hq hv hl hs, if_neg (not_not.mpr h), if_neg (not_not.mpr hc)]
  exact (Op.bind_ok hp).trans (Op.bind_ok hk)

end

/-! ### The codes of a decrement (R83) -/

theorem lt_ready_of_idle_or_waiting {st : Nat} (h : st = tIDLE ∨ st = tWAITING) : st < tREADY := by
  rcases h with rfl | rfl <;> decide

/-- IDLE, WAITING or READY. -/
theorem pending_of_le {st : Nat} (h : st ≤ 2) : (st = tIDLE || st = tWAITING || st = tREADY) = true := by
  interval_cases st <;> rfl

theorem not_pending_of_ge {st : Nat} (h : 3 ≤ st) : (st = tIDLE || st = tWAITING || st = tREADY) = false := by
  simp [tIDLE, tWAITING, tREADY, show st ≠ 0 by omega, show st ≠ 1 by omega, show st ≠ 2 by omega]

theorem pending_and_not_admitted {s : State} {place : Option Nat} {st : Nat} (hn : place.any s.admittedAt = false) (h : st ≤ 2) :
    ((st = tIDLE || st = tWAITING || st = tREADY) && !place.any s.admittedAt) = true := by
  rw [pending_of_le h, hn]
  rfl

section
variable {s s₁ s₂ s₃ : State} {table st n : Nat} {t w : Word} (who : Requester) (fuel : Nat)
  (hv : Op.validTcb table t s = .ok (true, s)) (hs : Op.tcbState table t s = .ok ((st, n), s))
include hv hs

/-- A TCB that is RUNNING or later, or whose task has been admitted: its count falls to 0 and no further. -/
theorem Op.decrement_started (h : 3 ≤ st ∨ (s.tcbPlace table t).any s.admittedAt = true) :
    Op.decrement who (fuel + 1) table t s = (if n = 0 then pure 3
      else do
        Op.putState table t st (n - 1)
        pure 2 : Op Nat) s := by
  have hb : ((st = tIDLE || st = tWAITING || st = tREADY) && !(s.tcbPlace table t).any s.admittedAt) = false := by
    rcases h with h | h
    · rw [not_pending_of_ge h, Bool.false_and]
    · rw [h, Bool.not_true, Bool.and_false]
  refine (Op.bind_ok hv).trans ((Op.bind_ok hs).trans ((Op.bind_ok (Op.get_run s)).trans ?_))
  simp only [hb]
  rfl

variable (hn : (s.tcbPlace table t).any s.admittedAt = false)
include hn

theorem Op.decrement_above (h2 : 2 ≤ n) (h : st = tIDLE ∨ st = tWAITING)
    (hp : Op.putState table t tWAITING (n - 1) s = .ok ((), s₁)) : Op.decrement who (fuel + 1) table t s = .ok (1, s₁) := by
  have hr := lt_ready_of_idle_or_waiting h
  have hb := pending_and_not_admitted hn hr.le
  refine (Op.bind_ok hv).trans ((Op.bind_ok hs).trans ((Op.bind_ok (Op.get_run s)).trans ?_))
  simp only [hb, if_true, if_neg (show n ≠ 0 by omega), show n ≠ 1 by omega, decide_false, Bool.false_and, Bool.false_eq_true,
    if_false, if_neg hr.ne]
  exact Op.bind_ok hp

theorem Op.decrement_last (h1 : n = 1) (h : st = tIDLE ∨ st = tWAITING) (hw : Op.tcbWord table t 0x30 s = .ok (w, s₁))
    (hq : w.bits 47 32 < 64) (hp : Op.putState table t tREADY 0 s₁ = .ok ((), s₂))
    (hk : Op.link who table t (w.bits 47 32) s₂ = .ok ((), s₃)) : Op.decrement who (fuel + 1) table t s = .ok (0, s₃) := by
  subst h1
  have hr := lt_ready_of_idle_or_waiting h
  have hb := pending_and_not_admitted hn hr.le
  refine (Op.bind_ok hv).trans ((Op.bind_ok hs).trans ((Op.bind_ok (Op.get_run s)).trans ?_))
  simp only [hb, if_true, one_ne_zero, if_false, decide_true, Bool.true_and, decide_eq_true_eq, if_pos hr.ne]
  refine (Op.bind_ok hw).trans ?_
  rw [if_neg hq.not_ge]
  exact (Op.bind_ok hp).trans (Op.bind_ok hk)

theorem Op.decrement_below (h0 : n = 0) (h : st ≤ 2) (hp : Op.putState table t tFAILED 0 s = .ok ((), s₁))
    (hw : Op.tcbWord table t 0x70 s₁ = .ok (0, s₂)) : Op.decrement who (fuel + 1) table t s = .ok (3, s₂) := by
  subst h0
  have hb := pending_and_not_admitted hn h
  refine (Op.bind_ok hv).trans ((Op.bind_ok hs).trans ((Op.bind_ok (Op.get_run s)).trans ?_))
  simp only [hb, if_true]
  exact (Op.bind_ok hp).trans (Op.bind_ok (Op.bind_ok hw))

end

end Sys2Proof.Machine

open Sys2Proof.Machine in
/-- Settles O51: the words by `Op.launchWord_run` and `exec_tcbq_run`, the codes by the branches of append and decrement. -/
theorem launchWords : Obligations.LaunchWords := by
  unfold Obligations.LaunchWords
  refine ⟨fun s d a ha hd hs ht hw => ?_, fun s s₁ d a n ha hd hd' hs ht => ⟨fun hi h => ?_, fun hi h => ?_⟩,
    fun s s₁ s₂ d a w hi ha hd ht => ⟨fun h => ?_, fun h hw => ?_⟩,
    fun s s₁ s₂ who q t w => ⟨fun h => ⟨Op.launch_invalid who h, Op.depdec_invalid who h⟩, fun h hw => ?_⟩,
    fun s s₁ s₂ who table q st c n t => ?_, fun s s₁ s₂ s₃ who table fuel st n t w hv hs => ?_⟩
  · obtain ⟨-, -, hl⟩ := id hs
    have hv := Op.validTcb_unaligned hw s.core.regs.queue.toNat s
    refine ⟨fun hi => ?_, fun hi => ?_, fun hi => ?_⟩
    · exact performNext_ok hi (Op.launchWord_run ha hd hd hs ht (Op.launch_invalid _ hv) 0)
    · exact performNext_ok hi (Op.launchWord_run ha hd hd hs ht (Op.depdec_invalid _ hv) 1)
    · rw [exec_tcbq_run hi ha hd ht (Op.queryTcb_invalid hv) hd, State.acquireCluster_no_lines hl]
  · exact performNext_ok hi (Op.launchWord_run ha hd hd' hs ht h 0)
  · exact performNext_ok hi (Op.launchWord_run ha hd hd' hs ht h 1)
  · exact exec_tcbq_run hi ha hd ht (Op.queryTcb_invalid h)
  · exact exec_tcbq_run hi ha hd ht (Op.queryTcb_valid h hw)
  · rw [Op.depdec_valid who h hw]
    exact ⟨Op.launch_valid who h hw, fun hq hl => if_pos ⟨hq, hl⟩,
      fun hq => if_neg fun ⟨hlt, hl⟩ => hq.elim hlt.not_ge fun hl' => Bool.false_ne_true (hl.symm.trans hl')⟩
  · exact ⟨Op.append_no_queue who, Op.append_invalid who, fun m hq hv => Op.append_refused who hq hv, fun hq hv hl hs =>
      ⟨Op.append_busy who hq hv hl hs, Op.append_waiting who hq hv hl hs, Op.append_ready who hq hv hl hs⟩⟩
  · refine ⟨fun h2 h hn hp => Op.decrement_above who fuel hv hs hn h2 h hp,
      fun h1 h hn hw hq hp hk => Op.decrement_last who fuel hv hs hn h1 h hw hq hp hk, fun h h1 hp => ?_, fun h h0 => ?_,
      fun h hn h0 hp hw => Op.decrement_below who fuel hv hs hn h0 h hp hw⟩
    · rw [Op.decrement_started who fuel hv hs h, if_neg (Nat.one_le_iff_ne_zero.mp h1)]
      exact Op.bind_ok hp
    · rw [Op.decrement_started who fuel hv hs h, if_pos h0, Op.pure_run]
end

section
/-! O52. The events of queues and tasks: each runs one operation and keeps what that operation answers, or, where it halts, the requests
that it sent. -/

namespace Sys2Proof.Machine

variable {α : Type}

/-! ### Operations tried (R82, R95) -/

/-- What is left of a state where an operation halted: it stands, with the requests that the operation sent if it waits. -/
def State.afterHalt (s : State) : Halt → State
  | .block t => s.withRequestsOf t
  | _ => s

theorem Op.tried_ok {op : Op α} {s t : State} {a : α} (h : op s = .ok (a, t)) : Op.tried op s = .ok (some a, t) := by
  rw [Op.tried, h]

theorem Op.tried_error {op : Op α} {s : State} {e : Halt} (h : op s = .error e) : Op.tried op s = .ok (none, s.afterHalt e) := by
  rw [Op.tried, h]
  cases e <;> rfl

theorem Op.whole_stall {op : Op α} {s : State} (h : op s = .error .stall) : Op.whole op s = .error .stall := by
  rw [Op.whole, h]

theorem Op.discard_ok {op : Op α} {s t : State} {a : α} (h : op s = .ok (a, t)) : (discard op : Op PUnit) s = .ok (⟨⟩, t) := by
  change StateT.map (Function.const α PUnit.unit) op s = _
  rw [StateT.map, h]
  rfl

/-- A package whose Conjunction dies are not both lost has a dispatcher. -/
theorem State.not_headless {s : State} (h : s.headless = false) : (!s.headless) = true := by
  rw [h]
  rfl

/-! ### Several queues changed alike -/

theorem State.mapQueue_tasks (s : State) (q : Nat) (f : Queue → Queue) : (s.mapQueue q f).disp.tasks = s.disp.tasks := by
  unfold State.mapQueue
  split <;> rfl

/-- Each queue of a list changed by `f`. -/
def State.mapQueues (s : State) (qs : List Nat) (f : Queue → Queue) : State := qs.foldl (fun s q => s.mapQueue q f) s

theorem State.mapQueues_keeps {γ : Type} (g : State → γ) {f : Queue → Queue} (hg : ∀ (s : State) q, g (s.mapQueue q f) = g s)
    (s : State) (qs : List Nat) : g (s.mapQueues qs f) = g s :=
  List.foldlRecOn (motive := fun u : State => g u = g s) qs _ rfl fun u hu q _ => (hg u q).trans hu

theorem State.queue_mapQueues (s : State) {qs : List Nat} (f : Queue → Queue) (hn : qs.Nodup) (hq : ∀ q ∈ qs, q < 64) (k : Nat) :
    (s.mapQueues qs f).queue k = if k ∈ qs then f (s.queue k) else s.queue k := by
  induction qs generalizing s with
  | nil => rfl
  | cons q qs ih =>
    obtain ⟨hnq, hn⟩ := List.nodup_cons.mp hn
    obtain ⟨hq0, hqs⟩ := List.forall_mem_cons.mp hq
    refine (ih (s.mapQueue q f) hn hqs).trans ?_
    by_cases hk : k = q
    · subst hk
      rw [if_neg hnq, if_pos (List.mem_cons_self ..), s.queue_mapQueue_same hq0]
    · simp only [s.queue_mapQueue_ne hk, List.mem_cons, hk, false_or]

/-! ### The host's append window (R82) -/

/-- What a write of the window does in a state where the host is heard. -/
def Op.windowWrite (s : State) (off : BitVec 12) (size : Nat) (t : Word) : Op Unit :=
  let q := off.toNat / 64
  if size = 0 then do
    let t ← Op.get! (s.queue q).hostAppend
    Op.hostAppend q t
  else if off.toNat % 64 = 0 && size = 8 && (s.queue q).hostAppend.isNone then Op.hostAppend q t
  else set (s.mapQueues ((List.range 64).filter fun q => off.toNat < 64 * q + 8 && 64 * q < off.toNat + size)
    fun x => { x with hostResult := 6 })

theorem exec_hostAppend_eq (off : BitVec 12) (size : Nat) (t : Word) (s : State) : exec (.hostAppend off size t) s =
    runEvent (do let s ← get; Op.need (s.pkg.hostUp && !s.headless); Op.windowWrite s off size t) s := rfl

section
variable {s s₁ : State} {off : BitVec 12} {size q r : Nat} {t : Word}

theorem Op.hostAppend_ok (h : Op.append .bank q none t q s = .ok (r, s₁)) : Op.hostAppend q t s =
    .ok ((), s₁.mapQueue q fun x => { x with hostAppend := none, hostResult := BitVec.ofNat 3 r }) :=
  Op.bind_ok (Op.tried_ok h)

theorem Op.hostAppend_error {e : Halt} (h : Op.append .bank q none t q s = .error e) : Op.hostAppend q t s =
    .ok ((), (s.afterHalt e).mapQueue q fun x => { x with hostAppend := some t }) :=
  Op.bind_ok (Op.tried_error h)

theorem Op.windowWrite_append (ho : off.toNat % 64 = 0) (hz : size = 8) (hn : (s.queue (off.toNat / 64)).hostAppend = none) :
    Op.windowWrite s off size t = Op.hostAppend (off.toNat / 64) t := by
  subst hz
  simp [Op.windowWrite, ho, hn]

theorem Op.windowWrite_goesOn {t' : Word} (hz : size = 0) (hn : (s.queue (off.toNat / 64)).hostAppend = some t') :
    Op.windowWrite s off size t = Op.hostAppend (off.toNat / 64) t' := by
  rw [Op.windowWrite, if_pos hz, hn]
  rfl

theorem Op.windowWrite_other (hz : size ≠ 0)
    (hn : ¬(off.toNat % 64 = 0 ∧ size = 8 ∧ (s.queue (off.toNat / 64)).hostAppend = none)) : Op.windowWrite s off size t =
      set (s.mapQueues ((List.range 64).filter fun q => off.toNat < 64 * q + 8 && 64 * q < off.toNat + size)
        fun x => { x with hostResult := 6 }) := by
  have hb : ¬(off.toNat % 64 = 0 && size = 8 && (s.queue (off.toNat / 64)).hostAppend.isNone) = true := by
    simpa only [Bool.and_eq_true, decide_eq_true_eq, Option.isNone_iff_eq_none, and_assoc] using hn
  simp only [Op.windowWrite, if_neg hz, if_neg hb]

theorem exec_hostAppend_down (h : s.pkg.hostUp = false ∨ s.headless = true) :
    exec (.hostAppend off size t) s = .next { s with stalled := true } := by
  have hb : (s.pkg.hostUp && !s.headless) = false := by rcases h with h | h <;> simp [h]
  exact runEvent_stall ((Op.bind_ok (Op.get_run s)).trans (Op.need_bind_stall hb _ s))

variable (hu : s.pkg.hostUp = true) (hh : s.headless = false)
include hu hh

theorem exec_hostAppend_up {u : State} (h : Op.windowWrite s off size t s = .ok ((), u)) :
    s.ActsTo (.hostAppend off size t) { u with stalled := false } := by
  have hb : (s.pkg.hostUp && !s.headless) = true := by rw [hu, hh]; rfl
  exact ⟨runEvent_ok ((Op.bind_ok (Op.get_run s)).trans ((Op.need_bind hb _ s).trans h)), rfl⟩

/-- Any other write of the window: result 6 where it touches the first 8 bytes of a slot, and nothing else. -/
theorem exec_hostAppend_other (hz : size ≠ 0)
    (hn : ¬(off.toNat % 64 = 0 ∧ size = 8 ∧ (s.queue (off.toNat / 64)).hostAppend = none)) :
    ∃ u, s.ActsTo (.hostAppend off size t) u ∧
      (∀ k < 64, u.queue k = if off.toNat < 64 * k + 8 ∧ 64 * k < off.toNat + size then { s.queue k with hostResult := 6 }
        else s.queue k) ∧
      u.core = s.core ∧ u.peers = s.peers ∧ u.unc = s.unc ∧ u.disp.tasks = s.disp.tasks := by
  refine ⟨_, exec_hostAppend_up hu hh (congrFun (Op.windowWrite_other hz hn) s), fun k hk => ?_,
    State.mapQueues_keeps State.core (fun s q => s.mapQueue_core q _) ..,
    State.mapQueues_keeps State.peers (fun s q => s.mapQueue_peers q _) ..,
    State.mapQueues_keeps State.unc (fun s q => s.mapQueue_unc q _) ..,
    State.mapQueues_keeps (fun s => s.disp.tasks) (fun s q => s.mapQueue_tasks q _) ..⟩
  refine (State.queue_mapQueues s _ (List.nodup_range.filter _) (fun q h => List.mem_range.mp (List.mem_filter.mp h).1) k).trans ?_
  simp only [List.mem_filter, List.mem_range, hk, true_and, Bool.and_eq_true, decide_eq_true_eq]

end

/-! ### Queues enabled and disabled, and the dispatcher's copy of a header (R77, R79, R80) -/

/-- A queue with EN set. -/
def State.enabled (s : State) (q : Nat) : State :=
  s.mapQueue q fun x => { x with en := true, status := if x.status = .stopped then .active else x.status }

theorem exec_queueEnable_headless {s : State} (q : BitVec 6) (h : s.headless = true) :
    s.ActsTo (.queueEnable q) { s.enabled q.toNat with stalled := false } := by
  refine ⟨runEvent_ok ((Op.bind_ok (Op.get_run s)).trans ((Op.bind_ok (Op.set_run _ s)).trans ?_)), rfl⟩
  rw [h]
  rfl

theorem exec_queueEnable_tried {s v : State} {q : BitVec 6} {a : Option Unit} (hh : s.headless = false)
    (h : Op.tried (Op.shareHeader q.toNat) (s.enabled q.toNat) = .ok (a, v)) :
    s.ActsTo (.queueEnable q) { v with stalled := false } := by
  refine ⟨runEvent_ok ((Op.bind_ok (Op.get_run s)).trans ((Op.bind_ok (Op.set_run _ s)).trans ?_)), rfl⟩
  rw [hh]
  exact Op.discard_ok h

theorem Op.shareHeader_seen {s t : State} {q : Nat} (hq : q < 64) (h : Op.shareHeader q s = .ok ((), t)) :
    t.queue q = { t.queue q with seenHead := (t.queue q).head, seenTail := (t.queue q).tail } := by
  rw [Op.shareHeader, Op.bind_run, Op.get_run, Op.answered, Op.bind_run] at h
  cases hd : Op.dirRequest .dispatcher false (s.headerTag q) s with
  | error e => simp [hd] at h
  | ok out =>
    obtain ⟨_ | r, u⟩ := out
    · rw [hd] at h
      cases h
      rw [State.queue_mapQueue_same _ hq]
    · simp [hd] at h

theorem exec_queueDisable_acts (s : State) (q : BitVec 6) : ∃ t, s.ActsTo (.queueDisable q) t ∧
    t.queue q.toNat = { s.queue q.toNat with
      en := false, status := if (s.queue q.toNat).status = .active then .stopped else (s.queue q.toNat).status } ∧
    (∀ k, k ≠ q.toNat → t.queue k = s.queue k) ∧ t.core = s.core ∧ t.peers = s.peers ∧ t.unc = s.unc ∧
    t.disp.tasks = s.disp.tasks :=
  ⟨_, ⟨rfl, rfl⟩, s.queue_mapQueue_same q.isLt _, fun _ hk => s.queue_mapQueue_ne hk _, s.mapQueue_core .., s.mapQueue_peers ..,
    s.mapQueue_unc .., s.mapQueue_tasks ..⟩

theorem exec_dispatcherWakeup_acts {s t : State} {q : BitVec 6} (he : (s.queue q.toNat).en = true)
    (hs : s.sharesHeader q.toNat = false) (hh : s.headless = false) (h : Op.shareHeader q.toNat s = .ok ((), t)) :
    s.ActsTo (.dispatcherWakeup q) { t with stalled := false } := by
  have hb : ((s.queue q.toNat).en && !s.sharesHeader q.toNat && !s.headless) = true := by rw [he, hs, hh]; rfl
  exact ⟨runEvent_ok (Op.whole_ok ((Op.bind_ok (Op.get_run s)).trans ((Op.need_bind hb _ s).trans h))), rfl⟩

theorem exec_dispatcherWakeup_stalls {s : State} {q : BitVec 6}
    (h : (s.queue q.toNat).en = false ∨ s.sharesHeader q.toNat = true ∨ s.headless = true) :
    exec (.dispatcherWakeup q) s = .next { s with stalled := true } := by
  have hb : ((s.queue q.toNat).en && !s.sharesHeader q.toNat && !s.headless) = false := by rcases h with h | h | h <;> simp [h]
  exact runEvent_stall (Op.whole_stall ((Op.bind_ok (Op.get_run s)).trans (Op.need_bind_stall hb _ s)))

section
variable {s : State} {q : BitVec 6} {w : Word} (hw : (s.queue q.toNat).waitLink = true) (hh : s.headless = false)
  (hr : Op.tcbWord q.toNat (s.queue q.toNat).head 0 s = .ok (w, s))
include hw hh hr

theorem exec_dispatcherLinkChange_stalls (h : w = 0) : exec (.dispatcherLinkChange q) s = .next { s with stalled := true } := by
  have hb : ((s.queue q.toNat).waitLink && !s.headless) = true := by rw [hw, hh]; rfl
  refine runEvent_stall ((Op.bind_ok (Op.get_run s)).trans ((Op.need_bind hb _ s).trans ((Op.bind_ok hr).trans ?_)))
  exact Op.need_bind_stall (decide_eq_false (not_not.mpr h)) _ s

theorem exec_dispatcherLinkChange_acts (h : w ≠ 0) : s.ActsTo (.dispatcherLinkChange q)
    { s.mapQueue q.toNat (fun x => { x with waitLink := false }) with stalled := false } := by
  have hb : ((s.queue q.toNat).waitLink && !s.headless) = true := by rw [hw, hh]; rfl
  refine ⟨runEvent_ok ((Op.bind_ok (Op.get_run s)).trans ((Op.need_bind hb _ s).trans ((Op.bind_ok hr).trans ?_))), rfl⟩
  exact Op.need_bind (decide_eq_true h) _ s

end

/-! ### Partition reset (R91, R92) -/

/-- The conditions of an expiry (R91). -/
def State.expires (s : State) (k : Task) : Bool :=
  k.phase = .running && s.budget k ≠ 0 && s.budget k ≤ k.watch && (s.queue k.queue.toNat).expired.isNone

/-- What the third step of a partition reset leaves: the queue in service again, or STOPPED, and firmware told. -/
def State.resetDone (s : State) (q : Nat) : State :=
  let s := s.mapQueue q fun x => { x with
    status := if x.en then .active else .stopped
    expired := none
    resets := if x.resets = BitVec.allOnes 16 then x.resets else x.resets + 1 }
  { s with pkg := { s.pkg with firmware := s.pkg.firmware ++ [FwEvent.wdog (BitVec.ofNat 6 q)] } }.msix 1

/-- A count of 16 bits that stays at its end. -/
theorem toNat_saturating (x : BitVec 16) : (if x = BitVec.allOnes 16 then x else x + 1).toNat = min 65535 (x.toNat + 1) := by
  split
  · next h => rw [h]; rfl
  · next h =>
    have hx : x.toNat ≠ 65535 := fun he => h (BitVec.eq_of_toNat_eq he)
    bv_omega

/-- The step of a partition reset that a state is due. -/
def Op.watchdogStep (s : State) (ref : Word) : Op Unit := do
  match (List.range 64).find? fun q => (s.queue q).expired = some ref with
  | none =>
    let t ← Op.get! (s.findTask ref)
    Op.need (s.expires t)
    set (s.mapQueue t.queue.toNat fun x => { x with status := .draining, expired := some ref })
  | some q =>
    if (s.queue q).status ≠ .resetting then
      let mine := (s.disp.tasks.filter fun x => x.queue.toNat = q && x.isRunning).map (·.ref)
      Op.forEach (fun r => Op.cancelRunning r (if r = ref then 1 else 0)) mine
      modify fun s => s.mapQueue q fun x => { x with status := .resetting }
    else modify fun s => s.resetDone q

theorem exec_watchdogExpiry_eq (ref : Word) (s : State) : exec (.watchdogExpiry ref) s =
    runEvent (Op.whole (do let s ← get; Op.need !s.headless; Op.watchdogStep s ref)) s := rfl

section
variable {s s₁ : State} {ref : Word} {k : Task} {q : Nat}

theorem Op.watchdogStep_first (hq : (List.range 64).find? (fun q => (s.queue q).expired = some ref) = none)
    (hk : s.findTask ref = some k) : Op.watchdogStep s ref = (do
      Op.need (s.expires k)
      set (s.mapQueue k.queue.toNat fun x => { x with status := .draining, expired := some ref })) := by
  simp only [Op.watchdogStep, hq, hk]
  rfl

variable (hh : s.headless = false)
include hh

theorem exec_watchdogExpiry_acts (h : Op.watchdogStep s ref s = .ok ((), s₁)) :
    s.ActsTo (.watchdogExpiry ref) { s₁ with stalled := false } := by
  exact ⟨runEvent_ok (Op.whole_ok ((Op.bind_ok (Op.get_run s)).trans ((Op.need_bind (State.not_headless hh) _ s).trans h))), rfl⟩

theorem exec_watchdogExpiry_unmet (hq : (List.range 64).find? (fun q => (s.queue q).expired = some ref) = none)
    (hk : s.findTask ref = some k)
    (h : k.phase ≠ .running ∨ s.budget k = 0 ∨ k.watch < s.budget k ∨ (s.queue k.queue.toNat).expired.isSome = true) :
    exec (.watchdogExpiry ref) s = .next { s with stalled := true } := by
  have he : s.expires k = false := by rcases h with h | h | h | h <;> simp [State.expires, h]
  refine runEvent_stall (Op.whole_stall ((Op.bind_ok (Op.get_run s)).trans ((Op.need_bind (State.not_headless hh) _ s).trans ?_)))
  exact (congrFun (Op.watchdogStep_first hq hk) s).trans (Op.need_bind_stall he _ s)

theorem exec_watchdogExpiry_begins (hq : (List.range 64).find? (fun q => (s.queue q).expired = some ref) = none)
    (hk : s.findTask ref = some k) (hp : k.phase = .running) (hb : s.budget k ≠ 0) (hw : s.budget k ≤ k.watch)
    (he : (s.queue k.queue.toNat).expired = none) : s.ActsTo (.watchdogExpiry ref)
      { s.mapQueue k.queue.toNat (fun x => { x with status := .draining, expired := some ref }) with stalled := false } := by
  have hx : s.expires k = true := by simp [State.expires, hp, hb, hw, he]
  exact exec_watchdogExpiry_acts hh ((congrFun (Op.watchdogStep_first hq hk) s).trans (Op.need_bind hx _ s))

theorem exec_watchdogExpiry_cancels (hq : (List.range 64).find? (fun q => (s.queue q).expired = some ref) = some q)
    (hs : (s.queue q).status = .draining)
    (h : Op.forEach (fun r => Op.cancelRunning r (if r = ref then 1 else 0))
      ((s.disp.tasks.filter fun x => x.queue.toNat = q && x.isRunning).map (·.ref)) s = .ok ((), s₁)) :
    s.ActsTo (.watchdogExpiry ref) { s₁.mapQueue q (fun x => { x with status := .resetting }) with stalled := false } := by
  refine exec_watchdogExpiry_acts hh ?_
  simp only [Op.watchdogStep, hq, hs]
  exact Op.bind_ok h

theorem exec_watchdogExpiry_ends (hq : (List.range 64).find? (fun q => (s.queue q).expired = some ref) = some q)
    (hs : (s.queue q).status = .resetting) : ∃ t, s.ActsTo (.watchdogExpiry ref) t ∧ t.core = s.core ∧ t.peers = s.peers ∧
      t.unc = s.unc ∧ t.disp.tasks = s.disp.tasks ∧ t.pkg.firmware = s.pkg.firmware ++ [FwEvent.wdog (BitVec.ofNat 6 q)] ∧
      t.pkg.msix = s.pkg.msix ++ [1] ∧ (t.queue q).status = (if (s.queue q).en then .active else .stopped) ∧
      (t.queue q).expired = none ∧ (t.queue q).resets.toNat = min 65535 ((s.queue q).resets.toNat + 1) := by
  have hd := s.queue_mapQueue_same (List.mem_range.mp (List.mem_of_find?_eq_some hq)) fun x => { x with
    status := if x.en then .active else .stopped
    expired := none
    resets := if x.resets = BitVec.allOnes 16 then x.resets else x.resets + 1 }
  refine ⟨_, exec_watchdogExpiry_acts hh (s₁ := s.resetDone q) ?_, s.mapQueue_core .., s.mapQueue_peers .., s.mapQueue_unc ..,
    s.mapQueue_tasks .., ?_, ?_, congrArg Queue.status hd, congrArg Queue.expired hd,
    (congrArg (fun x : Queue => x.resets.toNat) hd).trans (toNat_saturating _)⟩
  · simp only [Op.watchdogStep, hq, hs]
    rfl
  · simp [State.resetDone, State.msix]
  · simp [State.resetDone, State.msix]

end

/-! ### Cancellation (R95) -/

section
variable {s s₁ : State} {t r : Word} {q st n : Nat} {k : Task}

theorem Op.cancelQueue_unaligned (h : t.toNat % 128 ≠ 0) (qs : List Nat) (s : State) :
    Op.cancelQueue t qs s = .ok (none, s) := by
  induction qs with
  | nil => rfl
  | cons q qs ih => exact (Op.bind_ok (Op.validTcb_unaligned h q s)).trans ih

theorem Op.queueOf_unaligned (h : t.toNat % 128 ≠ 0) (s : State) : Op.queueOf t s = .ok (none, s) := by
  refine (Op.bind_ok (Op.get_run s)).trans ?_
  generalize (s.disp.tasks.filter fun x => x.tcb = t).map (fun x => x.queue.toNat) = qs
  cases qs <;> exact Op.cancelQueue_unaligned h _ s

theorem Op.cancel_nowhere (h : Op.queueOf t s = .ok (none, s₁)) : Op.cancel t s = .ok (2, s₁) := Op.bind_ok h

variable (hq : Op.queueOf t s = .ok (some q, s)) (hs : Op.tcbState q t s = .ok ((st, n), s))
  (hr : Op.tcbWord q t 0x70 s = .ok (r, s))
include hq hs hr

theorem Op.cancel_running (hk : s.findTask (taskKey q t) = some k) (hp : k.isRunning = true)
    (hc : Op.cancelRunning k.ref 2 s = .ok ((), s₁)) : Op.cancel t s = .ok (0, s₁) := by
  refine (Op.bind_ok hq).trans ((Op.bind_ok hs).trans ((Op.bind_ok (Op.get_run s)).trans ((Op.bind_ok hr).trans ?_)))
  simp only [hk, hp, if_true]
  exact Op.bind_ok hc

theorem Op.cancel_ended (hk : s.findTask (taskKey q t) = some k) (hp : k.phase = .failed ∨ k.phase = .cancelled) :
    Op.cancel t s = .ok (1, s) := by
  have hn : k.isRunning = false := by rcases hp with hp | hp <;> simp [Task.isRunning, hp]
  refine (Op.bind_ok hq).trans ((Op.bind_ok hs).trans ((Op.bind_ok (Op.get_run s)).trans ((Op.bind_ok hr).trans ?_)))
  rcases hp with hp | hp <;> simp [hk, hn, hp]

theorem Op.cancel_unstarted (hk : s.findTask (taskKey q t) = none) (h : st ≤ 2)
    (hc : Op.cancelIdle q t r 0 n s = .ok ((), s₁)) : Op.cancel t s = .ok (0, s₁) := by
  refine (Op.bind_ok hq).trans ((Op.bind_ok hs).trans ((Op.bind_ok (Op.get_run s)).trans ((Op.bind_ok hr).trans ?_)))
  simp only [hk, pending_of_le h, if_true]
  exact Op.bind_ok hc

theorem Op.cancel_past (hk : s.findTask (taskKey q t) = none) (h : 3 ≤ st) : Op.cancel t s = .ok (1, s) := by
  refine (Op.bind_ok hq).trans ((Op.bind_ok hs).trans ((Op.bind_ok (Op.get_run s)).trans ((Op.bind_ok hr).trans ?_)))
  simp only [hk, not_pending_of_ge h]
  rfl

end

/-- The cancel register written: a cancellation of `t` is in progress. -/
def State.cancelling (s : State) (t : Word) : State := { s with disp := { s.disp with cancelTask := t, cancelBusy := true } }

theorem exec_cancelTask_ignored {s : State} {t : Word} (hh : s.headless = false) (hb : s.disp.cancelBusy = true)
    (ht : s.disp.cancelTask ≠ t) : s.ActsTo (.cancelTask t) { s with stalled := false } := by
  refine ⟨runEvent_ok ((Op.bind_ok (Op.get_run s)).trans ((Op.need_bind (State.not_headless hh) _ s).trans ?_)), rfl⟩
  simp only [hb, ht, ne_eq, not_false_eq_true, decide_true, Bool.and_true, if_true]
  rfl

theorem exec_cancelTask_answers {s s₁ : State} {t : Word} {r : Nat} (hh : s.headless = false)
    (hb : s.disp.cancelBusy = false ∨ s.disp.cancelTask = t) (h : Op.cancel t (s.cancelling t) = .ok (r, s₁)) :
    s.ActsTo (.cancelTask t)
      { s₁ with disp := { s₁.disp with cancelBusy := false, cancelResult := BitVec.ofNat 3 r }, stalled := false } := by
  have hc : (s.disp.cancelBusy && s.disp.cancelTask ≠ t) = false := by rcases hb with hb | hb <;> simp [hb]
  refine ⟨runEvent_ok (t := { s₁ with disp := { s₁.disp with cancelBusy := false, cancelResult := BitVec.ofNat 3 r } })
    ((Op.bind_ok (Op.get_run s)).trans ((Op.need_bind (State.not_headless hh) _ s).trans ?_)), rfl⟩
  rw [hc]
  exact (Op.bind_ok (Op.set_run _ s)).trans (Op.bind_ok (Op.tried_ok h))

end Sys2Proof.Machine

open Sys2Proof.Machine in
/-- Settles O52: each event by the operation that it runs. -/
theorem queueEvents : Obligations.QueueEvents := by
  unfold Obligations.QueueEvents
  refine ⟨fun s off size t => ⟨exec_hostAppend_down, fun hu hh => ⟨fun ho hz hn => ⟨fun r s₁ h => ?_, fun e h => ?_⟩,
      fun t' r s₁ hz hn h => ?_, exec_hostAppend_other hu hh⟩⟩,
    fun s q => ⟨exec_queueEnable_headless q, fun v hh h => exec_queueEnable_tried hh (Op.tried_ok h), fun e hh h => ?_⟩,
    fun s t q => Op.shareHeader_seen, exec_queueDisable_acts,
    fun s q => ⟨fun t => exec_dispatcherWakeup_acts, exec_dispatcherWakeup_stalls⟩,
    fun s q w hw hh hr => ⟨exec_dispatcherLinkChange_stalls hw hh hr, exec_dispatcherLinkChange_acts hw hh hr⟩,
    fun s s₁ ref k hk hh => ⟨fun hq => ⟨exec_watchdogExpiry_unmet hh hq hk, exec_watchdogExpiry_begins hh hq hk⟩,
      fun q hq => ⟨exec_watchdogExpiry_cancels hh hq, exec_watchdogExpiry_ends hh hq⟩⟩,
    fun s t hh => ⟨exec_cancelTask_ignored hh, fun hb => ⟨fun h => ?_, fun s₁ h => ?_, fun q st n r hq hs hr =>
      ⟨fun k s₁ hk hp hc => ?_, fun k hk hp => ?_, fun s₁ hk h hc => ?_, fun hk h => ?_⟩⟩⟩⟩
  · exact exec_hostAppend_up hu hh ((congrFun (Op.windowWrite_append ho hz hn) s).trans (Op.hostAppend_ok h))
  · cases e <;> exact exec_hostAppend_up hu hh ((congrFun (Op.windowWrite_append ho hz hn) s).trans (Op.hostAppend_error h))
  · exact exec_hostAppend_up hu hh ((congrFun (Op.windowWrite_goesOn hz hn) s).trans (Op.hostAppend_ok h))
  · cases e <;> exact exec_queueEnable_tried hh (Op.tried_error h)
  · exact exec_cancelTask_answers hh hb (Op.cancel_nowhere (Op.queueOf_unaligned h _))
  · exact exec_cancelTask_answers hh hb (Op.cancel_nowhere h)
  · exact exec_cancelTask_answers hh hb (Op.cancel_running hq hs hr hk hp hc)
  · exact exec_cancelTask_answers hh hb (Op.cancel_ended hq hs hr hk hp)
  · exact exec_cancelTask_answers hh hb (Op.cancel_unstarted hq hs hr hk h hc)
  · exact exec_cancelTask_answers hh hb (Op.cancel_past hq hs hr hk h)
end

section
/-! O53. Selection is a minimum, the first of a rotation and a count of rounds; admission and the answers of other packages are what
their events set. -/

namespace Sys2Proof.Machine

variable {α β : Type}

/-- A running minimum is a lower bound, and one of the values that it runs over. -/
theorem foldl_min_spec (f : α → Nat) (l : List α) (m : Nat) :
    l.foldl (fun m x => min m (f x)) m ≤ m ∧ (∀ x ∈ l, l.foldl (fun m x => min m (f x)) m ≤ f x) ∧
      (l.foldl (fun m x => min m (f x)) m = m ∨ ∃ x ∈ l, l.foldl (fun m x => min m (f x)) m = f x) := by
  induction l generalizing m with
  | nil => simp
  | cons a l ih =>
    obtain ⟨hm, hl, he⟩ := ih (min m (f a))
    simp only [List.foldl_cons, List.forall_mem_cons, List.exists_mem_cons_iff]
    refine ⟨by omega, ⟨by omega, hl⟩, ?_⟩
    rcases he with he | he
    · rcases min_choice m (f a) with h | h
      · exact .inl (he.trans h)
      · exact .inr (.inl (he.trans h))
    · exact .inr (.inr he)

/-- The value of an element that is a lower bound is the minimum. -/
theorem foldl_min_eq (f : α → Nat) {l : List α} {m : Nat} {a : α} (hm : f a ≤ m) (hl : ∀ x ∈ l, f a ≤ f x) (ha : a ∈ l) :
    l.foldl (fun m x => min m (f x)) m = f a := by
  obtain ⟨-, hle, he⟩ := foldl_min_spec f l m
  refine Nat.le_antisymm (hle a ha) ?_
  rcases he with h | ⟨x, hx, h⟩
  · exact hm.trans_eq h.symm
  · exact (hl x hx).trans_eq h.symm

/-! ### The rotation (R85) -/

/-- Where the rotation of a level starts: behind the queue last selected there. -/
def State.rotationStart (s : State) (level : Nat) : Nat :=
  match s.disp.lastSel.toList.getD level none with
  | some k => k.toNat + 1
  | none => 0

/-- The queue that is picked: the first of a level's queues with a positive deficit from where the rotation starts. -/
theorem State.pickQueue_eq_some {s : State} {level q : Nat} {qs : List Nat} (h : s.pickQueue level qs = some q) :
    q ∈ qs ∧ 0 < (s.queue q).deficit ∧ ∃ i < 64, (s.rotationStart level + i) % 64 = q ∧
      ∀ j < i, (s.rotationStart level + j) % 64 ∈ qs → (s.queue ((s.rotationStart level + j) % 64)).deficit ≤ 0 := by
  have hp : s.pickQueue level qs = ((List.range 64).map fun i => (s.rotationStart level + i) % 64).find?
      fun q => qs.contains q && s.dispPositive q := rfl
  rw [hp, List.find?_map, Option.map_eq_some_iff] at h
  obtain ⟨i, hi, rfl⟩ := h
  obtain ⟨hi, hlt, hj⟩ := List.find?_range_eq_some.mp hi
  simp only [Function.comp_apply, Bool.and_eq_true, List.contains_iff_mem, State.dispPositive, decide_eq_true_eq] at hi
  obtain ⟨hq, hd⟩ := hi
  refine ⟨hq, hd, i, List.mem_range.mp hlt, rfl, fun j hji hjq => ?_⟩
  simpa [State.dispPositive, hjq] using hj j hji

/-- A queue's distance from the one last selected counts the places of the rotation. -/
theorem State.pickQueue_first {s : State} {level q : Nat} {qs : List Nat} (h : s.pickQueue level qs = some q) :
    q ∈ qs ∧ q < 64 ∧ 0 < (s.queue q).deficit ∧
      ∀ k, (s.disp.lastSel.toList.getD level none) = some k → ∀ p ∈ qs, p < 64 → 0 < (s.queue p).deficit →
        (q + 63 - k.toNat) % 64 ≤ (p + 63 - k.toNat) % 64 := by
  obtain ⟨hq, hd, i, hi, hqi, hfirst⟩ := State.pickQueue_eq_some h
  refine ⟨hq, by omega, hd, fun k hk p hp hp64 hpd => ?_⟩
  have hs : s.rotationStart level = k.toNat + 1 := by rw [State.rotationStart, hk]
  by_contra hlt
  have hk64 := k.isLt
  have hpj : (s.rotationStart level + (p + 63 - k.toNat) % 64) % 64 = p := by omega
  have hle := hfirst ((p + 63 - k.toNat) % 64) (by omega) (by rwa [hpj])
  rw [hpj] at hle
  omega

/-! ### Replenishment (R85) -/

/-- The rounds until a queue's deficit is positive. -/
def Queue.need (x : Queue) : Nat := (-x.deficit).toNat / x.quantum + 1

/-- The rounds are the least that one of the queues needs. -/
theorem State.rounds_spec (s : State) {qs : List Nat} (h : qs ≠ []) :
    (∀ q ∈ qs, s.rounds qs ≤ (s.queue q).need) ∧ ∃ q ∈ qs, s.rounds qs = (s.queue q).need := by
  cases qs with
  | nil => exact absurd rfl h
  | cons q qs =>
    obtain ⟨hm, hl, he⟩ := foldl_min_spec (fun q => (s.queue q).need) qs (s.queue q).need
    exact ⟨List.forall_mem_cons.mpr ⟨hm, hl⟩, (List.exists_mem_cons_iff ..).mpr he⟩

theorem State.replenish_idle {s : State} {qs : List Nat} (h : ∃ q ∈ qs, 0 < (s.queue q).deficit) : s.replenish qs = s := by
  refine if_pos ?_
  simpa [State.dispPositive] using h

theorem State.queue_replenish {s : State} {qs : List Nat} (hn : qs.Nodup) (h64 : ∀ q ∈ qs, q < 64)
    (h : ∀ q ∈ qs, (s.queue q).deficit ≤ 0) {q : Nat} (hq : q ∈ qs) :
    ((s.replenish qs).queue q).deficit = (s.queue q).deficit + s.rounds qs * (s.queue q).quantum := by
  have hb : ¬qs.any s.dispPositive = true := by simpa [State.dispPositive] using h
  have hr : s.replenish qs = s.mapQueues qs fun x => { x with deficit := x.deficit + s.rounds qs * x.quantum } := if_neg hb
  rw [hr, State.queue_mapQueues s _ hn h64, if_pos hq]

theorem Queue.quantum_pos (x : Queue) : 0 < x.quantum := Nat.mul_pos (by decide) (Nat.le_max_left 1 _)

/-- As many rounds as a queue needs make its deficit positive. -/
theorem Queue.deficit_need (x : Queue) (h : x.deficit ≤ 0) : 0 < x.deficit + x.need * x.quantum := by
  have hlt : (-x.deficit).toNat < x.need * x.quantum := by
    rw [Queue.need, Nat.succ_mul]
    exact Nat.lt_div_mul_add x.quantum_pos
  rw [← Nat.cast_mul]
  omega

/-- Fewer leave it as it was, 0 or below. -/
theorem Queue.deficit_lt_need (x : Queue) (h : x.deficit ≤ 0) {k : Nat} (hk : k < x.need) : x.deficit + (k * x.quantum : Nat) ≤ 0 := by
  have := Nat.div_mul_le_self (-x.deficit).toNat x.quantum
  have := Nat.mul_le_mul_right x.quantum (Nat.le_of_lt_succ hk)
  omega

/-- Both cases of a replenishment. -/
theorem State.replenish_spec (s : State) {qs : List Nat} (hne : qs ≠ []) (hn : qs.Nodup) (h64 : ∀ q ∈ qs, q < 64) :
    ((∃ q ∈ qs, 0 < (s.queue q).deficit) → s.replenish qs = s) ∧
    ((∀ q ∈ qs, (s.queue q).deficit ≤ 0) → ∃ k : Nat, 1 ≤ k ∧
      (∀ q ∈ qs, ((s.replenish qs).queue q).deficit = (s.queue q).deficit + k * (65536 * max 1 (s.queue q).weight.toNat : Nat)) ∧
      (∃ q ∈ qs, 0 < ((s.replenish qs).queue q).deficit) ∧
      ∀ q ∈ qs, (s.queue q).deficit + ((k - 1) * (65536 * max 1 (s.queue q).weight.toNat) : Nat) ≤ 0) := by
  refine ⟨State.replenish_idle, fun h => ?_⟩
  obtain ⟨hle, p, hp, hk⟩ := s.rounds_spec hne
  have hd : ∀ q ∈ qs, ((s.replenish qs).queue q).deficit = (s.queue q).deficit + s.rounds qs * (s.queue q).quantum :=
    fun q hq => State.queue_replenish hn h64 h hq
  have hpos : 1 ≤ s.rounds qs := hk ▸ Nat.le_add_left 1 _
  refine ⟨s.rounds qs, hpos, hd, ⟨p, hp, ?_⟩, fun q hq => Queue.deficit_lt_need _ (h q hq) ?_⟩
  · rw [hd p hp, hk]
    exact Queue.deficit_need _ (h p hp)
  · exact Nat.lt_of_lt_of_le (Nat.sub_lt hpos Nat.one_pos) (hle q hq)

/-! ### Selection (R85, R86) -/

/-- What a candidate's priority number stays below: that of the first held task, if there is one. -/
def priorityBar : List (Cand × Task) → Nat
  | (c, _) :: _ => c.prio
  | [] => 256

/-- The candidates of smaller priority number than every held task. -/
def openCands (held : List (Cand × Task)) (cands : List Cand) : List Cand := cands.filter fun c => c.prio < priorityBar held

/-- What selection does with the candidates and the held tasks that it has found. -/
def Op.selectAmong (binding : List Nat) (idle : Bool) (held : List (Cand × Task)) (cands : List Cand) : Op Unit := do
  match openCands held cands, held with
  | c0 :: _, _ => Op.selectOne (openCands held cands) binding c0
  | [], (c, t) :: _ => if (← Op.retryHeld binding c t) then pure () else Op.need idle
  | [], [] => Op.need idle

section
variable {s s₁ s₂ s₃ t : State} {b : List Nat} {held : List (Cand × Task)} {cs : List (Option Cand)}

theorem exec_dispatcherSelect_headless (hh : s.headless = true) : exec (.dispatcherSelect b) s = .next { s with stalled := true } := by
  have hb : (!s.headless) = false := by rw [hh]; rfl
  exact runEvent_stall (Op.whole_stall (Op.need_bind_stall hb _ s))

variable (hh : s.headless = false)
include hh

theorem exec_dispatcherSelect_cleared (hc : Op.clearHeads (List.range 64) s = .ok (true, s₁)) :
    s.ActsTo (.dispatcherSelect b) { s₁ with stalled := false } :=
  ⟨runEvent_ok (Op.whole_ok ((Op.need_bind (State.not_headless hh) _ s).trans (Op.bind_ok hc))), rfl⟩

variable (hc : Op.clearHeads (List.range 64) s = .ok (false, s₁)) (hl : Op.heldCands s₁.dropDeficits = .ok (held, s₂))
  (hcs : Op.collect Op.candidate (List.range 64) s₂ = .ok (cs, s₃))
include hc hl hcs

theorem exec_dispatcherSelect_acts (h : Op.selectAmong b ((List.range 64).any s₁.idleDeficit) held (cs.filterMap fun c => c) s₃ =
    .ok ((), t)) : s.ActsTo (.dispatcherSelect b) { t with stalled := false } := by
  refine ⟨runEvent_ok (Op.whole_ok ((Op.need_bind (State.not_headless hh) _ s).trans ((Op.bind_ok hc).trans ?_))), rfl⟩
  refine (Op.bind_ok (Op.get_run s₁)).trans ((Op.bind_ok (Op.modify_run _ s₁)).trans ?_)
  exact (Op.bind_ok hl).trans ((Op.bind_ok hcs).trans h)

theorem exec_dispatcherSelect_stalls (h : Op.selectAmong b ((List.range 64).any s₁.idleDeficit) held (cs.filterMap fun c => c) s₃ =
    .error .stall) : exec (.dispatcherSelect b) s = .next { s with stalled := true } := by
  refine runEvent_stall (Op.whole_stall ((Op.need_bind (State.not_headless hh) _ s).trans ((Op.bind_ok hc).trans ?_)))
  refine (Op.bind_ok (Op.get_run s₁)).trans ((Op.bind_ok (Op.modify_run _ s₁)).trans ?_)
  exact (Op.bind_ok hl).trans ((Op.bind_ok hcs).trans h)

end

theorem lt_priorityBar {held : List (Cand × Task)} {n : Nat} (hmax : n < 256) (hheld : ∀ h, held.head? = some h → n < h.1.prio) :
    n < priorityBar held := by
  cases held with
  | nil => exact hmax
  | cons h rest => exact hheld h rfl

/-- Below the bar, every candidate of a number is among those selected from. -/
theorem openCands_filter {held : List (Cand × Task)} {cands : List Cand} {n : Nat} (h : n < priorityBar held) :
    (openCands held cands).filter (fun x => x.prio = n) = cands.filter fun x => x.prio = n := by
  rw [openCands, List.filter_filter]
  refine List.filter_congr fun x _ => ?_
  by_cases hx : x.prio = n <;> simp [hx, h]

theorem openCands_eq_nil {c : Cand} {k : Task} {rest : List (Cand × Task)} {cands : List Cand}
    (hx : ∀ x ∈ cands, c.prio ≤ x.prio) : openCands ((c, k) :: rest) cands = [] :=
  List.filter_eq_nil_iff.mpr fun x hm hlt => (hx x hm).not_gt (of_decide_eq_true hlt)

section
variable {s s₁ t : State} {b : List Nat} {idle : Bool} {held rest : List (Cand × Task)} {cands : List Cand} {c : Cand} {k : Task}
  {q : Nat}

/-- A candidate that is selected fails, or is settled. -/
def Op.settleSelected (c : Cand) (b : List Nat) : Op Unit := do
  if (← Op.refused c) then pure ()
  else Op.settleCand c (match c.resume with
    | some t => t.away
    | none => []) [] b

/-- The selected candidate is of the least number, and its queue the one picked at that number. -/
theorem Op.selectAmong_open (hm : c ∈ cands) (hle : ∀ x ∈ cands, c.prio ≤ x.prio) (hmax : c.prio < 256)
    (hheld : ∀ h, held.head? = some h → c.prio < h.1.prio)
    (hs : s₁ = s.replenish ((cands.filter fun x => x.prio = c.prio).map (·.queue)))
    (hq : s₁.pickQueue c.prio ((cands.filter fun x => x.prio = c.prio).map (·.queue)) = some q)
    (hf : (cands.filter fun x => x.prio = c.prio).find? (fun x => x.queue = q) = some c) :
    Op.selectAmong b idle held cands s = Op.settleSelected c b (s₁.markSelected c.prio q) := by
  subst hs
  have hbar := lt_priorityBar hmax hheld
  have hc : c ∈ openCands held cands := List.mem_filter.mpr ⟨hm, decide_eq_true hbar⟩
  obtain ⟨c0, l, hl⟩ := List.exists_cons_of_ne_nil (List.ne_nil_of_mem hc)
  have hsub : ∀ x ∈ openCands held cands, c.prio ≤ x.prio := fun x hx => hle x (List.mem_of_mem_filter hx)
  have hlevel : (openCands held cands).foldl (fun m c => min m c.prio) c0.prio = c.prio :=
    foldl_min_eq (·.prio) (hsub c0 (hl ▸ List.mem_cons_self ..)) hsub hc
  have hone : Op.selectAmong b idle held cands = Op.selectOne (openCands held cands) b c0 := by
    simp only [Op.selectAmong, hl]
  rw [hone, Op.selectOne]
  simp only [hlevel, openCands_filter hbar]
  refine (Op.bind_ok (Op.modify_run _ s)).trans ((Op.bind_ok (Op.get_run _)).trans ?_)
  rw [hq]
  refine (Op.bind_ok (a := q) rfl).trans ?_
  rw [hf]
  refine (Op.bind_ok (a := c) rfl).trans ((Op.bind_ok (Op.set_run _ _)).trans ?_)
  rfl

theorem Op.selectAmong_held (hx : ∀ x ∈ cands, c.prio ≤ x.prio) (hl : held = (c, k) :: rest) : Op.selectAmong b idle held cands = (do
      if (← Op.retryHeld b c k) then pure () else Op.need idle) := by
  subst hl
  simp only [Op.selectAmong, openCands_eq_nil hx]

theorem Op.selectAmong_none (hl : held = []) (hx : cands = []) : Op.selectAmong b idle held cands = Op.need idle := by
  subst hl hx
  rfl

end

/-! ### Admission (R86) -/

/-- An operation that answers had an answer to go on from. -/
theorem Op.of_bind_ok {op : Op α} {rest : α → Op β} {s : State} {out : β × State} (h : (op >>= rest) s = .ok out) :
    ∃ a t, op s = .ok (a, t) ∧ rest a t = .ok out := by
  rw [Op.bind_run] at h
  cases ho : op s with
  | error e => simp [ho] at h
  | ok r =>
    obtain ⟨a, t⟩ := r
    rw [ho] at h
    exact ⟨a, t, rfl, h⟩

theorem State.addCores_disp (s : State) (task : Word) (binds : List Bind) : (s.addCores task binds).disp = s.disp := by
  simp only [State.addCores]
  split
  · rfl
  · split <;> rfl

/-- An admitted task of revision 1 is RUNNING, with the words that were read. -/
theorem Op.admitTask_running {s t : State} {c : Cand} {b : List Nat} {r : List Grant}
    (hrev : (c.words.getD 6 0).bits 63 56 = 1) (h : Op.admitTask c b r s = .ok ((), t)) :
    ∃ k ∈ t.disp.tasks, k.ref = taskKey c.queue c.ref ∧ k.phase = .running ∧ k.words = c.words ∧ k.prio = c.prio ∧
      k.queue = BitVec.ofNat 6 c.queue := by
  obtain ⟨pos, s₁, -, h⟩ := Op.of_bind_ok h
  obtain ⟨_, s₂, -, h⟩ := Op.of_bind_ok h
  obtain ⟨⟨_, n⟩, s₃, -, h⟩ := Op.of_bind_ok h
  obtain ⟨_, s₄, -, h⟩ := Op.of_bind_ok h
  obtain ⟨_, s₅, hm, h⟩ := Op.of_bind_ok h
  rw [if_neg (not_not.mpr hrev)] at h
  cases h
  cases hm
  rw [State.addCores_disp]
  exact ⟨_, List.mem_append_right _ (List.mem_singleton_self _), rfl, rfl, rfl, rfl, rfl⟩

/-! ### Bindings on other packages (R106) -/

theorem State.grantForeign_cases (s : State) (task : Word) (g : Nat) (p : BitVec 13) (gangs size : Nat) (twin : Bool) :
    s.grantForeign task g p gangs size twin = s ∨ ∃ f, s.grantForeign task g p gangs size twin =
      { s with disp := { s.disp with foreign := f :: s.disp.foreign } } ∧ f.package = p ∧ f.task = task ∧ f.group = g := by
  simp only [State.grantForeign]
  split
  · exact .inr ⟨_, rfl, rfl, rfl, rfl⟩
  · exact .inl rfl

/-- An answer is a refusal, or has a place for each member. -/
theorem answer_fits {mine places : List (Nat × Nat)} (hm : mine ≠ []) (hl : places = [] ∨ places.length = mine.length) :
    (mine ≠ [] && (places = [] || places.length = mine.length)) = true := by
  simpa [hm] using hl

section
variable {s : State} {ref : Word} {g : Nat} {p : BitVec 13} {k : Task}

/-- A message of another package, heard. -/
theorem State.hears (hp : p ≠ s.pkg.address) (hh : s.headless = false) : (p ≠ s.pkg.address && !s.headless) = true := by
  simp [hp, hh]

variable (hp : p ≠ s.pkg.address) (hh : s.headless = false)
include hp hh

theorem exec_bindingRequest_answer_held {places : List (Nat × Nat)} (hk : s.findTask ref = some k) (hph : k.phase = .held)
    (hm : (gridOf k.words).unitMembers g ≠ [])
    (hl : places = [] ∨ places.length = ((gridOf k.words).unitMembers g).length)
    (hr : ∀ r ∈ k.remote, r.unit ≠ g ∧ r.package.toNat ≤ p.toNat) :
    s.ActsTo (.bindingRequest ref g p (.answer places))
      { s.mapTask ref (fun t => { t with remote := if places = [] then [] else t.remote ++ [⟨g, p, places⟩] })
        with stalled := false } := by
  have hn := answer_fits hm hl
  have ho : (k.remote.all fun r => r.unit ≠ g && r.package.toNat ≤ p.toNat) = true := by simpa using hr
  refine ⟨runEvent_ok ((Op.bind_ok (Op.get_run s)).trans ((Op.need_bind (State.hears hp hh) _ s).trans ?_)), rfl⟩
  rw [hk]
  refine (Op.bind_ok (a := k) rfl).trans ((Op.need_bind hn _ s).trans ?_)
  rw [if_neg (by rw [hph]; decide)]
  exact (Op.need_bind (decide_eq_true hph) _ s).trans ((Op.need_bind ho _ s).trans rfl)

theorem exec_bindingRequest_answer_running {places : List (Nat × Nat)} (hk : s.findTask ref = some k) (hph : k.phase = .running)
    (hne : places ≠ []) (hm : (gridOf k.words).unitMembers g ≠ [])
    (hl : places.length = ((gridOf k.words).unitMembers g).length)
    (hb : ∀ b ∈ k.binds, (b.lcore, b.copy) ∈ (gridOf k.words).unitMembers g → b.valid = false)
    (hc : ∀ c ∈ s.cores, c.id.task = ref → (c.id.lcore, c.id.copy) ∈ (gridOf k.words).unitMembers g → c.resident = false) :
    s.ActsTo (.bindingRequest ref g p (.answer places)) { s.bindAway k ⟨g, p, places⟩ with stalled := false } := by
  have hn := answer_fits hm (.inr hl)
  have hbs : ((k.binds.filter fun b => ((gridOf k.words).unitMembers g).contains (b.lcore, b.copy)).all fun b => !b.valid) = true := by
    simpa [imp_iff_not_or] using hb
  have hcs : (!s.cores.any fun c => c.id.task = ref && ((gridOf k.words).unitMembers g).contains (c.id.lcore, c.id.copy) && c.resident) =
      true := by
    simpa using hc
  refine ⟨runEvent_ok ((Op.bind_ok (Op.get_run s)).trans ((Op.need_bind (State.hears hp hh) _ s).trans ?_)), rfl⟩
  rw [hk]
  refine (Op.bind_ok (a := k) rfl).trans ((Op.need_bind hn _ s).trans ?_)
  rw [if_pos hph]
  refine (Op.need_bind hbs _ s).trans ((Op.need_bind hcs _ s).trans ?_)
  rw [if_pos hne]
  rfl

theorem exec_bindingRequest_resident {lcore copy : Nat} {res : Bool} {b : Bind} (hk : s.findTask ref = some k)
    (hb : k.binds.find? (fun b => b.lcore = lcore && b.copy = copy && b.package = p && b.valid) = some b) :
    s.ActsTo (.bindingRequest ref g p (.resident lcore copy res))
      { (if res = true ∧ b.placed = false then s.countPlacement ref else s).mapBind ⟨ref, lcore, copy⟩
          (fun b => { b with res := res, placed := b.placed || res }) with stalled := false } := by
  refine ⟨runEvent_ok ((Op.bind_ok (Op.get_run s)).trans ((Op.need_bind (State.hears hp hh) _ s).trans ?_)), rfl⟩
  rw [hk]
  refine (Op.bind_ok (a := k) rfl).trans ?_
  rw [hb]
  refine (Op.bind_ok (a := b) rfl).trans ?_
  simp only [Bool.and_eq_true, Bool.not_eq_true']
  rfl

theorem exec_bindingRequest_ask {gangs size : Nat} {twin : Bool} (hs : size ∈ [1, 2, 4, 8, 16]) (h1 : 1 ≤ gangs)
    (h16 : gangs * size ≤ 16) (hf : ∀ f ∈ s.disp.foreign, ¬(f.package = p ∧ f.task = ref ∧ f.group = g)) :
    s.ActsTo (.bindingRequest ref g p (.ask gangs size twin)) { s.grantForeign ref g p gangs size twin with stalled := false } := by
  have hn : ([1, 2, 4, 8, 16].contains size && 1 ≤ gangs && gangs * size ≤ 16) = true := by
    simpa [h1, h16] using hs
  have hfs : (!s.disp.foreign.any fun f => f.package = p && f.task = ref && f.group = g) = true := by
    simpa using hf
  refine ⟨runEvent_ok ((Op.bind_ok (Op.get_run s)).trans ((Op.need_bind (State.hears hp hh) _ s).trans ?_)), rfl⟩
  exact (Op.need_bind hn _ s).trans (Op.need_bind hfs _ s)

theorem exec_bindingRequest_usable {slots : List Nat} (hr : ∃ r ∈ s.pkg.remotes, r.package = p) :
    ∃ u, s.ActsTo (.bindingRequest ref g p (.usable slots)) u ∧ (∀ r ∈ u.pkg.remotes, r.package = p → r.usable = slots) ∧
      u.disp = s.disp ∧ u.unc = s.unc ∧ u.core = s.core := by
  have hn : (s.pkg.remotes.any fun r => r.package = p) = true := by simpa using hr
  refine ⟨_, ⟨runEvent_ok ((Op.bind_ok (Op.get_run s)).trans ((Op.need_bind (State.hears hp hh) _ s).trans
    (Op.need_bind hn _ s))), rfl⟩, fun r h hrp => ?_, rfl, rfl, rfl⟩
  obtain ⟨x, -, rfl⟩ := List.mem_map.mp h
  by_cases hx : x.package = p
  · rw [if_pos hx]
  · rw [if_neg hx] at hrp
    exact absurd hrp hx

end

section
variable {s : State} {ref : Word} {p : BitVec 13} (hh : s.headless = false)
include hh

theorem exec_bindingWithdraw_held {k : Task} (hp : p = s.pkg.address) (hk : s.findTask ref = some k) (hph : k.phase = .held) :
    s.ActsTo (.bindingWithdraw ⟨ref, p⟩) { s.mapTask ref (fun t => { t with remote := [] }) with stalled := false } := by
  refine ⟨runEvent_ok ((Op.bind_ok (Op.get_run s)).trans ((Op.need_bind (State.not_headless hh) _ s).trans ?_)), rfl⟩
  rw [if_pos hp, hk]
  exact (Op.bind_ok (a := k) rfl).trans ((Op.need_bind (decide_eq_true hph) _ s).trans rfl)

theorem exec_bindingWithdraw_foreign (hp : p ≠ s.pkg.address) (hf : ∃ f ∈ s.disp.foreign, f.package = p ∧ f.task = ref) :
    s.ActsTo (.bindingWithdraw ⟨ref, p⟩) { s with
      disp := { s.disp with foreign := s.disp.foreign.filter fun f => !(f.package = p && f.task = ref) }, stalled := false } := by
  have hn : (s.disp.foreign.any fun f => f.package = p && f.task = ref) = true := by simpa using hf
  refine ⟨runEvent_ok (t := { s with disp :=
      { s.disp with foreign := s.disp.foreign.filter fun f => !(f.package = p && f.task = ref) } })
    ((Op.bind_ok (Op.get_run s)).trans ((Op.need_bind (State.not_headless hh) _ s).trans ?_)), rfl⟩
  rw [if_neg hp]
  exact Op.need_bind hn _ s

theorem exec_bindingWithdraw_unknown (hp : p ≠ s.pkg.address) (hf : ∀ f ∈ s.disp.foreign, ¬(f.package = p ∧ f.task = ref)) :
    exec (.bindingWithdraw ⟨ref, p⟩) s = .next { s with stalled := true } := by
  have hn : (s.disp.foreign.any fun f => f.package = p && f.task = ref) = false := by simpa using hf
  refine runEvent_stall ((Op.bind_ok (Op.get_run s)).trans ((Op.need_bind (State.not_headless hh) _ s).trans ?_))
  rw [if_neg hp]
  exact Op.need_bind_stall hn _ s

end

end Sys2Proof.Machine

open Sys2Proof.Machine in
/-- Settles O53: selection by the branches of `Op.selectAmong`, the rotation and the rounds by what they count, admission and
bindings by what their events set. -/
theorem dispatcherSelection : Obligations.DispatcherSelection := by
  unfold Obligations.DispatcherSelection
  refine ⟨fun s b => exec_dispatcherSelect_headless, fun s s₁ b hh hc => exec_dispatcherSelect_cleared hh hc,
    fun s s₁ s₂ s₃ b held cs hh hc hl hcs => ⟨fun s₄ s₅ c q hm hle hmax hheld hs hq hf => ?_, fun s₄ c k rest hx hle => ?_,
      fun hx hn => ?_⟩,
    fun s level q qs => State.pickQueue_first, fun s qs => s.replenish_spec, fun s t c b r => Op.admitTask_running,
    fun s ref g p hp hh => ⟨fun places k hk hph => exec_bindingRequest_answer_held hp hh hk hph,
      fun places k hk hph => exec_bindingRequest_answer_running hp hh hk hph, fun lcore copy res k b => exec_bindingRequest_resident hp hh,
      fun gangs size twin => exec_bindingRequest_ask hp hh, fun slots => exec_bindingRequest_usable hp hh⟩,
    State.grantForeign_cases,
    fun s ref p hh => ⟨fun k => exec_bindingWithdraw_held hh, exec_bindingWithdraw_foreign hh, exec_bindingWithdraw_unknown hh⟩⟩
  · have hsel := Op.selectAmong_open (b := b) (idle := (List.range 64).any s₁.idleDeficit) hm hle hmax hheld hs hq hf
    exact ⟨fun h => exec_dispatcherSelect_acts hh hc hl hcs (hsel.trans (Op.bind_ok h)),
      fun s₆ h hset => exec_dispatcherSelect_acts hh hc hl hcs (hsel.trans ((Op.bind_ok h).trans hset))⟩
  · have hsel := congrFun (Op.selectAmong_held (b := b) (idle := (List.range 64).any s₁.idleDeficit) hle hx) s₃
    refine ⟨fun h => exec_dispatcherSelect_acts hh hc hl hcs (hsel.trans (Op.bind_ok h)),
      fun h hi => exec_dispatcherSelect_acts hh hc hl hcs (hsel.trans ((Op.bind_ok h).trans ?_)),
      fun h hi => exec_dispatcherSelect_stalls hh hc hl hcs (hsel.trans ((Op.bind_ok h).trans ?_))⟩
    · rw [hi]
      rfl
    · rw [hi]
      rfl
  · have hsel := congrFun (Op.selectAmong_none (b := b) (idle := (List.range 64).any s₁.idleDeficit) hx hn) s₃
    refine ⟨fun hi => exec_dispatcherSelect_acts hh hc hl hcs (hsel.trans ?_),
      fun hi => exec_dispatcherSelect_stalls hh hc hl hcs (hsel.trans ?_)⟩
    · rw [hi]
      rfl
    · rw [hi]
      rfl
end

section
/-! Logical cores and tasks found again after a change of the state: what acquires (R322), the taking of a core (R109) and the writing
of an image (R105, R405) leave of a logical core. -/

namespace Sys2Proof.Machine

/-! ### Cores and tasks found after a change -/

/-- Among elements of which those found are changed, the first one found is the same. -/
theorem find?_map_ite {α : Type} {p : α → Bool} {f : α → α} {a : α} {l : List α} (h : l.find? p = some a) (hf : p (f a) = true) :
    (l.map fun x => if p x then f x else x).find? p = some (f a) := by
  induction l with
  | nil => cases h
  | cons x l ih =>
    by_cases hx : p x = true
    · rw [List.find?_cons_of_pos hx] at h
      cases h
      rw [List.map_cons, if_pos hx, List.find?_cons_of_pos hf]
    · rw [List.find?_cons_of_neg hx] at h
      rw [List.map_cons, if_neg hx, List.find?_cons_of_neg hx, ih h]

theorem State.id_of_findCore {s : State} {id : CoreId} {c : LCore} (h : s.findCore id = some c) : c.id = id :=
  of_decide_eq_true (List.find?_some (p := fun c : LCore => c.id = id) h)

theorem State.ref_of_findTask {s : State} {ref : Word} {t : Task} (h : s.findTask ref = some t) : t.ref = ref :=
  of_decide_eq_true (List.find?_some (p := fun t : Task => t.ref = ref) h)

theorem State.findCore_mapCores (s : State) {f : LCore → LCore} (hf : ∀ d, (f d).id = d.id) (id : CoreId) :
    (s.mapCores f).findCore id = (s.findCore id).map f := by
  refine (List.find?_map (f := f) (l := s.cores)).trans ?_
  simp only [Function.comp_def, hf]
  rfl

theorem State.findCore_mapCore {s : State} {id : CoreId} {c : LCore} {f : LCore → LCore} (h : s.findCore id = some c)
    (hf : (f c).id = id) : (s.mapCore id f).findCore id = some (f c) := by
  rw [State.findCore, State.cores] at h
  by_cases hc : s.core.id = id
  · rw [List.find?_cons_of_pos (by simpa using hc)] at h
    cases h
    rw [State.mapCore, if_pos hc]
    exact List.find?_cons_of_pos (by simpa using hf)
  · rw [List.find?_cons_of_neg (by simpa using hc)] at h
    rw [State.mapCore, if_neg hc]
    refine (List.find?_cons_of_neg (by simpa using hc)).trans ?_
    simpa using find?_map_ite (f := f) h (decide_eq_true hf)

theorem State.findTask_mapTask {s : State} {ref : Word} {t : Task} {f : Task → Task} (h : s.findTask ref = some t)
    (hf : (f t).ref = ref) : (s.mapTask ref f).findTask ref = some (f t) := by
  simpa [State.findTask, State.mapTask] using find?_map_ite (f := f) h (decide_eq_true hf)

/-! ### What an acquire leaves of the cores (R322) -/

/-- A context with the number, the PC and the registers of another: waits, dirty bits and the details of events are left out. -/
structure Ctx.Same (x y : Ctx) : Prop where
  num : y.num = x.num
  live : y.live = x.live
  pc : y.pc = x.pc
  level : y.level = x.level
  g : y.g = x.g
  v : y.v = x.v
  k : y.k = x.k
  sys : y.sys = x.sys

theorem Ctx.Same.refl (x : Ctx) : x.Same x := ⟨rfl, rfl, rfl, rfl, rfl, rfl, rfl, rfl⟩

theorem Ctx.Same.trans {x y z : Ctx} (h : x.Same y) (g : y.Same z) : x.Same z :=
  ⟨g.num.trans h.num, g.live.trans h.live, g.pc.trans h.pc, g.level.trans h.level, g.g.trans h.g, g.v.trans h.v, g.k.trans h.k,
    g.sys.trans h.sys⟩

theorem Ctx.same_wake (x : Ctx) (w : Watch) : x.Same (x.wake w) := by
  unfold Ctx.wake
  split
  · split
    · exact { Ctx.Same.refl x with }
    · exact .refl x
  · exact .refl x

/-- A logical core with the place, the registers and the local memory of another: what `Ctx.Same` leaves out of a context, the image
area and dirty bits are left out. -/
structure LCore.Same (c d : LCore) : Prop where
  id : d.id = c.id
  slot : d.slot = c.slot
  resident : d.resident = c.resident
  regs : d.regs = c.regs
  ctx : c.ctx.Same d.ctx
  live : d.others.map Ctx.live = c.others.map Ctx.live
  lm : d.lm = c.lm
  xbound : d.xbound = c.xbound
  rings : d.rings = c.rings
  slots : d.slots = c.slots
  lmAt : d.lmAt = c.lmAt
  since : d.since = c.since
  switchDue : d.switchDue = c.switchDue

theorem LCore.Same.refl (c : LCore) : c.Same c where
  id := rfl
  slot := rfl
  resident := rfl
  regs := rfl
  ctx := .refl _
  live := rfl
  lm := rfl
  xbound := rfl
  rings := rfl
  slots := rfl
  lmAt := rfl
  since := rfl
  switchDue := rfl

theorem LCore.Same.trans {c d e : LCore} (h : c.Same d) (g : d.Same e) : c.Same e where
  id := g.id.trans h.id
  slot := g.slot.trans h.slot
  resident := g.resident.trans h.resident
  regs := g.regs.trans h.regs
  ctx := h.ctx.trans g.ctx
  live := g.live.trans h.live
  lm := g.lm.trans h.lm
  xbound := g.xbound.trans h.xbound
  rings := g.rings.trans h.rings
  slots := g.slots.trans h.slots
  lmAt := g.lmAt.trans h.lmAt
  since := g.since.trans h.since
  switchDue := g.switchDue.trans h.switchDue

theorem LCore.same_mapCtxs (c : LCore) {f : Ctx → Ctx} (hf : ∀ x : Ctx, x.Same (f x)) : c.Same (c.mapCtxs f) :=
  { LCore.Same.refl c with
    ctx := hf c.ctx
    live := by simp [LCore.mapCtxs, Function.comp_def, fun x => (hf x).live] }

theorem LCore.same_clean (c : LCore) : c.Same c.clean :=
  { c.same_mapCtxs (fun x : Ctx => { Ctx.Same.refl x with } : ∀ x : Ctx, x.Same { x with dirty := ⟨0, 0, 0, some x.sys⟩ }) with }

/-- An acquire ends SPINs, drops lines of its cluster, and does nothing else. -/
theorem State.acquireCluster_eq (s : State) (cl : Nat) : ∃ f, (∀ c : LCore, c.Same (f c)) ∧
    s.acquireCluster cl = { s.mapCores f with
      unc := { s.unc with lines := s.unc.lines.filterMap (CacheLine.acquired cl) } } := by
  suffices hw : ∀ (gone : List Nat) (u : State), ∃ f, (∀ c : LCore, c.Same (f c)) ∧
      gone.foldl (fun u tag => u.wakeLine cl tag) u = u.mapCores f by
    obtain ⟨f, hf, he⟩ := hw ((s.unc.lines.filter fun l => l.cluster = cl && l.state = .scoped && l.dirty = 0).map (·.tag)) s
    exact ⟨f, hf, by rw [State.acquireCluster, he]; rfl⟩
  intro gone
  induction gone with
  | nil => exact fun u => ⟨id, fun c => .refl c, by simp [State.mapCores]⟩
  | cons tag gone ih =>
    intro u
    obtain ⟨f, hf, he⟩ := ih (u.wakeLine cl tag)
    refine ⟨fun c => f (if clusterOf c.slot = cl then c.mapCtxs fun x => x.wake (.line tag) else c), fun c => .trans ?_ (hf _), ?_⟩
    · split
      · exact c.same_mapCtxs fun x => x.same_wake _
      · exact .refl c
    · rw [List.foldl_cons, he]
      simp [State.wakeLine, State.mapCores]

theorem State.findCore_acquireCluster {s : State} {id : CoreId} {c : LCore} (h : s.findCore id = some c) (cl : Nat) :
    ∃ d, (s.acquireCluster cl).findCore id = some d ∧ c.Same d := by
  obtain ⟨f, hf, he⟩ := s.acquireCluster_eq cl
  refine ⟨f c, ?_, hf c⟩
  rw [he]
  exact (s.findCore_mapCores (fun d => (hf d).id) id).trans (by rw [h]; rfl)

theorem State.acquireCluster_disp (s : State) (cl : Nat) : (s.acquireCluster cl).disp = s.disp := by
  obtain ⟨f, -, he⟩ := s.acquireCluster_eq cl
  rw [he]
  rfl

theorem State.acquireCluster_hbm (s : State) (cl : Nat) : (s.acquireCluster cl).unc.hbm = s.unc.hbm := by
  obtain ⟨f, -, he⟩ := s.acquireCluster_eq cl
  rw [he]

/-! ### A core taken, and its image (R105, R109) -/

/-- No other's bytes are left in the local memory: the core itself stays as it is. -/
theorem State.findCore_takeCore {s : State} {c d : LCore} (h : s.findCore c.id = some d) : (s.takeCore c).findCore c.id = some d := by
  have hf : ∀ e : LCore, (if e.id ≠ c.id && e.lmAt = some c.slot then { e with lmAt := none } else e).id = e.id := fun e => by
    split <;> rfl
  refine (s.findCore_mapCores hf c.id).trans ?_
  simp [h, State.id_of_findCore h]

theorem State.findCore_allocImage {s : State} {id : CoreId} {c : LCore} (h : s.findCore id = some c) :
    ∃ d, (s.allocImage id).findCore id = some d ∧ c.Same d := by
  simp only [State.allocImage, h]
  split
  · exact ⟨c, h, .refl c⟩
  · have hid : c.id = id := State.id_of_findCore h
    exact ⟨_, State.findCore_mapCore (f := fun c => { c with imageArea := some _ }) h hid, { LCore.Same.refl c with }⟩

theorem State.findCore_writeImage {s : State} {id : CoreId} {c : LCore} (h : s.findCore id = some c) :
    ∃ d, (s.writeImage id).findCore id = some d ∧ c.Same d := by
  obtain ⟨d, hd, hs⟩ := State.findCore_allocImage h
  refine ⟨d.clean, ?_, hs.trans d.same_clean⟩
  simp only [State.writeImage, hd]
  exact State.findCore_mapCore hd (d.same_clean.id.trans (State.id_of_findCore hd))

theorem State.allocImage_hbm (s : State) (id : CoreId) : (s.allocImage id).unc.hbm = s.unc.hbm := by
  unfold State.allocImage
  split
  · rfl
  · split
    · rfl
    · rw [State.mapCore_unc]

theorem State.writeImage_hbm (s : State) (id : CoreId) : (s.writeImage id).unc.hbm = s.unc.hbm := by
  refine Eq.trans ?_ (s.allocImage_hbm id)
  simp only [State.writeImage]
  split
  · rfl
  · rw [State.mapCore_unc]

/-! ### Operations on what is found -/

theorem Op.get!_bind {α β : Type} {o : Option α} {a : α} (h : o = some a) (rest : α → Op β) (s : State) :
    (Op.get! o >>= rest) s = rest a s := by
  rw [h]
  rfl

theorem Op.forEach_idle {α : Type} {f : α → Op Unit} {s : State} {l : List α} (h : ∀ a ∈ l, f a s = .ok ((), s)) :
    Op.forEach f l s = .ok ((), s) := by
  induction l with
  | nil => rfl
  | cons a l ih => exact (Op.bind_ok (h a (List.mem_cons_self ..))).trans (ih fun b hb => h b (List.mem_cons_of_mem _ hb))

end Sys2Proof.Machine
end

section
/-! O54. Placement, fencing of one core, re-placement, rotation, saving and restoring: each event is one operation on the logical cores
that it finds, and the cores are found again in what it leaves. -/

namespace Sys2Proof.Machine

/-! ### First placement (R99, R118) -/

/-- The logical core as placement loads it: its registers fresh, its local memory and XBOUND from the code object. -/
def State.loadedCore (s : State) (c : LCore) (t : Task) (lm : Memory) (l : Nat) : LCore :=
  { s.freshCore c t with
    lm := lm, xbound := BitVec.ofNat 21 l, xbTake := BitVec.ofNat 21 l, resident := s.takesCore (s.freshCore c t), since := s.cycle }

/-- The logical core put in its place: its remap entry is marked and the placement counted. -/
def State.loaded (s : State) (id : CoreId) (c d : LCore) : State :=
  (((s.mapCore id fun _ => d).mapBind id fun b => { b with placed := true }).countPlacement id.task).acquireCluster (clusterOf c.slot)

theorem State.findCore_loaded {s : State} {id : CoreId} {c d : LCore} (hc : s.findCore id = some c) (hd : d.id = id) :
    ∃ e, (s.loaded id c d).findCore id = some e ∧ d.Same e :=
  State.findCore_acquireCluster (s := ((s.mapCore id fun _ => d).mapBind id _).countPlacement id.task)
    (State.findCore_mapCore (f := fun _ => d) hc hd) _

theorem State.areaFree_loaded {s : State} (h : s.disp.imageAreas.length < s.disp.areaRoom) (id : CoreId) (c d : LCore) :
    (s.loaded id c d).areaFree id = true := by
  refine Bool.or_eq_true_iff.mpr (.inr (decide_eq_true ?_))
  simpa [State.loaded, State.acquireCluster_disp, State.countPlacement, State.mapBind, State.mapTask] using h

section
variable {s s₁ s₂ : State} {id : CoreId} {t : Task} {c : LCore} (ht : s.findTask id.task = some t) (hc : s.findCore id = some c)
include ht hc

theorem Op.placeFresh_unread {cause reason : Nat} (h : Op.codeBytes t s = .ok (.error (cause, reason), s₁)) :
    Op.placeFresh id s = Op.failFor id.task cause reason s₁ :=
  (Op.bind_ok (Op.get_run s)).trans ((Op.get!_bind hc _ s).trans ((Op.get!_bind ht _ s).trans (Op.bind_ok h)))

theorem Op.placeFresh_read {lm : Memory} {l : Nat} (h : Op.codeBytes t s = .ok (.ok (lm, l), s)) :
    Op.placeFresh id s = (if (s.loadedCore c t lm l).resident then modify fun u => u.takeCore (s.loadedCore c t lm l)
      else Op.keepImage id : Op Unit) (s.loaded id c (s.loadedCore c t lm l)) := by
  refine (Op.bind_ok (Op.get_run s)).trans ((Op.get!_bind hc _ s).trans ((Op.get!_bind ht _ s).trans ((Op.bind_ok h).trans ?_)))
  exact (Op.bind_ok (Op.get_run s)).trans ((Op.bind_ok (Op.set_run _ s)).trans (Op.bind_ok (Op.modify_run _ _)))

/-- Placement acts where the core can be taken, or an image area is left (R105). -/
theorem Op.placeFresh_runs {lm : Memory} {l : Nat} (h : Op.codeBytes t s = .ok (.ok (lm, l), s))
    (ha : s.takesCore (s.freshCore c t) = true ∨ s.disp.imageAreas.length < s.disp.areaRoom) :
    ∃ u d, Op.placeFresh id s = .ok ((), u) ∧ u.findCore id = some d ∧ (s.loadedCore c t lm l).Same d ∧ u.unc.hbm = s.unc.hbm := by
  have hid : c.id = id := State.id_of_findCore hc
  obtain ⟨d, hd, hs⟩ := State.findCore_loaded hc (d := s.loadedCore c t lm l) hid
  have hh : (s.loaded id c (s.loadedCore c t lm l)).unc.hbm = s.unc.hbm :=
    (State.acquireCluster_hbm ..).trans (congrArg Uncore.hbm (State.mapCore_unc ..))
  rw [Op.placeFresh_read ht hc h]
  by_cases hr : (s.loadedCore c t lm l).resident = true
  · rw [if_pos hr]
    exact ⟨_, d, rfl, hid ▸ State.findCore_takeCore (c := s.loadedCore c t lm l) (hid ▸ hd), hs, hh⟩
  · obtain ⟨e, he, hse⟩ := State.findCore_writeImage hd
    have hroom := State.areaFree_loaded (ha.resolve_left hr) id c (s.loadedCore c t lm l)
    rw [if_neg hr]
    exact ⟨_, e, (Op.bind_ok (Op.get_run _)).trans (Op.need_bind hroom _ _), he, hs.trans hse, (State.writeImage_hbm ..).trans hh⟩

variable (hp : t.phase = .running) (hi : c.imageArea = none) (hr : c.rollbackDue = none)
  (hb : ∃ b ∈ t.binds, b.lcore = id.lcore ∧ b.copy = id.copy ∧ b.valid = true ∧ b.placed = false ∧ b.package = s.pkg.address)
include hp hi hr hb

theorem exec_firstPlacement_acts {u : State} (h : Op.placeFresh id s = .ok ((), u)) :
    s.ActsTo (.firstPlacement id) { u with stalled := false } := by
  have hn : (t.phase = .running && c.imageArea.isNone && c.rollbackDue.isNone && t.binds.any fun b =>
      b.lcore = id.lcore && b.copy = id.copy && b.valid && !b.placed && b.package = s.pkg.address) = true := by
    simpa [hp, hi, hr, and_assoc] using hb
  exact ⟨runEvent_ok (Op.whole_ok ((Op.bind_ok (Op.get_run s)).trans ((Op.get!_bind ht _ s).trans ((Op.get!_bind hc _ s).trans
    ((Op.need_bind hn _ s).trans h))))), rfl⟩

theorem exec_firstPlacement_fails {cause reason : Nat} (h : Op.codeBytes t s = .ok (.error (cause, reason), s₁))
    (hf : Op.failFor id.task cause reason s₁ = .ok ((), s₂)) : s.ActsTo (.firstPlacement id) { s₂ with stalled := false } :=
  exec_firstPlacement_acts ht hc hp hi hr hb ((Op.placeFresh_unread ht hc h).trans hf)

/-- The registers, the local memory and the place that R99 and R118 give. -/
theorem exec_firstPlacement_loads {lm : Memory} {l : Nat} (h : Op.codeBytes t s = .ok (.ok (lm, l), s))
    (ha : s.takesCore (s.freshCore c t) = true ∨ s.disp.imageAreas.length < s.disp.areaRoom) :
    ∃ u d, s.ActsTo (.firstPlacement id) u ∧ u.findCore id = some d ∧ (s.loadedCore c t lm l).Same d ∧ u.unc.hbm = s.unc.hbm := by
  obtain ⟨u, d, hu, hd, hs, hh⟩ := Op.placeFresh_runs ht hc h ha
  exact ⟨_, d, exec_firstPlacement_acts ht hc hp hi hr hb hu, hd, hs, hh⟩

end

/-! ### The registers of R99 -/

theorem getD_replicate_self {α : Type} (n m : Nat) (a : α) : (List.replicate n a).getD m a = a := by
  rw [List.getD_eq_getElem?_getD, List.getElem?_replicate]
  split <;> rfl

theorem Ctx.gval_eq_zero {x : Ctx} (h : x.g = Vector.replicate 64 0) (m : Nat) : x.gval m = 0 := by
  rw [Ctx.gval, h, Vector.toList_replicate, getD_replicate_self, ite_self]

theorem Ctx.vval_eq_zero {x : Ctx} (h : x.v = Vector.replicate 32 0) (m : Nat) : x.vval m = 0 := by
  rw [Ctx.vval, h, Vector.toList_replicate, getD_replicate_self]

theorem Ctx.supervisor_of_svclvl {x : Ctx} {home : Bool} (h : x.sys.svclvl = svclvlOf false false home) : x.supervisor = home := by
  rw [Ctx.supervisor, h]
  cases home <;> rfl

theorem placeRegs_args (home : Bool) (q : BitVec 6) (words : List Word) (lcore : Nat) (k : Fin 16) :
    (placeRegs home q words lcore).args[k] = words.getD (16 + k.val) 0 := by
  simp [placeRegs]

/-! ### One core fenced (R113) -/

theorem exec_fenceCore_acts (s : State) (slot : Nat) (out : Bool) : ∃ u, s.ActsTo (.fenceCore slot out) u ∧
    (slot ∈ u.disp.unusable ↔ out = true) ∧ (∀ k, k ≠ slot → (k ∈ u.disp.unusable ↔ k ∈ s.disp.unusable)) ∧
    u.disp.harvested = s.disp.harvested ∧ u.core = s.core ∧ u.peers = s.peers ∧ u.unc = s.unc ∧ u.pkg = s.pkg ∧
    (out = false → u.disp.tasks = s.disp.tasks) ∧
    (out = true → ∀ t ∈ u.disp.tasks, ∀ b ∈ t.binds, b.slot = slot → b.package = s.pkg.address → b.valid = false) := by
  refine ⟨_, ⟨rfl, rfl⟩, ?_, fun k hk => ?_, rfl, rfl, rfl, rfl, rfl, ?_, ?_⟩
  · cases out with
    | false => simp
    | true =>
      by_cases h : slot ∈ s.disp.unusable <;> simp [h]
  · cases out with
    | false => simp [hk]
    | true =>
      by_cases h : slot ∈ s.disp.unusable <;> simp [h, hk]
  · rintro rfl
    simp
  · rintro rfl t ht b hb hslot hpkg
    obtain ⟨t, -, rfl⟩ := List.mem_map.mp ht
    obtain ⟨b, -, rfl⟩ := List.mem_map.mp hb
    by_cases h : b.slot = slot ∧ b.package = s.pkg.address
    · simp [h]
    · simp only [Bool.true_and, Bool.and_eq_true, decide_eq_true_eq, if_neg h] at hslot hpkg
      exact absurd ⟨hslot, hpkg⟩ h

/-! ### Another run for a gang (R114) -/

theorem exec_replaceLogicalCore_acts {s s₁ : State} {id : CoreId} {slot : Nat} (h : Op.replaceGang id slot s = .ok ((), s₁))
    (hr : s₁.canReplace id.task = true) : s.ActsTo (.replaceLogicalCore id slot) { s₁ with stalled := false } :=
  ⟨runEvent_ok (Op.whole_ok ((Op.bind_ok h).trans ((Op.bind_ok (Op.get_run s₁)).trans ((Op.need_run _ _).trans (if_pos hr))))), rfl⟩

theorem CoreId.eq_iff (i j : CoreId) : i = j ↔ i.task = j.task ∧ i.lcore = j.lcore ∧ i.copy = j.copy := by
  cases i
  cases j
  simp

theorem LCore.gangmate_alone {c : LCore} (h : c.regs.gangsz = 1) (d : LCore) : c.gangmate d = true ↔ d.id = c.id := by
  simp [LCore.gangmate, h, Nat.mod_one, CoreId.eq_iff, and_assoc, and_comm]

theorem runSlots_one (base : Nat) : runSlots base 1 = [base] := rfl

/-- A core alone in its gang that rolls back moves to a slot with room in its window group's cluster: no other gang leaves, and nothing
is saved. -/
theorem Op.replaceGang_alone {s : State} {id : CoreId} {slot : Nat} {t : Task} {c : LCore} {b : Bind}
    (ht : s.findTask id.task = some t) (hc : s.findCore id = some c)
    (hb : t.binds.find? (fun b => b.lcore = id.lcore && b.copy = id.copy) = some b)
    (hsz : c.regs.gangsz = 1) (hix : c.regs.gangix = 0) (hp : t.phase = .running) (hv : b.valid = false)
    (hdue : c.rollbackDue.isSome = true) (hu : s.usable slot = true) (hg : (gridOf t.words).gang = 1)
    (hhere : ∀ x ∈ t.binds, x.valid = true → x.copy = id.copy → x.slot / 16 = slot / 16)
    (htwin : ∀ x ∈ t.binds, x.valid = true → x.copy ≠ id.copy → nearClusters (x.slot / 16) (slot / 16) = false)
    (hout : ∀ x ∈ t.binds, x.valid = true → x.lcore ≠ id.lcore) (hd : runLoad s.boundSlots slot 1 < s.depth)
    (he : runLoad s.boundSlots slot 1 = 0 ∨ ∀ r ∈ s.runs (slot / 16) 1, runLoad s.boundSlots r 1 ≠ 0)
    (hfit : s.areasFit [] true [slot] = true) :
    Op.replaceGang id slot s = .ok ((), s.moveGang c slot (s.freePosition slot 1 [])) := by
  have hcid : c.id = id := State.id_of_findCore hc
  have hgone : (t.binds.filter (·.valid)).filter (fun x => c.gangmate { c with id := ⟨t.ref, x.lcore, x.copy⟩ } &&
      x.package = s.pkg.address) = [] := by
    refine List.filter_eq_nil_iff.mpr fun x hx h => ?_
    obtain ⟨hx, hxv⟩ := List.mem_filter.mp hx
    have hxid := (LCore.gangmate_alone hsz _).mp (Bool.and_eq_true_iff.mp h).1
    exact hout x hx hxv (congrArg CoreId.lcore (hxid.trans hcid))
  have haway (p : Bind → Bool) (h : ∀ x, p x = true → x.copy = id.copy) :
      ((t.binds.filter (·.valid)).filter p).filter (fun x => x.slot / 16 ≠ slot / 16) = [] := by
    refine List.filter_eq_nil_iff.mpr fun x hx => ?_
    obtain ⟨hx, hxp⟩ := List.mem_filter.mp hx
    obtain ⟨hx, hxv⟩ := List.mem_filter.mp hx
    simpa using hhere x hx hxv (h x hxp)
  refine (Op.bind_ok (Op.get_run s)).trans ((Op.get!_bind ht _ s).trans ((Op.get!_bind hc _ s).trans ((Op.get!_bind hb _ s).trans ?_)))
  simp only [hg, hix, Nat.sub_zero, Nat.mod_one, runSlots_one, hgone]
  rw [haway _ (by simp +contextual)]
  refine (Op.need_bind (by simp [hp, hv, hu]) _ s).trans ((Op.need_bind ?_ _ s).trans ((Op.need_bind rfl _ s).trans
    ((Op.need_bind (decide_eq_true hd) _ s).trans ((Op.need_bind ?_ _ s).trans ((Op.need_bind ?_ _ s).trans ?_)))))
  · simp only [List.all_eq_true, List.mem_filter, Bool.and_eq_true, decide_eq_true_eq]
    rintro x ⟨⟨hx, hxv⟩, ⟨hcopy, -⟩, -⟩
    rw [htwin x hx hxv hcopy]
    rfl
  · simpa using he
  · rwa [hdue]
  · rw [if_pos hdue]
    rfl

/-! ### The state in which a gang has moved -/

/-- A logical core of the gang of `c` at its place of the new run. -/
def LCore.moved (c : LCore) (base position : Nat) (d : LCore) : LCore :=
  if c.gangmate d then { d with slot := base + d.regs.gangix, position := position, resident := false } else d

/-- A remap entry of the gang of `c` that names the new run. -/
def LCore.rebound (c : LCore) (base position : Nat) (p : BitVec 13) (b : Bind) : Bind :=
  if c.gangmate { c with id := ⟨c.id.task, b.lcore, b.copy⟩ } then
    { b with slot := base + (b.lcore - (c.id.lcore - c.regs.gangix)), position := position, package := p, valid := true,
             placed := false, res := false }
  else b

theorem State.moveGang_eq (s : State) (c : LCore) (base position : Nat) : s.moveGang c base position =
    (s.mapTask c.id.task fun t => { t with binds := t.binds.map (c.rebound base position s.pkg.address) }).mapCores
      (c.moved base position) := rfl

theorem LCore.gangmate_self (c : LCore) : c.gangmate c = true := by
  simp [LCore.gangmate]

theorem LCore.moved_self (c : LCore) (base position : Nat) :
    c.moved base position c = { c with slot := base + c.regs.gangix, position := position, resident := false } :=
  if_pos c.gangmate_self

theorem LCore.moved_id (c : LCore) (base position : Nat) (d : LCore) : (c.moved base position d).id = d.id := by
  unfold LCore.moved
  split <;> rfl

theorem LCore.moved_rollbackDue (c : LCore) (base position : Nat) (d : LCore) :
    (c.moved base position d).rollbackDue = d.rollbackDue := by
  unfold LCore.moved
  split <;> rfl

theorem LCore.rebound_names (c : LCore) (base position : Nat) (p : BitVec 13) (b : Bind) :
    (c.rebound base position p b).lcore = b.lcore ∧ (c.rebound base position p b).copy = b.copy := by
  unfold LCore.rebound
  split <;> exact ⟨rfl, rfl⟩

theorem State.findCore_moveGang {s : State} {id : CoreId} {c : LCore} (hc : s.findCore id = some c) (base position : Nat) :
    (s.moveGang c base position).findCore id = some (c.moved base position c) :=
  (State.findCore_mapCores _ (c.moved_id base position) id).trans (congrArg _ hc)

theorem State.fencedCores_moveGang (s : State) (c : LCore) (base position : Nat) (ref : Word) :
    (s.moveGang c base position).fencedCores ref = s.fencedCores ref := by
  have hcores : (s.moveGang c base position).cores = s.cores.map (c.moved base position) := rfl
  simp only [State.fencedCores, hcores, List.filter_map, List.map_map, Function.comp_def, c.moved_id, c.moved_rollbackDue]

theorem State.canReplace_of_none {s : State} {ref : Word} (h : s.fencedCores ref = []) : s.canReplace ref = true := by
  rw [State.canReplace, h]
  rfl

theorem State.findTask_moveGang {s : State} {id : CoreId} {t : Task} {c : LCore} (ht : s.findTask id.task = some t)
    (hc : s.findCore id = some c) (base position : Nat) : (s.moveGang c base position).findTask id.task =
      some { t with binds := t.binds.map (c.rebound base position s.pkg.address) } := by
  have htask : c.id.task = id.task := congrArg CoreId.task (State.id_of_findCore hc)
  rw [State.moveGang_eq, htask]
  exact State.findTask_mapTask (f := fun t => { t with binds := t.binds.map (c.rebound base position s.pkg.address) }) ht
    (State.ref_of_findTask ht : t.ref = id.task)

/-- The entry of the first core of a gang, rebound, names the first core of the run. -/
theorem findBind_rebound {binds : List Bind} {c : LCore} {b : Bind} (hix : c.regs.gangix = 0)
    (hb : binds.find? (fun b => b.lcore = c.id.lcore && b.copy = c.id.copy) = some b) (base position : Nat) (p : BitVec 13) :
    (binds.map (c.rebound base position p)).find? (fun b => b.lcore = c.id.lcore && b.copy = c.id.copy) =
      some { b with slot := base, position := position, package := p, valid := true, placed := false, res := false } := by
  obtain ⟨hl, hk⟩ : b.lcore = c.id.lcore ∧ b.copy = c.id.copy := by simpa using List.find?_some hb
  have hmine : c.gangmate { c with id := ⟨c.id.task, b.lcore, b.copy⟩ } = true := by
    rw [hl, hk]
    exact c.gangmate_self
  rw [List.find?_map]
  simp only [Function.comp_def, c.rebound_names, hb, Option.map_some]
  rw [LCore.rebound, if_pos hmine, hl, hix, Nat.sub_zero, Nat.sub_self]
  rfl

/-! ### The rotation of a run's gangs (R109, R110) -/

section
variable {s s₁ s₂ : State} {slot : Nat} {c : LCore} (hc : s.cores.find? (fun c => c.slot = slot && c.resident) = some c)
include hc

theorem exec_quantumExpiry_acts (hd : c.switchDue = false) (hq : s.quantum ≤ (s.cycle - c.since).toNat)
    (hn : (s.nextGangs c).any s.gangReady = true) : ∃ u, s.ActsTo (.quantumExpiry slot) u ∧
      (∀ d ∈ u.cores, d.id ∈ s.gangIds c → d.switchDue = true) ∧ u.unc = s.unc ∧ u.disp = s.disp := by
  have hb : (!c.switchDue && s.quantum ≤ (s.cycle - c.since).toNat && (s.nextGangs c).any s.gangReady) = true := by
    rw [hd, decide_eq_true hq, hn]
    rfl
  refine ⟨_, ⟨runEvent_ok ((Op.bind_ok (Op.get_run s)).trans ((Op.get!_bind hc _ s).trans ((Op.need_bind hb _ s).trans
    (Op.set_run _ s)))), rfl⟩, fun d hd hid => ?_, rfl, rfl⟩
  have hm : d ∈ s.cores.map fun d => if (s.gangIds c).contains d.id then { d with switchDue := true } else d := hd
  obtain ⟨e, -, rfl⟩ := List.mem_map.mp hm
  by_cases he : e.id ∈ s.gangIds c
  · rw [if_pos (List.contains_iff_mem.mpr he)]
  · rw [if_neg (mt List.contains_iff_mem.mp he)] at hid
    exact absurd hid he

theorem exec_quantumExpiry_stalls (h : c.switchDue = true ∨ (s.cycle - c.since).toNat < s.quantum) :
    exec (.quantumExpiry slot) s = .next { s with stalled := true } := by
  have hb : (!c.switchDue && s.quantum ≤ (s.cycle - c.since).toNat && (s.nextGangs c).any s.gangReady) = false := by
    rcases h with h | h
    · rw [h]
      rfl
    · rw [decide_eq_false h.not_ge, Bool.and_false, Bool.false_and]
  exact runEvent_stall ((Op.bind_ok (Op.get_run s)).trans ((Op.get!_bind hc _ s).trans (Op.need_bind_stall hb _ s)))

theorem exec_timeSliceSwitch_none (h : (s.nextGangs c).find? s.gangReady = none) :
    exec (.timeSliceSwitch slot) s = .next { s with stalled := true } := by
  refine runEvent_stall (Op.whole_stall ((Op.bind_ok (Op.get_run s)).trans ((Op.get!_bind hc _ s).trans ?_)))
  rw [h]
  rfl

/-- The resident gangs that the run of `lead`'s gang takes in. -/
def State.leaving (s : State) (lead : LCore) : List LCore := s.cores.filter fun d => d.resident && !lead.gangmate d && lead.runMeets d

variable {next : List CoreId} {lead : LCore} (hn : (s.nextGangs c).find? s.gangReady = some next)
  (hl : (next.head?).bind s.findCore = some lead)
include hn hl

theorem exec_timeSliceSwitch_acts (hw : ∀ d ∈ s.leaving lead, d.switchDue = true ∨ ∀ i ∈ s.gangIds d, s.coreWaits i = true)
    (hs : Op.forEach Op.saveCore (((s.leaving lead).flatMap s.gangIds).dedup.filter fun i => (s.findCore i).any fun d => d.resident) s =
      .ok ((), s₁))
    (hr : Op.forEach Op.restoreCore (next.filter fun i => !(s.findCore i).any fun d => d.resident) s₁ = .ok ((), s₂)) :
    s.ActsTo (.timeSliceSwitch slot) { s₂ with stalled := false } := by
  have hb : ((s.leaving lead).all fun d => d.switchDue || (s.gangIds d).all s.coreWaits) = true := by simpa using hw
  exact ⟨runEvent_ok (Op.whole_ok ((Op.bind_ok (Op.get_run s)).trans ((Op.get!_bind hc _ s).trans ((Op.get!_bind hn _ s).trans
    ((Op.get!_bind hl _ s).trans ((Op.need_bind hb _ s).trans ((Op.bind_ok hs).trans hr))))))), rfl⟩

theorem exec_timeSliceSwitch_waits (hw : ∃ d ∈ s.leaving lead, d.switchDue = false ∧ ∃ i ∈ s.gangIds d, s.coreWaits i = false) :
    exec (.timeSliceSwitch slot) s = .next { s with stalled := true } := by
  have hb : ((s.leaving lead).all fun d => d.switchDue || (s.gangIds d).all s.coreWaits) = false := by simpa using hw
  exact runEvent_stall (Op.whole_stall ((Op.bind_ok (Op.get_run s)).trans ((Op.get!_bind hc _ s).trans ((Op.get!_bind hn _ s).trans
    ((Op.get!_bind hl _ s).trans (Op.need_bind_stall hb _ s))))))

end

/-! ### The save of a pre-empted task's core (R89, R404) -/

theorem State.findTask_chargeTask {s : State} {ref : Word} {t : Task} (h : s.findTask ref = some t) :
    (s.chargeTask ref).findTask ref = some { t with charged := s.cycle } := by
  simp only [State.chargeTask, h]
  rw [State.findTask, State.mapQueue_tasks]
  exact State.findTask_mapTask h (State.ref_of_findTask h : t.ref = ref)

theorem State.chargeTask_pkg (s : State) (ref : Word) : (s.chargeTask ref).pkg = s.pkg := by
  unfold State.chargeTask
  split
  · rfl
  · rw [State.mapQueue_pkg, State.mapTask_pkg]

/-- Whether a remap entry names another core than `id` on this package, and holds. -/
theorem any_released {binds : List Bind} {id : CoreId} {p : BitVec 13} :
    ((binds.map fun b => if b.lcore = id.lcore && b.copy = id.copy then { b with valid := false } else b).any fun b =>
      b.valid && b.package = p) = true ↔
    ∃ b ∈ binds, ¬(b.lcore = id.lcore ∧ b.copy = id.copy) ∧ b.valid = true ∧ b.package = p := by
  simp only [List.any_map, List.any_eq_true, Function.comp_def, Bool.and_eq_true, decide_eq_true_eq]
  refine exists_congr fun b => and_congr_right fun _ => ?_
  by_cases h : b.lcore = id.lcore ∧ b.copy = id.copy <;> simp [h]

/-- The core given up: its task is charged up to now, and its remap entry is invalid. -/
def State.released (s : State) (id : CoreId) : State := (s.chargeTask id.task).mapBind id fun b => { b with valid := false }

theorem State.released_pkg (s : State) (id : CoreId) : (s.released id).pkg = s.pkg := s.chargeTask_pkg id.task

/-- A released core's task: what the end of its pre-emption finds. -/
theorem State.findTask_released {s₁ : State} {id : CoreId} {t₁ : Task} (h : s₁.findTask id.task = some t₁) :
    (s₁.released id).findTask id.task =
      some { t₁ with
        charged := s₁.cycle
        binds := t₁.binds.map fun b => if b.lcore = id.lcore && b.copy = id.copy then { b with valid := false } else b } :=
  State.findTask_mapTask (State.findTask_chargeTask h) (State.ref_of_findTask h : t₁.ref = id.task)

theorem exec_contextSave_acts {s s₁ u : State} {id : CoreId} {t : Task} {c : LCore} (ht : s.findTask id.task = some t)
    (hc : s.findCore id = some c) (hp : t.phase = .preempted)
    (hb : ∃ b ∈ t.binds, b.lcore = id.lcore ∧ b.copy = id.copy ∧ b.valid = true) (hn : c.resident = false → s₁ = s)
    (hs : c.resident = true → Op.saveCore id s = .ok ((), s₁)) (h : Op.endPreemption id.task (s₁.released id) = .ok ((), u)) :
    s.ActsTo (.contextSave id) { u with stalled := false } := by
  have hnd : (t.phase = .preempted && t.binds.any fun b => b.lcore = id.lcore && b.copy = id.copy && b.valid) = true := by
    simpa [hp, and_assoc] using hb
  have href : t.ref = id.task := State.ref_of_findTask ht
  refine ⟨runEvent_ok (Op.whole_ok ((Op.bind_ok (Op.get_run s)).trans ((Op.get!_bind ht _ s).trans ((Op.get!_bind hc _ s).trans
    ((Op.need_bind hnd _ s).trans ?_))))), rfl⟩
  rw [href]
  dsimp only
  by_cases hr : c.resident = true
  · rw [if_pos hr]
    exact (Op.bind_ok (hs hr)).trans ((Op.bind_ok (Op.modify_run _ s₁)).trans h)
  · rw [if_neg hr]
    rw [hn (Bool.eq_false_iff.mpr hr)] at h
    exact (Op.bind_ok (Op.modify_run _ s)).trans h

section
variable {s₁ s₂ s₃ : State} {id : CoreId} {t₁ : Task} {st n : Nat} (h : s₁.findTask id.task = some t₁)
include h

theorem Op.endPreemption_more (hm : ∃ b ∈ t₁.binds, ¬(b.lcore = id.lcore ∧ b.copy = id.copy) ∧ b.valid = true ∧
    b.package = s₁.pkg.address) :
    Op.endPreemption id.task (s₁.released id) = .ok ((), s₁.released id) := by
  refine (Op.bind_ok (Op.get_run _)).trans ((Op.get!_bind (State.findTask_released h) _ _).trans ?_)
  rw [State.released_pkg, if_pos (any_released.mpr hm)]
  rfl

/-- The task's last core on this package: its TCB stands READY, and the held heads behind it are held no more (R89). -/
theorem Op.endPreemption_last
    (hm : ¬∃ b ∈ t₁.binds, ¬(b.lcore = id.lcore ∧ b.copy = id.copy) ∧ b.valid = true ∧ b.package = s₁.pkg.address)
    (h2 : s₂ = ((s₁.released id).suspendCalls id.task).mapTask id.task fun t => { t with
      binds := t.binds.map fun b => { b with valid := false } })
    (hst : Op.tcbState t₁.queue.toNat t₁.tcb s₂ = .ok ((st, n), s₂))
    (hput : Op.putState t₁.queue.toNat t₁.tcb tREADY n s₂ = .ok ((), s₃)) :
    Op.endPreemption id.task (s₁.released id) = .ok ((), { s₃ with disp := { s₃.disp with tasks := s₃.disp.tasks.filter fun x =>
      !(x.queue = t₁.queue && x.phase = .held && x.binds = [] && t₁.prio ≤ x.prio) } }) := by
  refine (Op.bind_ok (Op.get_run _)).trans ((Op.get!_bind (State.findTask_released h) _ _).trans ?_)
  rw [State.released_pkg, if_neg (mt any_released.mp hm)]
  refine (Op.bind_ok (Op.set_run _ _)).trans ?_
  rw [← h2]
  exact (Op.bind_ok hst).trans (Op.bind_ok hput)

end

/-! ### The restore of a core (R408) -/

/-- Without an open call nothing fires. -/
theorem Op.fireReady_closed {s : State} {id : CoreId} {c : LCore} {i : Nat} (hc : s.findCore id = some c)
    (h : (c.collSlot i).isOpen = false) : Op.fireReady id i s = .ok ((), s) := by
  refine Op.forEach_idle fun k _ => (Op.bind_ok (Op.get_run s)).trans ?_
  simp only [hc, h, Bool.not_false, Bool.true_or, if_true]
  rfl

/-- What a restore of `c` makes of its logical core. -/
def State.restoredCore (s : State) (c : LCore) (lm : Memory) (flips : NatMap Word) (d : LCore) : LCore :=
  let own := (NatMap.get s.unc.coreRegs c.slot).getD (0, 0)
  { d.clean.mapCtxs Ctx.restored with
    lm := lm
    lmFlips := flips
    resident := true
    lmAt := some d.slot
    shadown := own.1
    mx := { d.clean.mx with startCount := own.2 }
    since := s.cycle
    switchDue := false }

/-- The core loaded with its local memory, and resident. -/
def State.reloaded (s : State) (id : CoreId) (c : LCore) (lm : Memory) (flips : NatMap Word) : State :=
  ((s.takeCore c).mapCore id (s.restoredCore c lm flips)).acquireCluster (clusterOf c.slot)

/-- What of an image goes to its core, whose place the image's header names then (R405, R408). -/
def State.imageLoaded (s : State) (c : LCore) (k : Nat) : State :=
  let t := s.loadSpills c s.unc.priv (imageBase k)
  { t with unc := { t.unc with priv := t.unc.priv.setWord (imageBase k + 0x20) (Word.ofN (c.slot * 2 ^ 48)) } }

theorem State.findCore_imageLoaded (s : State) (c : LCore) (k : Nat) (id : CoreId) :
    (s.imageLoaded c k).findCore id = s.findCore id := rfl

/-- What a restore does once the core stands with its local memory: its image is loaded, and its calls fire again (R389). -/
def Op.resumeCore (id : CoreId) (c : LCore) : Op Unit := do
  match c.imageArea with
  | some k => modify fun s => s.imageLoaded c k
  | none => pure ()
  Op.forEach (Op.fireReady id) (List.range 4)

theorem Op.resumeCore_closed {s : State} {id : CoreId} {c d : LCore} (hi : c.imageArea.isSome = true) (hd : s.findCore id = some d)
    (hclosed : ∀ n < 4, (d.collSlot n).isOpen = false) : ∃ u, Op.resumeCore id c s = .ok ((), u) ∧ u.findCore id = some d := by
  obtain ⟨k, hk⟩ := Option.isSome_iff_exists.mp hi
  have hd' : (s.imageLoaded c k).findCore id = some d := (s.findCore_imageLoaded c k id).trans hd
  refine ⟨s.imageLoaded c k, ?_, hd'⟩
  rw [Op.resumeCore, hk]
  exact (Op.bind_ok (Op.modify_run _ s)).trans
    (Op.forEach_idle fun i hi => Op.fireReady_closed hd' (hclosed i (List.mem_range.mp hi)))

/-- What a restore puts in local memory: what stands there, or the image over the code object (R408 step 2). -/
def Op.refill (s : State) (c : LCore) (t : Task) : Op (Except (Nat × Nat) (Memory × NatMap Word)) :=
  if s.lmStands c then pure (.ok (c.lm, c.lmFlips)) else do
    match (← Op.codeBytes t) with
    | .error e => pure (.error e)
    | .ok (code, _) => return .ok ((← get).blocksOver c code, [])

theorem Op.refill_stands {s : State} {c : LCore} {t : Task} (h : s.lmStands c = true) :
    Op.refill s c t s = .ok (.ok (c.lm, c.lmFlips), s) := by
  rw [Op.refill, if_pos h, Op.pure_run]

theorem Op.refill_read {s : State} {c : LCore} {t : Task} {code : Memory} {l : Nat} (h : s.lmStands c = false)
    (hr : Op.codeBytes t s = .ok (.ok (code, l), s)) : Op.refill s c t s = .ok (.ok (s.blocksOver c code, []), s) := by
  rw [Op.refill, if_neg (Bool.eq_false_iff.mp h)]
  exact Op.bind_ok hr

theorem State.findCore_reloaded {s : State} {id : CoreId} {c : LCore} (hc : s.findCore id = some c) (lm : Memory)
    (flips : NatMap Word) : ∃ d, (s.reloaded id c lm flips).findCore id = some d ∧ (s.restoredCore c lm flips c).Same d := by
  have hid : c.id = id := State.id_of_findCore hc
  have htake : (s.takeCore c).findCore id = some c := hid ▸ State.findCore_takeCore (hid ▸ hc)
  exact State.findCore_acquireCluster (State.findCore_mapCore htake hid) _

theorem Op.restoreCore_eq {s : State} {id : CoreId} {t : Task} {c : LCore} {lm : Memory} {flips : NatMap Word}
    (ht : s.findTask id.task = some t) (hc : s.findCore id = some c)
    (hn : (!c.resident && !s.cores.any fun d => d.id ≠ id && d.resident && d.slot = c.slot) = true)
    (hlm : Op.refill s c t s = .ok (.ok (lm, flips), s)) : Op.restoreCore id s = Op.resumeCore id c (s.reloaded id c lm flips) :=
  (Op.bind_ok (Op.get_run s)).trans ((Op.get!_bind hc _ s).trans ((Op.get!_bind ht _ s).trans ((Op.need_bind hn _ s).trans
    ((Op.bind_ok hlm).trans ((Op.bind_ok (Op.modify_run _ s)).trans ((Op.bind_ok (Op.modify_run _ _)).trans
      (Op.bind_ok (Op.modify_run _ _))))))))

theorem Op.restoreCore_runs {s : State} {id : CoreId} {t : Task} {c : LCore} {lm : Memory} {flips : NatMap Word}
    (ht : s.findTask id.task = some t) (hc : s.findCore id = some c) (hi : c.imageArea.isSome = true) (hr : c.resident = false)
    (hfree : ∀ d ∈ s.cores, d.resident = true → d.id = id ∨ d.slot ≠ c.slot) (hcoll : ∀ n < 4, (c.collSlot n).isOpen = false)
    (hlm : Op.refill s c t s = .ok (.ok (lm, flips), s)) : ∃ u d, Op.restoreCore id s = .ok ((), u) ∧
      u.findCore id = some d ∧ (s.restoredCore c lm flips c).Same d := by
  have hn : (!c.resident && !s.cores.any fun d => d.id ≠ id && d.resident && d.slot = c.slot) = true := by
    rw [hr, Bool.not_false, Bool.true_and, Bool.not_eq_true', List.any_eq_false]
    intro d hd h
    simp only [Bool.and_eq_true, decide_eq_true_eq] at h
    obtain ⟨⟨hid, hres⟩, hslot⟩ := h
    exact (hfree d hd hres).elim hid fun hne => hne hslot
  obtain ⟨d, hd, hs⟩ := State.findCore_reloaded hc lm flips
  have hclosed : ∀ n < 4, (d.collSlot n).isOpen = false := fun n h => by
    rw [LCore.collSlot, hs.slots]
    exact hcoll n h
  obtain ⟨u, hu, hud⟩ := Op.resumeCore_closed hi hd hclosed
  exact ⟨u, d, (Op.restoreCore_eq ht hc hn hlm).trans hu, hud, hs⟩

/-- A core that is placed once more is counted (R108). -/
def State.placedAgain (s : State) (id : CoreId) (b : Bind) : State :=
  if b.placed then s else (s.mapBind id fun b => { b with placed := true }).countPlacement id.task

theorem State.placedAgain_keeps {γ : Type} (g : State → γ) (hg : ∀ (s : State) r f, g (s.mapTask r f) = g s) (s : State) (id : CoreId)
    (b : Bind) : g (s.placedAgain id b) = g s := by
  unfold State.placedAgain
  split
  · rfl
  · exact (hg ..).trans (hg ..)

theorem State.findTask_placedAgain {s : State} {id : CoreId} {t : Task} (ht : s.findTask id.task = some t) (b : Bind) :
    ∃ t', (s.placedAgain id b).findTask id.task = some t' := by
  have href : t.ref = id.task := State.ref_of_findTask ht
  unfold State.placedAgain
  split
  · exact ⟨t, ht⟩
  · exact ⟨_, State.findTask_mapTask (State.findTask_mapTask ht href) href⟩

section
variable {s u : State} {id : CoreId} {t : Task} {c : LCore} {b : Bind} (ht : s.findTask id.task = some t)
  (hc : s.findCore id = some c) (hp : t.phase = .running)
  (hb : t.binds.find? (fun b => b.lcore = id.lcore && b.copy = id.copy) = some b) (hv : b.valid = true)
  (hpkg : b.package = s.pkg.address) (hi : c.imageArea.isSome = true) (hdue : c.rollbackDue = none)
  (hrun : ∀ d ∈ s.cores, d.resident = true → (c.gangmate d = true ∨ c.runMeets d = false) ∧ (d.id = id ∨ d.slot ≠ c.slot))
  (hnext : s.isNext c = true ∨ ∃ d ∈ s.gang c, d.resident = true)
include ht hc hp hb hv hpkg hi hdue hrun hnext

theorem exec_contextRestore_acts (h : Op.restoreCore id (s.placedAgain id b) = .ok ((), u)) :
    s.ActsTo (.contextRestore id) { u with stalled := false } := by
  have href : t.ref = id.task := State.ref_of_findTask ht
  have hn : (t.phase = .running && b.valid && b.package = s.pkg.address && c.imageArea.isSome && c.rollbackDue.isNone) = true := by
    simp [hp, hv, hpkg, hi, hdue]
  have hleft : (!s.cores.any fun d => d.resident && !c.gangmate d && c.runMeets d) = true := by
    rw [Bool.not_eq_true', List.any_eq_false]
    intro d hd h
    simp only [Bool.and_eq_true, Bool.not_eq_true'] at h
    obtain ⟨⟨hres, hmate⟩, hmeet⟩ := h
    obtain ⟨hor, -⟩ := hrun d hd hres
    exact Bool.false_ne_true (hor.elim hmate.symm.trans fun hf => hf.symm.trans hmeet)
  have hturn : (s.isNext c || (s.gang c).any fun d => d.resident) = true := by simpa using hnext
  refine ⟨runEvent_ok (Op.whole_ok ((Op.bind_ok (Op.get_run s)).trans ((Op.get!_bind ht _ s).trans ((Op.get!_bind hc _ s).trans
    ((Op.get!_bind hb _ s).trans ((Op.need_bind hn _ s).trans ((Op.need_bind hleft _ s).trans
      ((Op.need_bind hturn _ s).trans ?_)))))))), rfl⟩
  rw [State.placedAgain] at h
  rw [href]
  dsimp only
  cases hpl : b.placed with
  | true =>
    rw [hpl, if_pos rfl] at h
    exact h
  | false =>
    rw [hpl, if_neg Bool.false_ne_true] at h
    exact (Op.bind_ok (Op.modify_run _ s)).trans h

theorem exec_contextRestore_restores {t' : Task} {lm : Memory} {flips : NatMap Word} (hr : c.resident = false)
    (hcoll : ∀ n < 4, (c.collSlot n).isOpen = false) (ht' : (s.placedAgain id b).findTask id.task = some t')
    (hlm : Op.refill (s.placedAgain id b) c t' (s.placedAgain id b) = .ok (.ok (lm, flips), s.placedAgain id b)) :
    ∃ u d, s.ActsTo (.contextRestore id) u ∧ u.findCore id = some d ∧
      ((s.placedAgain id b).restoredCore c lm flips c).Same d := by
  have hcores : (s.placedAgain id b).cores = s.cores := State.placedAgain_keeps State.cores (fun _ _ _ => rfl) ..
  have hc' : (s.placedAgain id b).findCore id = some c := by rwa [State.findCore, hcores]
  have hfree : ∀ d ∈ (s.placedAgain id b).cores, d.resident = true → d.id = id ∨ d.slot ≠ c.slot := fun d hd hres =>
    (hrun d (hcores ▸ hd) hres).2
  obtain ⟨u, d, hu, hd, hs⟩ := Op.restoreCore_runs ht' hc' hi hr hfree hcoll hlm
  exact ⟨_, d, exec_contextRestore_acts ht hc hp hb hv hpkg hi hdue hrun hnext hu, hd, hs⟩

end

end Sys2Proof.Machine

open Sys2Proof.Machine in
/-- Settles O54: each event runs its operation; a core that is placed, moved or restored is found again with what the operation
gave it. -/
theorem placementAndSaving : Obligations.PlacementAndSaving := by
  unfold Obligations.PlacementAndSaving
  refine ⟨fun s id t c ht hp hc hi hdue hb ha => ⟨fun lm l h => ?_, fun cause reason s₁ s₂ h hf =>
      exec_firstPlacement_fails ht hc hp hi hdue hb h hf⟩, exec_fenceCore_acts,
    fun s id slot t c b ht hc hp hb hv hdue hnone hu hg hsz hix hhere htwin hout hd he hfit => ?_,
    fun s s₁ id slot => exec_replaceLogicalCore_acts,
    fun s slot c hc => ⟨exec_quantumExpiry_acts hc, exec_quantumExpiry_stalls hc, fun next lead hn hl =>
      ⟨fun s₁ s₂ => exec_timeSliceSwitch_acts hc hn hl, exec_timeSliceSwitch_waits hc hn hl⟩, exec_timeSliceSwitch_none hc⟩,
    fun s s₁ id t t₁ c ht hc hp hb hn hs ht₁ => ⟨fun hm => ?_, fun s₂ s₃ st n hm h2 hst hput => ?_⟩,
    fun s id t c b ht hc hp hb hv hpkg hi hdue hr hrun hnext hcoll => ?_⟩
  · obtain ⟨u, d, hu, hd, hs, hh⟩ := exec_firstPlacement_loads ht hc hp hi hdue hb h ha
    have hregs : d.regs = placeRegs (s.homeMode t.queue.toNat) t.queue t.words id.lcore := by
      rw [← State.id_of_findCore hc]
      exact hs.regs
    have hdead : d.others.map Ctx.live = List.replicate 10 false := hs.live
    refine ⟨u, d, hu, hd, hs.lm, hs.xbound, hs.resident, hs.ctx.num, hs.ctx.live, hs.ctx.pc, Ctx.gval_eq_zero hs.ctx.g,
      Ctx.vval_eq_zero hs.ctx.v, hs.ctx.level, congrArg SysRegs.rkey hs.ctx.sys,
      Ctx.supervisor_of_svclvl (congrArg SysRegs.svclvl hs.ctx.sys), fun x hx => ?_, ?_, ?_⟩
    · exact List.eq_of_mem_replicate (hdead ▸ List.mem_map_of_mem hx)
    · simpa using congrArg List.length hdead
    · rw [hregs]
      exact ⟨rfl, rfl, rfl, rfl, rfl, rfl, rfl, fun k => placeRegs_args .., hs.rings, hh⟩
  · have hid : c.id = id := State.id_of_findCore hc
    have hrun := Op.replaceGang_alone ht hc hb hsz hix hp hv hdue hu hg hhere htwin hout hd he hfit
    have hcan : (s.moveGang c slot (s.freePosition slot 1 [])).canReplace id.task = true :=
      State.canReplace_of_none ((s.fencedCores_moveGang ..).trans hnone)
    have hmoved := (State.findCore_moveGang hc slot (s.freePosition slot 1 [])).trans (congrArg some (c.moved_self ..))
    rw [hix] at hmoved
    subst hid
    exact ⟨_, _, _, _, exec_replaceLogicalCore_acts hrun hcan, hmoved, rfl, rfl, rfl, rfl, rfl, rfl, State.findTask_moveGang ht hc _ _,
      findBind_rebound hix hb _ _ _, rfl, rfl, rfl, rfl, rfl⟩
  · exact exec_contextSave_acts ht hc hp hb hn hs (Op.endPreemption_more ht₁ hm)
  · exact exec_contextSave_acts ht hc hp hb hn hs (Op.endPreemption_last ht₁ hm h2 hst hput)
  · intro restored
    have hrestored : ∀ t' lm flips, (s.placedAgain id b).findTask id.task = some t' →
        Op.refill (s.placedAgain id b) c t' (s.placedAgain id b) = .ok (.ok (lm, flips), s.placedAgain id b) → restored lm := by
      intro t' lm flips ht' hlm
      obtain ⟨u, d, hu, hd, hs⟩ := exec_contextRestore_restores ht hc hp hb hv hpkg hi hdue hrun hnext hr hcoll ht' hlm
      exact ⟨u, d, hu, hd, hs.resident, hs.lmAt, hs.lm, hs.ctx.g, hs.ctx.v, hs.ctx.k, hs.ctx.pc, hs.ctx.sys, hs.xbound, hs.rings,
        hs.switchDue, hs.since.trans (State.placedAgain_keeps State.cycle (fun _ _ _ => rfl) ..)⟩
    refine ⟨fun h => ?_, fun code l h hpl hcode => ?_⟩
    · obtain ⟨t', ht'⟩ := State.findTask_placedAgain ht b
      refine hrestored t' c.lm c.lmFlips ht' (Op.refill_stands ?_)
      rwa [State.lmStands, State.placedAgain_keeps State.unc (fun _ _ _ => rfl)]
    · have hsame : s.placedAgain id b = s := if_pos hpl
      refine hrestored t _ [] ?_ ?_ <;> rw [hsame]
      · exact ht
      · exact Op.refill_read h hcode
end

section
/-! O15. A word alone in its context is held to the checks of its group before its body runs, whatever that body is. -/

namespace Sys2Proof.Machine

/-- Every word but IMMX, LIKELY and NOFOLD is performed behind the checks that all words share; an event has no word. -/
theorem exec_eq_perform {i : Instr} {w : Nat} (hw : encode i = some w) (hp : i.isPrefix = false) (s : State) :
    ∃ body, exec i s = perform i body s := by
  cases i <;> cases hw
  case immx | likely | nofold => cases hp
  all_goals exact ⟨_, rfl⟩

theorem perform_wordTrap {i : Instr} {s : State} {t : Trap} (body : Op Exit) (hl : s.ctx.live = true) (hw : s.ctx.wait = none)
    (hg : s.inGang = false) (ht : s.wordTrap i = some t) : perform i body s = .next (s.takeTrap t) := by
  simp [perform, performSolo, checked, hl, s.waits_alone hg, hw, hg, ht]

theorem State.wordTrap_of_groupIll {i : Instr} {w : Nat} {s : State} (he : encode i = some w) (hi : s.ctx.groupIll i = true) :
    s.wordTrap i = some (Trap.plain cILL (Word.ofN s.ctx.pc.toNat) (wordInfo s.ctx.revn w)) := by
  simp [State.wordTrap, State.illTrap, Trap.plain, hi, he]

theorem State.wordTrap_of_archListed {i : Instr} {w : Nat} {s : State} (he : encode i = some w) (hi : s.ctx.groupIll i = false)
    (hl : s.archListed i = true) :
    s.wordTrap i = some (Trap.plain cARCH (Word.ofN s.ctx.pc.toNat) (wordInfo s.ctx.revn w)) := by
  simp [State.wordTrap, Trap.plain, hi, hl, he]

/-- The fields of EINFO format 2 (R397). -/
theorem wordInfo_fields (rev : BitVec 8) {w : Nat} (hw : w < 2 ^ 32) : (wordInfo rev w).bits 63 62 = 2 ∧
    (wordInfo rev w).bits 61 40 = 0 ∧ (wordInfo rev w).bits 39 32 = rev.toNat ∧ (wordInfo rev w).bits 31 0 = w := by
  have hr := rev.isLt
  simp only [wordInfo, Word.bits, Word.ofN, BitVec.toNat_ofNat]
  omega

theorem exec_ill_alone {s : State} (w : BitVec 32) (hl : s.ctx.live = true) (hw : s.ctx.wait = none) (hg : s.inGang = false) :
    exec (.ill w) s = .next (s.takeTrap (Trap.plain cILL (Word.ofN s.ctx.pc.toNat) (wordInfo s.ctx.revn w.toNat))) := by
  change execIll w s = _
  simp [execIll, hl, s.waits_alone hg, hw, hg, State.illTrap, Trap.plain]

theorem exec_xfetch_alone {s : State} (off : BitVec 21) (hl : s.ctx.live = true) (hw : s.ctx.wait = none)
    (hg : s.inGang = false) :
    exec (.xfetch off) s =
      .next (s.takeTrapAt (Trap.plain cXFETCH (Word.ofN off.toNat) (Word.ofN s.core.xbound.toNat))) := by
  change execXfetch off s = _
  simp [execXfetch, hl, s.waits_alone hg, hw, hg, Trap.plain]

end Sys2Proof.Machine

open Sys2Proof Sys2Proof.Machine in
/-- Settles O15: a word that is ILL and a fetch at XBOUND trap at once; any other word is performed, and its group's checks come
first. -/
theorem fetchChecksTrap : Obligations.FetchChecksTrap := by
  unfold Obligations.FetchChecksTrap
  refine ⟨⟨fun s w hl hw hg => ⟨_, exec_ill_alone w hl hw hg, wordInfo_fields _ w.isLt⟩, fun s off => exec_xfetch_alone off⟩,
    fun s i w he hp hl hw hg => ?_⟩
  obtain ⟨body, hb⟩ := exec_eq_perform he hp s
  rw [hb]
  refine ⟨fun hi => ?_, fun hi har hbyp hm => ?_⟩
  · exact perform_wordTrap body hl hw hg (State.wordTrap_of_groupIll he hi)
  · have hlisted : s.archListed i = true := by simp [State.archListed, har, hbyp, hm]
    exact perform_wordTrap body hl hw hg (State.wordTrap_of_archListed he hi hlisted)
end

section
/-! O14. IMMX, LIKELY and NOFOLD in a context alone, each recorded in its group, and the hints that stand alone. -/

namespace Sys2Proof.Machine

/-! ### The group in progress -/

/-- The group in progress, or the empty one that begins here (R132). -/
def Ctx.group (c : Ctx) : Pfx := c.pfx.getD ⟨[], none, false, false, c.pc⟩

/-- The group is now `q`, and the PC stands at the next word. -/
def State.withGroup (s : State) (q : Pfx) : State :=
  { s with core := { s.core with ctx := { s.ctx with pfx := some q, pc := s.ctx.pc + 4 }, last := s.ctx.num }, stalled := false }

theorem Ctx.group_of_none {c : Ctx} (h : c.pfx = none) : c.group = ⟨[], none, false, false, c.pc⟩ := by simp [Ctx.group, h]

theorem Ctx.group_of_some {c : Ctx} {p : Pfx} (h : c.pfx = some p) : c.group = p := by simp [Ctx.group, h]

@[simp] theorem Ctx.group_start (c : Ctx) : c.group.start = c.groupStart := by
  cases h : c.pfx <;> simp [Ctx.group, Ctx.groupStart, h]

@[simp] theorem State.group_immx (s : State) : s.ctx.group.immx = s.payloads := by
  cases h : s.ctx.pfx <;> simp [Ctx.group, State.payloads, h]

theorem State.payloads_withGroup (s : State) (q : Pfx) : (s.withGroup q).payloads = q.immx := rfl

/-! ### What IMMX, LIKELY and NOFOLD add -/

theorem Pfx.addImmx_of_lt {x : Pfx} (p : BitVec 22) (h : x.immx.length < 2) :
    Pfx.addImmx p x = { x with immx := x.immx ++ [p] } := if_neg (by omega)

theorem Pfx.addImmx_of_le {x : Pfx} (p : BitVec 22) (h : 2 ≤ x.immx.length) : Pfx.addImmx p x = { x with excess := true } :=
  if_pos h

@[simp] theorem Pfx.addImmx_start (p : BitVec 22) (x : Pfx) : (Pfx.addImmx p x).start = x.start := by
  unfold Pfx.addImmx
  split <;> rfl

@[simp] theorem Pfx.addLikely_start (b : Bool) (x : Pfx) : (Pfx.addLikely b x).start = x.start := by
  unfold Pfx.addLikely
  split <;> rfl

@[simp] theorem Pfx.addLikely_immx (b : Bool) (x : Pfx) : (Pfx.addLikely b x).immx = x.immx := by
  unfold Pfx.addLikely
  split <;> rfl

@[simp] theorem Pfx.addNofold_start (x : Pfx) : x.addNofold.start = x.start := by
  unfold Pfx.addNofold
  split <;> rfl

@[simp] theorem Pfx.addNofold_immx (x : Pfx) : x.addNofold.immx = x.immx := by
  unfold Pfx.addNofold
  split <;> rfl

theorem Pfx.addNofold_nofold (x : Pfx) : x.addNofold.nofold = true := by
  unfold Pfx.addNofold
  split
  · assumption
  · rfl

theorem performPrefix_alone {s : State} (f : Pfx → Pfx) (hl : s.ctx.live = true) (hw : s.ctx.wait = none)
    (hg : s.inGang = false) : performPrefix f s = .next (s.withGroup (f s.ctx.group)) := by
  have hg' : ({ s with stalled := false } : State).inGang = false := hg
  simp only [performPrefix, hl, s.waits_alone hg, hw, Option.isSome_none, Bool.not_true, Bool.false_eq_true, if_false,
    State.addPrefix, hg']
  rfl

theorem exec_immx_alone {s : State} (p : BitVec 22) (hl : s.ctx.live = true) (hw : s.ctx.wait = none) (hg : s.inGang = false) :
    exec (.immx p) s = .next (s.withGroup (Pfx.addImmx p s.ctx.group)) := performPrefix_alone _ hl hw hg

theorem exec_likely_alone {s : State} (b : Bool) (hl : s.ctx.live = true) (hw : s.ctx.wait = none) (hg : s.inGang = false) :
    exec (.likely b) s = .next (s.withGroup (Pfx.addLikely b s.ctx.group)) := performPrefix_alone _ hl hw hg

theorem exec_nofold_alone {s : State} (hl : s.ctx.live = true) (hw : s.ctx.wait = none) (hg : s.inGang = false) :
    exec .nofold s = .next (s.withGroup s.ctx.group.addNofold) := performPrefix_alone _ hl hw hg

/-! ### The hints that stand alone -/

theorem exec_prio {s : State} {n : BitVec 3} (hi : s.Issues (.prio n)) :
    exec (.prio n) s = .next (s.setCtx { s.ctx with level := n }).done :=
  performNext_ok hi (Op.modCtx_run ..)

theorem exec_rev_one {s : State} (hi : s.Issues (.rev 1)) : exec (.rev 1) s = .next (s.setCtx { s.ctx with revn := 1 }).done :=
  performNext_ok hi rfl

theorem encode_rev_add (n : BitVec 8) : encode (.rev n) = some (0xFC800000 + n.toNat) :=
  congrArg some (by simp [wordOf]; omega)

theorem exec_rev_other {s : State} {n : BitVec 8} (hi : s.Issues (.rev n)) (hn : n ≠ 1) :
    exec (.rev n) s =
      .next (s.takeTrap (Trap.plain cARCH (Word.ofN s.ctx.pc.toNat) (wordInfo n (0xFC800000 + n.toNat)))) := by
  refine performNext_trap hi ?_
  rw [encode_rev_add, Option.getD_some, Op.bind_run, Op.ctx_run, Op.answered, if_neg hn, Op.trap_run, Trap.plain]

theorem exec_hnop {s : State} {k : BitVec 4} {p : BitVec 22} (hi : s.Issues (.hnop k p)) : exec (.hnop k p) s = .next s.done :=
  performNext_ok hi (Op.pure_run ..)

theorem State.focus_self (s : State) : s.focus s.core.id s.ctx.num = s := by
  simp [State.focus, State.focusCore, LCore.focusCtx, State.ctx]

theorem exec_spin_waits {s : State} {a : BitVec 6} {w : Watch} (hi : s.Issues (.spin a)) (ha : s.CanRead a)
    (hw : s.spinHeld a = some w) :
    exec (.spin a) s = .next (s.setCtx { s.ctx with wait := some (.spin (s.G a) w false s.cycle) }).done := by
  obtain ⟨-, -, hg, -⟩ := id hi
  refine performNext_ok hi ?_
  simp [Op.readG_run s a ha, hw, State.together, hg, s.focus_self]

theorem exec_spin_passes {s : State} {a : BitVec 6} (hi : s.Issues (.spin a)) (ha : s.CanRead a) (hw : s.spinHeld a = none) :
    exec (.spin a) s = .next s.done := by
  refine performNext_ok hi ?_
  simp [Op.readG_run s a ha, hw]

end Sys2Proof.Machine

open Sys2Proof Sys2Proof.Machine in
/-- Settles O14: the three words that stand before others by what each adds to its group, the hints by their bodies. -/
theorem prefixAndHintWords : Obligations.PrefixAndHintWords := by
  unfold Obligations.PrefixAndHintWords
  refine ⟨fun s hl hw hg => ⟨fun p => ?_, fun b => ?_, ?_⟩, fun s n => exec_prio, fun s => exec_rev_one,
    fun s n hi hn => ⟨_, exec_rev_other hi hn, ?_⟩, fun s k p => exec_hnop, fun c p i hp hx => ?_,
    fun s a w hi ha hw he => ?_, fun s a hi ha h => ?_⟩
  · refine ⟨_, exec_immx_alone p hl hw hg, by simp, fun h => ?_, fun h => ?_⟩
    · rw [Pfx.addImmx_of_lt p (by simpa using h), State.group_immx]
    · rw [Pfx.addImmx_of_le p (by simpa using h)]
  · refine ⟨_, exec_likely_alone b hl hw hg, by simp, by simp, fun h => ?_, fun p hp h => ?_⟩
    · simp [Ctx.group_of_none h, Pfx.addLikely]
    · simp [Ctx.group_of_some hp, Pfx.addLikely, h]
  · refine ⟨_, exec_nofold_alone hl hw hg, by simp, by simp, Pfx.addNofold_nofold _, fun h => ?_, fun p hp h => ?_⟩
    · simp [Ctx.group_of_none h, Pfx.addNofold]
    · simp [Ctx.group_of_some hp, Pfx.addNofold, h]
  · have hn := n.isLt
    obtain ⟨hform, -, hrev, hword⟩ := wordInfo_fields n (w := 0xFC800000 + n.toNat) (by omega)
    exact ⟨hform, hrev, hword⟩
  · simp [Ctx.groupIll, hp, hx]
  · exact exec_spin_waits hi ha ((if_pos he).trans hw)
  · refine exec_spin_passes hi ha ?_
    rw [State.spinHeld]
    split
    · next he => exact h.resolve_right (not_not.mpr he)
    · rfl
end

section
/-! O10. The immediate forms and the shifts by an immediate: what each writes, and that value in the manual's arithmetic. -/

namespace Sys2Proof.Machine

/-! ### The forms -/

theorem completesImm_of {mk : BitVec 6 → BitVec 6 → BitVec 14 → Instr} {f g : Word → Word → Word}
    (hexec : ∀ d a imm s, exec (mk d a imm) s = performNext (mk d a imm) (Op.aluImm d a imm g) s)
    (h : ∀ x y, g x y = f x y) : CompletesImm mk f := by
  intro s d a imm hi ha hd
  rw [hexec, ← h]
  refine performNext_ok hi ?_
  simp only [Op.aluImm, Op.bind_run, Op.readG_run s a ha, Op.imm_run, Op.answered, Op.writeG_run s d _ hd]

theorem completes1_of {mk : BitVec 6 → BitVec 6 → Instr} {f g : Word → Word}
    (hexec : ∀ d a s, exec (mk d a) s = performNext (mk d a) (Op.alu1 d a g) s) (h : ∀ x, g x = f x) : Completes1 mk f := by
  intro s d a hi ha hd
  rw [hexec, ← h]
  refine performNext_ok hi ?_
  simp only [Op.alu1, Op.bind_run, Op.readG_run s a ha, Op.answered, Op.writeG_run s d _ hd]

/-! ### The values -/

theorem Word.add_eq_ofN (x y : Word) : x + y = Word.ofN (x.toNat + y.toNat) := by
  rw [Word.ofN, BitVec.ofNat_add, BitVec.ofNat_toNat, BitVec.ofNat_toNat, BitVec.setWidth_eq, BitVec.setWidth_eq]

theorem Word.flag_decide (p : Prop) [Decidable p] : Word.flag (decide p) = if p then 1 else 0 := by
  by_cases h : p <;> simp [Word.flag, h]

theorem Word.shiftLeft_eq_ofN (x : Word) (n : Nat) : x <<< n = Word.ofN (x.toNat * 2 ^ n) :=
  BitVec.eq_of_toNat_eq (by simp [Word.ofN, Nat.shiftLeft_eq])

theorem Word.ushiftRight_eq_ofN (x : Word) (n : Nat) : x >>> n = Word.ofN (x.toNat / 2 ^ n) := by
  refine BitVec.eq_of_toNat_eq ?_
  rw [Word.ofN, BitVec.toNat_ofNat, BitVec.toNat_ushiftRight, Nat.shiftRight_eq_div_pow,
    Nat.mod_eq_of_lt ((Nat.div_le_self ..).trans_lt x.isLt)]

theorem Word.sshiftRight_eq_ofI (x : Word) (n : Nat) : x.sshiftRight n = Word.ofI (x.toInt / 2 ^ n) := by
  simp [BitVec.sshiftRight, Word.ofI, Int.shiftRight_eq_div_pow]

/-- The bits that leave at the bottom come in at the top. -/
theorem Word.rotateRight_eq_ofN (x : Word) {n : Nat} (h : n < 64) :
    x.rotateRight n = Word.ofN (x.toNat / 2 ^ n + x.toNat % 2 ^ n * 2 ^ (64 - n)) := by
  have hp : 2 ^ 64 = 2 ^ n * 2 ^ (64 - n) := by rw [← Nat.pow_add, Nat.add_sub_cancel' h.le]
  have low : x.toNat / 2 ^ n < 2 ^ (64 - n) := Nat.div_lt_of_lt_mul (hp ▸ x.isLt)
  have high : x.toNat * 2 ^ (64 - n) % 2 ^ 64 = x.toNat % 2 ^ n * 2 ^ (64 - n) := by rw [hp, Nat.mul_mod_mul_right]
  have fits : x.toNat % 2 ^ n * 2 ^ (64 - n) + x.toNat / 2 ^ n < 2 ^ 64 :=
    calc _ < x.toNat % 2 ^ n * 2 ^ (64 - n) + 2 ^ (64 - n) := Nat.add_lt_add_left low _
      _ = (x.toNat % 2 ^ n + 1) * 2 ^ (64 - n) := (Nat.succ_mul ..).symm
      _ ≤ 2 ^ 64 := hp ▸ Nat.mul_le_mul_right _ (Nat.mod_lt _ (Nat.two_pow_pos n))
  refine BitVec.eq_of_toNat_eq ?_
  rw [Word.ofN, BitVec.toNat_ofNat, Nat.add_comm (x.toNat / 2 ^ n), Nat.mod_eq_of_lt fits,
    BitVec.rotateRight_eq_rotateRightAux_of_lt h, BitVec.rotateRightAux, BitVec.toNat_or, BitVec.toNat_ushiftRight,
    BitVec.toNat_shiftLeft, Nat.or_comm, Nat.shiftRight_eq_div_pow, Nat.shiftLeft_eq, high, ← Nat.shiftLeft_eq,
    Nat.shiftLeft_add_eq_or_of_lt low]

end Sys2Proof.Machine

open Sys2Proof Sys2Proof.Machine in
/-- Settles O10: each form by its value, and IMMX by the payload that it adds to its group. -/
theorem immediateResults : Obligations.ImmediateResults := by
  unfold Obligations.ImmediateResults
  refine ⟨completesImm_of (fun _ _ _ _ => rfl) Word.add_eq_ofN, completesImm_of (fun _ _ _ _ => rfl) fun _ _ => rfl,
    completesImm_of (fun _ _ _ _ => rfl) fun _ _ => rfl, completesImm_of (fun _ _ _ _ => rfl) fun _ _ => rfl,
    completesImm_of (fun _ _ _ _ => rfl) fun _ _ => Word.flag_decide _,
    completesImm_of (fun _ _ _ _ => rfl) fun _ _ => Word.flag_decide _,
    fun n => completes1_of (fun _ _ _ => rfl) fun x => Word.shiftLeft_eq_ofN x n.toNat,
    fun n => completes1_of (fun _ _ _ => rfl) fun x => Word.ushiftRight_eq_ofN x n.toNat,
    fun n => completes1_of (fun _ _ _ => rfl) fun x => Word.sshiftRight_eq_ofI x n.toNat,
    fun n => completes1_of (fun _ _ _ => rfl) fun x => Word.rotateRight_eq_ofN x n.isLt,
    fun _ => rfl, fun _ _ => rfl, fun _ _ _ => rfl, fun s p hl hw hg => ?_⟩
  refine ⟨_, exec_immx_alone p hl hw hg, rfl, rfl, rfl, rfl, fun h => ?_⟩
  rw [State.payloads_withGroup, Pfx.addImmx_of_lt p (by simpa using h), State.group_immx]
end

section
/-! O1. The words of the manual, each the encoding of its instruction. -/

namespace Sys2Proof

theorem decodeWord_of_encode {i : Instr} {w : Nat} (hwf : i.wf = true) (he : encode i = some w) : decodeWord w = .ok i :=
  (decodeOfEncode i w hwf he).2.1

end Sys2Proof

open Sys2Proof in
/-- Settles O1: each word is the one that the encoder gives its instruction, so it decodes to that. -/
theorem knownWordsDecode : Obligations.KnownWordsDecode := by
  unfold Obligations.KnownWordsDecode
  refine ⟨?_, ?_, ?_, ?_, ?_, ?_, ?_, ?_⟩ <;> exact decodeWord_of_encode rfl rfl
end

section
/-! O4. The turn of the core in focus, from the fetched word outwards: the word, its context, the core, the machine. -/

namespace Sys2Proof.Machine

/-! ### The fetched word -/

theorem Op.lmCheck_clean {s : State} (h : s.core.lmFlips = []) (ag : Agent) (a : Acc) (off n : Nat) :
    Op.lmCheck ag a s.core.id off n s = .ok ((), s) := by
  simp [Op.lmCheck, s.findCore_self, h]

theorem State.fetchCheck_clean {s : State} (h : s.core.lmFlips = []) : s.fetchCheck = .ok s := by
  simp only [State.fetchCheck, Op.lmCheck_clean h]

/-- The word at the PC can be fetched and decodes: it runs. -/
theorem State.issueWord_runs {s : State} {i : Instr} (hw : s.waits = false) (har : s.ctx.ar = false)
    (hx : s.ctx.pc < s.core.xbound) (hf : s.core.lmFlips = []) (hd : decodeWord s.wordHere = .ok i) :
    s.issueWord = exec i s := by
  have hx' : ¬ s.core.xbound ≤ s.ctx.pc := BitVec.not_le.mpr hx
  simp only [State.issueWord, hw, har, hx', State.fetchCheck_clean hf, hd, Bool.false_eq_true, if_false, decide_false,
    Bool.and_false]

/-! ### The context and its core -/

/-- What a word that issued in the context in focus and left `t` leaves once waits and run-ahead are brought up to date. -/
def State.issued (s t : State) : State := (s.afterIssue t s.together s.ctx.num).runAhead s.together s.ctx.num

theorem State.issued_stalled (s t : State) : (s.issued t).stalled = t.stalled := by
  rw [State.issued, State.runAhead_keeps State.stalled State.mapCtx_stalled, State.afterIssue_stalled]

theorem State.issueCtx_self {s t : State} (hg : s.ctx.pfx.isSome = true ∨ s.groupFetch groupBound = none)
    (hi : s.issueWord = .next t) (ht : t.stalled = false) : s.issueCtx s.ctx.num = .next (s.issued t) := by
  have hfetch : (if s.ctx.pfx.isSome then none else s.groupFetch groupBound) = none := by
    obtain h | h := hg <;> simp [h]
  simp only [State.issueCtx, s.focus_self, hfetch, hi, ht]
  rfl

/-- A core in the middle of a group goes on with it. -/
theorem State.coreTurn_group {s : State} (hi : s.issues s.core = true) (hl : s.ctx.live = true)
    (hp : s.ctx.pfx.isSome = true) : s.coreTurn = s.issueCtx s.ctx.num := by
  have hf : s.core.ctxs.find? (fun x => x.live && x.pfx.isSome) = some s.ctx :=
    List.find?_cons_of_pos (Bool.and_eq_true_iff.mpr ⟨hl, hp⟩)
  simp only [State.coreTurn, hi, hf, Bool.not_true, Bool.false_eq_true, if_false]

/-- A core in no group, with nothing at its boundary, begins the group of the context that it chooses. -/
theorem State.coreTurn_begins {s : State} {n : Nat} (hi : s.issues s.core = true)
    (hf : s.core.ctxs.find? (fun x => x.live && x.pfx.isSome) = none) (hb : s.boundaryTurn = none)
    (hc : s.core.choose s.readyCtxs = some n) : s.coreTurn = s.issueCtx n := by
  simp only [State.coreTurn, hi, hf, hb, hc, Bool.not_true, Bool.false_eq_true, if_false]

theorem State.turnOf_self (s : State) : s.turnOf s.core.id = s.coreTurn := by
  simp [State.turnOf, s.findCore_self, State.focusCore]

/-! ### The machine's turn -/

/-- The state in which the agenda's last turn begins. -/
def State.began (s : State) : State := { s with agenda := [], stalled := false }

theorem LCore.inGroup_eq_false {c : LCore} (h : c.ctxs.find? (fun x => x.live && x.pfx.isSome) = none) : c.inGroup = false := by
  rw [LCore.inGroup, List.any_eq_false]
  exact List.find?_eq_none.mp h

/-- In the middle of a group, the core goes on, and its entry of the agenda is used up. -/
theorem State.turn_group {s t : State} (ha : s.agenda = [.issue s.core.id]) (hi : s.issues s.core = true)
    (hl : s.ctx.live = true) (hp : s.ctx.pfx.isSome = true) (ht : s.began.coreTurn = .next t) (hst : t.stalled = false) :
    s.turn = .next t := by
  have hgroup : s.core.inGroup = true := List.any_eq_true.mpr ⟨s.ctx, List.mem_cons_self, Bool.and_eq_true_iff.mpr ⟨hl, hp⟩⟩
  have hf : s.cores.find? (fun c => s.issues c && c.inGroup) = some s.core :=
    List.find?_cons_of_pos (Bool.and_eq_true_iff.mpr ⟨hi, hgroup⟩)
  have hg : s.groupAgenda s.core.id = [] := by simp [State.groupAgenda, ha]
  have hrun : State.turnOf { s with agenda := s.groupAgenda s.core.id, stalled := false } s.core.id = .next t := by
    rw [hg]
    exact s.began.turnOf_self.trans ht
  simp only [State.turn, hf, hrun, hst, Bool.false_eq_true, if_false]

/-- With no core in the middle of a group, the turn is the agenda's. -/
theorem State.turn_begins {s : State} (ha : s.agenda = [.issue s.core.id]) (hc : s.core.inGroup = false)
    (hp : ∀ c ∈ s.peers, c.inGroup = false) : s.turn = s.began.coreTurn := by
  have hf : s.cores.find? (fun c => s.issues c && c.inGroup) = none := by
    simpa [State.cores, hc] using fun c hm _ => hp c hm
  simp only [State.turn, hf, State.nextTurn, ha]
  exact s.began.turnOf_self

end Sys2Proof.Machine

open Sys2Proof Sys2Proof.Machine in
/-- Settles O4: the word issues in its context, in the middle of a group and at the beginning of one. -/
theorem stepRunsDecodedWord : Obligations.StepRunsDecodedWord := by
  unfold Obligations.StepRunsDecodedWord
  rintro s s₀ i t hs₀ ha hi hturn hw har hx hf hd he hst
  obtain rfl : s₀ = s.began := hs₀
  have hword : s.began.issueWord = .next t := (State.issueWord_runs (s := s.began) hw har hx hf hd).trans he
  have hrun : s.turn = .next (s.began.issued t) := by
    obtain ⟨hl, hp⟩ | ⟨hnone, hpeers, hb, hc, -, hfetch⟩ := hturn
    · refine State.turn_group ha hi hl hp ?_ ((s.began.issued_stalled t).trans hst)
      rw [State.coreTurn_group (s := s.began) hi hl hp]
      exact State.issueCtx_self (.inl hp) hword hst
    · rw [State.turn_begins ha (LCore.inGroup_eq_false hnone) hpeers, State.coreTurn_begins (s := s.began) hi hnone hb hc]
      exact State.issueCtx_self (s := s.began) (.inr hfetch) hword hst
  rw [step, hrun]
  rfl
end

section
/-! O9. The words of two sources: what each writes, and that value in the arithmetic of R158 to R160. -/

namespace Sys2Proof.Machine

/-! ### The form -/

theorem Op.alu_run {s : State} {d a b : BitVec 6} (f : Word → Word → Word) (ha : s.CanRead a) (hb : s.CanRead b)
    (hd : s.CanWrite d) : Op.alu d a b f s = .ok ((), s.setCtx (s.ctx.setG d.toNat (f (s.G a) (s.G b)))) := by
  simp only [Op.alu, Op.bind_run, Op.readG_run s a ha, Op.readG_run s b hb, Op.answered, Op.writeG_run s d _ hd]

theorem completes2_of {mk : BitVec 6 → BitVec 6 → BitVec 6 → Instr} {f g : Word → Word → Word}
    (hexec : ∀ d a b s, exec (mk d a b) s = performNext (mk d a b) (Op.alu d a b g) s) (h : ∀ x y, g x y = f x y) :
    Completes2 mk f := by
  intro s d a b hi ha hb hd
  rw [hexec, ← h]
  exact performNext_ok hi (Op.alu_run g ha hb hd)

/-! ### Amounts, sums and products -/

theorem shAmt_eq_bits (y : Word) : shAmt y = y.bits 5 0 := by simp [shAmt, Word.bits]

theorem shAmtW_eq_bits (y : Word) : shAmtW y = y.bits 4 0 := by simp [shAmtW, Word.bits]

theorem shAmt_lt (y : Word) : shAmt y < 64 := Nat.mod_lt _ (by decide)

theorem ofInt_sub_ofInt {w : Nat} (i j : Int) : BitVec.ofInt w (i - j) = BitVec.ofInt w i - BitVec.ofInt w j := by
  rw [Int.sub_eq_add_neg, BitVec.ofInt_add, BitVec.ofInt_neg, ← BitVec.sub_eq_add_neg]

theorem Word.sub_eq_ofI (x y : Word) : x - y = Word.ofI ((x.toNat : Int) - y.toNat) := by
  simp [Word.ofI, ofInt_sub_ofInt]

theorem Word.mul_eq_ofI (x y : Word) : x * y = Word.ofI (x.toInt * y.toInt) := by
  rw [Word.ofI, BitVec.ofInt_mul, BitVec.ofInt_toInt, BitVec.ofInt_toInt]

/-! ### Rotation -/

/-- The bits that leave at the top come in at the bottom. -/
theorem Word.rotateLeft_eq_ofN (x : Word) {n : Nat} (h : n < 64) :
    x.rotateLeft n = Word.ofN (x.toNat * 2 ^ n % 2 ^ 64 + x.toNat * 2 ^ n / 2 ^ 64) := by
  have hp : 2 ^ 64 = 2 ^ (64 - n) * 2 ^ n := by rw [← Nat.pow_add, Nat.sub_add_cancel h.le]
  have top : x.toNat * 2 ^ n / 2 ^ 64 = x.toNat / 2 ^ (64 - n) := by
    rw [hp, Nat.mul_div_mul_right _ _ (Nat.two_pow_pos n)]
  have low : x.toNat / 2 ^ (64 - n) < 2 ^ n := Nat.div_lt_of_lt_mul (hp ▸ x.isLt)
  have high : x.toNat * 2 ^ n % 2 ^ 64 = x.toNat % 2 ^ (64 - n) * 2 ^ n := by rw [hp, Nat.mul_mod_mul_right]
  have fits : x.toNat % 2 ^ (64 - n) * 2 ^ n + x.toNat / 2 ^ (64 - n) < 2 ^ 64 :=
    calc _ < x.toNat % 2 ^ (64 - n) * 2 ^ n + 2 ^ n := Nat.add_lt_add_left low _
      _ = (x.toNat % 2 ^ (64 - n) + 1) * 2 ^ n := (Nat.succ_mul ..).symm
      _ ≤ 2 ^ 64 := hp ▸ Nat.mul_le_mul_right _ (Nat.mod_lt _ (Nat.two_pow_pos _))
  refine BitVec.eq_of_toNat_eq ?_
  rw [Word.ofN, BitVec.toNat_ofNat, top, high, Nat.mod_eq_of_lt fits, BitVec.rotateLeft_eq_rotateLeftAux_of_lt h,
    BitVec.rotateLeftAux, BitVec.toNat_or, BitVec.toNat_ushiftRight, BitVec.toNat_shiftLeft, Nat.shiftRight_eq_div_pow,
    Nat.shiftLeft_eq, high, ← Nat.shiftLeft_eq, Nat.shiftLeft_add_eq_or_of_lt low]

/-! ### Minima and maxima -/

theorem minSW_eq_ofI (x y : Word) : minSW x y = Word.ofI (min x.toInt y.toInt) := by
  by_cases h : y.toInt < x.toInt
  · simp [minSW, ltS, h, Word.ofI, Int.min_eq_right h.le]
  · simp [minSW, ltS, h, Word.ofI, Int.min_eq_left (Int.not_lt.mp h)]

theorem maxSW_eq_ofI (x y : Word) : maxSW x y = Word.ofI (max x.toInt y.toInt) := by
  by_cases h : x.toInt < y.toInt
  · simp [maxSW, ltS, h, Word.ofI, Int.max_eq_right h.le]
  · simp [maxSW, ltS, h, Word.ofI, Int.max_eq_left (Int.not_lt.mp h)]

theorem minUW_eq_ofN (x y : Word) : minUW x y = Word.ofN (min x.toNat y.toNat) := by
  by_cases h : y.toNat < x.toNat
  · simp [minUW, ltU, h, Word.ofN, Nat.min_eq_right h.le]
  · simp [minUW, ltU, h, Word.ofN, Nat.min_eq_left (Nat.not_lt.mp h)]

theorem maxUW_eq_ofN (x y : Word) : maxUW x y = Word.ofN (max x.toNat y.toNat) := by
  by_cases h : x.toNat < y.toNat
  · simp [maxUW, ltU, h, Word.ofN, Nat.max_eq_right h.le]
  · simp [maxUW, ltU, h, Word.ofN, Nat.max_eq_left (Nat.not_lt.mp h)]

/-! ### 32-bit results (R160) -/

theorem lowW_toNat (x : Word) : (lowW x).toNat = x.bits 31 0 := by simp [lowW, Word.bits]

theorem lowW_eq_ofNat (x : Word) : lowW x = BitVec.ofNat 32 (x.bits 31 0) := by
  rw [← lowW_toNat, BitVec.ofNat_toNat, BitVec.setWidth_eq]

theorem lowW_add (x y : Word) : lowW x + lowW y = BitVec.ofNat 32 (x.bits 31 0 + y.bits 31 0) := by
  rw [BitVec.ofNat_add, lowW_eq_ofNat, lowW_eq_ofNat]

theorem lowW_sub (x y : Word) : lowW x - lowW y = BitVec.ofInt 32 ((x.bits 31 0 : Int) - y.bits 31 0) := by
  rw [ofInt_sub_ofInt, BitVec.ofInt_natCast, BitVec.ofInt_natCast, lowW_eq_ofNat, lowW_eq_ofNat]

theorem lowW_mul (x y : Word) : lowW x * lowW y = BitVec.ofNat 32 (x.bits 31 0 * y.bits 31 0) := by
  rw [BitVec.ofNat_mul, lowW_eq_ofNat, lowW_eq_ofNat]

theorem lowW_shiftLeft (x : Word) (n : Nat) : lowW x <<< n = BitVec.ofNat 32 (x.bits 31 0 * 2 ^ n) :=
  BitVec.eq_of_toNat_eq (by simp [lowW_toNat, Nat.shiftLeft_eq])

theorem lowW_ushiftRight (x : Word) (n : Nat) : lowW x >>> n = BitVec.ofNat 32 (x.bits 31 0 / 2 ^ n) := by
  refine BitVec.eq_of_toNat_eq ?_
  rw [BitVec.toNat_ofNat, BitVec.toNat_ushiftRight, Nat.shiftRight_eq_div_pow, lowW_toNat,
    Nat.mod_eq_of_lt ((Nat.div_le_self ..).trans_lt (Word.bits_lt x 31 0))]

theorem lowW_sshiftRight (x : Word) (n : Nat) :
    (lowW x).sshiftRight n = BitVec.ofInt 32 ((x.setWidth 32).toInt / 2 ^ n) := by
  simp [BitVec.sshiftRight, lowW, Int.shiftRight_eq_div_pow]

end Sys2Proof.Machine

open Sys2Proof Sys2Proof.Machine in
/-- Settles O9: every word of two sources by the value that it writes. -/
theorem aluResults : Obligations.AluResults := by
  unfold Obligations.AluResults
  refine ⟨⟨?add, ?sub, ?and, ?or, ?xor, ?andn, ?orn, ?xnor, ?shl, ?shr, ?sar, ?rol, ?ror, ?slt, ?sltu, ?seq, ?sne, ?minS,
    ?maxS, ?minU, ?maxU, ?mul, ?mulh, ?mulhu⟩, ⟨?div, ?divu, ?rem, ?remu⟩, ?addw, ?subw, ?shlw, ?shrw, ?sarw, ?mulw⟩ <;>
    refine completes2_of (fun _ _ _ _ => rfl) fun x y => ?_
  case and | or | xor | andn | orn | xnor | mulh | mulhu | div | divu | rem => rfl
  case add => exact Word.add_eq_ofN x y
  case sub => exact Word.sub_eq_ofI x y
  case shl => rw [Word.shiftLeft_eq_ofN, shAmt_eq_bits]
  case shr => rw [Word.ushiftRight_eq_ofN, shAmt_eq_bits]
  case sar => rw [Word.sshiftRight_eq_ofI, shAmt_eq_bits]
  case rol => rw [Word.rotateLeft_eq_ofN x (shAmt_lt y), shAmt_eq_bits]
  case ror => rw [Word.rotateRight_eq_ofN x (shAmt_lt y), shAmt_eq_bits]
  case slt | sltu | seq => exact Word.flag_decide _
  case sne => simp [Word.flag]
  case minS => exact minSW_eq_ofI x y
  case maxS => exact maxSW_eq_ofI x y
  case minU => exact minUW_eq_ofN x y
  case maxU => exact maxUW_eq_ofN x y
  case mul => exact Word.mul_eq_ofI x y
  case remu => rw [remU, ← Nat.mod_eq_sub_mul_div]
  case addw => rw [lowW_add, sextW]
  case subw => rw [lowW_sub, sextW]
  case shlw => rw [lowW_shiftLeft, shAmtW_eq_bits, sextW]
  case shrw => rw [lowW_ushiftRight, shAmtW_eq_bits, sextW]
  case sarw => rw [lowW_sshiftRight, shAmtW_eq_bits, sextW]
  case mulw => rw [lowW_mul, sextW]
end

section
/-! O11. LOP3: the union of the table's minterms, read one bit at a time. -/

namespace Sys2Proof.Machine

/-- A bit of a union of chosen masks is set where a chosen mask has it. -/
theorem getLsbD_foldl_or {n : Nat} (chosen : Nat → Bool) (mask : Nat → BitVec n) (l : List Nat) (acc : BitVec n) (i : Nat) :
    (l.foldl (fun acc j => if chosen j then acc ||| mask j else acc) acc).getLsbD i =
      (acc.getLsbD i || l.any fun j => chosen j && (mask j).getLsbD i) := by
  induction l generalizing acc with
  | nil => simp
  | cons j l ih => cases h : chosen j <;> simp [ih, h, Bool.or_assoc]

/-- A source taken as it is, or inverted, has a bit set where that bit equals the choice. -/
theorem getLsbD_ite_not {n i : Nat} (h : i < n) (b : Bool) (v : BitVec n) :
    (if b then v else ~~~v).getLsbD i = (b == v.getLsbD i) := by
  cases b <;> simp [h]

/-- Of the eight rows, exactly the one that the three bits name has all three. -/
theorem any_row (t : BitVec 8) (x y d : Bool) :
    ((List.range 8).any fun j => t.getLsbD (7 - j) && ((j.testBit 2 == x) && (j.testBit 1 == y) && (j.testBit 0 == d))) =
      t.getLsbD (7 - (4 * x.toNat + 2 * y.toNat + d.toNat)) := by
  cases x <;> cases y <;> cases d <;> simp [List.range_succ, Nat.testBit]

theorem getLsbD_lop3Bits {n i : Nat} (h : i < n) (t : BitVec 8) (x y d : BitVec n) :
    (lop3Bits t x y d).getLsbD i =
      t.getLsbD (7 - (4 * (x.getLsbD i).toNat + 2 * (y.getLsbD i).toNat + (d.getLsbD i).toNat)) := by
  simp only [lop3Bits, getLsbD_foldl_or, BitVec.getLsbD_and, getLsbD_ite_not h, any_row]
  simp

theorem exec_lop3 {s : State} {d a : BitVec 6} {b : BitVec 5} {t : BitVec 8} (hi : s.Issues (.lop3 d a b t))
    (ha : s.CanRead a) (hb : s.CanRead (b.setWidth 6)) (hd : s.CanRead d) :
    exec (.lop3 d a b t) s = .next (s.doneG d (lop3Bits t (s.G a) (s.G (b.setWidth 6)) (s.G d))) := by
  refine performNext_ok hi ?_
  simp only [Op.bind_run, Op.readG_run s _ ha, Op.readG_run s _ hb, Op.readG_run s _ hd, Op.answered,
    Op.writeG_run s d _ hd.canWrite]

end Sys2Proof.Machine

open Sys2Proof Sys2Proof.Machine in
/-- Settles O11: the result is a union of minterms, and each bit of it is the table's. -/
theorem lop3Result : Obligations.Lop3Result := by
  unfold Obligations.Lop3Result
  exact fun s d a b t hi ha hb hd => ⟨_, exec_lop3 hi ha hb hd, fun i h => getLsbD_lop3Bits h t _ _ _⟩
end

section
/-! O12. The words that act on each element of a register, and the bit fields: a packed register read element by element. -/

namespace Sys2Proof.Machine

/-! ### Packed elements -/

theorem elemAt_lt (w x i : Nat) : elemAt w x i < 2 ^ w := Nat.mod_lt _ (Nat.two_pow_pos w)

theorem packElems_lt (w : Nat) (l : List Nat) : packElems w l < 2 ^ (w * l.length) := by
  induction l with
  | nil => simp [packElems]
  | cons e l ih =>
    calc e % 2 ^ w + 2 ^ w * packElems w l < 2 ^ w + 2 ^ w * packElems w l :=
          Nat.add_lt_add_right (Nat.mod_lt _ (Nat.two_pow_pos w)) _
      _ = 2 ^ w * (packElems w l + 1) := by rw [Nat.mul_add, Nat.mul_one, Nat.add_comm]
      _ ≤ 2 ^ w * 2 ^ (w * l.length) := Nat.mul_le_mul_left _ ih
      _ = 2 ^ (w * (l.length + 1)) := by rw [← Nat.pow_add, Nat.mul_add, Nat.mul_one, Nat.add_comm]

theorem elemAt_packElems (w : Nat) (l : List Nat) (i : Nat) (h : i < l.length) : elemAt w (packElems w l) i = l[i] % 2 ^ w := by
  induction l generalizing i with
  | nil => exact absurd h (Nat.not_lt_zero i)
  | cons e l ih =>
    cases i with
    | zero => simp [elemAt, packElems]
    | succ i =>
      have htail : (e % 2 ^ w + 2 ^ w * packElems w l) / 2 ^ w = packElems w l := by
        rw [Nat.add_mul_div_left _ _ (Nat.two_pow_pos w), Nat.div_eq_of_lt (Nat.mod_lt _ (Nat.two_pow_pos w)), Nat.zero_add]
      rw [elemAt, packElems, Nat.mul_succ, Nat.add_comm (w * i), Nat.pow_add, ← Nat.div_div_eq_div_mul, htail]
      exact ih i (Nat.lt_of_succ_lt_succ h)

theorem Width.bits_mul_count (w : Width) : w.bits * (64 / w.bits) = 64 := by cases w <;> rfl

/-- A register packed full is read element by element. -/
theorem elemAt_ofN_packElems (w : Width) {l : List Nat} (hl : l.length = 64 / w.bits) {i : Nat} (h : i < l.length) :
    elemAt w.bits (Word.ofN (packElems w.bits l)).toNat i = l[i] % 2 ^ w.bits := by
  have hlt := packElems_lt w.bits l
  rw [hl, Width.bits_mul_count] at hlt
  rw [Word.ofN, BitVec.toNat_ofNat, Nat.mod_eq_of_lt hlt, elemAt_packElems w.bits l i h]

theorem elemAt_mapElems (w : Width) (f : Nat → Nat) (x : Word) {i : Nat} (h : i < 64 / w.bits) :
    elemAt w.bits (mapElems w.bits f x).toNat i = f (elemAt w.bits x.toNat i) % 2 ^ w.bits := by
  rw [mapElems, elemAt_ofN_packElems w (by simp [elems]) (by simpa [elems] using h)]
  simp [elems]

/-- Element j of `n` elements put in the opposite order is the one that was j places before the last. -/
theorem elemAt_packElems_reverse (w e : Nat) {n j : Nat} (h : j < n) :
    elemAt w (packElems w (elems w n e).reverse) (n - 1 - j) = elemAt w e j := by
  have hj : n - 1 - (n - 1 - j) = j := by omega
  rw [elemAt_packElems w _ _ (by simp [elems]; omega), List.getElem_reverse]
  simp only [elems, List.length_map, List.length_range, List.getElem_map, List.getElem_range, hj]
  exact Nat.mod_eq_of_lt (elemAt_lt w e j)

theorem packElems_reverse_lt (w n e : Nat) : packElems w (elems w n e).reverse < 2 ^ (w * n) := by
  simpa [elems] using packElems_lt w (elems w n e).reverse

theorem testBit_eq_elemAt (x i : Nat) : x.testBit i = decide (elemAt 1 x i = 1) := by
  rw [Nat.testBit_eq_decide_div_mod_eq, elemAt, Nat.one_mul, Nat.pow_one]

/-! ### The form -/

/-- A word that maps its elements by `f`, whose values fit their elements, is related to its source element by element. -/
theorem completesElems_of {mk : BitVec 6 → BitVec 6 → Width → Instr} {rel : Nat → Nat → Nat → Prop} {f : Nat → Nat → Nat}
    (hexec : ∀ d a w s, exec (mk d a w) s = performNext (mk d a w) (Op.alu1 d a (mapElems w.bits (f w.bits))) s)
    (h : ∀ (w : Width) (e : Nat), e < 2 ^ w.bits → f w.bits e < 2 ^ w.bits ∧ rel w.bits e (f w.bits e)) :
    CompletesElems mk rel := by
  intro s d a w hi ha hd
  have hrun := completes1_of (mk := fun d a => mk d a w) (fun d a s => hexec d a w s) (fun _ => rfl) s d a hi ha hd
  refine ⟨_, hrun, fun i hlt => ?_⟩
  obtain ⟨hfit, hrel⟩ := h w _ (elemAt_lt w.bits (s.G a).toNat i)
  rw [elemAt_mapElems w _ _ hlt, Nat.mod_eq_of_lt hfit]
  exact hrel

/-! ### Counts (R166) -/

theorem clzN_spec {w e : Nat} (he : e < 2 ^ w) :
    clzN w e ≤ w ∧ e < 2 ^ (w - clzN w e) ∧ (clzN w e < w → 2 ^ (w - clzN w e - 1) ≤ e) := by
  by_cases h0 : e = 0
  · simp [clzN, h0]
  · have hlog : e.log2 < w := (Nat.log2_lt h0).mpr he
    have hlen : w - clzN w e = e.log2 + 1 := by simp only [clzN, h0, if_false]; omega
    rw [hlen]
    exact ⟨by simp only [clzN, h0, if_false]; omega, Nat.lt_log2_self, fun _ => Nat.log2_self_le h0⟩

theorem ctzN_spec (w e : Nat) :
    ctzN w e ≤ w ∧ (∀ j < ctzN w e, e.testBit j = false) ∧ (ctzN w e < w → e.testBit (ctzN w e) = true) := by
  cases h : (List.range w).find? fun i => e.testBit i with
  | none =>
    have hr : ctzN w e = w := by simp [ctzN, h]
    rw [hr]
    exact ⟨le_rfl, by simpa using h, fun hlt => absurd hlt (lt_irrefl w)⟩
  | some r =>
    have hr : ctzN w e = r := by simp [ctzN, h]
    obtain ⟨hset, hmem, hlow⟩ := List.find?_range_eq_some.mp h
    rw [hr]
    exact ⟨(List.mem_range.mp hmem).le, fun j hj => by simpa using hlow j hj, fun _ => hset⟩

/-- An element that is not zero has a bit set. -/
theorem ctzN_lt {w e : Nat} (h0 : e ≠ 0) (he : e < 2 ^ w) : ctzN w e < w := by
  obtain ⟨hle, hlow, -⟩ := ctzN_spec w e
  refine lt_of_le_of_ne hle fun heq => ?_
  rw [heq] at hlow
  obtain ⟨j, hj⟩ := Nat.exists_testBit_of_ne_zero h0
  have hhigh : w ≤ j := Nat.le_of_not_lt fun hlt => by simp [hlow j hlt] at hj
  exact absurd (Nat.testBit_lt_two_pow (he.trans_le (Nat.pow_le_pow_right (by decide) hhigh))) (by simp [hj])

theorem popcN_le (w e : Nat) : popcN w e ≤ w := by simpa [popcN] using List.countP_le_length (l := List.range w)

theorem ffsN_le {w e : Nat} (he : e < 2 ^ w) : ffsN w e ≤ w := by
  rw [ffsN]
  split
  · exact Nat.zero_le w
  · next h0 =>
    have := ctzN_lt h0 he
    omega

theorem ffsN_spec {w e : Nat} (he : e < 2 ^ w) : (e = 0 → ffsN w e = 0) ∧
    (e ≠ 0 → 1 ≤ ffsN w e ∧ e.testBit (ffsN w e - 1) = true ∧ ∀ j < ffsN w e - 1, e.testBit j = false) := by
  refine ⟨fun h0 => if_pos h0, fun h0 => ?_⟩
  obtain ⟨-, hlow, hset⟩ := ctzN_spec w e
  rw [ffsN, if_neg h0, Nat.add_sub_cancel_left]
  exact ⟨Nat.le_add_right 1 _, hset (ctzN_lt h0 he), hlow⟩

/-! ### Orders reversed (R166) -/

theorem testBit_brevN {w j : Nat} (e : Nat) (h : j < w) : (brevN w e).testBit (w - 1 - j) = e.testBit j := by
  rw [testBit_eq_elemAt, testBit_eq_elemAt e, brevN, elemAt_packElems_reverse 1 e h]

theorem byte_bswapN {w j : Nat} (e : Nat) (h : j < w / 8) :
    bswapN w e / 2 ^ (8 * (w / 8 - 1 - j)) % 256 = e / 2 ^ (8 * j) % 256 :=
  elemAt_packElems_reverse 8 e h

theorem Width.eight_mul_bytes (w : Width) : 8 * (w.bits / 8) = w.bits := by cases w <;> rfl

/-! ### Bit fields (R167) -/

theorem extractS_eq (x : Word) (p l : Nat) :
    extractS x p (l + 1) = Word.ofI ((BitVec.ofNat (l + 1) (x.toNat / 2 ^ p)).toInt) := by
  have hhalf (e : Nat) : 2 ^ l ≤ e ↔ ¬ 2 * e < 2 ^ (l + 1) := by rw [Nat.pow_succ]; omega
  simp only [extractS, elemInt, BitVec.toInt_eq_toNat_cond, BitVec.toNat_ofNat, Bool.true_and, Nat.add_sub_cancel,
    decide_eq_true_eq, hhalf, ite_not]

/-- The bits of a field's mask. -/
theorem getLsbD_fieldMask {len p i : Nat} (h : i < 64) :
    (Word.ofN ((2 ^ len - 1) * 2 ^ p)).getLsbD i = (decide (p ≤ i) && decide (i - p < len)) := by
  simp only [Word.ofN, BitVec.getLsbD_ofNat, h, decide_true, Bool.true_and, Nat.testBit_mul_two_pow,
    Nat.testBit_two_pow_sub_one]

theorem getLsbD_deposit (old x : Word) {p l i : Nat} (h : i < 64) :
    (deposit old x p (l + 1)).getLsbD i = if p ≤ i ∧ i ≤ p + l then x.getLsbD (i - p) else old.getLsbD i := by
  have hin : (decide (p ≤ i) && decide (i - p < l + 1)) = decide (p ≤ i ∧ i ≤ p + l) := by
    rw [← Bool.decide_and, decide_eq_decide]
    omega
  simp only [deposit, BitVec.getLsbD_or, BitVec.getLsbD_and, BitVec.getLsbD_not, BitVec.getLsbD_shiftLeft, getLsbD_fieldMask h,
    hin, h, decide_true, Bool.true_and]
  by_cases hf : p ≤ i ∧ i ≤ p + l
  · simp [hf]
  · simp [hf]

theorem exec_dep {s : State} {d a p l : BitVec 6} (hi : s.Issues (.dep d a p l)) (ha : s.CanRead a) (hd : s.CanRead d) :
    exec (.dep d a p l) s = .next (s.doneG d (deposit (s.G d) (s.G a) p.toNat (l.toNat + 1))) := by
  refine performNext_ok hi ?_
  simp only [Op.aluOld, Op.bind_run, Op.readG_run s _ ha, Op.readG_run s _ hd, Op.answered, Op.writeG_run s d _ hd.canWrite]

/-! ### FSHL (R165) -/

theorem exec_fshl {s : State} {d a : BitVec 6} {b : BitVec 5} {w : Width} {n : BitVec 6} (hi : s.Issues (.fshl d a b w n))
    (ha : s.CanRead a) (hb : s.CanRead (b.setWidth 6)) (hd : s.CanWrite d) :
    ∃ v : Word, exec (.fshl d a b w n) s = .next (s.doneG d v) ∧ ∀ i < 64 / w.bits, elemAt w.bits v.toNat i =
      funnel w.bits n.toNat (elemAt w.bits (s.G a).toNat i) (elemAt w.bits (s.G (b.setWidth 6)).toNat i) := by
  refine ⟨_, performNext_ok hi (Op.alu_run _ ha hb hd), fun i h => ?_⟩
  rw [elemAt_ofN_packElems w (by simp) (by simpa using h)]
  simp [funnel]

end Sys2Proof.Machine

open Sys2Proof Sys2Proof.Machine in
/-- Settles O12: a packed register read element by element, and each element's value by what its operation counts or moves. -/
theorem packedBitAndFieldResults : Obligations.PackedBitAndFieldResults := by
  unfold Obligations.PackedBitAndFieldResults
  refine ⟨⟨fun s d a b w n hi ha hb hd _ => exec_fshl hi ha hb hd, ?clz, ?ctz, ?popc, ?ffs, ?brev, ?bswap⟩,
    fun p l _ => completes1_of (fun _ _ _ => rfl) fun x => rfl,
    fun p l _ => completes1_of (fun _ _ _ => rfl) fun x => extractS_eq x p.toNat l.toNat,
    fun s d a p l _ hi ha hd => ⟨_, exec_dep hi ha hd, fun i h => getLsbD_deposit _ _ h⟩⟩
  all_goals refine completesElems_of (fun _ _ _ _ => rfl) fun w e he => ?_
  case clz => exact ⟨(clzN_spec he).1.trans_lt Nat.lt_two_pow_self, clzN_spec he⟩
  case ctz => exact ⟨(ctzN_spec _ e).1.trans_lt Nat.lt_two_pow_self, ctzN_spec _ e⟩
  case popc => exact ⟨(popcN_le _ e).trans_lt Nat.lt_two_pow_self, List.countP_eq_length_filter⟩
  case ffs => exact ⟨(ffsN_le he).trans_lt Nat.lt_two_pow_self, ffsN_spec he⟩
  case brev => exact ⟨by simpa [brevN] using packElems_reverse_lt 1 w.bits e, fun j h => testBit_brevN e h⟩
  case bswap =>
    refine ⟨?_, fun j h => byte_bswapN e h⟩
    have := packElems_reverse_lt 8 (w.bits / 8) e
    rwa [Width.eight_mul_bytes] at this
end

section
/-! O13. Branches and jumps: the outcome of a branch, the arithmetic of the targets, and the code offsets that a jump takes. -/

namespace Sys2Proof.Machine

/-! ### Conditional branches (R168) -/

theorem Op.branch_run {s : State} {c a : BitVec 6} (imm : BitVec 14) (taken : Word → Word → Bool) (hc : s.CanRead c)
    (ha : s.CanRead a) :
    Op.branch c a imm taken s = .ok (.branch (taken (s.G c) (s.G a)) (branchTarget s.ctx.pc imm), s) := by
  simp only [Op.branch, Op.bind_run, Op.readG_run s c hc, Op.readG_run s a ha, Op.answered, Op.ctx_run, Op.pure_run]

theorem branches_of {mk : BitVec 6 → BitVec 6 → BitVec 14 → Instr} {taken : Word → Word → Prop} {f : Word → Word → Bool}
    (hexec : ∀ c a imm s, exec (mk c a imm) s = perform (mk c a imm) (Op.branch c a imm f) s)
    (h : ∀ x y, f x y = true ↔ taken x y) : Branches mk taken := by
  intro s c a imm hi hc ha
  refine ⟨_, h _ _, ?_⟩
  rw [hexec]
  exact perform_ok hi (Op.branch_run imm f hc ha)

theorem ltS_iff (x y : Word) : ltS x y = true ↔ x.toInt < y.toInt := decide_eq_true_iff

theorem ltU_iff (x y : Word) : ltU x y = true ↔ x.toNat < y.toNat := decide_eq_true_iff

theorem not_ltS_iff (x y : Word) : (!ltS x y) = true ↔ y.toInt ≤ x.toInt := by simp [ltS]

theorem not_ltU_iff (x y : Word) : (!ltU x y) = true ↔ y.toNat ≤ x.toNat := by simp [ltU]

/-! ### Targets (R127) -/

theorem toNat_signExtend_eq_emod {n : Nat} (x : BitVec n) (m : Nat) : ((x.signExtend m).toNat : Int) = x.toInt % 2 ^ m := by
  have hpos : (0 : Int) < 2 ^ m := by positivity
  rw [BitVec.signExtend, BitVec.toNat_ofInt, Int.toNat_of_nonneg (Int.emod_nonneg _ (by exact_mod_cast hpos.ne'))]
  norm_cast

theorem branchTarget_toNat (pc : BitVec 21) (imm : BitVec 14) :
    ((branchTarget pc imm).toNat : Int) = (pc.toNat + imm.toInt * 4) % 2 ^ 20 := by
  have hext := toNat_signExtend_eq_emod imm 18
  rw [branchTarget, BitVec.toNat_ofNat]
  omega

theorem jalTarget_toNat (pc : BitVec 21) (imm : BitVec 26) :
    ((jalTarget pc imm).toNat : Int) = (pc.toNat + imm.toInt * 4) % 2 ^ 20 := by
  have hext := toNat_signExtend_eq_emod imm 30
  rw [jalTarget, BitVec.toNat_ofNat]
  omega

/-! ### What a branch leaves -/

theorem State.finish_branch_frame (s : State) (b : Bool) (t : BitVec 21) :
    (s.finish (.branch b t)).ctx.pc = (if b then t else s.ctx.pc + 4) ∧ (s.finish (.branch b t)).ctx.g = s.ctx.g ∧
      s.SameVK (s.finish (.branch b t)) ∧ s.SameSys (s.finish (.branch b t)) ∧ s.SameCoreRest (s.finish (.branch b t)) ∧
      s.SameOutside (s.finish (.branch b t)) := by
  refine ⟨by simp, by simp, ⟨?_, ?_⟩, ⟨?_, ?_, ?_, ?_, ?_⟩, ?_, ?_⟩
  all_goals simp [State.SameCoreRest, State.SameOutside]

/-! ### Jumps (R169, R170) -/

theorem exec_jal {s : State} {imm : BitVec 26} (hi : s.Issues (.jal imm)) (h1 : s.CanWrite 1) : exec (.jal imm) s =
    .next ((s.setCtx (s.ctx.setG 1 (Word.ofN (s.ctx.pc.toNat + 4)))).finish (.jump (jalTarget s.ctx.pc imm))) := by
  refine perform_ok hi ?_
  simp only [Op.bind_run, Op.ctx_run, Op.answered, Op.writeG_run s 1 _ h1, Op.pure_run]
  rfl

/-- A code offset: a multiple of 4 below 0x10_0000 (R170, R173). -/
def IsCodeOffset (t : Word) : Prop := t.toNat % 4 = 0 ∧ t.toNat < 0x100000

theorem not_isCodeOffset {t : Word} (h : t.toNat % 4 ≠ 0 ∨ 0x100000 ≤ t.toNat) : ¬ IsCodeOffset t :=
  fun ⟨halign, hlt⟩ => h.elim (· halign) (Nat.not_le.mpr hlt)

theorem Op.codeTarget_ok {t : Word} (h : IsCodeOffset t) (s : State) : Op.codeTarget t s = .ok (t.setWidth 21, s) := by
  obtain ⟨halign, hlt⟩ := h
  rw [Op.codeTarget, if_neg (by simp [halign, hlt])]
  rfl

/-- The trap of a jump or START to a value that is no code offset. -/
def misalTrap (t : Word) : Trap := Trap.plain cMISAL t ((⟨t, 4, 2, 4, 0⟩ : Acc).info 0)

theorem Op.codeTarget_misal {t : Word} (h : ¬ IsCodeOffset t) (s : State) :
    Op.codeTarget t s = .error (.trap (misalTrap t)) := by
  rw [Op.codeTarget, if_pos]
  · rfl
  · simpa [IsCodeOffset, imp_iff_not_or] using h

theorem exec_jalr {s : State} {d a : BitVec 6} {imm : BitVec 14} (hi : s.Issues (.jalr d a imm)) (ha : s.CanRead a)
    (hd : s.CanWrite d) (ht : IsCodeOffset (s.G a + imm.signExtend 64)) :
    exec (.jalr d a imm) s = .next ((s.setCtx (s.ctx.setG d.toNat (Word.ofN (s.ctx.pc.toNat + 4)))).finish
      (.jump ((s.G a + imm.signExtend 64).setWidth 21))) := by
  refine perform_ok hi ?_
  simp only [Op.bind_run, Op.readG_run s a ha, Op.freeG_run s d hd, Op.codeTarget_ok ht, Op.ctx_run, Op.answered,
    Op.writeG_run s d _ hd, Op.pure_run]

theorem exec_jalr_misal {s : State} {d a : BitVec 6} {imm : BitVec 14} (hi : s.Issues (.jalr d a imm)) (ha : s.CanRead a)
    (hd : s.CanWrite d) (ht : ¬ IsCodeOffset (s.G a + imm.signExtend 64)) :
    exec (.jalr d a imm) s = .next (s.takeTrap (misalTrap (s.G a + imm.signExtend 64))) := by
  refine perform_trap hi ?_
  simp only [Op.bind_run, Op.readG_run s a ha, Op.freeG_run s d hd, Op.codeTarget_misal ht, Op.answered, Op.halted]

end Sys2Proof.Machine

open Sys2Proof Sys2Proof.Machine in
/-- Settles O13: a branch by its condition, the targets as integers, and a jump by whether its target is a code offset. -/
theorem branchAndJumpOutcomes : Obligations.BranchAndJumpOutcomes := by
  unfold Obligations.BranchAndJumpOutcomes
  refine ⟨⟨?beq, ?bne, ?blt, ?bge, ?bltu, ?bgeu, branchTarget_toNat, State.finish_branch_frame⟩,
    fun s imm => exec_jal, jalTarget_toNat, fun s d a imm hi ha hd halign hlt => exec_jalr hi ha hd ⟨halign, hlt⟩,
    fun s d a imm hi ha hd ht => ⟨_, exec_jalr_misal hi ha hd (not_isCodeOffset ht)⟩⟩
  all_goals refine branches_of (fun _ _ _ _ => rfl) fun x y => ?_
  case beq | bne => exact decide_eq_true_iff
  case blt => exact ltS_iff x y
  case bge => exact not_ltS_iff x y
  case bltu => exact ltU_iff x y
  case bgeu => exact not_ltU_iff x y
end

section
/-! O19. TRAP and ERET: the exception that a program raises, and the return from one. -/

namespace Sys2Proof.Machine

theorem exec_trap {s : State} {c : BitVec 8} (hi : s.Issues (.trap c)) :
    exec (.trap c) s = .next (s.takeTrap (Trap.plain cSWTRAP 0 (Word.ofN c.toNat))) :=
  performNext_trap hi (Op.trap_run ..)

theorem exec_eret {s : State} (hi : s.Issues .eret) : exec .eret s = .next ((s.setCtx s.ctx.eret).finish .set) :=
  perform_ok hi rfl

/-- The three bits of SVCLVL (R188): TI, PS and S. -/
theorem svclvlOf_bits (ti ps su : Bool) : (svclvlOf ti ps su).getLsbD 2 = ti ∧ (svclvlOf ti ps su).getLsbD 1 = ps ∧
    (svclvlOf ti ps su).getLsbD 0 = su := by
  cases ti <;> cases ps <;> cases su <;> decide

theorem Ctx.eret_ti (c : Ctx) : c.eret.ti = false := (svclvlOf_bits ..).1

theorem Ctx.eret_ps (c : Ctx) : c.eret.ps = c.ps := (svclvlOf_bits ..).2.1

theorem Ctx.eret_supervisor (c : Ctx) : c.eret.supervisor = (c.supervisor && c.ps) := by
  have hs : c.eret.supervisor = if c.supervisor then c.ps else false := (svclvlOf_bits ..).2.2
  cases h : c.supervisor <;> simp [hs, h]

end Sys2Proof.Machine

open Sys2Proof Sys2Proof.Machine in
/-- Settles O19: TRAP by its trap, ERET by the context that it leaves. -/
theorem trapAndEretWords : Obligations.TrapAndEretWords := by
  unfold Obligations.TrapAndEretWords
  refine ⟨fun s c => exec_trap, fun s hi => ⟨_, exec_eret hi, rfl, s.ctx.eret_ti, s.ctx.eret_ps, s.ctx.eret_supervisor, rfl, rfl,
    rfl, rfl, rfl, ⟨rfl, rfl⟩, rfl, rfl, ?_, ?_⟩⟩
  · simp [State.SameCoreRest]
  · simp [State.SameOutside]
end

section
/-! O20. START, STOP and JOIN: the helper that each names, found again after it has changed. -/

namespace Sys2Proof.Machine

/-! ### A context of the core -/

theorem LCore.num_of_findCtx {c : LCore} {n : Nat} {x : Ctx} (h : c.findCtx n = some x) : x.num = n :=
  of_decide_eq_true (List.find?_some (p := fun x : Ctx => x.num = n) h)

theorem LCore.findCtx_self (c : LCore) : c.findCtx c.ctx.num = some c.ctx := by simp [LCore.findCtx, LCore.ctxs]

theorem LCore.findCtx_others {c : LCore} {n : Nat} (hn : c.ctx.num ≠ n) : c.findCtx n = c.others.find? fun x => x.num = n := by
  simp [LCore.findCtx, LCore.ctxs, hn]

theorem LCore.mapCtx_others {c : LCore} {n : Nat} (hn : c.ctx.num ≠ n) (f : Ctx → Ctx) :
    c.mapCtx n f = { c with others := c.others.map fun x => if x.num = n then f x else x } := by
  simp [LCore.mapCtx, hn]

theorem LCore.findCtx_mapCtx {c : LCore} {n : Nat} {h : Ctx} {f : Ctx → Ctx} (hn : c.ctx.num ≠ n) (hc : c.findCtx n = some h)
    (hf : (f h).num = n) : (c.mapCtx n f).findCtx n = some (f h) := by
  rw [LCore.findCtx_others hn] at hc
  have hn' : (c.mapCtx n f).ctx.num ≠ n := by rwa [LCore.mapCtx_others hn]
  rw [LCore.findCtx_others hn', LCore.mapCtx_others hn]
  simpa using find?_map_ite (f := f) hc (decide_eq_true hf)

theorem State.findCtx_finish (s : State) (e : Exit) {n : Nat} (hn : s.ctx.num ≠ n) :
    (s.finish e).core.findCtx n = s.core.findCtx n := by
  have hn' : (s.finish e).core.ctx.num ≠ n := by simpa [State.finish, State.ctx] using hn
  rw [LCore.findCtx_others hn', LCore.findCtx_others hn, State.finish_core_others]

/-! ### A context's refusal (R172) -/

theorem Op.ctxTrap_run {α : Type} (reason n : Nat) (s : State) :
    (Op.ctxTrap reason n : Op α) s = .error (.trap (Trap.plain cILL 0 (Word.ofN (reason * 16 + n)))) := Op.trap_run ..

/-! ### START (R173) -/

theorem Ctx.kval_eq_zero {x : Ctx} (h : x.k = Vector.replicate 8 0) {m : Nat} (hm : m ≠ 0) : x.kval m = 0 := by
  rw [Ctx.kval, if_neg hm, h, Vector.toList_replicate, getD_replicate_self]

section
variable (h issuer : Ctx) (pc : BitVec 21) (arg seed : Word) (home : Bool)

theorem Ctx.gval_started_arg : (h.started issuer pc arg seed home).gval 3 = arg :=
  Ctx.gval_setG_same _ 3 arg (by decide) (by decide)

theorem Ctx.gval_started {m : Nat} (hm : m ≠ 3) : (h.started issuer pc arg seed home).gval m = 0 :=
  (Ctx.gval_setG_other _ 3 m arg hm).trans (Ctx.gval_eq_zero rfl m)

/-- The state in which START leaves a helper, but for its general registers. -/
theorem Ctx.started_state : ∃ x, x = h.started issuer pc arg seed home ∧ x.num = h.num ∧ x.live = true ∧ x.pc = pc ∧
    (∀ m, x.vval m = 0) ∧ (∀ m, m ≠ 0 → x.kval m = 0) ∧ x.level = 3 ∧ x.sys = { h.sys with
      rkey := seed, tensor := issuer.sys.tensor, evmask := 0, events := 0, svclvl := svclvlOf false false home
      epc := 0, ecause := 0, eaddr := 0, einfo := 0, deferred := 0 } :=
  ⟨_, rfl, rfl, rfl, rfl, Ctx.vval_eq_zero rfl, fun _ => Ctx.kval_eq_zero rfl, rfl, rfl⟩
end

/-- The helper `n` of the core is started at a code offset with an argument. -/
def State.startHelper (s : State) (n : Nat) (pc : BitVec 21) (arg : Word) : State :=
  { s with core := s.core.mapCtx n fun h => h.started s.ctx pc arg s.core.regs.seed s.homeHere }

section
variable {s : State} {n a b : BitVec 6}
variable (hi : s.Issues (.start n a b)) (ha : s.CanRead a) (hb : s.CanRead b)

include hi ha hb

theorem exec_start_above (hn : s.core.regs.helpers < n.toNat) :
    exec (.start n a b) s = .next (s.takeTrap (Trap.plain cILL 0 (Word.ofN (0x10 + n.toNat)))) := by
  refine perform_trap hi ?_
  simp only [Op.bind_run, Op.readG_run s a ha, Op.readG_run s b hb, Op.answered, Op.get_run, Op.ite_run, hn, if_true,
    Op.ctxTrap_run]

variable {h : Ctx} (hn : n.toNat ≤ s.core.regs.helpers) (hh : s.core.findCtx n.toNat = some h)
include hn hh

theorem exec_start_live (hl : h.live = true) :
    exec (.start n a b) s = .next (s.takeTrap (Trap.plain cILL 0 (Word.ofN (0x20 + n.toNat)))) := by
  refine perform_trap hi ?_
  simp only [Op.bind_run, Op.readG_run s a ha, Op.readG_run s b hb, Op.answered, Op.get_run, Op.ite_run, Nat.not_lt.mpr hn, hh, hl,
    if_true, if_false, Op.ctxTrap_run]

theorem exec_start_misal (hl : h.live = false) (ht : ¬ IsCodeOffset (s.G a)) :
    exec (.start n a b) s = .next (s.takeTrap (misalTrap (s.G a))) := by
  refine perform_trap hi ?_
  simp only [Op.bind_run, Op.readG_run s a ha, Op.readG_run s b hb, Op.answered, Op.get_run, Op.ite_run, Nat.not_lt.mpr hn, hh, hl,
    Bool.false_eq_true, if_false, Op.codeTarget_misal ht, Op.halted]

theorem exec_start_runs (hl : h.live = false) (ht : IsCodeOffset (s.G a)) : exec (.start n a b) s =
    .next ((s.startHelper n.toNat ((s.G a).setWidth 21) (s.G b)).finish (.keyed (s.G a))) := by
  refine perform_ok hi ?_
  simp only [Op.bind_run, Op.readG_run s a ha, Op.readG_run s b hb, Op.answered, Op.get_run, Op.ite_run, Nat.not_lt.mpr hn, hh, hl,
    Bool.false_eq_true, if_false, Op.codeTarget_ok ht, Op.modCore_run, Op.pure_run]
  rfl
end

/-- What START leaves of its starter and of the rest of the machine. -/
theorem State.startHelper_frame {s : State} {n : Nat} (hn : s.ctx.num ≠ n) (pc : BitVec 21) (arg k : Word) :
    ∃ t, t = (s.startHelper n pc arg).finish (.keyed k) ∧ t.ctx.pc = s.ctx.pc + 4 ∧ t.ctx.g = s.ctx.g ∧ s.SameSys t ∧
      s.SameOutside t := by
  refine ⟨_, rfl, ?_⟩
  rw [State.startHelper, LCore.mapCtx_others hn]
  refine ⟨rfl, rfl, ⟨rfl, rfl, rfl, rfl, rfl⟩, ?_⟩
  simp [State.SameOutside]

theorem State.findCtx_startHelper {s : State} {n : Nat} {h : Ctx} (hn : s.ctx.num ≠ n) (hh : s.core.findCtx n = some h)
    (pc : BitVec 21) (arg k : Word) : ((s.startHelper n pc arg).finish (.keyed k)).core.findCtx n =
      some (h.started s.ctx pc arg s.core.regs.seed s.homeHere) := by
  have hctx : (s.startHelper n pc arg).ctx.num ≠ n := by
    rw [State.startHelper, LCore.mapCtx_others hn]
    exact hn
  rw [State.findCtx_finish _ _ hctx]
  exact LCore.findCtx_mapCtx hn hh (show h.num = n from LCore.num_of_findCtx hh)

theorem exec_start_helper {s : State} {n a b : BitVec 6} {h : Ctx} (hi : s.Issues (.start n a b)) (ha : s.CanRead a)
    (hb : s.CanRead b) (hne : s.ctx.num ≠ n.toNat) (hh : s.core.findCtx n.toNat = some h) (hl : h.live = false)
    (hn : n.toNat ≤ s.core.regs.helpers) (ht : IsCodeOffset (s.G a)) :
    ∃ (t : State) (x : Ctx), exec (.start n a b) s = .next t ∧ t.core.findCtx n.toNat = some x ∧ x.live = true ∧
      x.pc = (s.G a).setWidth 21 ∧ x.gval 3 = s.G b ∧ (∀ m, m ≠ 3 → x.gval m = 0) ∧ (∀ m, x.vval m = 0) ∧
      (∀ m, m ≠ 0 → x.kval m = 0) ∧ x.level = 3 ∧
      x.sys.evmask = 0 ∧ x.sys.events = 0 ∧ x.sys.epc = 0 ∧ x.sys.ecause = 0 ∧ x.sys.eaddr = 0 ∧ x.sys.einfo = 0 ∧
      x.sys.rkey = s.core.regs.seed ∧ x.sys.tensor = s.ctx.sys.tensor ∧ x.sys.trapv = h.sys.trapv ∧
      x.supervisor = s.homeHere ∧ t.ctx.pc = s.ctx.pc + 4 ∧ t.ctx.g = s.ctx.g ∧ s.SameSys t ∧ s.SameOutside t := by
  obtain ⟨t, rfl, hpc, hg, hsys, hout⟩ := State.startHelper_frame hne ((s.G a).setWidth 21) (s.G b) (s.G a)
  obtain ⟨x, rfl, -, hlive, hxpc, hv, hk, hlevel, hxsys⟩ :=
    h.started_state s.ctx ((s.G a).setWidth 21) (s.G b) s.core.regs.seed s.homeHere
  refine ⟨_, _, exec_start_runs hi ha hb hn hh hl ht, State.findCtx_startHelper hne hh .., hlive, hxpc, Ctx.gval_started_arg ..,
    fun m => Ctx.gval_started _ _ _ _ _ _, hv, hk, hlevel, ?_⟩
  rw [hxsys]
  exact ⟨rfl, rfl, rfl, rfl, rfl, rfl, rfl, rfl, rfl, Ctx.supervisor_of_svclvl rfl, hpc, hg, hsys, hout⟩

/-! ### STOP (R174) -/

theorem exec_stop_other {s : State} {n : BitVec 6} (hi : s.Issues (.stop n)) (hn : s.ctx.num ≠ n.toNat) : exec (.stop n) s =
    .next (State.done { s with core := s.core.mapCtx n.toNat fun h => { h with stopReq := h.live } }) := by
  refine performNext_ok hi ?_
  simp only [Op.bind_run, Op.ctx_run, Op.answered, Op.ite_run, hn, if_false, Op.modCore_run]

theorem exec_stop_self {s : State} {n : BitVec 6} (hi : s.Issues (.stop n)) (hn : s.ctx.num = n.toNat) :
    exec (.stop n) s = .next (s.takeTrap (Trap.plain cILL 0 (Word.ofN (0x30 + n.toNat)))) := by
  refine performNext_trap hi ?_
  simp only [Op.bind_run, Op.ctx_run, Op.answered, Op.ite_run, hn, if_true, Op.ctxTrap_run]

/-! ### JOIN (R175) -/

section
variable {s : State} {d n : BitVec 6} (hi : s.Issues (.join d n))
include hi

theorem exec_join_self (hn : s.ctx.num = n.toNat) :
    exec (.join d n) s = .next (s.takeTrap (Trap.plain cILL 0 (Word.ofN (0x30 + n.toNat)))) := by
  have hn' : s.core.ctx.num = n.toNat := hn
  refine performNext_trap hi ?_
  simp only [Op.bind_run, Op.core_run, Op.answered, Op.ite_run, hn', if_true, Op.ctxTrap_run]

theorem exec_join_unready {h : Ctx} (hn : s.ctx.num ≠ n.toNat) (hh : s.core.findCtx n.toNat = some h)
    (hw : (!h.live && !h.pendG.getLsbD 3) = false) : exec (.join d n) s = .next s.standStill := by
  have hn' : s.core.ctx.num ≠ n.toNat := hn
  refine performNext_stall hi ?_
  simp only [Op.bind_run, Op.core_run, Op.answered, Op.ite_run, hn', if_false, hh, Op.need_run, hw, Bool.false_eq_true, Op.halted]

theorem exec_join_ready {h : Ctx} (hd : s.CanWrite d) (hn : s.ctx.num ≠ n.toNat) (hh : s.core.findCtx n.toNat = some h)
    (hw : (!h.live && !h.pendG.getLsbD 3) = true) : exec (.join d n) s = .next (s.doneG d (h.gval 3)) := by
  have hn' : s.core.ctx.num ≠ n.toNat := hn
  refine performNext_ok hi ?_
  simp only [Op.bind_run, Op.core_run, Op.answered, Op.ite_run, hn', if_false, hh, Op.need_run, hw, if_true,
    Op.writeG_run s d _ hd]

theorem exec_join_none (hd : s.CanWrite d) (hh : s.core.findCtx n.toNat = none) :
    exec (.join d n) s = .next (s.doneG d 0) := by
  have hn : s.core.ctx.num ≠ n.toNat := fun heq => by
    rw [← heq, LCore.findCtx_self] at hh
    cases hh
  refine performNext_ok hi ?_
  simp only [Op.bind_run, Op.core_run, Op.answered, Op.ite_run, hn, if_false, hh, Op.writeG_run s d _ hd]
end

end Sys2Proof.Machine

open Sys2Proof Sys2Proof.Machine in
/-- Settles O20: START by the helper that it leaves or by its refusal, STOP and JOIN by the context that they name. -/
theorem helperWords : Obligations.HelperWords := by
  unfold Obligations.HelperWords
  refine ⟨fun s n a b h hi ha hb hne hh hl hn halign hlt => exec_start_helper hi ha hb hne hh hl hn ⟨halign, hlt⟩,
    fun s n a b h hi ha hb hh hl hn ht => ⟨_, exec_start_misal hi ha hb hn hh hl (not_isCodeOffset ht)⟩,
    fun s n a b hi ha hb => exec_start_above hi ha hb,
    fun s n a b h hi ha hb hn hh => exec_start_live hi ha hb hn hh,
    fun s n => exec_stop_other, fun s n => exec_stop_self, fun s d n h hi hd hne hh hl => ?_,
    fun s d n hi hd => exec_join_none hi hd, fun s d n h hi hne hh hl => exec_join_unready hi hne hh (by simp [hl]),
    fun s d n => exec_join_self⟩
  cases hp : h.pendG.getLsbD 3 with
  | true => exact exec_join_unready hi hne hh (by rw [hl, hp]; rfl)
  | false => exact exec_join_ready hi hd hne hh (by rw [hl, hp]; rfl)
end

section
/-! O22. GETS: the word, and the register that each number of R187 names. -/

namespace Sys2Proof.Machine

theorem exec_gets {s : State} {d : BitVec 6} {r : BitVec 12} (hi : s.Issues (.gets d r)) (hd : s.CanWrite d)
    (hr : r = 0x080 → s.ctx.supervisor = true) : exec (.gets d r) s = .next (s.doneG d (s.sysValue r.toNat)) := by
  have hmode : (decide (r = 0x080) && !s.ctx.supervisor) = false := by
    by_cases h : r = 0x080
    · rw [hr h, Bool.not_true, Bool.and_false]
    · rw [decide_eq_false h, Bool.false_and]
  refine performNext_ok hi ?_
  simp only [Op.bind_run, Op.freeG_run s d hd, Op.answered, Op.get_run, Op.ite_run, hmode, Bool.false_eq_true, if_false,
    Op.writeG_run s d _ hd]

theorem exec_gets_archmap_task {s : State} {d : BitVec 6} (hi : s.Issues (.gets d 0x080)) (hd : s.CanWrite d)
    (hs : s.ctx.supervisor = false) : ∃ info : Word,
    exec (.gets d 0x080) s = .next (s.takeTrap (Trap.plain cPRIV (Word.ofN s.ctx.pc.toNat) info)) := by
  refine ⟨wordInfo s.ctx.revn ((encode (.gets d 0x080)).getD 0), performNext_trap hi ?_⟩
  simp only [Op.bind_run, Op.freeG_run s d hd, Op.answered, Op.get_run, Op.ite_run, hs, decide_true, Bool.not_false, Bool.and_self,
    if_true, Op.privTrap_run]

/-! ### The registers that come in numbered rows -/

theorem getD_toList_fin {α : Type} {n : Nat} (v : Vector α n) (k : Fin n) (a : α) : v.toList.getD k.val a = v[k] := by
  simp [List.getD_eq_getElem?_getD]

theorem State.sysValue_arg (s : State) (n : Fin 16) : s.sysValue (0x010 + n.val) = s.core.regs.args[n] := by
  rw [← getD_toList_fin s.core.regs.args n 0]
  fin_cases n <;> rfl

theorem State.sysValue_dmem (s : State) (n : Fin 4) : s.sysValue (0x030 + n.val) = s.core.regs.dmem[n] := by
  rw [← getD_toList_fin s.core.regs.dmem n 0]
  fin_cases n <;> rfl

theorem State.sysValue_metr (s : State) (n : Fin 8) : s.sysValue (0x070 + n.val) = s.metr n.val := by
  fin_cases n <;> rfl

end Sys2Proof.Machine

open Sys2Proof Sys2Proof.Machine in
/-- Settles O22: the word by its mode check, the values by the number of each register. -/
theorem getsReads : Obligations.GetsReads := by
  unfold Obligations.GetsReads
  refine ⟨fun s d r => exec_gets, fun s d => exec_gets_archmap_task, fun s => ?_⟩
  refine ⟨rfl, rfl, rfl, rfl, rfl, rfl, rfl, rfl, rfl, rfl, rfl, rfl, rfl, rfl, rfl, rfl, s.sysValue_arg, rfl, rfl, rfl,
    s.sysValue_dmem, rfl, rfl, rfl, rfl, rfl, rfl, rfl, rfl, rfl, rfl, rfl, s.sysValue_metr, rfl⟩
end

section
/-! O21. The words of a context's own life: END, YIELD, SPLIT, FUSE and HALT. -/

namespace Sys2Proof.Machine

theorem LCore.no_other_live {c : LCore} (h : ∀ x ∈ c.others, x.live = false) : (c.others.any fun x => x.live) = false := by
  simpa using h

/-! ### END (R176) -/

theorem exec_endCtx_pending {s : State} (hi : s.Issues .endCtx) (hp : s.core.enginePending s.ctx.num = true) :
    exec .endCtx s = .next s.standStill := by
  refine performNext_stall hi (Op.whole_stall ?_)
  simp only [Op.bind_run, Op.get_run, Op.answered, Op.need_run, hp, Bool.not_true, Bool.false_eq_true, if_false, Op.halted]

/-- A core that uses no channel departs from no barrier (R352). -/
theorem Op.depart_none {s : State} (h : ∀ n < 4, s.core.chanOn n = false) : Op.depart s.core.id s = .ok ((), s) := by
  have hnone : (List.range 4).filter (fun n => s.core.chanOn n) = [] :=
    List.filter_eq_nil_iff.mpr fun n hn => by simp [h n (List.mem_range.mp hn)]
  simp only [Op.depart, Op.bind_run, Op.get_run, Op.answered, s.findCore_self, Op.get!, Op.pure_run, hnone, Op.forEach]

theorem exec_endCtx_ends {s : State} (hi : s.Issues .endCtx) (he : s.core.enginePending s.ctx.num = false)
    (hb : s.unc.bankOps = []) (hr : s.ctx.reports = [])
    (h : s.ctx.num ≠ 0 ∨ ((∀ x ∈ s.core.others, x.live = false) ∧ ∀ n < 4, s.core.chanOn n = false)) :
    exec .endCtx s = .next (s.setCtx { s.ctx with live := false, stopReq := false }).done := by
  have hlive : (decide (s.ctx.num ≠ 0) || !s.core.others.any fun x => x.live) = true := by
    obtain h | ⟨h, -⟩ := h
    · rw [decide_eq_true h, Bool.true_or]
    · rw [LCore.no_other_live h, Bool.not_false, Bool.or_true]
  refine performNext_ok hi ?_
  rw [Op.whole]
  simp only [Op.bind_run, Op.get_run, Op.answered, Op.need_run, he, hb, hr, List.any_nil, Bool.not_false, hlive, if_true,
    Op.ite_run]
  by_cases h0 : s.ctx.num = 0
  · simp only [h0, if_true, Op.depart_none (h.resolve_left (not_not.mpr h0)).2, Op.answered, Op.modCtx_run, hr]
  · simp only [h0, if_false, Op.modCtx_run, hr]

/-! ### YIELD (R177) -/

/-- The other contexts of the core that may issue. -/
def LCore.readyOthers (c : LCore) : List Nat := (c.others.filter fun x => x.live && x.wait.isNone).map (·.num)

theorem exec_yield_alone {s : State} (hi : s.Issues .yield) (h : s.core.readyOthers = []) : exec .yield s = .next s.done := by
  refine performNext_ok hi ?_
  rw [LCore.readyOthers] at h
  simp only [Op.modCore_run, h, if_true]

theorem exec_yield_waits {s : State} (hi : s.Issues .yield) (h : s.core.readyOthers ≠ []) : exec .yield s =
    .next (s.setCtx { s.ctx with wait := some (.yielded s.core.readyOthers) }).done := by
  refine performNext_ok hi ?_
  rw [LCore.readyOthers] at h
  simp only [Op.modCore_run, h, if_false]
  rfl

/-! ### SPLIT and FUSE (R172, R178) -/

theorem Op.gangWord_helper {s : State} (h : s.ctx.num ≠ 0) :
    Op.gangWord s = .error (.trap (Trap.plain cILL 0 0x40)) := by
  have h' : s.core.ctx.num ≠ 0 := h
  simp only [Op.gangWord, Op.bind_run, Op.core_run, Op.answered, Op.ite_run, h', ne_eq, not_false_eq_true, decide_true,
    Bool.true_or, if_true, Op.ctxTrap_run]
  rfl

theorem Op.gangWord_ok {s : State} (h : s.ctx.num = 0) (ho : ∀ x ∈ s.core.others, x.live = false) :
    Op.gangWord s = .ok ((), s) := by
  have h' : s.core.ctx.num = 0 := h
  simp only [Op.gangWord, Op.bind_run, Op.core_run, Op.answered, Op.ite_run, h', LCore.no_other_live ho, ne_eq,
    not_true_eq_false, decide_false, Bool.or_self, Bool.false_eq_true, if_false, Op.pure_run]

/-- The gang of the core in focus goes on split. -/
def State.unfused (s : State) : State := { s with core := { s.core with fused := false, fuseAt := none } }

/-- SPLIT of the core in focus, alone or as a member: in a gang of more than one, it goes on split. -/
def Op.splitWord : Op Unit := do
  Op.gangWord
  Op.modCore fun c => if 1 < c.regs.gangsz then { c with fused := false, fuseAt := none } else c

theorem exec_split_eq (s : State) : exec .split s = performNext .split Op.splitWord s := rfl

theorem Op.splitWord_one {s : State} (h : s.ctx.num = 0) (ho : ∀ x ∈ s.core.others, x.live = false)
    (hg : s.core.regs.gangsz ≤ 1) : Op.splitWord s = .ok ((), s) := by
  simp only [Op.splitWord, Op.bind_run, Op.gangWord_ok h ho, Op.answered, Op.modCore_run, Nat.not_lt.mpr hg, if_false]

theorem Op.splitWord_many {s : State} (h : s.ctx.num = 0) (ho : ∀ x ∈ s.core.others, x.live = false)
    (hg : 1 < s.core.regs.gangsz) : Op.splitWord s = .ok ((), s.unfused) := by
  simp only [Op.splitWord, Op.bind_run, Op.gangWord_ok h ho, Op.answered, Op.modCore_run, hg, if_true]
  rfl

theorem exec_split_solo {s : State} (hi : s.Issues .split) (h : s.ctx.num = 0) (ho : ∀ x ∈ s.core.others, x.live = false) :
    exec .split s = .next (if s.core.regs.gangsz ≤ 1 then s.done else s.unfused.done) := by
  rw [exec_split_eq]
  split
  · next hg => exact performNext_ok hi (Op.splitWord_one h ho hg)
  · next hg => exact performNext_ok hi (Op.splitWord_many h ho (Nat.not_le.mp hg))

theorem exec_split_helper {s : State} (hi : s.Issues .split) (h : s.ctx.num ≠ 0) :
    exec .split s = .next (s.takeTrap (Trap.plain cILL 0 0x40)) := by
  refine performNext_trap hi ?_
  rw [Op.bind_run, Op.gangWord_helper h, Op.halted]

theorem exec_fuse_helper {s : State} (hi : s.Issues .fuse) (h : s.ctx.num ≠ 0) :
    exec .fuse s = .next (s.takeTrap (Trap.plain cILL 0 0x40)) := by
  refine perform_trap hi ?_
  rw [Op.bind_run, Op.gangWord_helper h, Op.halted]

theorem exec_fuse_one {s : State} (hi : s.Issues .fuse) (h : s.ctx.num = 0) (ho : ∀ x ∈ s.core.others, x.live = false)
    (hg : s.core.regs.gangsz ≤ 1) : exec .fuse s = .next s.done := by
  refine perform_ok hi ?_
  simp only [Op.bind_run, Op.gangWord_ok h ho, Op.answered, Op.get_run, Op.ite_run, hg, decide_true, Bool.true_or, if_true,
    Op.pure_run]

/-- The core in focus has come to its FUSE. -/
def State.atFuse (s : State) : State := { s with core := { s.core with fuseAt := some s.ctx.pc } }

theorem State.findCore_atFuse {s : State} {id : CoreId} (h : id ≠ s.core.id) : s.atFuse.findCore id = s.findCore id := by
  simp [State.atFuse, State.findCore, State.cores, h.symm]

theorem State.mem_gang {s : State} {c m : LCore} : m ∈ s.gang c ↔
    ∃ i < c.regs.gangsz, s.findCore ⟨c.id.task, c.regs.lcore - c.regs.gangix + i, c.id.copy⟩ = some m := by
  simp [State.gang]

/-- Another member that has not come to its FUSE holds the gang up. -/
theorem State.atFuse_waits {s : State} (h : ∃ id ∈ s.members, id ≠ s.core.id ∧ ∀ c, s.findCore id = some c → c.fuseAt = none) :
    ((s.atFuse.gang s.atFuse.core).any fun m => m.fuseAt.isNone) = true := by
  obtain ⟨id, hid, hne, hnone⟩ := h
  obtain ⟨m, hm, rfl⟩ := List.mem_map.mp hid
  obtain ⟨i, hlt, hf⟩ := State.mem_gang.mp hm
  have hmid := State.id_of_findCore hf
  have hm' : m ∈ s.atFuse.gang s.atFuse.core := by
    refine State.mem_gang.mpr ⟨i, hlt, ?_⟩
    refine (State.findCore_atFuse ?_).trans hf
    exact hmid ▸ hne
  exact List.any_eq_true.mpr ⟨m, hm', by rw [hnone m (hmid ▸ hf)]; rfl⟩

/-- FUSE of a member of a split gang, in the state in which it has come to its FUSE. -/
def Op.fuseHere : Op Exit := do
  let s ← get
  if (s.gang s.core).any fun m => m.fuseAt.isNone then Op.block
  else
    let t := s.fuseAll
    if t.core.fused then
      set t
      pure .next
    else
      set t
      pure .set

/-- A word that issues is what its body does in the state in which it issues. -/
theorem perform_congr {i : Instr} {body body' : Op Exit} {s : State} (h : s.Issues i) (hb : body s = body' s) :
    perform i body s = perform i body' s := by
  rw [perform_issues i body s h, perform_issues i body' s h, hb]

theorem perform_fuse {s : State} (hi : s.Issues .fuse) (h : s.ctx.num = 0) (ho : ∀ x ∈ s.core.others, x.live = false)
    (hg : 1 < s.core.regs.gangsz) (hf : s.core.fused = false) (ha : s.core.fuseAt = none) :
    exec .fuse s = perform .fuse (fun _ => Op.fuseHere s.atFuse) s := by
  have hsplit : (decide (s.core.regs.gangsz ≤ 1) || s.core.fused) = false := by
    rw [decide_eq_false (Nat.not_le.mpr hg), hf, Bool.or_self]
  have hfirst : s.core.fuseAt.isSome = false := by rw [ha, Option.isSome_none]
  refine perform_congr hi ?_
  simp only [Op.bind_run, Op.gangWord_ok h ho, Op.answered, Op.get_run, Op.ite_run, hsplit, hfirst, Bool.false_eq_true, if_false,
    Op.set_run, Op.fuseHere]
  rfl

theorem perform_block {i : Instr} {body : Op Exit} {s t : State} (h : s.Issues i) (hb : body s = .error (.block t)) :
    perform i body s = .next t.retreat := by
  rw [perform_issues i body s h, hb]

theorem exec_fuse_waits {s : State} (hi : s.Issues .fuse) (h : s.ctx.num = 0) (ho : ∀ x ∈ s.core.others, x.live = false)
    (hg : 1 < s.core.regs.gangsz) (hf : s.core.fused = false) (ha : s.core.fuseAt = none)
    (hm : ∃ id ∈ s.members, id ≠ s.core.id ∧ ∀ c, s.findCore id = some c → c.fuseAt = none) :
    exec .fuse s = .next s.atFuse.retreat := by
  rw [perform_fuse hi h ho hg hf ha]
  refine perform_block hi ?_
  simp only [Op.fuseHere, Op.bind_run, Op.get_run, Op.answered, Op.ite_run, State.atFuse_waits hm, if_true, Op.block_run]

/-! ### HALT (R184) -/

theorem exec_halt_task {s : State} (hi : s.Issues .halt) (hs : s.ctx.supervisor = false) : exec .halt s =
    .next (s.takeTrap (Trap.plain cPRIV (Word.ofN s.ctx.pc.toNat) (wordInfo s.ctx.revn ((encode .halt).getD 0)))) := by
  refine performNext_trap hi ?_
  simp only [Op.bind_run, Op.ctx_run, Op.answered, Op.ite_run, hs, Bool.not_false, if_true, Op.privTrap_run]

theorem exec_halt_completes {s : State} (hi : s.Issues .halt) (hs : s.ctx.supervisor = true) (ht : s.ctx.ti = true)
    (he : s.ctx.enabledEvents ≠ 0) : exec .halt s = .next s.done := by
  have hready : (decide (s.ctx.enabledEvents ≠ 0) && s.ctx.ti) = true := by rw [decide_eq_true he, ht, Bool.and_self]
  refine performNext_ok hi ?_
  simp only [Op.bind_run, Op.ctx_run, Op.answered, Op.ite_run, hs, Bool.not_true, Bool.false_eq_true, if_false, Op.need_run, hready,
    if_true]

theorem exec_halt_waits {s : State} (hi : s.Issues .halt) (hs : s.ctx.supervisor = true) (he : s.ctx.enabledEvents = 0) :
    exec .halt s = .next s.standStill := by
  refine performNext_stall hi ?_
  simp [hs, he]

/-! ### SPIN (R139) -/

theorem exec_spin_frame {s : State} {a : BitVec 6} (hi : s.Issues (.spin a)) (ha : s.CanRead a) :
    ∃ t, exec (.spin a) s = .next t ∧ t.ctx.pc = s.ctx.pc + 4 ∧ t.ctx.g = s.ctx.g := by
  cases hw : s.spinHeld a with
  | none => exact ⟨_, exec_spin_passes hi ha hw, rfl, rfl⟩
  | some w => exact ⟨_, exec_spin_waits hi ha hw, rfl, rfl⟩

end Sys2Proof.Machine

open Sys2Proof Sys2Proof.Machine in
/-- Settles O21: each word by the condition of its rule; the hints and prefixes by what O14 says of them. -/
theorem contextWords : Obligations.ContextWords := by
  unfold Obligations.ContextWords
  refine ⟨fun s => exec_endCtx_ends, fun s => exec_endCtx_pending, fun s hi ho => ?_, fun s hi x hx hl hw => ?_,
    fun s => exec_split_solo, fun s => exec_fuse_one, fun s => exec_fuse_waits,
    fun s h => ⟨fun hi => exec_split_helper hi h, fun hi => exec_fuse_helper hi h⟩,
    fun s hi hs => ⟨_, exec_halt_task hi hs, (wordInfo_fields _ (by decide)).1⟩, fun s => exec_halt_completes,
    fun s => exec_halt_waits, fun s n hi => ⟨_, exec_prio hi, rfl, rfl, rfl⟩, fun s hi => ⟨_, exec_rev_one hi, rfl, rfl, rfl⟩,
    fun s k p => exec_hnop, fun s a => exec_spin_frame, fun s hl hw hg => ⟨fun b => ?_, ?_⟩⟩
  · refine exec_yield_alone hi ?_
    rw [LCore.readyOthers, List.map_eq_nil_iff, List.filter_eq_nil_iff]
    exact fun x hx => by simp [ho x hx]
  · have hmem : x.num ∈ s.core.readyOthers := List.mem_map_of_mem (List.mem_filter.mpr ⟨hx, by simp [hl, hw]⟩)
    exact ⟨_, hmem, exec_yield_waits hi (List.ne_nil_of_mem hmem)⟩
  · refine ⟨_, _, exec_likely_alone b hl hw hg, rfl, fun h => ?_, rfl, rfl⟩
    simp [Ctx.group_of_none h, Pfx.addLikely]
  · exact ⟨_, _, exec_nofold_alone hl hw hg, rfl, Pfx.addNofold_nofold _, rfl, rfl⟩
end

section
/-! O31. OBJINV, TOUCH, EINJ and DIGEST: the reference that each reads, and the cache, the check, the flips or the chain that
it names. -/

namespace Sys2Proof.Machine

/-! ### OBJINV (R185, R261) -/

/-- The entries loaded from a device-private address leave the object caches of a scope. -/
def State.objectInvalidated (s : State) (sc : Scope) (addr : Nat) : State :=
  { s with unc := { s.unc with objectCache := s.unc.objectCache.filter fun e =>
    !(e.addr = addr && (4 ≤ sc.num || dieOf e.slot = dieOf s.core.slot)) } }

/-- A word that task mode refuses traps PRIV with itself in EINFO (R397, R399). -/
theorem performNext_priv {i : Instr} {body : Op Unit} {s : State} (hi : s.Issues i) (hfits : Laws.FitsWord.Statement i)
    (hb : body s = (Op.privTrap i : Op Unit) s) : ∃ info : Word,
    performNext i body s = .next (s.takeTrap (Trap.plain cPRIV (Word.ofN s.ctx.pc.toNat) info)) ∧ info.bits 63 62 = 2 := by
  rw [Op.privTrap_run] at hb
  refine ⟨_, performNext_trap hi hb, (wordInfo_fields _ ?_).1⟩
  cases he : encode i with
  | none => decide
  | some w => exact hfits w he

section
variable {s : State} {a : BitVec 6} {sc : Scope} (hi : s.Issues (.objinv a sc))
include hi

theorem exec_objinv_task (hs : s.ctx.supervisor = false) : ∃ info : Word,
    exec (.objinv a sc) s = .next (s.takeTrap (Trap.plain cPRIV (Word.ofN s.ctx.pc.toNat) info)) ∧ info.bits 63 62 = 2 := by
  refine performNext_priv hi (Laws.FitsWord.objinv a sc) ?_
  simp only [Op.bind_run, Op.get_run, Op.answered, Op.ite_run, hs, Bool.not_false, if_true]

variable (hs : s.ctx.supervisor = true) (ha : s.CanRead a)
include hs ha

theorem exec_objinv (hw : (decide (sc.num < 4) || !s.shooting (s.G a).toNat) = true) :
    exec (.objinv a sc) s = .next (s.objectInvalidated sc (s.G a).toNat).done := by
  refine performNext_ok hi ?_
  simp only [Op.bind_run, Op.get_run, Op.answered, Op.ite_run, hs, Bool.not_true, Bool.false_eq_true, if_false, Op.readG_run s a ha,
    Op.need_run, hw, if_true, Op.set_run]
  rfl

theorem exec_objinv_waits (hw : (decide (sc.num < 4) || !s.shooting (s.G a).toNat) = false) :
    exec (.objinv a sc) s = .next s.standStill := by
  refine performNext_stall hi ?_
  simp only [Op.bind_run, Op.get_run, Op.answered, Op.ite_run, hs, Bool.not_true, Bool.false_eq_true, if_false, Op.readG_run s a ha,
    Op.need_run, hw, Op.halted]
end

/-! ### The core's own local memory (R26, R119) -/

section
variable {s : State} {ref : Word} {n : Nat} (hh : refHandle ref = 0) (hb : refOffset ref + n ≤ 0x100000)
include hh hb

/-- At or above XBOUND, a reference of handle 0 names the core's own local memory. -/
theorem Op.localTarget_own (hx : s.core.xbound.toNat ≤ refOffset ref) (scope kind : Nat) :
    Op.localTarget (s.self scope) (coreAcc ref n kind) true s = .ok ((s.core.id, refOffset ref), s) := by
  have hf : s.findCore (s.self scope).core = some s.core := s.findCore_self
  simp only [Op.localTarget, Op.bind_run, Op.get_run, Op.answered, hf, coreAcc, hh, if_true]
  simp [State.self, Nat.not_lt.mpr hb, Nat.not_lt.mpr hx]

/-- Below XBOUND, a data access traps XDATA. -/
theorem Op.localTarget_code (hx : refOffset ref < s.core.xbound.toNat) (scope kind : Nat) :
    Op.localTarget (s.self scope) (coreAcc ref n kind) true s =
      Op.accTrap cXDATA (coreAcc ref n kind) 0 s := by
  have hf : s.findCore (s.self scope).core = some s.core := s.findCore_self
  simp only [Op.localTarget, Op.bind_run, Op.get_run, Op.answered, hf, coreAcc, hh, if_true]
  simp [State.self, Nat.not_lt.mpr hb, hx]
end

/-! ### TOUCH (R183) -/

theorem exec_touch {s : State} {d a : BitVec 6} {cause : Nat} (hi : s.Issues (.touch d a)) (ha : s.CanRead a) (hd : s.CanWrite d)
    (hc : Op.loadCause (s.G a) s = .ok ((cause, none), s)) : exec (.touch d a) s = .next (s.doneG d (Word.ofN cause)) := by
  refine performNext_ok hi ?_
  simp only [Op.bind_run, Op.readG_run s a ha, Op.freeG_run s d hd, Op.answered, hc, Op.writeG_run s d _ hd]

theorem Op.loadCause_local {s : State} {ref : Word} (h : s.LocalOk ref 1) : Op.loadCause ref s = .ok ((0, none), s) := by
  have hh : refHandle ref ≤ 1 := h.1.trans_le (Nat.zero_le 1)
  simp only [Op.loadCause, Op.bind_run, Op.get_run, Op.answered, Op.checkAccess_local h, Op.set_run, hh, if_true,
    Op.pure_run]

theorem Op.discard_error {op : Op α} {s : State} {h : Halt} (hop : op s = .error h) : (discard op : Op PUnit) s = .error h := by
  change StateT.map (Function.const α PUnit.unit) op s = _
  rw [StateT.map, hop]
  rfl

theorem Op.loadCause_code {s : State} {ref : Word} (har : s.ctx.ar = false) (hh : refHandle ref = 0)
    (hx : refOffset ref < s.core.xbound.toNat) (hb : refOffset ref < 0x100000) :
    Op.loadCause ref s = .ok ((cXDATA, none), s) := by
  have hcheck : Op.checkAccess (s.self 0) (coreAcc ref 1 5) rightR s =
      .error (.trap (Trap.plain cXDATA ref ((coreAcc ref 1 5).info 0))) := by
    have hh1 : refHandle (coreAcc ref 1 5).ref ≤ 1 := hh.trans_le (Nat.zero_le 1)
    have hs : s.inSpill (s.self 0) (coreAcc ref 1 5).ref = false := by simp [State.inSpill, har]
    refine (Op.bind_ok (Op.get_run s)).trans ?_
    rw [if_pos hh1, hs, if_neg Bool.false_ne_true]
    exact Op.discard_error (Op.localTarget_code (n := 1) hh (Nat.succ_le_of_lt hb) hx 0 5)
  simp only [Op.loadCause, Op.bind_run, Op.get_run, Op.answered, hcheck]
  rfl

/-! ### EINJ (R186) -/

theorem NatMap.get_erase_self {α : Type} (m : NatMap α) (k : Nat) : NatMap.get (NatMap.erase m k) k = none := by
  simp [NatMap.get, NatMap.erase]

theorem NatMap.get_set_self {α : Type} (m : NatMap α) (k : Nat) (v : α) : NatMap.get (NatMap.set m k v) k = some v := by
  induction m with
  | nil => simp [NatMap.get, NatMap.set]
  | cons e m ih =>
    obtain ⟨j, w⟩ := e
    rw [NatMap.set]
    split_ifs with hlt heq
    · simp [NatMap.get]
    · simp [NatMap.get]
    · simpa [NatMap.get, Ne.symm heq] using ih

/-- The flipped bits of a word change by the mask. -/
theorem LCore.get_flip (c : LCore) (n : Nat) (mask : Word) :
    (NatMap.get (c.flip n mask).lmFlips n).getD 0 = (NatMap.get c.lmFlips n).getD 0 ^^^ mask := by
  simp only [LCore.flip]
  split
  · next h => rw [NatMap.get_erase_self, Option.getD_none, h]
  · rw [NatMap.get_set_self, Option.getD_some]

section
variable {s : State} {c a : BitVec 6} {tier : Tier}

theorem exec_einj_task (hi : s.Issues (.einj c a tier)) (hs : s.ctx.supervisor = false)
    (hinj : s.ctx.sys.injen.getLsbD 0 = false) : ∃ info : Word,
    exec (.einj c a tier) s = .next (s.takeTrap (Trap.plain cPRIV (Word.ofN s.ctx.pc.toNat) info)) ∧ info.bits 63 62 = 2 := by
  refine performNext_priv hi (Laws.FitsWord.einj c a tier) ?_
  simp only [Op.bind_run, Op.get_run, Op.answered, Op.ite_run, hs, hinj, Bool.not_false, Bool.and_self, if_true]

theorem exec_einj_local (hi : s.Issues (.einj c a .lm)) (hs : s.ctx.supervisor = true ∨ s.ctx.sys.injen.getLsbD 0 = true)
    (hc : s.CanRead c) (ha : s.CanRead a) (hh : refHandle (s.G a) = 0) (hb : refOffset (s.G a) + 8 ≤ 0x100000)
    (hx : s.core.xbound.toNat ≤ refOffset (s.G a)) :
    exec (.einj c a .lm) s = .next (State.done { s with core := s.core.flip (refOffset (s.G a) / 8) (s.G c) }) := by
  have hmode : (!s.ctx.supervisor && !s.ctx.sys.injen.getLsbD 0) = false := by
    obtain h | h := hs <;> rw [h] <;> simp
  have hh1 : refHandle (s.G a) ≤ 1 := hh.trans_le (Nat.zero_le 1)
  refine performNext_ok hi ?_
  simp only [Op.bind_run, Op.get_run, Op.answered, Op.ite_run, hmode, Bool.false_eq_true, if_false, Op.readG_run s c hc,
    Op.readG_run s a ha, hh1, if_true, Op.localTarget_own hh hb hx 0 5, ne_eq, not_true_eq_false, Op.modify_run, State.mapCore]
end

/-! ### DIGEST (R446) -/

/-- The queue whose chain DIGEST reads: its own, or in supervisor mode the one that a register names. -/
def State.DigestQueue (s : State) (r : BitVec 6) (q : Nat) : Prop :=
  s.ctx.supervisor = false ∧ q = s.core.regs.queue.toNat ∨ s.ctx.supervisor = true ∧ s.CanRead r ∧ q = (s.G r).bits 5 0

theorem Op.digestQueue_run {s : State} {r : BitVec 6} {q : Nat} (h : s.DigestQueue r q) : Op.digestQueue r s = .ok (q, s) := by
  obtain ⟨hs, rfl⟩ | ⟨hs, hr, rfl⟩ := h
  · simp only [Op.digestQueue, Op.bind_run, Op.get_run, Op.answered, Op.ite_run, hs, Bool.false_eq_true, if_false, Op.pure_run]
  · simp only [Op.digestQueue, Op.bind_run, Op.get_run, Op.answered, Op.ite_run, hs, if_true, Op.readG_run s r hr, Op.pure_run]

section
variable {s : State} {d : BitVec 5} {a : BitVec 6} {q : Nat} (hi : s.Issues (.digest d a)) (ha : s.CanRead a)
  (h63 : (s.ctx.supervisor && decide (a = 63)) = false) (hq : s.DigestQueue (a + 1) q)
include hi ha h63 hq

theorem exec_digest_passed (hd : s.VReady d) (hn : (s.G a).toNat ≤ (s.chain q).folded.toNat) : exec (.digest d a) s =
    .next (State.done ((s.setCtx (s.ctx.setV d.toNat (BitVec.ofNat 256 (valueOf (s.chain q).value)))).acquireCluster
      (clusterOf s.core.slot))) := by
  refine performNext_ok hi ?_
  simp only [Op.bind_run, Op.get_run, Op.answered, Op.ite_run, h63, Bool.false_eq_true, if_false, Op.readG_run s a ha,
    Op.digestQueue_run hq, Op.need_run, hn, decide_true, if_true, Op.writeV_run s d _ hd]
  rfl

theorem exec_digest_waits (hn : (s.chain q).folded.toNat < (s.G a).toNat) : exec (.digest d a) s = .next s.standStill := by
  refine performNext_stall hi ?_
  simp only [Op.bind_run, Op.get_run, Op.answered, Op.ite_run, h63, Bool.false_eq_true, if_false, Op.readG_run s a ha,
    Op.digestQueue_run hq, Op.need_run, Nat.not_le.mpr hn, decide_false, Op.halted]
end

theorem exec_digestN {s : State} {d a : BitVec 6} {q : Nat} (hi : s.Issues (.digestN d a)) (hd : s.CanWrite d)
    (hq : s.DigestQueue a q) : exec (.digestN d a) s = .next (s.doneG d (s.chain q).folded) := by
  refine performNext_ok hi ?_
  simp only [Op.bind_run, Op.digestQueue_run hq, Op.answered, Op.get_run, Op.writeG_run s d _ hd]

end Sys2Proof.Machine

open Sys2Proof Sys2Proof.Machine in
/-- Settles O31: each word by its mode check and by what its reference or queue names. -/
theorem systemMemoryWords : Obligations.SystemMemoryWords := by
  unfold Obligations.SystemMemoryWords
  refine ⟨fun s a sc hi hs ha hw => exec_objinv hi hs ha ?_, fun s a sc hi hs ha h4 hw => exec_objinv_waits hi hs ha ?_,
    fun s a sc => exec_objinv_task, fun s d a hi ha hd hl => exec_touch hi ha hd (Op.loadCause_local hl),
    fun s d a hi ha hd har hh hx hb => exec_touch hi ha hd (Op.loadCause_code har hh hx hb),
    fun s c a hi hs hc ha hh hb hx => ⟨exec_einj_local hi hs hc ha hh hb hx, fun n => LCore.get_flip _ _ _⟩,
    fun s c a tier => exec_einj_task, fun s d a q hi ha hd hq => ?_,
    fun s d a hi hd => ⟨fun hs => exec_digestN hi hd (.inl ⟨hs, rfl⟩), fun hs ha => exec_digestN hi hd (.inr ⟨hs, ha, rfl⟩)⟩⟩
  · by_cases h : 4 ≤ sc.num
    · rw [hw h, Bool.not_false, Bool.or_true]
    · rw [decide_eq_true (Nat.not_le.mp h), Bool.true_or]
  · rw [decide_eq_false (Nat.not_lt.mpr h4), hw, Bool.not_true, Bool.or_self]
  · have h63 : (s.ctx.supervisor && decide (a = 63)) = false := by
      obtain ⟨hs, -⟩ | ⟨-, hne, -⟩ := hq
      · rw [hs, Bool.false_and]
      · rw [decide_eq_false hne, Bool.and_false]
    have hq' : s.DigestQueue (a + 1) q := hq.imp id fun ⟨hs, _, hr, heq⟩ => ⟨hs, hr, heq⟩
    exact ⟨exec_digest_passed hi ha h63 hq' hd, exec_digest_waits hi ha h63 hq'⟩
end

section
/-! SUPPORT of O60. Who sits in the logical cores, and which of them run fused, is left as it was by everything that the hardware
does at a trap: its own reads and writes, the directory and the caches they go through, and the end of a task. -/

namespace Sys2Proof.Machine

variable {α β : Type}

/-- The logical cores by name, each with whether it runs fused, the one in focus first. -/
def State.seats (s : State) : List (CoreId × Bool) := s.cores.map fun c => (c.id, c.fused)

@[simp] theorem State.seats_unc (s : State) (u) : State.seats { s with unc := u } = s.seats := rfl

@[simp] theorem State.seats_ite (c : Prop) [Decidable c] (s t : State) :
    (if c then s else t).seats = if c then s.seats else t.seats := apply_ite ..

theorem State.seats_foldl {f : State → α → State} (h : ∀ s a, (f s a).seats = s.seats) (l : List α) (s : State) :
    (l.foldl f s).seats = s.seats := by
  induction l generalizing s with
  | nil => rfl
  | cons a l ih => exact (ih _).trans (h s a)

theorem State.seats_mapCores {f : LCore → LCore} (h : ∀ c, (f c).id = c.id ∧ (f c).fused = c.fused) (s : State) :
    (s.mapCores f).seats = s.seats := by
  simp [State.seats, State.mapCores, State.cores, h]

/-! ### The packages' tables -/

@[simp] theorem State.seats_mapDie (s : State) (d : Nat) (f) : (s.mapDie d f).seats = s.seats := by
  unfold State.mapDie; split <;> rfl
@[simp] theorem State.seats_mapQueue (s : State) (q : Nat) (f) : (s.mapQueue q f).seats = s.seats := by
  unfold State.mapQueue; split <;> rfl
@[simp] theorem State.seats_mapChain (s : State) (q : Nat) (f) : (s.mapChain q f).seats = s.seats := by
  unfold State.mapChain; split <;> rfl
@[simp] theorem State.seats_mapTask (s : State) (r : Word) (f) : (s.mapTask r f).seats = s.seats := rfl
@[simp] theorem State.seats_forgetTcbs (s : State) (tag : Nat) : (s.forgetTcbs tag).seats = s.seats := rfl
@[simp] theorem State.seats_tell (s : State) (p) (line : Nat) (m) : (s.tell p line m).seats = s.seats := rfl
@[simp] theorem State.seats_countCorrected (s : State) (d tier : Nat) : (s.countCorrected d tier).seats = s.seats := by
  simp [State.countCorrected]
@[simp] theorem State.seats_telemetry (s : State) (d : Nat) (w0 w1 w2 : Word) : (s.telemetry d w0 w1 w2).seats = s.seats := by
  simp [State.telemetry]
@[simp] theorem State.seats_logError (s : State) (d severity tier action slot tensor : Nat) (ref : Word)
    (parity layout strong subst queue : Nat) :
    (s.logError d severity tier action slot tensor ref parity layout strong subst queue).seats = s.seats :=
  State.seats_telemetry ..
@[simp] theorem State.seats_logSector (s : State) (r) (off : Nat) (x) (sev action : Nat) :
    (s.logSector r off x sev action).seats = s.seats := State.seats_logError ..
@[simp] theorem State.seats_tellAll (s : State) (ps) (line : Nat) (m) : (s.tellAll ps line m).seats = s.seats :=
  State.seats_foldl (fun t p => State.seats_tell t p line m) ps s

/-! ### The banks -/

@[simp] theorem State.seats_repairSector (s : State) (sec : Nat) : (s.repairSector sec).seats = s.seats := rfl
@[simp] theorem State.seats_settleSector (s : State) (x) : (s.settleSector x).seats = s.seats := by
  rw [State.settleSector, State.seats_repairSector, State.seats_unc]
@[simp] theorem State.seats_settled (s : State) (r) (off addr n : Nat) : (s.settled r off addr n).seats = s.seats :=
  State.seats_foldl State.seats_settleSector _ s
@[simp] theorem State.seats_mscHold (s : State) (tag : Nat) : (s.mscHold tag).seats = s.seats := by
  unfold State.mscHold
  split
  · rfl
  · simp only [State.seats_unc, State.seats_ite]
    split
    · rfl
    · split <;> rfl
@[simp] theorem State.seats_bankWrite (s : State) (tag : Nat) (mask) (data) : (s.bankWrite tag mask data).seats = s.seats :=
  State.seats_mscHold s tag

/-! ### The cluster caches -/

@[simp] theorem State.seats_putLine (s : State) (l : CacheLine) : (s.putLine l).seats = s.seats := rfl
@[simp] theorem State.seats_wakeLine (s : State) (cl tag : Nat) : (s.wakeLine cl tag).seats = s.seats := by
  refine State.seats_mapCores (fun c => ?_) s
  split <;> exact ⟨rfl, rfl⟩
@[simp] theorem State.seats_evictLine (s : State) (cl tag : Nat) : (s.evictLine cl tag).seats = s.seats := State.seats_wakeLine ..
@[simp] theorem State.seats_writeBack (s : State) (l : CacheLine) : (s.writeBack l).seats = s.seats := by
  unfold State.writeBack
  split
  · rfl
  · exact State.seats_bankWrite s l.tag l.dirty l.data
@[simp] theorem State.seats_cleanLine (s : State) (cl tag : Nat) : (s.cleanLine cl tag).seats = s.seats := by
  unfold State.cleanLine
  split <;> simp
@[simp] theorem State.seats_releaseCluster (s : State) (cl : Nat) : (s.releaseCluster cl).seats = s.seats :=
  State.seats_foldl (fun t tag => State.seats_cleanLine t cl tag) _ s

/-! ### The directory -/

@[simp] theorem State.seats_putEntry (s : State) (e : DirEntry) : (s.putEntry e).seats = s.seats := rfl
@[simp] theorem State.seats_putTx (s : State) (tx : DirTx) : (s.putTx tx).seats = s.seats := rfl
@[simp] theorem State.seats_dirStart (s : State) (q) (own : Bool) (tag : Nat) : (s.dirStart q own tag).seats = s.seats :=
  State.seats_tellAll ..
@[simp] theorem State.seats_bankRelease (s : State) (tag : Nat) : (s.bankRelease tag).seats = s.seats := by
  simp [State.bankRelease]
@[simp] theorem State.seats_askHome (s : State) (q) (own : Bool) (tag : Nat) : (s.askHome q own tag).seats = s.seats := by
  simp [State.askHome]
@[simp] theorem State.seats_countRecall (s : State) : s.countRecall.seats = s.seats := rfl
@[simp] theorem State.seats_dirFinish (s : State) (tx : DirTx) : (s.dirFinish tx).seats = s.seats := rfl
@[simp] theorem State.seats_dirInvalidateOne (s : State) (tx : DirTx) (c : Nat) : (s.dirInvalidateOne tx c).seats = s.seats := by
  simp [State.dirInvalidateOne]
@[simp] theorem State.seats_dirPutLine (s : State) (c tag : Nat) : (s.dirPutLine c tag).seats = s.seats := by
  unfold State.dirPutLine
  split <;> simp
@[simp] theorem State.seats_giveLine (s : State) (l : CacheLine) : (s.giveLine l).seats = s.seats := by
  simp [State.giveLine]
@[simp] theorem State.seats_clusterRoom (s : State) (cl tag : Nat) : (s.clusterRoom cl tag).seats = s.seats := by
  unfold State.clusterRoom
  dsimp only
  split
  · rfl
  · split <;> simp
@[simp] theorem State.seats_dirForward (s : State) (tx : DirTx) : (s.dirForward tx).seats = s.seats := by
  unfold State.dirForward
  split
  · rfl
  · split <;> simp
@[simp] theorem State.seats_upgradeLine (s : State) (c tag : Nat) : (s.upgradeLine c tag).seats = s.seats := by
  unfold State.upgradeLine
  dsimp only
  split
  all_goals
    simp only [State.seats_ite, State.seats_putTx, State.seats_putEntry, ite_self]
    split <;> rfl
@[simp] theorem State.seats_dirGrantLine (s : State) (tx : DirTx) : (s.dirGrantLine tx).seats = s.seats := by
  unfold State.dirGrantLine
  dsimp only
  rw [State.seats_putTx]
  split
  · split <;> simp
  all_goals simp

/-- What is done with the transaction under way on a line. -/
def State.atTx (s : State) (tag : Nat) (f : DirTx → State) : State :=
  match s.findTx tag with
  | some tx => f tx
  | none => s

theorem State.seats_atTx {s : State} {tag : Nat} {f : DirTx → State} (h : ∀ tx, (f tx).seats = s.seats) :
    (s.atTx tag f).seats = s.seats := by
  unfold State.atTx
  split
  · exact h _
  · rfl

theorem State.dirComplete_eq (s : State) (tag : Nat) : s.dirComplete tag =
    let forwarded := s.atTx tag s.dirForward
    let alone := forwarded.atTx tag fun tx =>
      tx.invalidate.foldl (fun t c => t.atTx tag fun tx => t.dirInvalidateOne tx c) forwarded
    let granted := alone.atTx tag fun tx => if tx.granted then alone else alone.dirGrantLine tx
    granted.atTx tag granted.dirFinish := rfl

@[simp] theorem State.seats_dirComplete (s : State) (tag : Nat) : (s.dirComplete tag).seats = s.seats := by
  rw [State.dirComplete_eq]
  refine (State.seats_atTx fun tx => State.seats_dirFinish _ tx).trans ?_
  refine (State.seats_atTx fun tx => by simp).trans ?_
  refine (State.seats_atTx fun tx => State.seats_foldl (fun t c => ?_) _ _).trans (State.seats_atTx s.seats_dirForward)
  exact State.seats_atTx fun tx => t.seats_dirInvalidateOne tx c

@[simp] theorem State.seats_recallEntry (s : State) (e : DirEntry) : (s.recallEntry e).seats = s.seats := by
  unfold State.recallEntry
  dsimp only
  rw [State.seats_unc]
  simp only [State.seats_ite, State.seats_tell, State.seats_tellAll, ite_self]
  refine (State.seats_foldl (fun t c => ?_) _ _).trans (by simp)
  split <;> simp
@[simp] theorem State.seats_giveUp (s : State) (c tag : Nat) : (s.giveUp c tag).seats = s.seats := by
  simp [State.giveUp]
theorem State.seats_dirRoom {s t : State} {tag : Nat} (h : s.dirRoom tag = some t) : t.seats = s.seats := by
  unfold State.dirRoom at h
  dsimp only at h
  split at h
  · rw [Option.some.inj h]
  · split at h
    · rw [Option.some.inj h]
    · split at h
      · rw [← Option.some.inj h, State.seats_countRecall, State.seats_recallEntry]
      · cases h

/-! ### Errors found -/

@[simp] theorem State.seats_invalidateBad (s : State) (h : Held) : (s.invalidateBad h).seats = s.seats := by
  unfold State.invalidateBad
  dsimp only
  split
  · split <;> simp
  · split <;> simp
  · simp
  · simp
    split <;> simp
@[simp] theorem State.seats_rewrite (s : State) (h : Held) (i fixed : Nat) : (s.rewrite h i fixed).seats = s.seats := by
  unfold State.rewrite
  dsimp only
  split
  · split <;> rfl
  · split <;> rfl
  · rfl
  · split <;> rfl

/-! ### Operations -/

/-- Where the operation answers, everyone sits as before. -/
structure Op.KeepsSeats (op : Op α) (s : State) : Prop where
  same : ∀ a t, op s = .ok (a, t) → t.seats = s.seats

namespace Op.KeepsSeats

theorem of_ok {op : Op α} {s t : State} {a : α} (h : op s = .ok (a, t)) (ht : t.seats = s.seats) : op.KeepsSeats s where
  same b u hb := by
    cases h.symm.trans hb
    exact ht

theorem of_error {op : Op α} {s : State} {e : Halt} (h : op s = .error e) : op.KeepsSeats s where
  same b u hb := by cases h.symm.trans hb

theorem of_readsOnly {op : Op α} (h : op.ReadsOnly) (s : State) : op.KeepsSeats s where
  same a t ha := by rw [h.same s a t ha]

theorem pure (a : α) (s : State) : (Pure.pure a : Op α).KeepsSeats s := of_ok rfl rfl

theorem stall (s : State) : (Op.stall : Op α).KeepsSeats s := of_error rfl

theorem block (s : State) : (Op.block : Op α).KeepsSeats s := of_error rfl


theorem of_modify {f : State → State} {s : State} (h : (f s).seats = s.seats) : (modify f : Op PUnit).KeepsSeats s :=
  of_ok rfl h

theorem bind {op : Op α} {rest : α → Op β} {s : State} (h : op.KeepsSeats s)
    (hr : ∀ a t, op s = .ok (a, t) → (rest a).KeepsSeats t) : (op >>= rest).KeepsSeats s where
  same b u hb := by
    rw [Op.bind_run] at hb
    cases ho : op s with
    | error e => rw [ho] at hb; cases hb
    | ok out =>
      rw [ho] at hb
      exact ((hr _ _ ho).same b u hb).trans (h.same _ _ ho)

theorem get_bind {rest : State → Op β} {s : State} (h : (rest s).KeepsSeats s) : (get >>= rest).KeepsSeats s where
  same := h.same

theorem set_bind {rest : PUnit → Op β} {s t : State} (h : t.seats = s.seats) (hr : (rest ⟨⟩).KeepsSeats t) :
    ((MonadStateOf.set t : Op PUnit) >>= rest).KeepsSeats s where
  same b u hb := (hr.same b u hb).trans h

theorem need_bind {b : Bool} {rest : Unit → Op β} {s : State} (h : (rest ()).KeepsSeats s) :
    (Op.need b >>= rest).KeepsSeats s := by
  cases b
  · exact of_error rfl
  · exact ⟨h.same⟩

theorem ite {c : Prop} [Decidable c] {yes no : Op α} {s : State} (hy : yes.KeepsSeats s) (hn : no.KeepsSeats s) :
    (if c then yes else no).KeepsSeats s := by
  split
  · exact hy
  · exact hn

theorem of_discard {op : Op α} {s : State} (h : op.KeepsSeats s) : (discard op : Op PUnit).KeepsSeats s :=
  h.bind fun _ t _ => pure _ t

theorem forEach {f : α → Op Unit} (h : ∀ a s, (f a).KeepsSeats s) (l : List α) (s : State) : (Op.forEach f l).KeepsSeats s := by
  induction l generalizing s with
  | nil => exact pure () s
  | cons a l ih => exact (h a s).bind fun _ t _ => ih t

theorem then_pure {op : Op α} {f : α → β} {s : State} (h : op.KeepsSeats s) : (op >>= fun a => Pure.pure (f a)).KeepsSeats s :=
  h.bind fun _ t _ => pure _ t

end Op.KeepsSeats

/-! ### The hardware's own accesses -/

/-- A wait for a line never answers. -/
theorem Op.dirWait_ne_ok (q : Requester) (own : Bool) (tag : Nat) (s : State) (out : α × State) :
    (Op.dirWait q own tag : Op α) s ≠ .ok out := by
  simp only [Op.dirWait, Op.bind_run, Op.get_run, Op.answered, Op.need_run]
  split <;> simp

theorem Op.keeps_dirRequest (q : Requester) (own : Bool) (tag : Nat) (s : State) : (Op.dirRequest q own tag).KeepsSeats s := by
  have hroom : (match s.dirRoom tag with
      | none => Op.stall
      | some u => do
        set ((u.dirStart q own tag).dirComplete tag)
        Pure.pure none : Op (Option Nat)).KeepsSeats s := by
    split
    · exact .stall s
    · next u hu => exact .set_bind (by rw [State.seats_dirComplete, State.seats_dirStart, State.seats_dirRoom hu]) (.pure _ _)
  refine .get_bind (.ite ?has (.ite ?turn (.need_bind (.ite (.pure _ _) (.ite ?busy (.need_bind (.ite ?proxy ?start)))))))
  case has =>
    split
    · exact .ite (.set_bind (State.seats_upgradeLine ..) (.pure _ _)) (.pure _ _)
    · exact .pure _ _
  case turn => exact .need_bind (.set_bind (State.seats_dirComplete s tag) (.pure _ _))
  case busy => exact .bind ⟨fun _ _ h => (Op.dirWait_ne_ok _ _ _ _ _ h).elim⟩ fun _ _ h => (Op.dirWait_ne_ok _ _ _ _ _ h).elim
  case proxy => exact .need_bind (.set_bind (State.seats_askHome ..) (.of_error rfl))
  case start => exact hroom

theorem Op.keeps_hwPlace (q : Nat) (ref : Word) (n need : Nat) (s : State) : (Op.hwPlace q ref n need).KeepsSeats s :=
  .of_readsOnly (Op.hwPlace_readsOnly q ref n need) s

theorem Op.keeps_hwLatest (p : HwPlace) (n : Nat) (s : State) : (Op.hwLatest p n).KeepsSeats s := by
  have hread : ∀ t, (do let u ← get; Pure.pure (u.coherentValue p.bank n) : Op Nat).KeepsSeats t := fun t => .get_bind (.pure _ t)
  refine .get_bind (.ite (.need_bind (.ite ?_ (hread s))) (hread s))
  refine .bind (.of_discard (Op.keeps_dirRequest ..)) fun _ t _ => ?_
  exact .bind (.of_modify (State.seats_bankRelease ..)) fun _ u _ => hread u

theorem Op.keeps_verifyOwner (p : HwPlace) (l : CacheLine) (n : Nat) (s : State) : (Op.verifyOwner p l n).KeepsSeats s := by
  refine .get_bind ?_
  dsimp only
  split
  · exact .set_bind (by simp) (.pure _ _)
  · refine .bind (.forEach (fun x t => .ite (.of_modify ?_) (.pure _ t)) _ s) fun _ t _ => .pure _ t
    simp

theorem Op.keeps_verifyBank (r : BankReader) (off addr n action : Nat) (s : State) :
    (Op.verifyBank r off addr n action).KeepsSeats s := by
  refine .get_bind ?_
  dsimp only
  split
  · exact .set_bind (by simp) (.pure _ _)
  · refine .bind (.forEach (fun x t => .ite (.of_modify ?_) (.pure _ t)) _ s) fun _ t _ => .pure _ t
    simp

theorem Op.keeps_hwVerify (p : HwPlace) (ref : Word) (n : Nat) (s : State) : (Op.hwVerify p ref n).KeepsSeats s := by
  refine .ite (.pure _ s) (.bind (.of_discard (Op.keeps_hwLatest p n s)) fun _ t _ => .get_bind ?_)
  dsimp only
  split
  · exact (Op.keeps_verifyOwner ..).then_pure
  · exact (Op.keeps_verifyBank ..).then_pure

theorem Op.keeps_hwGet (p : HwPlace) (ref : Word) (n : Nat) (s : State) : (Op.hwGet p ref n).KeepsSeats s := by
  refine .get_bind (.ite (.pure _ s) (.bind (Op.keeps_hwVerify p ref n s) fun _ t _ => .ite (.pure _ t) (.get_bind ?_)))
  split <;> exact .pure _ t

/-- The bytes of a hardware write put at their bank, where their sectors hold no error. -/
def Op.writeBank (p : HwPlace) (n v : Nat) : Op Unit := do
  match (← Op.verifyBank p.reader p.off p.bank n 2) with
  | some _ => pure ()
  | none => modify fun s =>
    (s.settled p.reader p.off p.bank n).bankWrite (p.bank / 128) (byteMask (p.bank % 128) n) (lineSet 0 (p.bank % 128) n v)

theorem Op.keeps_writeBank (p : HwPlace) (n v : Nat) (s : State) : (Op.writeBank p n v).KeepsSeats s := by
  refine .bind (Op.keeps_verifyBank ..) fun a t _ => ?_
  split
  · exact .pure _ t
  · exact .of_modify (by rw [State.seats_bankWrite, State.seats_settled])

theorem Op.keeps_hwWrite (p : HwPlace) (n v : Nat) (s : State) : (Op.hwWrite p n v).KeepsSeats s := by
  refine .get_bind (.ite (.pure _ s) (.ite (.set_bind rfl (.pure _ _)) (.ite (Op.keeps_writeBank p n v s) ?_)))
  refine .bind (Op.keeps_dirRequest ..) fun a t _ => ?_
  split
  · exact .pure _ t
  · exact (Op.keeps_writeBank p n v t).bind fun _ u _ => .of_modify (State.seats_bankRelease ..)

theorem Op.keeps_hwRead (q : Nat) (ref : Word) (need : Nat) (s : State) : (Op.hwRead q ref need).KeepsSeats s := by
  refine .bind (Op.keeps_hwPlace ..) fun a t _ => ?_
  split
  · exact .pure _ t
  · exact .get_bind (.ite (.pure _ t) (.bind (Op.keeps_hwGet ..) fun _ u _ => .pure _ u))

theorem Op.keeps_hwPut (q : Nat) (ref v : Word) (s : State) : (Op.hwPut q ref v).KeepsSeats s := by
  refine .bind (Op.keeps_hwPlace ..) fun a t _ => ?_
  split
  · exact .pure _ t
  · exact Op.keeps_hwWrite ..

/-! ### TCBs and error records -/

theorem Op.keeps_validTcb (q : Nat) (ref : Word) (s : State) : (Op.validTcb q ref).KeepsSeats s := by
  refine .ite (.pure _ s) (.bind (Op.keeps_hwPlace ..) fun a t _ => ?_)
  split
  · exact .pure _ t
  · exact .get_bind (.pure _ t)

theorem Op.keeps_tcbWord (q : Nat) (ref : Word) (off : Nat) (s : State) : (Op.tcbWord q ref off).KeepsSeats s :=
  .bind (Op.keeps_hwRead ..) fun _ t _ => .pure _ t

theorem Op.keeps_tcbState (q : Nat) (ref : Word) (s : State) : (Op.tcbState q ref).KeepsSeats s := by
  refine .bind (Op.keeps_hwPlace ..) fun a t _ => .get_bind ?_
  split
  · exact .pure _ t
  · exact .bind (Op.keeps_tcbWord ..) fun _ u _ => .pure _ u

theorem Op.keeps_putState (q : Nat) (ref : Word) (st count : Nat) (s : State) : (Op.putState q ref st count).KeepsSeats s := by
  refine .bind (Op.keeps_hwPlace ..) fun a t _ => ?_
  split
  · exact .pure _ t
  · exact .bind (Op.keeps_hwPut ..) fun _ u _ => .of_modify rfl

theorem Op.keeps_takeHeader (who : Requester) (ref : Word) (q : Nat) (s : State) : (Op.takeHeader who ref q).KeepsSeats s := by
  refine .get_bind (.bind (Op.keeps_dirRequest ..) fun a t _ => ?_)
  split
  · split
    · exact .of_modify (State.seats_bankRelease ..)
    · exact .pure _ t
  · split
    · exact .of_error rfl
    · exact .stall t

theorem Op.keeps_link (who : Requester) (table : Nat) (ref : Word) (q : Nat) (s : State) :
    (Op.link who table ref q).KeepsSeats s := by
  refine .bind (Op.keeps_hwPut ..) fun _ t _ => .bind (Op.keeps_takeHeader ..) fun _ u _ => .get_bind ?_
  have hlast : ∀ v, (modify fun x : State => (x.mapQueue q fun y => { y with
      tail := ref
      head := if (u.queue q).tail = 0 then ref else y.head
      appends := y.appends + 1 }).mapChain q fun c =>
        { c with linked := c.linked + 1, positions := c.positions ++ [(ref, c.linked.toNat + 1)] } : Op PUnit).KeepsSeats v :=
    fun v => .of_modify (by simp)
  exact .ite (.bind (Op.keeps_hwPut ..) fun _ v _ => hlast v) (hlast u)

theorem Op.keeps_writeErrorRecord (q : Nat) (ref : Word) (e : ErrWords) (s : State) :
    (Op.writeErrorRecord q ref e).KeepsSeats s :=
  .bind (Op.keeps_hwPut ..) fun _ _ _ => .bind (Op.keeps_hwPut ..) fun _ _ _ => .bind (Op.keeps_hwPut ..) fun _ _ _ =>
    .bind (Op.keeps_hwPut ..) fun _ _ _ => .bind (Op.keeps_hwPut ..) fun _ _ _ => .bind (Op.keeps_hwPut ..) fun _ _ _ =>
      Op.keeps_hwPut ..

/-- What a failure leads to: the error record, and a decrement of the error successor (R39). -/
def Op.spreadError (who : Requester) (fuel q : Nat) (rec0 : Word) (e : ErrWords) : Op Unit := do
  if rec0 ≠ 0 then
    Op.writeErrorRecord q rec0 e
    match (← Op.hwRead q rec0 rightR) with
    | some succ => if succ ≠ 0 then discard (Op.decrement who fuel q succ)
    | none => pure ()

theorem Op.errorOutcome_eq (q : Nat) (rec0 : Word) (e : ErrWords) :
    Op.errorOutcome q rec0 e = Op.spreadError .bank errorChainBound q rec0 e := rfl

theorem Op.keeps_spreadError {who : Requester} {fuel : Nat} (h : ∀ q ref s, (Op.decrement who fuel q ref).KeepsSeats s) (q : Nat)
    (rec0 : Word) (e : ErrWords) (s : State) : (Op.spreadError who fuel q rec0 e).KeepsSeats s := by
  refine .ite (.bind (Op.keeps_writeErrorRecord ..) fun _ t _ => .bind (Op.keeps_hwRead ..) fun a u _ => ?_) (.pure _ s)
  split
  · exact .ite (.of_discard (h ..)) (.pure _ u)
  · exact .pure _ u

theorem Op.keeps_decrement (who : Requester) (fuel table : Nat) (ref : Word) (s : State) :
    (Op.decrement who fuel table ref).KeepsSeats s := by
  induction fuel generalizing table ref s with
  | zero => exact .pure _ s
  | succ fuel ih =>
    have hfail : ∀ (e : ErrWords) (t : State), (Op.tcbWord table ref 0x70 >>= fun rec0 =>
        Op.spreadError who fuel table rec0 e).KeepsSeats t := fun e t =>
      .bind (Op.keeps_tcbWord ..) fun rec0 u _ => Op.keeps_spreadError ih table rec0 e u
    refine .bind (Op.keeps_validTcb ..) fun v t _ => .ite (.pure _ t) (.bind (Op.keeps_tcbState ..) fun x u _ => .get_bind ?_)
    refine .ite (.ite ?gone (.ite ?last ?above)) (.ite (.pure _ u) (Op.keeps_putState ..).then_pure)
    case gone => exact .bind (Op.keeps_putState ..) fun _ w _ => .bind (hfail _ w) fun _ y _ => .pure _ y
    case last =>
      refine .bind (Op.keeps_tcbWord ..) fun q w _ => .ite ?_ ?_
      · exact .bind (Op.keeps_putState ..) fun _ y _ => (hfail _ y).then_pure
      · exact .bind (Op.keeps_putState ..) fun _ y _ => (Op.keeps_link ..).then_pure
    case above => exact (Op.keeps_putState ..).then_pure

theorem Op.keeps_errorOutcome (q : Nat) (rec0 : Word) (e : ErrWords) (s : State) : (Op.errorOutcome q rec0 e).KeepsSeats s := by
  rw [Op.errorOutcome_eq]
  exact Op.keeps_spreadError (Op.keeps_decrement _ _) q rec0 e s

/-! ### The end of a task -/

@[simp] theorem State.seats_flushSlot (s : State) (slot : Nat) : (s.flushSlot slot).seats = s.seats := by
  unfold State.flushSlot
  dsimp only
  rw [State.seats_releaseCluster, State.seats_foldl]
  exact fun t l => State.seats_giveUp t l.cluster l.tag

@[simp] theorem State.seats_dropPackets (s : State) (ref : Word) : (s.dropPackets ref).seats = s.seats := by
  unfold State.dropPackets
  dsimp only
  rw [State.seats_foldl, State.seats_unc]
  exact fun t d => State.seats_mapDie t d _

@[simp] theorem State.seats_breakImage (s : State) (c : LCore) : (s.breakImage c).seats = s.seats := by
  unfold State.breakImage
  split <;> rfl

@[simp] theorem State.seats_killTask (s : State) (ref : Word) : (s.killTask ref).seats = s.seats := by
  refine (State.seats_foldl State.seats_breakImage _ _).trans ((State.seats_foldl State.seats_flushSlot _ _).trans ?_)
  refine (State.seats_mapCores (fun c => ?_) _).trans (State.seats_dropPackets s ref)
  split <;> exact ⟨rfl, rfl⟩

theorem Op.keeps_failTask (ref : Word) (e : ErrWords) (s : State) : (Op.failTask ref e).KeepsSeats s := by
  refine .get_bind ?_
  split
  · exact .pure _ s
  · refine .ite (.pure _ s) (.set_bind (by simp) (.bind (Op.keeps_tcbState ..) fun x t _ => ?_))
    exact .bind (Op.keeps_putState ..) fun _ u _ => Op.keeps_errorOutcome _ _ _ u

/-! ### Traps -/

@[simp] theorem State.seats_logTrap (s : State) (t : Trap) : (s.logTrap t).seats = s.seats := by
  unfold State.logTrap
  dsimp only
  split <;> split <;> simp


theorem LCore.endSkip_seat (c : LCore) (r : Option Report) : (c.endSkip r).id = c.id ∧ (c.endSkip r).fused = c.fused := by
  unfold LCore.endSkip
  split
  · split
    · split <;> exact ⟨rfl, rfl⟩
    · split <;> exact ⟨rfl, rfl⟩
    · exact ⟨rfl, rfl⟩
  · exact ⟨rfl, rfl⟩

@[simp] theorem State.seats_enterHandler (s : State) (t : Trap) : (s.enterHandler t).seats = s.seats := by
  simp [State.enterHandler, State.seats, State.cores, LCore.endSkip_seat]

/-- A trap moves nobody and ends no lock-step (R157, R396, R400). -/
@[simp] theorem State.seats_takeTrap (s : State) (t : Trap) : (s.takeTrap t).seats = s.seats := by
  unfold State.takeTrap
  dsimp only
  split
  · split
    · exact State.seats_logTrap s t
    · split
      · next hok => exact ((Op.keeps_failTask ..).same _ _ hok).trans (State.seats_logTrap s t)
      · exact State.seats_logTrap s t
      · exact State.seats_logTrap s t
  · exact (State.seats_enterHandler ..).trans (State.seats_logTrap s t)
end Sys2Proof.Machine
end

section
/-! O60. A fused gang: how a word's outcomes in the members become the gang's, and what a gang of two does. -/

namespace Sys2Proof.Machine

/-! ### A word in every member (R156, R157) -/

theorem checked_of_none {i : Instr} {body : Op Exit} {s : State} (h : s.wordTrap i = none) : checked i body s = body s := by
  rw [checked, h]

theorem checked_of_some {i : Instr} {body : Op Exit} {s : State} {t : Trap} (h : s.wordTrap i = some t) :
    checked i body s = .error (.trap t) := by
  rw [checked, h]

/-- What a word would do in a member. -/
def State.outcome (s : State) (i : Instr) (body : Op Exit) (id : CoreId) : Except Halt (Exit × State) :=
  checked i body (s.member id)

theorem perform_gang {i : Instr} {body : Op Exit} {s : State} (hl : s.ctx.live = true) (hw : s.waits = false)
    (hg : s.inGang = true) : perform i body s = .next (performGang i body s) := by
  simp [perform, hl, hw, hg]

theorem map_eq_of_forall₂ {α β γ : Type} {R : α → β → Prop} {f : α → γ} {g : β → γ} {as : List α} {bs : List β}
    (h : List.Forall₂ R as bs) (hfg : ∀ a b, R a b → f a = g b) : as.map f = bs.map g := by
  rw [← List.forall₂_eq_eq_eq, List.forall₂_map_left_iff, List.forall₂_map_right_iff]
  exact h.imp hfg

/-- The trap in which a member's word ends. -/
def trapOf : Except Halt (Exit × State) → Option Trap
  | .error (.trap t) => some t
  | _ => none

/-- How a member's word leaves the PC, where it completes. -/
def flowOf : Except Halt (Exit × State) → Option Exit
  | .ok (f, _) => some f
  | _ => none

def stallsIn : Except Halt (Exit × State) → Bool
  | .error .stall => true
  | _ => false

def blocksIn : Except Halt (Exit × State) → Bool
  | .error (.block _) => true
  | _ => false

/-- The word issued in one member after the others. -/
def State.issueAll (s : State) (i : Instr) (body : Op Exit) : Option State :=
  s.members.foldl (init := some s) fun (acc : Option State) id => match acc with
    | none => none
    | some u => match checked i body (u.focus id s.ctx.num) with
      | .ok (f, t) => some (t.finish f)
      | .error _ => none

/-- The word entered in every member as a wait. -/
def State.blockAll (s : State) (i : Instr) (body : Op Exit) : State :=
  (s.members.foldl (init := s) fun (u : State) id => match checked i body (u.focus id s.ctx.num) with
    | .error (.block t) => t.retreat
    | _ => (u.focus id s.ctx.num).retreat).focus s.core.id s.ctx.num

/-- What a gang makes of the flows of a word that completes in every member. -/
def State.gangFlows (s : State) (i : Instr) (body : Op Exit) (flows : List Exit) : State :=
  if flows.all (· = flows.headD .next) then match s.issueAll i body with
    | some t => t.focus s.core.id s.ctx.num
    | none => { s with stalled := true }
  else s.gangSplit (flows.map (Exit.gangBit (flows.headD .next)))

/-- What a gang makes of its members' outcomes. -/
def State.gangOf (s : State) (i : Instr) (body : Op Exit) (outs : List (Except Halt (Exit × State))) : State :=
  let traps := outs.map trapOf
  if outs.any stallsIn then s.standStill
  else if traps.any (·.isSome) && !(outs.any blocksIn && traps.all fun t => t.all fun t => t.cause.toNat = cFRAME) then
    s.gangTraps traps
  else if outs.any blocksIn then s.blockAll i body
  else s.gangFlows i body (outs.filterMap flowOf)

theorem performGang_eq (i : Instr) (body : Op Exit) (s : State) :
    performGang i body s = s.gangOf i body (s.members.map (s.outcome i body)) := rfl

/-- A member that is not ready holds the whole gang. -/
theorem performGang_stall {i : Instr} {body : Op Exit} {s : State} {id : CoreId} (hid : id ∈ s.members)
    (h : s.outcome i body id = .error .stall) : performGang i body s = s.standStill := by
  rw [performGang_eq]
  exact if_pos (List.any_eq_true.mpr ⟨_, List.mem_map_of_mem hid, by rw [h]; rfl⟩)

/-- Where no member waits, a trap in one is a trap in all. -/
theorem performGang_traps {i : Instr} {body : Op Exit} {s : State} {ts : List (Option Trap)}
    (h : List.Forall₂ (fun id t => (stallsIn (s.outcome i body id) = false ∧ blocksIn (s.outcome i body id) = false) ∧
      trapOf (s.outcome i body id) = t) s.members ts)
    (ht : ∃ t ∈ ts, t.isSome = true) : performGang i body s = s.gangTraps ts := by
  obtain ⟨hready, htraps⟩ := (List.forall₂_and_left _ _).mp h
  have hts : (s.members.map (s.outcome i body)).map trapOf = ts := by
    rw [List.map_map, map_eq_of_forall₂ (f := trapOf ∘ s.outcome i body) (g := id) htraps fun _ _ h => h, List.map_id]
  have hany : ts.any (·.isSome) = true := List.any_eq_true.mpr ht
  have hstall : (s.members.map (s.outcome i body)).any stallsIn = false := by
    simpa [List.any_eq_false] using fun id hid => (hready id hid).1
  have hblock : (s.members.map (s.outcome i body)).any blocksIn = false := by
    simpa [List.any_eq_false] using fun id hid => (hready id hid).2
  rw [performGang_eq, State.gangOf, hts, hstall, hblock, hany]
  rfl

section
variable {i : Instr} {body : Op Exit} {s : State} {r : CoreId → Exit × State}
variable (h : ∀ id ∈ s.members, s.outcome i body id = .ok (r id))
include h

theorem performGang_completes : performGang i body s = s.gangFlows i body (s.members.map fun id => (r id).1) := by
  rw [performGang_eq, List.map_congr_left h]
  simp [State.gangOf, List.filterMap_map, Function.comp_def, stallsIn, blocksIn, trapOf, flowOf]

/-- Where every member completes the word, with flows that differ, all trap GANG. -/
theorem performGang_split {lead : Exit} (hlead : (s.members.map fun id => (r id).1).headD .next = lead)
    (hne : ∃ id ∈ s.members, (r id).1 ≠ lead) :
    performGang i body s = s.gangSplit (s.members.map fun id => Exit.gangBit lead (r id).1) := by
  have hdiffer : ((s.members.map fun id => (r id).1).all (· = lead)) = false := by simpa using hne
  rw [performGang_completes h, State.gangFlows, hlead, hdiffer, List.map_map]
  rfl

end

/-! ### Branches and jumps (R157) -/

/-- What holds of every member and its entry in a list is the entry itself, where it is determined. -/
theorem eq_map_of_forall₂ {α β : Type} {p : α → Prop} {g : α → β} {as : List α} {bs : List β}
    (h : List.Forall₂ (fun a b => p a ∧ g a = b) as bs) : (∀ a ∈ as, p a) ∧ bs = as.map g := by
  obtain ⟨hp, hg⟩ := (List.forall₂_and_left _ _).mp h
  exact ⟨hp, (List.map_id bs).symm.trans (map_eq_of_forall₂ (f := g) (g := id) hg fun _ _ h => h).symm⟩

theorem State.outcome_of_none {s : State} {i : Instr} {body : Op Exit} {id : CoreId} (h : (s.member id).wordTrap i = none) :
    s.outcome i body id = body (s.member id) := checked_of_none h

theorem gangSplits_of {mk : BitVec 6 → BitVec 6 → BitVec 14 → Instr} {taken : Word → Word → Prop} {f : Word → Word → Bool}
    (hexec : ∀ c a imm s, exec (mk c a imm) s = perform (mk c a imm) (Op.branch c a imm f) s)
    (h : ∀ x y, f x y = true ↔ taken x y) : GangSplits mk taken := by
  intro s c a imm bs hl hw hg hm htrue hfalse
  have hm' : List.Forall₂ (fun id b => s.outcome (mk c a imm) (Op.branch c a imm f) id =
      .ok (.branch (f ((s.member id).G c) ((s.member id).G a)) (branchTarget (s.member id).ctx.pc imm), s.member id) ∧
      f ((s.member id).G c) ((s.member id).G a) = b) s.members bs := by
    refine hm.imp fun id b ⟨hnone, hc, ha, hb⟩ => ⟨?_, Bool.eq_iff_iff.mpr ((h _ _).trans hb.symm)⟩
    rw [State.outcome_of_none hnone, Op.branch_run imm f hc ha]
  obtain ⟨hout, rfl⟩ := eq_map_of_forall₂ hm'
  obtain ⟨id₁, hid₁, htaken⟩ := List.mem_map.mp htrue
  obtain ⟨id₀, hid₀, hnot⟩ := List.mem_map.mp hfalse
  rw [hexec, perform_gang hl hw hg, performGang_split hout rfl]
  · rfl
  · by_contra hall
    push Not at hall
    have := (hall id₁ hid₁).trans (hall id₀ hid₀).symm
    simp [htaken, hnot] at this

/-- JALR of one member. -/
def Op.jumpReg (d a : BitVec 6) (imm : BitVec 14) : Op Exit := do
  let x ← Op.readG a
  Op.freeG d
  let t ← Op.codeTarget (x + imm.signExtend 64)
  let c ← Op.ctx
  Op.writeG d (Word.ofN (c.pc.toNat + 4))
  pure (.jump t)

theorem exec_jalr_eq (d a : BitVec 6) (imm : BitVec 14) (s : State) :
    exec (.jalr d a imm) s = perform (.jalr d a imm) (Op.jumpReg d a imm) s := rfl

/-- The context after JALR has written its link. -/
def State.linked (s : State) (d : BitVec 6) : State := s.setCtx (s.ctx.setG d.toNat (Word.ofN (s.ctx.pc.toNat + 4)))

theorem Op.jumpReg_run {s : State} {d a : BitVec 6} {imm : BitVec 14} (ha : s.CanRead a) (hd : s.CanWrite d)
    (ht : IsCodeOffset (s.G a + imm.signExtend 64)) :
    Op.jumpReg d a imm s = .ok (.jump ((s.G a + imm.signExtend 64).setWidth 21), s.linked d) := by
  simp only [Op.jumpReg, Op.bind_run, Op.readG_run s a ha, Op.freeG_run s d hd, Op.codeTarget_ok ht, Op.ctx_run, Op.answered,
    Op.writeG_run s d _ hd, Op.pure_run]
  rfl

/-- A code offset fits in the PC. -/
theorem IsCodeOffset.setWidth_inj {t u : Word} (ht : IsCodeOffset t) (hu : IsCodeOffset u) :
    t.setWidth 21 = u.setWidth 21 ↔ t = u := by
  refine ⟨fun h => BitVec.eq_of_toNat_eq ?_, congrArg _⟩
  have hnat := congrArg BitVec.toNat h
  have htlt := ht.2
  have hult := hu.2
  rw [BitVec.toNat_setWidth, BitVec.toNat_setWidth] at hnat
  omega

theorem State.member_self (s : State) : s.member s.core.id = s := s.focus_self

theorem exec_jalr_split {s : State} {d a : BitVec 6} {imm : BitVec 14} {bs : List Bool} (hl : s.ctx.live = true)
    (hw : s.waits = false) (hg : s.inGang = true) (hlead : s.members.head? = some s.core.id)
    (hm : List.Forall₂ (fun id b => ((s.member id).wordTrap (.jalr d a imm) = none ∧ (s.member id).CanRead a ∧
      (s.member id).CanWrite d ∧ IsCodeOffset ((s.member id).G a + imm.signExtend 64)) ∧
      (b = true ↔ (s.member id).G a = s.G a)) s.members bs) (hfalse : false ∈ bs) :
    exec (.jalr d a imm) s = .next (s.gangSplit bs) := by
  obtain ⟨hready, hbits⟩ := (List.forall₂_and_left _ _).mp hm
  have hout : ∀ id ∈ s.members, s.outcome (.jalr d a imm) (Op.jumpReg d a imm) id =
      .ok (.jump (((s.member id).G a + imm.signExtend 64).setWidth 21), (s.member id).linked d) := fun id hid => by
    obtain ⟨hnone, ha, hd, ht⟩ := hready id hid
    rw [State.outcome_of_none hnone, Op.jumpReg_run ha hd ht]
  have hself : IsCodeOffset (s.G a + imm.signExtend 64) := by
    have := (hready s.core.id (List.mem_of_mem_head? hlead)).2.2.2
    rwa [s.member_self] at this
  have hsame : ∀ id ∈ s.members, Exit.jump (((s.member id).G a + imm.signExtend 64).setWidth 21) =
      .jump ((s.G a + imm.signExtend 64).setWidth 21) ↔ (s.member id).G a = s.G a := fun id hid => by
    rw [Exit.jump.injEq, (hready id hid).2.2.2.setWidth_inj hself, BitVec.add_left_inj]
  have hbs : (s.members.map fun id => decide ((s.member id).G a = s.G a)) = bs := by
    refine (map_eq_of_forall₂ hbits (g := id) fun id b hb => ?_).trans (List.map_id bs)
    exact Bool.eq_iff_iff.mpr (decide_eq_true_iff.trans hb.symm)
  obtain ⟨id, hid, hdiff⟩ := List.mem_map.mp (hbs ▸ hfalse)
  rw [exec_jalr_eq, perform_gang hl hw hg, performGang_split hout (lead := .jump ((s.G a + imm.signExtend 64).setWidth 21)), ← hbs]
  · refine congrArg (fun l => Host.Outcome.next (s.gangSplit l)) (List.map_congr_left fun id hid => ?_)
    exact decide_eq_decide.mpr (hsame id hid)
  · rw [List.headD_eq_head?_getD, List.head?_map, hlead]
    simp [s.member_self]
  · exact ⟨id, hid, fun h => of_decide_eq_false hdiff ((hsame id hid).mp h)⟩

/-! ### Words of two sources -/

/-- ADD of one member. -/
def Op.addWord (d a b : BitVec 6) : Op Exit := do
  Op.alu d a b fun x y => x + y
  pure .next

theorem exec_add_eq (d a b : BitVec 6) (s : State) : exec (.add d a b) s = perform (.add d a b) (Op.addWord d a b) s := rfl

theorem Op.addWord_run {s : State} {d a b : BitVec 6} (ha : s.CanRead a) (hb : s.CanRead b) (hd : s.CanWrite d) :
    Op.addWord d a b s = .ok (.next, s.setCtx (s.ctx.setG d.toNat (s.G a + s.G b))) := by
  rw [Op.addWord, Op.bind_ok (Op.alu_run _ ha hb hd), Op.pure_run]

theorem Op.readG_stalls {s : State} {n : BitVec 6} (h : s.ctx.pendG.getLsbD n.toNat = true) : Op.readG n s = .error .stall := by
  simp only [Op.readG, Op.bind_run, Op.get_run, Op.answered, Op.ite_run, h, if_true]
  rfl

theorem Op.addWord_stalls {s : State} {d a b : BitVec 6} (h : s.ctx.pendG.getLsbD a.toNat = true) :
    Op.addWord d a b s = .error .stall := by
  simp only [Op.addWord, Op.alu, Op.bind_run, Op.readG_stalls h, Op.halted]

/-- A source that is not ready in one member holds the gang. -/
theorem exec_add_gang_stalls {s : State} {d a b : BitVec 6} {id : CoreId} (hl : s.ctx.live = true) (hw : s.waits = false)
    (hg : s.inGang = true) (hid : id ∈ s.members) (hnone : (s.member id).wordTrap (.add d a b) = none)
    (hp : (s.member id).ctx.pendG.getLsbD a.toNat = true) : exec (.add d a b) s = .next s.standStill := by
  rw [exec_add_eq, perform_gang hl hw hg, performGang_stall hid]
  rw [State.outcome_of_none hnone, Op.addWord_stalls hp]

theorem exec_add_gang_traps {s : State} {d a b : BitVec 6} {ts : List (Option Trap)} (hl : s.ctx.live = true)
    (hw : s.waits = false) (hg : s.inGang = true)
    (hm : List.Forall₂ (fun id t => (s.member id).wordTrap (.add d a b) = t ∧
      (t = none → (s.member id).CanRead a ∧ (s.member id).CanRead b ∧ (s.member id).CanWrite d)) s.members ts)
    (ht : ∃ t ∈ ts, t.isSome = true) : exec (.add d a b) s = .next (s.gangTraps ts) := by
  rw [exec_add_eq, perform_gang hl hw hg, performGang_traps (hm.imp fun id t ⟨hwt, hready⟩ => ?_) ht]
  cases t with
  | some t =>
    have hout : s.outcome (.add d a b) (Op.addWord d a b) id = .error (.trap t) := checked_of_some hwt
    rw [hout]
    exact ⟨⟨rfl, rfl⟩, rfl⟩
  | none =>
    obtain ⟨ha, hb, hd⟩ := hready rfl
    rw [State.outcome_of_none hwt, Op.addWord_run ha hb hd]
    exact ⟨⟨rfl, rfl⟩, rfl⟩

/-! ### A gang of two -/

/-- The state with other logical cores. -/
def State.withCores (s : State) (c : LCore) (peers : List LCore) : State := { s with core := c, peers := peers }

theorem State.focus_peer {s : State} {p : LCore} (n : Nat) (hp : s.peers = [p]) (hne : p.id ≠ s.core.id) :
    s.focus p.id n = s.withCores (p.focusCtx n) [s.core] := by
  simp [State.withCores, State.focus, State.focusCore, hne.symm, hp]

/-- What the leader does to its own core changes nothing in the other member. -/
theorem State.focus_peer_core {s t : State} {p : LCore} (n : Nat) (hp : s.peers = [p]) (hne : p.id ≠ s.core.id)
    (hpeers : t.peers = s.peers) (hid : t.core.id = s.core.id) : (t.focus p.id n).core = (s.focus p.id n).core := by
  rw [State.focus_peer n hp hne, State.focus_peer n (hpeers.trans hp) (hid ▸ hne)]
  rfl

section
variable {i : Instr} {body : Op Exit} {s t t' t₀ : State} {p : LCore} {f : Exit}

theorem State.issueAll_two (hm : s.members = [s.core.id, p.id]) (hlead : checked i body s = .ok (f, t))
    (hnext : checked i body ((t.finish f).focus p.id s.ctx.num) = .ok (f, t')) : s.issueAll i body = some (t'.finish f) := by
  rw [State.issueAll, hm]
  simp only [List.foldl_cons, List.foldl_nil, s.focus_self, hlead, hnext]

/-- A gang of two whose members both complete the word in one way issues it in the leader, then in the other. -/
theorem performGang_two (hm : s.members = [s.core.id, p.id]) (hlead : checked i body s = .ok (f, t))
    (hpeer : s.outcome i body p.id = .ok (f, t₀))
    (hnext : checked i body ((t.finish f).focus p.id s.ctx.num) = .ok (f, t')) :
    performGang i body s = (t'.finish f).focus s.core.id s.ctx.num := by
  have hself : s.outcome i body s.core.id = .ok (f, t) := (congrArg (checked i body) s.member_self).trans hlead
  rw [performGang_eq, hm]
  simp [State.gangOf, State.gangFlows, hself, hpeer, stallsIn, blocksIn, trapOf, flowOf, State.issueAll_two hm hlead hnext]
end

theorem State.wordTrap_congr {s t : State} (h : s.core = t.core) (i : Instr) : s.wordTrap i = t.wordTrap i := by
  simp [State.wordTrap, State.illTrap, State.archListed, State.ctx, h]

/-- ADD can complete in the context in focus. -/
def State.AddReady (s : State) (d a b : BitVec 6) : Prop :=
  s.wordTrap (.add d a b) = none ∧ s.CanRead a ∧ s.CanRead b ∧ s.CanWrite d

theorem State.addReady_congr {s t : State} (h : s.core = t.core) (d a b : BitVec 6) : s.AddReady d a b ↔ t.AddReady d a b := by
  simp [State.AddReady, State.wordTrap_congr h, State.CanRead, State.CanWrite, State.ctx, h]

theorem State.AddReady.run {s : State} {d a b : BitVec 6} (h : s.AddReady d a b) :
    checked (.add d a b) (Op.addWord d a b) s = .ok (.next, s.setCtx (s.ctx.setG d.toNat (s.G a + s.G b))) := by
  obtain ⟨hnone, ha, hb, hd⟩ := h
  exact (checked_of_none hnone).trans (Op.addWord_run ha hb hd)

theorem State.G_congr {s t : State} (h : s.core = t.core) (n : BitVec 6) : s.G n = t.G n := by
  simp [State.G, State.ctx, h]

theorem exec_add_two {s : State} {p : LCore} {d a b : BitVec 6} (hl : s.ctx.live = true) (hw : s.waits = false)
    (hg : s.inGang = true) (hp : s.peers = [p]) (hne : p.id ≠ s.core.id) (hm : s.members = [s.core.id, p.id])
    (hlead : s.AddReady d a b) (hpeer : (s.member p.id).AddReady d a b) :
    exec (.add d a b) s = .next ((((s.doneG d (s.G a + s.G b)).focus p.id s.ctx.num).doneG d
      ((s.member p.id).G a + (s.member p.id).G b)).focus s.core.id s.ctx.num) := by
  have hcore : ((s.doneG d (s.G a + s.G b)).focus p.id s.ctx.num).core = (s.member p.id).core :=
    State.focus_peer_core _ hp hne rfl rfl
  have hnext := ((State.addReady_congr hcore d a b).mpr hpeer).run
  rw [State.G_congr hcore a, State.G_congr hcore b] at hnext
  rw [exec_add_eq, perform_gang hl hw hg, performGang_two hm hlead.run hpeer.run hnext]
  rfl

/-- SPLIT of one member. -/
def Op.splitExit : Op Exit := do
  Op.splitWord
  pure .next

theorem exec_split_perform (s : State) : exec .split s = perform .split Op.splitExit s := rfl

/-- SPLIT can complete in the context in focus, which leaves a gang. -/
def State.SplitReady (s : State) : Prop :=
  s.wordTrap .split = none ∧ s.ctx.num = 0 ∧ 1 < s.core.regs.gangsz ∧ ∀ x ∈ s.core.others, x.live = false

theorem State.splitReady_congr {s t : State} (h : s.core = t.core) : s.SplitReady ↔ t.SplitReady := by
  simp [State.SplitReady, State.wordTrap_congr h, State.ctx, h]

theorem State.SplitReady.run {s : State} (h : s.SplitReady) : checked .split Op.splitExit s = .ok (.next, s.unfused) := by
  obtain ⟨hnone, hnum, hsize, ho⟩ := h
  rw [checked_of_none hnone, Op.splitExit, Op.bind_ok (Op.splitWord_many hnum ho hsize), Op.pure_run]

theorem exec_split_two {s : State} {p : LCore} (hl : s.ctx.live = true) (hw : s.waits = false) (hg : s.inGang = true)
    (hp : s.peers = [p]) (hne : p.id ≠ s.core.id) (hm : s.members = [s.core.id, p.id]) (hlead : s.SplitReady)
    (hpeer : (s.member p.id).SplitReady) :
    exec .split s = .next ((s.unfused.done.focus p.id s.ctx.num).unfused.done.focus s.core.id s.ctx.num) := by
  have hcore : (s.unfused.done.focus p.id s.ctx.num).core = (s.member p.id).core := State.focus_peer_core _ hp hne rfl rfl
  have hnext := ((State.splitReady_congr hcore).mpr hpeer).run
  rw [exec_split_perform, perform_gang hl hw hg, performGang_two hm hlead.run hpeer.run hnext]
  rfl

/-! ### FUSE of the last member (R178) -/

theorem State.filterMap_findCore_gang (s : State) (c : LCore) : ((s.gang c).map (·.id)).filterMap s.findCore = s.gang c := by
  rw [List.filterMap_map]
  refine (List.filterMap_congr fun m hm => ?_).trans List.filterMap_some
  obtain ⟨i, -, hf⟩ := State.mem_gang.mp hm
  rw [Function.comp_apply, State.id_of_findCore hf, hf]

theorem State.id_findCore_atFuse (s : State) (id : CoreId) : (s.atFuse.findCore id).map (·.id) = (s.findCore id).map (·.id) := by
  by_cases h : s.core.id = id <;> simp [State.findCore, State.cores, State.atFuse, h]

theorem State.members_atFuse (s : State) : s.atFuse.members = s.members := by
  simp only [State.members, State.gang, List.map_filterMap, s.id_findCore_atFuse]
  rfl

theorem State.findCore_peer {s : State} {p : LCore} (hp : s.peers = [p]) (hne : p.id ≠ s.core.id) : s.findCore p.id = some p := by
  simp [State.findCore, State.cores, hne.symm, hp]

theorem State.gang_atFuse {s : State} {p : LCore} (hp : s.peers = [p]) (hne : p.id ≠ s.core.id)
    (hm : s.members = [s.core.id, p.id]) : s.atFuse.gang s.atFuse.core = [s.atFuse.core, p] := by
  have hme : s.atFuse.findCore s.core.id = some s.atFuse.core := s.atFuse.findCore_self
  have hpeer : s.atFuse.findCore p.id = some p := by
    rw [State.findCore_atFuse hne, State.findCore_peer hp hne]
  rw [← s.atFuse.filterMap_findCore_gang]
  change s.atFuse.members.filterMap _ = _
  rw [s.members_atFuse, hm]
  simp [hme, hpeer]

theorem Op.fuseHere_run {s : State} (h : ((s.gang s.core).any fun m => m.fuseAt.isNone) = false) :
    Op.fuseHere s = .ok (if s.fuseAll.core.fused then .next else .set, s.fuseAll) := by
  simp only [Op.fuseHere, Op.bind_run, Op.get_run, Op.answered, Op.ite_run, h, Bool.false_eq_true, if_false]
  split <;> rfl

/-- A member taken into a fused gang at its FUSE, which lies at `o`. -/
def LCore.joined (c : LCore) (o : BitVec 21) : LCore :=
  { c with ctx := { c.ctx with pc := o }.advance .next, last := c.ctx.num, fused := true, fuseAt := none }

/-- A member that runs fused. -/
def LCore.fusedOn (c : LCore) : LCore := { c with fused := true, fuseAt := none }

/-- A member goes on fused: the last to come completes its own word, the others complete their FUSE here. -/
def State.joinGang (s : State) (last : CoreId) : State :=
  let word := s.setCtx { s.ctx with pc := s.core.fuseAt.getD s.ctx.pc }
  let t := if s.core.id = last then s else word.finish .next
  { t with core := { t.core with fused := true, fuseAt := none } }

/-- FUSE of the last member: the members differ by their offsets, or all are joined. -/
theorem State.fuseAll_eq {s : State} {m : LCore} {ms : List LCore} {bits : Nat} (hg : s.gang s.core = m :: ms)
    (hb : bitsOf ((m :: ms).map fun c => decide (c.fuseAt ≠ m.fuseAt)) = bits) : s.fuseAll =
      (if bits = 0 then ((m :: ms).foldl (fun t c => (t.focus c.id 0).joinGang s.core.id) s).focus s.core.id 0
      else ((m :: ms).foldl (fun t c => { (t.focus c.id 0).takeTrap (gangTrap bits) with stalled := false }) s).focus
        s.core.id 0) := by
  rw [State.fuseAll, hg, ← hb]
  rfl

theorem State.joinGang_last {s : State} {last : CoreId} (h : s.core.id = last) :
    s.joinGang last = s.setCore s.core.fusedOn := by
  rw [State.joinGang]
  dsimp only
  rw [if_pos h]
  rfl

theorem State.joinGang_other {s : State} {last : CoreId} {o : BitVec 21} (h : s.core.id ≠ last) (ha : s.core.fuseAt = some o) :
    s.joinGang last = { s.setCore (s.core.joined o) with stalled := false } := by
  rw [State.joinGang]
  dsimp only
  rw [if_neg h, ha]
  rfl

theorem LCore.focusCtx_self {c : LCore} {n : Nat} (h : c.ctx.num = n) : c.focusCtx n = c := if_pos h

theorem State.focus_here {s : State} {n : Nat} (h : s.ctx.num = n) : s.focus s.core.id n = s := h ▸ s.focus_self

section
variable {s : State} {p : LCore} {o : BitVec 21}
variable (hp : s.peers = [p]) (hne : p.id ≠ s.core.id) (hm : s.members = [s.core.id, p.id]) (ha : p.fuseAt = some o)
include hp hne hm ha

theorem State.fuseAll_same (h : s.ctx.num = 0) (hpn : p.ctx.num = 0) (ho : s.ctx.pc = o) :
    s.atFuse.fuseAll = { s.withCores s.core.fusedOn [p.joined o] with stalled := false } := by
  have hbits : bitsOf ([s.atFuse.core, p].map fun m => decide (m.fuseAt ≠ s.atFuse.core.fuseAt)) = 0 := by
    have he : p.fuseAt = s.atFuse.core.fuseAt := by rw [ha, ← ho]; rfl
    simp [he, bitsOf]
  have hlast : (s.atFuse.focus s.atFuse.core.id 0).joinGang s.atFuse.core.id = s.setCore s.core.fusedOn := by
    rw [State.focus_here (s := s.atFuse) h, State.joinGang_last rfl]
    rfl
  have hpeer : (s.setCore s.core.fusedOn).focus p.id 0 = s.withCores p [s.core.fusedOn] := by
    rw [State.focus_peer (s := s.setCore s.core.fusedOn) 0 hp hne, LCore.focusCtx_self hpn]
    rfl
  have hjoin : (s.withCores p [s.core.fusedOn]).joinGang s.atFuse.core.id =
      { s.withCores (p.joined o) [s.core.fusedOn] with stalled := false } := State.joinGang_other hne ha
  rw [State.fuseAll_eq (State.gang_atFuse hp hne hm) hbits, if_pos rfl, List.foldl_cons, List.foldl_cons, List.foldl_nil, hlast,
    hpeer, hjoin]
  refine (State.focus_peer (s := { s.withCores (p.joined o) [s.core.fusedOn] with stalled := false }) (p := s.core.fusedOn) 0 rfl
    hne.symm).trans ?_
  rw [LCore.focusCtx_self (c := s.core.fusedOn) h]
  rfl

theorem State.fuseAll_differ (ho : s.ctx.pc ≠ o) : s.atFuse.fuseAll = (s.members.foldl (init := s.atFuse) fun (u : State) id =>
    { (u.focus id 0).takeTrap (Trap.plain cGANG 0 2) with stalled := false }).focus s.core.id 0 := by
  have hbits : bitsOf ([s.atFuse.core, p].map fun m => decide (m.fuseAt ≠ s.atFuse.core.fuseAt)) = 2 := by
    have hdiff : p.fuseAt ≠ s.atFuse.core.fuseAt := by
      rw [ha]
      exact fun he => ho (Option.some.inj he).symm
    simp [hdiff, bitsOf]
  rw [State.fuseAll, State.gang_atFuse hp hne hm, hm]
  dsimp only
  rw [hbits]
  rfl
end

/-! ### Who stays fused after the GANG traps of two -/

theorem LCore.focusCtx_seat (c : LCore) (n : Nat) : (c.focusCtx n).id = c.id ∧ (c.focusCtx n).fused = c.fused := by
  unfold LCore.focusCtx
  split
  · exact ⟨rfl, rfl⟩
  · split <;> exact ⟨rfl, rfl⟩

theorem State.seats_focus_here (s : State) (n : Nat) : (s.focus s.core.id n).seats = s.seats := by
  simp [State.seats, State.cores, State.focus, State.focusCore, LCore.focusCtx_seat]

theorem State.seats_focus_two {s : State} {x y : CoreId × Bool} (h : s.seats = [x, y]) (hne : y.1 ≠ x.1) (n : Nat) :
    (s.focus y.1 n).seats = [y, x] := by
  obtain ⟨hx, hl⟩ := List.cons.inj h
  obtain ⟨q, hq, rfl⟩ := List.map_eq_singleton_iff.mp hl
  subst hx
  rw [State.focus_peer (p := q) n hq hne]
  simp [State.seats, State.cores, State.withCores, LCore.focusCtx_seat]

/-- A gang of two that traps GANG in both members stays as it was, split or fused. -/
theorem State.fused_traps_two {s : State} {p : LCore} (hp : s.peers = [p]) (hne : p.id ≠ s.core.id) (n : Nat) (t : Trap) :
    ((([s.core.id, p.id].foldl (init := s) fun (u : State) id => { (u.focus id n).takeTrap t with stalled := false }).focus
      s.core.id n).core.fused) = s.core.fused := by
  have hseats : s.seats = [(s.core.id, s.core.fused), (p.id, p.fused)] := by simp [State.seats, State.cores, hp]
  have hlead : ({ (s.focus s.core.id n).takeTrap t with stalled := false } : State).seats = s.seats :=
    (State.seats_takeTrap ..).trans (s.seats_focus_here n)
  have hpeer := (State.seats_takeTrap _ t).trans (State.seats_focus_two (hlead.trans hseats) hne n)
  have hback := State.seats_focus_two (s := { (({ (s.focus s.core.id n).takeTrap t with stalled := false } : State).focus
    p.id n).takeTrap t with stalled := false }) hpeer hne.symm n
  exact congrArg (fun l => (l.headD (s.core.id, s.core.fused)).2) hback

section
variable {s : State} {p : LCore} {o : BitVec 21}
variable (hi : s.Issues .fuse) (h : s.ctx.num = 0) (hlive : ∀ x ∈ s.core.others, x.live = false) (hsize : 1 < s.core.regs.gangsz)
variable (hsplit : s.core.fused = false) (hfirst : s.core.fuseAt = none) (hp : s.peers = [p]) (hne : p.id ≠ s.core.id)
variable (hm : s.members = [s.core.id, p.id]) (ha : p.fuseAt = some o)
include hi h hlive hsize hsplit hfirst hp hne hm ha

theorem exec_fuse_last : exec .fuse s =
    .next (s.atFuse.fuseAll.finish (if s.atFuse.fuseAll.core.fused then .next else .set)) := by
  have hcome : ((s.atFuse.gang s.atFuse.core).any fun m => m.fuseAt.isNone) = false := by
    rw [State.gang_atFuse hp hne hm]
    simp [State.atFuse, ha]
  rw [perform_fuse hi h hlive hsize hsplit hfirst]
  exact perform_ok hi (Op.fuseHere_run hcome)

theorem exec_fuse_same (hpn : p.ctx.num = 0) (ho : s.ctx.pc = o) : exec .fuse s =
    .next (State.done { s.withCores s.core.fusedOn [p.joined o] with stalled := false }) := by
  rw [exec_fuse_last hi h hlive hsize hsplit hfirst hp hne hm ha, State.fuseAll_same hp hne hm ha h hpn ho]
  rfl

theorem exec_fuse_differ (ho : s.ctx.pc ≠ o) : exec .fuse s =
    .next (State.finish ((s.members.foldl (init := s.atFuse) fun (u : State) id =>
      { (u.focus id 0).takeTrap (Trap.plain cGANG 0 2) with stalled := false }).focus s.core.id 0) .set) := by
  have hstays := State.fused_traps_two (s := s.atFuse) hp hne 0 (Trap.plain cGANG 0 2)
  rw [exec_fuse_last hi h hlive hsize hsplit hfirst hp hne hm ha, State.fuseAll_differ hp hne hm ha ho, hm]
  rw [show s.atFuse.core.fused = false from hsplit] at hstays
  refine congrArg (fun f => Host.Outcome.next (State.finish _ f)) ?_
  exact if_neg (Bool.eq_false_iff.mp hstays)
end

end Sys2Proof.Machine

open Sys2Proof Sys2Proof.Machine in
/-- Settles O60: what the members' outcomes make of the gang, and for a gang of two the word in the leader and then in the other. -/
theorem gangLockStep : Obligations.GangLockStep := by
  unfold Obligations.GangLockStep
  refine ⟨⟨?beq, ?bne, ?blt, ?bge, ?bltu, ?bgeu⟩, fun s d a imm bs hl hw hg hlead hm => exec_jalr_split hl hw hg hlead (hm.imp ?_),
    fun s d a b ts => exec_add_gang_traps,
    fun s d a b hl hw hg ⟨id, hid, hnone, _, hp⟩ => exec_add_gang_stalls hl hw hg hid hnone hp,
    fun s p d a b hl hw hg hp hne hm hready => ?add, fun s p hl hw hg hn hp hne hm hready => ?split,
    fun s p o hi hn hlive hsize hsplit hfirst hp hne hpn hm ha => ⟨fun ho => ?same, ?differ⟩⟩
  case beq | bne => exact gangSplits_of (fun _ _ _ _ => rfl) fun _ _ => decide_eq_true_iff
  case blt => exact gangSplits_of (fun _ _ _ _ => rfl) ltS_iff
  case bge => exact gangSplits_of (fun _ _ _ _ => rfl) not_ltS_iff
  case bltu => exact gangSplits_of (fun _ _ _ _ => rfl) ltU_iff
  case bgeu => exact gangSplits_of (fun _ _ _ _ => rfl) not_ltU_iff
  case add =>
    have hlead := hready s.core.id (hm ▸ List.mem_cons_self)
    rw [s.member_self] at hlead
    rw [exec_add_two hl hw hg hp hne hm hlead (hready p.id (hm ▸ List.mem_cons_of_mem _ List.mem_cons_self)), Word.add_eq_ofN,
      Word.add_eq_ofN]
  case split =>
    have hlead := hready s.core.id (hm ▸ List.mem_cons_self)
    rw [s.member_self] at hlead
    rw [exec_split_two hl hw hg hp hne hm hlead (hready p.id (hm ▸ List.mem_cons_of_mem _ List.mem_cons_self)), hn]
    rfl
  case same =>
    refine ⟨_, p.joined o, exec_fuse_same hi hn hlive hsize hsplit hfirst hp hne hm ha hpn ho, rfl, rfl, rfl, ?_,
      rfl, rfl, rfl, rfl, rfl, rfl⟩
    exact State.findCore_peer (p := p.joined o) rfl hne
  case differ => exact exec_fuse_differ hi hn hlive hsize hsplit hfirst hp hne hm ha
  exact fun id b ⟨hnone, ha, hd, halign, hlt, hb⟩ => ⟨⟨hnone, ha, hd, halign, hlt⟩, hb⟩
end

section
/-! The vector words: a body that completes or halts, a register written under a mask (R196), and the words of one, two and three
vector sources. -/

namespace Sys2Proof

theorem Width.bits_dvd_vector (w : Width) : w.bits ∣ 256 := by cases w <;> decide

theorem IntTy.bits_dvd_vector (ty : IntTy) : ty.bits ∣ 256 := by cases ty <;> decide

theorem FltTy.bits_dvd_vector (ty : FltTy) : ty.bits ∣ 256 := by cases ty <;> decide

end Sys2Proof

namespace Sys2Proof.Machine

/-! ### A vector word and its body -/

theorem Op.bind_halt {α β : Type} {op : Op α} {rest : α → Op β} {s : State} {e : Halt} (h : op s = .error e) :
    (op >>= rest) s = .error e := by
  rw [Op.bind_run, h, Op.halted]

theorem Op.countVector_run (entry : Nat) (s : State) : Op.countVector entry s = .ok ((), s.counted entry) := rfl

theorem performVec_ok {i : Instr} {body : Op Unit} {s t : State} (h : s.Issues i) (hb : body s = .ok ((), t)) :
    performVec i body s = .next (t.counted 4).done :=
  performNext_ok h ((Op.bind_ok hb).trans (Op.countVector_run 4 t))

theorem performVec_trap {i : Instr} {body : Op Unit} {s : State} {t : Trap} (h : s.Issues i)
    (hb : body s = .error (.trap t)) : performVec i body s = .next (s.takeTrap t) :=
  performNext_trap h (Op.bind_halt hb)

theorem performVec_stall {i : Instr} {body : Op Unit} {s : State} (h : s.Issues i) (hb : body s = .error .stall) :
    performVec i body s = .next s.standStill :=
  performNext_stall h (Op.bind_halt hb)

/-! ### A register written under a mask (R196) -/

/-- The first `n` elements of a number, those of the mask replaced, packed. -/
def packMasked (w n : Nat) (k : BitVec 32) (x : Nat) (f : Nat → Nat) : Nat :=
  packElems w ((List.range n).map fun l => if k.getLsbD l then f l else elemAt w x l)

theorem elemAt_packMasked (w n : Nat) (k : BitVec 32) (x : Nat) (f : Nat → Nat) {i : Nat} (h : i < n) :
    elemAt w (packMasked w n k x f) i = if k.getLsbD i then f i % 2 ^ w else elemAt w x i := by
  rw [packMasked, elemAt_packElems w _ _ (by simpa using h)]
  simp only [List.getElem_map, List.getElem_range]
  split
  · rfl
  · exact Nat.mod_eq_of_lt (elemAt_lt w x i)

theorem packMasked_lt (w n : Nat) (k : BitVec 32) (x : Nat) (f : Nat → Nat) : packMasked w n k x f < 2 ^ (w * n) := by
  simpa [packMasked] using packElems_lt w ((List.range n).map fun l => if k.getLsbD l then f l else elemAt w x l)

theorem elemAt_maskedElems {w : Nat} (hw : w ∣ 256) (k : BitVec 32) (old : VWord) (f : Nat → Nat) {i : Nat} (h : i < 256 / w) :
    elemAt w (maskedElems w k old f).toNat i = if k.getLsbD i then f i % 2 ^ w else elemAt w old.toNat i := by
  have hpack : maskedElems w k old f = BitVec.ofNat 256 (packMasked w (256 / w) k old.toNat f) := rfl
  have hlt := packMasked_lt w (256 / w) k old.toNat f
  rw [Nat.mul_div_cancel' hw] at hlt
  rw [hpack, BitVec.toNat_ofNat, Nat.mod_eq_of_lt hlt, elemAt_packMasked w _ k _ f h]

theorem masked_maskedElems {w : Nat} (hw : w ∣ 256) (k : BitVec 32) (old : VWord) {f : Nat → Nat} {g : Nat → Int}
    (h : ∀ i < 256 / w, k.getLsbD i = true → (f i : Int) % 2 ^ w = g i % 2 ^ w) :
    Masked w k old (maskedElems w k old f) g := by
  intro i hi
  rw [elemAt_maskedElems hw k old f hi]
  split
  · next hk =>
    rw [← h i hi hk]
    exact Int.natCast_mod ..
  · rfl

/-- A word that writes v[d] under the mask completes with the elements that it writes. -/
theorem performVec_masked {i : Instr} {body : Op Unit} {s : State} {w : Nat} {d : BitVec 5} {k : BitVec 32} {old : VWord}
    {f : Nat → Nat} {g : Nat → Int} (hi : s.Issues i)
    (hb : body s = .ok ((), s.setCtx (s.ctx.setV d.toNat (maskedElems w k old f)))) (hw : w ∣ 256)
    (h : ∀ i, (f i : Int) % 2 ^ w = g i % 2 ^ w) :
    ∃ v : VWord, performVec i body s = .next (s.doneVec d v) ∧ Masked w k old v g :=
  ⟨_, performVec_ok hi hb, masked_maskedElems hw k old fun i _ _ => h i⟩

/-! ### The forms -/

theorem Op.vec2_run {s : State} {w : Nat} {d a b : BitVec 5} {k : BitVec 3} (f : Nat → Nat → Nat) (ha : s.VReady a)
    (hb : s.VReady b) (hd : s.VReady d) : Op.vec2 w d a b k f s = .ok ((), s.setCtx (s.ctx.setV d.toNat
      (maskedElems w (s.K k) (s.V d) fun i => f (elemAt w (s.V a).toNat i) (elemAt w (s.V b).toNat i)))) := by
  simp only [Op.vec2, Op.bind_run, Op.readV_run s _ ha, Op.readV_run s _ hb, Op.readV_run s _ hd, Op.readK_run, Op.answered,
    Op.writeV_run s d _ hd]

theorem Op.vec1_run {s : State} {w : Nat} {d a : BitVec 5} {k : BitVec 3} (f : Nat → Nat) (ha : s.VReady a)
    (hd : s.VReady d) : Op.vec1 w d a k f s = .ok ((), s.setCtx (s.ctx.setV d.toNat
      (maskedElems w (s.K k) (s.V d) fun i => f (elemAt w (s.V a).toNat i)))) := by
  simp only [Op.vec1, Op.bind_run, Op.readV_run s _ ha, Op.readV_run s _ hd, Op.readK_run, Op.answered, Op.writeV_run s d _ hd]

theorem completesV2_of {mk : BitVec 5 → BitVec 5 → BitVec 5 → BitVec 3 → Instr} {w : Nat} {f : Nat → Nat → Int}
    {g : Nat → Nat → Nat} (hexec : ∀ d a b k s, exec (mk d a b k) s = performVec (mk d a b k) (Op.vec2 w d a b k g) s)
    (hw : w ∣ 256) (h : ∀ x y, x < 2 ^ w → y < 2 ^ w → (g x y : Int) % 2 ^ w = f x y % 2 ^ w) : CompletesV2 mk w f := by
  intro s d a b k hi ha hb hd
  rw [hexec]
  exact performVec_masked hi (Op.vec2_run g ha hb hd) hw fun i => h _ _ (elemAt_lt ..) (elemAt_lt ..)

theorem completesV1_of {mk : BitVec 5 → BitVec 5 → BitVec 3 → Instr} {w : Nat} {f : Nat → Int} {g : Nat → Nat}
    (hexec : ∀ d a k s, exec (mk d a k) s = performVec (mk d a k) (Op.vec1 w d a k g) s) (hw : w ∣ 256)
    (h : ∀ x, x < 2 ^ w → (g x : Int) % 2 ^ w = f x % 2 ^ w) : CompletesV1 mk w f := by
  intro s d a k hi ha hd
  rw [hexec]
  exact performVec_masked hi (Op.vec1_run g ha hd) hw fun i => h _ (elemAt_lt ..)

end Sys2Proof.Machine
end

section
/-! O38. The integer vector words: the value that each writes, in the integers mod 2^w. -/

namespace Sys2Proof.Machine

theorem clampI_eq {lo hi : Int} (h : lo ≤ hi) (v : Int) : clampI lo hi v = max lo (min hi v) := by
  unfold clampI
  split_ifs <;> omega

theorem elemOfInt_emod (w : Nat) (v : Int) : (elemOfInt w v : Int) % 2 ^ w = v % 2 ^ w := by
  rw [elemOfInt, Int.toNat_of_nonneg (Int.emod_nonneg _ (by positivity)), Nat.cast_pow, Nat.cast_ofNat, Int.emod_emod_of_dvd _ dvd_rfl]

theorem natCast_mod_emod (w n : Nat) : ((n % 2 ^ w : Nat) : Int) % 2 ^ w = n % 2 ^ w := by
  simp

theorem elemMin_eq (signed : Bool) (w : Nat) : elemMin signed w = if signed then -2 ^ (w - 1) else 0 := by
  simp [elemMin]

theorem elemMax_eq (signed : Bool) (w : Nat) : elemMax signed w = if signed then 2 ^ (w - 1) - 1 else 2 ^ w - 1 := by
  simp [elemMax]

theorem elemMin_le_elemMax (signed : Bool) (w : Nat) : elemMin signed w ≤ elemMax signed w := by
  have := Nat.two_pow_pos (w - 1)
  have := Nat.two_pow_pos w
  cases signed <;> simp only [elemMin, elemMax] <;> grind

/-- Subtraction mod 2^w never borrows. -/
theorem wrapped_sub_emod {w y : Nat} (x : Nat) (hy : y < 2 ^ w) :
    (((x + 2 ^ w - y) % 2 ^ w : Nat) : Int) % 2 ^ w = ((x : Int) - y) % 2 ^ w := by
  rw [natCast_mod_emod, Nat.cast_sub (by omega), Nat.cast_add, Nat.cast_pow, Nat.cast_ofNat, add_sub_right_comm,
    Int.add_emod_right]

/-- An integer word on elements read as the type's, by the integer that it gives. -/
theorem completesVint_of {mk : BitVec 5 → BitVec 5 → BitVec 5 → BitVec 3 → Instr} {ty : IntTy} {f : Int → Int → Int}
    (hexec : ∀ d a b k s, exec (mk d a b k) s = performVec (mk d a b k) (Op.vint ty d a b k f) s) :
    CompletesV2 mk ty.bits fun x y => f (elemInt ty.signed ty.bits x) (elemInt ty.signed ty.bits y) :=
  completesV2_of hexec ty.bits_dvd_vector fun _ _ _ _ => elemOfInt_emod _ _

/-- An integer word on elements read as natural numbers, by the number that it gives mod 2^w. -/
theorem completesVbits_of {mk : BitVec 5 → BitVec 5 → BitVec 5 → BitVec 3 → Instr} {ty : IntTy} {g : Nat → Nat → Nat}
    {f : Nat → Nat → Int} (hexec : ∀ d a b k s, exec (mk d a b k) s = performVec (mk d a b k) (Op.vbits ty d a b k g) s)
    (h : ∀ x y, x < 2 ^ ty.bits → y < 2 ^ ty.bits → (g x y : Int) % 2 ^ ty.bits = f x y % 2 ^ ty.bits) :
    CompletesV2 mk ty.bits f :=
  completesV2_of hexec ty.bits_dvd_vector fun x y hx hy => (natCast_mod_emod _ _).trans (h x y hx hy)

end Sys2Proof.Machine

open Sys2Proof Sys2Proof.Machine in
/-- Settles O38: each word by the integer that it writes mod 2^w. -/
theorem vectorIntegerResults : Obligations.VectorIntegerResults := by
  unfold Obligations.VectorIntegerResults
  intro ty
  refine ⟨?add, ?sub, ?mul, ?min, ?max, ?and, ?or, ?xor, ?andn, ?shl, ?shr, ?sar, ?adds, ?subs, ?avg, ?abs⟩
  case min => exact completesVint_of (f := min) fun _ _ _ _ _ => rfl
  case max => exact completesVint_of (f := max) fun _ _ _ _ _ => rfl
  case avg => exact completesVint_of (f := fun x y => (x + y + 1) / 2) fun _ _ _ _ _ => rfl
  case adds =>
    simp only [← elemMin_eq, ← elemMax_eq, ← clampI_eq (elemMin_le_elemMax ..)]
    exact completesVint_of (f := fun x y => clampTo ty (x + y)) fun _ _ _ _ _ => rfl
  case subs =>
    simp only [← elemMin_eq, ← elemMax_eq, ← clampI_eq (elemMin_le_elemMax ..)]
    exact completesVint_of (f := fun x y => clampTo ty (x - y)) fun _ _ _ _ _ => rfl
  case and | or | xor | andn => exact completesVbits_of (fun _ _ _ _ _ => rfl) fun _ _ _ _ => rfl
  case add => exact completesVbits_of (fun _ _ _ _ _ => rfl) fun _ _ _ _ => by push_cast; rfl
  case mul => exact completesVbits_of (fun _ _ _ _ _ => rfl) fun _ _ _ _ => by push_cast; rfl
  case shl => exact completesVbits_of (fun _ _ _ _ _ => rfl) fun _ _ _ _ => by push_cast; rfl
  case shr => exact completesVbits_of (fun _ _ _ _ _ => rfl) fun _ _ _ _ => by push_cast; rfl
  case sub => exact completesV2_of (fun _ _ _ _ _ => rfl) ty.bits_dvd_vector fun x _ _ hy => wrapped_sub_emod x hy
  case sar =>
    refine completesVbits_of (fun _ _ _ _ _ => rfl) fun x y _ _ => ?_
    rw [elemOfInt_emod, Nat.cast_pow, Nat.cast_ofNat]
  case abs =>
    refine completesV1_of (fun _ _ _ _ => rfl) ty.bits_dvd_vector fun x _ => ?_
    rw [natCast_mod_emod, Int.natCast_natAbs]
end

section
/-! O39. The float vector words: the forms, and the rules of R198 and R66 for the codes that they write. -/

namespace Sys2Proof.Machine

/-! ### The forms -/

theorem Op.vfma_run {s : State} {ty : FltTy} {negP negC : Bool} {d a b c : BitVec 5} {k : BitVec 3} (ha : s.VReady a)
    (hb : s.VReady b) (hc : s.VReady c) (hd : s.VReady d) : Op.vfma ty negP negC d a b c k s =
      .ok ((), s.setCtx (s.ctx.setV d.toNat (maskedElems ty.bits (s.K k) (s.V d) fun i => fmaF (fmtOf ty) negP negC
        (elemAt ty.bits (s.V a).toNat i) (elemAt ty.bits (s.V b).toNat i) (elemAt ty.bits (s.V c).toNat i)))) := by
  simp only [Op.vfma, Op.bind_run, Op.readV_run s _ ha, Op.readV_run s _ hb, Op.readV_run s _ hc, Op.readV_run s _ hd,
    Op.readK_run, Op.answered, Op.writeV_run s d _ hd]

theorem completesVfma_of {mk : BitVec 5 → BitVec 5 → BitVec 5 → BitVec 5 → BitVec 3 → Instr} {ty : FltTy} {negP negC : Bool}
    (hexec : ∀ d a b c k s, exec (mk d a b c k) s = performVec (mk d a b c k) (Op.vfma ty negP negC d a b c k) s) :
    CompletesV3 mk ty.bits fun x y z => fmaF (fmtOf ty) negP negC x y z := by
  intro s d a b c k hi ha hb hc hd
  rw [hexec]
  exact performVec_masked hi (Op.vfma_run ha hb hc hd) ty.bits_dvd_vector fun _ => rfl

/-- The top bit of an element inverted is half its range added, mod its range. -/
theorem xor_top_mod (n x : Nat) : (x ^^^ 2 ^ n) % 2 ^ (n + 1) = (x + 2 ^ n) % 2 ^ (n + 1) := by
  have hpos := Nat.two_pow_pos n
  have hlow : (x ^^^ 2 ^ n) % 2 ^ n = (x + 2 ^ n) % 2 ^ n := by simp [Nat.xor_mod_two_pow]
  have htop : (x ^^^ 2 ^ n) / 2 ^ n % 2 = (x + 2 ^ n) / 2 ^ n % 2 := by
    rw [Nat.xor_div_two_pow, Nat.div_self hpos, Nat.xor_mod_two_eq, Nat.add_div_right x hpos]
  rw [Nat.mod_pow_succ, Nat.mod_pow_succ, hlow, htop]

/-! ### Two operands (R198) -/

/-- A sum, difference or product by its exact value on operands that are no NaN. -/
def binaryCode (f : Fmt) (op : FVal → FVal → Option FVal) (a b : Nat) : Nat :=
  let x := decodeF f a
  let y := decodeF f b
  if x.isNan || y.isNan then finishF f [x, y] (some x) else finishF f [x, y] (op x y)

theorem addCode_eq (f : Fmt) (a b : Nat) : addCode f a b = binaryCode f addF a b := rfl

theorem subCode_eq (f : Fmt) (a b : Nat) : subCode f a b = binaryCode f (fun x y => addF x y.neg) a b := rfl

theorem mulCode_eq (f : Fmt) (a b : Nat) : mulCode f a b = binaryCode f mulF a b := rfl

theorem firstNan_cons {f : Fmt} {v : FVal} (h : v.isNan = false) (l : List FVal) : firstNan f (v :: l) = firstNan f l := by
  cases v with
  | nan n fr => cases h
  | inf n => rfl
  | num n m e => rfl

section
variable {f : Fmt} {op : FVal → FVal → Option FVal} {a b : Nat}

theorem binaryCode_nan_left {n : Bool} {fr : Nat} (hx : decodeF f a = .nan n fr) : binaryCode f op a b = quietCode f n fr := by
  simp [binaryCode, hx, FVal.isNan, finishF, firstNan]

theorem binaryCode_nan_right {n : Bool} {fr : Nat} (hx : (decodeF f a).isNan = false) (hy : decodeF f b = .nan n fr) :
    binaryCode f op a b = quietCode f n fr := by
  simp [binaryCode, hy, FVal.isNan, finishF, firstNan_cons hx, firstNan]

variable {x y v : FVal} (hx : decodeF f a = x) (hy : decodeF f b = y) (hxn : x.isNan = false) (hyn : y.isNan = false)
include hx hy hxn hyn

theorem binaryCode_invalid (h : op x y = none) : binaryCode f op a b = nanCode f := by
  simp [binaryCode, hx, hy, hxn, hyn, h, finishF]

theorem binaryCode_value (h : op x y = some v) : binaryCode f op a b = encodeF f .rne 0 v := by
  simp [binaryCode, hx, hy, hxn, hyn, h, finishF, firstNan_cons hxn, firstNan_cons hyn, firstNan]

end

theorem scaledInt_eq (neg : Bool) (m : Nat) (e lo : Int) :
    scaledInt neg m e lo = (if neg then -1 else 1) * (m * 2 ^ (e - lo).toNat) := by
  cases neg <;> simp [scaledInt, pow2]

/-- The exact sum of two finite values, rounded once. -/
theorem roundsSum_addNum (f : Fmt) (s : Bool) (m : Nat) (e : Int) (t : Bool) (n : Nat) (g : Int) :
    RoundsSum f (encodeF f .rne 0 (addNum s m e t n g)) s m e t n g := by
  have hlo : (if e < g then e else g) = min e g := by split <;> omega
  simp only [RoundsSum, addNum, hlo, scaledInt_eq]
  exact apply_ite (encodeF f .rne 0) _ _ _

/-! ### Three operands (R205) -/

section
variable {f : Fmt} {negP negC : Bool} {a b c : Nat}

theorem fmaF_nan_left {n : Bool} {fr : Nat} (hx : decodeF f a = .nan n fr) : fmaF f negP negC a b c = quietCode f n fr := by
  simp [fmaF, hx, FVal.isNan, finishF, firstNan]

theorem fmaF_nan_right {n : Bool} {fr : Nat} (hx : (decodeF f a).isNan = false) (hy : decodeF f b = .nan n fr) :
    fmaF f negP negC a b c = quietCode f n fr := by
  simp [fmaF, hy, FVal.isNan, finishF, firstNan_cons hx, firstNan]

theorem fmaF_invalid {x y : FVal} (hx : decodeF f a = x) (hy : decodeF f b = y) (hxn : x.isNan = false) (hyn : y.isNan = false)
    (h : mulF x y = none) : fmaF f negP negC a b c = nanCode f := by
  simp [fmaF, hx, hy, hxn, hyn, h]

variable {n p : Bool} {m q : Nat} {e g : Int} (hx : decodeF f a = .num n m e) (hy : decodeF f b = .num p q g)
include hx hy

theorem fmaF_nan_addend {u : Bool} {fr : Nat} (hz : decodeF f c = .nan u fr) :
    fmaF f negP negC a b c = quietCode f u fr := by
  simp [fmaF, hx, hy, hz, FVal.isNan, mulF, finishF, firstNan]

theorem fmaF_inf_addend {u : Bool} (hz : decodeF f c = .inf u) : fmaF f negP negC a b c = infCode f (u != negC) := by
  cases negP <;> cases negC <;> simp [fmaF, hx, hy, hz, FVal.isNan, FVal.neg, mulF, addF, finishF, firstNan, encodeF]

theorem fmaF_finite {u : Bool} {w : Nat} {v : Int} (hz : decodeF f c = .num u w v) : fmaF f negP negC a b c =
    encodeF f .rne 0 (addNum ((n != p) != negP) (m * q) (e + g) (u != negC) w v) := by
  cases negP <;> cases negC <;> simp [fmaF, hx, hy, hz, FVal.isNan, FVal.neg, mulF, addF, finishF, firstNan]

end

/-! ### Minima and maxima (R59, R66) -/

section
variable {f : Fmt} {high : Bool} {x : Extreme} {a b : Nat}

/-- The running state after a code that is a NaN. -/
theorem Extreme.take_nan {n : Bool} {fr : Nat} (h : decodeF f a = .nan n fr) :
    x.take f high a = { x with payload := some (x.payload.elim (payloadOf fr) (min (payloadOf fr))) } := by
  simp only [Extreme.take, h]
  cases x.payload <;> rfl

/-- The lower or the higher of two codes, −0 below +0; the first where neither is. -/
def extremeOf (f : Fmt) (high : Bool) (a b : Nat) : Nat :=
  if high then (if orderKey f a < orderKey f b then b else a) else (if orderKey f b < orderKey f a then b else a)

/-- The running state after a code that is no NaN. -/
theorem Extreme.take_value (h : (decodeF f a).isNan = false) :
    x.take f high a = { x with
      posInf := x.posInf || decodeF f a == .inf false
      negInf := x.negInf || decodeF f a == .inf true
      best := some (x.best.elim a fun o => extremeOf f high o a) } := by
  cases hv : decodeF f a with
  | nan n fr => rw [hv] at h; cases h
  | inf n | num n m e =>
    simp only [Extreme.take, hv]
    cases x.best <;> rfl

theorem extremeCode_nan_value {empty : Nat} {n : Bool} {fr : Nat} (ha : decodeF f a = .nan n fr)
    (hb : (decodeF f b).isNan = false) : extremeCode f high empty [a, b] = payloadCode f (payloadOf fr) := by
  simp [extremeCode, Extreme.take_nan ha, Extreme.take_value hb, Extreme.result, Extreme.start]

theorem extremeCode_value_nan {empty : Nat} {n : Bool} {fr : Nat} (ha : (decodeF f a).isNan = false)
    (hb : decodeF f b = .nan n fr) : extremeCode f high empty [a, b] = payloadCode f (payloadOf fr) := by
  simp [extremeCode, Extreme.take_nan hb, Extreme.take_value ha, Extreme.result, Extreme.start]

theorem extremeCode_nans {empty : Nat} {n m : Bool} {fr fs : Nat} (ha : decodeF f a = .nan n fr)
    (hb : decodeF f b = .nan m fs) : extremeCode f high empty [a, b] = payloadCode f (min (payloadOf fr) (payloadOf fs)) := by
  simp [extremeCode, Extreme.take_nan ha, Extreme.take_nan hb, Extreme.result, Extreme.start, min_comm]

theorem extremeCode_values {empty : Nat} (ha : (decodeF f a).isNan = false) (hb : (decodeF f b).isNan = false) :
    extremeCode f high empty [a, b] =
      if (decodeF f a = .inf false ∨ decodeF f b = .inf false) ∧ (decodeF f a = .inf true ∨ decodeF f b = .inf true)
      then nanCode f else extremeOf f high a b := by
  simp [extremeCode, Extreme.take_value ha, Extreme.take_value hb, Extreme.result, Extreme.start]

end

end Sys2Proof.Machine

open Sys2Proof Sys2Proof.Machine in
/-- Settles O39: the forms, and the codes by what each operand decodes to. -/
theorem vectorFloatResults : Obligations.VectorFloatResults := by
  unfold Obligations.VectorFloatResults
  refine ⟨fun ty => ⟨?add, ?sub, ?mul, ?min, ?max, ?abs, ?neg⟩, completesVfma_of (ty := .f32) fun _ _ _ _ _ _ => rfl,
    completesVfma_of (ty := .f32) fun _ _ _ _ _ _ => rfl, completesVfma_of (ty := .f32) fun _ _ _ _ _ _ => rfl,
    completesVfma_of (ty := .f32) fun _ _ _ _ _ _ => rfl, completesVfma_of (ty := .bf16) fun _ _ _ _ _ _ => rfl,
    completesVfma_of (ty := .bf16) fun _ _ _ _ _ _ => rfl, completesVfma_of (ty := .f16) fun _ _ _ _ _ _ => rfl,
    completesVfma_of (ty := .f16) fun _ _ _ _ _ _ => rfl, fun ty x y => ⟨?nanX, ?nanY, ?infX, ?finite⟩,
    fun ty negP negC x y z => ⟨?fmaX, ?fmaY, ?fmaInvalid, ?fmaFinite⟩, fun ty high x y => ⟨?extX, ?extY, ?extInf, ?extValue⟩⟩
  case add | sub | mul | min | max => exact completesV2_of (fun _ _ _ _ _ => rfl) ty.bits_dvd_vector fun _ _ _ _ => rfl
  case abs => exact completesV1_of (fun _ _ _ _ => rfl) ty.bits_dvd_vector fun _ _ => rfl
  case neg =>
    refine completesV1_of (fun _ _ _ _ => rfl) ty.bits_dvd_vector fun x _ => ?_
    cases ty <;> exact_mod_cast xor_top_mod _ x
  case nanX =>
    simp only [addCode_eq, subCode_eq, mulCode_eq]
    exact fun n fr hx => ⟨binaryCode_nan_left hx, binaryCode_nan_left hx, binaryCode_nan_left hx⟩
  case nanY =>
    simp only [addCode_eq, subCode_eq, mulCode_eq]
    exact fun n fr hx hy => ⟨binaryCode_nan_right hx hy, binaryCode_nan_right hx hy, binaryCode_nan_right hx hy⟩
  case infX =>
    simp only [addCode_eq, subCode_eq, mulCode_eq]
    intro n hx
    refine ⟨fun hy => ?_, fun hy => ?_, fun hy => ?_, fun m e hy => ⟨?_, ?_⟩, fun p q r hy => ⟨?_, ?_, fun hq => ?_⟩⟩
    · exact binaryCode_invalid hx hy rfl rfl (by simp [addF])
    · exact binaryCode_invalid hx hy rfl rfl (by simp [addF, FVal.neg])
    · exact binaryCode_value (v := .inf n) hx hy rfl rfl (if_pos rfl)
    · exact binaryCode_invalid hx hy rfl rfl rfl
    · exact binaryCode_invalid hy hx rfl rfl rfl
    · exact binaryCode_value (v := .inf n) hx hy rfl rfl rfl
    · exact binaryCode_value (v := .inf n) hx hy rfl rfl rfl
    · exact binaryCode_value (v := .inf (n != p)) hx hy rfl rfl (if_neg hq)
  case finite =>
    simp only [addCode_eq, subCode_eq, mulCode_eq]
    intro n m e p q r hx hy
    refine ⟨?_, ?_, binaryCode_value (v := .num (n != p) (m * q) (e + r)) hx hy rfl rfl rfl⟩
    · rw [binaryCode_value hx hy rfl rfl rfl]
      exact roundsSum_addNum _ n m e p q r
    · rw [binaryCode_value hx hy rfl rfl rfl]
      exact roundsSum_addNum _ n m e (!p) q r
  case fmaX => exact fun n fr hx => fmaF_nan_left hx
  case fmaY => exact fun n fr hx hy => fmaF_nan_right hx hy
  case fmaInvalid =>
    rintro n m e (⟨hx, hy⟩ | ⟨hy, hx⟩)
    · exact fmaF_invalid hx hy rfl rfl rfl
    · exact fmaF_invalid hx hy rfl rfl rfl
  case fmaFinite =>
    intro n m e p q g hx hy
    refine ⟨fun u fr => fmaF_nan_addend hx hy, fun u => fmaF_inf_addend hx hy, fun u w v hz => ?_⟩
    rw [fmaF_finite hx hy hz]
    exact roundsSum_addNum ..
  case extX => exact fun n fr hx => ⟨extremeCode_nan_value hx, fun m fs => extremeCode_nans hx⟩
  case extY => exact fun n fr => extremeCode_value_nan
  case extInf =>
    intro n hx hy
    rw [extremeCode_values (by rw [hx]; rfl) (by rw [hy]; rfl), hx, hy]
    cases n <;> simp
  case extValue =>
    intro hx hy hxy
    rw [extremeCode_values hx hy, if_neg]
    · rfl
    rintro ⟨hp | hp, hn | hn⟩
    · exact absurd (hp.symm.trans hn) (by simp)
    · exact hxy false hp hn
    · exact hxy true hn hp
    · exact absurd (hp.symm.trans hn) (by simp)
end

section
/-! O40. Conversions, packing and scaling: each word's body, and one slot of a register read and replaced. -/

namespace Sys2Proof.Machine

/-! ### The origin register (R207) -/

/-- What the origin register gives: under `.sr` alone it is read. -/
def State.originOf (s : State) (rm : RMode) (b : BitVec 6) : Word := if rm = .sr then s.G b else 0

theorem Op.origin_run {s : State} {rm : RMode} {b : BitVec 6} (h : rm = .sr → s.CanRead b) :
    Op.origin rm b s = .ok (s.originOf rm b, s) := by
  unfold Op.origin State.originOf
  split
  · next hr => exact Op.readG_run s b (h hr)
  · rfl

/-! ### Conversions (R208) -/

theorem cvtFmt_dvd_vector (c : BitVec 3) : (cvtFmt c).w ∣ 256 := by
  unfold cvtFmt
  split <;> decide

section
variable {s : State} {d a b : BitVec 5} {k : BitVec 3} {rm : RMode} (ha : s.VReady a) (hd : s.VReady d)
  (hb : rm = .sr → s.CanRead (b.setWidth 6))
include ha hd hb

theorem Op.convert_run (w : Nat) (f : Nat → Nat → Nat) : Op.convert w d a b k rm f s =
    .ok ((), s.setCtx (s.ctx.setV d.toNat (maskedElems w (s.K k) (s.V d) fun i =>
      f (s.draw rm (s.originOf rm (b.setWidth 6)) i) (elemAt w (s.V a).toNat i)))) := by
  simp only [Op.convert, Op.bind_run, Op.readV_run s _ ha, Op.readV_run s _ hd, Op.origin_run hb, Op.readK_run, Op.get_run,
    Op.answered, Op.writeV_run s d _ hd]

theorem Op.widen_run (src : Fmt) : Op.widen src d a b k rm s =
    .ok ((), s.setCtx (s.ctx.setV d.toNat (maskedElems 32 (s.K k) (s.V d) fun i =>
      convertF src fmtF32 rm 0 (elemAt 16 (s.V a).toNat i)))) := by
  simp only [Op.widen, Op.bind_run, Op.readV_run s _ ha, Op.readV_run s _ hd, Op.origin_run hb, Op.readK_run, Op.answered,
    Op.writeV_run s d _ hd]

/-- The eight elements of a narrowing VCVT, and zeros above them. -/
theorem Op.narrow_run (dst : Fmt) : ∃ v : VWord, Op.narrow dst d a b k rm s = .ok ((), s.setCtx (s.ctx.setV d.toNat v)) ∧
    v.toNat < 2 ^ 128 ∧ ∀ i < 8, elemAt 16 v.toNat i = if (s.K k).getLsbD i
      then convertF fmtF32 dst rm (s.draw rm (s.originOf rm (b.setWidth 6)) i) (elemAt 32 (s.V a).toNat i) % 2 ^ 16
      else elemAt 16 (s.V d).toNat i := by
  have hlt := packMasked_lt 16 8 (s.K k) (s.V d).toNat fun i =>
    convertF fmtF32 dst rm (s.draw rm (s.originOf rm (b.setWidth 6)) i) (elemAt 32 (s.V a).toNat i)
  have hv := (BitVec.toNat_ofNat _ 256).trans (Nat.mod_eq_of_lt (hlt.trans (by decide)))
  refine ⟨_, ?_, hv.trans_lt hlt, fun i hi => ?_⟩
  · simp only [Op.narrow, Op.bind_run, Op.readV_run s _ ha, Op.readV_run s _ hd, Op.origin_run hb, Op.readK_run, Op.get_run,
      Op.answered, Op.writeV_run s d _ hd, packMasked]
  · rw [hv]
    exact elemAt_packMasked 16 8 _ _ _ hi

end

/-! ### Slots (R209) -/

theorem packBits_slot_le (p : PackFmt) (g : Word) : packBits p * 8 * packSlot p g + 8 * packBits p ≤ 256 := by
  have h (n : Nat) (hn : 0 < n) : g.bits 34 32 % n + 1 ≤ n := Nat.mod_lt _ hn
  have h4 := h 4 (by decide)
  have h8 := h 8 (by decide)
  cases p <;> simp [packBits, packSlot, packSlots] <;> omega

theorem testBit_elemAt (w x i j : Nat) : (elemAt w x i).testBit j = (decide (j < w) && x.testBit (w * i + j)) := by
  rw [elemAt, Nat.testBit_mod_two_pow, Nat.testBit_div_two_pow, Nat.add_comm]

/-- Some bits of a register replaced, bit by bit. -/
theorem getLsbD_replaceBits (x : VWord) (lo n v : Nat) {j : Nat} (h : j < 256) : (VWord.replaceBits x lo n v).getLsbD j =
    if lo ≤ j ∧ j < lo + n then v.testBit (j - lo) else x.getLsbD j := by
  have hlow : x.toNat % 2 ^ lo < 2 ^ lo := Nat.mod_lt _ (Nat.two_pow_pos lo)
  have hmid : v % 2 ^ n < 2 ^ n := Nat.mod_lt _ (Nat.two_pow_pos n)
  have hparts : x.toNat % 2 ^ lo + 2 ^ lo * (v % 2 ^ n) + 2 ^ (lo + n) * (x.toNat / 2 ^ (lo + n)) =
      2 ^ lo * (2 ^ n * (x.toNat / 2 ^ (lo + n)) + v % 2 ^ n) + x.toNat % 2 ^ lo := by ring
  simp only [VWord.replaceBits, BitVec.getLsbD_ofNat, h, decide_true, Bool.true_and, hparts, Nat.testBit_two_pow_mul_add _ hlow,
    Nat.testBit_two_pow_mul_add _ hmid, Nat.testBit_mod_two_pow, Nat.testBit_div_two_pow, BitVec.testBit_toNat]
  by_cases hl : j < lo
  · simp [hl]
  · by_cases hn : j - lo < n
    · simp [hl, hn, Nat.not_lt.mp hl, show j < lo + n by omega]
    · simp [hl, hn, show ¬ j < lo + n by omega, show j - lo - n + (lo + n) = j by omega]

/-- An element of the bits that replace others. -/
theorem elemAt_replaceBits (x : VWord) {lo n w l : Nat} (v : Nat) (hlo : lo + n ≤ 256) (hl : w * (l + 1) ≤ n) :
    elemAt w ((VWord.replaceBits x lo n v).toNat / 2 ^ lo) l = elemAt w v l := by
  refine Nat.eq_of_testBit_eq fun j => ?_
  rw [testBit_elemAt, testBit_elemAt, Nat.testBit_div_two_pow, BitVec.testBit_toNat]
  by_cases hj : j < w
  · have hin : w * l + j < n := by rw [Nat.mul_succ] at hl; omega
    rw [getLsbD_replaceBits _ _ _ _ (by omega), if_pos (by omega), Nat.add_sub_cancel]
  · simp [hj]

/-! ### Packing and scaling (R209, R210) -/

theorem elemInt_eq_toInt (l e : Nat) : elemInt true (l + 1) (e % 2 ^ (l + 1)) = (BitVec.ofNat (l + 1) e).toInt := by
  have hhalf : 2 ^ l ≤ e % 2 ^ (l + 1) ↔ ¬ 2 * (e % 2 ^ (l + 1)) < 2 ^ (l + 1) := by rw [Nat.pow_succ]; omega
  simp only [elemInt, BitVec.toInt_eq_toNat_cond, BitVec.toNat_ofNat, Bool.true_and, Nat.add_sub_cancel, decide_eq_true_eq,
    hhalf, ite_not]

theorem elemInt_low_half (g : Word) : elemInt true 16 (g.bits 15 0) = (g.setWidth 16).toInt := by
  have h := elemInt_eq_toInt 15 g.toNat
  rwa [BitVec.ofNat_toNat, ← Nat.div_one (g.toNat)] at h

section
variable {s : State} {d a b : BitVec 5} {k : BitVec 3} {rm : RMode} (ha : s.VReady a) (hd : s.VReady d)
  (hg : s.CanRead (b.setWidth 6)) (ho : rm = .sr → s.CanRead ((b + 1).setWidth 6))
include ha hd hg ho

theorem exec_vpack {p : PackFmt} (hi : s.Issues (.vpack d a b k rm p)) {lo : Nat}
    (hlo : packBits p * 8 * packSlot p (s.G (b.setWidth 6)) = lo) :
    ∃ v : VWord, exec (.vpack d a b k rm p) s = .next (s.doneVec d v) ∧
      (∀ l < 8, elemAt (packBits p) (v.toNat / 2 ^ lo) l = if (s.K k).getLsbD l
        then packElem p rm (s.draw rm (s.originOf rm ((b + 1).setWidth 6)) l) (s.G (b.setWidth 6)) (elemAt 32 (s.V a).toNat l) %
          2 ^ packBits p
        else elemAt (packBits p) ((s.V d).toNat / 2 ^ lo) l) ∧
      ∀ j < 256, j < lo ∨ lo + 8 * packBits p ≤ j → v.getLsbD j = (s.V d).getLsbD j := by
  have hfit := packBits_slot_le p (s.G (b.setWidth 6))
  rw [hlo] at hfit
  refine ⟨VWord.replaceBits (s.V d) lo (8 * packBits p) (packMasked (packBits p) 8 (s.K k) ((s.V d).toNat / 2 ^ lo) fun l =>
    packElem p rm (s.draw rm (s.originOf rm ((b + 1).setWidth 6)) l) (s.G (b.setWidth 6)) (elemAt 32 (s.V a).toNat l)),
    performVec_ok hi ?_, fun l hl => ?_, fun j hj hout => ?_⟩
  · simp only [Op.bind_run, Op.readV_run s _ ha, Op.readV_run s _ hd, Op.readG_run s _ hg, Op.origin_run ho, Op.readK_run,
      Op.get_run, Op.answered, Op.writeV_run s d _ hd, hlo, packMasked]
  · rw [elemAt_replaceBits _ _ hfit (by rw [Nat.mul_comm 8]; exact Nat.mul_le_mul_left _ hl)]
    exact elemAt_packMasked _ 8 _ _ _ hl
  · rw [getLsbD_replaceBits _ _ _ _ hj, if_neg (by omega)]

theorem exec_vunpk {p : PackFmt} (hi : s.Issues (.vunpk d a b k rm p)) :
    ∃ v : VWord, exec (.vunpk d a b k rm p) s = .next (s.doneVec d v) ∧ Masked 32 (s.K k) (s.V d) v fun l =>
      unpackElem p rm (s.draw rm (s.originOf rm ((b + 1).setWidth 6)) l) (s.G (b.setWidth 6)) (elemAt (packBits p)
        ((s.V a).toNat / 2 ^ (packBits p * 8 * packSlot p (s.G (b.setWidth 6)))) l) := by
  refine performVec_masked hi ?_ (by decide) fun _ => rfl
  simp only [Op.bind_run, Op.readV_run s _ ha, Op.readV_run s _ hd, Op.readG_run s _ hg, Op.origin_run ho, Op.readK_run,
    Op.get_run, Op.answered, Op.writeV_run s d _ hd]

theorem exec_vscale {ty : FltTy} (hi : s.Issues (.vscale d a b k rm ty)) :
    ∃ v : VWord, exec (.vscale d a b k rm ty) s = .next (s.doneVec d v) ∧ Masked ty.bits (s.K k) (s.V d) v fun l =>
      encodeF (fmtOf ty) rm (s.draw rm (s.originOf rm ((b + 1).setWidth 6)) l)
        ((decodeF (fmtOf ty) (elemAt ty.bits (s.V a).toNat l)).scale (((s.G (b.setWidth 6)).setWidth 16).toInt)) := by
  refine performVec_masked hi ?_ ty.bits_dvd_vector fun _ => rfl
  simp only [Op.bind_run, Op.readV_run s _ ha, Op.readV_run s _ hd, Op.readG_run s _ hg, Op.origin_run ho, Op.readK_run,
    Op.get_run, Op.answered, Op.writeV_run s d _ hd, elemInt_low_half]

end

end Sys2Proof.Machine

open Sys2Proof Sys2Proof.Machine in
/-- Settles O40: VCVT by its code, the other words by their bodies, and a slot by its bits. -/
theorem vectorConversions : Obligations.VectorConversions := by
  unfold Obligations.VectorConversions
  intro s d a b k rm ha hd
  refine ⟨fun c hc hi hb => ?cvt, fun c hi hb => ?cvti, fun c hi hb => ?cvtf, fun hg ho => ⟨fun p hi => ?pack, fun p hi => ?unpk,
    fun ty hi => exec_vscale ha hd hg ho hi⟩⟩
  case cvt =>
    have hcodes : c = 0 ∨ c = 1 ∨ c = 2 ∨ c = 3 ∨ c = 4 ∨ c = 5 := by bv_omega
    rcases hcodes with rfl | rfl | rfl | rfl | rfl | rfl
    · obtain ⟨v, hrun, hv⟩ := Op.narrow_run (k := k) ha hd hb fmtBf16
      exact ⟨v, performVec_ok hi hrun, fun _ => hv, by simp, by simp, by simp⟩
    · obtain ⟨v, hrun, hv⟩ := Op.narrow_run (k := k) ha hd hb fmtF16
      exact ⟨v, performVec_ok hi hrun, fun _ => hv, by simp, by simp, by simp⟩
    · obtain ⟨v, hrun, hv⟩ := performVec_masked hi (Op.widen_run ha hd hb fmtBf16) (by decide) fun _ => rfl
      exact ⟨v, hrun, by simp, fun _ => hv, by simp, by simp⟩
    · obtain ⟨v, hrun, hv⟩ := performVec_masked hi (Op.widen_run ha hd hb fmtF16) (by decide) fun _ => rfl
      exact ⟨v, hrun, by simp, fun _ => hv, by simp, by simp⟩
    · obtain ⟨v, hrun, hv⟩ := performVec_masked hi (Op.convert_run ha hd hb 16 _) (by decide) fun _ => rfl
      exact ⟨v, hrun, by simp, by simp, fun _ => hv, by simp⟩
    · obtain ⟨v, hrun, hv⟩ := performVec_masked hi (Op.convert_run ha hd hb 16 _) (by decide) fun _ => rfl
      exact ⟨v, hrun, by simp, by simp, by simp, fun _ => hv⟩
  case cvti => exact performVec_masked hi (Op.convert_run ha hd hb _ _) (cvtFmt_dvd_vector c) fun _ => rfl
  case cvtf => exact performVec_masked hi (Op.convert_run ha hd hb _ _) (cvtFmt_dvd_vector c) fun _ => rfl
  case pack => exact exec_vpack ha hd hg ho hi (by rw [packSlot, packSlots, Nat.mul_comm (packBits p)])
  case unpk =>
    have h := exec_vunpk ha hd hg ho hi
    rw [packSlot, packSlots, Nat.mul_comm (packBits p)] at h
    exact h
end

section
/-! O42. The mask words and the draws: a mask bit by bit, and a word that writes a mask or a general register. -/

namespace Sys2Proof.Machine

theorem toNat_setWidth_six (d : BitVec 5) : (d.setWidth 6).toNat = d.toNat := by
  rw [BitVec.toNat_setWidth]
  exact Nat.mod_eq_of_lt (d.isLt.trans (by decide))

/-- A vector word that writes a general register. -/
theorem performVec_writeG {i : Instr} {body : Op Unit} {s : State} {d : BitVec 5} {v : Word} (hi : s.Issues i)
    (hd : s.CanWrite (d.setWidth 6)) (hb : body s = Op.writeG (d.setWidth 6) v s) :
    performVec i body s = .next (s.doneVecG d v) := by
  rw [Op.writeG_run s _ v hd, toNat_setWidth_six] at hb
  exact performVec_ok hi hb

/-- A vector word that writes a mask register. -/
theorem performVec_writeK {i : Instr} {body : Op Unit} {s : State} {d : BitVec 3} {v : BitVec 32} (hi : s.Issues i)
    (hb : body s = Op.writeK d v s) : performVec i body s = .next (s.doneVecK d v) :=
  performVec_ok hi (hb.trans (Op.writeK_run s d v))

theorem testBit_bitsOf (l : List Bool) (i : Nat) : (bitsOf l).testBit i = l.getD i false := by
  induction l generalizing i with
  | nil => simp [bitsOf]
  | cons b l ih =>
    cases i with
    | zero => cases b <;> simp [bitsOf]
    | succ i =>
      have htail : (b.toNat + 2 * bitsOf l) / 2 = bitsOf l := by
        have := b.toNat_lt
        omega
      rw [bitsOf, Nat.testBit_succ, htail, ih, List.getD_cons_succ]

theorem getLsbD_maskOf (n : Nat) (f : Nat → Bool) {i : Nat} (h : i < 32) : (maskOf n f).getLsbD i = (decide (i < n) && f i) := by
  rw [maskOf, BitVec.getLsbD_ofNat, testBit_bitsOf]
  by_cases hn : i < n <;> simp [h, hn]

theorem popcN_eq_length (x : BitVec 32) : popcN 32 x.toNat = ((List.range 32).filter fun i => x.getLsbD i).length :=
  List.countP_eq_length_filter

end Sys2Proof.Machine

open Sys2Proof Sys2Proof.Machine in
/-- Settles O42: the mask words by their bits, the draws by what they read. -/
theorem maskAndDrawResults : Obligations.MaskAndDrawResults := by
  unfold Obligations.MaskAndDrawResults
  refine ⟨fun s d a b => ⟨fun hi => performVec_writeK hi rfl, fun hi => performVec_writeK hi rfl,
      fun hi => performVec_writeK hi rfl, fun hi => performVec_writeK hi rfl, fun hi => performVec_writeK hi rfl,
      fun f hi => ⟨_, performVec_writeK hi rfl, fun i h => ?expand⟩⟩,
    fun s d a hd => ⟨fun hi => ⟨_, performVec_writeG hi hd rfl, popcN_eq_length (s.K a)⟩,
      fun hi => ⟨_, performVec_writeG hi hd rfl, ?ffs⟩, fun hi => performVec_writeG hi hd rfl⟩,
    fun s d b hb => ⟨fun hi => performVec_writeK hi (Op.bind_ok (Op.readG_run s _ hb)),
      fun hi hb' => ⟨_, performVec_writeK hi ((Op.bind_ok (Op.readG_run s _ hb)).trans (Op.bind_ok (Op.readG_run s _ hb'))),
        fun i h => ?mask⟩⟩,
    fun s d b hb => ⟨fun hi hd => performVec_writeG hi hd (Op.bind_ok (Op.readG_run s _ hb)),
      fun hi hd => performVec_writeG hi hd (Op.bind_ok (Op.readG_run s _ hb)), fun k hi hd => ?vec⟩⟩
  case expand =>
    rw [getLsbD_maskOf _ _ h, decide_eq_true h, Bool.true_and]
    rfl
  case ffs =>
    obtain ⟨hzero, hset⟩ := ffsN_spec (s.K a).isLt
    exact ⟨fun h => hzero (by rw [h]; rfl), fun h => hset fun h0 => h (BitVec.eq_of_toNat_eq h0)⟩
  case mask =>
    rw [getLsbD_maskOf _ _ h, decide_eq_true h, Bool.true_and, decide_eq_true_iff]
    rfl
  case vec =>
    refine performVec_masked hi ?_ (by decide) fun _ => rfl
    simp only [Op.bind_run, Op.readG_run s _ hb, Op.readV_run s _ hd, Op.readK_run, Op.get_run, Op.answered,
      Op.writeV_run s d _ hd, State.rnd]
end

section
/-! O41. Permutes, reductions, compares, selection and bit words: what the body of each form writes, element by element. -/

namespace Sys2Proof

theorem Width.lanes_half (w : Width) : w.lanes / 2 = 128 / w.bits := by cases w <;> rfl

/-- A pair of neighbours lies in the first source for the lower half of the lanes. -/
theorem Width.pair_lt_lanes (w : Width) (od : Bool) (i : Nat) : 2 * i + od.toNat < w.lanes ↔ i < 128 / w.bits := by
  have heven : 2 * (128 / w.bits) = w.lanes := by cases w <;> rfl
  have := od.toNat_le
  omega

end Sys2Proof

namespace Sys2Proof.Machine

/-! ### The forms -/

section
variable {s : State} {d a b : BitVec 5} {k : BitVec 3} (ha : s.VReady a)
include ha

theorem Op.vred_run (w : Nat) (f : List Nat → Word) :
    Op.vred d a k w f s = Op.writeG (d.setWidth 6) (f (activeElems w (s.K k) (s.V a))) s := by
  rw [Op.vred, Op.bind_ok (Op.readV_run s a ha), Op.bind_ok (Op.readK_run s k)]

theorem Op.vcmp_run {d : BitVec 3} (w : Nat) (f : Nat → Nat → Bool) (hb : s.VReady b) :
    Op.vcmp d a b k w f s = Op.writeK d (maskOf (256 / w) fun i =>
      (s.K k).getLsbD i && f (elemAt w (s.V a).toNat i) (elemAt w (s.V b).toNat i)) s := by
  rw [Op.vcmp, Op.bind_ok (Op.readV_run s a ha), Op.bind_ok (Op.readV_run s b hb), Op.bind_ok (Op.readK_run s k)]

end

/-- A bit of a number is a bit of its element there. -/
theorem testBit_eq_testBit_elemAt {w : Nat} (hw : 0 < w) (x j : Nat) : x.testBit j = (elemAt w x (j / w)).testBit (j % w) := by
  rw [testBit_elemAt, Nat.div_add_mod, decide_eq_true (Nat.mod_lt j hw), Bool.true_and]

theorem getLsbD_maskedElems_bytes (k : BitVec 32) (old r : VWord) {j : Nat} (h : j < 256) :
    (maskedElems 8 k old fun i => elemAt 8 r.toNat i).getLsbD j = if k.getLsbD (j / 8) then r.getLsbD j else old.getLsbD j := by
  have hbit (v : VWord) : v.getLsbD j = (elemAt 8 v.toNat (j / 8)).testBit (j % 8) := by
    rw [← BitVec.testBit_toNat, testBit_eq_testBit_elemAt (w := 8) (by decide)]
  rw [hbit (maskedElems ..), hbit r, hbit old, elemAt_maskedElems (by decide) _ _ _ (by omega), Nat.mod_eq_of_lt (elemAt_lt ..)]
  exact apply_ite (fun e : Nat => e.testBit (j % 8)) _ _ _

theorem funnel_emod (w n x y : Nat) : (funnel w n x y : Int) % 2 ^ w = ((x : Int) * 2 ^ w + y) * 2 ^ n / 2 ^ w % 2 ^ w := by
  rw [funnel, natCast_mod_emod]
  push_cast
  rfl

end Sys2Proof.Machine

open Sys2Proof Sys2Proof.Machine in
/-- Settles O41: the words that write a vector by their elements, the reductions by the list of active elements, and the compares
and LOP3 bit by bit. -/
theorem vectorMoveResults : Obligations.VectorMoveResults := by
  unfold Obligations.VectorMoveResults
  refine ⟨fun w => ⟨?shuf, ?bcst, ?ins, ?ext, ?rot, ?zip, ?uzp, ?sel, ?fshl, ?clz, ?ctz, ?popc⟩, ?lop3,
    fun s d a k ha hd => ⟨fun ty => ⟨?add, ?max, ?min, ?and, ?or, ?xor⟩, fun ty => ⟨?addF, ?maxF, ?minF⟩⟩,
    fun s d a b k c ha hb => ⟨fun ty hi => ?cmpInt, fun ty hi => ?cmpFlt⟩⟩
  case shuf =>
    intro s d a b k hi ha hb hd
    refine performVec_masked hi ?_ w.bits_dvd_vector fun _ => rfl
    simp only [Op.bind_run, Op.readV_run s _ ha, Op.readV_run s _ hb, Op.readV_run s _ hd, Op.readK_run, Op.answered,
      Op.writeV_run s d _ hd, Width.lanes]
  case bcst =>
    intro s d b k hi hb hd
    refine performVec_masked hi ?_ w.bits_dvd_vector fun _ => rfl
    simp only [Op.bind_run, Op.readG_run s _ hb, Op.readV_run s _ hd, Op.readK_run, Op.answered, Op.writeV_run s d _ hd]
  case ins =>
    intro s d n b k hi hb hd
    refine performVec_masked hi ?_ w.bits_dvd_vector fun i => congrArg (· % _) (Nat.cast_ite ..)
    simp only [Op.bind_run, Op.readG_run s _ hb, Op.readV_run s _ hd, Op.readK_run, Op.answered, Op.writeV_run s d _ hd]
  case ext =>
    exact fun s d a n hi ha hd => performVec_writeG hi hd (Op.bind_ok (Op.readV_run s a ha))
  case rot =>
    intro s d a b k hi ha hb hd
    refine performVec_masked hi ?_ w.bits_dvd_vector fun _ => rfl
    simp only [Op.bind_run, Op.readV_run s _ ha, Op.readG_run s _ hb, Op.readV_run s _ hd, Op.readK_run, Op.answered,
      Op.writeV_run s d _ hd, Width.lanes, Nat.add_mod_mod]
  case zip =>
    intro s d a b k up hi ha hb hd
    refine performVec_masked hi ?_ w.bits_dvd_vector fun _ => rfl
    simp only [Op.bind_run, Op.readV_run s _ ha, Op.readV_run s _ hb, Op.readV_run s _ hd, Op.readK_run, Op.answered,
      Op.writeV_run s d _ hd, w.lanes_half]
    cases up <;> simp [apply_ite BitVec.toNat]
  case uzp =>
    intro s d a b k od hi ha hb hd
    refine performVec_masked (f := fun i => if i < 128 / w.bits then elemAt w.bits (s.V a).toNat (2 * i + od.toNat)
      else elemAt w.bits (s.V b).toNat (2 * i + od.toNat - w.lanes)) hi ?_ w.bits_dvd_vector fun i => ?_
    · simp only [Op.bind_run, Op.readV_run s _ ha, Op.readV_run s _ hb, Op.readV_run s _ hd, Op.readK_run, Op.answered,
        Op.writeV_run s d _ hd, w.pair_lt_lanes]
    · rw [Nat.cast_ite, Bool.toNat, Bool.cond_eq_ite]
      rfl
  case sel =>
    intro s d a b k hi ha hb hd
    refine ⟨maskedElems w.bits (s.K k) (s.V b) fun i => elemAt w.bits (s.V a).toNat i, performVec_ok hi ?_, fun i hlt => ?_⟩
    · simp only [Op.bind_run, Op.readV_run s _ ha, Op.readV_run s _ hb, Op.readK_run, Op.answered, Op.writeV_run s d _ hd]
    · rw [elemAt_maskedElems w.bits_dvd_vector _ _ _ hlt, Nat.mod_eq_of_lt (elemAt_lt ..)]
  case fshl =>
    intro s d a b k n hi ha hb hd
    exact performVec_masked hi (Op.vec2_run _ ha hb hd) w.bits_dvd_vector fun i => funnel_emod ..
  case clz | ctz | popc => exact completesV1_of (fun _ _ _ _ => rfl) w.bits_dvd_vector fun _ _ => rfl
  case lop3 =>
    intro s d a b k t hi ha hb hd
    refine ⟨maskedElems 8 (s.K k) (s.V d) fun i => elemAt 8 (lop3Bits t (s.V a) (s.V (b.setWidth 5)) (s.V d)).toNat i,
      performVec_ok hi ?_, fun j hj => ?_⟩
    · simp only [Op.bind_run, Op.readV_run s _ ha, Op.readV_run s _ hb, Op.readV_run s _ hd, Op.readK_run, Op.answered,
        Op.writeV_run s d _ hd]
    · rw [getLsbD_maskedElems_bytes _ _ _ hj, getLsbD_lop3Bits hj]
  case add =>
    rw [List.sum_eq_foldl]
    exact fun hi => performVec_writeG hi hd (Op.vred_run ha _ _)
  case max =>
    rw [← elemMin_eq]
    exact fun hi => performVec_writeG hi hd (Op.vred_run ha _ _)
  case min =>
    rw [← elemMax_eq]
    exact fun hi => performVec_writeG hi hd (Op.vred_run ha _ _)
  case and | or | xor | maxF | minF => exact fun hi => performVec_writeG hi hd (Op.vred_run ha _ _)
  case addF => exact fun hi => performVec_writeG hi hd (Op.bind_ok (Op.readV_run s a ha))
  case cmpInt =>
    refine ⟨_, performVec_writeK hi (Op.vcmp_run ha _ _ hb), fun i h => ?_⟩
    rw [getLsbD_maskOf _ _ h, Bool.and_assoc]
  case cmpFlt =>
    refine ⟨_, performVec_writeK hi (Op.vcmp_run ha _ _ hb), fun i h => ?_⟩
    rw [getLsbD_maskOf _ _ h, Bool.and_assoc]
end

section
/-! O43. The vector loads and stores at local memory: an access of any size inside one that passes every check, the bytes that a
masked store writes, and the lanes of a gather and of a scatter. -/

namespace Sys2Proof.Machine

/-! ### An access inside one that passes every check -/

theorem overlap_mono {a n b m k : Nat} (h : m ≤ k) (ho : overlap a n b m = true) : overlap a n b k = true := by
  simp only [overlap, Bool.and_eq_true, decide_eq_true_eq] at *
  omega

theorem State.ownRed_of_le {s : State} {ag : Agent} {c : CoreId} {o m n : Nat} (h : m ≤ n)
    (hn : s.ownRed ag (.local c o) n = false) : s.ownRed ag (.local c o) m = false := by
  refine Bool.eq_false_iff.mpr fun hm => Bool.eq_false_iff.mp hn ?_
  simp only [State.ownRed, Bool.and_eq_true, List.any_eq_true] at hm ⊢
  obtain ⟨he, x, hx, hwho, hsite⟩ := hm
  refine ⟨he, x, hx, hwho, ?_⟩
  rcases hxs : x.site with ⟨c', b⟩ | b
  · simp only [hxs, Bool.and_eq_true] at hsite ⊢
    exact ⟨hsite.1, overlap_mono h hsite.2⟩
  · simp [hxs] at hsite

theorem State.LocalOk.handle_le {s : State} {ref : Word} {n : Nat} (h : s.LocalOk ref n) : refHandle ref ≤ 1 := by
  obtain ⟨hh, -⟩ := h
  omega

theorem State.LocalOk.noFlips {s : State} {ref : Word} {n : Nat} (h : s.LocalOk ref n) : s.core.lmFlips = [] := by
  obtain ⟨-, -, -, -, hf, -, -⟩ := h
  exact hf

section
variable {s : State} {a : Acc} {n : Nat} (h : s.LocalOk a.ref n) (hn : a.n ≤ n)
include h hn

theorem State.LocalOk.target : Op.localTarget (s.self 0) a true s = .ok ((s.core.id, refOffset a.ref), s) := by
  obtain ⟨hh, -, hb, hx, -, -, -⟩ := h
  have hf : s.findCore (s.self 0).core = some s.core := s.findCore_self
  simp only [Op.localTarget, Op.bind_run, Op.get_run, Op.answered, hf, hh, if_true]
  simp [State.self, Nat.not_lt.mpr (Nat.add_le_add_left hn _ |>.trans hb), Nat.not_lt.mpr hx]

theorem State.LocalOk.noReduction :
    Op.need (!s.ownRed (s.self 0) (.local s.core.id (refOffset a.ref)) a.n) s = .ok ((), s) := by
  obtain ⟨-, -, -, -, -, -, ho⟩ := h
  rw [State.ownRed_of_le hn ho]
  rfl

theorem State.LocalOk.load : Op.load (s.self 0) a s = .ok (s.localValue (refOffset a.ref) a.n, s) := by
  refine (Op.bind_ok (Op.get_run s)).trans ?_
  rw [h.inSpill, if_neg Bool.false_ne_true, if_pos h.handle_le]
  refine (Op.bind_ok (h.target hn)).trans ((Op.bind_ok (h.noReduction hn)).trans ?_)
  refine (Op.bind_ok (Op.lmCheck_clean h.noFlips ..)).trans ((Op.bind_ok (Op.get_run s)).trans ?_)
  rw [s.findCore_self]
  rfl

theorem State.LocalOk.storeMasked (v mask : Nat) : Op.storeMasked (s.self 0) a v mask s =
    Op.localStore (s.self 0) a s.core.id (refOffset a.ref) v mask s := by
  refine (Op.bind_ok (Op.get_run s)).trans ?_
  rw [h.inSpill, if_neg Bool.false_ne_true, if_pos h.handle_le]
  exact (Op.bind_ok (h.target hn)).trans (Op.bind_ok (h.noReduction hn))

end

theorem State.LocalOk.toNat_ref {s : State} {ref : Word} {n : Nat} (h : s.LocalOk ref n) : ref.toNat = refOffset ref := by
  obtain ⟨hh, -⟩ := h
  unfold refHandle refOffset at *
  omega

theorem State.LocalOk.offset_mod {s : State} {ref : Word} {n : Nat} (h : s.LocalOk ref n) : refOffset ref % n = 0 := by
  obtain ⟨-, ha, -⟩ := h
  exact ha

/-- Aligned ranges of one size that meet are the same. -/
theorem aligned_eq {n o p x y : Nat} (ho : o % n = 0) (hp : p % n = 0) (hx : x < n) (hy : y < n) (h : o + x = p + y) : o = p := by
  have hmod := congrArg (· % n) h
  simp only [Nat.add_mod, ho, hp, Nat.zero_add, Nat.mod_eq_of_lt hx, Nat.mod_eq_of_lt hy] at hmod
  omega

theorem State.LocalOk.toNat_ref_mod {s : State} {ref : Word} {n : Nat} (h : s.LocalOk ref n) : ref.toNat % n = 0 := by
  rw [h.toNat_ref, h.offset_mod]

theorem State.LocalOk.loadMessage {s : State} {ref : Word} {n : Nat} (h : s.LocalOk ref n) : s.loadMessage ref = false := by
  simp [State.loadMessage, State.classOf, h.1]

theorem State.LocalOk.storeMessage {s : State} {ref : Word} {n : Nat} (h : s.LocalOk ref n) : s.storeMessage ref = false := by
  simp [State.storeMessage, State.classOf, h.1]

/-! ### Bytes of a value -/

theorem bytesOf_getElem (n v i : Nat) (h : i < (bytesOf n v).length) : (bytesOf n v)[i] = BitVec.ofNat 8 (v / 2 ^ (8 * i)) := by
  fun_induction bytesOf n v generalizing i with
  | case1 => exact absurd h (Nat.not_lt_zero i)
  | case2 v n ih =>
    cases i with
    | zero => simp
    | succ i =>
      have hp : 2 ^ (8 * (i + 1)) = 256 * 2 ^ (8 * i) := by rw [Nat.mul_succ, Nat.add_comm, Nat.pow_add]
      rw [List.getElem_cons_succ, ih, hp, Nat.div_div_eq_div_mul]

theorem ofNat_elemAt_byte (v i : Nat) : BitVec.ofNat 8 (elemAt 8 v i) = BitVec.ofNat 8 (v / 2 ^ (8 * i)) :=
  BitVec.eq_of_toNat_eq (by simp [elemAt])

theorem Memory.read_eq (m : Memory) (a n : Nat) : m.read a n = (List.range n).map fun i => m.get (a + i) := by
  induction n generalizing a with
  | zero => rfl
  | succ n ih =>
    rw [Memory.read, ih, List.range_succ_eq_map, List.map_cons, List.map_map]
    simp [Function.comp_def, Nat.add_assoc, Nat.add_comm 1]

theorem valueOf_eq_packElems (bs : List Byte) : valueOf bs = packElems 8 (bs.map BitVec.toNat) := by
  induction bs with
  | nil => rfl
  | cons b bs ih =>
    rw [valueOf, ih, List.map_cons, packElems, Nat.mod_eq_of_lt b.isLt]
    rfl

/-- The bytes read are the elements of the value. -/
theorem Memory.elemAt_value (m : Memory) (a : Nat) {n i : Nat} (h : i < n) :
    elemAt 8 (m.value a n) i = (m.get (a + i)).toNat := by
  rw [Memory.value, valueOf_eq_packElems, elemAt_packElems _ _ _ (by simpa [Memory.read_eq] using h)]
  simpa [Memory.read_eq] using Nat.mod_eq_of_lt (m.get (a + i)).isLt

theorem Memory.value_lt (m : Memory) (a n : Nat) : m.value a n < 2 ^ (8 * n) := by
  simpa [Memory.value, valueOf_eq_packElems, Memory.read_eq] using packElems_lt 8 ((m.read a n).map BitVec.toNat)

/-- A value is known by its bytes. -/
theorem Memory.value_eq_of_bytes {m : Memory} {a n v : Nat} (h : ∀ i < n, m.get (a + i) = BitVec.ofNat 8 (elemAt 8 v i)) :
    m.value a n = v % 2 ^ (8 * n) := by
  have hread : m.read a n = bytesOf n v := by
    refine List.ext_getElem (by simp [Memory.read_eq, bytesOf_length]) fun i hi hj => ?_
    rw [bytesOf_getElem, ← ofNat_elemAt_byte]
    simpa [Memory.read_eq] using h i (by simpa [Memory.read_eq] using hi)
  rw [Memory.value, hread, valueOf_bytesOf, Nat.pow_mul]

/-! ### The bytes that a store writes -/

/-- The operation leaves the local memory with the bytes that `new` gives, and the blocks that become dirty. -/
def Op.StoresBytes (op : Op Unit) (s : State) (new : Nat → Option Byte) : Prop :=
  ∃ m dirty, op s = .ok ((), s.withLm m dirty) ∧ m.wf = true ∧ ∀ p, m.get p = (new p).getD (s.core.lm.get p)

/-- What a masked store of `n` bytes at `off` writes. -/
def storedByte (off n v mask p : Nat) : Option Byte :=
  if off ≤ p ∧ p < off + n ∧ mask.testBit (p - off) then some (BitVec.ofNat 8 (v / 2 ^ (8 * (p - off)))) else none

theorem storedByte_inside (off v : Nat) {n mask i : Nat} (hi : i < n) (hbit : mask.testBit i = true) :
    storedByte off n v mask (off + i) = some (BitVec.ofNat 8 (elemAt 8 v i)) := by
  rw [storedByte, Nat.add_sub_cancel_left, if_pos ⟨Nat.le_add_right .., Nat.add_lt_add_left hi off, hbit⟩, ofNat_elemAt_byte]

theorem storedByte_outside {off n mask p : Nat} (v : Nat) (h : ∀ i < n, mask.testBit i = true → p ≠ off + i) :
    storedByte off n v mask p = none :=
  if_neg fun ⟨hlo, hhi, hbit⟩ => h (p - off) (by omega) hbit (by omega)

/-- Of these, the part that lies in one word. -/
def storedInWord (off n v mask w p : Nat) : Option Byte := if p / 8 = w then storedByte off n v mask p else none

/-- Single bytes of a word written one after the other. -/
theorem State.Quiet.put_bytes {s : State} (h : s.Quiet) (hm : s.core.lm.wf = true) (w : Nat) (byte : Nat → Byte) (l : List Nat) :
    ∃ m dirty, l.foldl (fun (t : State) j => t.lmWrite s.core.id (8 * w + j) [byte (8 * w + j)]) s = s.withLm m dirty ∧
      m.wf = true ∧ ∀ p, m.get p = if ∃ j ∈ l, p = 8 * w + j then byte p else s.core.lm.get p := by
  induction l generalizing s with
  | nil => exact ⟨s.core.lm, s.core.blockDirty, rfl, hm, fun p => by simp⟩
  | cons j l ih =>
    obtain ⟨d, hd⟩ := h.lmWrite (8 * w + j) [byte (8 * w + j)]
    have hset := Memory.wf_set s.core.lm (8 * w + j) (byte (8 * w + j)) hm
    obtain ⟨m, d', hrun, hwf, hget⟩ := ih (h.withLm (s.core.lm.set (8 * w + j) (byte (8 * w + j))) d) hset
    refine ⟨m, d', ?_, hwf, fun p => ?_⟩
    · rw [List.foldl_cons, hd]
      exact hrun
    · rw [hget p]
      show (if _ then _ else (s.core.lm.set _ _).get p) = _
      rw [Memory.get_set _ _ _ _ hm]
      by_cases hp : p = 8 * w + j
      · subst hp
        simp
      · simp [hp]

/-- A whole word written. -/
theorem State.Quiet.put_word {s : State} (h : s.Quiet) (hm : s.core.lm.wf = true) (v : Nat) {off w : Nat} (hoff : off ≤ 8 * w) :
    ∃ m dirty, s.lmWrite s.core.id (8 * w) (bytesOf 8 (v / 2 ^ (8 * (8 * w - off)))) = s.withLm m dirty ∧ m.wf = true ∧
      ∀ p, m.get p = if ∃ j ∈ List.range 8, p = 8 * w + j then BitVec.ofNat 8 (v / 2 ^ (8 * (p - off)))
        else s.core.lm.get p := by
  obtain ⟨d, hd⟩ := h.lmWrite (8 * w) (bytesOf 8 (v / 2 ^ (8 * (8 * w - off))))
  refine ⟨_, d, hd, Memory.wf_write _ _ _ hm, fun p => ?_⟩
  split
  · next hp =>
    obtain ⟨j, hj, rfl⟩ := hp
    have hlen : j < (bytesOf 8 (v / 2 ^ (8 * (8 * w - off)))).length := by rwa [bytesOf_length, ← List.mem_range]
    have hexp : 8 * (8 * w - off) + 8 * j = 8 * (8 * w + j - off) := by omega
    rw [Memory.get_write_inside _ _ _ _ hm hlen, bytesOf_getElem, Nat.div_div_eq_div_mul, ← Nat.pow_add, hexp]
  · next hp =>
    refine Memory.get_write_outside _ _ _ _ hm ?_
    rw [bytesOf_length]
    by_contra hin
    exact hp ⟨p - 8 * w, List.mem_range.mpr (by omega), by omega⟩

/-- The places of a word that a masked store covers. -/
def placesIn (off n mask w : Nat) : List Nat :=
  (List.range 8).filter fun j => off ≤ 8 * w + j && 8 * w + j < off + n && mask.testBit (8 * w + j - off)

theorem storedInWord_eq (off n v mask w p : Nat) : storedInWord off n v mask w p =
    if ∃ j ∈ placesIn off n mask w, p = 8 * w + j then some (BitVec.ofNat 8 (v / 2 ^ (8 * (p - off)))) else none := by
  have hmem : (∃ j ∈ placesIn off n mask w, p = 8 * w + j) ↔
      p / 8 = w ∧ off ≤ p ∧ p < off + n ∧ mask.testBit (p - off) = true := by
    simp only [placesIn, List.mem_filter, List.mem_range, Bool.and_eq_true, decide_eq_true_eq]
    constructor
    · rintro ⟨j, ⟨hj, ⟨hlo, hhi⟩, hbit⟩, rfl⟩
      exact ⟨by omega, hlo, hhi, hbit⟩
    · rintro ⟨hw, hlo, hhi, hbit⟩
      have hp : p = 8 * w + p % 8 := by omega
      exact ⟨p % 8, by rw [← hp]; exact ⟨Nat.mod_lt _ (by decide), ⟨hlo, hhi⟩, hbit⟩, hp⟩
  simp only [hmem, storedInWord, storedByte, ite_and]

/-- The bytes at the places are written, together where they fill the word. -/
theorem State.Quiet.put_places_in {s : State} (h : s.Quiet) (hm : s.core.lm.wf = true) (off n v mask w : Nat) :
    ∃ m dirty, (if (placesIn off n mask w).length = 8 then s.lmWrite s.core.id (8 * w) (bytesOf 8 (v / 2 ^ (8 * (8 * w - off))))
        else (placesIn off n mask w).foldl (fun (t : State) j =>
          t.lmWrite s.core.id (8 * w + j) [BitVec.ofNat 8 (v / 2 ^ (8 * (8 * w + j - off)))]) s) = s.withLm m dirty ∧
      m.wf = true ∧ ∀ p, m.get p = if ∃ j ∈ placesIn off n mask w, p = 8 * w + j then BitVec.ofNat 8 (v / 2 ^ (8 * (p - off)))
        else s.core.lm.get p := by
  by_cases h8 : (placesIn off n mask w).length = 8
  · have hall : placesIn off n mask w = List.range 8 :=
      List.filter_eq_self.mpr (List.length_filter_eq_length_iff.mp (h8.trans List.length_range.symm))
    have hoff : off ≤ 8 * w := by
      have hmem : 0 ∈ placesIn off n mask w := hall ▸ List.mem_range.mpr (by decide)
      simp only [placesIn, List.mem_filter, Bool.and_eq_true, decide_eq_true_eq] at hmem
      obtain ⟨-, ⟨hlo, -⟩, -⟩ := hmem
      exact hlo
    rw [if_pos h8, hall]
    exact h.put_word hm v hoff
  · rw [if_neg h8]
    exact h.put_bytes hm w (fun p => BitVec.ofNat 8 (v / 2 ^ (8 * (p - off)))) _

theorem Op.localStoreWord_bytes {s : State} (h : s.Quiet) (hm : s.core.lm.wf = true) (ag : Agent) (a : Acc) (off v mask w : Nat) :
    (Op.localStoreWord ag a s.core.id off v mask w).StoresBytes s (storedInWord off a.n v mask w) := by
  by_cases h0 : placesIn off a.n mask w = []
  · refine ⟨s.core.lm, s.core.blockDirty, ?_, hm, fun p => by simp [storedInWord_eq, h0]⟩
    rw [Op.localStoreWord, ← placesIn.eq_1, if_pos h0]
    rfl
  · obtain ⟨m, d, hput, hwf, hget⟩ := h.put_places_in hm off a.n v mask w
    refine ⟨m, d, ?_, hwf, fun p => ?_⟩
    · simp only [Op.localStoreWord, ← placesIn.eq_1, h0, Op.ite_run, Op.bind_run, Op.lmCheckWord_run h, ite_self,
        Op.answered, Op.modify_run, if_false, ← hput, apply_ite (fun t : State => (Except.ok ((), t) : Except Halt (Unit × State)))]
    · rw [hget p, storedInWord_eq]
      split
      · rfl
      · rfl

/-- Stores made one after the other, in ascending order of their numbers: a byte that none of them writes stays, and one that some
write is the last one's. -/
theorem Op.forEach_bytes {f : Nat → Op Unit} {new : Nat → Nat → Option Byte} {l : List Nat} (hl : l.Pairwise (· < ·))
    {s : State} (hm : s.core.lm.wf = true)
    (h : ∀ i ∈ l, ∀ m dirty, m.wf = true → (f i).StoresBytes (s.withLm m dirty) (new i)) :
    ∃ m dirty, Op.forEach f l s = .ok ((), s.withLm m dirty) ∧ m.wf = true ∧
      (∀ p, (∀ i ∈ l, new i p = none) → m.get p = s.core.lm.get p) ∧
      ∀ i ∈ l, ∀ p b, new i p = some b → (∀ j ∈ l, i < j → new j p = none) → m.get p = b := by
  induction l generalizing s with
  | nil => exact ⟨s.core.lm, s.core.blockDirty, rfl, hm, fun _ _ => rfl, by simp⟩
  | cons a l ih =>
    obtain ⟨hfirst, hl⟩ := List.pairwise_cons.mp hl
    obtain ⟨m, d, hrun, hwf, hget⟩ := h a List.mem_cons_self s.core.lm s.core.blockDirty hm
    obtain ⟨m', d', hrest, hwf', hkeep, hlast⟩ := ih hl (s := s.withLm m d) hwf
      fun i hi => h i (List.mem_cons_of_mem _ hi)
    refine ⟨m', d', (Op.bind_ok hrun).trans hrest, hwf', fun p hp => ?_, fun i hi p b hb hp => ?_⟩
    · rw [hkeep p fun i hi => hp i (List.mem_cons_of_mem _ hi)]
      exact (hget p).trans (by rw [hp a List.mem_cons_self]; rfl)
    · rcases List.mem_cons.mp hi with rfl | hi
      · rw [hkeep p fun j hj => hp j (List.mem_cons_of_mem _ hj) (hfirst j hj)]
        exact (hget p).trans (by rw [hb]; rfl)
      · exact hlast i hi p b hb fun j hj => hp j (List.mem_cons_of_mem _ hj)

theorem Op.localStore_bytes {s : State} (h : s.Quiet) (hm : s.core.lm.wf = true) (ag : Agent) (a : Acc) (off v mask : Nat) :
    (Op.localStore ag a s.core.id off v mask).StoresBytes s (storedByte off a.n v mask) := by
  have hsorted : ((List.range ((off + a.n + 7) / 8 - off / 8)).map fun i => off / 8 + i).Pairwise (· < ·) :=
    List.pairwise_map.mpr (List.pairwise_lt_range.imp fun h => Nat.add_lt_add_left h _)
  obtain ⟨m, d, hrun, hwf, hkeep, hlast⟩ := Op.forEach_bytes (f := Op.localStoreWord ag a s.core.id off v mask)
    (new := storedInWord off a.n v mask) hsorted hm
    fun w _ m d hwf => Op.localStoreWord_bytes (h.withLm m d) hwf ag a off v mask w
  refine ⟨m, d, hrun, hwf, fun p => ?_⟩
  cases hb : storedByte off a.n v mask p with
  | none => exact hkeep p fun w _ => by rw [storedInWord, hb, ite_self]
  | some b =>
    have hin : off ≤ p ∧ p < off + a.n := by
      by_contra hout
      simp [storedByte, show ¬ (off ≤ p ∧ p < off + a.n ∧ mask.testBit (p - off) = true) by tauto] at hb
    refine hlast (p / 8) (List.mem_map.mpr ⟨p / 8 - off / 8, List.mem_range.mpr (by omega), by omega⟩) p b
      (by rw [storedInWord, if_pos rfl, hb]) fun w _ hw => by rw [storedInWord, if_neg hw.ne]

theorem State.LocalOk.store_bytes {s : State} {a : Acc} {n : Nat} (h : s.LocalOk a.ref n) (hn : a.n ≤ n) (hs : s.StoreHere)
    (hm : s.core.lm.wf = true) (v mask : Nat) :
    (Op.storeMasked (s.self 0) a v mask).StoresBytes s (storedByte (refOffset a.ref) a.n v mask) := by
  obtain ⟨m, d, hrun, hm⟩ := Op.localStore_bytes ⟨hs, h.noFlips⟩ hm (s.self 0) a (refOffset a.ref) v mask
  exact ⟨m, d, (h.storeMasked hn v mask).trans hrun, hm⟩

theorem State.sameButG_counted_done (s : State) (entry : Nat) : s.SameButG (s.counted entry).done 0 := by
  obtain ⟨u, hu, -⟩ := s.counted_eq entry
  rw [hu]
  simp [State.SameButG, State.SameG, State.SameVK, State.SameSys, State.G, State.done, Ctx.gval]

/-- What a vector store leaves: its bytes in local memory, and its context at the next word. -/
theorem State.stored_vec (s : State) (m : Memory) (dirty : List Nat) :
    (∀ p, ((s.withLm m dirty).counted 4).done.localByte p = m.get p) ∧ s.SameButG ((s.withLm m dirty).counted 4).done 0 ∧
      ((s.withLm m dirty).counted 4).done.unc = s.unc :=
  ⟨fun _ => rfl, (s.withLm m dirty).sameButG_counted_done 4, rfl⟩

/-! ### VLD and VST (R200) -/

theorem Op.vectorRef_run {s : State} {a : BitVec 6} {imm : BitVec 12} (ha : s.CanRead a) (kind : Nat) :
    Op.vectorRef a imm kind s = if (s.G a + immExt s.payloads imm * 32).toNat % 32 = 0 then
      .ok (s.G a + immExt s.payloads imm * 32, s) else .error (.trap (Trap.plain cMISAL (s.G a + immExt s.payloads imm * 32)
        ((⟨s.G a + immExt s.payloads imm * 32, 32, 5, kind, 0⟩ : Acc).info 0))) := by
  refine (Op.bind_ok (Op.readG_run s a ha)).trans ((Op.bind_ok (Op.imm_run imm s)).trans ?_)
  rw [Op.ite_run, ite_not]
  rfl

theorem vectorAcc_le (ref : Word) (m : BitVec 32) (kind : Nat) : (vectorAcc ref m kind).n ≤ 32 := by
  by_cases h : m.toNat = 0
  · simp [vectorAcc, h]
  · exact (Nat.log2_lt h).mpr m.isLt

theorem Op.badByteAt_ok {α : Type} {ref : Word} {j : Nat} {op : Op α} {s : State} {out : α × State} (h : op s = .ok out) :
    Op.badByteAt ref j op s = .ok out := by
  rw [Op.badByteAt, h]

theorem Op.vectorCheckWord_clean {s : State} (h : s.core.lmFlips = []) (ag : Agent) (a : Acc) (m : BitVec 32) (off u : Nat) :
    Op.vectorCheckWord ag a m s.core.id off u s = .ok ((), s) := by
  simp [Op.vectorCheckWord, Op.lmCheckWord, s.findCore_self, h, NatMap.get]

theorem State.LocalOk.vectorLoad {s : State} {ref : Word} (h : s.LocalOk ref 32) (m : BitVec 32) :
    Op.vectorLoad ref m s = .ok (s.localValue (refOffset ref) 32, s) := by
  have hn := vectorAcc_le ref m 0
  have hl : s.LocalOk (vectorAcc ref m 0).ref 32 := h
  refine (Op.bind_ok (Op.get_run s)).trans ?_
  rw [h.inSpill, if_pos (by simpa using h.handle_le)]
  refine (Op.bind_ok (hl.target hn)).trans ((Op.bind_ok (Op.get_run s)).trans ((Op.bind_ok (hl.noReduction hn)).trans ?_))
  refine (Op.bind_ok (Op.forEach_idle fun u _ => Op.vectorCheckWord_clean h.noFlips ..)).trans ((Op.bind_ok (Op.get_run s)).trans ?_)
  rw [s.findCore_self]
  rfl

section
variable {s : State} {v : BitVec 5} {a : BitVec 6} {k : BitVec 3} {imm : BitVec 12} {ref : Word}
  (hr : s.G a + immExt s.payloads imm * 32 = ref) (ha : s.CanRead a)
include hr ha

theorem Op.vectorRef_aligned (h : ref.toNat % 32 = 0) (kind : Nat) : Op.vectorRef a imm kind s = .ok (ref, s) := by
  rw [Op.vectorRef_run ha, hr, if_pos h]

theorem Op.vectorRef_misaligned (h : ref.toNat % 32 ≠ 0) (kind : Nat) : Op.vectorRef a imm kind s =
    .error (.trap (Trap.plain cMISAL ref ((⟨ref, 32, 5, kind, 0⟩ : Acc).info 0))) := by
  rw [Op.vectorRef_run ha, hr, if_neg h]

theorem exec_vld_misaligned (hi : s.Issues (.vld v a k imm)) (h : ref.toNat % 32 ≠ 0) : exec (.vld v a k imm) s =
    .next (s.takeTrap (Trap.plain cMISAL ref ((⟨ref, 32, 5, 0, 0⟩ : Acc).info 0))) :=
  performVec_trap hi (Op.bind_halt (Op.vectorRef_misaligned hr ha h 0))

theorem exec_vst_misaligned (hi : s.Issues (.vst v a k imm)) (h : ref.toNat % 32 ≠ 0) : exec (.vst v a k imm) s =
    .next (s.takeTrap (Trap.plain cMISAL ref ((⟨ref, 32, 5, 1, 0⟩ : Acc).info 0))) :=
  performVec_trap hi (Op.bind_halt (Op.vectorRef_misaligned hr ha h 1))

variable (hv : s.VReady v)
include hv

theorem exec_vld_empty (hi : s.Issues (.vld v a k imm)) (h : ref.toNat % 32 = 0) (hk : s.K k = 0) :
    exec (.vld v a k imm) s = .next s.doneVecNone := by
  refine performVec_ok hi ((Op.bind_ok (Op.vectorRef_aligned hr ha h 0)).trans ?_)
  refine (Op.bind_ok (Op.readK_run s k)).trans ((Op.bind_ok (Op.readV_run s v hv)).trans ?_)
  rw [if_pos hk, Op.pure_run]

theorem exec_vst_empty (hi : s.Issues (.vst v a k imm)) (h : ref.toNat % 32 = 0) (hk : s.K k = 0) :
    exec (.vst v a k imm) s = .next s.doneVecNone := by
  refine performVec_ok hi ((Op.bind_ok (Op.vectorRef_aligned hr ha h 1)).trans ?_)
  refine (Op.bind_ok (Op.readK_run s k)).trans ((Op.bind_ok (Op.readV_run s v hv)).trans ?_)
  rw [if_pos hk, Op.pure_run]

variable (hk : s.K k ≠ 0) (hl : s.LocalOk ref 32)
include hk hl

theorem exec_vld_local (hi : s.Issues (.vld v a k imm)) : ∃ x : VWord, exec (.vld v a k imm) s = .next (s.doneVec v x) ∧
    Masked 8 (s.K k) (s.V v) x fun i => (s.localByte (refOffset ref + i)).toNat := by
  refine ⟨maskedElems 8 (s.K k) (s.V v) fun i => elemAt 8 (s.localValue (refOffset ref) 32) i, performVec_ok hi ?_,
    masked_maskedElems (by decide) _ _ fun i h _ => ?_⟩
  · refine (Op.bind_ok (Op.vectorRef_aligned hr ha hl.toNat_ref_mod 0)).trans ?_
    refine (Op.bind_ok (Op.readK_run s k)).trans ((Op.bind_ok (Op.readV_run s v hv)).trans ?_)
    rw [if_neg hk]
    refine (Op.bind_ok ((Op.loadMsg_local hl.1 ..).trans (hl.vectorLoad _))).trans ?_
    exact Op.writeV_run s v _ hv
  · rw [State.localValue, Memory.elemAt_value _ _ h]
    rfl

theorem exec_vst_local (hi : s.Issues (.vst v a k imm)) (hs : s.StoreHere) (hm : s.core.lm.wf = true) :
    ∃ t, exec (.vst v a k imm) s = .next t ∧
      (∀ i < 32, (s.K k).getLsbD i = true → t.localByte (refOffset ref + i) = BitVec.ofNat 8 (elemAt 8 (s.V v).toNat i)) ∧
      (∀ p, (∀ i < 32, (s.K k).getLsbD i = true → p ≠ refOffset ref + i) → t.localByte p = s.localByte p) ∧
      s.SameButG t 0 ∧ t.unc = s.unc := by
  obtain ⟨m, d, hrun, -, hget⟩ := hl.store_bytes (a := vectorAcc ref (s.K k) 1) (vectorAcc_le ..) hs hm (s.V v).toNat (s.K k).toNat
  obtain ⟨hbyte, hsame⟩ := s.stored_vec m d
  refine ⟨_, performVec_ok hi ?_, fun i h hbit => ?_, fun p hp => ?_, hsame⟩
  · refine (Op.bind_ok (Op.vectorRef_aligned hr ha hl.toNat_ref_mod 1)).trans ?_
    refine (Op.bind_ok (Op.readK_run s k)).trans ((Op.bind_ok (Op.readV_run s v hv)).trans ?_)
    rw [if_neg hk]
    refine (Op.bind_ok (Op.get_run s)).trans ((Op.storeMsg_local hl.1 ..).trans ?_)
    exact Op.badByteAt_ok hrun
  · have hin : i < (vectorAcc ref (s.K k) 1).n :=
      Nat.lt_succ_of_le ((Nat.le_log2 (fun h0 => hk (BitVec.eq_of_toNat_eq h0))).mpr (Nat.ge_two_pow_of_testBit hbit))
    exact (hbyte _).trans ((hget _).trans (congrArg (Option.getD · _) (storedByte_inside (refOffset ref) _ hin hbit)))
  · have hout : storedByte (refOffset ref) (vectorAcc ref (s.K k) 1).n (s.V v).toNat (s.K k).toNat p = none :=
      storedByte_outside _ fun i h => hp i (h.trans_le (vectorAcc_le ..))
    exact (hbyte _).trans ((hget _).trans (congrArg (Option.getD · _) hout))

end

/-! ### Lanes (R201) -/

theorem mem_activeLanes {w : Nat} {m : BitVec 32} {i : Nat} : i ∈ activeLanes w m ↔ i < 256 / w ∧ m.getLsbD i = true := by
  rw [activeLanes, List.mem_filter, List.mem_range]

theorem activeLanes_sorted (w : Nat) (m : BitVec 32) : (activeLanes w m).Pairwise (· < ·) := List.pairwise_lt_range.filter _

theorem Op.laneAligned_run {s : State} {w : Width} {a : Acc} (h : s.LocalOk a.ref w.bytes) :
    Op.laneAligned w a s = .ok ((), s) := by
  rw [Op.laneAligned, h.toNat_ref_mod]
  rfl

theorem Op.probe_run {α : Type} {op : Op α} {s : State} {out : α × State} (h : op s = .ok out) : Op.probe op s = .ok ((), s) := by
  rw [Op.probe, h]

theorem Op.tryLanes_run {s : State} {lanes : List Nat} {op : Nat → Op Unit} (h : ∀ i ∈ lanes, ∃ t, op i s = .ok ((), t)) :
    Op.tryLanes lanes op s = .ok ((), s) :=
  Op.forEach_idle fun i hi => Op.probe_run (h i hi).choose_spec

theorem Op.collect_run {α β : Type} {f : α → Op β} {g : α → β} {s : State} {l : List α}
    (h : ∀ a ∈ l, f a s = .ok (g a, s)) : Op.collect f l s = .ok (l.map g, s) := by
  induction l with
  | nil => rfl
  | cons a l ih =>
    refine (Op.bind_ok (h a List.mem_cons_self)).trans ?_
    exact Op.bind_ok (rest := fun bs => pure (g a :: bs)) (ih fun b hb => h b (List.mem_cons_of_mem _ hb))

/-- An element below others is not changed by them. -/
theorem elemAt_add_above {w n i : Nat} (x y : Nat) (h : i < n) : elemAt w (x + 2 ^ (w * n) * y) i = elemAt w x i := by
  obtain ⟨r, rfl⟩ := Nat.exists_eq_add_of_lt h
  have hp : 2 ^ (w * (i + r + 1)) = 2 ^ (w * i) * (2 ^ w * 2 ^ (w * r)) := by rw [← Nat.pow_add, ← Nat.pow_add]; ring_nf
  rw [elemAt, elemAt, hp, Nat.mul_assoc, Nat.mul_assoc, Nat.add_mul_div_left _ _ (Nat.two_pow_pos _), Nat.add_mul_mod_self_left]

/-- The sum of chosen elements, each moved to its place, below the place of the next: it fits, and its elements are those. -/
theorem sum_lanes_spec (w : Nat) (act : Nat → Bool) (e : Nat → Nat) (he : ∀ i, act i = true → e i < 2 ^ w) (n : Nat) :
    (((List.range n).filter act).map fun i => e i * 2 ^ (w * i)).sum < 2 ^ (w * n) ∧
      ∀ i < n, act i = true → elemAt w (((List.range n).filter act).map fun i => e i * 2 ^ (w * i)).sum i = e i := by
  induction n with
  | zero => simp
  | succ n ih =>
    obtain ⟨hlt, hat⟩ := ih
    rw [List.range_succ, List.filter_append, List.map_append, List.sum_append]
    cases hn : act n with
    | false =>
      simp only [List.filter_singleton, hn, cond_false, List.map_nil, List.sum_nil, Nat.add_zero]
      refine ⟨hlt.trans_le (Nat.pow_le_pow_right (by decide) (Nat.mul_le_mul_left w (Nat.le_succ n))), fun i hi hact => ?_⟩
      refine hat i (lt_of_le_of_ne (Nat.le_of_lt_succ hi) fun h => ?_) hact
      rw [h, hn] at hact
      cases hact
    | true =>
      simp only [List.filter_singleton, hn, cond_true, List.map_singleton, List.sum_singleton, Nat.mul_comm (e n)]
      refine ⟨?_, fun i hi hact => ?_⟩
      · calc _ < 2 ^ (w * n) + 2 ^ (w * n) * e n := Nat.add_lt_add_right hlt _
          _ = 2 ^ (w * n) * (e n + 1) := by ring
          _ ≤ 2 ^ (w * n) * 2 ^ w := Nat.mul_le_mul_left _ (he n hn)
          _ = 2 ^ (w * (n + 1)) := by rw [← Nat.pow_add, Nat.mul_succ]
      · rcases Nat.lt_succ_iff_lt_or_eq.mp hi with h | rfl
        · rw [elemAt_add_above _ _ h, hat i h hact]
        · rw [elemAt, Nat.add_mul_div_left _ _ (Nat.two_pow_pos _), Nat.div_eq_of_lt hlt, Nat.zero_add,
            Nat.mod_eq_of_lt (he i hact)]

/-! ### VLDB, VGATH and VSCAT -/

section
variable {s : State} {d a b : BitVec 5} {k : BitVec 3} {w : Width} (hb : s.CanRead (b.setWidth 6)) (hd : s.VReady d)
include hb hd

theorem exec_vldb_empty (hi : s.Issues (.vldb d b k w)) (hk : activeLanes w.bits (s.K k) = []) :
    exec (.vldb d b k w) s = .next s.doneVecNone := by
  refine performVec_ok hi ((Op.bind_ok (Op.readG_run s _ hb)).trans ((Op.bind_ok (Op.readK_run s k)).trans ?_))
  refine (Op.bind_ok (Op.readV_run s d hd)).trans ?_
  rw [hk]
  rfl

theorem exec_vldb_local (hi : s.Issues (.vldb d b k w)) (hk : activeLanes w.bits (s.K k) ≠ [])
    (hl : s.LocalOk (s.G (b.setWidth 6)) w.bytes) : ∃ x : VWord, exec (.vldb d b k w) s = .next (s.doneVec d x) ∧
      Masked w.bits (s.K k) (s.V d) x fun _ => s.localValue (refOffset (s.G (b.setWidth 6))) w.bytes := by
  obtain ⟨i, lanes, hlanes⟩ := List.exists_cons_of_ne_nil hk
  have ha : s.LocalOk (laneAcc w (s.G (b.setWidth 6)) 0 i).ref w.bytes := hl
  refine performVec_masked hi ?_ w.bits_dvd_vector fun _ => rfl
  refine (Op.bind_ok (Op.readG_run s _ hb)).trans ((Op.bind_ok (Op.readK_run s k)).trans ?_)
  refine (Op.bind_ok (Op.readV_run s d hd)).trans ?_
  rw [hlanes, List.head?_cons]
  refine (Op.bind_ok (Op.laneAligned_run ha)).trans ((Op.bind_ok (Op.get_run s)).trans ?_)
  refine (Op.bind_ok ((Op.loadMsg_local hl.1 ..).trans (ha.load le_rfl))).trans ?_
  exact Op.writeV_run s d _ hd

end

/-- The elements of a gather, put together from its active lanes. -/
theorem elemAt_gathered {w : Nat} {m : BitVec 32} {e : Nat → Nat} (he : ∀ i, e i < 2 ^ w) {i : Nat} (h : i < 256 / w)
    (hk : m.getLsbD i = true) :
    elemAt w (((activeLanes w m).map fun i => e i * 2 ^ (w * i)).foldl (fun x y => x + y) 0) i = e i := by
  rw [← List.sum_eq_foldl]
  exact (sum_lanes_spec w (fun i => m.getLsbD i) e (fun i _ => he i) _).2 i h hk

/-- The access of a lane of VGATH or VSCAT. -/
def State.lane (s : State) (w : Width) (a b : BitVec 5) (kind i : Nat) : Acc :=
  laneAcc w (laneRef w (s.G (b.setWidth 6)) (s.V a) i) kind i

section
variable {s : State} {d a b : BitVec 5} {k : BitVec 3} {w : Width} (hb : s.CanRead (b.setWidth 6)) (ha : s.VReady a)
  (hd : s.VReady d)
  (hl : ∀ i < 256 / w.bits, (s.K k).getLsbD i = true → ∀ kind, s.LocalOk (s.lane w a b kind i).ref w.bytes)
include hb ha hd hl

theorem exec_vgath_local (hi : s.Issues (.vgath d a b k w)) : ∃ x : VWord, exec (.vgath d a b k w) s = .next (s.doneVec d x) ∧
    Masked w.bits (s.K k) (s.V d) x fun i => s.localValue (refOffset (s.lane w a b 0 i).ref) w.bytes := by
  have hlane (i : Nat) (hi : i ∈ activeLanes w.bits (s.K k)) : s.LocalOk (s.lane w a b 0 i).ref w.bytes :=
    hl i (mem_activeLanes.mp hi).1 (mem_activeLanes.mp hi).2 0
  have htry : Op.tryLanes (activeLanes w.bits (s.K k)) (fun i => do
      Op.laneAligned w (s.lane w a b 0 i)
      discard (Op.load (s.self 0) (s.lane w a b 0 i))) s = .ok ((), s) :=
    Op.tryLanes_run fun i hi => ⟨s, (Op.bind_ok (Op.laneAligned_run (hlane i hi))).trans
      (Op.bind_ok (rest := fun _ => pure ()) ((hlane i hi).load le_rfl))⟩
  have hmsg : (activeLanes w.bits (s.K k)).find? (fun i => s.loadMessage (s.lane w a b 0 i).ref) = none :=
    List.find?_eq_none.mpr fun i hi => by simp [(hlane i hi).loadMessage]
  refine ⟨maskedElems w.bits (s.K k) (s.V d) fun i => elemAt w.bits (((activeLanes w.bits (s.K k)).map fun i =>
    s.localValue (refOffset (s.lane w a b 0 i).ref) w.bytes * 2 ^ (w.bits * i)).foldl (fun x y => x + y) 0) i,
    performVec_ok hi ?_, masked_maskedElems w.bits_dvd_vector _ _ fun i h hk => ?_⟩
  · refine (Op.bind_ok (Op.readG_run s _ hb)).trans ((Op.bind_ok (Op.readV_run s a ha)).trans ?_)
    refine (Op.bind_ok (Op.readK_run s k)).trans ((Op.bind_ok (Op.readV_run s d hd)).trans ?_)
    refine (Op.bind_ok (Op.get_run s)).trans ((Op.bind_ok htry).trans ?_)
    simp only [State.lane] at hmsg
    simp only [hmsg]
    refine (Op.bind_ok (Op.bind_ok (rest := fun es : List Nat => pure (es.foldl (fun x y => x + y) 0)) (Op.collect_run fun i hi =>
      Op.bind_ok (rest := fun e : Nat => pure (e * 2 ^ (w.bits * i))) ((hlane i hi).load le_rfl)))).trans ?_
    exact Op.writeV_run s d _ hd
  · have hfit (i : Nat) : s.localValue (refOffset (s.lane w a b 0 i).ref) w.bytes < 2 ^ w.bits := by
      rw [w.bits_eq]
      exact Memory.value_lt ..
    rw [elemAt_gathered hfit h hk]

theorem exec_vscat_local (hi : s.Issues (.vscat d a b k w)) (hs : s.StoreHere) (hm : s.core.lm.wf = true) :
    ∃ t, exec (.vscat d a b k w) s = .next t ∧
      (∀ i < 256 / w.bits, (s.K k).getLsbD i = true →
        (∀ j < 256 / w.bits, i < j → (s.K k).getLsbD j = true →
          refOffset (s.lane w a b 1 j).ref ≠ refOffset (s.lane w a b 1 i).ref) →
        t.localValue (refOffset (s.lane w a b 1 i).ref) w.bytes = elemAt w.bits (s.V d).toNat i) ∧
      (∀ p, (∀ i < 256 / w.bits, (s.K k).getLsbD i = true → p < refOffset (s.lane w a b 1 i).ref ∨
        refOffset (s.lane w a b 1 i).ref + w.bytes ≤ p) → t.localByte p = s.localByte p) ∧
      s.SameButG t 0 ∧ t.unc = s.unc := by
  have hlane (i : Nat) (hi : i ∈ activeLanes w.bits (s.K k)) : s.LocalOk (s.lane w a b 1 i).ref w.bytes :=
    hl i (mem_activeLanes.mp hi).1 (mem_activeLanes.mp hi).2 1
  have hput (i : Nat) (hi : i ∈ activeLanes w.bits (s.K k)) (m : Memory) (dirty : List Nat) (hm : m.wf = true) :
      (Op.store (s.self 0) (s.lane w a b 1 i) (elemAt w.bits (s.V d).toNat i)).StoresBytes (s.withLm m dirty)
        (storedByte (refOffset (s.lane w a b 1 i).ref) w.bytes (elemAt w.bits (s.V d).toNat i) (2 ^ w.bytes - 1)) := by
    have hquiet : s.Quiet := ⟨hs, (hlane i hi).noFlips⟩
    exact State.LocalOk.store_bytes (s := s.withLm m dirty) (hlane i hi) le_rfl (hquiet.withLm m dirty).1 hm _ _
  have htry : Op.tryLanes (activeLanes w.bits (s.K k)) (fun i => do
      Op.laneAligned w (s.lane w a b 1 i)
      Op.store (s.self 0) (s.lane w a b 1 i) (elemAt w.bits (s.V d).toNat i)) s = .ok ((), s) := by
    refine Op.tryLanes_run fun i hi => ?_
    obtain ⟨m, dirty, hrun, -⟩ := hput i hi s.core.lm s.core.blockDirty hm
    exact ⟨_, (Op.bind_ok (Op.laneAligned_run (hlane i hi))).trans hrun⟩
  have hmsg : (activeLanes w.bits (s.K k)).find? (fun i => s.storeMessage (s.lane w a b 1 i).ref) = none :=
    List.find?_eq_none.mpr fun i hi => by simp [(hlane i hi).storeMessage]
  obtain ⟨m, dirty, hrun, -, hkeep, hlast⟩ := Op.forEach_bytes (activeLanes_sorted w.bits (s.K k)) hm hput
  obtain ⟨hbyte, hsame⟩ := s.stored_vec m dirty
  refine ⟨_, performVec_ok hi ?_, fun i h hbit hother => ?_, fun p hp => ?_, hsame⟩
  · refine (Op.bind_ok (Op.readG_run s _ hb)).trans ((Op.bind_ok (Op.readV_run s a ha)).trans ?_)
    refine (Op.bind_ok (Op.readV_run s d hd)).trans ((Op.bind_ok (Op.readK_run s k)).trans ?_)
    refine (Op.bind_ok (Op.get_run s)).trans ((Op.bind_ok htry).trans ?_)
    simp only [State.lane] at hmsg
    simp only [hmsg]
    exact hrun
  · have hi' := mem_activeLanes.mpr ⟨h, hbit⟩
    have hfit : elemAt w.bits (s.V d).toNat i < 2 ^ (8 * w.bytes) := w.bits_eq ▸ elemAt_lt ..
    refine Eq.trans ?_ (Nat.mod_eq_of_lt hfit)
    refine Memory.value_eq_of_bytes fun x hx => hlast i hi' _ _ (storedByte_inside _ _ hx ?_) fun j hj hij =>
      storedByte_outside _ fun y hy _ he => ?_
    · simp [Nat.testBit_two_pow_sub_one, hx]
    · have hj' := mem_activeLanes.mp hj
      exact hother j hj'.1 hij hj'.2 (aligned_eq (hlane j hj).offset_mod (hlane i hi').offset_mod hy hx he.symm)
  · refine (hbyte p).trans (hkeep p fun i hi => storedByte_outside _ fun x hx _ he => ?_)
    have := hp i (mem_activeLanes.mp hi).1 (mem_activeLanes.mp hi).2
    omega

end

end Sys2Proof.Machine
end

section
/-! O43, the special-function unit: a request sent, started and written (R217, R218). -/

namespace Sys2Proof.Machine

/-! ### The unit of a cluster -/

@[simp] theorem State.sfu_cluster (s : State) (cl : Nat) : (s.sfu cl).cluster = cl := by
  rw [State.sfu]
  cases h : s.unc.sfus.find? fun u => u.cluster = cl with
  | none => rfl
  | some u => simpa using List.find?_some h

theorem State.sfu_putSfu (s : State) {cl : Nat} {u : SfuUnit} (h : u.cluster = cl) : (s.putSfu u).sfu cl = u := by
  rw [State.sfu, State.putSfu, List.find?_cons_of_pos (by simpa using h)]
  rfl

/-- A request that none of its step has preceded enters at the end of the queue. -/
theorem SfuUnit.enter_last {u : SfuUnit} {r : SfuReq} (h : ∀ x ∈ u.queue, x.came ≠ r.came) :
    (u.enter r).queue = u.queue ++ [r] ∧ (u.enter r).started = u.started ∧ (u.enter r).cluster = u.cluster := by
  have hnow : u.queue.filter (fun x => x.came = r.came) = [] := List.filter_eq_nil_iff.mpr fun x hx => by simpa using h x hx
  have hrest : u.queue.filter (fun x => x.came ≠ r.came) = u.queue := List.filter_eq_self.mpr fun x hx => by simpa using h x hx
  refine ⟨?_, rfl, rfl⟩
  simp only [SfuUnit.enter, hnow, hrest]
  rfl

/-! ### A request (R218) -/

/-- The request that a special-function word makes. -/
def State.sfuReq (s : State) (i : Instr) (a : BitVec 5) (k : BitVec 3) : SfuReq :=
  ⟨s.core.id, s.core.slot, s.ctx.num, s.tick, i, s.K k, s.V a⟩

section
variable {s : State} {i : Instr} {d a : BitVec 5} {k : BitVec 3} (ha : s.VReady a) (hd : s.VReady d)
include ha hd

theorem Op.sfuRequest_empty (hk : (s.K k).toNat % 256 = 0) : Op.sfuRequest i d a k s = .ok ((), s) := by
  refine (Op.bind_ok (Op.readV_run s a ha)).trans ((Op.bind_ok (Op.readV_run s d hd)).trans ?_)
  refine (Op.bind_ok (Op.readK_run s k)).trans ?_
  rw [if_pos hk, Op.pure_run]

variable (hk : (s.K k).toNat % 256 ≠ 0)
include hk

theorem Op.sfuRequest_full (hfull : Config.sfuEntries ≤ (s.sfu (clusterOf s.core.slot)).queue.length) :
    Op.sfuRequest i d a k s = .error .stall := by
  refine (Op.bind_ok (Op.readV_run s a ha)).trans ((Op.bind_ok (Op.readV_run s d hd)).trans ?_)
  refine (Op.bind_ok (Op.readK_run s k)).trans ?_
  rw [if_neg hk]
  refine (Op.bind_ok (Op.get_run s)).trans (Op.bind_halt ?_)
  rw [Op.need_run, decide_eq_false hfull.not_gt]
  rfl

theorem Op.sfuRequest_sends (hroom : (s.sfu (clusterOf s.core.slot)).queue.length < Config.sfuEntries) :
    Op.sfuRequest i d a k s = .ok ((), (((s.putSfu ((s.sfu (clusterOf s.core.slot)).enter (s.sfuReq i a k))).setCtx
      { (s.ctx.setPendV d.toNat true) with sfuOut := s.ctx.sfuOut + 1 }).counted 5)) := by
  refine (Op.bind_ok (Op.readV_run s a ha)).trans ((Op.bind_ok (Op.readV_run s d hd)).trans ?_)
  refine (Op.bind_ok (Op.readK_run s k)).trans ?_
  rw [if_neg hk]
  refine (Op.bind_ok (Op.get_run s)).trans ((Op.bind_ok (a := ()) (t := s) ?_).trans rfl)
  rw [Op.need_run, decide_eq_true hroom]
  rfl

end

theorem State.counted_setCtx (s : State) (c : Ctx) (entry : Nat) :
    ∃ u : Meter, (s.setCtx c).counted entry = s.setCtx { c with unit := u } := by
  obtain ⟨u, hu, -⟩ := (s.setCtx c).counted_eq entry
  exact ⟨u, hu⟩

/-- What a request leaves: the unit and the context that it makes, and the rest of the core. -/
theorem State.requested (s : State) (u : SfuUnit) (c : Ctx) :
    let t := ((((s.putSfu u).setCtx c).counted 5).counted 4).done
    t.sfu u.cluster = u ∧ t.ctx.pendV = c.pendV ∧ t.ctx.v = c.v ∧ t.ctx.g = c.g ∧ t.ctx.k = c.k ∧
      (t.ctx.sys = c.sys ∧ t.ctx.level = c.level ∧ t.ctx.revn = c.revn ∧ t.ctx.ar = c.ar ∧ t.ctx.digest = c.digest) ∧
      s.SameCoreRest t ∧ t.ctx.pc = c.pc + 4 := by
  obtain ⟨u₁, hu₁⟩ := (s.putSfu u).counted_setCtx c 5
  obtain ⟨u₂, hu₂⟩ := (s.putSfu u).counted_setCtx { c with unit := u₁ } 4
  rw [hu₁, hu₂]
  refine ⟨s.sfu_putSfu rfl, ?_, ?_, ?_, ?_, ?_, (s.putSfu u).sameCoreRest_setCtx_done _, ?_⟩ <;> simp [State.done]

theorem sendsSfu_of {mk : BitVec 5 → BitVec 5 → BitVec 3 → Instr}
    (hexec : ∀ d a k s, exec (mk d a k) s = performVec (mk d a k) (Op.sfuRequest (mk d a k) d a k) s) : SendsSfu mk := by
  intro s d a k hi ha hd cl hcame
  rw [hexec]
  refine ⟨fun hk => performVec_ok hi (Op.sfuRequest_empty ha hd hk), fun hk hroom => ?_,
    fun hk hfull => performVec_stall hi (Op.sfuRequest_full ha hd hk hfull)⟩
  obtain ⟨hqueue, hstarted, hcluster⟩ := SfuUnit.enter_last (u := s.sfu cl) (r := s.sfuReq (mk d a k) a k) hcame
  obtain ⟨hunit, hrest⟩ := s.requested ((s.sfu cl).enter (s.sfuReq (mk d a k) a k))
    { (s.ctx.setPendV d.toNat true) with sfuOut := s.ctx.sfuOut + 1 }
  rw [hcluster, s.sfu_cluster] at hunit
  refine ⟨_, performVec_ok hi (Op.sfuRequest_sends ha hd hk hroom), ?_⟩
  exact ⟨(congrArg SfuUnit.queue hunit).trans hqueue, (congrArg SfuUnit.started hunit).trans hstarted, hrest⟩

/-! ### Its result (R217) -/

theorem Ctx.sfuResult_spec {r : SfuReq} {d : BitVec 5} {f : Nat → Nat} (h : sfuFunction r.op = some (d, f)) (c : Ctx) :
    (c.sfuResult r).pendV.getLsbD d.toNat = false ∧ (c.sfuResult r).g = c.g ∧ (c.sfuResult r).k = c.k ∧
    (∀ n, n ≠ d.toNat → (c.sfuResult r).vval n = c.vval n) ∧
    Masked 32 r.mask (c.vval d.toNat) ((c.sfuResult r).vval d.toNat) fun i => f (elemAt 32 r.x.toNat i) := by
  let v := maskedElems 32 r.mask (c.vval d.toNat) fun i => f (elemAt 32 r.x.toNat i)
  have hres : c.sfuResult r = { (c.setV d.toNat v).setPendV d.toNat false with sfuOut := c.sfuOut - 1 } := by
    rw [Ctx.sfuResult, h]
  have hv : (c.sfuResult r).vval = (c.setV d.toNat v).vval := by rw [hres]; rfl
  refine ⟨?_, ?_, ?_, fun n hn => ?_, ?_⟩
  · rw [hres]
    simp [Ctx.setPendV, d.isLt]
  · rw [hres]
    exact c.setV_g ..
  · rw [hres]
    exact c.setV_k ..
  · rw [hv, Ctx.vval_setV_other _ _ _ _ hn]
  · rw [hv, Ctx.vval_setV_same _ _ _ d.isLt]
    exact masked_maskedElems (by decide) _ _ fun _ _ _ => rfl

end Sys2Proof.Machine

open Sys2Proof Sys2Proof.Machine in
/-- Settles O43: each load by the value that it reads, each store by the bytes that it writes, and the special-function unit by its
queue. -/
theorem vectorMemoryAndSfu : Obligations.VectorMemoryAndSfu := by
  unfold Obligations.VectorMemoryAndSfu
  refine ⟨fun s v a k imm ha hv =>
      ⟨fun hi => ⟨exec_vld_misaligned rfl ha hi, exec_vld_empty rfl ha hv hi, fun hk hl => exec_vld_local rfl ha hv hk hl hi⟩,
        fun hi => ⟨exec_vst_misaligned rfl ha hi, exec_vst_empty rfl ha hv hi, fun hk hl => exec_vst_local rfl ha hv hk hl hi⟩⟩,
    fun s d b k w hi hb hd => ⟨exec_vldb_empty hb hd hi, exec_vldb_local hb hd hi⟩,
    fun s d a b k w hb ha hd => ?lanes,
    sendsSfu_of fun _ _ _ _ => rfl, sendsSfu_of fun _ _ _ _ => rfl, sendsSfu_of fun _ _ _ _ => rfl,
    sendsSfu_of fun _ _ _ _ => rfl, sendsSfu_of fun _ _ _ _ => rfl, fun s cl r rest hq => ?start, fun s cl r rest hq => ?write,
    fun r c d a k f h => ?result⟩
  case lanes =>
    intro at_ hl
    exact ⟨exec_vgath_local hb ha hd fun i h hk _ => hl i h hk, exec_vscat_local hb ha hd fun i h hk _ => hl i h hk⟩
  case start =>
    refine runEvent_ok ((Op.bind_ok (Op.get_run s)).trans ?_)
    rw [hq]
    rfl
  case write =>
    refine runEvent_ok ((Op.bind_ok (Op.get_run s)).trans ?_)
    rw [hq]
    rfl
  case result =>
    refine Ctx.sfuResult_spec ?_ c
    rcases h with ⟨hop, rfl⟩ | ⟨hop, rfl⟩ | ⟨hop, rfl⟩ | ⟨hop, rfl⟩ | ⟨hop, rfl⟩ <;> rw [hop] <;> rfl
end

section
/-! The token of an engine command (R224, R299): the context that takes it, found again after it has changed. -/

namespace Sys2Proof.Machine

/-! ### A context that takes a token -/

/-- The context with a token in its register: the register is written and no longer pending, but g0 takes nothing. -/
def Ctx.takeToken (x : Ctx) (r : BitVec 6) (v : Word) : Ctx :=
  if r = 0 then x else (x.setG r.toNat v).setPendG r.toNat false

@[simp] theorem Ctx.takeToken_zero (x : Ctx) (v : Word) : x.takeToken 0 v = x := rfl

theorem Ctx.takeToken_of_ne {r : BitVec 6} (h : r ≠ 0) (x : Ctx) (v : Word) :
    x.takeToken r v = { x.setG r.toNat v with pendG := x.pendG &&& ~~~(1#64 <<< r.toNat) } := by
  have hr : r.toNat ≠ 0 := BitVec.toNat_ne.mp h
  rw [Ctx.takeToken, if_neg h]
  simp [Ctx.setPendG, hr]

/-- What a token leaves unchanged: any field but the general registers, their pending bits and the dirty bits. -/
theorem Ctx.takeToken_keeps {γ : Type} {f : Ctx → γ} {x : Ctx} {r : BitVec 6} {v : Word} (hg : f (x.setG r.toNat v) = f x)
    (hp : ∀ (y : Ctx) p, f { y with pendG := p } = f y) : f (x.takeToken r v) = f x := by
  by_cases h : r = 0
  · rw [h, Ctx.takeToken_zero]
  · rw [Ctx.takeToken_of_ne h, hp, hg]

@[simp] theorem Ctx.takeToken_num (x : Ctx) (r : BitVec 6) (v : Word) : (x.takeToken r v).num = x.num :=
  Ctx.takeToken_keeps (x.setG_num ..) fun _ _ => rfl
@[simp] theorem Ctx.takeToken_pc (x : Ctx) (r : BitVec 6) (v : Word) : (x.takeToken r v).pc = x.pc :=
  Ctx.takeToken_keeps (x.setG_pc ..) fun _ _ => rfl
@[simp] theorem Ctx.takeToken_v (x : Ctx) (r : BitVec 6) (w : Word) : (x.takeToken r w).v = x.v :=
  Ctx.takeToken_keeps (x.setG_v ..) fun _ _ => rfl
@[simp] theorem Ctx.takeToken_k (x : Ctx) (r : BitVec 6) (v : Word) : (x.takeToken r v).k = x.k :=
  Ctx.takeToken_keeps (x.setG_k ..) fun _ _ => rfl
@[simp] theorem Ctx.takeToken_sys (x : Ctx) (r : BitVec 6) (v : Word) : (x.takeToken r v).sys = x.sys :=
  Ctx.takeToken_keeps (x.setG_sys ..) fun _ _ => rfl
@[simp] theorem Ctx.takeToken_level (x : Ctx) (r : BitVec 6) (v : Word) : (x.takeToken r v).level = x.level :=
  Ctx.takeToken_keeps (x.setG_level ..) fun _ _ => rfl
@[simp] theorem Ctx.takeToken_revn (x : Ctx) (r : BitVec 6) (v : Word) : (x.takeToken r v).revn = x.revn :=
  Ctx.takeToken_keeps (x.setG_revn ..) fun _ _ => rfl
@[simp] theorem Ctx.takeToken_ar (x : Ctx) (r : BitVec 6) (v : Word) : (x.takeToken r v).ar = x.ar :=
  Ctx.takeToken_keeps (x.setG_ar ..) fun _ _ => rfl
@[simp] theorem Ctx.takeToken_digest (x : Ctx) (r : BitVec 6) (v : Word) : (x.takeToken r v).digest = x.digest :=
  Ctx.takeToken_keeps (x.setG_digest ..) fun _ _ => rfl

theorem Ctx.gval_takeToken_same {r : BitVec 6} (h : r ≠ 0) (x : Ctx) (v : Word) : (x.takeToken r v).gval r.toNat = v := by
  rw [Ctx.takeToken_of_ne h]
  exact x.gval_setG_same _ v r.isLt (BitVec.toNat_ne.mp h)

theorem Ctx.gval_takeToken_other {r n : BitVec 6} (h : n ≠ r) (x : Ctx) (v : Word) :
    (x.takeToken r v).gval n.toNat = x.gval n.toNat :=
  Ctx.takeToken_keeps (f := fun y => y.gval n.toNat) (x.gval_setG_other _ _ v (BitVec.toNat_ne.mp h)) fun _ _ => rfl

theorem Ctx.pendG_takeToken {r : BitVec 6} (h : r ≠ 0) (x : Ctx) (v : Word) :
    (x.takeToken r v).pendG.getLsbD r.toNat = false := by
  rw [Ctx.takeToken_of_ne h]
  simp [r.isLt]

/-! ### A context changed -/

theorem LCore.mapCtx_eq_self {c : LCore} {n : Nat} {f : Ctx → Ctx} (h : ∀ x, f x = x) : c.mapCtx n f = c := by
  simp [LCore.mapCtx, h]

theorem LCore.findCtx_mapCtx_same {c : LCore} {n : Nat} {x : Ctx} {f : Ctx → Ctx} (hx : c.findCtx n = some x)
    (hf : (f x).num = n) : (c.mapCtx n f).findCtx n = some (f x) := by
  by_cases hn : c.ctx.num = n
  · rw [← hn, c.findCtx_self] at hx
    cases hx
    rw [LCore.mapCtx, if_pos hn]
    exact List.find?_cons_of_pos (by simpa using hf)
  · exact LCore.findCtx_mapCtx hn hx hf

theorem LCore.findCtx_mapCtxs {f : Ctx → Ctx} (hf : ∀ x, (f x).num = x.num) (c : LCore) (n : Nat) :
    (c.mapCtxs f).findCtx n = (c.findCtx n).map f := by
  refine (List.find?_map (f := f) (l := c.ctxs)).trans ?_
  simp only [Function.comp_def, hf]
  rfl

@[simp] theorem LCore.mapCtx_core_id (c : LCore) (n : Nat) (f : Ctx → Ctx) : (c.mapCtx n f).id = c.id := by
  unfold LCore.mapCtx; split <;> rfl
@[simp] theorem LCore.mapCtx_mx (c : LCore) (n : Nat) (f : Ctx → Ctx) : (c.mapCtx n f).mx = c.mx := by
  unfold LCore.mapCtx; split <;> rfl
@[simp] theorem LCore.mapCtx_lm (c : LCore) (n : Nat) (f : Ctx → Ctx) : (c.mapCtx n f).lm = c.lm := by
  unfold LCore.mapCtx; split <;> rfl
@[simp] theorem LCore.mapCtx_rings (c : LCore) (n : Nat) (f : Ctx → Ctx) : (c.mapCtx n f).rings = c.rings := by
  unfold LCore.mapCtx; split <;> rfl

/-! ### The token written -/

theorem State.mapCore_focus (s : State) (f : LCore → LCore) : s.mapCore s.core.id f = { s with core := f s.core } := if_pos rfl

theorem State.mapCtx_focus (s : State) (f : Ctx → Ctx) : s.mapCtx s.core.id s.ctx.num f = s.setCtx (f s.ctx) := by
  rw [State.mapCtx, s.mapCore_focus, LCore.mapCtx]
  exact congrArg s.setCore (if_pos rfl)

theorem State.mapCore_eq_self {s : State} {id : CoreId} {f : LCore → LCore} (h : ∀ c, f c = c) : s.mapCore id f = s := by
  simp [State.mapCore, h]

theorem State.writeToken_eq (s : State) (id : CoreId) (n : Nat) (r : BitVec 6) (v : Word) :
    s.writeToken id n r v = s.mapCtx id n (·.takeToken r v) := by
  by_cases h : r = 0
  · rw [State.writeToken, if_pos h, h]
    exact (State.mapCore_eq_self fun c => c.mapCtx_eq_self fun x => x.takeToken_zero v).symm
  · rw [State.writeToken, if_neg h]
    simp only [Ctx.takeToken, if_neg h]

end Sys2Proof.Machine
end

section
/-! O44. The matrix and copy words: a command enters its queue or waits for room, and CPYC by where it finds its command. -/

namespace Sys2Proof.Machine

/-! ### Matrix commands at issue (R223) -/

/-- The matrix command that a word makes at its issue. -/
def State.matCmd (s : State) (i : Instr) (x y z : Word) : MCmd :=
  ⟨i, s.ctx.num, x, y, z, s.ctx.sys.tensor, s.ctx.sys.sevpol, s.nofold⟩

/-- The command's entry in the queue, behind the checks of its token register and of the queue's room; an MRDV holds its vector
register too. -/
def Op.enterMatrix (c : LCore) (t : BitVec 6) (cmd : MCmd) : Op Unit := do
  match cmd.vreg with
  | some v => Op.need (!c.ctx.pendV.getLsbD v.toNat)
  | none => pure ()
  Op.releaseWait 1
  Op.claimG t
  match cmd.vreg with
  | some v => Op.modCtx fun c => c.setPendV v.toNat true
  | none => pure ()
  Op.modCore fun c => { c with mx := { c.mx with queue := c.mx.queue ++ [cmd] } }

section
variable {s : State} {i : Instr} {x y z : Word} {t : BitVec 6} (ht : s.CanWrite t)
include ht

theorem Op.matIssue_full (hfull : 2 ≤ s.core.mx.queue.length) : Op.matIssue i x y z t s = .error .stall := by
  refine (Op.bind_ok (Op.freeG_run s t ht)).trans ((Op.bind_ok (Op.core_run s)).trans ?_)
  exact Op.need_bind_stall (decide_eq_false (Nat.not_lt.mpr hfull)) _ s

theorem Op.matIssue_room (hroom : s.core.mx.queue.length < 2) :
    Op.matIssue i x y z t s = Op.enterMatrix s.core t (s.matCmd i x y z) s := by
  refine (Op.bind_ok (Op.freeG_run s t ht)).trans ((Op.bind_ok (Op.core_run s)).trans ?_)
  exact Op.need_bind (decide_eq_true hroom) _ s

variable (ho : s.unc.bankOps = []) (hr : s.ctx.reports = [])
include ho hr

theorem Op.enterMatrix_run (hv : (s.matCmd i x y z).vreg = none) :
    Op.enterMatrix s.core t (s.matCmd i x y z) s = .ok ((), s.queueMatrix i x y z t) := by
  rw [Op.enterMatrix, hv]
  exact (Op.bind_ok (Op.releaseWait_idle ho hr 1)).trans (Op.bind_ok (Op.claimG_run s t ht))

theorem Op.enterMatrix_vector {v : BitVec 5} (hv : (s.matCmd i x y z).vreg = some v) (hfree : s.VReady v) :
    let q := s.queueMatrix i x y z t
    Op.enterMatrix s.core t (s.matCmd i x y z) s = .ok ((), q.setCtx (q.ctx.setPendV v.toNat true)) := by
  have hfree : (!s.core.ctx.pendV.getLsbD v.toNat) = true := congrArg not hfree
  rw [Op.enterMatrix, hv]
  refine (Op.need_bind hfree _ s).trans ((Op.bind_ok (Op.releaseWait_idle ho hr 1)).trans ?_)
  exact Op.bind_ok (Op.claimG_run s t ht)

end

/-- A matrix word that has two register operands, and writes no vector register. -/
theorem queuesMatrix2_of {mk : BitVec 6 → BitVec 6 → BitVec 6 → Instr}
    (he : ∀ a b t s, exec (mk a b t) s = performNext (mk a b t) (Op.matIssue2 (mk a b t) a b t) s := by intros; rfl)
    (hv : ∀ a b t (s : State) x y z, (s.matCmd (mk a b t) x y z).vreg = none := by intros; rfl) : QueuesMatrix2 mk := by
  intro s a b t hi ha hb ht ho hr
  have hread : Op.matIssue2 (mk a b t) a b t s = Op.matIssue (mk a b t) (s.G a) (s.G b) 0 t s :=
    (Op.bind_ok (Op.readG_run s a ha)).trans (Op.bind_ok (Op.readG_run s b hb))
  rw [he]
  exact ⟨fun hroom => performNext_ok hi (hread.trans ((Op.matIssue_room ht hroom).trans (Op.enterMatrix_run ht ho hr (hv ..)))),
    fun hfull => performNext_stall hi (hread.trans (Op.matIssue_full ht hfull))⟩

/-- A matrix word that has one register operand. -/
theorem queuesMatrix1_of {mk : BitVec 6 → BitVec 6 → Instr}
    (he : ∀ a t s, exec (mk a t) s = performNext (mk a t) (Op.matIssue1 (mk a t) a t) s := by intros; rfl)
    (hv : ∀ a t (s : State) x y z, (s.matCmd (mk a t) x y z).vreg = none := by intros; rfl) : QueuesMatrix1 mk := by
  intro s a t hi ha ht ho hr
  have hread : Op.matIssue1 (mk a t) a t s = Op.matIssue (mk a t) (s.G a) 0 0 t s := Op.bind_ok (Op.readG_run s a ha)
  rw [he]
  exact ⟨fun hroom => performNext_ok hi (hread.trans ((Op.matIssue_room ht hroom).trans (Op.enterMatrix_run ht ho hr (hv ..)))),
    fun hfull => performNext_stall hi (hread.trans (Op.matIssue_full ht hfull))⟩

theorem exec_mrdv {s : State} {a : BitVec 6} {v : BitVec 5} {t : BitVec 6} {tile : BitVec 3} (hi : s.Issues (.mrdv a v t tile))
    (ha : s.CanRead a) (hb : s.CanRead (a + 1)) (ht : s.CanWrite t) (hv : s.VReady v) (ho : s.unc.bankOps = [])
    (hr : s.ctx.reports = []) :
    let q := s.queueMatrix (.mrdv a v t tile) (s.G a) 0 (s.G (a + 1)) t
    (s.core.mx.queue.length < 2 → exec (.mrdv a v t tile) s = .next (q.setCtx (q.ctx.setPendV v.toNat true)).done) ∧
    (2 ≤ s.core.mx.queue.length → exec (.mrdv a v t tile) s = .next s.standStill) :=
  ⟨fun hroom => performNext_ok hi ((Op.bind_ok (Op.readG_run s a ha)).trans ((Op.bind_ok (Op.readG_run s (a + 1) hb)).trans
      ((Op.matIssue_room ht hroom).trans (Op.enterMatrix_vector ht ho hr rfl hv)))),
    fun hfull => performNext_stall hi ((Op.bind_ok (Op.readG_run s a ha)).trans ((Op.bind_ok (Op.readG_run s (a + 1) hb)).trans
      (Op.matIssue_full ht hfull)))⟩

/-! ### EFENCE (R241, R243) -/

/-- What EFENCE does once the commands that it counts have ended: it takes a stop report, or completes. -/
def Op.efenceEnd (c : Ctx) : Op Exit :=
  match c.matrixReport with
  | some r => Op.takeReport r
  | none => pure .next

/-- EFENCE: with commands pending at its issue it keeps their number and waits; later it waits until none of them is left. -/
def Op.efence : Op Exit := do
  let c ← Op.core
  match c.ctx.progress with
  | none =>
    if c.mx.pending ≠ 0 then
      Op.modCtx fun x => { x with progress := some c.mx.pending }
      Op.block
    else pure ()
  | some n => Op.need (n = 0)
  Op.efenceEnd c.ctx

/-- A word that stands still where its body is not ready (R152). -/
theorem perform_stall {i : Instr} {body : Op Exit} {s : State} (h : s.Issues i) (hb : body s = .error .stall) :
    perform i body s = .next s.standStill := by
  rw [perform_issues i body s h, hb]

theorem exec_efence_eq (s : State) : exec .efence s = perform .efence Op.efence s := rfl

theorem MatrixEngine.pending_eq_zero {e : MatrixEngine} : e.pending = 0 ↔ e.queue = [] ∧ e.running = none := by
  cases h : e.running <;> simp [MatrixEngine.pending, h]

section
variable {s : State} (hi : s.Issues .efence)
include hi

theorem exec_efence_ended
    (h : (s.ctx.progress = none ∧ s.core.mx.queue = [] ∧ s.core.mx.running = none) ∨ s.ctx.progress = some 0) :
    exec .efence s = perform .efence (Op.efenceEnd s.ctx) s := by
  refine (exec_efence_eq s).trans (perform_congr hi ((Op.bind_ok (Op.core_run s)).trans ?_))
  rcases h with ⟨hp, he⟩ | hp
  · rw [show s.core.ctx.progress = none from hp, if_neg (not_not.mpr (MatrixEngine.pending_eq_zero.mpr he))]
    rfl
  · rw [show s.core.ctx.progress = some 0 from hp]
    rfl

theorem exec_efence_completes (hr : s.ctx.matrixReport = none)
    (h : exec .efence s = perform .efence (Op.efenceEnd s.ctx) s) : exec .efence s = .next s.done :=
  h.trans (perform_ok hi (by rw [Op.efenceEnd, hr]; rfl))

theorem exec_efence_reports {r : Report} (hr : s.ctx.matrixReport = some r)
    (h : exec .efence s = perform .efence (Op.efenceEnd s.ctx) s) :
    exec .efence s = .next (s.takeTrap ⟨r.cause, r.eaddr, r.einfo, some r, none, none⟩) :=
  h.trans (perform_trap hi (by rw [Op.efenceEnd, hr]; rfl))

theorem exec_efence_counts (hp : s.ctx.progress = none) (h : s.core.mx.pending ≠ 0) :
    exec .efence s = .next (s.setCtx { s.ctx with progress := some s.core.mx.pending }).retreat := by
  refine (exec_efence_eq s).trans (perform_block hi ((Op.bind_ok (Op.core_run s)).trans ?_))
  rw [show s.core.ctx.progress = none from hp, if_pos h]
  rfl

theorem exec_efence_waits {n : Nat} (hp : s.ctx.progress = some (n + 1)) : exec .efence s = .next s.standStill := by
  refine (exec_efence_eq s).trans (perform_stall hi ((Op.bind_ok (Op.core_run s)).trans ?_))
  rw [show s.core.ctx.progress = some (n + 1) from hp]
  rfl

end

/-! ### Copies at issue (R295), and their number (R302) -/

theorem Ctx.setPendG_eq (c : Ctx) (n : Nat) (b : Bool) : ∃ p, c.setPendG n b = { c with pendG := p } := by
  unfold Ctx.setPendG
  split
  · exact ⟨c.pendG, rfl⟩
  · exact ⟨_, rfl⟩

theorem queuesCopy_of {mk : BitVec 6 → BitVec 6 → BitVec 6 → Instr}
    (he : ∀ a b t s, exec (mk a b t) s = performNext (mk a b t) (Op.copyIssue (mk a b t) a b t) s := by intros; rfl) :
    QueuesCopy mk := by
  intro s a b t hi ha hb ht ho hr
  rw [he]
  constructor
  · intro hroom
    refine performNext_ok hi ((Op.bind_ok (Op.readG_run s a ha)).trans ((Op.bind_ok (Op.readG_run s b hb)).trans ?_))
    refine (Op.bind_ok (Op.freeG_run s t ht)).trans ((Op.bind_ok (Op.core_run s)).trans ?_)
    refine (Op.need_bind (decide_eq_true hroom) _ s).trans ((Op.bind_ok (Op.releaseWait_idle ho hr 1)).trans ?_)
    refine (Op.bind_ok (Op.claimG_run s t ht)).trans ?_
    obtain ⟨p, hp⟩ := s.ctx.setPendG_eq t.toNat true
    rw [State.queueCopy, hp]
    rfl
  · intro hfull
    refine performNext_stall hi ((Op.bind_ok (Op.readG_run s a ha)).trans ((Op.bind_ok (Op.readG_run s b hb)).trans ?_))
    refine (Op.bind_ok (Op.freeG_run s t ht)).trans ((Op.bind_ok (Op.core_run s)).trans ?_)
    exact Op.need_bind_stall (decide_eq_false (Nat.not_lt.mpr hfull)) _ s

theorem exec_cpyq {s : State} {a t : BitVec 6} (hi : s.Issues (.cpyq a t)) (ha : s.CanRead a) (ht : s.CanWrite t) :
    let n := (s.core.copies.queue.filter fun x => x.ctx = s.ctx.num).length +
      (s.core.copies.flight.filter fun x => x.cmd.ctx = s.ctx.num).length
    (n ≤ (s.G a).toNat → exec (.cpyq a t) s = .next (s.doneG t (Word.ofN n))) ∧
    ((s.G a).toNat < n → exec (.cpyq a t) s = .next s.standStill) := by
  intro n
  constructor <;> intro hn
  · refine performNext_ok hi ((Op.bind_ok (Op.readG_run s a ha)).trans ((Op.bind_ok (Op.core_run s)).trans ?_))
    exact (Op.need_bind (decide_eq_true hn) _ s).trans (Op.writeG_run s t _ ht)
  · refine performNext_stall hi ((Op.bind_ok (Op.readG_run s a ha)).trans ((Op.bind_ok (Op.core_run s)).trans ?_))
    exact Op.need_bind_stall (decide_eq_false hn.not_ge) _ s

/-! ### CPYC (R301) -/

theorem placeOf_eq_findIdx? {α : Type} (p : α → Bool) (l : List α) : placeOf p l = l.findIdx? p := by
  suffices h : ∀ n, ((l.zipIdx n).find? fun e => p e.1).map (·.2) = (l.findIdx? p).map (· + n) by
    simpa [placeOf] using h 0
  induction l with
  | nil => simp
  | cons a l ih =>
    intro n
    cases ha : p a with
    | true => simp [List.findIdx?_cons, ha]
    | false =>
      simp [List.findIdx?_cons, ha, ih (n + 1), Option.map_map, Function.comp_def, Nat.add_assoc, Nat.add_comm 1 n]

theorem placeOf_none {α : Type} {p : α → Bool} {l : List α} (h : ∀ a ∈ l, p a = false) : placeOf p l = none := by
  rw [placeOf_eq_findIdx?, List.findIdx?_eq_none_iff]
  exact h

/-- The first that satisfies the test stands behind those that do not. -/
theorem placeOf_first {α : Type} {p : α → Bool} {before after : List α} {a : α} (h : ∀ x ∈ before, p x = false)
    (ha : p a = true) : placeOf p (before ++ a :: after) = some before.length := by
  rw [placeOf_eq_findIdx?, List.findIdx?_append, List.findIdx?_eq_none_iff.mpr h, List.findIdx?_cons, ha]
  simp

/-- Whether a copy command is one of the context in focus with this token register. -/
def State.ownCopy (s : State) (r : BitVec 6) (c : CopyCmd) : Bool := c.ctx = s.ctx.num && c.tok = r

theorem State.ownCopy_iff {s : State} {r : BitVec 6} {c : CopyCmd} : s.ownCopy r c = true ↔ c.ctx = s.ctx.num ∧ c.tok = r := by
  simp [State.ownCopy]

theorem State.ownCopy_false {s : State} {r : BitVec 6} {c : CopyCmd} (h : ¬(c.ctx = s.ctx.num ∧ c.tok = r)) :
    s.ownCopy r c = false :=
  Bool.eq_false_iff.mpr fun hc => h (State.ownCopy_iff.mp hc)

/-- CPYC of a queued command: it leaves the queue. -/
def State.cancelQueued (s : State) (i : Nat) : State :=
  (s.mapCore s.core.id fun c => { c with copies := { c.copies with queue := c.copies.queue.eraseIdx i } }).copyEnd s.core.id
    (s.core.copies.queue.getD i ⟨.cpyc 0, 0, 0, 0, 0, false⟩) (copyToken 0 0 0 0x14)

/-- CPYC of a copy in flight, once it has stopped: its end, as an error that it met ends it or with status 0x14. -/
def State.cancelled (s : State) (id : CoreId) (i : Nat) (f : CopyRun) (n : Nat) (st : Stopped) : State :=
  let dropped := s.mapCore id fun c => c.dropCopy i
  match st with
  | some (operand, .stop cause eaddr einfo precise) => dropped.copyStop id f.cmd (f.doneAt n) operand cause eaddr einfo precise
  | _ => dropped.copyEnd id f.cmd (copyToken (f.doneAt n) 0 0 0x14)

/-- The end of a copy in flight that CPYC has stopped. -/
def Op.cpycEnd (id : CoreId) (i : Nat) (f : CopyRun) (n : Nat) (st : Stopped) : Op Unit :=
  match st with
  | some (operand, .stop cause eaddr einfo precise) =>
    modify fun s => (s.mapCore id fun c => c.dropCopy i).copyStop id f.cmd (f.doneAt n) operand cause eaddr einfo precise
  | _ => modify fun s => (s.mapCore id fun c => c.dropCopy i).copyEnd id f.cmd (copyToken (f.doneAt n) 0 0 0x14)

theorem Op.cpycEnd_run (id : CoreId) (i : Nat) (f : CopyRun) (n : Nat) (st : Stopped) (s : State) :
    Op.cpycEnd id i f n st s = .ok ((), s.cancelled id i f n st) := by
  unfold Op.cpycEnd State.cancelled
  split <;> rfl

/-- The body of CPYC. -/
def Op.cpyc (r : BitVec 6) : Op Unit := do
  let s ← get
  match placeOf (s.ownCopy r) s.core.copies.queue with
  | some i => set (s.cancelQueued i)
  | none =>
    match placeOf (fun (f : CopyRun) => s.ownCopy r f.cmd) s.core.copies.flight with
    | none => pure ()
    | some i =>
      let f ← Op.get! (s.core.copyAt i)
      let (n, st) ← Op.copyCancel s.core.id i f
      Op.cpycEnd s.core.id i f n st

theorem exec_cpyc_eq (r : BitVec 6) (s : State) : exec (.cpyc r) s = performNext (.cpyc r) (Op.cpyc r) s := rfl

section
variable {s : State} {r : BitVec 6} (hi : s.Issues (.cpyc r))
include hi

theorem exec_cpyc_queued {before after : List CopyCmd} {c : CopyCmd} (hq : s.core.copies.queue = before ++ c :: after)
    (hb : ∀ x ∈ before, s.ownCopy r x = false) (hc : s.ownCopy r c = true) :
    exec (.cpyc r) s = .next (s.cancelQueued before.length).done := by
  refine (exec_cpyc_eq r s).trans (performNext_ok hi ((Op.bind_ok (Op.get_run s)).trans ?_))
  rw [hq, placeOf_first hb hc]
  rfl

variable (hq : ∀ c ∈ s.core.copies.queue, s.ownCopy r c = false)
include hq

theorem exec_cpyc_absent (hf : ∀ f ∈ s.core.copies.flight, s.ownCopy r f.cmd = false) : exec (.cpyc r) s = .next s.done := by
  refine (exec_cpyc_eq r s).trans (performNext_ok hi ((Op.bind_ok (Op.get_run s)).trans ?_))
  rw [placeOf_none hq, placeOf_none (p := fun (f : CopyRun) => s.ownCopy r f.cmd) hf]
  rfl

theorem exec_cpyc_flying {s₁ : State} {before after : List CopyRun} {f : CopyRun} {n : Nat} {st : Stopped}
    (hl : s.core.copies.flight = before ++ f :: after) (hb : ∀ x ∈ before, s.ownCopy r x.cmd = false)
    (hf : s.ownCopy r f.cmd = true) (h : Op.copyCancel s.core.id before.length f s = .ok ((n, st), s₁)) :
    exec (.cpyc r) s = .next (s₁.cancelled s.core.id before.length f n st).done := by
  have hat : s.core.copyAt before.length = some f := by simp [LCore.copyAt, hl]
  refine (exec_cpyc_eq r s).trans (performNext_ok hi ((Op.bind_ok (Op.get_run s)).trans ?_))
  rw [placeOf_none hq, hl, placeOf_first (p := fun (f : CopyRun) => s.ownCopy r f.cmd) hb hf]
  exact (Op.get!_bind hat _ s).trans ((Op.bind_ok h).trans (Op.cpycEnd_run ..))

end

/-- With no line in any cluster a copy's end writes its token and does nothing else (R298). -/
theorem State.copyEnd_no_lines {s : State} (h : s.unc.lines = []) (id : CoreId) (m : CopyCmd) (v : Word) :
    s.copyEnd id m v = s.writeToken id m.ctx m.tok v := by
  have hrel (cl : Nat) : s.releaseCluster cl = s := by simp [State.releaseCluster, h]
  have hacq : s.tokenAcquire id m.scope = s := by
    simp only [State.tokenAcquire, State.acquireCluster_no_lines h, ite_self]
    split <;> rfl
  rw [State.copyEnd]
  simp only [hrel, ite_self]
  split <;> rw [hacq]

theorem State.cancelQueued_eq {s : State} {r : BitVec 6} {before after : List CopyCmd} {c : CopyCmd}
    (hq : s.core.copies.queue = before ++ c :: after) (hc : s.ownCopy r c = true) (hl : s.unc.lines = []) :
    s.cancelQueued before.length = { s with core := { s.core with
      ctx := s.ctx.takeToken r 0x14, copies := { s.core.copies with queue := before ++ after } } } := by
  obtain ⟨hctx, rfl⟩ := State.ownCopy_iff.mp hc
  have hget : s.core.copies.queue.getD before.length ⟨.cpyc 0, 0, 0, 0, 0, false⟩ = c := by simp [hq]
  have herase : s.core.copies.queue.eraseIdx before.length = before ++ after := by
    simp [hq, List.eraseIdx_append_of_length_le]
  rw [State.cancelQueued, hget, s.mapCore_focus, herase]
  refine (State.copyEnd_no_lines ?_ ..).trans ?_
  · exact hl
  · rw [State.writeToken_eq, hctx]
    exact State.mapCtx_focus _ _

/-- What CPYC of a queued command leaves: the command has left the queue with status 0x14 in its token register. -/
theorem exec_cpyc_cancels {s : State} {r : BitVec 6} {before after : List CopyCmd} {c : CopyCmd} (hi : s.Issues (.cpyc r))
    (hq : s.core.copies.queue = before ++ c :: after) (hb : ∀ x ∈ before, s.ownCopy r x = false) (hc : s.ownCopy r c = true)
    (hl : s.unc.lines = []) :
    ∃ t, exec (.cpyc r) s = .next t ∧ t.core.copies.queue = before ++ after ∧ t.core.copies.flight = s.core.copies.flight ∧
      t.HasToken s.core.id s.ctx.num r 0x14 ∧ s.SameG t r ∧ s.SameVK t ∧ s.SameSys t ∧ t.ctx.pc = s.ctx.pc + 4 ∧
      s.SameOutside t := by
  refine ⟨_, exec_cpyc_queued hi hq hb hc, ?_⟩
  rw [State.cancelQueued_eq hq hc hl]
  let x : Ctx := s.ctx.takeToken r 0x14
  have hnum : (x.advance .next).num = s.ctx.num := (x.advance_num .next).trans (s.ctx.takeToken_num ..)
  have hg (n : BitVec 6) : (x.advance .next).gval n.toNat = x.gval n.toNat := by simp [Ctx.gval]
  refine ⟨rfl, rfl, ⟨_, x.advance .next, List.find?_cons_of_pos (decide_eq_true rfl),
      List.find?_cons_of_pos (decide_eq_true hnum), fun hr => ⟨(hg r).trans (Ctx.gval_takeToken_same hr ..), ?_⟩⟩,
    fun n hn => (hg n).trans (Ctx.gval_takeToken_other hn ..),
    ⟨(x.advance_v .next).trans (s.ctx.takeToken_v ..), (x.advance_k .next).trans (s.ctx.takeToken_k ..)⟩,
    ⟨(x.advance_sys .next).trans (s.ctx.takeToken_sys ..), (x.advance_level .next).trans (s.ctx.takeToken_level ..),
      (x.advance_revn .next).trans (s.ctx.takeToken_revn ..), (x.advance_ar .next).trans (s.ctx.takeToken_ar ..),
      (x.advance_digest .next).trans (s.ctx.takeToken_digest ..)⟩,
    congrArg (· + 4) (s.ctx.takeToken_pc ..), rfl, rfl, rfl, rfl, rfl, rfl, rfl, rfl⟩
  exact (congrArg (·.getLsbD r.toNat) (x.advance_pendG .next)).trans (Ctx.pendG_takeToken hr ..)

end Sys2Proof.Machine

open Sys2Proof Sys2Proof.Machine in
/-- Settles O44: each word by its body, the issue words by the room in their queue. -/
theorem matrixAndCopyWords : Obligations.MatrixAndCopyWords := by
  unfold Obligations.MatrixAndCopyWords
  refine ⟨⟨fun tile => ⟨queuesMatrix2_of, queuesMatrix2_of, queuesMatrix2_of, queuesMatrix2_of, queuesMatrix2_of,
      queuesMatrix2_of, queuesMatrix1_of, queuesMatrix1_of, queuesMatrix1_of, queuesMatrix1_of⟩, queuesMatrix2_of, queuesMatrix2_of,
    fun s a v t tile hi ha hb ht hv ho hr => exec_mrdv hi ha hb ht hv ho hr,
    fun s hi h => ?ended, fun s hi hp h => ?counts, fun s n hi hp => exec_efence_waits hi hp⟩,
    queuesCopy_of, fun sc z => queuesCopy_of, fun s a t hi ha ht => exec_cpyq hi ha ht,
    fun s r hi hq hf => ?absent, fun s r before after c hi hq hb hctx htok hl => ?queued,
    fun s s₁ r before after f n st hi hq hl hb hctx htok => ?flying⟩
  case ended =>
    have he := exec_efence_ended hi h
    exact ⟨fun hr => exec_efence_completes hi hr he, fun r hr => exec_efence_reports hi hr he⟩
  case counts =>
    refine exec_efence_counts hi hp fun hzero => ?_
    obtain ⟨hqueue, hrun⟩ := MatrixEngine.pending_eq_zero.mp hzero
    simp [hqueue, hrun] at h
  case absent =>
    exact exec_cpyc_absent hi (fun c hc => State.ownCopy_false (hq c hc)) fun f hf' => State.ownCopy_false (hf f hf')
  case queued =>
    exact exec_cpyc_cancels hi hq (fun x hx => State.ownCopy_false (hb x hx)) (State.ownCopy_iff.mpr ⟨hctx, htok⟩) hl
  case flying =>
    intro i dropped h
    exact exec_cpyc_flying hi (fun c hc => State.ownCopy_false (hq c hc)) hl (fun x hx => State.ownCopy_false (hb x hx))
      (State.ownCopy_iff.mpr ⟨hctx, htok⟩) h
end

section
/-! The matrix engine: what its updates leave of its tiles and of its configuration, and the logical core in which a command has
ended (R221, R224, R244). -/

namespace Sys2Proof.Machine

/-! ### Tiles of the engine (R221, R222) -/

/-- An engine with the engine pair and the queue of another: its tiles, its shadow, the readout pair and the running command are
left out. -/
structure MatrixEngine.SameSetup (e f : MatrixEngine) : Prop where
  mxc0 : f.mxc0 = e.mxc0
  mxc1 : f.mxc1 = e.mxc1
  queue : f.queue = e.queue

theorem MatrixEngine.SameSetup.refl (e : MatrixEngine) : e.SameSetup e := ⟨rfl, rfl, rfl⟩

theorem MatrixEngine.SameSetup.trans {e f g : MatrixEngine} (h : e.SameSetup f) (k : f.SameSetup g) : e.SameSetup g :=
  ⟨k.mxc0.trans h.mxc0, k.mxc1.trans h.mxc1, k.queue.trans h.queue⟩

theorem MatrixEngine.sameSetup_setTile (e : MatrixEngine) (t : Nat) (x : Tile) : e.SameSetup (e.setTile t x) := by
  unfold MatrixEngine.setTile
  split
  · exact ⟨rfl, rfl, rfl⟩
  · exact .refl e

theorem MatrixEngine.sameSetup_updateExtent (e : MatrixEngine) (x : Extent) (f : Nat → Tile → Tile) :
    e.SameSetup (e.updateExtent x f) :=
  List.foldlRecOn (motive := e.SameSetup) _ _ (.refl e) fun _ h _ _ => h.trans (sameSetup_setTile ..)

theorem MatrixEngine.sameSetup_noteSat (e : MatrixEngine) (x : Extent) (r c n : Nat) : e.SameSetup (e.noteSat x r c n) := by
  refine List.foldlRecOn (motive := e.SameSetup) _ _ (.refl e) fun f h j _ => h.trans ?_
  dsimp only
  split
  · exact sameSetup_setTile ..
  · exact .refl f

theorem MatrixEngine.sameSetup_dropShadow (e : MatrixEngine) (x : Extent) : e.SameSetup (e.dropShadow x) := by
  unfold MatrixEngine.dropShadow
  split
  · split
    · exact ⟨rfl, rfl, rfl⟩
    · exact .refl e
  · exact .refl e

theorem MatrixEngine.tile_setTile_same (e : MatrixEngine) {t : Nat} (h : t < 8) (x : Tile) : (e.setTile t x).tile t = x := by
  simp [MatrixEngine.setTile, MatrixEngine.tile, h]

theorem MatrixEngine.tile_setTile_other (e : MatrixEngine) {t q : Nat} (h : q ≠ t) (x : Tile) :
    (e.setTile t x).tile q = e.tile q := by
  unfold MatrixEngine.setTile
  split
  · simp only [MatrixEngine.tile, Vector.toList_set, List.getD_eq_getElem?_getD, List.getElem?_set_ne h.symm]
  · rfl

theorem MatrixEngine.tile_dropShadow (e : MatrixEngine) (x : Extent) : (e.dropShadow x).tile = e.tile := by
  unfold MatrixEngine.dropShadow
  split
  · split <;> rfl
  · rfl

/-- An update of an extent changes each of its tiles once, and no other. -/
theorem MatrixEngine.tile_updateExtent (e : MatrixEngine) {x : Extent} (h : x.base + x.tiles ≤ 8) (f : Nat → Tile → Tile)
    (q : Nat) : (e.updateExtent x f).tile q = if x.base ≤ q ∧ q < x.base + x.tiles then f (q - x.base) (e.tile q) else e.tile q := by
  unfold MatrixEngine.updateExtent
  revert h
  induction x.tiles with
  | zero => exact fun _ => (if_neg (by omega)).symm
  | succ n ih =>
    intro h
    rw [List.range_succ, List.foldl_append, List.foldl_cons, List.foldl_nil]
    by_cases hq : q = x.base + n
    · subst hq
      rw [MatrixEngine.tile_setTile_same _ (by omega), ih (by omega), if_neg (by omega), if_pos (by omega), Nat.add_sub_cancel_left]
    · rw [MatrixEngine.tile_setTile_other _ hq, ih (by omega)]
      exact if_congr (by omega) rfl rfl

/-- The tiles of an extent are tiles of the engine. -/
theorem extentOf_fits (mode : Nat) (k : BitVec 3) :
    (extentOf mode k.toNat).base = k.toNat ∧ (extentOf mode k.toNat).base + (extentOf mode k.toNat).tiles ≤ 8 ∧
      1 ≤ (extentOf mode k.toNat).tiles := by
  have hk := k.isLt
  unfold extentOf
  split
  · exact ⟨rfl, hk, Nat.le_refl 1⟩
  · next h =>
    have hk4 : k.toNat ≤ 4 := by
      by_contra hc
      simp [show k.toNat ≠ 0 by omega, show k.toNat ≠ 4 by omega] at h
    split <;> exact ⟨rfl, Nat.add_le_add_right hk4 4, Nat.le_add_left 1 3⟩

theorem extentOf_size (mode t : Nat) : (extentOf mode t).rows ≤ 128 ∧ (extentOf mode t).tiles ≤ 4 := by
  unfold extentOf
  split
  · simp
  · split <;> simp

/-! ### A new computation (R234, R244, R245) -/

theorem LCore.startComputation_mx (c : LCore) (t : Nat) :
    (c.startComputation t).mx.tile = ((c.mx.dropShadow (extentOf 0 t)).setTile t { c.mx.tile t with mark := 0 }).tile ∧
      ((c.mx.dropShadow (extentOf 0 t)).setTile t { c.mx.tile t with mark := 0 }).SameSetup (c.startComputation t).mx := by
  unfold LCore.startComputation LCore.mapMx
  dsimp only
  split
  · exact ⟨rfl, .refl _⟩
  · split <;> exact ⟨rfl, rfl, rfl, rfl⟩

theorem LCore.sameSetup_startComputation (c : LCore) (t : Nat) : c.mx.SameSetup (c.startComputation t).mx :=
  (MatrixEngine.sameSetup_dropShadow ..).trans ((MatrixEngine.sameSetup_setTile ..).trans (c.startComputation_mx t).2)

/-- A computation that starts on a tile takes its mark away and changes no other. -/
theorem LCore.tile_startComputation (c : LCore) {t : Nat} (h : t < 8) (q : Nat) :
    (c.startComputation t).mx.tile q = if q = t then { c.mx.tile t with mark := 0 } else c.mx.tile q := by
  rw [(c.startComputation_mx t).1]
  split
  · next hq => rw [hq, MatrixEngine.tile_setTile_same _ h]
  · next hq => rw [MatrixEngine.tile_setTile_other _ hq, MatrixEngine.tile_dropShadow]

theorem LCore.sameSetup_startTiles (c : LCore) (x : Extent) (a : Word) (b : Bool) : c.mx.SameSetup (c.startTiles x a b).mx :=
  (MatrixEngine.sameSetup_updateExtent ..).trans (LCore.sameSetup_startComputation (c.mapMx fun e => e.updateExtent x _) x.base)

section
variable (c : LCore) {x : Extent} (h : x.base + x.tiles ≤ 8) (ht : 1 ≤ x.tiles) (a : Word) {q : Nat}
include h ht

/-- MINIT sets the anchors of an extent's tiles, and empties them. -/
theorem LCore.tile_startTiles_within (hlo : x.base ≤ q) (hhi : q < x.base + x.tiles) :
    ((c.startTiles x a true).mx.tile q).anchor = a.setWidth 10 ∧ ((c.startTiles x a true).mx.tile q).sat = false ∧
      ((c.startTiles x a true).mx.tile q).elems = [] := by
  rw [LCore.startTiles, LCore.tile_startComputation _ (by omega)]
  split
  · next hq =>
    subst hq
    simp [LCore.mapMx, MatrixEngine.tile_updateExtent _ h, hhi]
  · simp [LCore.mapMx, MatrixEngine.tile_updateExtent _ h, hlo, hhi]

theorem LCore.tile_startTiles_outside (b : Bool) (hq : q < x.base ∨ x.base + x.tiles ≤ q) :
    (c.startTiles x a b).mx.tile q = c.mx.tile q := by
  rw [LCore.startTiles, LCore.tile_startComputation _ (by omega), if_neg (by omega)]
  exact (MatrixEngine.tile_updateExtent _ h _ q).trans (if_neg (by omega))

end

/-! ### What lies around the cores -/

theorem State.SameAround.trans {s t u : State} (h : s.SameAround t) (g : t.SameAround u) : s.SameAround u :=
  ⟨g.1.trans h.1, g.2.1.trans h.2.1, g.2.2.1.trans h.2.2.1, g.2.2.2.trans h.2.2.2⟩

theorem State.sameAround_mapCore (s : State) (id : CoreId) (f : LCore → LCore) : s.SameAround (s.mapCore id f) :=
  ⟨s.mapCore_unc .., s.mapCore_disp .., s.mapCore_dies .., s.mapCore_cdies ..⟩

/-! ### The end of a command (R224, R239) -/

/-- The context with the vector register of a command no longer pending. -/
def Ctx.freeVector (x : Ctx) : Option (BitVec 5) → Ctx
  | some v => x.setPendV v.toNat false
  | none => x

/-- The context once a command has ended: an EFENCE that waits counts one command less (R241). -/
def Ctx.countEnd (x : Ctx) : Ctx := { x with progress := x.progress.map fun n => n - 1 }

/-- The context of a command that has ended with this token. -/
def Ctx.endCommand (x : Ctx) (m : MCmd) (token : Word) : Ctx := ((x.takeToken m.tok token).freeVector m.vreg).countEnd

/-- The logical core of a command that has ended with this token. -/
def LCore.endCommand (c : LCore) (m : MCmd) (token : Word) : LCore :=
  ((((c.mapCtx m.ctx (·.takeToken m.tok token)).mapCtx m.ctx (·.freeVector m.vreg)).mapCtxs Ctx.countEnd).mapMx fun e =>
    { e with running := none })

section
variable (c : LCore) (m : MCmd) (token : Word)

@[simp] theorem LCore.endCommand_id : (c.endCommand m token).id = c.id := by simp [LCore.endCommand, LCore.mapMx, LCore.mapCtxs]
@[simp] theorem LCore.endCommand_lm : (c.endCommand m token).lm = c.lm := by simp [LCore.endCommand, LCore.mapMx, LCore.mapCtxs]
@[simp] theorem LCore.endCommand_rings : (c.endCommand m token).rings = c.rings := by
  simp [LCore.endCommand, LCore.mapMx, LCore.mapCtxs]
@[simp] theorem LCore.endCommand_mx : (c.endCommand m token).mx = { c.mx with running := none } := by
  simp [LCore.endCommand, LCore.mapMx, LCore.mapCtxs]

@[simp] theorem Ctx.freeVector_num (x : Ctx) (v : Option (BitVec 5)) : (x.freeVector v).num = x.num := by cases v <;> rfl

theorem LCore.findCtx_endCommand {x : Ctx} (hx : c.findCtx m.ctx = some x) :
    (c.endCommand m token).findCtx m.ctx = some (x.endCommand m token) := by
  have hnum : x.num = m.ctx := LCore.num_of_findCtx hx
  have htoken := LCore.findCtx_mapCtx_same (f := (·.takeToken m.tok token)) hx (by simpa using hnum)
  have hfree := LCore.findCtx_mapCtx_same (f := (·.freeVector m.vreg)) htoken (by simpa using hnum)
  exact (LCore.findCtx_mapCtxs (f := Ctx.countEnd) (fun _ => rfl) _ _).trans (congrArg _ hfree)

variable (x : Ctx)

theorem Ctx.endCommand_keeps {γ : Type} {f : Ctx → γ} (hp : ∀ y v, f (Ctx.freeVector y v) = f y)
    (hc : ∀ y, f (Ctx.countEnd y) = f y) : f (x.endCommand m token) = f (x.takeToken m.tok token) := (hc _).trans (hp _ _)

theorem Ctx.freeVector_g (x : Ctx) (v : Option (BitVec 5)) : (x.freeVector v).g = x.g := by cases v <;> rfl
theorem Ctx.freeVector_v (x : Ctx) (v : Option (BitVec 5)) : (x.freeVector v).v = x.v := by cases v <;> rfl
theorem Ctx.freeVector_pendG (x : Ctx) (v : Option (BitVec 5)) : (x.freeVector v).pendG = x.pendG := by cases v <;> rfl

theorem Ctx.gval_endCommand (h : m.tok ≠ 0) : (x.endCommand m token).gval m.tok.toNat = token := by
  rw [Ctx.gval, Ctx.endCommand_keeps m token x (f := Ctx.g) Ctx.freeVector_g fun _ => rfl]
  exact Ctx.gval_takeToken_same h x token

theorem Ctx.pendG_endCommand (h : m.tok ≠ 0) : (x.endCommand m token).pendG.getLsbD m.tok.toNat = false := by
  rw [Ctx.endCommand_keeps m token x (f := Ctx.pendG) Ctx.freeVector_pendG fun _ => rfl]
  exact Ctx.pendG_takeToken h x token

theorem Ctx.vval_endCommand (n : Nat) : (x.endCommand m token).vval n = x.vval n := by
  rw [Ctx.vval, Ctx.endCommand_keeps m token x (f := Ctx.v) Ctx.freeVector_v fun _ => rfl, Ctx.takeToken_v]
  rfl

theorem Ctx.pendV_endCommand {v : BitVec 5} (h : m.vreg = some v) : (x.endCommand m token).pendV.getLsbD v.toNat = false := by
  simp [Ctx.endCommand, h, Ctx.countEnd, Ctx.freeVector, Ctx.setPendV, v.isLt]

end

/-- Below die scope a token's acquire does nothing (R240, R322). -/
theorem State.tokenAcquire_near (s : State) (id : CoreId) {scope : Nat} (h : scope < 3) : s.tokenAcquire id scope = s := by
  unfold State.tokenAcquire
  split
  · rw [if_neg h.not_ge]
  · rfl

theorem State.matrixEnd_eq (s : State) (id : CoreId) (m : MCmd) (token : Word) :
    s.matrixEnd id m token = (((s.mapCtx id m.ctx (·.takeToken m.tok token)).mapCtx id m.ctx (·.freeVector m.vreg)).mapCore id
      fun c => (c.mapCtxs Ctx.countEnd).mapMx fun e => { e with running := none }) := by
  rw [State.matrixEnd, s.tokenAcquire_near id (by decide), State.writeToken_eq]
  cases m.vreg with
  | some v => rfl
  | none =>
    rw [show ∀ t : State, t.mapCtx id m.ctx (·.freeVector none) = t from
      fun t => State.mapCore_eq_self fun c => c.mapCtx_eq_self fun x => rfl]
    rfl

section
variable {s : State} {id : CoreId} {c : LCore} (hc : s.findCore id = some c) (m : MCmd) (token : Word)
include hc

theorem State.findCore_matrixEnd : (s.matrixEnd id m token).findCore id = some (c.endCommand m token) := by
  have hid : c.id = id := State.id_of_findCore hc
  rw [State.matrixEnd_eq]
  refine State.findCore_mapCore (State.findCore_mapCore (f := (·.mapCtx m.ctx _)) (State.findCore_mapCore (f := (·.mapCtx m.ctx _))
    hc ?_) ?_) ?_
  all_goals simpa [LCore.mapMx, LCore.mapCtxs] using hid

theorem State.hasToken_matrixEnd {x : Ctx} (hx : c.findCtx m.ctx = some x) :
    (s.matrixEnd id m token).HasToken id m.ctx m.tok token :=
  ⟨_, _, State.findCore_matrixEnd hc m token, c.findCtx_endCommand m token hx,
    fun h => ⟨x.gval_endCommand m token h, x.pendG_endCommand m token h⟩⟩

end

theorem State.sameAround_matrixEnd (s : State) (id : CoreId) (m : MCmd) (token : Word) : s.SameAround (s.matrixEnd id m token) := by
  rw [State.matrixEnd_eq]
  exact ((s.sameAround_mapCore id _).trans (State.sameAround_mapCore ..)).trans (State.sameAround_mapCore ..)

end Sys2Proof.Machine
end

section
/-! O47. The matrix engine's events: a command is taken behind its checks, a command without steps acts at once, one with steps runs
to its end or to its first error, and an MMAR waits for its slot. -/

namespace Sys2Proof.Machine

/-! ### The checks at take (R225) -/

/-- What is asked of a logical core found by its name is the same after a change that leaves it alone. -/
theorem State.findCore_mapCore_asks {γ : Type} {f : LCore → LCore} {g : LCore → γ} (hid : ∀ c, (f c).id = c.id)
    (hg : ∀ c, g (f c) = g c) (s : State) (id k : CoreId) : ((s.mapCore id f).findCore k).map g = (s.findCore k).map g := by
  unfold State.mapCore State.findCore State.cores
  split
  · simp only [List.find?_cons, hid]
    split
    · exact congrArg some (hg _)
    · rfl
  · have hkeep (c : LCore) : (if c.id = id then f c else c).id = c.id ∧ g (if c.id = id then f c else c) = g c := by
      split
      · exact ⟨hid c, hg c⟩
      · exact ⟨rfl, rfl⟩
    simp only [List.find?_cons]
    split
    · rfl
    · simp only [List.find?_map, Option.map_map, Function.comp_def, hkeep]

/-- The checks of an operand ask of the window only which cores are there, and the XBOUND of each. -/
theorem State.operandCause_congr {s t : State} {me : LCore}
    (h : ∀ i, (t.windowCore me i).map LCore.xbTake = (s.windowCore me i).map LCore.xbTake) (o : MatOperand) :
    t.operandCause me o = s.operandCause me o := by
  have hi := h (refOffset o.base / 2 ^ 20 % 16)
  unfold State.operandCause
  by_cases h0 : refHandle o.base = 0
  · simp only [if_pos h0]
  · simp only [if_neg h0]
    cases ht : t.windowCore me (refOffset o.base / 2 ^ 20 % 16) with
    | none =>
      rw [ht, Option.map_none, eq_comm, Option.map_eq_none_iff] at hi
      rw [hi]
    | some d =>
      rw [ht, Option.map_some, eq_comm, Option.map_eq_some_iff] at hi
      obtain ⟨e, hs, hx⟩ := hi
      simp only [hs, hx]

theorem State.operandsCause_congr {s t : State} {me : LCore} (h : ∀ o, t.operandCause me o = s.operandCause me o) :
    ∀ os, t.operandsCause me os = s.operandsCause me os
  | [] => rfl
  | o :: os => by simp only [State.operandsCause, h o, State.operandsCause_congr h os]

theorem State.matrixRefusal_invalid {s : State} {c : LCore} {m : MCmd} (h : m.valuesOk c.mx = false) :
    s.matrixRefusal c m = some (cILL, 6) := by
  simp [State.matrixRefusal, h]

/-! ### The take (R224) -/

/-- The state in which a command has left the queue, counted where the power limit delays it (R462). -/
def State.matrixTaken (s : State) (id : CoreId) (rest : List MCmd) : State :=
  (s.mapCore id fun c => c.mapMx fun e => { e with queue := rest }).countDelayed

theorem State.findCore_countDelayed (s : State) (k : CoreId) : s.countDelayed.findCore k = s.findCore k := by
  unfold State.countDelayed
  split <;> rfl

theorem State.sameAround_countDelayed (s : State) : s.SameAround s.countDelayed := by
  unfold State.countDelayed
  split <;> exact ⟨rfl, rfl, rfl, rfl⟩

theorem State.findCore_matrixTaken {s : State} {id : CoreId} {c : LCore} (hc : s.findCore id = some c) (rest : List MCmd) :
    (s.matrixTaken id rest).findCore id = some { c with mx := { c.mx with queue := rest } } :=
  (State.findCore_countDelayed ..).trans (State.findCore_mapCore hc (State.id_of_findCore (c := c) hc))

theorem State.sameAround_matrixTaken (s : State) (id : CoreId) (rest : List MCmd) : s.SameAround (s.matrixTaken id rest) :=
  (s.sameAround_mapCore ..).trans (State.sameAround_countDelayed _)

/-- The queue is no part of what a command is checked against. -/
theorem State.matrixRefusal_matrixTaken (s : State) (id : CoreId) (rest : List MCmd) (c : LCore) (m : MCmd) :
    (s.matrixTaken id rest).matrixRefusal c m = s.matrixRefusal c m := by
  have hw (i : Nat) : ((s.matrixTaken id rest).windowCore c i).map LCore.xbTake = (s.windowCore c i).map LCore.xbTake := by
    unfold State.windowCore
    dsimp only
    split
    · rw [State.matrixTaken, State.findCore_countDelayed]
      exact State.findCore_mapCore_asks (f := fun c => c.mapMx fun e => { e with queue := rest }) (fun _ => rfl) (fun _ => rfl)
        s id _
    · rfl
  simp only [State.matrixRefusal, State.operandsCause_congr (State.operandCause_congr hw)]

/-- What a take does with the command that has left the queue, which otherwise runs as `run`. -/
def Op.matrixDispose (id : CoreId) (c : LCore) (m : MCmd) (rest : List MCmd) (run : MRun) : Op Unit := do
  let s := (← get).matrixTaken id rest
  if c.mx.skipFor.isSome then set (s.matrixEnd id m (matrixToken 0 0 0 0x13))
  else match s.matrixRefusal c m with
    | some (cause, operand) => set (s.matrixRefuse id m cause operand)
    | none => set (s.mapCore id fun c => c.mapMx fun e => { e with running := some run })

theorem runEvent_congr {op op' : Op Unit} {s : State} (h : op s = op' s) : runEvent op s = runEvent op' s := by
  rw [runEvent, h, runEvent]

/-- A command whose turn has come. -/
structure State.TakesNext (s : State) (id : CoreId) (c : LCore) (m : MCmd) (rest : List MCmd) : Prop where
  found : s.findCore id = some c
  resident : c.resident = true
  idle : c.mx.running = none
  notLimited : s.pkg.start ≠ .limited
  unsaved : s.saveDue c = false
  queue : c.mx.queue = m :: rest
  placed : ∀ o ∈ m.operands c.mx, s.windowWaits c o.base = false

/-- A command at the beginning of its run; only MSTAT keeps a number, of those queued behind it (R239). -/
def MRun.Begins (r : MRun) (m : MCmd) : Prop :=
  ∃ p, r = ⟨m, p, decide (m.product = some 1)⟩ ∧ ((∀ a t k, m.instr ≠ .mstat a t k) → p = 0)

theorem exec_matrixCommandTake_next {s : State} {id : CoreId} {c : LCore} {m : MCmd} {rest : List MCmd}
    (h : s.TakesNext id c m rest) :
    ∃ run : MRun, run.Begins m ∧ exec (.matrixCommandTake id) s = runEvent (Op.matrixDispose id c m rest run) s := by
  have hready : (c.resident && c.mx.running.isNone && s.pkg.start ≠ .limited && !s.saveDue c) = true := by
    simp [h.resident, h.idle, h.notLimited, h.unsaved]
  have hplaced : (!(m.operands c.mx).any fun o => s.windowWaits c o.base) = true := by
    simpa using h.placed
  apply Exists.intro
  apply And.intro
  case right =>
    refine runEvent_congr ((Op.bind_ok (Op.get_run s)).trans ((Op.get!_bind h.found _ s).trans ?_))
    refine (Op.need_bind hready _ s).trans ?_
    rw [h.queue]
    exact Op.need_bind hplaced _ s
  case left =>
    split
    · next hi => exact ⟨rest.length, by simp [MCmd.product, hi], fun hm => absurd hi (hm _ _ _)⟩
    · exact ⟨0, rfl, fun _ => rfl⟩

/-- In limited service, and once the save of its core is due, no command is taken (R248, R461). -/
theorem exec_matrixCommandTake_held {s : State} {id : CoreId} {c : LCore} (hc : s.findCore id = some c)
    (h : s.pkg.start = .limited ∨ s.saveDue c = true) : exec (.matrixCommandTake id) s = .next { s with stalled := true } := by
  have hheld : (c.resident && c.mx.running.isNone && s.pkg.start ≠ .limited && !s.saveDue c) = false := by
    rcases h with h | h <;> simp [h]
  refine runEvent_stall ((Op.bind_ok (Op.get_run s)).trans ((Op.get!_bind hc _ s).trans ?_))
  exact Op.need_bind_stall hheld _ s

/-- An event that ends a command leaves its core as the command's end leaves it, its token in its register, and nothing outside the
cores changed. -/
theorem State.actsTo_matrixEnd {s u : State} {i : Instr} {id : CoreId} {c : LCore} {x : Ctx} {m : MCmd} {token : Word}
    (hu : u.findCore id = some c) (hx : c.findCtx m.ctx = some x) (ha : s.SameAround u)
    (h : exec i s = .next { u.matrixEnd id m token with stalled := false }) :
    ∃ t, s.ActsTo i t ∧ t.findCore id = some (c.endCommand m token) ∧ s.SameAround t ∧ t.HasToken id m.ctx m.tok token :=
  ⟨_, ⟨h, rfl⟩, State.findCore_matrixEnd hu m token, ha.trans (u.sameAround_matrixEnd id m token),
    State.hasToken_matrixEnd hu m token hx⟩

/-- What a take leaves: the engine as `f` says, local memory and rings as they were, and the token where the command has ended. -/
def State.Takes (s : State) (id : CoreId) (c : LCore) (m : MCmd) (f : MatrixEngine → Prop) (token : Option Word) : Prop :=
  ∃ (t : State) (c' : LCore), s.ActsTo (.matrixCommandTake id) t ∧ t.findCore id = some c' ∧ f c'.mx ∧ c'.lm = c.lm ∧
    c'.rings = c.rings ∧ s.SameAround t ∧ ∀ v, token = some v → t.HasToken id m.ctx m.tok v

section
variable {s : State} {id : CoreId} {c : LCore} {x : Ctx} {m : MCmd} {rest : List MCmd} (h : s.TakesNext id c m rest)
include h

theorem State.takes_skipped (hx : c.findCtx m.ctx = some x) (hskip : c.mx.skipFor.isSome = true) :
    s.Takes id c m (fun e => e = { c.mx with queue := rest }) (some 0x13) := by
  obtain ⟨run, -, he⟩ := exec_matrixCommandTake_next h
  have hrun : Op.matrixDispose id c m rest run s = .ok ((), (s.matrixTaken id rest).matrixEnd id m 0x13) := by
    refine (Op.bind_ok (Op.get_run s)).trans ?_
    rw [if_pos hskip]
    rfl
  obtain ⟨t, ht, hc', ha, htok⟩ := State.actsTo_matrixEnd (State.findCore_matrixTaken h.found rest) hx
    (s.sameAround_matrixTaken id rest) (he.trans (runEvent_ok hrun))
  refine ⟨t, _, ht, hc', ?_, LCore.endCommand_lm .., LCore.endCommand_rings .., ha, fun v hv => Option.some.inj hv ▸ htok⟩
  rw [LCore.endCommand_mx, ← h.idle]

theorem State.takes_refused (hx : c.findCtx m.ctx = some x) {cause operand : Nat} (hskip : c.mx.skipFor = none)
    (href : s.matrixRefusal c m = some (cause, operand)) :
    s.Takes id c m (fun e => e = { c.mx with queue := rest, lcause := BitVec.ofNat 8 cause, lstat := 0x10 })
      (some (Word.ofN (cause * 2 ^ 24 + operand * 2 ^ 16 + 0x10))) := by
  obtain ⟨run, -, he⟩ := exec_matrixCommandTake_next h
  have hrun : Op.matrixDispose id c m rest run s = .ok ((), (s.matrixTaken id rest).matrixRefuse id m cause operand) := by
    refine (Op.bind_ok (Op.get_run s)).trans ?_
    rw [hskip, State.matrixRefusal_matrixTaken, href]
    rfl
  have hid : c.id = id := State.id_of_findCore h.found
  have htaken := State.findCore_matrixTaken h.found rest
  have hnoted := State.findCore_mapCore
    (f := fun c : LCore => c.mapMx fun e => { e with lcause := BitVec.ofNat 8 cause, lstat := 0x10 }) htaken hid
  have htoken : matrixToken 0 cause operand 0x10 = Word.ofN (cause * 2 ^ 24 + operand * 2 ^ 16 + 0x10) := by simp [matrixToken]
  obtain ⟨t, ht, hc', ha, htok⟩ := State.actsTo_matrixEnd hnoted hx
    ((s.sameAround_matrixTaken id rest).trans (State.sameAround_mapCore ..)) (he.trans (runEvent_ok hrun))
  refine ⟨t, _, ht, hc', ?_, LCore.endCommand_lm .., LCore.endCommand_rings .., ha,
    fun v hv => Option.some.inj hv ▸ htoken ▸ htok⟩
  rw [LCore.endCommand_mx, ← h.idle]
  rfl

theorem State.takes_runs (hskip : c.mx.skipFor = none) (href : s.matrixRefusal c m = none) :
    s.Takes id c m (fun e => ∃ p, e = { c.mx with queue := rest, running := some ⟨m, p, decide (m.product = some 1)⟩ } ∧
      ((∀ a t k, m.instr ≠ .mstat a t k) → p = 0)) none := by
  obtain ⟨run, ⟨p, hp, hzero⟩, he⟩ := exec_matrixCommandTake_next h
  have hrun : Op.matrixDispose id c m rest run s = .ok ((), (s.matrixTaken id rest).mapCore id fun c => c.mapMx fun e =>
      { e with running := some run }) := by
    refine (Op.bind_ok (Op.get_run s)).trans ?_
    rw [hskip, State.matrixRefusal_matrixTaken, href]
    rfl
  have hid : c.id = id := State.id_of_findCore h.found
  refine ⟨_, _, ⟨he.trans (runEvent_ok hrun), rfl⟩, State.findCore_mapCore (State.findCore_matrixTaken h.found rest) hid,
    ⟨p, ?_, hzero⟩, rfl, rfl, (s.sameAround_matrixTaken id rest).trans (State.sameAround_mapCore ..), fun v hv => nomatch hv⟩
  rw [← hp]
  rfl

end

end Sys2Proof.Machine
end

section
/-! O47, the commands without steps (R227, R234, R236, R239, R245): each acts at once and ends. -/

namespace Sys2Proof.Machine

/-! ### A command without steps ends (R224) -/

/-- What the end of a command leaves: the engine as `f` says and idle, local memory as it was, and the token. -/
def State.Ends (s : State) (id : CoreId) (c : LCore) (m : MCmd) (f : MatrixEngine → Prop) (token : Word) : Prop :=
  ∃ (t : State) (c' : LCore), s.ActsTo (.matrixCommandEnd id) t ∧ t.findCore id = some c' ∧ f c'.mx ∧ c'.mx.running = none ∧
    c'.lm = c.lm ∧ s.SameAround t ∧ t.HasToken id m.ctx m.tok token

/-- A command of a resident core that runs, for whose end nothing is to be waited for: it has no pre-emption point, or no save of
its core is due (R248). -/
structure State.RunsOn (s : State) (id : CoreId) (c : LCore) (m : MCmd) (p : Nat) : Prop where
  found : s.findCore id = some c
  resident : c.resident = true
  running : c.mx.running = some ⟨m, p, false⟩
  goesOn : (s.saveDue c && c.matrixStops) = false

/-- A command with steps has a pre-emption point (R248). -/
theorem LCore.matrixStops_of_steps {c : LCore} {r : MRun} (hr : c.mx.running = some r) (hs : r.cmd.steps c.mx ≠ 0) :
    c.matrixStops = true := by
  unfold MCmd.steps at hs
  unfold LCore.matrixStops
  simp only [hr]
  split <;> simp_all

/-- A command that has begun, before it is known whether it has steps. -/
theorem exec_matrixCommandEnd_run {s : State} {id : CoreId} {c : LCore} {m : MCmd} {p : Nat} (h : s.RunsOn id c m p) :
    exec (.matrixCommandEnd id) s = runEvent (Op.matrixRun id 256) s := by
  have hgo : (!(s.saveDue c && c.matrixStops)) = true := congrArg not h.goesOn
  exact runEvent_congr ((Op.bind_ok (Op.get_run s)).trans ((Op.get!_bind h.found _ s).trans (Op.need_bind hgo _ s)))

section
variable {s : State} {id : CoreId} {c : LCore} {m : MCmd} {p : Nat} (hc : s.findCore id = some c) (hres : c.resident = true)
  (hrun : c.mx.running = some ⟨m, p, false⟩) (hwhole : c.matrixStops = false)
include hc hres hrun hwhole

/-- A command that has no pre-emption point has no steps, and ends whether a save is due or not. -/
theorem exec_matrixCommandEnd_once : exec (.matrixCommandEnd id) s =
    .next { (s.mapCore id fun _ => (c.matOnce m p).1).matrixEnd id m (c.matOnce m p).2 with stalled := false } := by
  have hgo : s.RunsOn id c m p := ⟨hc, hres, hrun, by rw [hwhole, Bool.and_false]⟩
  have hsteps : m.steps c.mx = 0 := by
    by_contra hs
    exact Bool.false_ne_true (hwhole.symm.trans (LCore.matrixStops_of_steps hrun hs))
  have hready : (c.resident && !false) = true := by simp [hres]
  refine (exec_matrixCommandEnd_run hgo).trans (runEvent_ok ?_)
  refine (Op.bind_ok (Op.get_run s)).trans ((Op.get!_bind hc _ s).trans ((Op.get!_bind hrun _ s).trans ?_))
  refine (Op.need_bind hready _ s).trans ?_
  rw [if_pos hsteps]
  rfl

/-- The core that such a command leaves, when it has taken effect as `c₁`. -/
theorem State.matOnce_leaves {c₁ : LCore} {x₁ : Ctx} {token : Word} (he : c.matOnce m p = (c₁, token)) (hid : c₁.id = c.id)
    (hx : c₁.findCtx m.ctx = some x₁) :
    ∃ t, s.ActsTo (.matrixCommandEnd id) t ∧ t.findCore id = some (c₁.endCommand m token) ∧ s.SameAround t ∧
      t.HasToken id m.ctx m.tok token := by
  have hx' : (c.matOnce m p).1.findCtx m.ctx = some x₁ := by rwa [he]
  have hfound : (s.mapCore id fun _ => (c.matOnce m p).1).findCore id = some (c.matOnce m p).1 :=
    State.findCore_mapCore (f := fun _ => (c.matOnce m p).1) hc (by rw [he, hid, State.id_of_findCore hc])
  have hends := State.actsTo_matrixEnd hfound hx' (s.sameAround_mapCore ..) (exec_matrixCommandEnd_once hc hres hrun hwhole)
  rwa [he] at hends

theorem State.matOnce_ends {c₁ : LCore} {x₁ : Ctx} {token : Word} {f : MatrixEngine → Prop} (he : c.matOnce m p = (c₁, token))
    (hid : c₁.id = c.id) (hlm : c₁.lm = c.lm) (hx : c₁.findCtx m.ctx = some x₁) (hf : f { c₁.mx with running := none }) :
    s.Ends id c m f token := by
  obtain ⟨t, ht, hc', ha, htok⟩ := State.matOnce_leaves hc hres hrun hwhole he hid hx
  refine ⟨t, _, ht, hc', ?_, ?_, (LCore.endCommand_lm ..).trans hlm, ha, htok⟩
  · rwa [LCore.endCommand_mx]
  · rw [LCore.endCommand_mx]

end

/-! ### Their effects -/

section
variable {m : MCmd}

theorem LCore.matOnce_mcfg {a b t : BitVec 6} (hm : m.instr = .mcfg a b t) (c : LCore) (p : Nat) :
    c.matOnce m p = (c.mapMx fun e => { e with mxc0 := m.ga, mxc1 := m.gb }, 0) := by
  rw [LCore.matOnce, hm]
  rfl

theorem LCore.matOnce_mcfgRd {a b t : BitVec 6} (hm : m.instr = .mcfgRd a b t) (c : LCore) (p : Nat) :
    c.matOnce m p = (c.mapMx fun e => { e with mxo0 := m.ga, mxo1 := m.gb }, 0) := by
  rw [LCore.matOnce, hm]
  rfl

theorem LCore.matOnce_minit {a t : BitVec 6} {k : BitVec 3} (hm : m.instr = .minit a t k) (c : LCore) (p : Nat) :
    c.matOnce m p = (c.startTiles (extentOf (c.mx.mxc0.bits 1 0) k.toNat) m.ga true, 0) := by
  rw [LCore.matOnce, MCmd.extent, MCmd.tile, hm]
  rfl

theorem LCore.matOnce_mshad {a t : BitVec 6} {k : BitVec 3} (hm : m.instr = .mshad a t k) (c : LCore) (p : Nat) :
    c.matOnce m p = (c.mapMx fun e => e.setTile k.toNat { e.tile k.toNat with mark := m.ga.setWidth 2 }, 0) := by
  rw [LCore.matOnce, MCmd.tile, hm]
  rfl

theorem LCore.matOnce_mstat_status {a t : BitVec 6} {k : BitVec 3} (hm : m.instr = .mstat a t k) (h : m.ga = 0) (c : LCore)
    (p : Nat) :
    c.matOnce m p = (c.mapMx fun e => { e with lcause := 0, lstat := 0 }, c.mx.status k.toNat p) := by
  rw [LCore.matOnce, MCmd.tile, hm, h]
  rfl

/-- The configuration word that MSTAT reads by its number. -/
theorem LCore.matOnce_mstat_config {a t : BitVec 6} {k : BitVec 3} (hm : m.instr = .mstat a t k) (h : m.ga ≠ 0) (c : LCore)
    (p : Nat) :
    c.matOnce m p = (c, if m.ga = 1 then c.mx.mxc0 else if m.ga = 2 then c.mx.mxc1 else if m.ga = 3 then c.mx.mxo0
      else if m.ga = 4 then c.mx.mxo1 else BitVec.allOnes 64) := by
  have hsel (n : Nat) (hn : n < 5) : m.ga = BitVec.ofNat 64 n ↔ m.ga.toNat = n := by
    rw [← BitVec.toNat_inj, BitVec.toNat_ofNat, Nat.mod_eq_of_lt (by omega)]
  have h0 : m.ga.toNat ≠ 0 := fun hz => h ((hsel 0 (by omega)).mpr hz)
  rw [LCore.matOnce, hm]
  have h1 : m.ga = 1 ↔ m.ga.toNat = 1 := hsel 1 (by omega)
  have h2 : m.ga = 2 ↔ m.ga.toNat = 2 := hsel 2 (by omega)
  have h3 : m.ga = 3 ↔ m.ga.toNat = 3 := hsel 3 (by omega)
  have h4 : m.ga = 4 ↔ m.ga.toNat = 4 := hsel 4 (by omega)
  simp only [if_neg h0, h1, h2, h3, h4]
  congr 1
  grind

/-- The vector register that an MRDV writes: its lanes, each the readout of its element (R236). -/
def LCore.mrdvValue (c : LCore) (m : MCmd) (k : BitVec 3) : VWord :=
  let o := rdConfig c.mx.mxo0 c.mx.mxo1
  BitVec.ofNat 256 (packElems (rdFmt o.fmt).w ((List.range (mrdvLanes o.fmt)).map fun l =>
    readCode c.mx (extentOf (c.mx.mxc0.bits 1 0) k.toNat) (rdFmt o.fmt) (rdMode o.mode) (c.keyFor m) m.ga1 127 (m.ga.bits 6 0)
      (m.ga.bits 14 8 + l)))

/-- The core once an MRDV has noted in SAT what saturates among its elements (R67). -/
def LCore.mrdvNoted (c : LCore) (m : MCmd) (k : BitVec 3) : LCore :=
  c.mapMx fun e => e.noteSat (extentOf (c.mx.mxc0.bits 1 0) k.toNat) (m.ga.bits 6 0) (m.ga.bits 14 8)
    (mrdvLanes (rdConfig c.mx.mxo0 c.mx.mxo1).fmt)

theorem LCore.matOnce_mrdv {a : BitVec 6} {v : BitVec 5} {t : BitVec 6} {k : BitVec 3} (hm : m.instr = .mrdv a v t k) (c : LCore)
    (p : Nat) :
    c.matOnce m p = ((c.mrdvNoted m k).mapCtx m.ctx (·.setV v.toNat (c.mrdvValue m k)), 0) := by
  rw [LCore.matOnce, MCmd.extent, MCmd.tile, hm]
  rfl

/-- The lanes of a format fill the register (R236). -/
theorem mrdvLanes_fill {f : Nat} (hlo : 1 ≤ f) (hhi : f ≤ 3) :
    (rdFmt f).w = (if f = 1 then 32 else 16) ∧ mrdvLanes f = 256 / (rdFmt f).w ∧ (rdFmt f).w * mrdvLanes f = 256 := by
  interval_cases f <;> exact ⟨rfl, rfl, rfl⟩

theorem LCore.elemAt_mrdvValue (c : LCore) (m : MCmd) (k : BitVec 3) :
    let o := rdConfig c.mx.mxo0 c.mx.mxo1
    let w := if o.fmt = 1 then 32 else 16
    1 ≤ o.fmt → o.fmt ≤ 3 → ∀ l < 256 / w, elemAt w (c.mrdvValue m k).toNat l =
      readCode c.mx (extentOf (c.mx.mxc0.bits 1 0) k.toNat) (rdFmt o.fmt) (rdMode o.mode) (c.keyFor m) m.ga1 127 (m.ga.bits 6 0)
        (m.ga.bits 14 8 + l) % 2 ^ w := by
  intro o w hlo hhi l hl
  obtain ⟨hw, hlanes, hfill⟩ := mrdvLanes_fill hlo hhi
  have hl' : l < mrdvLanes o.fmt := by rwa [hlanes, hw]
  have hfits (codes : List Nat) (h : codes.length = mrdvLanes o.fmt) : packElems (rdFmt o.fmt).w codes < 2 ^ 256 := by
    rw [← hfill, ← h]
    exact packElems_lt ..
  rw [LCore.mrdvValue, BitVec.toNat_ofNat, Nat.mod_eq_of_lt (hfits _ (by simp [o])), show w = (rdFmt o.fmt).w from hw.symm,
    elemAt_packElems _ _ _ (by simpa using hl')]
  simp [o]

/-- The fields of MSTAT's word (R239). -/
theorem MatrixEngine.status_fields (e : MatrixEngine) (k p : Nat) :
    (e.status k p).bits 63 48 = 0 ∧ (e.status k p).bits 47 40 = e.lcause.toNat ∧ (e.status k p).bits 39 32 = e.lstat.toNat ∧
      (e.status k p).bits 22 21 = p % 4 ∧ ((e.status k p).getLsbD 17 = true ↔ ∃ y ∈ (e.tile k).elems, y.2.cls ≠ .finite) ∧
      (e.status k p).getLsbD 16 = (e.tile k).sat ∧ (e.status k p).bits 15 0 = (e.tile k).anchor.toNat := by
  let nf : Bool := (e.tile k).elems.any fun x => x.2.cls ≠ .finite
  have hnf : nf.toNat ≤ 1 := nf.toNat_le
  have hsat : (e.tile k).sat.toNat ≤ 1 := (e.tile k).sat.toNat_le
  have hanchor := (e.tile k).anchor.isLt
  have hcause := e.lcause.isLt
  have hstat := e.lstat.isLt
  have hw : (e.status k p).toNat = e.lcause.toNat * 2 ^ 40 + e.lstat.toNat * 2 ^ 32 + p % 4 * 2 ^ 21 + nf.toNat * 2 ^ 17 +
      (e.tile k).sat.toNat * 2 ^ 16 + (e.tile k).anchor.toNat := by
    refine (BitVec.toNat_ofNat ..).trans (Nat.mod_eq_of_lt ?_)
    change _ * 2 ^ 40 + _ * 2 ^ 32 + _ * 2 ^ 21 + nf.toNat * 2 ^ 17 + _ * 2 ^ 16 + _ < 2 ^ 64
    omega
  have hbit (n : Nat) (b : Bool) (h : (e.status k p).toNat / 2 ^ n % 2 = b.toNat) : (e.status k p).getLsbD n = b := by
    rw [BitVec.getLsbD, Nat.testBit_eq_decide_div_mod_eq, h]
    cases b <;> rfl
  refine ⟨?_, ?_, ?_, ?_, ?_, hbit 16 _ ?_, ?_⟩
  case refine_5 =>
    rw [hbit 17 nf (by omega)]
    simp [nf]
  all_goals
    simp only [Word.bits, hw]
    omega

end

section
variable {s : State} {id : CoreId} {c : LCore} {x : Ctx} {m : MCmd} {p : Nat} (hc : s.findCore id = some c)
  (hres : c.resident = true) (hrun : c.mx.running = some ⟨m, p, false⟩) (hx : c.findCtx m.ctx = some x)
include hc hres hrun hx

theorem State.ends_mcfg {a b t : BitVec 6} (hm : m.instr = .mcfg a b t) :
    s.Ends id c m (fun e => e = { c.mx with mxc0 := m.ga, mxc1 := m.gb, running := none }) 0 := by
  have hwhole : c.matrixStops = false := by simp [LCore.matrixStops, hrun, hm]
  exact State.matOnce_ends hc hres hrun hwhole (LCore.matOnce_mcfg hm c p) rfl rfl hx rfl

theorem State.ends_mcfgRd {a b t : BitVec 6} (hm : m.instr = .mcfgRd a b t) :
    s.Ends id c m (fun e => e = { c.mx with mxo0 := m.ga, mxo1 := m.gb, running := none }) 0 := by
  have hwhole : c.matrixStops = false := by simp [LCore.matrixStops, hrun, hm]
  exact State.matOnce_ends hc hres hrun hwhole (LCore.matOnce_mcfgRd hm c p) rfl rfl hx rfl

theorem State.ends_minit {a t : BitVec 6} {k : BitVec 3} (hm : m.instr = .minit a t k) :
    let ext := extentOf (c.mx.mxc0.bits 1 0) k.toNat
    s.Ends id c m (fun e =>
      (∀ q, ext.base ≤ q → q < ext.base + ext.tiles → (e.tile q).anchor = m.ga.setWidth 10 ∧ (e.tile q).sat = false ∧
        (e.tile q).elems = []) ∧
      (∀ q, q < ext.base ∨ ext.base + ext.tiles ≤ q → e.tile q = c.mx.tile q) ∧
      e.mxc0 = c.mx.mxc0 ∧ e.mxc1 = c.mx.mxc1 ∧ e.queue = c.mx.queue) 0 := by
  intro ext
  obtain ⟨-, hfits, hsome⟩ := extentOf_fits (c.mx.mxc0.bits 1 0) k
  have hwhole : c.matrixStops = false := by simp [LCore.matrixStops, hrun, hm]
  have heff : c.matOnce m p = (c.startTiles ext m.ga true, 0) := LCore.matOnce_minit hm c p
  have hin (q : Nat) := c.tile_startTiles_within hfits hsome m.ga (q := q)
  have hout (q : Nat) := c.tile_startTiles_outside hfits hsome m.ga (q := q) true
  have hsame := c.sameSetup_startTiles ext m.ga true
  have hid : (c.startTiles ext m.ga true).id = c.id := rfl
  have hlm : (c.startTiles ext m.ga true).lm = c.lm := rfl
  have hx₁ : (c.startTiles ext m.ga true).findCtx m.ctx = some x := hx
  generalize c.startTiles ext m.ga true = c₁ at heff hin hout hsame hid hlm hx₁
  exact State.matOnce_ends hc hres hrun hwhole heff hid hlm hx₁ ⟨hin, hout, hsame.mxc0, hsame.mxc1, hsame.queue⟩

theorem State.ends_mshad {a t : BitVec 6} {k : BitVec 3} (hm : m.instr = .mshad a t k) :
    s.Ends id c m (fun e => e.tile k.toNat = { c.mx.tile k.toNat with mark := m.ga.setWidth 2 } ∧
      (∀ q, q ≠ k.toNat → e.tile q = c.mx.tile q) ∧ e.queue = c.mx.queue) 0 := by
  have hwhole : c.matrixStops = false := by simp [LCore.matrixStops, hrun, hm]
  exact State.matOnce_ends hc hres hrun hwhole (LCore.matOnce_mshad hm c p) rfl rfl hx
    ⟨c.mx.tile_setTile_same k.isLt _, fun q hq => c.mx.tile_setTile_other hq _, (c.mx.sameSetup_setTile ..).queue⟩

theorem State.ends_mstat_status {a t : BitVec 6} {k : BitVec 3} (hm : m.instr = .mstat a t k) (h : m.ga = 0) :
    s.Ends id c m (fun e => e = { c.mx with lcause := 0, lstat := 0, running := none }) (c.mx.status k.toNat p) := by
  have hwhole : c.matrixStops = false := by simp [LCore.matrixStops, hrun, hm]
  exact State.matOnce_ends hc hres hrun hwhole (LCore.matOnce_mstat_status hm h c p) rfl rfl hx rfl

theorem State.ends_mstat_config {a t : BitVec 6} {k : BitVec 3} (hm : m.instr = .mstat a t k) (h : m.ga ≠ 0) :
    s.Ends id c m (fun e => e = { c.mx with running := none }) (if m.ga = 1 then c.mx.mxc0 else if m.ga = 2 then c.mx.mxc1
      else if m.ga = 3 then c.mx.mxo0 else if m.ga = 4 then c.mx.mxo1 else BitVec.allOnes 64) := by
  have hwhole : c.matrixStops = false := by simp [LCore.matrixStops, hrun, hm]
  exact State.matOnce_ends hc hres hrun hwhole (LCore.matOnce_mstat_config hm h c p) rfl rfl hx rfl

/-- The core that an MRDV leaves, and the context whose vector register it has written. -/
theorem State.mrdv_leaves {a : BitVec 6} {v : BitVec 5} {t : BitVec 6} {k : BitVec 3} (hm : m.instr = .mrdv a v t k) :
    s.Ends id c m (fun e => e.queue = c.mx.queue) 0 ∧
    ∃ (u : State) (c' : LCore) (x' : Ctx), exec (.matrixCommandEnd id) s = .next u ∧ u.findCore id = some c' ∧
      c'.findCtx m.ctx = some x' ∧ x'.pendV.getLsbD v.toNat = false ∧ x'.vval v.toNat = c.mrdvValue m k := by
  have hwhole : c.matrixStops = false := by simp [LCore.matrixStops, hrun, hm]
  have hnum : x.num = m.ctx := LCore.num_of_findCtx hx
  have heff := LCore.matOnce_mrdv hm c p
  have hx₁ := LCore.findCtx_mapCtx_same (c := c.mrdvNoted m k) (f := (·.setV v.toNat (c.mrdvValue m k))) hx
    ((x.setV_num ..).trans hnum)
  have hid := LCore.mapCtx_core_id (c.mrdvNoted m k) m.ctx (·.setV v.toNat (c.mrdvValue m k))
  refine ⟨State.matOnce_ends hc hres hrun hwhole heff hid (LCore.mapCtx_lm ..) hx₁ ?_, ?_⟩
  · rw [LCore.mapCtx_mx]
    exact (c.mx.sameSetup_noteSat ..).queue
  · obtain ⟨u, hu, hc', -, -⟩ := State.matOnce_leaves hc hres hrun hwhole heff hid hx₁
    refine ⟨u, _, _, hu.1, hc', LCore.findCtx_endCommand _ m 0 hx₁, Ctx.pendV_endCommand m 0 _ (by rw [MCmd.vreg, hm]), ?_⟩
    rw [Ctx.vval_endCommand, Ctx.vval_setV_same _ _ _ v.isLt]

end

end Sys2Proof.Machine
end

section
/-! O47, the commands with steps (R224, R232, R238, R243, R248): each runs to its end or to its first error. -/

namespace Sys2Proof.Machine

/-! ### The work of a command with steps -/

/-- A command has fewer steps than an event makes of it. -/
theorem MCmd.steps_le (m : MCmd) (e : MatrixEngine) : m.steps e ≤ 256 := by
  have hproduct := Word.bits_lt e.mxc0 23 16
  have hsize : (m.extent (e.mxc0.bits 1 0)).rows ≤ 128 ∧ (m.extent (e.mxc0.bits 1 0)).tiles ≤ 4 := by
    unfold MCmd.extent
    split <;> exact extentOf_size ..
  unfold MCmd.steps
  dsimp only
  split <;> omega

theorem matrixToken_progress (n : Nat) : matrixToken n 0 0 0 = Word.ofN (n % 2 ^ 16 * 2 ^ 32) := by simp [matrixToken]

theorem MCmd.product_eq_one {m : MCmd} : m.product = some 1 ↔ ∃ a b t k, m.instr = .mmar a b t k := by
  unfold MCmd.product
  split <;> simp_all

/-- The last of a command, all of whose steps have succeeded: MRD makes the shadow check, MMAR consumes its slot, and it ends. -/
def Op.matrixComplete (id : CoreId) (m : MCmd) (checks : Bool) (token : Word) : Op Unit := do
  if checks then modify fun s => s.shadowCheck id m
  if m.product = some 1 then
    modify fun s => s.mapCore id fun c =>
      let ring := c.ring (m.gb.toNat % 8)
      if ring.broken then c else c.setRing (m.gb.toNat % 8) ((ring.consume 1).getD ring)
  modify fun s => s.matrixEnd id m token

/-- What follows the steps that a run has made, as far as `k` of `n`. -/
def Op.matrixAfter (id : CoreId) (r : MRun) (n k : Nat) (bad : Option Trap) (checks : Bool) : Op Unit := do
  modify fun s => s.burnSteps id r.cmd (k - r.progress)
  match bad with
  | some t => modify fun s => s.matrixStop id r.cmd k (t.einfo.bits 23 16) t.cause.toNat t.eaddr
  | none =>
    if k < n then
      modify fun s => s.mapCore id fun c => c.mapMx fun e => { e with running := some { r with progress := k } }
    else Op.matrixComplete id r.cmd checks (matrixToken n 0 0 0)

/-- A run of a command of `n` steps from step `p` on. -/
def Op.matrixWork (ag : Agent) (id : CoreId) (m : MCmd) (slot : Word) (n p : Nat) (checks : Bool) : Op Unit := do
  match (← Op.matBegin ag m p n) with
  | .error t => modify fun s => s.matrixStop id m p 0 t.cause.toNat t.eaddr
  | .ok false => modify fun s => s.matrixRefuse id m cILL 0
  | .ok true =>
    let (k, bad) ← Op.matSteps ag m slot (min 256 (n - p)) p
    Op.matrixAfter id ⟨m, p, false⟩ n k bad checks

section
variable {s : State} {id : CoreId} {c : LCore} {m : MCmd} {p : Nat} (h : s.RunsOn id c m p) (hsteps : m.steps c.mx ≠ 0)
include h hsteps

theorem exec_matrixCommandEnd_work :
    ∃ checks : Bool, (checks = true ↔ ∃ a b t k, m.instr = .mrd a b t k) ∧
      exec (.matrixCommandEnd id) s = runEvent (Op.matrixWork (s.engineAgent c m.ctx m.sevpol 2) id m (c.mmarSlot m)
        (m.steps c.mx) p checks) s := by
  have hready : (c.resident && !false) = true := by simp [h.resident]
  apply Exists.intro
  apply And.intro
  case right =>
    refine (exec_matrixCommandEnd_run h).trans (runEvent_congr ?_)
    refine (Op.bind_ok (Op.get_run s)).trans ((Op.get!_bind h.found _ s).trans ((Op.get!_bind h.running _ s).trans ?_))
    refine (Op.need_bind hready _ s).trans ?_
    rw [if_neg hsteps]
    rfl
  case left =>
    split <;> simp_all

/-- An event that acts as its work does from this state. -/
theorem State.actsTo_work {u : State} (hw : ∀ checks : Bool, (checks = true ↔ ∃ a b t k, m.instr = .mrd a b t k) →
      Op.matrixWork (s.engineAgent c m.ctx m.sevpol 2) id m (c.mmarSlot m) (m.steps c.mx) p checks s = .ok ((), u)) :
    s.ActsTo (.matrixCommandEnd id) { u with stalled := false } := by
  obtain ⟨checks, hchecks, he⟩ := exec_matrixCommandEnd_work h hsteps
  exact ⟨he.trans (runEvent_ok (hw checks hchecks)), rfl⟩

variable {s₁ : State}

/-- An error before the first step stops the command (R243). -/
theorem State.actsTo_matBegin_error {tr : Trap}
    (hb : Op.matBegin (s.engineAgent c m.ctx m.sevpol 2) m p (m.steps c.mx) s = .ok (.error tr, s₁)) :
    s.ActsTo (.matrixCommandEnd id) { s₁.matrixStop id m p 0 tr.cause.toNat tr.eaddr with stalled := false } :=
  State.actsTo_work h hsteps fun _ _ => Op.bind_ok hb

/-- An invalid image refuses the command (R238). -/
theorem State.actsTo_matBegin_refused
    (hb : Op.matBegin (s.engineAgent c m.ctx m.sevpol 2) m p (m.steps c.mx) s = .ok (.ok false, s₁)) :
    s.ActsTo (.matrixCommandEnd id) { s₁.matrixRefuse id m cILL 0 with stalled := false } :=
  State.actsTo_work h hsteps fun _ _ => Op.bind_ok hb

end

section
variable {s s₁ s₂ : State} {id : CoreId} {c : LCore} {m : MCmd} {p k : Nat} {bad : Option Trap}
  (hb : Op.matBegin (s.engineAgent c m.ctx m.sevpol 2) m p (m.steps c.mx) s = .ok (.ok true, s₁))
  (hs : Op.matSteps (s.engineAgent c m.ctx m.sevpol 2) m (c.mmarSlot m) (m.steps c.mx - p) p s₁ = .ok ((k, bad), s₂))
include hb hs

/-- All the steps that are left are made in one event. -/
theorem Op.matrixWork_steps (checks : Bool) :
    Op.matrixWork (s.engineAgent c m.ctx m.sevpol 2) id m (c.mmarSlot m) (m.steps c.mx) p checks s =
      Op.matrixAfter id ⟨m, p, false⟩ (m.steps c.mx) k bad checks s₂ := by
  have hall : min 256 (m.steps c.mx - p) = m.steps c.mx - p := Nat.min_eq_right ((Nat.sub_le ..).trans (m.steps_le c.mx))
  refine (Op.bind_ok hb).trans ?_
  rw [hall]
  refine (Op.bind_ok hs).trans ?_
  rfl

variable (h : s.RunsOn id c m p) (hsteps : m.steps c.mx ≠ 0)
include h hsteps

/-- An error in a step stops the command there (R243). -/
theorem State.actsTo_stopped {tr : Trap} (hbad : bad = some tr) :
    s.ActsTo (.matrixCommandEnd id) { (s₂.burnSteps id m (k - p)).matrixStop id m k (tr.einfo.bits 23 16) tr.cause.toNat
      tr.eaddr with stalled := false } := by
  subst hbad
  exact State.actsTo_work h hsteps fun checks _ => (Op.matrixWork_steps hb hs checks).trans rfl

/-- With its last step made, a command ends with their whole number. -/
theorem State.actsTo_completed {u : State} (hk : k = m.steps c.mx) (hbad : bad = none)
    (hu : ∀ checks : Bool, (checks = true ↔ ∃ a b t k, m.instr = .mrd a b t k) → ∀ token,
      Op.matrixComplete id m checks token (s₂.burnSteps id m (m.steps c.mx - p)) = .ok ((), u.matrixEnd id m token)) :
    s.ActsTo (.matrixCommandEnd id)
      { u.matrixEnd id m (Word.ofN (m.steps c.mx % 2 ^ 16 * 2 ^ 32)) with stalled := false } := by
  subst hk hbad
  refine State.actsTo_work h hsteps fun checks hchecks => (Op.matrixWork_steps hb hs checks).trans ?_
  refine (Op.bind_ok (Op.modify_run _ s₂)).trans ?_
  rw [if_neg (Nat.lt_irrefl _)]
  refine (hu checks hchecks _).trans ?_
  rw [matrixToken_progress]

theorem State.actsTo_completed_plain (hk : k = m.steps c.mx) (hbad : bad = none) (hmmar : ∀ a b t k, m.instr ≠ .mmar a b t k)
    (hmrd : ∀ a b t k, m.instr ≠ .mrd a b t k) :
    s.ActsTo (.matrixCommandEnd id) { (s₂.burnSteps id m (m.steps c.mx - p)).matrixEnd id m
      (Word.ofN (m.steps c.mx % 2 ^ 16 * 2 ^ 32)) with stalled := false } := by
  refine State.actsTo_completed hb hs h hsteps hk hbad fun checks hchecks token => ?_
  have hno : ¬checks = true := fun hc => by
    obtain ⟨a, b, t, k, hi⟩ := hchecks.mp hc
    exact hmrd a b t k hi
  have hone : ¬m.product = some 1 := fun hp => by
    obtain ⟨a, b, t, k, hi⟩ := MCmd.product_eq_one.mp hp
    exact hmmar a b t k hi
  simp [Op.matrixComplete, hno, hone]

theorem State.actsTo_completed_mrd (hk : k = m.steps c.mx) (hbad : bad = none) {a b t : BitVec 6} {tile : BitVec 3}
    (hi : m.instr = .mrd a b t tile) :
    s.ActsTo (.matrixCommandEnd id) { ((s₂.burnSteps id m (m.steps c.mx - p)).shadowCheck id m).matrixEnd id m
      (Word.ofN (m.steps c.mx % 2 ^ 16 * 2 ^ 32)) with stalled := false } := by
  refine State.actsTo_completed hb hs h hsteps hk hbad fun checks hchecks token => ?_
  have hyes : checks = true := hchecks.mpr ⟨a, b, t, tile, hi⟩
  have hone : ¬m.product = some 1 := by simp [MCmd.product, hi]
  simp [Op.matrixComplete, hyes, hone]

theorem State.actsTo_completed_mmar (hk : k = m.steps c.mx) (hbad : bad = none) {a b t : BitVec 6} {tile : BitVec 3}
    (hi : m.instr = .mmar a b t tile) :
    s.ActsTo (.matrixCommandEnd id) { ((s₂.burnSteps id m (m.steps c.mx - p)).mapCore id fun c' =>
      let ring := c'.ring (m.gb.toNat % 8)
      if ring.broken then c' else c'.setRing (m.gb.toNat % 8) ((ring.consume 1).getD ring)).matrixEnd id m
      (Word.ofN (m.steps c.mx % 2 ^ 16 * 2 ^ 32)) with stalled := false } := by
  refine State.actsTo_completed hb hs h hsteps hk hbad fun checks hchecks token => ?_
  have hno : ¬checks = true := fun hc => by
    obtain ⟨a', b', t', k', hi'⟩ := hchecks.mp hc
    exact absurd (hi.symm.trans hi') (by simp)
  have hone : m.product = some 1 := MCmd.product_eq_one.mpr ⟨a, b, t, tile, hi⟩
  simp [Op.matrixComplete, hno, hone]

end

/-! ### What is held until a save is over (R248) -/

theorem exec_matrixCommandEnd_held {s : State} {id : CoreId} {c : LCore} {r : MRun} (hc : s.findCore id = some c)
    (hr : c.mx.running = some r) (hs : r.cmd.steps c.mx ≠ 0) (hdue : s.saveDue c = true) :
    exec (.matrixCommandEnd id) s = .next { s with stalled := true } := by
  have hheld : (!(s.saveDue c && c.matrixStops)) = false := by rw [hdue, LCore.matrixStops_of_steps hr hs]; rfl
  refine runEvent_stall ((Op.bind_ok (Op.get_run s)).trans ((Op.get!_bind hc _ s).trans ?_))
  exact Op.need_bind_stall hheld _ s

/-! ### An MMAR's slot (R232) -/

section
variable {s : State} {id : CoreId} {c : LCore} {r : MRun} (hc : s.findCore id = some c) (hr : c.mx.running = some r)
include hc hr

theorem exec_mmarSlotReady_held (h : (c.resident && r.waiting && !s.saveDue c) = false) :
    exec (.mmarSlotReady id) s = .next { s with stalled := true } := by
  refine runEvent_stall ((Op.bind_ok (Op.get_run s)).trans ((Op.get!_bind hc _ s).trans ((Op.get!_bind hr _ s).trans ?_)))
  exact Op.need_bind_stall h _ s

variable (h : (c.resident && r.waiting && !s.saveDue c) = true)
include h

theorem exec_mmarSlotReady_broken (hb : (c.ring (r.cmd.gb.toNat % 8)).broken = true) :
    exec (.mmarSlotReady id) s = .next { s.matrixEnd id r.cmd 0x12 with stalled := false } := by
  refine runEvent_ok ((Op.bind_ok (Op.get_run s)).trans ((Op.get!_bind hc _ s).trans ((Op.get!_bind hr _ s).trans ?_)))
  refine (Op.need_bind h _ s).trans ?_
  rw [if_pos hb]
  rfl

variable (hb : (c.ring (r.cmd.gb.toNat % 8)).broken = false)
include hb

theorem exec_mmarSlotReady_filled (hf : 1 ≤ (c.ring (r.cmd.gb.toNat % 8)).filled) :
    exec (.mmarSlotReady id) s = .next { (s.mapCore id fun c => c.mapMx fun e =>
      { e with running := some { r with waiting := false } }) with stalled := false } := by
  refine runEvent_ok ((Op.bind_ok (Op.get_run s)).trans ((Op.get!_bind hc _ s).trans ((Op.get!_bind hr _ s).trans ?_)))
  refine (Op.need_bind h _ s).trans ?_
  rw [if_neg (Bool.eq_false_iff.mp hb)]
  exact Op.need_bind (decide_eq_true hf) _ s

theorem exec_mmarSlotReady_empty (hf : (c.ring (r.cmd.gb.toNat % 8)).filled = 0) :
    exec (.mmarSlotReady id) s = .next { s with stalled := true } := by
  refine runEvent_stall ((Op.bind_ok (Op.get_run s)).trans ((Op.get!_bind hc _ s).trans ((Op.get!_bind hr _ s).trans ?_)))
  refine (Op.need_bind h _ s).trans ?_
  rw [if_neg (Bool.eq_false_iff.mp hb)]
  exact Op.need_bind_stall (by simp [hf]) _ s

end

/-! ### Values that are refused (R225) -/

section
variable {m : MCmd} {e : MatrixEngine}

theorem MCmd.valuesOk_minit {a t : BitVec 6} {k : BitVec 3} (hi : m.instr = .minit a t k)
    (h : m.ga.toInt < -512 ∨ 511 < m.ga.toInt) : m.valuesOk e = false := by
  simp only [MCmd.valuesOk, hi, anchorOk, Bool.and_eq_false_iff, decide_eq_false_iff_not, not_le]
  exact h

theorem MCmd.valuesOk_mshad {a t : BitVec 6} {k : BitVec 3} (hi : m.instr = .mshad a t k) (h : 3 ≤ m.ga.toNat) :
    m.valuesOk e = false := by
  simp only [MCmd.valuesOk, hi, decide_eq_false_iff_not, not_lt]
  exact h

theorem MCmd.valuesOk_mcfg {a b t : BitVec 6} (hi : m.instr = .mcfg a b t)
    (h : m.ga.bits 5 2 ≠ 0 ∨ m.ga.bits 23 16 = 0 ∨ m.gb.bits 15 0 % 8 ≠ 0) : m.valuesOk e = false := by
  simp only [MCmd.valuesOk, hi, engineValid, mxConfig]
  rcases h with h | h | h <;> simp [h]

end

/-- A product on a tile that is no base tile of its mode (R225). -/
theorem State.matrixRefusal_tile {s : State} {c : LCore} {m : MCmd} {a b t : BitVec 6} {k : BitVec 3} (hi : m.instr = .mma a b t k)
    (hv : engineValid c.mx.mxc0 c.mx.mxc1 = true) (hmode : c.mx.mxc0.bits 1 0 ≠ 0) (h0 : k ≠ 0) (h4 : k ≠ 4) :
    s.matrixRefusal c m = some (cILL, 6) := by
  have hk0 : k.toNat ≠ 0 := BitVec.toNat_ne.mp h0
  have hk4 : k.toNat ≠ 4 := BitVec.toNat_ne.mp h4
  have hring : m.ringCause c = some (cILL, 6) := by
    simp [MCmd.ringCause, MCmd.product, MCmd.tile, hi, mxConfig, hmode, hk0, hk4]
  simp [State.matrixRefusal, MCmd.valuesOk, hi, hv, hring]

end Sys2Proof.Machine

open Sys2Proof Sys2Proof.Machine in
/-- Settles O47: a take by the checks before it, the commands without steps by their effects, those with steps by how their steps
end, and the wait of an MMAR by its ring. -/
theorem matrixEvents : Obligations.MatrixEvents := by
  unfold Obligations.MatrixEvents
  refine ⟨fun s id c x m rest hc hx hres hidle hfull hsave hq hplaced => ?take, fun s id c hc => ?held, fun s c m => ?refused,
    fun s id c x m p hc hx hres hrun => ?whole, fun s s₁ id c m p hc hres hrun hsave => ?steps,
    fun s id c x r hc hx hres hr hwait hsave => ?slot⟩
  case take =>
    have h : s.TakesNext id c m rest := ⟨hc, hres, hidle, hfull, hsave, hq, hplaced⟩
    exact ⟨State.takes_skipped h hx, fun cause operand => State.takes_refused h hx, State.takes_runs h⟩
  case held =>
    exact ⟨exec_matrixCommandTake_held hc, fun r hr _ hdue => exec_mmarSlotReady_held hc hr (by simp [hdue]),
      fun r hr hs hdue => exec_matrixCommandEnd_held hc hr hs hdue⟩
  case refused =>
    exact ⟨fun a t k hi h => State.matrixRefusal_invalid (MCmd.valuesOk_minit hi h),
      fun a t k hi h => State.matrixRefusal_invalid (MCmd.valuesOk_mshad hi h),
      fun a b t hi h => State.matrixRefusal_invalid (MCmd.valuesOk_mcfg hi h),
      fun a b t k hi hv hmode h0 h4 => State.matrixRefusal_tile hi hv hmode h0 h4⟩
  case whole =>
    refine ⟨fun a b t hm => State.ends_mcfg hc hres hrun hx hm, fun a b t hm => State.ends_mcfgRd hc hres hrun hx hm,
      fun a t k hm => State.ends_minit hc hres hrun hx hm, fun a t k hm => State.ends_mshad hc hres hrun hx hm,
      fun a t k hm h => ⟨_, State.ends_mstat_status hc hres hrun hx hm h, c.mx.status_fields k.toNat p⟩,
      fun a t k hm h => State.ends_mstat_config hc hres hrun hx hm h, fun a v t k hm => ?_⟩
    intro o w hlo hhi
    obtain ⟨hends, u, c', x', hu, hc', hx', hfree, hval⟩ := State.mrdv_leaves hc hres hrun hx hm
    refine ⟨hends, u, c', x', hu, hc', hx', hfree, ?_⟩
    rw [hval]
    exact c.elemAt_mrdvValue m k hlo hhi
  case steps =>
    intro ag n slot ends hn hp
    have h : s.RunsOn id c m p := ⟨hc, hres, hrun, by rw [hsave, Bool.false_and]⟩
    have hsteps : m.steps c.mx ≠ 0 := Nat.one_le_iff_ne_zero.mp hn
    refine ⟨fun s₂ hb hs => ⟨?_, ?_, ?_⟩, fun s₂ k tr hb hs => State.actsTo_stopped hb hs h hsteps rfl,
      fun tr hb => State.actsTo_matBegin_error h hsteps hb, fun hb => State.actsTo_matBegin_refused h hsteps hb⟩
    · exact fun hmmar hmrd => State.actsTo_completed_plain hb hs h hsteps rfl rfl hmmar hmrd
    · exact fun a b t k hi => State.actsTo_completed_mrd hb hs h hsteps rfl rfl hi
    · exact fun a b t k hi => State.actsTo_completed_mmar hb hs h hsteps rfl rfl hi
  case slot =>
    intro ring
    have h : (c.resident && r.waiting && !s.saveDue c) = true := by simp [hres, hwait, hsave]
    refine ⟨fun hb => ?_, fun hb hf => ?_, fun hb hf => exec_mmarSlotReady_empty hc hr h hb hf⟩
    · obtain ⟨t, ht, hc', ha, htok⟩ :=
        State.actsTo_matrixEnd hc hx ⟨rfl, rfl, rfl, rfl⟩ (exec_mmarSlotReady_broken hc hr h hb)
      exact ⟨t, _, ht, hc', LCore.endCommand_mx .., htok, ha⟩
    · have hid : c.id = id := State.id_of_findCore hc
      exact ⟨_, _, ⟨exec_mmarSlotReady_filled hc hr h hb hf, rfl⟩, State.findCore_mapCore hc hid, rfl, s.sameAround_mapCore ..⟩
end

section
/-! O56. The clause of a firmware change of a frame in host memory says that word 0x08 of its entry stays as it was. A change that
firmware makes leaves the frame without replicas (R270, log entry 85), wherever its bytes were: word 0x08 keeps its counts and loses
its replica bits. -/

namespace Sys2Proof.Machine

/-- A firmware change of a frame in host memory ends with firmware's word and with the counts, every replica bit clear. -/
theorem Op.finishFirmware_host {x : Shoot} {w : Word} (hhost : x.before.getLsbD 61 = true) (hstate : w.bits 63 62 ≤ 1)
    (hreserved : w.bits 59 37 = 0) (s : State) :
    Op.finishFirmware x w s =
      .ok ((w, s.unc.priv.word (x.entry + 8) &&& Word.ofN (2 ^ 56 - 1)), s.rebind x.entry) := by
  have hplace : entryPlace x.before 0 = .host (x.before.bits 36 0 * 65536) := by simp [entryPlace, hhost]
  have hword : (decide (w.bits 63 62 ≤ 1) && decide (w.bits 59 37 = 0)) = true := by simp [hstate, hreserved]
  rw [Op.finishFirmware, hplace]
  exact (Op.need_bind hword _ s).trans rfl

end Sys2Proof.Machine

namespace Sys2Proof.Replicated
open Sys2Proof.Machine

/-- The frame entry at 0x400 is MOVING, in host memory, and names a replica on die 0. -/
def tables : Memory := [(0x407, 0xA0), (0x40F, 0x01)]

/-- Its shoot-down, which every port has acknowledged: the frame was resident in frame 0 of the host's memory. -/
def shoot : Shoot := ⟨0x400, 0x6000000000000000, List.range 8, none⟩

def state : State := { State.reset with unc := { Uncore.reset with priv := tables, shoots := [shoot] } }

/-- Firmware makes the frame NOTRES: the replica bit of word 0x08 is cleared. -/
theorem finishFirmware_run : Op.finishFirmware shoot 0 state = .ok ((0, 0), state.rebind 0x400) :=
  Op.finishFirmware_host (by decide) (by decide) (by decide) state

end Sys2Proof.Replicated

open Sys2Proof.Machine Sys2Proof.Replicated in
/-- Refutes O56: in `Sys2Proof.Replicated.state`, where a frame of host memory whose entry names a replica is made NOTRES, the change
leaves 0 in word 0x08 of the entry, and the clause says that the word keeps its replica bit. -/
theorem not_frameEvents : ¬ Obligations.FrameEvents := by
  unfold Obligations.FrameEvents
  rintro ⟨-, -, -, -, -, -, hfinish, -⟩
  obtain ⟨-, hhost⟩ := hfinish state state 0x400 0 0 0 shoot rfl rfl (fun d hd => .inl (List.mem_range.mpr hd))
  have h := hhost (by decide) (by decide) (by decide)
  rw [finishFirmware_run, Except.ok.injEq, Prod.mk.injEq, Prod.mk.injEq] at h
  obtain ⟨⟨-, hword⟩, -⟩ := h
  exact absurd hword (by decide)
end

section
/-! O27. An atomic at the core's own local memory: its old value is read, its new value, where there is one, is stored, and its order
finds nothing to wait for or write back. -/

namespace Sys2Proof.Machine

/-! ### The new value (R277, R278) -/

theorem amoNew_lt {op n m x : Nat} (hm : m < 2 ^ (8 * n)) (hx : x < 2 ^ (8 * n)) : amoNew op n m x < 2 ^ (8 * n) := by
  dsimp only [amoNew]
  split
  · exact Nat.mod_lt _ (Nat.two_pow_pos _)
  · exact Nat.and_lt_two_pow _ hx
  · exact Nat.or_lt_two_pow hm hx
  · exact Nat.xor_lt_two_pow hm hx
  · split <;> assumption
  · split <;> assumption
  · exact (Nat.min_le_left ..).trans_lt hm
  · exact max_lt hm hx

/-- What an atomic writes fits the bytes that it acts on. -/
theorem AtomicOp.new_lt {k : AtomicOp} {n m x e v : Nat} (hm : m < 2 ^ (8 * n)) (hx : x < 2 ^ (8 * n))
    (h : k.new n m x e = some v) : v < 2 ^ (8 * n) := by
  cases k with
  | amo op =>
    cases h
    exact amoNew_lt hm hx
  | swap =>
    cases h
    exact hx
  | compare =>
    rw [AtomicOp.new, Option.ite_none_right_eq_some] at h
    exact Option.some.inj h.2 ▸ hx

/-- Elements compare as the integers that they stand for. -/
theorem elemInt_of_lt {l e : Nat} (h : e < 2 ^ (l + 1)) : elemInt true (l + 1) e = (BitVec.ofNat (l + 1) e).toInt := by
  rw [← elemInt_eq_toInt, Nat.mod_eq_of_lt h]

/-! ### At the core's own local memory (R280) -/

/-- The agent of an atomic: what it writes adds nothing to the digest (R442). -/
def State.uncounted (s : State) (scope : Nat) : Agent := { s.self scope with counted := false }

section
variable {s : State} {ref : Word} {n : Nat} (h : s.LocalOk ref n) (scope kind : Nat)
include h

theorem State.LocalOk.atomicTarget : Op.localTarget (s.uncounted scope) (coreAcc ref n kind) true s =
    .ok ((s.core.id, refOffset ref), s) := Op.localTarget_run h scope kind

theorem State.LocalOk.atomicNoReduction :
    Op.need (!s.ownRed (s.uncounted scope) (.local s.core.id (refOffset ref)) n) s = .ok ((), s) := by
  obtain ⟨-, -, -, -, -, -, ho⟩ := h
  rw [show s.ownRed (s.uncounted scope) (.local s.core.id (refOffset ref)) n = false from ho]
  rfl

theorem State.LocalOk.atomicLoad : Op.load (s.uncounted scope) (coreAcc ref n kind) s =
    .ok (s.localValue (refOffset ref) n, s) := by
  have hh : refHandle (coreAcc ref n kind).ref ≤ 1 := h.handle_le
  have hsp : s.inSpill (s.uncounted scope) (coreAcc ref n kind).ref = false := h.inSpill _
  refine (Op.bind_ok (Op.get_run s)).trans ?_
  rw [hsp, if_neg Bool.false_ne_true, if_pos hh]
  refine (Op.bind_ok (h.atomicTarget scope kind)).trans ((Op.bind_ok (h.atomicNoReduction scope)).trans ?_)
  refine (Op.bind_ok (Op.lmCheck_clean h.noFlips ..)).trans ((Op.bind_ok (Op.get_run s)).trans ?_)
  rw [s.findCore_self]
  rfl

theorem State.LocalOk.atomicStore (hs : s.StoreHere) (hn : n ∣ 8) (hn0 : 0 < n) (v : Nat) :
    ∃ dirty, Op.store (s.uncounted scope) (coreAcc ref n kind) v s =
      .ok ((), s.withLm (s.core.lm.store (refOffset ref) n v) dirty) := by
  have hh : refHandle (coreAcc ref n kind).ref ≤ 1 := h.handle_le
  have hsp : s.inSpill (s.uncounted scope) (coreAcc ref n kind).ref = false := h.inSpill _
  obtain ⟨dirty, hrun⟩ := Op.localStore_run ⟨hs, h.noFlips⟩ (s.uncounted scope) (coreAcc ref n kind) (refOffset ref) v hn0
    (within_word hn h.offset_mod)
  refine ⟨dirty, (Op.bind_ok (Op.get_run s)).trans ?_⟩
  rw [hsp, if_neg Bool.false_ne_true, if_pos hh]
  exact (Op.bind_ok (h.atomicTarget scope kind)).trans ((Op.bind_ok (h.atomicNoReduction scope)).trans hrun)

/-- The atomic answers the old value, and leaves the new one, or what was there, in its bytes alone. -/
theorem State.LocalOk.nearAtomic (hs : s.StoreHere) (hset : s.Settled) (hm : s.core.lm.wf = true) (hn : n ∣ 8) (hn0 : 0 < n)
    (ord : Order) (k : AtomicOp) {x : Nat} (hx : x < 2 ^ (8 * n)) (e : Nat) :
    let old := s.localValue (refOffset ref) n
    ∃ (m : Memory) (dirty : List Nat),
      Op.nearAtomic (s.uncounted scope) (coreAcc ref n kind) ord k x e (Op.load (s.uncounted scope) (coreAcc ref n kind))
        (Op.store (s.uncounted scope) (coreAcc ref n kind)) s = .ok (Word.ofN old, s.withLm m dirty) ∧
      m.value (refOffset ref) n = (k.new n old x e).getD old ∧
      ∀ a, a < refOffset ref ∨ refOffset ref + n ≤ a → m.get a = s.core.lm.get a := by
  intro old
  have hlocal : refHandle (coreAcc ref n kind).ref ≤ 1 := h.handle_le
  have hrel (writes : Bool) : Op.atomicRelease ord scope writes s = .ok ((), s) := by
    unfold Op.atomicRelease
    split
    · exact Op.release_settled hset scope
    · rfl
  have hold : old < 2 ^ (8 * n) := Memory.value_lt ..
  simp only [Op.nearAtomic, if_pos hlocal]
  cases hv : k.new n old x e with
  | none =>
    refine ⟨s.core.lm, s.core.blockDirty, (Op.bind_ok (h.atomicLoad scope kind)).trans ?_, rfl, fun _ _ => rfl⟩
    rw [show k.new (coreAcc ref n kind).n (s.localValue (refOffset ref) n) x e = none from hv]
    rfl
  | some v =>
    obtain ⟨dirty, hrun⟩ := h.atomicStore scope kind hs hn hn0 v
    refine ⟨s.core.lm.store (refOffset ref) n v, dirty, (Op.bind_ok (h.atomicLoad scope kind)).trans ?_, ?_, ?_⟩
    · rw [show k.new (coreAcc ref n kind).n (s.localValue (refOffset ref) n) x e = some v from hv]
      exact (Op.bind_ok (hrel true)).trans (Op.bind_ok hrun)
    · exact (Memory.value_store _ _ _ _ hm).trans (Nat.mod_eq_of_lt (AtomicOp.new_lt hold hx hv))
    · exact fun a ha => Memory.get_store_outside _ _ _ _ a hm ha

end

/-! ### The word (R277, R279) -/

/-- With no line in any cluster an acquire changes nothing (R322). -/
theorem Op.acquire_no_lines {s : State} (h : s.unc.lines = []) (scope : Nat) : Op.acquire scope s = .ok ((), s) := by
  unfold Op.acquire
  split
  · rw [Op.modify_run, State.acquireCluster_no_lines h]
  · rfl

theorem State.CanRead.withLm {s : State} {d : BitVec 6} (h : s.CanRead d) (m : Memory) (dirty : List Nat) :
    (s.withLm m dirty).CanWrite d := h.canWrite

/-- The word is its atomic between the reads of its registers and the write of the old value. -/
theorem Op.atomic_local {i : Instr} {s : State} {d a b : BitVec 6} {ord : Order} {sc : Scope} {k : AtomicOp} {n : Nat}
    (hi : atomicOf i = some (k, n)) (ha : s.CanRead a) (hb : s.CanRead b) (hd : s.CanRead d) (h : s.LocalOk (s.G a) n)
    (hset : s.Settled) {old : Word} {m : Memory} {dirty : List Nat}
    (hnear : Op.nearAtomic (s.uncounted sc.num) (coreAcc (s.G a) n 2) ord k ((s.G b).toNat % 2 ^ (8 * n))
      ((s.G d).toNat % 2 ^ (8 * n)) (Op.load (s.uncounted sc.num) (coreAcc (s.G a) n 2))
      (Op.store (s.uncounted sc.num) (coreAcc (s.G a) n 2)) s = .ok (old, s.withLm m dirty)) :
    Op.atomic i d a b ord sc s = .ok ((), (s.withLm m dirty).setCtx (s.ctx.setG d.toNat old)) := by
  obtain ⟨ho, -, hl⟩ := hset
  have hreds : (!(isAcq ord && s.relReds)) = true := by simp [State.relReds, ho]
  refine (Op.bind_ok (Op.readG_run s a ha)).trans ((Op.bind_ok (Op.readG_run s b hb)).trans ?_)
  refine (Op.bind_ok (Op.readG_run s d hd)).trans ?_
  rw [hi]
  refine (Op.bind_ok (Op.aligned_run h 2)).trans ((Op.bind_ok (Op.get_run s)).trans ?_)
  refine (Op.need_bind hreds _ s).trans ?_
  simp only [if_pos h.handle_le]
  refine (Op.bind_ok (a := (old, false)) (t := s.withLm m dirty) (Op.bind_ok hnear)).trans ?_
  have hwrite : Op.writeG d old (s.withLm m dirty) = .ok ((), (s.withLm m dirty).setCtx (s.ctx.setG d.toNat old)) :=
    Op.writeG_run _ d old (hd.withLm m dirty)
  cases isAcq ord
  · exact hwrite
  · exact (Op.bind_ok (Op.acquire_no_lines (s := s.withLm m dirty) hl sc.num)).trans hwrite

/-- The word leaves g[d] and the local memory changed, and nothing else. -/
theorem State.sameButG_setG_done (s : State) (m : Memory) (dirty : List Nat) (d : BitVec 6) (v : Word) :
    s.SameButG ((s.withLm m dirty).setCtx (s.ctx.setG d.toNat v)).done d := by
  have hg (n : BitVec 6) (hn : n ≠ d) : ((s.withLm m dirty).setCtx (s.ctx.setG d.toNat v)).done.G n = s.G n :=
    (State.G_setCtx_done ..).trans (s.ctx.gval_setG_other _ _ v (BitVec.toNat_ne.mp hn))
  refine ⟨hg, ?_, ?_, rfl, rfl, rfl, rfl, rfl, rfl, rfl, rfl, rfl, rfl, rfl, ?_, rfl⟩
  · simp [State.SameVK, State.done]
  · simp [State.SameSys, State.done]
  · simp [State.done]

theorem atomicAtLocal_of {i : Instr} {d a b : BitVec 6} {ord : Order} {sc : Scope} {k : AtomicOp} {n : Nat}
    {new : Nat → Nat → Nat → Option Nat} (hi : atomicOf i = some (k, n)) (hn : n ∣ 8) (hn0 : 0 < n)
    (hexec : ∀ s, exec i s = performNext i (Op.atomic i d a b ord sc) s)
    (hnew : ∀ m x e, m < 2 ^ (8 * n) → x < 2 ^ (8 * n) → k.new n m x e = new m x e) : AtomicAtLocal i d a b n new := by
  intro s hissue ha hb hd hl hs hset hm
  obtain ⟨m, dirty, hnear, hvalue, hkeep⟩ := hl.nearAtomic sc.num 2 hs hset hm hn hn0 ord k
    (Nat.mod_lt (s.G b).toNat (Nat.two_pow_pos (8 * n))) ((s.G d).toNat % 2 ^ (8 * n))
  have hrun := Op.atomic_local hi ha hb hd hl hset hnear
  refine ⟨_, (hexec s).trans (performNext_ok hissue hrun), ?_, ?_, fun p hp => hkeep p hp, ?_, rfl⟩
  · exact (State.G_setCtx_done ..).trans (s.ctx.gval_setG_bitVec d _)
  · rw [← hnew (s.localValue (refOffset (s.G a)) n) _ _ (Memory.value_lt ..) (Nat.mod_lt _ (Nat.two_pow_pos _))]
    exact hvalue
  · exact State.sameButG_setG_done ..

section
variable {i : Instr} {d a b : BitVec 6} {ord : Order} {sc : Scope} {op : Nat} {new : Nat → Nat → Nat → Option Nat}
  (hexec : ∀ s, exec i s = performNext i (Op.atomic i d a b ord sc) s)
include hexec

/-- An AMO on a word whose new value is `new`'s on every pair of words. -/
theorem amo_word (hi : atomicOf i = some (.amo op, 4))
    (hnew : ∀ m x e, m < 2 ^ 32 → x < 2 ^ 32 → some (amoNew op 4 m x) = new m x e := by intros; rfl) :
    AtomicAtLocal i d a b 4 new := atomicAtLocal_of hi (by decide) (by decide) hexec hnew

/-- The same on a doubleword. -/
theorem amo_double (hi : atomicOf i = some (.amo op, 8))
    (hnew : ∀ m x e, m < 2 ^ 64 → x < 2 ^ 64 → some (amoNew op 8 m x) = new m x e := by intros; rfl) :
    AtomicAtLocal i d a b 8 new := atomicAtLocal_of hi (by decide) (by decide) hexec hnew

end

theorem amoNew_min {l n m x : Nat} (hl : 8 * n = l + 1) (hm : m < 2 ^ (l + 1)) (hx : x < 2 ^ (l + 1)) :
    amoNew 4 n m x = if (BitVec.ofNat (l + 1) x).toInt < (BitVec.ofNat (l + 1) m).toInt then x else m := by
  simp only [amoNew, hl, elemInt_of_lt hm, elemInt_of_lt hx]

theorem amoNew_max {l n m x : Nat} (hl : 8 * n = l + 1) (hm : m < 2 ^ (l + 1)) (hx : x < 2 ^ (l + 1)) :
    amoNew 5 n m x = if (BitVec.ofNat (l + 1) m).toInt < (BitVec.ofNat (l + 1) x).toInt then x else m := by
  simp only [amoNew, hl, elemInt_of_lt hm, elemInt_of_lt hx]

end Sys2Proof.Machine

open Sys2Proof Sys2Proof.Machine in
/-- Settles O27: every one of the words is `Op.atomic` of its own operation, whose new value is the one named. -/
theorem atomicsAtLocalMemory : Obligations.AtomicsAtLocalMemory := by
  unfold Obligations.AtomicsAtLocalMemory
  intro d a b ord sc
  have hsize (dw : Bool) : (if dw then 8 else 4) ∣ 8 ∧ 0 < if dw then 8 else 4 := by cases dw <;> decide
  exact ⟨amo_word (fun _ => rfl) rfl, amo_double (fun _ => rfl) rfl, amo_word (fun _ => rfl) rfl, amo_double (fun _ => rfl) rfl,
    amo_word (fun _ => rfl) rfl, amo_double (fun _ => rfl) rfl, amo_word (fun _ => rfl) rfl, amo_double (fun _ => rfl) rfl,
    amo_word (fun _ => rfl) rfl fun _ _ _ hm hx => congrArg some (amoNew_min rfl hm hx),
    amo_double (fun _ => rfl) rfl fun _ _ _ hm hx => congrArg some (amoNew_min rfl hm hx),
    amo_word (fun _ => rfl) rfl fun _ _ _ hm hx => congrArg some (amoNew_max rfl hm hx),
    amo_double (fun _ => rfl) rfl fun _ _ _ hm hx => congrArg some (amoNew_max rfl hm hx),
    amo_word (fun _ => rfl) rfl, amo_double (fun _ => rfl) rfl, amo_word (fun _ => rfl) rfl, amo_double (fun _ => rfl) rfl,
    fun dw => atomicAtLocal_of (k := .swap) (ord := ord) (sc := sc) rfl (hsize dw).1 (hsize dw).2 (fun _ => rfl) fun _ _ _ _ _ => rfl,
    fun dw => atomicAtLocal_of (k := .compare) (ord := ord) (sc := sc) rfl (hsize dw).1 (hsize dw).2 (fun _ => rfl)
      fun _ _ _ _ _ => rfl⟩
end

section
/-! O28. The reductions: one at the core's own local memory, one at an object, and a REDACC, each followed from its checks to the operation
that it sends. -/

namespace Sys2Proof.Machine

/-! ### What the words share -/

theorem Op.twinOnce_alone {op : Op (List Word)} {s t : State} {r : List Word} (hs : s.twinned = false)
    (h : op s = .ok (r, t)) (fields : List Nat) : Op.twinOnce fields op s = .ok (r, t) := by
  refine (Op.bind_ok (Op.get_run s)).trans ?_
  rw [hs]
  exact h

/-- Outside a twin, an operation that a word sends is entered in the list. -/
theorem Op.twinSend_run {s : State} (hs : s.twinned = false) (fields : List Nat) (o : BankOp) :
    (discard (Op.twinOnce fields (do
      modify fun s => s.sendOp o
      pure [])) : Op PUnit) s = .ok (⟨⟩, s.sendOp o) :=
  Op.discard_ok (Op.twinOnce_alone hs (Op.bind_ok (Op.modify_run _ s)) fields)

theorem Op.aligned_of {a : Acc} (h : a.ref.toNat % a.n = 0) (s : State) : Op.aligned a s = .ok ((), s) := by
  rw [Op.aligned, if_neg (not_not.mpr h)]
  rfl

/-- An object is not in the spill area (R413). -/
theorem State.inSpill_object {ref : Word} (h : 16 ≤ refHandle ref) (s : State) (ag : Agent) : s.inSpill ag ref = false := by
  have h0 : refHandle ref ≠ 0 := by omega
  simp [State.inSpill, h0]

section
variable {a : Acc} {d : Desc} {addr : Nat} {s : State}

/-- A reduction of a line that is LOST traps (R343). -/
theorem Op.lineKept_lost (hc : d.cls ≠ 0) (hl : (s.dirEntry (addr / 128)).state = .lost) : Op.lineKept a d (.bank addr) s =
    .error (.trap (Trap.plain cLOST a.ref (Word.ofN (s.dirEntry (addr / 128)).reason))) := by
  refine (Op.bind_ok (Op.get_run s)).trans ?_
  simp only [hc, hl, ne_eq, not_false_eq_true, decide_true, Bool.and_self, if_true]
  rfl

theorem Op.lineKept_run (h : d.cls = 0 ∨ (s.dirEntry (addr / 128)).state ≠ .lost) :
    Op.lineKept a d (.bank addr) s = .ok ((), s) := by
  have hno : (decide (d.cls ≠ 0) && decide ((s.dirEntry (addr / 128)).state = .lost)) = false := by
    rcases h with h | h <;> simp [h]
  refine (Op.bind_ok (Op.get_run s)).trans ?_
  dsimp only
  rw [hno]
  rfl

end

/-! ### Integer reductions (R281, R282) -/

/-- The operation that a reduction without a release sends. -/
def State.redOp (s : State) (i : Instr) (dw : Bool) (a b : BitVec 6) (site : Site) (d : Desc) : BankOp :=
  ⟨s.core.id, s.ctx.num, false, false, i, site, if dw then 8 else 4, s.G a, d.cls, d.tensor, d.layout, d.profile, s.G b, 0, 0, 0⟩

/-- Its message to the router of a twin (R433). -/
def State.redFields (s : State) (dw : Bool) (a b : BitVec 6) (sc : Scope) : List Nat :=
  [3, (s.G a).toNat, if dw then 8 else 4, false.toNat * 2, sc.num, (s.G b).toNat]

/-- What is left of a reduction at an object when its place is known. -/
def Op.sendRed (acc : Acc) (d : Desc) (addr : Nat) (fields : List Nat) (o : BankOp) : Op Unit := do
  Op.lineKept acc d (.bank addr)
  discard (Op.twinOnce fields (do
    modify fun s => s.sendOp o
    pure []))

section
variable {i : Instr} {s : State} {dw : Bool} {a b : BitVec 6} {sc : Scope} (ha : s.CanRead a) (hb : s.CanRead b)
include ha hb

theorem Op.red_local (rel : Bool) (h : s.LocalOk (s.G a) (if dw then 8 else 4)) (hset : s.Settled) :
    Op.red i dw a b rel sc s = .ok ((), s.sendOp ⟨s.core.id, s.ctx.num, false, rel, i,
      .local s.core.id (refOffset (s.G a)), if dw then 8 else 4, s.G a, 0, 0, 0, 0, s.G b, 0, 0, 0⟩) := by
  refine (Op.bind_ok (Op.readG_run s a ha)).trans ((Op.bind_ok (Op.readG_run s b hb)).trans ?_)
  refine (Op.bind_ok (Op.aligned_run h 3)).trans ((Op.bind_ok (Op.get_run s)).trans ?_)
  rw [h.inSpill, if_neg Bool.false_ne_true, if_pos h.handle_le]
  refine (Op.bind_ok (Op.localTarget_run h sc.num 3)).trans ?_
  cases rel
  · rfl
  · exact Op.bind_ok (Op.release_settled hset sc.num)

variable {s₁ s₂ : State} {d : Desc} {addr : Nat} (hobj : 16 ≤ refHandle (s.G a))
  (hal : (s.G a).toNat % (if dw then 8 else 4) = 0)
  (hdesc : Op.descriptor (s.self sc.num) (coreAcc (s.G a) (if dw then 8 else 4) 3) s = .ok (d, s₁))
  (hcheck : Op.descCheck (s.self sc.num) (coreAcc (s.G a) (if dw then 8 else 4) 3) (rightR + rightW + rightA) d s₁ = .ok ((), s₁))
  (hplace : Op.locate (s.self sc.num) (coreAcc (s.G a) (if dw then 8 else 4) 3) d false s₁ = .ok (.bank addr, s₂))
include hobj hal hdesc hcheck hplace

/-- A reduction at an object that passes its checks is the check of its line, and its operation sent. -/
theorem Op.red_object : Op.red i dw a b false sc s =
    Op.sendRed (coreAcc (s.G a) (if dw then 8 else 4) 3) d addr (s.redFields dw a b sc) (s.redOp i dw a b (.bank addr) d) s₂ := by
  have hne : ¬refHandle (s.G a) ≤ 1 := by omega
  refine (Op.bind_ok (Op.readG_run s a ha)).trans ((Op.bind_ok (Op.readG_run s b hb)).trans ?_)
  refine (Op.bind_ok (Op.aligned_of hal s)).trans ((Op.bind_ok (Op.get_run s)).trans ?_)
  rw [State.inSpill_object hobj, if_neg Bool.false_ne_true, if_neg hne]
  exact (Op.bind_ok hdesc).trans ((Op.bind_ok hcheck).trans (Op.bind_ok hplace))

end

theorem sendsReduction_of {mk : Bool → BitVec 6 → BitVec 6 → Bool → Scope → Instr}
    (hexec : ∀ dw a b rel sc s, exec (mk dw a b rel sc) s =
      performNext (mk dw a b rel sc) (Op.red (mk dw a b rel sc) dw a b rel sc) s) : SendsReduction mk := by
  refine ⟨fun s dw a b rel sc hi ha hb hl hset => ?_, fun s s₁ s₂ dw a b sc d addr hi ha hb hobj hal hdesc hcheck hplace htwin => ?_⟩
  · rw [hexec, performNext_ok hi (Op.red_local ha hb rel hl hset), State.sendOp, hset.1, List.nil_append]
  · have hred := Op.red_object (i := mk dw a b false sc) ha hb hobj hal hdesc hcheck hplace
    rw [hexec]
    refine ⟨fun hc hlost => performNext_trap hi ?_, fun hkept => performNext_ok hi ?_⟩
    · exact hred.trans (Op.bind_halt (Op.lineKept_lost hc hlost))
    · exact hred.trans ((Op.bind_ok (Op.lineKept_run hkept)).trans (Op.twinSend_run htwin _ _))

/-! ### REDACC (R283, R285) -/

/-- The accesses of a REDACC to its destination and to its sources. -/
def redaccAcc (ref : Word) : Acc := ⟨ref, 128, 7, 3, 0⟩

section
variable {s : State} {d a b : BitVec 6} {sc : Scope} (hi : s.Issues (.redacc d a b false sc)) (hd : s.CanRead d) (ha : s.CanRead a)
  (hb : s.CanRead b) (hdst : (s.G a).toNat % 128 = 0)
include hi hd ha hb hdst

/-- A source outside local memory traps. -/
theorem exec_redacc_source (hsrc : (s.G b).toNat % 128 = 0) (h : refHandle (s.G b) ≠ 0) : exec (.redacc d a b false sc) s =
    .next (s.takeTrap (Trap.plain cHANDLE (s.G b) ((redaccAcc (s.G b)).info 0))) := by
  refine performNext_trap hi ((Op.bind_ok (Op.readG_run s d hd)).trans ((Op.bind_ok (Op.readG_run s a ha)).trans ?_))
  refine (Op.bind_ok (Op.readG_run s b hb)).trans ((Op.bind_ok (Op.get_run s)).trans ?_)
  refine (Op.bind_ok (Op.aligned_of hdst s)).trans ((Op.bind_ok (Op.aligned_of hsrc s)).trans ?_)
  rw [if_pos h]
  rfl

/-- A destination in local memory traps. -/
theorem exec_redacc_destination (hsrc : (s.G b).toNat % 128 = 0) (h : refHandle (s.G b) = 0) (hlocal : refHandle (s.G a) < 16) :
    exec (.redacc d a b false sc) s = .next (s.takeTrap (Trap.plain cHANDLE (s.G a) ((redaccAcc (s.G a)).info 0))) := by
  refine performNext_trap hi ((Op.bind_ok (Op.readG_run s d hd)).trans ((Op.bind_ok (Op.readG_run s a ha)).trans ?_))
  refine (Op.bind_ok (Op.readG_run s b hb)).trans ((Op.bind_ok (Op.get_run s)).trans ?_)
  refine (Op.bind_ok (Op.aligned_of hdst s)).trans ((Op.bind_ok (Op.aligned_of hsrc s)).trans ?_)
  rw [if_neg (not_not.mpr h), if_pos hlocal]
  rfl

variable {s₁ s₂ s₃ : State} {desc : Desc} {addr bytes : Nat} (hl : s.LocalOk (s.G b) 128) (hobj : 16 ≤ refHandle (s.G a))
  (hdesc : Op.descriptor (s.self sc.num) (redaccAcc (s.G a)) s = .ok (desc, s₁))
  (hcheck : Op.descCheck (s.self sc.num) (redaccAcc (s.G a)) rightA desc s₁ = .ok ((), s₁)) (hlayout : desc.layout = 16)
  (hload : Op.load (s.self sc.num) (redaccAcc (s.G b)) s₁ = .ok (bytes, s₂))
  (hplace : Op.locate (s.self sc.num) (redaccAcc (s.G a)) desc false s₂ = .ok (.bank addr, s₃)) (htwin : s₃.twinned = false)
  (hkept : desc.cls = 0 ∨ (s₃.dirEntry (addr / 128)).state ≠ .lost)
include hl hobj hdesc hcheck hlayout hload hplace htwin hkept

/-- The operation is sent with the images read, and the status register is pending. -/
theorem exec_redacc_sends : exec (.redacc d a b false sc) s = .next (State.done ((s₃.sendOp
    ⟨s.core.id, s.ctx.num, false, false, .redacc d a b false sc, .bank addr, 128, s.G a, desc.cls, desc.tensor, desc.layout,
      desc.profile, 0, 0, bytes, (s.G d).setWidth 10⟩).setCtx (s₃.ctx.setPendG d.toNat true))) := by
  have hsrc : (s.G b).toNat % 128 = 0 := hl.toNat_ref_mod
  have hcheckSrc : Op.checkAccess (s.self sc.num) (redaccAcc (s.G b)) rightR s = .ok ((), s) :=
    Op.checkAccess_local hl sc.num 3 rightR
  refine performNext_ok hi ((Op.bind_ok (Op.readG_run s d hd)).trans ((Op.bind_ok (Op.readG_run s a ha)).trans ?_))
  refine (Op.bind_ok (Op.readG_run s b hb)).trans ((Op.bind_ok (Op.get_run s)).trans ?_)
  refine (Op.bind_ok (Op.aligned_of hdst s)).trans ((Op.bind_ok (Op.aligned_of hsrc s)).trans ?_)
  rw [if_neg (not_not.mpr hl.1), if_neg hobj.not_gt]
  refine (Op.bind_ok hcheckSrc).trans ((Op.bind_ok hdesc).trans ((Op.bind_ok hcheck).trans ?_))
  rw [if_neg (not_not.mpr hlayout)]
  refine (Op.bind_ok hload).trans ((Op.bind_ok hplace).trans ((Op.bind_ok (Op.lineKept_run hkept)).trans ?_))
  exact Op.bind_ok (Op.twinSend_run htwin _ _)

end

/-- What a word that has sent an operation, and holds a register for its answer, leaves. -/
theorem State.sent_done (s : State) (o : BankOp) (d : BitVec 6) :
    let t := State.done ((s.sendOp o).setCtx (s.ctx.setPendG d.toNat true))
    t.unc.bankOps = s.unc.bankOps ++ [o] ∧ t.ctx.pendG = (s.ctx.setPendG d.toNat true).pendG ∧ t.ctx.g = s.ctx.g ∧
      t.ctx.pc = s.ctx.pc + 4 ∧ s.SameSys t ∧ s.SameCoreRest t := by
  obtain ⟨p, hp⟩ := s.ctx.setPendG_eq d.toNat true
  rw [hp]
  exact ⟨rfl, rfl, rfl, rfl, ⟨rfl, rfl, rfl, rfl, rfl⟩, (s.sendOp o).sameCoreRest_setCtx_done _⟩

end Sys2Proof.Machine

open Sys2Proof Sys2Proof.Machine in
/-- Settles O28: an integer reduction is `Op.red`, whose sites are the core's own local memory and an object; a REDACC either traps on one
of its handles or sends what it has read. -/
theorem reductionsAndRedaccAreSent : Obligations.ReductionsAndRedaccAreSent := by
  unfold Obligations.ReductionsAndRedaccAreSent
  refine ⟨⟨sendsReduction_of fun _ _ _ _ _ _ => rfl, sendsReduction_of fun _ _ _ _ _ _ => rfl,
      sendsReduction_of fun _ _ _ _ _ _ => rfl, sendsReduction_of fun _ _ _ _ _ _ => rfl,
      sendsReduction_of fun _ _ _ _ _ _ => rfl, sendsReduction_of fun _ _ _ _ _ _ => rfl,
      sendsReduction_of fun _ _ _ _ _ _ => rfl, sendsReduction_of fun _ _ _ _ _ _ => rfl⟩,
    fun s s₁ s₂ s₃ d a b sc desc addr bytes hi hd ha hb hdst hl hobj hdesc hcheck hlayout hload hplace htwin hkept => ?_,
    fun s d a b sc hi hd ha hb hdst hsrc => ⟨exec_redacc_source hi hd ha hb hdst hsrc, exec_redacc_destination hi hd ha hb hdst hsrc⟩⟩
  exact ⟨_, exec_redacc_sends hi hd ha hb hdst hl hobj hdesc hcheck hlayout hload hplace htwin hkept, s₃.sent_done _ d⟩
end

section
/-! O29, the units: an operation acts when it is the oldest of its unit (R14). -/

namespace Sys2Proof.Machine

theorem State.mem_unitHeads {s : State} {o : BankOp} : o ∈ s.unitHeads ↔
    ∃ p, s.unc.bankOps[p]? = some o ∧ ∀ (q : Nat) (x : BankOp), q < p → s.unc.bankOps[q]? = some x → x.site.unit ≠ o.site.unit := by
  simp only [State.unitHeads, List.mem_map, List.mem_filter, Prod.exists, exists_and_right, exists_eq_right,
    List.mem_zipIdx_iff_getElem?, List.all_eq_true, decide_eq_true_eq, List.mem_take_iff_getElem]
  refine exists_congr fun p => and_congr_right fun hp => ?_
  constructor
  · intro h q x hq hx
    obtain ⟨hlt, rfl⟩ := List.getElem?_eq_some_iff.mp hx
    exact h _ ⟨q, by omega, rfl⟩
  · rintro h x ⟨q, hq, rfl⟩
    exact h q _ (by omega) (List.getElem?_eq_getElem _)

/-- The operation chosen is one of its kind among the oldest. -/
theorem State.mem_of_nextOp {s : State} {kind : BankOp → Bool} {o : BankOp} (h : s.nextOp kind = some o) :
    o ∈ s.unitHeads ∧ kind o = true := by
  rw [← List.mem_filter]
  unfold State.nextOp at h
  split at h
  · cases h
  · next he =>
    cases h
    rw [he]
    exact List.mem_singleton_self _
  · next a rest _ he =>
    rw [he]
    cases h
    rw [List.getD_eq_getElem?_getD]
    cases hx : (a :: rest)[Config.bankTurn s.tick (rest.length + 1) % (rest.length + 1)]? with
    | none => exact List.mem_cons_self
    | some x => exact List.mem_of_getElem? hx

theorem State.nextOp_isSome {s : State} {kind : BankOp → Bool} {o : BankOp} (ho : o ∈ s.unitHeads) (hk : kind o = true) :
    (s.nextOp kind).isSome = true := by
  have hmem : o ∈ s.unitHeads.filter kind := List.mem_filter.mpr ⟨ho, hk⟩
  unfold State.nextOp
  split
  · next he => simp [he] at hmem
  · rfl
  · rfl

end Sys2Proof.Machine
end

section
/-! O29, the banks: what a bank's unit finds and writes at a place of this package where nothing waits, is cached or is in error. -/

namespace Sys2Proof.Machine

/-! ### What the unit finds -/

/-- A bank of this package on a die that is not fenced at level 2 can be reached (R342, R347). -/
def State.BankHere (s : State) (addr : Nat) : Prop :=
  addr / 2 ^ 40 = s.pkg.address.toNat ∧ s.fenceLevel (addr / 2 ^ 36 % 16 / 2) ≠ 2

theorem Op.bankGone_here {s : State} {addr : Nat} (h : s.BankHere addr) : Op.bankGone addr s = .ok (none, s) := by
  obtain ⟨hhere, hfence⟩ := h
  have hr : s.reach (addr / 2 ^ 40) = 0 := if_pos hhere
  refine (Op.bind_ok (Op.get_run s)).trans ?_
  simp only [hr]
  refine (Op.need_bind rfl _ s).trans ?_
  simp only [hfence, decide_false, Bool.and_false]
  rfl

/-- A line of class 0 that no cluster holds is had at once (R321). -/
theorem Op.bankObtain_here {s : State} {o : BankOp} {addr : Nat} (h : s.BankHere addr) (hc : o.cls = 0) (hl : s.unc.lines = []) :
    Op.bankObtain o addr s = .ok (none, s) := by
  have hclean : s.cleanLine (clusterOf (s.opAgent o).slot) (addr / 128) = s := by
    simp [State.cleanLine, State.findLine, hl]
  refine (Op.bind_ok (Op.bankGone_here h)).trans ?_
  rw [if_pos hc]
  exact (Op.bind_ok (Op.modify_run _ s)).trans (by rw [hclean]; rfl)

theorem State.mixedClash_none {s : State} (h : s.unc.mixed = []) (o : BankOp) (addr : Nat) : s.mixedClash o addr = none := by
  simp [State.mixedClash, h, NatMap.get]

theorem State.flippedSectors_none {s : State} (h : s.unc.bankFlips = []) (layout profile off addr n : Nat) :
    s.flippedSectors layout profile off addr n = [] := by
  simp [State.flippedSectors, h, sortBy]

/-- With no bit of a bank flipped its codes find nothing (R420). -/
theorem Op.bankCheck_clean {s : State} (h : s.unc.bankFlips = []) (o : BankOp) (addr at_ n action : Nat) :
    Op.bankCheck o addr at_ n action s = .ok (none, s) := by
  have hv : Op.verifyBank (s.opReader o) (o.offAt addr at_) at_ n action s = .ok (none, s) := by
    refine (Op.bind_ok (Op.get_run s)).trans ?_
    simp only [State.flippedSectors_none h]
    rfl
  exact (Op.bind_ok (Op.get_run s)).trans (Op.bind_ok hv)

theorem State.opSettled_clean {s : State} (h : s.unc.bankFlips = []) (o : BankOp) (addr n : Nat) : s.opSettled o addr n = s := by
  simp [State.opSettled, State.settled, State.flippedSectors_none h]

/-- A line without a directory entry is no bank's (R333). -/
theorem State.bankRelease_none {s : State} (h : s.unc.directory = []) (tag : Nat) : s.bankRelease tag = s := by
  simp [State.bankRelease, State.dirEntry, h, DirEntry.empty]

/-! ### What the unit writes -/

theorem State.mscEvict_eq (s : State) (tag : Nat) : ∃ flips held dirty, s.mscEvict tag =
    { s with unc := { s.unc with bankFlips := flips, mscHeld := held, mscDirty := dirty } } := ⟨_, _, _, rfl⟩

/-- A line brought into the memory-side cache changes no byte. -/
theorem State.mscHold_eq (s : State) (tag : Nat) : ∃ flips held dirty, s.mscHold tag =
    { s with unc := { s.unc with bankFlips := flips, mscHeld := held, mscDirty := dirty } } := by
  unfold State.mscHold
  dsimp only
  split
  · exact ⟨_, _, _, rfl⟩
  · split
    · exact ⟨_, _, _, rfl⟩
    · split
      · obtain ⟨f, h, d, he⟩ := s.mscEvict_eq _
        rw [he]
        exact ⟨_, _, _, rfl⟩
      · exact ⟨_, _, _, rfl⟩

/-- The memory with the bytes of a line that `mask` selects written. -/
def Memory.writeLine (m : Memory) (tag : Nat) (mask : BitVec 128) (data : BitVec 1024) : Memory :=
  ((List.range 128).filter fun i => mask.getLsbD i).foldl (init := m) fun m i =>
    m.set (128 * tag + i) (BitVec.ofNat 8 (lineGet data i 1))

/-- A bank's write changes those bytes, the line's anchor and tags, and what the memory-side cache holds (R284, R330). -/
theorem State.bankWrite_eq (s : State) (tag : Nat) (mask : BitVec 128) (data : BitVec 1024) : ∃ mixed flips held dirty,
    s.bankWrite tag mask data = { s with unc := { s.unc with
      hbm := s.unc.hbm.writeLine tag mask data, anchors := s.unc.anchors.erase tag, mixed := mixed, bankFlips := flips,
      mscHeld := held, mscDirty := dirty } } := by
  obtain ⟨f, h, d, he⟩ := s.mscHold_eq tag
  unfold State.bankWrite
  rw [he]
  exact ⟨_, _, _, _, rfl⟩

/-- Bytes set one after the other. -/
theorem Memory.get_foldl_set {m : Memory} (hm : m.wf = true) (base : Nat) (byte : Nat → Byte) (l : List Nat) (p : Nat) :
    (l.foldl (fun m i => m.set (base + i) (byte i)) m).get p =
      if ∃ i ∈ l, p = base + i then byte (p - base) else m.get p := by
  induction l generalizing m with
  | nil => simp
  | cons i l ih =>
    rw [List.foldl_cons, ih (Memory.wf_set m _ _ hm), Memory.get_set m _ _ _ hm]
    by_cases hp : p = base + i
    · simp [hp]
    · simp [hp]

theorem Memory.get_writeLine {m : Memory} (hm : m.wf = true) (tag : Nat) (mask : BitVec 128) (data : BitVec 1024) (p : Nat) :
    (m.writeLine tag mask data).get p =
      if 128 * tag ≤ p ∧ mask.getLsbD (p - 128 * tag) = true then BitVec.ofNat 8 (lineGet data (p - 128 * tag) 1) else m.get p := by
  rw [Memory.writeLine, Memory.get_foldl_set hm]
  refine if_congr ?_ rfl rfl
  simp only [List.mem_filter, List.mem_range]
  constructor
  · rintro ⟨i, ⟨-, hbit⟩, rfl⟩
    exact ⟨Nat.le_add_right .., by rwa [Nat.add_sub_cancel_left]⟩
  · rintro ⟨hlo, hbit⟩
    exact ⟨p - 128 * tag, ⟨BitVec.lt_of_getLsbD hbit, hbit⟩, by omega⟩

/-- `n` bytes at `o` of a line written as `v`'s are `v` in memory, and no other byte changes. -/
theorem Memory.writeLine_spec {m : Memory} (hm : m.wf = true) {tag o n v : Nat} {mask : BitVec 128} {data : BitVec 1024}
    (hmask : ∀ i, mask.getLsbD i = decide (o ≤ i ∧ i < o + n))
    (hdata : ∀ i < n, lineGet data (o + i) 1 = elemAt 8 v i) (hv : v < 2 ^ (8 * n)) :
    (m.writeLine tag mask data).value (128 * tag + o) n = v ∧
      ∀ p, p < 128 * tag + o ∨ 128 * tag + o + n ≤ p → (m.writeLine tag mask data).get p = m.get p := by
  constructor
  · refine (Memory.value_eq_of_bytes (v := v) fun i hi => ?_).trans (Nat.mod_eq_of_lt hv)
    have hsub : 128 * tag + o + i - 128 * tag = o + i := by omega
    rw [Memory.get_writeLine hm, hsub, hmask, hdata i hi]
    exact if_pos ⟨by omega, decide_eq_true ⟨by omega, by omega⟩⟩
  · intro p hp
    rw [Memory.get_writeLine hm, hmask]
    refine if_neg fun ⟨hlo, hin⟩ => ?_
    have := of_decide_eq_true hin
    omega

theorem byteMask_getLsbD {o n : Nat} (h : o + n ≤ 128) (i : Nat) : (byteMask o n).getLsbD i = decide (o ≤ i ∧ i < o + n) := by
  rw [byteMask, BitVec.getLsbD_ofNat, Nat.testBit_mul_two_pow, Nat.testBit_two_pow_sub_one]
  rw [Bool.eq_iff_iff]
  simp only [Bool.and_eq_true, decide_eq_true_eq]
  omega

/-- A number moved up to its place in a word that it does not leave. -/
theorem toNat_ofNat_shifted {w v m k : Nat} (hv : v < 2 ^ m) (h : m + k ≤ w) : (BitVec.ofNat w (v * 2 ^ k)).toNat = v * 2 ^ k := by
  refine (BitVec.toNat_ofNat ..).trans (Nat.mod_eq_of_lt ((Nat.mul_lt_mul_of_pos_right hv (Nat.two_pow_pos k)).trans_le ?_))
  rw [← Nat.pow_add]
  exact Nat.pow_le_pow_right Nat.two_pos h

theorem lineGet_lineSet {o n v i : Nat} (h : o + n ≤ 128) (hv : v < 2 ^ (8 * n)) :
    lineGet (lineSet 0 o n v) (o + i) 1 = elemAt 8 v i := by
  have hset : lineSet 0 o n v = BitVec.ofNat 1024 (v * 2 ^ (8 * o)) := by simp [lineSet, Nat.mod_eq_of_lt hv]
  have hval : (lineSet 0 o n v).toNat = v * 2 ^ (8 * o) :=
    hset ▸ toNat_ofNat_shifted hv (by omega)
  have hexp : 8 * (o + i) = 8 * o + 8 * i := by omega
  rw [lineGet, hval, hexp, Nat.pow_add, ← Nat.div_div_eq_div_mul, Nat.mul_div_cancel _ (Nat.two_pow_pos _)]
  rfl

end Sys2Proof.Machine
end

section
/-! O29, the operations: what one leaves when its unit executes it. -/

namespace Sys2Proof.Machine

/-! ### The bytes stored (R278, R330) -/

theorem atomicOf_size {i : Instr} {k : AtomicOp} {n : Nat} (h : atomicOf i = some (k, n)) : n = 4 ∨ n = 8 := by
  unfold atomicOf at h
  split at h
  all_goals grind

theorem State.unitWrite_no_lines {s : State} (h : s.unc.lines = []) (o : BankOp) (tag : Nat) (bytes : BitVec 128)
    (data : BitVec 1024) : s.unitWrite o tag bytes data = s.bankWrite tag bytes data := by
  obtain ⟨mixed, flips, held, dirty, he⟩ := s.bankWrite_eq tag bytes data
  simp [State.unitWrite, State.findLine, he, h]

/-- A bank's state after a write of a line's bytes: the memory and the tags that `f` changes, its caches, and nothing else. -/
structure Uncore.Stored (u w : Uncore) (addr n v : Nat) : Prop where
  ops : w.bankOps = u.bankOps
  directory : w.directory = u.directory
  value : w.hbm.value addr n = v
  keep : ∀ b, b < addr ∨ addr + n ≤ b → w.hbm.get b = u.hbm.get b

/-- What a bank's unit leaves when it writes `n` bytes of a line, at `off`, as `v`'s. -/
theorem State.unitWrite_stored {s : State} (o : BankOp) {tag off n v : Nat} {mask : BitVec 128} {data : BitVec 1024}
    (hl : s.unc.lines = []) (hm : s.unc.hbm.wf = true) (hmask : ∀ i, mask.getLsbD i = decide (off ≤ i ∧ i < off + n))
    (hdata : ∀ i < n, lineGet data (off + i) 1 = elemAt 8 v i) (hv : v < 2 ^ (8 * n)) :
    ∃ u, s.unitWrite o tag mask data = { s with unc := u } ∧ s.unc.Stored u (128 * tag + off) n v := by
  obtain ⟨mixed, flips, held, dirty, he⟩ := s.bankWrite_eq tag mask data
  obtain ⟨hvalue, hkeep⟩ := Memory.writeLine_spec hm (tag := tag) hmask hdata hv
  exact ⟨_, (State.unitWrite_no_lines hl o tag _ _).trans he, rfl, rfl, hvalue, hkeep⟩

theorem State.bankStore_eq {s : State} {o : BankOp} {addr v : Nat} (hl : s.unc.lines = []) (hm : s.unc.hbm.wf = true)
    (hn : o.n = 4 ∨ o.n = 8) (ha : addr % o.n = 0) (hv : v < 2 ^ (8 * o.n)) :
    ∃ u, s.bankStore o addr v = { s with unc := u } ∧ s.unc.Stored u addr o.n v := by
  have hfit : addr % 128 + o.n ≤ 128 := by rcases hn with h | h <;> rw [h] at ha ⊢ <;> omega
  obtain ⟨u, hwrite, hu⟩ := State.unitWrite_stored o (tag := addr / 128) hl hm (byteMask_getLsbD hfit)
    (fun i _ => lineGet_lineSet hfit hv) hv
  rw [Nat.div_add_mod] at hu
  refine ⟨{ u with mixed := u.mixed.set (addr / 8) (if o.n = 4 then 1 else 2) }, ?_, hu.ops, hu.directory, hu.value, hu.keep⟩
  rw [State.bankStore, hwrite]

/-! ### The context that is answered -/

theorem State.findCore_mapCore_ne {id k : CoreId} (h : k ≠ id) {f : LCore → LCore} (hf : ∀ c, (f c).id = c.id) (s : State) :
    (s.mapCore id f).findCore k = s.findCore k := by
  have hkeep (c : LCore) : (if c.id = id then f c else c).id = c.id := by
    split
    · exact hf c
    · rfl
  have hpeers : (s.peers.map fun c => if c.id = id then f c else c).find? (fun c => c.id = k) =
      s.peers.find? fun c => c.id = k := by
    rw [List.find?_map]
    simp only [Function.comp_def, hkeep]
    cases hfind : s.peers.find? fun c => c.id = k with
    | none => rfl
    | some c =>
      have hid : c.id = k := of_decide_eq_true (List.find?_some (p := fun c : LCore => c.id = k) hfind)
      exact congrArg some (if_neg (hid ▸ h))
  unfold State.mapCore State.findCore State.cores
  split
  · next hid =>
    subst hid
    simp [hf, Ne.symm h]
  · rw [List.find?_cons, List.find?_cons, hpeers]

/-- The context of number `n` of the core `id` has `P`. -/
def State.CtxHas (s : State) (id : CoreId) (n : Nat) (P : Ctx → Prop) : Prop :=
  ∃ c x, s.findCore id = some c ∧ c.findCtx n = some x ∧ P x

/-- A change of that context. -/
theorem State.ctxHas_mapCtx {s : State} {id : CoreId} {n : Nat} {P Q : Ctx → Prop} {f : Ctx → Ctx} (h : s.CtxHas id n P)
    (hf : ∀ x, (f x).num = x.num) (hPQ : ∀ x, P x → Q (f x)) : (s.mapCtx id n f).CtxHas id n Q := by
  obtain ⟨c, x, hc, hx, hP⟩ := h
  refine ⟨_, _, State.findCore_mapCore (f := (·.mapCtx n f)) hc ?_, LCore.findCtx_mapCtx_same hx ?_, hPQ x hP⟩
  · rw [LCore.mapCtx_core_id, State.id_of_findCore hc]
  · rw [hf, LCore.num_of_findCtx hx]

/-- A change of a context, of whatever core, after which `P` holds where it held. -/
theorem State.CtxHas.mapCtx {s : State} {id k : CoreId} {n m : Nat} {P : Ctx → Prop} {f : Ctx → Ctx} (h : s.CtxHas id n P)
    (hf : ∀ x, (f x).num = x.num) (hP : ∀ x, P x → P (f x)) (hm : m = n) : (s.mapCtx k m f).CtxHas id n P := by
  subst hm
  by_cases hk : id = k
  · subst hk
    exact State.ctxHas_mapCtx h hf hP
  · obtain ⟨c, x, hc, hx, hx'⟩ := h
    exact ⟨c, x, (State.findCore_mapCore_ne hk (fun c => c.mapCtx_core_id m f) s).trans hc, hx, hx'⟩

/-! ### Far atomics (R280) -/

@[simp] theorem State.focus_unc (s : State) (id : CoreId) (n : Nat) : (s.focus id n).unc = s.unc := by
  unfold State.focus State.focusCore
  split
  · rfl
  · split <;> rfl

section
variable {s : State} {o : BankOp} {addr n : Nat} {k : AtomicOp}

/-- A CAS that writes releases at the bank where its own operation alone is under way and no report waits (R277, R282). -/
theorem Op.casRelease_run (hop : atomicOf o.instr = some (k, n)) (hfar : o.far = true) (hl : s.unc.lines = [])
    (h : k = .compare → o.rel = true → s.unc.bankOps = [o] ∧ (s.focus o.core o.ctx).ctx.reports = []) :
    Op.casRelease o s = .ok (true, s) := by
  unfold Op.casRelease
  generalize o.instr = i at hop
  split
  · next d a b ord sc dw =>
    have hk : k = .compare := by
      cases hop
      rfl
    split
    · rfl
    · next hrel =>
      obtain ⟨hops, hreports⟩ := h hk (by simpa using hrel)
      have hreds : (!(s.focus o.core o.ctx).redsIn sc.num) = true := by
        simp [State.redsIn, State.focus_unc, hops, hfar]
      have hreport : (s.focus o.core o.ctx).bankReport sc.num = none := by simp [State.bankReport, hreports]
      have hclean : s.releaseCluster (clusterOf (s.opAgent o).slot) = s := by simp [State.releaseCluster, hl]
      refine (Op.bind_ok (Op.get_run s)).trans ((Op.need_bind hreds _ s).trans ?_)
      rw [hreport, hclean]
      dsimp only [Option.isSome_none]
      rw [if_neg Bool.false_ne_true]
      split <;> rfl
  · rfl

/-- An operation at a bank that can be reached, of class 0, in a machine where no line is cached, no bit is flipped and no unit has a
size tag. -/
structure State.BankIdle (s : State) (o : BankOp) (addr : Nat) : Prop where
  site : o.site = .bank addr
  cls : o.cls = 0
  here : s.BankHere addr
  flips : s.unc.bankFlips = []
  lines : s.unc.lines = []

variable (h : s.BankIdle o addr) (hmix : s.unc.mixed = []) (hop : atomicOf o.instr = some (k, n))
include h hmix hop

theorem Op.farExecute_run {v : Nat} (hnew : k.new n (s.unc.hbm.value addr n) (o.x.toNat % 2 ^ (8 * n)) (o.e.toNat % 2 ^ (8 * n)) = some v)
    (hrel : Op.casRelease o s = .ok (true, s)) :
    Op.farExecute o s = .ok (.old (Word.ofN (s.unc.hbm.value addr n)), s.bankStore o addr v) := by
  unfold Op.farExecute
  rw [h.site, hop]
  refine (Op.bind_ok (Op.bankObtain_here h.here h.cls h.lines)).trans ((Op.bind_ok (Op.get_run s)).trans ?_)
  rw [State.mixedClash_none hmix]
  refine (Op.bind_ok (Op.bankCheck_clean h.flips o addr addr n 2)).trans ((Op.bind_ok (Op.get_run s)).trans ?_)
  rw [State.opSettled_clean h.flips, hnew]
  refine (Op.bind_ok hrel).trans ?_
  rw [if_pos rfl]
  refine (Op.bind_ok (Op.modify_run _ s)).trans ?_
  rw [State.opSettled_clean h.flips]
  rfl

end

/-- A far atomic that is alone in its group answers its context and leaves the list. -/
theorem exec_farAtomic_run {s t : State} {o : BankOp} {w : Word} (hnext : s.nextOp s.farReady = some o) (hgroup : s.farGroup o = [o])
    (hrun : Op.farExecute o s = .ok (.old w, t)) :
    exec .farAtomic s = .next { (t.answerFar o (.old w)).dropOp o with stalled := false } := by
  refine runEvent_ok ((Op.bind_ok (Op.get_run s)).trans ((Op.get!_bind hnext _ s).trans ?_))
  rw [hgroup]
  refine (Op.bind_ok (Op.bind_ok (Op.bind_ok hrun))).trans ?_
  rfl

/-- The state in which a far atomic has answered, and left the list. -/
theorem State.answered_far {s : State} {o : BankOp} {addr n v : Nat} {u : Uncore} (w : Word) (hu : s.unc.Stored u addr n v) :
    let t : State := { (State.answerFar { s with unc := u } o (.old w)).dropOp o with stalled := false }
    t.unc.bankOps = s.unc.bankOps.erase o ∧ t.unc.hbm.value addr n = v ∧
      (∀ b, b < addr ∨ addr + n ≤ b → t.unc.hbm.get b = s.unc.hbm.get b) ∧
      ∀ c, s.findCore o.core = some c → ∀ x, c.findCtx o.ctx = some x →
        ∃ c' x', t.findCore o.core = some c' ∧ c'.findCtx o.ctx = some x' ∧ x'.wait = none ∧ x'.farGot = some (.old w) ∧
          x'.g = x.g ∧ x'.pc = x.pc := by
  intro t
  have hunc : t.unc = { u with bankOps := u.bankOps.erase o } := by simp [t, State.dropOp, State.answerFar]
  refine ⟨by rw [hunc, ← hu.ops], by rw [hunc]; exact hu.value, by rw [hunc]; exact hu.keep, fun c hc x hx => ?_⟩
  have hctx : State.CtxHas { s with unc := u } o.core o.ctx (· = x) := ⟨c, x, hc, hx, rfl⟩
  exact State.ctxHas_mapCtx (P := (· = x)) (Q := fun y => y.wait = none ∧ y.farGot = some (.old w) ∧ y.g = x.g ∧ y.pc = x.pc)
    (f := fun y => { y with farGot := some (.old w), wait := none }) hctx (fun _ => rfl)
    fun y (hy : y = x) => by subst hy; exact ⟨rfl, rfl, rfl, rfl⟩

/-! ### Integer reductions (R282) -/

theorem exec_redApply_local {s : State} {o : BankOp} {off n v : Nat} {k : AtomicOp} {c : LCore}
    (hnext : s.nextOp BankOp.isRed = some o) (hop : atomicOf o.instr = some (k, n)) (hn : o.n = n) (hsite : o.site = .local o.core off)
    (hc : s.findCore o.core = some c) (hf : c.lmFlips = []) (hnew : k.new n (c.lm.value off n) (o.x.toNat % 2 ^ (8 * n)) 0 = some v) :
    exec .redApply s = .next { (s.dropOp o).lmWrite o.core off (bytesOf n v) with stalled := false } := by
  subst hn
  have hc' : (s.dropOp o).findCore o.core = some c := hc
  have hcheck (ag : Agent) (a : Acc) (m : Nat) : Op.lmCheck ag a o.core off m (s.dropOp o) = .ok ((), s.dropOp o) := by
    refine (Op.bind_ok (Op.get_run _)).trans ?_
    rw [hc']
    exact congrFun (if_pos hf) _
  refine runEvent_ok ((Op.bind_ok (Op.get_run s)).trans ((Op.get!_bind hnext _ s).trans ?_))
  rw [hsite, hop]
  refine (Op.bind_ok (Op.set_run _ s)).trans ?_
  simp only [Op.redLocal, hcheck, hc', hnew, Option.getD_some]

section
variable {s : State} {o : BankOp} {addr : Nat} (h : s.BankIdle o addr) (hdir : s.unc.directory = [])
include h hdir

theorem exec_redApply_bank {n v : Nat} {k : AtomicOp} (hnext : s.nextOp BankOp.isRed = some o) (hop : atomicOf o.instr = some (k, n))
    (hn : o.n = n) (hmix : s.unc.mixed = []) (hm : s.unc.hbm.wf = true) (ha : addr % n = 0)
    (hnew : k.new n (s.unc.hbm.value addr n) (o.x.toNat % 2 ^ (8 * n)) 0 = some v) :
    ∃ u, exec .redApply s = .next { (State.dropOp { s with unc := u } o) with stalled := false } ∧ s.unc.Stored u addr n v := by
  subst hn
  have hv : v < 2 ^ (8 * o.n) := AtomicOp.new_lt (Memory.value_lt ..) (Nat.mod_lt _ (Nat.two_pow_pos _)) hnew
  obtain ⟨u, hstore, hu⟩ := State.bankStore_eq (o := o) h.lines hm (atomicOf_size hop) ha hv
  refine ⟨u, runEvent_ok ((Op.bind_ok (Op.get_run s)).trans ((Op.get!_bind hnext _ s).trans ?_)), hu⟩
  rw [h.site, hop]
  refine (Op.bind_ok (t := { s with unc := u }) (a := ()) ?_).trans (Op.modify_run _ _)
  refine (Op.bind_ok (Op.bankObtain_here h.here h.cls h.lines)).trans ((Op.bind_ok (Op.get_run s)).trans ?_)
  rw [State.mixedClash_none hmix]
  refine (Op.bind_ok (Op.bankCheck_clean h.flips o addr _ 128 3)).trans ((Op.modify_run _ s).trans ?_)
  simp only [State.opSettled_clean h.flips, hnew, Option.getD_some, hstore]
  rw [State.bankRelease_none (hu.directory.trans hdir)]

end

end Sys2Proof.Machine
end

section
/-! O29, the reproducible reductions (R283): a REDACC combines its images into its line, or leaves the line and answers. -/

namespace Sys2Proof.Machine

/-! ### The status that a REDACC answers -/

/-- The contexts numbered `n` of some cores changed, one after the other. -/
def State.mapCtxs (s : State) (ids : List CoreId) (n : Nat) (f : Ctx → Ctx) : State := ids.foldl (fun s id => s.mapCtx id n f) s

theorem State.mapCtx_with_unc (s : State) (u : Uncore) (id : CoreId) (n : Nat) (f : Ctx → Ctx) :
    State.mapCtx { s with unc := u } id n f = { s.mapCtx id n f with unc := u } := by
  unfold State.mapCtx State.mapCore
  split <;> rfl

theorem State.mapCtxs_with_unc (s : State) (u : Uncore) (ids : List CoreId) (n : Nat) (f : Ctx → Ctx) :
    State.mapCtxs { s with unc := u } ids n f = { s.mapCtxs ids n f with unc := u } := by
  unfold State.mapCtxs
  induction ids generalizing s with
  | nil => rfl
  | cons id ids ih => rw [List.foldl_cons, List.foldl_cons, State.mapCtx_with_unc, ih]

theorem State.mapCtxs_unc (s : State) (ids : List CoreId) (n : Nat) (f : Ctx → Ctx) : (s.mapCtxs ids n f).unc = s.unc := by
  unfold State.mapCtxs
  induction ids generalizing s with
  | nil => rfl
  | cons id ids ih => rw [List.foldl_cons, ih, State.mapCtx_unc]

/-- What holds of a context after the change, and again after a second one, holds of the contexts that it reaches. -/
theorem State.ctxHas_mapCtxs {s : State} {id : CoreId} {ids : List CoreId} {n : Nat} {P Q : Ctx → Prop} {f : Ctx → Ctx}
    (h : s.CtxHas id n P) (hf : ∀ x, (f x).num = x.num) (hPQ : ∀ x, P x → Q (f x)) (hQ : ∀ x, Q x → Q (f x)) :
    (s.mapCtxs (id :: ids) n f).CtxHas id n Q := by
  have hkeep (t : State) (ht : t.CtxHas id n Q) : (t.mapCtxs ids n f).CtxHas id n Q := by
    unfold State.mapCtxs
    induction ids generalizing t with
    | nil => exact ht
    | cons k ids ih => exact ih _ (ht.mapCtx hf hQ rfl)
  exact hkeep _ (State.ctxHas_mapCtx h hf hPQ)

theorem Ctx.takeToken_eq (x : Ctx) (r : BitVec 6) (v : Word) : x.takeToken r v = (x.setG r.toNat v).setPendG r.toNat false := by
  by_cases h : r = 0
  · subst h
    rfl
  · exact if_neg h

/-- A token of 0 leaves 0 in its register, g0 included. -/
theorem Ctx.gval_takeToken_zero (x : Ctx) (r : BitVec 6) : (x.takeToken r 0).gval r.toNat = 0 := by
  by_cases h : r = 0
  · subst h
    rfl
  · exact Ctx.gval_takeToken_same h x 0

theorem State.opTargets_eq (s : State) (o : BankOp) : ∃ ids, s.opTargets o = o.core :: ids := by
  unfold State.opTargets
  split
  · split
    · exact ⟨_, rfl⟩
    · exact ⟨_, rfl⟩
  · exact ⟨_, rfl⟩

theorem State.answerRedacc_eq {s : State} {o : BankOp} {d a b : BitVec 6} {rel : Bool} {sc : Scope} (h : o.instr = .redacc d a b rel sc)
    (st : Nat) : s.answerRedacc o st = s.mapCtxs (s.opTargets o) o.ctx (fun x => x.takeToken d (Word.ofN st)) := by
  simp only [State.answerRedacc, h, Ctx.takeToken_eq]
  rfl

/-- The answer reads and changes nothing outside the cores. -/
theorem State.answerRedacc_with_unc (s : State) (u : Uncore) (o : BankOp) (st : Nat) :
    State.answerRedacc { s with unc := u } o st = { s.answerRedacc o st with unc := u } := by
  cases hi : o.instr
  case redacc => simp only [State.answerRedacc_eq hi]; exact s.mapCtxs_with_unc u _ _ _
  all_goals simp only [State.answerRedacc, hi]

theorem State.answerRedacc_unc (s : State) (o : BankOp) (st : Nat) : (s.answerRedacc o st).unc = s.unc := by
  cases hi : o.instr
  case redacc => rw [State.answerRedacc_eq hi]; exact s.mapCtxs_unc _ _ _
  all_goals simp only [State.answerRedacc, hi]

/-! ### The line that a REDACC leaves -/

theorem Elem.ofImages_length {ns : List Nat} {es : List Elem} (h : Elem.ofImages ns = some es) : es.length = ns.length := by
  induction ns generalizing es with
  | nil =>
    cases h
    rfl
  | cons n ns ih =>
    rw [Elem.ofImages] at h
    split at h
    · next e es' _ hes =>
      cases h
      exact congrArg (· + 1) (ih hes)
    · cases h

theorem redaccResult_invalid {tagged : Option (BitVec 10)} {an : BitVec 10} {line src : Nat}
    (h : Elem.ofImages (lineImages src) = none) : redaccResult tagged an line src = (2, line) := by
  simp only [redaccResult, h]

/-- The combined images of a line and its sources (R65). -/
def combinedLine (ls xs : List Elem) : Nat := packElems 128 ((List.zipWith Elem.combine ls xs).map Elem.image)

theorem redaccResult_valid {tagged : Option (BitVec 10)} {an : BitVec 10} {line src : Nat} {xs ls : List Elem}
    (hx : Elem.ofImages (lineImages src) = some xs) (hl : Elem.ofImages (lineImages line) = some ls)
    (ht : tagged = none ∨ tagged = some an) : redaccResult tagged an line src = (0, combinedLine ls xs) := by
  have hown : (tagged.isSome && decide (tagged ≠ some an)) = false := by rcases ht with h | h <;> simp [h]
  simp only [redaccResult, hx, hl, hown]
  rfl

theorem combinedLine_lt {line : Nat} {ls : List Elem} (hl : Elem.ofImages (lineImages line) = some ls) (xs : List Elem)
    {m : Nat} (hm : 8 * 128 ≤ m) : combinedLine ls xs < 2 ^ m := by
  have hlen : ls.length = 8 := (Elem.ofImages_length hl).trans (by simp [lineImages, elems])
  have hbits : 128 * ((List.zipWith Elem.combine ls xs).map Elem.image).length ≤ m := by
    rw [List.length_map, List.length_zipWith, hlen]
    omega
  exact lt_of_lt_of_le (packElems_lt 128 _) (Nat.pow_le_pow_right Nat.two_pos hbits)

theorem toNat_ofNat_lt {w m v : Nat} (hv : v < 2 ^ m) (h : m = w) : (BitVec.ofNat w v).toNat = v :=
  (BitVec.toNat_ofNat v w).trans (Nat.mod_eq_of_lt (h ▸ hv))

theorem State.toNat_bankLine (s : State) (tag : Nat) : (s.bankLine tag).toNat = s.unc.hbm.value (128 * tag) 128 :=
  toNat_ofNat_lt (Memory.value_lt ..) rfl

theorem lineGet_ofNat {v m : Nat} (hv : v < 2 ^ m) (hm : m = 1024) (i : Nat) :
    lineGet (BitVec.ofNat 1024 v) i 1 = elemAt 8 v i := by
  rw [lineGet, toNat_ofNat_lt hv hm]
  rfl

theorem getLsbD_allOnes_line (i : Nat) : (BitVec.allOnes 128).getLsbD i = decide (0 ≤ i ∧ i < 0 + 128) := by
  rw [BitVec.getLsbD_allOnes]
  simp

/-- A whole line written by a bank's unit. -/
theorem State.unitWrite_line {s : State} {tag v : Nat} (hl : s.unc.lines = []) (hm : s.unc.hbm.wf = true) (hv : v < 2 ^ (8 * 128))
    (o : BankOp) : ∃ u, s.unitWrite o tag (BitVec.allOnes 128) (BitVec.ofNat 1024 v) = { s with unc := u } ∧
      s.unc.Stored u (128 * tag) 128 v :=
  State.unitWrite_stored o hl hm getLsbD_allOnes_line
    (fun i _ => (lineGet_ofNat hv rfl (0 + i)).trans (congrArg (elemAt 8 v) (Nat.zero_add i))) hv

section
variable {s : State} {o : BankOp} {addr : Nat}

theorem State.combineAt_invalid (h : Elem.ofImages (lineImages o.images) = none) (tag : Nat) :
    s.combineAt o tag = s.answerRedacc o 2 := by
  simp only [State.combineAt, redaccResult_invalid h]
  rfl

theorem State.combineAt_valid {xs ls : List Elem} (hx : Elem.ofImages (lineImages o.images) = some xs) {tag : Nat}
    (hl : Elem.ofImages (lineImages (s.unc.hbm.value (128 * tag) 128)) = some ls)
    (ht : NatMap.get s.unc.anchors tag = none ∨ NatMap.get s.unc.anchors tag = some o.anchor)
    (hlines : s.unc.lines = []) (hm : s.unc.hbm.wf = true) :
    ∃ u, s.combineAt o tag = State.answerRedacc { s with unc := u } o 0 ∧ s.unc.Stored u (128 * tag) 128 (combinedLine ls xs) ∧
      NatMap.get u.anchors tag = some o.anchor := by
  obtain ⟨u, hwrite, hu⟩ := State.unitWrite_line hlines hm (combinedLine_lt hl xs le_rfl) o (tag := tag)
  refine ⟨{ u with anchors := u.anchors.set tag o.anchor }, ?_, ⟨hu.ops, hu.directory, hu.value, hu.keep⟩, NatMap.get_set_self ..⟩
  simp only [State.combineAt, s.toNat_bankLine, redaccResult_valid hx hl ht, hwrite]
  rfl

/-- A REDACC whose line can be had leaves what it combines, and leaves the list. -/
theorem exec_redaccApply_run (h : s.BankIdle o addr) (hnext : s.nextOp BankOp.isRedacc = some o)
    (hdir : (s.combineAt o (addr / 128)).unc.directory = []) :
    exec .redaccApply s = .next { (s.combineAt o (addr / 128)).dropOp o with stalled := false } := by
  refine runEvent_ok ((Op.bind_ok (Op.get_run s)).trans ((Op.get!_bind hnext _ s).trans ?_))
  rw [h.site]
  refine (Op.bind_ok (Op.bankObtain_here h.here h.cls h.lines)).trans ?_
  refine (Op.bind_ok (Op.bankCheck_clean h.flips o addr addr 128 3)).trans ((Op.bind_ok (Op.modify_run _ s)).trans ?_)
  rw [State.opSettled_clean h.flips, State.bankRelease_none hdir]
  rfl

theorem State.dropOp_answerRedacc (s : State) (o p : BankOp) (st : Nat) :
    (s.answerRedacc o st).dropOp p = (s.dropOp p).answerRedacc o st := by
  unfold State.dropOp
  rw [s.answerRedacc_unc]
  exact (s.answerRedacc_with_unc _ o st).symm

end

/-- The state in which a REDACC has combined its line, answered, and left the list. -/
theorem State.answered_redacc {s : State} {o : BankOp} {addr n v : Nat} {u : Uncore} {d a b : BitVec 6} {rel : Bool} {sc : Scope}
    (hinstr : o.instr = .redacc d a b rel sc) (hu : s.unc.Stored u addr n v) :
    let t : State := { (State.answerRedacc { s with unc := u } o 0).dropOp o with stalled := false }
    t.unc.bankOps = s.unc.bankOps.erase o ∧ t.unc.hbm.value addr n = v ∧
      (∀ b, b < addr ∨ addr + n ≤ b → t.unc.hbm.get b = s.unc.hbm.get b) ∧ t.unc.anchors = u.anchors ∧
      ∀ c, s.findCore o.core = some c → ∀ x, c.findCtx o.ctx = some x →
        ∃ c' x', t.findCore o.core = some c' ∧ c'.findCtx o.ctx = some x' ∧ x'.gval d.toNat = 0 ∧
          (d ≠ 0 → x'.pendG.getLsbD d.toNat = false) ∧ x'.pc = x.pc := by
  intro t
  have hunc : t.unc = { u with bankOps := u.bankOps.erase o } := by simp [t, State.dropOp, State.answerRedacc_unc]
  refine ⟨by rw [hunc, ← hu.ops], by rw [hunc]; exact hu.value, by rw [hunc]; exact hu.keep, by rw [hunc], fun c hc x hx => ?_⟩
  obtain ⟨ids, hids⟩ := State.opTargets_eq { s with unc := u } o
  have hans : State.answerRedacc { s with unc := u } o 0 = State.mapCtxs { s with unc := u } (o.core :: ids) o.ctx
      (fun x => x.takeToken d 0) := by rw [State.answerRedacc_eq hinstr, hids]; rfl
  have hctx : State.CtxHas { s with unc := u } o.core o.ctx (· = x) := ⟨c, x, hc, hx, rfl⟩
  have hdone (y : Ctx) (hy : y.pc = x.pc) : (y.takeToken d 0).gval d.toNat = 0 ∧
      (d ≠ 0 → (y.takeToken d 0).pendG.getLsbD d.toNat = false) ∧ (y.takeToken d 0).pc = x.pc :=
    ⟨y.gval_takeToken_zero d, fun h => Ctx.pendG_takeToken h y 0, (y.takeToken_pc d 0).trans hy⟩
  have hhas := State.ctxHas_mapCtxs (ids := ids) (P := (· = x)) (f := fun y => y.takeToken d 0)
    (Q := fun y => y.gval d.toNat = 0 ∧ (d ≠ 0 → y.pendG.getLsbD d.toNat = false) ∧ y.pc = x.pc) hctx (fun y => y.takeToken_num d 0)
    (fun y hy => hdone y (by rw [hy])) (fun y hy => hdone y hy.2.2)
  rw [← hans] at hhas
  exact hhas

end Sys2Proof.Machine

open Sys2Proof Sys2Proof.Machine in
/-- Settles O29: the operation chosen is of its unit's oldest, one at a bank that holds nothing back runs through, and its write is of the
bytes it names. -/
theorem bankOperationsAct : Obligations.BankOperationsAct := by
  unfold Obligations.BankOperationsAct
  refine ⟨fun s kind o h => ?_, fun s kind o p hp hk hold => ?_, ?_, ?_, ?_, ?_⟩
  · obtain ⟨hmem, hk⟩ := State.mem_of_nextOp h
    exact ⟨hk, State.mem_unitHeads.mp hmem⟩
  · exact State.nextOp_isSome (State.mem_unitHeads.mpr ⟨p, hp, hold⟩) hk
  · intro s o addr n k v hnext hgroup hsite hop hn hcls hhere hfence hcas hmix hflips hlines hm ha hnew
    have hfar : o.far = true := (Bool.and_eq_true_iff.mp (State.mem_of_nextOp hnext).2).1
    have hv : v < 2 ^ (8 * o.n) := AtomicOp.new_lt (Memory.value_lt ..) (Nat.mod_lt _ (Nat.two_pow_pos _)) (hn ▸ hnew)
    have hsize : o.n = 4 ∨ o.n = 8 := hn ▸ atomicOf_size hop
    obtain ⟨u, hstore, hu⟩ := State.bankStore_eq hlines hm hsize (hn ▸ ha) hv
    rw [hn] at hu
    have hrun := Op.farExecute_run ⟨hsite, hcls, ⟨hhere, hfence⟩, hflips, hlines⟩ hmix hop hnew (Op.casRelease_run hop hfar hlines hcas)
    rw [hstore] at hrun
    exact ⟨_, ⟨exec_farAtomic_run hnext hgroup hrun, rfl⟩, State.answered_far _ hu⟩
  · intro s o off n k v c hnext hop hn hsite hc hf hnew
    exact exec_redApply_local hnext hop hn hsite hc hf hnew
  · intro s o addr n k v hnext hsite hop hn hcls hhere hfence hmix hflips hlines hdir hm ha hnew
    obtain ⟨u, hrun, hu⟩ := exec_redApply_bank ⟨hsite, hcls, ⟨hhere, hfence⟩, hflips, hlines⟩ hdir hnext hop hn hmix hm ha hnew
    exact ⟨_, ⟨hrun, rfl⟩, congrArg (List.erase · o) hu.ops, hu.value, hu.keep, rfl, rfl⟩
  · intro s o addr hnext hsite hcls hhere hfence hflips hlines hdir
    have hidle : s.BankIdle o addr := ⟨hsite, hcls, ⟨hhere, hfence⟩, hflips, hlines⟩
    refine ⟨fun hx => ?_, fun xs ls d a b rel sc hinstr hx hm ha hl htag => ?_⟩
    · have hcombine := State.combineAt_invalid (s := s) hx (addr / 128)
      have hrun := exec_redaccApply_run hidle hnext (by rw [hcombine, State.answerRedacc_unc, hdir])
      rw [hcombine, State.dropOp_answerRedacc] at hrun
      exact hrun
    · have haddr : 128 * (addr / 128) = addr := Nat.mul_div_cancel' (Nat.dvd_of_mod_eq_zero ha)
      obtain ⟨u, hcombine, hu, hanchor⟩ := State.combineAt_valid hx (haddr.symm ▸ hl) htag hlines hm
      have hrun := exec_redaccApply_run hidle hnext (by rw [hcombine, State.answerRedacc_unc]; exact hu.directory.trans hdir)
      rw [hcombine] at hrun
      rw [haddr] at hu
      obtain ⟨hops, hvalue, hkeep, hanchors, hctx⟩ := State.answered_redacc hinstr hu
      exact ⟨_, ⟨hrun, rfl⟩, hops, hvalue, hkeep, hanchors ▸ hanchor, hctx⟩

end

section
/-! O48, the take (R295, R296): the oldest command leaves its queue by what its checks lead to. -/

namespace Sys2Proof.Machine

/-! ### The end of a copy (R298, R299) -/

@[simp] theorem LCore.mapCtx_copies (c : LCore) (n : Nat) (f : Ctx → Ctx) : (c.mapCtx n f).copies = c.copies := by
  unfold LCore.mapCtx; split <;> rfl

section
variable {u : State} {id : CoreId} {c : LCore} {x : Ctx} {m : CopyCmd} (token : Word) (hu : u.findCore id = some c)
  (hx : c.findCtx m.ctx = some x) (hl : u.unc.lines = [])

include hl in
theorem State.copyEnd_eq : u.copyEnd id m token = u.mapCtx id m.ctx (·.takeToken m.tok token) :=
  (State.copyEnd_no_lines hl ..).trans (State.writeToken_eq ..)

include hl in
theorem State.sameAround_copyEnd : u.SameAround (u.copyEnd id m token) := by
  rw [State.copyEnd_eq token hl]
  exact u.sameAround_mapCore id _

include hl in
theorem State.core_copyEnd : (u.copyEnd u.core.id m token).core = u.core.mapCtx m.ctx (·.takeToken m.tok token) := by
  rw [State.copyEnd_eq token hl, State.mapCtx, State.mapCore_focus]

include hl hu in
theorem State.findCore_copyEnd : (u.copyEnd id m token).findCore id = some (c.mapCtx m.ctx (·.takeToken m.tok token)) := by
  rw [State.copyEnd_eq token hl]
  exact State.findCore_mapCore (f := (·.mapCtx m.ctx _)) hu ((LCore.mapCtx_core_id ..).trans (State.id_of_findCore hu))

include hl hu hx in
theorem State.hasToken_copyEnd : (u.copyEnd id m token).HasToken id m.ctx m.tok token :=
  ⟨_, x.takeToken m.tok token, State.findCore_copyEnd token hu hl,
    LCore.findCtx_mapCtx_same hx ((Ctx.takeToken_num ..).trans (LCore.num_of_findCtx hx)),
    fun hr => ⟨Ctx.gval_takeToken_same hr .., Ctx.pendG_takeToken hr ..⟩⟩

end

/-- An event that ends a copy leaves its core as it was but for the token in its register, and nothing outside the cores changed. -/
theorem State.actsTo_copyEnd {s u : State} {i : Instr} {id : CoreId} {c : LCore} {x : Ctx} {m : CopyCmd} {token : Word}
    (hu : u.findCore id = some c) (hx : c.findCtx m.ctx = some x) (hl : u.unc.lines = []) (ha : s.SameAround u)
    (h : exec i s = .next { u.copyEnd id m token with stalled := false }) :
    ∃ t, s.ActsTo i t ∧ t.findCore id = some (c.mapCtx m.ctx (·.takeToken m.tok token)) ∧ s.SameAround t ∧
      t.HasToken id m.ctx m.tok token :=
  ⟨_, ⟨h, rfl⟩, State.findCore_copyEnd token hu hl, ha.trans (State.sameAround_copyEnd token hl), State.hasToken_copyEnd token hu hx hl⟩

/-! ### The take (R295) -/

/-- The core once its oldest copy command has left the queue. -/
def LCore.popCopy (c : LCore) (rest : List CopyCmd) : LCore := { c with copies := { c.copies with queue := rest } }

/-- A resident core with room for another copy in flight, and the command whose turn it is. -/
structure State.TakesCopy (s : State) (id : CoreId) (c : LCore) (m : CopyCmd) (rest : List CopyCmd) : Prop where
  found : s.findCore id = some c
  resident : c.resident = true
  room : c.copies.flight.length < 1024
  queue : c.copies.queue = m :: rest

/-- The agent of the command at its take. -/
def State.copyAgent (s : State) (c : LCore) (m : CopyCmd) : Agent := s.engineAgent c m.ctx m.sevpol m.scope

/-- A command in flight from its take on. -/
def State.copyStarted (s : State) (c : LCore) (m : CopyCmd) (sh : Shape) : CopyRun :=
  ⟨m, sh, 0, 0, none, false, none, s.ocHeld c.slot c.regs.queue.toNat [sh.src, sh.dst, sh.aux], false⟩

/-- The core with a command in flight that was its oldest in the queue. -/
def LCore.startCopy (c : LCore) (rest : List CopyCmd) (r : CopyRun) : LCore :=
  { c with copies := ⟨rest, c.copies.flight ++ [r]⟩ }

/-- What a take leaves where its checks have led to `r` in the state `s`, and the command need not wait. -/
def State.copyTaken (s : State) (id : CoreId) (c : LCore) (m : CopyCmd) (rest : List CopyCmd) : TakeResult → Option State
  | .refuse cause operand => some ((s.mapCore id (·.popCopy rest)).copyEnd id m (copyToken 0 cause operand 0x10))
  | .stop cause eaddr einfo precise => some ((s.mapCore id (·.popCopy rest)).copyStop id m 0 4 cause eaddr einfo precise)
  | .go sh => some (if sh.total = 0 then (s.countDelayed.mapCore id (·.popCopy rest)).copyEnd id m (copyToken 0 0 0 0)
      else s.countDelayed.mapCore id (·.startCopy rest (s.countDelayed.copyStarted c m sh)))
  | .wait .. | .hold .. => none

section
variable {s s₁ t : State} {id : CoreId} {c : LCore} {x : Ctx} {m : CopyCmd} {rest : List CopyCmd} (h : s.TakesCopy id c m rest)
include h

theorem exec_copyTake {r : TakeResult} (hr : Op.takeChecks (s.copyAgent c m) c m s = .ok (r, s₁))
    (ht : s₁.copyTaken id c m rest r = some t) : exec (.copyTake id) s = .next { t with stalled := false } := by
  have hready : (c.resident && decide (c.copies.flight.length < Config.copiesInFlight)) = true := by
    rw [h.resident]
    exact decide_eq_true h.room
  refine runEvent_ok ((Op.bind_ok (Op.get_run s)).trans ((Op.get!_bind h.found _ s).trans ((Op.need_bind hready _ s).trans ?_)))
  rw [h.queue]
  refine (Op.bind_ok hr).trans ?_
  cases r with
  | wait | hold => cases ht
  | refuse | stop =>
    cases ht
    rfl
  | go sh =>
    cases ht
    refine (Op.bind_ok (Op.modify_run _ s₁)).trans ?_
    by_cases htotal : sh.total = 0
    · rw [if_pos htotal, if_pos htotal]
      rfl
    · rw [if_neg htotal, if_neg htotal]
      rfl

theorem State.TakesCopy.core_id : c.id = id := State.id_of_findCore h.found

theorem State.findCore_popCopy : (s.mapCore id (·.popCopy rest)).findCore id = some (c.popCopy rest) :=
  State.findCore_mapCore h.found h.core_id

theorem State.takes_refused_copy {cause operand : Nat} (hx : c.findCtx m.ctx = some x) (hl : s.unc.lines = [])
    (hr : Op.takeChecks (s.copyAgent c m) c m s = .ok (.refuse cause operand, s)) :
    ∃ t c', s.ActsTo (.copyTake id) t ∧ t.findCore id = some c' ∧ c'.copies = { c.copies with queue := rest } ∧ c'.lm = c.lm ∧
      s.SameAround t ∧ t.HasToken id m.ctx m.tok (Word.ofN (cause * 2 ^ 24 + operand * 2 ^ 16 + 0x10)) := by
  have htoken : copyToken 0 cause operand 0x10 = Word.ofN (cause * 2 ^ 24 + operand * 2 ^ 16 + 0x10) := by simp [copyToken]
  obtain ⟨t, ht, hc, ha, htok⟩ := State.actsTo_copyEnd (State.findCore_popCopy h) hx (by rwa [s.mapCore_unc])
    (s.sameAround_mapCore id _) (exec_copyTake h hr rfl)
  exact ⟨t, _, ht, hc, LCore.mapCtx_copies .., LCore.mapCtx_lm .., ha, htoken ▸ htok⟩

theorem State.takes_empty_copy {sh : Shape} (hx : c.findCtx m.ctx = some x) (hl : s.unc.lines = [])
    (hr : Op.takeChecks (s.copyAgent c m) c m s = .ok (.go sh, s)) (hz : sh.total = 0) :
    ∃ t c', s.ActsTo (.copyTake id) t ∧ t.findCore id = some c' ∧ c'.copies = { c.copies with queue := rest } ∧
      s.SameAround t ∧ t.HasToken id m.ctx m.tok 0 := by
  have hfound : (s.countDelayed.mapCore id (·.popCopy rest)).findCore id = some (c.popCopy rest) :=
    State.findCore_mapCore ((s.findCore_countDelayed id).trans h.found) h.core_id
  have ha : s.SameAround (s.countDelayed.mapCore id (·.popCopy rest)) := s.sameAround_countDelayed.trans (State.sameAround_mapCore ..)
  obtain ⟨t, ht, hc, hsame, htok⟩ := State.actsTo_copyEnd hfound hx (ha.1.symm ▸ hl) ha
    (exec_copyTake h hr (congrArg some (if_pos hz)))
  exact ⟨t, _, ht, hc, LCore.mapCtx_copies .., hsame, htok⟩

theorem State.takes_started_copy {sh : Shape} (hr : Op.takeChecks (s.copyAgent c m) c m s = .ok (.go sh, s)) (hz : sh.total ≠ 0) :
    ∃ t c', s.ActsTo (.copyTake id) t ∧ t.findCore id = some c' ∧
      c'.copies = ⟨rest, c.copies.flight ++ [s.copyStarted c m sh]⟩ ∧ c'.ctx = c.ctx ∧ c'.lm = c.lm ∧ s.SameAround t := by
  have hheld : s.countDelayed.copyStarted c m sh = s.copyStarted c m sh := by
    unfold State.countDelayed
    split <;> rfl
  refine ⟨_, _, ⟨exec_copyTake h hr (congrArg some (if_neg hz)), rfl⟩,
    State.findCore_mapCore ((s.findCore_countDelayed id).trans h.found) h.core_id, ?_, rfl, rfl,
    s.sameAround_countDelayed.trans (State.sameAround_mapCore ..)⟩
  rw [hheld]
  rfl

/-- Where the checks let a command start, in whatever state they leave. -/
theorem State.takes_started_after {sh : Shape} (hr : Op.takeChecks (s.copyAgent c m) c m s = .ok (.go sh, s₁)) (hz : sh.total ≠ 0) :
    ∃ t, s.ActsTo (.copyTake id) t ∧ t.core.ctx = s₁.core.ctx ∧ t.unc = s₁.unc ∧ t.dies = s₁.dies ∧
      ∀ c', s₁.findCore id = some c' → ∃ u r, t.findCore id = some u ∧ u.copies = ⟨rest, c'.copies.flight ++ [r]⟩ ∧ r.cmd = m ∧
        r.shape = sh ∧ r.slots = 0 ∧ r.base = 0 ∧ r.frame = none ∧ u.lm = c'.lm := by
  have ha (f : LCore → LCore) : s₁.SameAround (s₁.countDelayed.mapCore id f) :=
    s₁.sameAround_countDelayed.trans (State.sameAround_mapCore ..)
  have hcore : s₁.countDelayed.core = s₁.core := by
    unfold State.countDelayed
    split <;> rfl
  refine ⟨_, ⟨exec_copyTake h hr (congrArg some (if_neg hz)), rfl⟩, ?_, (ha _).1, (ha _).2.2.1, fun c' hc => ⟨_, _,
    State.findCore_mapCore ((s₁.findCore_countDelayed id).trans hc) (State.id_of_findCore (c := c') hc), rfl, rfl, rfl, rfl, rfl, rfl, rfl⟩⟩
  unfold State.mapCore
  split <;> simp [hcore, LCore.startCopy]

end

/-! ### The checks of a CPY that need no access (R296, step 2) -/

section
variable {ag : Agent} {c : LCore} {m : CopyCmd} (s : State) (hcpy : m.isCpy = true)
include hcpy

theorem Op.takeChecks_reserved (h : m.gb.bits 63 20 ≠ 0 ∨ m.gb.bits 5 4 ≠ 0 ∨ 6 ≤ m.gb.bits 2 0) :
    Op.takeChecks ag c m s = .ok (.refuse cILL 6, s) := by
  have hbits : (m.gb.bits 63 20 ≠ 0 || m.gb.bits 5 4 ≠ 0 || 6 ≤ m.gb.bits 2 0) = true := by simpa [or_assoc] using h
  simp only [Op.takeChecks, hcpy, hbits]
  rfl

variable (h63 : m.gb.bits 63 20 = 0) (h5 : m.gb.bits 5 4 = 0) (h2 : m.gb.bits 2 0 < 6)
include h63 h5 h2

theorem Op.takeChecks_residual (hb : m.gb.getLsbD 3 = true) (hx : m.gb.bits 19 6 * 64 < c.xbTake.toNat) :
    Op.takeChecks ag c m s = .ok (.refuse cXDATA 6, s) := by
  have hlow : (m.hb && decide (m.residualAt < c.xbTake.toNat)) = true := by
    simp only [CopyCmd.hb, hcpy, hb, CopyCmd.residualAt, hx, decide_true, Bool.and_self]
  simp only [Op.takeChecks, hcpy, h63, h5, h2.not_ge, hlow]
  rfl

theorem Op.takeChecks_record (hb : m.gb.getLsbD 3 = false) (ha : m.ga.toNat % 64 ≠ 0) :
    Op.takeChecks ag c m s = .ok (.refuse cMISAL 4, s) := by
  have hlow : (m.hb && decide (m.residualAt < c.xbTake.toNat)) = false := by simp only [CopyCmd.hb, hb, Bool.and_false, Bool.false_and]
  simp only [Op.takeChecks, hcpy, h63, h5, h2.not_ge, hlow]
  rw [if_pos ha]
  rfl

end

end Sys2Proof.Machine
end

section
/-! O48, the events of a copy in flight on a core that is no twin: its end, a broken or waiting ring (R292), and a frame that is not
resident (R303). -/

namespace Sys2Proof.Machine

/-! ### One copy alone (R433) -/

/-- The task of a logical core is not twinned. -/
def State.Single (s : State) (id : CoreId) : Prop := ∀ k, s.findTask id.task = some k → k.twin = false

section
variable {s s₁ : State} {id : CoreId} {place : Nat} (h : s.Single id)
include h

theorem Op.copyPaired_single (f : CoreId → Op (List Nat)) : Op.copyPaired id place f s = (discard (f id) : Op Unit) s := by
  refine (Op.bind_ok (Op.get_run s)).trans ?_
  cases hk : s.findTask id.task with
  | none => rfl
  | some k => simp only [h k hk]; rfl

theorem runEvent_copyPaired {f : CoreId → Op (List Nat)} {log : List Nat} (hf : f id s = .ok (log, s₁)) :
    runEvent (Op.copyPaired id place f) s = .next { s₁ with stalled := false } :=
  runEvent_ok ((Op.copyPaired_single h f).trans (Op.discard_ok hf))

theorem runEvent_copyPaired_stall {f : CoreId → Op (List Nat)} (hf : f id s = .error .stall) :
    runEvent (Op.copyPaired id place f) s = .next { s with stalled := true } :=
  runEvent_stall ((Op.copyPaired_single h f).trans (Op.discard_error hf))

variable {log : List Nat}

theorem exec_copyComplete (hf : Op.copyFinish id place s = .ok (log, s₁)) :
    exec (.copyComplete id place) s = .next { s₁ with stalled := false } :=
  runEvent_copyPaired (f := fun id => Op.copyFinish id place) h hf

theorem exec_copyRingSlotReady (hf : Op.copySlot id place s = .ok (log, s₁)) :
    exec (.copyRingSlotReady id place) s = .next { s₁ with stalled := false } :=
  runEvent_copyPaired (f := fun id => Op.copySlot id place) h hf

theorem exec_copyRingSlotReady_stall (hf : Op.copySlot id place s = .error .stall) :
    exec (.copyRingSlotReady id place) s = .next { s with stalled := true } :=
  runEvent_copyPaired_stall (f := fun id => Op.copySlot id place) h hf

theorem exec_copyFrameFault (hf : Op.copyFault id place s = .ok (log, s₁)) :
    exec (.copyFrameFault id place) s = .next { s₁ with stalled := false } :=
  runEvent_copyPaired (f := fun id => Op.copyFault id place) h hf

end

/-- A copy in flight on a resident core. -/
structure State.Flies (s : State) (id : CoreId) (c : LCore) (r : CopyRun) (place : Nat) : Prop where
  found : s.findCore id = some c
  flight : c.copies.flight[place]? = some r
  resident : c.resident = true

/-- A slot of the ring is there to be read, or to be filled (R292). -/
def CopyRun.slotReady (r : CopyRun) (ring : Ring) : Bool :=
  if r.shape.srcRing then 1 ≤ ring.filled else ring.filled < ring.slots

/-! ### Ring copies (R292) -/

section
variable {s s₁ : State} {id : CoreId} {c : LCore} {r : CopyRun} {place : Nat} (h : s.Flies id c r place)
include h

theorem State.findCore_dropCopy : (s.mapCore id (·.dropCopy place)).findCore id = some (c.dropCopy place) :=
  State.findCore_mapCore h.found (State.id_of_findCore (c := c) h.found)

section
variable (hring : r.onRing = true)
include hring

theorem Op.copySlot_broken (hb : (c.ring r.shape.ring).broken = true) : Op.copySlot id place s = .ok ([],
    (s.mapCore id (·.dropCopy place)).copyEnd id r.cmd
      (copyToken (r.doneAt (r.shape.before (r.slots * r.shape.slotRows))) 0 0 0x12)) := by
  have hready : (c.resident && r.onRing) = true := by rw [h.resident, hring]; rfl
  refine (Op.bind_ok (Op.get_run s)).trans ((Op.get!_bind h.found _ s).trans ((Op.get!_bind h.flight _ s).trans ?_))
  refine (Op.need_bind hready _ s).trans ?_
  rw [if_pos hb]
  rfl

theorem State.broken_copy_ends {x : Ctx} (hsingle : s.Single id) (hb : (c.ring r.shape.ring).broken = true)
    (hx : c.findCtx r.cmd.ctx = some x) (hl : s.unc.lines = []) :
    ∃ t c', s.ActsTo (.copyRingSlotReady id place) t ∧ t.findCore id = some c' ∧
      c'.copies = { c.copies with flight := c.copies.flight.eraseIdx place } ∧ c'.rings = c.rings ∧ s.SameAround t ∧
      t.HasToken id r.cmd.ctx r.cmd.tok
        (Word.ofN ((r.base + r.shape.before (r.slots * r.shape.slotRows)) % 2 ^ 32 * 2 ^ 32 + 0x12)) := by
  obtain ⟨t, ht, hc, ha, htok⟩ := State.actsTo_copyEnd (State.findCore_dropCopy h) hx (by rwa [s.mapCore_unc])
    (s.sameAround_mapCore id _) (exec_copyRingSlotReady hsingle (Op.copySlot_broken h hring hb))
  refine ⟨t, _, ht, hc, LCore.mapCtx_copies .., LCore.mapCtx_rings .., ha, ?_⟩
  simpa only [copyToken, CopyRun.doneAt, Nat.zero_mul, Nat.add_zero] using htok

theorem Op.copySlot_waits (hb : (c.ring r.shape.ring).broken = false) (hslot : r.slotReady (c.ring r.shape.ring) = false) :
    Op.copySlot id place s = .error .stall := by
  have hready : (c.resident && r.onRing) = true := by rw [h.resident, hring]; rfl
  refine (Op.bind_ok (Op.get_run s)).trans ((Op.get!_bind h.found _ s).trans ((Op.get!_bind h.flight _ s).trans ?_))
  refine (Op.need_bind hready _ s).trans ?_
  rw [if_neg (by simp [hb])]
  exact Op.need_bind_stall hslot _ s

end

/-! ### A frame that is not resident (R303) -/

section
variable {m : Moving} {operand desc : Nat} {ref : Word} (hframe : r.frame = none)
include hframe

/-- What a copy that meets a frame which is not resident leaves where it waits: the frame asked for, and named. -/
def State.copyWaits (s : State) (id : CoreId) (c : LCore) (r : CopyRun) (place : Nat) (ag : Agent) (ref : Word) (desc : Nat) : State :=
  (s.requestResidency ag ref desc 3 (dieOf c.slot)).mapCore id
    fun (c : LCore) => c.putCopy place { r with frame := some (Word.ofN (ref.toNat / 65536 * 65536)) }

/-- What it leaves where it hands back: its residual record and its token, and EVENTS.HANDBACK (R304). -/
def State.handedBack (s : State) (id : CoreId) (c : LCore) (r : CopyRun) (place : Nat) (ag : Agent) (m : Moving) (operand : Nat)
    (ref : Word) (desc : Nat) : State :=
  (((((s.requestResidency ag ref desc 3 (dieOf c.slot)).lmWrite id r.cmd.residualAt
    ((r.shape.residual m.done).1.words.flatMap fun (w : Word) => bytesOf 8 w.toNat)).mapCore id
      fun (c : LCore) => c.dropCopy place).copyEnd id r.cmd (copyToken (r.base + m.done) cFRAME operand 0x15)).mapCtx id r.cmd.ctx
        fun (x : Ctx) => x.raiseHandback ref (Word.ofN r.cmd.tok.toNat))

section
variable (hsrc : r.shape.srcRing = false) (hdst : r.shape.dstRing = false)
  (hmove : let j := s.copyJob id c r r.shape r.shape.src r.shape.dst 0 r.shape.rows
    Op.moveRows j.1 r.shape r.shape.src r.shape.dst r.shape.rows 0 j.2 s = .ok ((m, some (operand, .notres ref desc)), s₁))
include hsrc hdst hmove

theorem Op.copyFault_waits (hb : r.cmd.hb = false) : Op.copyFault id place s = .ok ([],
    s.copyWaits id c r place (s.copyJob id c r r.shape r.shape.src r.shape.dst 0 r.shape.rows).1.ag ref desc) := by
  have hready : (c.resident && r.frame.isNone) = true := by rw [h.resident, hframe]; rfl
  refine (Op.bind_ok (Op.get_run s)).trans ((Op.get!_bind h.found _ s).trans ((Op.get!_bind h.flight _ s).trans ?_))
  refine (Op.need_bind hready _ s).trans ?_
  simp only [CopyRun.onRing, hsrc, hdst]
  refine (Op.bind_ok hmove).trans ?_
  simp only [hb]
  rfl

theorem Op.copyFault_handsBack (hb : r.cmd.hb = true) (hrun : m.run = none) : Op.copyFault id place s = .ok (m.log,
    s₁.handedBack id c r place (s.copyJob id c r r.shape r.shape.src r.shape.dst 0 r.shape.rows).1.ag m operand ref desc) := by
  have hready : (c.resident && r.frame.isNone) = true := by rw [h.resident, hframe]; rfl
  have hflush (j : CopyJob) : Op.flushRun j m s₁ = .ok (m, s₁) := by
    rw [Op.flushRun, hrun]
    rfl
  refine (Op.bind_ok (Op.get_run s)).trans ((Op.get!_bind h.found _ s).trans ((Op.get!_bind h.flight _ s).trans ?_))
  refine (Op.need_bind hready _ s).trans ?_
  simp only [CopyRun.onRing, hsrc, hdst]
  refine (Op.bind_ok hmove).trans ?_
  simp only [hb]
  exact (Op.bind_ok (hflush _)).trans rfl

end

/-- A ring copy waits, whatever its command word says: its slot is moved whole or not at all (R304). -/
theorem Op.copyFault_ring_waits (hring : r.onRing = true) (hbroken : (c.ring r.shape.ring).broken = false)
    (hslot : r.slotReady (c.ring r.shape.ring) = true) {src dst at_ : Word}
    (hat : at_ = Word.ofN ((c.ring r.shape.ring).slotAt
      (if r.shape.srcRing then (c.ring r.shape.ring).consumer else (c.ring r.shape.ring).producer)))
    (hsrc : src = if r.shape.srcRing then r.shape.src + at_ else r.shape.src)
    (hdst : dst = if r.shape.dstRing then r.shape.dst + at_ else r.shape.dst)
    (hmove : let j := s.copyJob id c r r.shape src dst (r.slots * r.shape.slotRows) r.shape.slotRows
      Op.moveRows j.1 r.shape src dst r.shape.slotRows (r.slots * r.shape.slotRows) j.2 s =
        .ok ((m, some (operand, .notres ref desc)), s₁)) :
    Op.copyFault id place s = .ok ([], s.copyWaits id c r place
      (s.copyJob id c r r.shape src dst (r.slots * r.shape.slotRows) r.shape.slotRows).1.ag ref desc) := by
  have hready : (c.resident && r.frame.isNone) = true := by rw [h.resident, hframe]; rfl
  have hgo : (!(c.ring r.shape.ring).broken && r.slotReady (c.ring r.shape.ring)) = true := by rw [hbroken, hslot]; rfl
  subst hat hsrc hdst
  refine (Op.bind_ok (Op.get_run s)).trans ((Op.get!_bind h.found _ s).trans ((Op.get!_bind h.flight _ s).trans ?_))
  refine (Op.need_bind hready _ s).trans ?_
  simp only [hring]
  refine (Op.need_bind hgo _ s).trans ((Op.bind_ok hmove).trans ?_)
  simp only [Bool.not_true, Bool.and_false]
  rfl

end

end

end Sys2Proof.Machine
end

section
/-! O48, a copy within a sector of the core's own local memory (R297): one movement, read and written whole. -/

namespace Sys2Proof.Machine

/-! ### An engine at its core's own local memory, within one sector -/

/-- `n` bytes from a reference of the own local memory on, within one sector. -/
structure InSector (ref : Word) (n : Nat) : Prop where
  handle : refHandle ref = 0
  some : 1 ≤ n
  fits : refOffset ref % 32 + n ≤ 32

theorem piecesOf_inSector {ref : Word} {n : Nat} (h : InSector ref n) : piecesOf ref n = [(ref, n)] := by
  have hn : n ≠ 0 := Nat.ne_of_gt h.some
  have hmin : min n (32 - refOffset ref % 32) = n := by
    have := h.fits
    omega
  simp [piecesOf, pieces, hn, hmin]

theorem Op.localLoad_own {s : State} (hf : s.core.lmFlips = []) (ag : Agent) (a : Acc) (off : Nat) :
    Op.localLoad ag a s.core.id off s = .ok (s.core.lm.value off a.n, s) := by
  refine (Op.bind_ok (Op.lmCheck_clean hf ag a off a.n)).trans ((Op.bind_ok (Op.get_run s)).trans ?_)
  rw [s.findCore_self]
  rfl

section
variable {s : State} {ag : Agent} (hag : ag.core = s.core.id)
include hag

theorem Op.spot_own {a : Acc} (h : refHandle a.ref = 0) (isRead : Bool) :
    Op.spot ag a isRead s = .ok (.ok (.local s.core.id (refOffset a.ref)), s) := by
  have hspot : s.localSpot ag a.ref = some (.local s.core.id (refOffset a.ref)) := by
    simp only [State.localSpot, hag, s.findCore_self, h]
    rfl
  refine (Op.bind_ok (Op.get_run s)).trans ?_
  rw [if_pos (h.trans_le (Nat.zero_le 1)), hspot]
  rfl

theorem Op.engineRead_own {ref : Word} {n : Nat} (h : InSector ref n) (hf : s.core.lmFlips = []) (seen : Sectors) :
    Op.engineRead ag ref n seen s = .ok (⟨n, s.core.lm.value (refOffset ref) n, 0, seen, none⟩, s) := by
  have hpiece (a : Acc) (ha : refHandle a.ref = 0) : Op.enginePiece ag a seen s =
      .ok ((.ok (s.core.lm.value (refOffset a.ref) a.n, 0), seen), s) := by
    have hload : Op.attempt (Op.localLoad ag a s.core.id (refOffset a.ref)) s =
        .ok (.ok (s.core.lm.value (refOffset a.ref) a.n), s) := by
      rw [Op.attempt, Op.localLoad_own hf]
    exact (Op.bind_ok (Op.spot_own hag ha true)).trans (Op.bind_ok hload)
  rw [Op.engineRead, piecesOf_inSector h]
  refine (Op.bind_ok (hpiece ⟨ref, n, 0xF, 0, 0⟩ h.handle)).trans ?_
  simp [Op.readPieces, ReadRun.countedTwice, ReadRun.join, straddle]

/-- The bytes of the value stand in local memory, and no other changes. -/
theorem Op.engineWrite_own (hq : s.Quiet) (hm : s.core.lm.wf = true) {ref : Word} {n v : Nat} (h : InSector ref n)
    (hv : v < 2 ^ (8 * n)) : ∃ lm dirty, Op.engineWrite ag false ref n v s = .ok ((n, none), s.withLm lm dirty) ∧
      ∀ p, lm.get p = (storedByte (refOffset ref) n v (2 ^ n - 1) p).getD (s.core.lm.get p) := by
  obtain ⟨lm, dirty, hstore, -, hget⟩ :=
    Op.localStore_bytes hq hm ag ⟨ref, n, 0xF, 1, 0⟩ (refOffset ref) v (2 ^ n - 1)
  have hput : Op.enginePut ag ⟨ref, n, 0xF, 1, 0⟩ v s = .ok (none, s.withLm lm dirty) := by
    have htry : Op.attempt (Op.localStore ag ⟨ref, n, 0xF, 1, 0⟩ s.core.id (refOffset ref) v (2 ^ n - 1)) s =
        .ok (.ok (), s.withLm lm dirty) := by rw [Op.attempt, hstore]
    exact (Op.bind_ok (Op.spot_own hag h.handle false)).trans (Op.bind_ok htry)
  have hpieces : Op.putPieces ag (piecesOf ref n) v 0 s = .ok ((n, none), s.withLm lm dirty) := by
    rw [piecesOf_inSector h, Op.putPieces, Nat.mod_eq_of_lt hv]
    exact (Op.bind_ok hput).trans (by rw [Nat.zero_add]; rfl)
  refine ⟨lm, dirty, (Op.bind_ok hpieces).trans ?_, hget⟩
  simp only [Op.countRun, Bool.not_false, Bool.or_true]
  rfl

end

/-! ### A copy of bytes in a line (R42, R45) -/

theorem State.ranges_own {s : State} {ag : Agent} (hag : ag.core = s.core.id) {ref : Word} {n : Nat} (hr : InSector ref n) :
    s.ranges ag ref n = [(s.core.id.lcore + 2, refOffset ref, n)] := by
  simp [State.ranges, piecesOf_inSector hr, Op.spot_own hag (a := ⟨ref, n, 0xF, 0, 0⟩) hr.handle]

/-- Two ranges of one space that lie apart have no byte in common. -/
theorem rangesMeet_apart {k a b n : Nat} (hab : a + n ≤ b ∨ b + n ≤ a) : rangesMeet [(k, a, n)] [(k, b, n)] = false := by
  simp [rangesMeet]
  omega

theorem moveRef_zero (r : Word) : moveRef r 0 = r := BitVec.add_zero r

/-- A LINEAR record of `n` elements of 8 bits, on no ring, its sides within a sector each of the own local memory. -/
structure Shape.Bytes (sh : Shape) (n : Nat) : Prop where
  kind : sh.kind = 0
  layout : sh.layout = 4
  srcRing : sh.srcRing = false
  dstRing : sh.dstRing = false
  d0 : sh.d0 = n
  d1 : sh.d1 = 0
  src : InSector sh.src n
  dst : InSector sh.dst n

/-- Its one movement. -/
def Shape.byteMove (sh : Shape) (n : Nat) : Move := ⟨some sh.src, 0, sh.dst, n, 1, 1, 0, 1⟩

section
variable {sh : Shape} {n : Nat} (h : sh.Bytes n)
include h

theorem Shape.Bytes.le : n ≤ 32 := (Nat.le_add_left ..).trans h.src.fits

theorem Shape.Bytes.linear : sh.linear = true := by simp [Shape.linear, h.kind]

theorem Shape.Bytes.total : sh.total = n := by simp [Shape.total, h.linear, h.d0, h.d1]

theorem Shape.Bytes.rows : sh.rows = 1 := by
  have := h.src.some
  have := h.le
  rw [Shape.rows, h.total, if_neg (by omega), h.linear, if_pos rfl]
  omega

theorem Shape.Bytes.width : sh.width = 8 := by rw [Shape.width, h.layout]; rfl

theorem Shape.Bytes.unit : sh.unit = (1, 1) := by
  rw [Shape.unit, h.layout, h.width]
  rfl

theorem Shape.Bytes.line : sh.line sh.src sh.dst n = [.run (sh.byteMove n)] := by
  simp [Shape.line, h.unit, h.kind, h.layout, packedLayout, Shape.byteMove, Word.ofN]

theorem Shape.Bytes.parts (idx : Nat) : sh.parts sh.src sh.dst 0 idx = [.run (sh.byteMove n)] := by
  have hle := h.le
  have helems : sh.rowElems 0 = n := by
    simp only [Shape.rowElems, h.linear, h.total, if_true]
    omega
  have hsrc : sh.srcOff 0 = 0 := by simp [Shape.srcOff, h.linear, Shape.bytes]
  have hdst : sh.dstOff 0 = 0 := by simp [Shape.dstOff, h.linear, Shape.bytes]
  simp only [Shape.parts, h.kind, hsrc, hdst, helems, moveRef_zero]
  exact h.line

theorem State.allMoves_bytes (s : State) (ag : Agent) : s.allMoves ag sh sh.src sh.dst 0 1 = [sh.byteMove n] := by
  simp [State.allMoves, h.parts, Part.moves]

/-- A copy's progress after `k` elements, where nothing of an object has been read or written and nothing overlaps. -/
def Moving.after (k : Nat) : Moving := ⟨.start, k, none, [], none, 0⟩

theorem State.copyJob_bytes {s : State} (r : CopyRun)
    (hapart : refOffset sh.src + n ≤ refOffset sh.dst ∨ refOffset sh.dst + n ≤ refOffset sh.src) :
    ∃ j, s.copyJob s.core.id s.core r sh sh.src sh.dst 0 1 = (j, Moving.after 0) ∧ j.ag.core = s.core.id := by
  let ag : Agent := { s.engineAgent s.core r.cmd.ctx r.cmd.sevpol r.cmd.scope with
    core := s.core.id, under := r.under, hostBad := r.hostBad }
  have hsrc : s.ranges ag sh.src n = [(s.core.id.lcore + 2, refOffset sh.src, n)] := State.ranges_own rfl h.src
  have hdst : s.ranges ag sh.dst n = [(s.core.id.lcore + 2, refOffset sh.dst, n)] := State.ranges_own rfl h.dst
  refine ⟨⟨ag, !r.cmd.nofold, sh.width, []⟩, ?_, rfl⟩
  unfold State.copyJob
  simp only [State.allMoves_bytes h]
  exact if_neg (by simp [Shape.byteMove, ag, hsrc, hdst, rangesMeet_apart hapart])

theorem Op.moveRun_bytes {s t : State} {j : CopyJob} (hag : j.ag.core = s.core.id) (hf : s.core.lmFlips = [])
    (hwrite : Op.engineWrite j.ag false sh.dst n (s.core.lm.value (refOffset sh.src) n) s = .ok ((n, none), t)) :
    Op.moveRun j (.after 0) (sh.byteMove n) s = .ok ((.after n, none), t) := by
  have hread : Op.moveRead j (.after 0) (sh.byteMove n) s =
      .ok ((⟨n, s.core.lm.value (refOffset sh.src) n, 0, .start, none⟩, .after 0), s) :=
    (Op.bind_ok (Op.engineRead_own hag h.src hf .start)).trans rfl
  refine (Op.bind_ok hread).trans ?_
  simp only [Moving.after, Shape.byteMove, Nat.div_one, Nat.mul_one, Nat.mod_eq_of_lt (Memory.value_lt ..)]
  refine (Op.bind_ok hwrite).trans ?_
  simp [Op.noteWrite, h.dst.handle]

theorem Op.moveRows_bytes {s t : State} {j : CopyJob} (hag : j.ag.core = s.core.id) (hf : s.core.lmFlips = [])
    (hwrite : Op.engineWrite j.ag false sh.dst n (s.core.lm.value (refOffset sh.src) n) s = .ok ((n, none), t)) :
    Op.moveRows j sh sh.src sh.dst 1 0 (.after 0) s = .ok ((.after n, none), t) := by
  have hindex : Op.rowIndex j sh 0 (.after 0) s = .ok ((0, .after 0, none), s) := by
    rw [Op.rowIndex, h.kind]
    rfl
  have hparts : Op.moveParts j [.run (sh.byteMove n)] (.after 0) s = .ok ((.after n, none), t) :=
    (Op.bind_ok (Op.moveRun_bytes h hag hf hwrite)).trans rfl
  refine (Op.bind_ok hindex).trans ?_
  dsimp only
  rw [h.parts]
  exact (Op.bind_ok hparts).trans rfl

end

/-! ### Its end (R299) -/

/-- The oldest copy in flight of the core in focus, which is resident, has no bit flipped and runs no twin: bytes within a sector each
that lie apart. -/
structure State.CopiesBytes (s : State) (r : CopyRun) (rest : List CopyRun) (n : Nat) : Prop where
  quiet : s.Quiet
  wf : s.core.lm.wf = true
  flight : s.core.copies.flight = r :: rest
  base : r.base = 0
  bytes : r.shape.Bytes n
  apart : refOffset r.shape.src + n ≤ refOffset r.shape.dst ∨ refOffset r.shape.dst + n ≤ refOffset r.shape.src

/-- The core in focus with another local memory, once its oldest copy has left those in flight. -/
def State.copied (s : State) (lm : Memory) (dirty : List Nat) (rest : List CopyRun) : State :=
  { s with core := { s.core with lm := lm, blockDirty := dirty, copies := { s.core.copies with flight := rest } } }

section
variable {s : State} {r : CopyRun} {rest : List CopyRun} {n : Nat} (h : s.CopiesBytes r rest n)
include h

theorem State.CopiesBytes.drops (lm : Memory) (dirty : List Nat) :
    (s.withLm lm dirty).mapCore s.core.id (·.dropCopy 0) = s.copied lm dirty rest := by
  refine ((s.withLm lm dirty).mapCore_focus _).trans ?_
  simp [LCore.dropCopy, State.withLm, h.flight, State.copied]

theorem State.CopiesBytes.token : copyToken (r.doneAt n) 0 0 0 = Word.ofN (n * 2 ^ 32) := by
  have hn : n % 2 ^ 32 = n := Nat.mod_eq_of_lt (h.bytes.le.trans_lt (by decide))
  simp only [copyToken, CopyRun.doneAt, h.base, Nat.zero_add, Nat.zero_mul, Nat.add_zero, hn]

theorem Op.copyFinish_bytes : ∃ lm dirty, Op.copyFinish s.core.id 0 s = .ok ([],
      (s.copied lm dirty rest).copyEnd s.core.id r.cmd (Word.ofN (n * 2 ^ 32))) ∧
    ∀ p, lm.get p = (storedByte (refOffset r.shape.dst) n (s.core.lm.value (refOffset r.shape.src) n) (2 ^ n - 1) p).getD
      (s.core.lm.get p) := by
  have hflight : s.core.copyAt 0 = some r := by simp [LCore.copyAt, h.flight]
  have hready : (s.core.resident && !r.onRing) = true := by
    simp [h.quiet.1.1, CopyRun.onRing, h.bytes.srcRing, h.bytes.dstRing]
  obtain ⟨j, hjob, hag⟩ := State.copyJob_bytes h.bytes (s := s) r h.apart
  obtain ⟨lm, dirty, hwrite, hget⟩ := Op.engineWrite_own hag h.quiet h.wf h.bytes.dst (Memory.value_lt s.core.lm _ n)
  have hmove := Op.moveRows_bytes h.bytes hag h.quiet.2 hwrite
  refine ⟨lm, dirty, ?_, hget⟩
  refine (Op.bind_ok (Op.get_run s)).trans ((Op.get!_bind s.findCore_self _ s).trans ((Op.get!_bind hflight _ s).trans ?_))
  refine (Op.need_bind hready _ s).trans ?_
  simp only [h.bytes.rows, hjob]
  rw [← h.drops, ← h.token]
  exact (Op.bind_ok hmove).trans rfl

theorem State.copiesBytes_acts {x : Ctx} (hx : s.core.findCtx r.cmd.ctx = some x) (hl : s.unc.lines = [])
    (hsingle : s.Single s.core.id) :
    ∃ t, s.ActsTo (.copyComplete s.core.id 0) t ∧ t.core.copies = { s.core.copies with flight := rest } ∧
      (∀ j < n, t.localByte (refOffset r.shape.dst + j) = s.localByte (refOffset r.shape.src + j)) ∧
      s.SameLocalBut t (refOffset r.shape.dst) n ∧ t.HasToken s.core.id r.cmd.ctx r.cmd.tok (Word.ofN (n * 2 ^ 32)) ∧
      s.SameAround t := by
  obtain ⟨lm, dirty, hfinish, hget⟩ := Op.copyFinish_bytes h
  have hlines : (s.copied lm dirty rest).unc.lines = [] := hl
  have hcore := State.core_copyEnd (m := r.cmd) (Word.ofN (n * 2 ^ 32)) hlines
  have hbyte (p : Nat) : ((s.copied lm dirty rest).copyEnd s.core.id r.cmd (Word.ofN (n * 2 ^ 32))).localByte p = lm.get p :=
    congrArg (Memory.get · p) ((congrArg LCore.lm hcore).trans (LCore.mapCtx_lm ..))
  refine ⟨_, ⟨exec_copyComplete hsingle hfinish, rfl⟩,
    (congrArg LCore.copies hcore).trans (LCore.mapCtx_copies ..), fun j hj => ?_, fun p hp => ?_,
    State.hasToken_copyEnd _ (State.findCore_self _) hx hlines, State.sameAround_copyEnd _ hlines⟩
  · refine (hbyte _).trans ?_
    rw [hget, storedByte_inside _ _ hj (by simp [Nat.testBit_two_pow_sub_one, hj]), Memory.elemAt_value _ _ hj]
    exact BitVec.ofNat_toNat ..
  · refine (hbyte p).trans ?_
    rw [hget, storedByte_outside _ fun i hi _ => by omega]
    rfl

end

end Sys2Proof.Machine

open Sys2Proof Sys2Proof.Machine in
/-- Settles O48: a take by what its checks lead to, a copy within a sector by its one movement, and each other event by the run that it is
given. -/
theorem copyEvents : Obligations.CopyEvents := by
  unfold Obligations.CopyEvents
  refine ⟨?_, ?_, ?_, ?_, ?_, ?_⟩
  · intro s id c x m rest hc hx hres hroom hq ag refused
    have h : s.TakesCopy id c m rest := ⟨hc, hres, hroom, hq⟩
    exact ⟨fun hcpy hbits hl => State.takes_refused_copy h hx hl (Op.takeChecks_reserved s hcpy hbits),
      fun hcpy h63 h5 h2 hb hlow hl => State.takes_refused_copy h hx hl (Op.takeChecks_residual s hcpy h63 h5 h2 hb hlow),
      fun hcpy h63 h5 h2 hb ha hl => State.takes_refused_copy h hx hl (Op.takeChecks_record s hcpy h63 h5 h2 hb ha),
      fun cause operand hr hl => State.takes_refused_copy h hx hl hr,
      fun sh hr hz => State.takes_started_copy h hr hz,
      fun sh hr hz hl => State.takes_empty_copy h hx hl hr hz,
      fun s₁ => ⟨fun cause operand hr => ⟨exec_copyTake h hr rfl, rfl⟩,
        fun cause eaddr einfo precise hr => ⟨exec_copyTake h hr rfl, rfl⟩,
        fun sh hr hz => ⟨exec_copyTake h hr (congrArg some (if_pos hz)), rfl⟩,
        fun sh hr hz => State.takes_started_after h hr hz⟩⟩
  · intro s x r rest n hsingle hs hflight hx hf hm hl hbase hkind hlayout hsr hdr hd0 hd1 hn hsrc hdst hsfit hdfit hapart
    exact State.copiesBytes_acts ⟨⟨hs, hf⟩, hm, hflight, hbase,
      ⟨hkind, hlayout, hsr, hdr, hd0, hd1, ⟨hsrc, hn, hsfit⟩, ⟨hdst, hn, hdfit⟩⟩, hapart⟩ hx hl hsingle
  · intro s s₁ id place log hsingle
    exact ⟨fun h => ⟨exec_copyComplete hsingle h, rfl⟩,
      fun h => ⟨exec_copyRingSlotReady hsingle h, rfl⟩⟩
  · intro s id c x r place hsingle hc hr hx hres hring
    have h : s.Flies id c r place := ⟨hc, hr, hres⟩
    have hring : r.onRing = true := Bool.or_eq_true_iff.mpr hring
    refine ⟨fun hb hl => State.broken_copy_ends h hring hsingle hb hx hl, fun hb hsrc he => ?_, fun hb hsrc he => ?_⟩
    · refine exec_copyRingSlotReady_stall hsingle (Op.copySlot_waits h hring hb ?_)
      simp [CopyRun.slotReady, hsrc, he]
    · refine exec_copyRingSlotReady_stall hsingle (Op.copySlot_waits h hring hb ?_)
      simp [CopyRun.slotReady, hsrc, he]
  · intro s s₁ id c r place m operand desc ref hsingle hc hr hres hframe hsrc hdst hrun j hmove
    have h : s.Flies id c r place := ⟨hc, hr, hres⟩
    exact ⟨fun hb => ⟨exec_copyFrameFault hsingle
        (Op.copyFault_waits h hframe hsrc hdst hmove hb), rfl⟩,
      fun hb => ⟨exec_copyFrameFault hsingle
        (Op.copyFault_handsBack h hframe hsrc hdst hmove hb hrun), rfl⟩⟩
  · intro s s₁ id c r place m operand desc ref hsingle hc hr hres hframe hring ring rows at_ src dst j hb hfilled hroom hmove
    have h : s.Flies id c r place := ⟨hc, hr, hres⟩
    have hslot : r.slotReady (c.ring r.shape.ring) = true := by
      cases hs : r.shape.srcRing
      · simpa [CopyRun.slotReady, hs] using hroom hs
      · simpa [CopyRun.slotReady, hs] using hfilled hs
    exact ⟨exec_copyFrameFault hsingle
      (Op.copyFault_ring_waits h hframe (Bool.or_eq_true_iff.mpr hring) hb hslot rfl rfl rfl hmove), rfl⟩

end
